-- ==== Sys2Proof/Word.lean ====
section
/-!
DEFINITION. The word types of the Nimxon Eofold E2 and the map type that sparse storage uses.
Only names for types stand here (R5: bit 0 is the least significant bit of every value).
-/

namespace Sys2Proof

/-- One byte of memory. -/
abbrev Byte := BitVec 8
/-- One 32-bit slot word or vector lane (R29, R30). -/
abbrev Word32 := BitVec 32
/-- One 64-bit register value (R30). -/
abbrev Word64 := BitVec 64
/-- A 5-bit register specifier, decoded by R32. -/
abbrev Reg := BitVec 5
/-- A core number: die in bits 7:6, grove within the die in bits 5:4, core in bits 3:0 (R16). -/
abbrev CoreNum := BitVec 8
/-- A partition number (R21: at most 8 partitions). -/
abbrev PartNum := BitVec 3
/-- A module-wide grove number (R16). -/
abbrev GroveNum := BitVec 4
/-- A sparse table: keys strictly rising, no entry that holds the table's default value. -/
abbrev SMap (α : Type) := List (Nat × α)

end Sys2Proof
end

