-- ==== Sys2Proof/Config.lean ====
section
/-!
DEFINITION. What the Eofold E2 fixes (R512, R28), the sealed configuration this model names (DESIGN CHOICE, log 6), and the free
values: opaque constants without a body, so that no proof can see a value of them (log 2).
-/

namespace Sys2Proof.Config

/-- The capability identifiers that an Eofold E2 announces (R27, R28). -/
def caps : List (BitVec 12) := [0x001, 0x002, 0x003, 0x004, 0x005, 0x006, 0x007, 0x008, 0x009, 0x00A]

/-- droopctl.THRESH in millivolts: per module, 650 to 850 (R512). DESIGN CHOICE (log 6). -/
def thresh : BitVec 12 := 700#12
/-- dormctl.SEALRES in joules: per module, 100 to 250 (R512). DESIGN CHOICE (log 6). -/
def sealRes : BitVec 16 := 150#16
/-- dormstat.RESERVE at reset, in joules: measured (R505), rated 1,400 (R28). DESIGN CHOICE (log 6). -/
def reserve : BitVec 16 := 1400#16
/-- mustcap.UNITS: per module, at most 8,388,608 (R512). DESIGN CHOICE (log 6). -/
def mustCap : BitVec 24 := 0x7A1200#24
/-- Largest number of records that Glidin stores (R465). -/
def glidinStore : Nat := 4096

/-- Nanoseconds between two records of the clock: a free value (log 8). -/
opaque elapsed : Nat → Nat
/-- What another module answers when a run supplies no answer: a free value (log 2). -/
opaque remoteData : Nat → BitVec 64
/-- Whether another module refuses a read that an agent of a core waits for (R511): a free value (log 45). -/
opaque remoteRefused : Nat → Bool
/-- Whether another module's answer to such a read is poison, or does not come within TMO (R263): a free value (log 45). -/
opaque remotePoison : Nat → Bool
/-- Whether a queue unit without an answer, or an ACQ, has lost its write where it makes a read and a write (R290, R270): a free
value (log 53). -/
opaque writeLost : Nat → Bool
/-- Whether an indeterminate write of a queue has been performed (R231): a free value (log 53). -/
opaque writePerformed : Nat → Bool
/-- Whether a translation uses the entry that a TLB holds, where the tables have changed since (R399): a free value (log 103). -/
opaque tlbOld : Nat → Bool
/-- Whether a fetch uses the bundle that the core holds, where memory has changed since (R65, R272): a free value (log 104). -/
opaque fetchOld : Nat → Bool
/-- A transcendental result whose rounding the model's enclosure does not settle: a free value (log 11). -/
opaque transcendental : Nat → Nat → BitVec 32 → BitVec 32
/-- The level in the detail word of a store to a mapped block without W, where a walk does not tell it: a free value
(log 52). -/
opaque mapFaultLevel : Nat → BitVec 2
/-- Where the search for a free phaser index starts (R365 states no choice): a free value (log 28). -/
opaque phaserPick : Nat → Nat
/-- Where the walker's choice among the points not yet run starts (R336): a free value (log 29). -/
opaque walkPick : Nat → Nat
/-- A byte of the destination of an aborted migration, undefined by R406: a free value (log 2). -/
opaque migratedByte : Nat → Nat → BitVec 8
/-- A byte of a saved context's image in a record that R444 names and does not lay out: a free value (log 31). -/
opaque imageByte : Nat → Nat → BitVec 8
/-- grovepwr.FREQ, sampled by hardware (R378): a free value (log 2). -/
opaque freq : Nat → BitVec 16
/-- dormstat.RESERVE, measured at every moment (R505): a free value (log 2). -/
opaque reserveNow : Nat → BitVec 16
/-- The root secret of R413, which leaves the key unit by no path: a free value (log 2). -/
opaque rootSecret : BitVec 256
/-- Where the capability list of a start stands, not fixed on the E2 (R24): a free value (log 12). -/
opaque capOffset : Nat → Nat
/-- In which order the entries of that list stand, not fixed on the E2 (R24): a free value (log 12). -/
opaque capOrder : Nat → Nat
/-- How many 64 KiB units were drained when a grove's thermal level reached 3 (R479): a free value (log 2). -/
opaque drained : Nat → Nat
/-- The port over which a NACKed flit is resent: a free value; 36 and more name none (R308, log 2). -/
opaque retryPort : Nat → Nat
/-- Which core's turn comes next: a free value (log 10). -/
opaque nextCore : Nat → BitVec 8
/-- Which of the module's due steps comes before the next turn, if any: a free value (log 10). -/
opaque nextAgent : Nat → Nat
/-- The misses of a hotness window (R403): a free value (log 55). -/
opaque misses : Nat → BitVec 32
/-- Which groves pass step 6 of a start (R498): a free value (log 2). -/
opaque passed : Nat → BitVec 16
/-- The digest of a measured component (R414): a free value (log 2). -/
opaque measurement : BitVec 8 → BitVec 256

end Sys2Proof.Config
end

