-- ==== Sys2Proof/Syntax.lean ====
section
/-!
DEFINITION. The instructions: one constructor per row of spec/opcode_table.json. The rows with bits are slot words, whose
fields stand as the table names them (the slot that holds the word decides its map, R53). The rows without bits are the
steps of the module's other agents (spec/95_what_each_step_holds.md); what reaches them from outside stands as arguments.
-/

namespace Sys2Proof

/-- Who writes a configuration register: the host's physical function, Glidin, the supervisor code of a partition (R409),
or an agent of the module itself. -/
inductive Writer where
  | host
  | glidin
  | supervisor (part : PartNum)
  deriving DecidableEq, Repr

/-- An outstanding request of a context: a load, atomic or query by its number, the `i`-th outstanding
.g write, the unit of a queue, an .e write by its address, the `i`-th message sent, a launch-report message (R345), or the read or the
CAS of the ACQ that waits (R270). -/
inductive ReqRef where
  | load (id : Nat)
  | write (i : Nat)
  | unit (q : BitVec 4)
  | posted (addr : BitVec 56)
  | report (i : Nat)
  | lock (cas : Bool)
  deriving DecidableEq, Repr

/-- A fetch or queue unit held until its page is present (R208, R290). -/
inductive HeldRef where
  | window (h : BitVec 4)
  | queue (q : BitVec 4)
  deriving DecidableEq, Repr

/-- The operation of an atomic (R73). -/
inductive AtomOp where
  | add | swap | cas | and | or | xor | smin | smax
  deriving DecidableEq, Repr

/-- What a request from another module asks (R511). -/
inductive FabricKind where
  | read (bytes : BitVec 9)
  | write (data : List (BitVec 8)) (poison g : Bool)
  | atomic (op : AtomOp) (wide : Bool) (data cmp : BitVec 64)
  deriving DecidableEq, Repr

/-- A request from another module: its sender, the physical address here, what it asks, and whether the buffer that would
take it is full (R309). -/
structure FabricReq where
  src : BitVec 18
  pa : BitVec 52
  kind : FabricKind
  full : Bool
  deriving DecidableEq, Repr

/-- A snoop of the pool device (R313): the line it asks back, and what the sharer that asked then writes to the line at the
device, from a byte of it on (R324). -/
structure Snoop where
  line : BitVec 52
  write : Option (BitVec 6 × List (BitVec 8))
  deriving DecidableEq, Repr

/-- A droop trip (R198): the cycles below the threshold so far, and the tasks that ran on the grove in the 16 cycles before
the trip and are saved by now. -/
structure Trip where
  cycles : BitVec 64
  before : List (PartNum × BitVec 32 × Nat)
  deriving DecidableEq, Repr

/-- A host access through BAR 4 (R317, R421). -/
inductive HostAcc where
  | read (bytes : BitVec 7)
  | write (data : List (BitVec 8))
  deriving DecidableEq, Repr

/-- How a step of the start sequence ends (R498): well, or with a reason of R503. Step 5 hands over the sealed trims;
step 6 tells which groves passed. -/
inductive StartResult where
  | ok (groves : BitVec 16)
  | failed (reason : BitVec 8)
  deriving DecidableEq, Repr

/-- The instructions and steps of the table: the slot instructions in its order (SWPT after the others, then those without
fields: Lean's runtime builds at most 244 constructors with fields), then the steps of the other agents in its order. -/
inductive Instr where

  /-- ADD (R125). -/
  | add (d : Reg) (a : Reg) (b : Reg)
  /-- SUB (R125). -/
  | sub (d : Reg) (a : Reg) (b : Reg)
  /-- AND (R125). -/
  | and (d : Reg) (a : Reg) (b : Reg)
  /-- OR (R125). -/
  | or (d : Reg) (a : Reg) (b : Reg)
  /-- XOR (R125). -/
  | xor (d : Reg) (a : Reg) (b : Reg)
  /-- ANDN (R125). -/
  | andn (d : Reg) (a : Reg) (b : Reg)
  /-- SHL (R125). -/
  | shl (d : Reg) (a : Reg) (b : Reg)
  /-- SHR (R125). -/
  | shr (d : Reg) (a : Reg) (b : Reg)
  /-- SRA (R125). -/
  | sra (d : Reg) (a : Reg) (b : Reg)
  /-- ROTR (R125). -/
  | rotr (d : Reg) (a : Reg) (b : Reg)
  /-- MIN (R125). -/
  | min (d : Reg) (a : Reg) (b : Reg)
  /-- MAX (R125). -/
  | max (d : Reg) (a : Reg) (b : Reg)
  /-- MINU (R125). -/
  | minu (d : Reg) (a : Reg) (b : Reg)
  /-- MAXU (R125). -/
  | maxu (d : Reg) (a : Reg) (b : Reg)
  /-- MUL (R126). -/
  | mul (d : Reg) (a : Reg) (b : Reg)
  /-- MULH (R126). -/
  | mulh (d : Reg) (a : Reg) (b : Reg)
  /-- MULHU (R126). -/
  | mulhu (d : Reg) (a : Reg) (b : Reg)
  /-- EXT (R128). -/
  | ext (d : Reg) (a : Reg) (b : Reg)
  /-- EXTU (R128). -/
  | extu (d : Reg) (a : Reg) (b : Reg)
  /-- INS (R128). -/
  | ins (d : Reg) (a : Reg) (b : Reg)
  /-- CLZ (R129). -/
  | clz (d : Reg) (a : Reg)
  /-- CTZ (R129). -/
  | ctz (d : Reg) (a : Reg)
  /-- POPC (R129). -/
  | popc (d : Reg) (a : Reg)
  /-- BREV (R129). -/
  | brev (d : Reg) (a : Reg)
  /-- EXTI (R128). -/
  | exti (d : Reg) (s : Reg) (w : BitVec 6) (p : BitVec 6)
  /-- EXTUI (R128). -/
  | extui (d : Reg) (s : Reg) (w : BitVec 6) (p : BitVec 6)
  /-- INSI (R128). -/
  | insi (d : Reg) (s : Reg) (w : BitVec 6) (p : BitVec 6)
  /-- CMPEQ (R130). -/
  | cmpeq (d : Reg) (a : Reg) (b : Reg)
  /-- CMPNE (R130). -/
  | cmpne (d : Reg) (a : Reg) (b : Reg)
  /-- CMPLT (R130). -/
  | cmplt (d : Reg) (a : Reg) (b : Reg)
  /-- CMPLE (R130). -/
  | cmple (d : Reg) (a : Reg) (b : Reg)
  /-- CMPLTU (R130). -/
  | cmpltu (d : Reg) (a : Reg) (b : Reg)
  /-- CMPLEU (R130). -/
  | cmpleu (d : Reg) (a : Reg) (b : Reg)
  /-- SEL (R131). -/
  | sel (d : Reg) (a : Reg) (b : Reg)
  /-- ADDI (R127). -/
  | addi (d : Reg) (s : Reg) (i : BitVec 16)
  /-- ANDI (R127). -/
  | andi (d : Reg) (s : Reg) (i : BitVec 16)
  /-- ORI (R127). -/
  | ori (d : Reg) (s : Reg) (i : BitVec 16)
  /-- XORI (R127). -/
  | xori (d : Reg) (s : Reg) (i : BitVec 16)
  /-- SHLI (R127). -/
  | shli (d : Reg) (s : Reg) (n : BitVec 6)
  /-- SHRI (R127). -/
  | shri (d : Reg) (s : Reg) (n : BitVec 6)
  /-- SRAI (R127). -/
  | srai (d : Reg) (s : Reg) (n : BitVec 6)
  /-- ROTRI (R127). -/
  | rotri (d : Reg) (s : Reg) (n : BitVec 6)
  /-- LI (R127). -/
  | li (d : Reg) (i : BitVec 16)
  /-- LIU (R127). -/
  | liu (d : Reg) (s : Reg) (i : BitVec 16)
  /-- TAGP (R132). -/
  | tagp (d : Reg) (a : Reg)
  /-- TAGC (R132). -/
  | tagc (d : Reg) (a : Reg)
  /-- FADD_S (R133). -/
  | faddS (d : Reg) (a : Reg) (b : Reg) (r : BitVec 2)
  /-- FSUB_S (R133). -/
  | fsubS (d : Reg) (a : Reg) (b : Reg) (r : BitVec 2)
  /-- FMUL_S (R133). -/
  | fmulS (d : Reg) (a : Reg) (b : Reg) (r : BitVec 2)
  /-- FMA_S (R133). -/
  | fmaS (d : Reg) (a : Reg) (b : Reg) (r : BitVec 2)
  /-- FMIN_S (R133). -/
  | fminS (d : Reg) (a : Reg) (b : Reg)
  /-- FMAX_S (R133). -/
  | fmaxS (d : Reg) (a : Reg) (b : Reg)
  /-- FABS_S (R133). -/
  | fabsS (d : Reg) (a : Reg)
  /-- FNEG_S (R133). -/
  | fnegS (d : Reg) (a : Reg)
  /-- FCMPEQ_S (R133). -/
  | fcmpeqS (d : Reg) (a : Reg) (b : Reg)
  /-- FCMPLT_S (R133). -/
  | fcmpltS (d : Reg) (a : Reg) (b : Reg)
  /-- FCMPLE_S (R133). -/
  | fcmpleS (d : Reg) (a : Reg) (b : Reg)
  /-- FCMPUN_S (R133). -/
  | fcmpunS (d : Reg) (a : Reg) (b : Reg)
  /-- FADD_D (R133). -/
  | faddD (d : Reg) (a : Reg) (b : Reg) (r : BitVec 2)
  /-- FSUB_D (R133). -/
  | fsubD (d : Reg) (a : Reg) (b : Reg) (r : BitVec 2)
  /-- FMUL_D (R133). -/
  | fmulD (d : Reg) (a : Reg) (b : Reg) (r : BitVec 2)
  /-- FMA_D (R133). -/
  | fmaD (d : Reg) (a : Reg) (b : Reg) (r : BitVec 2)
  /-- FMIN_D (R133). -/
  | fminD (d : Reg) (a : Reg) (b : Reg)
  /-- FMAX_D (R133). -/
  | fmaxD (d : Reg) (a : Reg) (b : Reg)
  /-- FABS_D (R133). -/
  | fabsD (d : Reg) (a : Reg)
  /-- FNEG_D (R133). -/
  | fnegD (d : Reg) (a : Reg)
  /-- FCMPEQ_D (R133). -/
  | fcmpeqD (d : Reg) (a : Reg) (b : Reg)
  /-- FCMPLT_D (R133). -/
  | fcmpltD (d : Reg) (a : Reg) (b : Reg)
  /-- FCMPLE_D (R133). -/
  | fcmpleD (d : Reg) (a : Reg) (b : Reg)
  /-- FCMPUN_D (R133). -/
  | fcmpunD (d : Reg) (a : Reg) (b : Reg)
  /-- FCVT (R134). -/
  | fcvt (d : Reg) (a : Reg) (r : BitVec 2) (t : BitVec 4) (s : BitVec 4)
  /-- BR (R136). -/
  | br (o : BitVec 21)
  /-- BRZ (R136). -/
  | brz (t : Reg) (o : BitVec 21)
  /-- BRNZ (R136). -/
  | brnz (t : Reg) (o : BitVec 21)
  /-- CALL (R136). -/
  | call (t : Reg) (o : BitVec 21)
  /-- CHK (R139). -/
  | chk (t : Reg) (o : BitVec 21)
  /-- JR (R137). -/
  | jr (a : Reg)
  /-- RET (R137). -/
  | ret (a : Reg)
  /-- CALLR (R137). -/
  | callr (d : Reg) (a : Reg)
  /-- MOVM_WRITE_A (R140). -/
  | movmWriteA (s : Reg) (n : BitVec 6)
  /-- MOVM_READ (R141). -/
  | movmRead (d : Reg) (n : BitVec 6)
  /-- TRAP (R433). -/
  | trap (i : BitVec 16)
  /-- SVC (R433). -/
  | svc (i : BitVec 16)
  /-- CSRRD (R435). -/
  | csrrd (d : Reg) (n : BitVec 12)
  /-- CSRWR (R435). -/
  | csrwr (d : Reg) (s : Reg) (n : BitVec 12)
  /-- CSRSET (R435). -/
  | csrset (d : Reg) (s : Reg) (n : BitVec 12)
  /-- CSRCLR (R435). -/
  | csrclr (d : Reg) (s : Reg) (n : BitVec 12)
  /-- SEGBEG (R195). -/
  | segbeg (i : BitVec 16)
  /-- SEGEND (R196). -/
  | segend (a : Reg) (b : Reg)
  /-- LDS (R262). -/
  | lds (d : Reg) (b : Reg) (c : BitVec 3) (z : BitVec 2) (o : BitVec 10)
  /-- LDSX (R262). -/
  | ldsx (d : Reg) (b : Reg) (c : BitVec 3) (z : BitVec 2) (o : BitVec 10)
  /-- STS (R262). -/
  | sts (d : Reg) (b : Reg) (g : BitVec 1) (c : BitVec 3) (z : BitVec 2) (o : BitVec 10)
  /-- LDR (R262). -/
  | ldr (d : Reg) (b : Reg) (c : BitVec 3) (z : BitVec 2) (o : BitVec 10)
  /-- LDRX (R262). -/
  | ldrx (d : Reg) (b : Reg) (c : BitVec 3) (z : BitVec 2) (o : BitVec 10)
  /-- STR (R262). -/
  | str (d : Reg) (b : Reg) (g : BitVec 1) (c : BitVec 3) (z : BitVec 2) (o : BitVec 10)
  /-- LDG (R262). -/
  | ldg (d : Reg) (b : Reg) (c : BitVec 3) (z : BitVec 2) (o : BitVec 10)
  /-- LDGX (R262). -/
  | ldgx (d : Reg) (b : Reg) (c : BitVec 3) (z : BitVec 2) (o : BitVec 10)
  /-- STG (R262). -/
  | stg (d : Reg) (b : Reg) (g : BitVec 1) (c : BitVec 3) (z : BitVec 2) (o : BitVec 10)
  /-- LDGS (R264). -/
  | ldgs (d : Reg) (b : Reg) (c : BitVec 3) (z : BitVec 2) (o : BitVec 10)
  /-- LDGSX (R264). -/
  | ldgsx (d : Reg) (b : Reg) (c : BitVec 3) (z : BitVec 2) (o : BitVec 10)
  /-- LDK (R265). -/
  | ldk (d : Reg) (b : Reg) (z : BitVec 2) (o : BitVec 10)
  /-- ATS_ADD (R266). -/
  | atsAdd (d : Reg) (b : Reg) (g : BitVec 1) (c : BitVec 3) (z : BitVec 1)
  /-- ATS_SWAP (R266). -/
  | atsSwap (d : Reg) (b : Reg) (g : BitVec 1) (c : BitVec 3) (z : BitVec 1)
  /-- ATS_CAS (R266). -/
  | atsCas (d : Reg) (b : Reg) (i : Reg) (g : BitVec 1) (c : BitVec 3) (z : BitVec 1)
  /-- ATS_AND (R266). -/
  | atsAnd (d : Reg) (b : Reg) (g : BitVec 1) (c : BitVec 3) (z : BitVec 1)
  /-- ATS_OR (R266). -/
  | atsOr (d : Reg) (b : Reg) (g : BitVec 1) (c : BitVec 3) (z : BitVec 1)
  /-- ATS_XOR (R266). -/
  | atsXor (d : Reg) (b : Reg) (g : BitVec 1) (c : BitVec 3) (z : BitVec 1)
  /-- ATS_SMIN (R266). -/
  | atsSmin (d : Reg) (b : Reg) (g : BitVec 1) (c : BitVec 3) (z : BitVec 1)
  /-- ATS_SMAX (R266). -/
  | atsSmax (d : Reg) (b : Reg) (g : BitVec 1) (c : BitVec 3) (z : BitVec 1)
  /-- ATR_ADD (R266). -/
  | atrAdd (d : Reg) (b : Reg) (g : BitVec 1) (c : BitVec 3) (z : BitVec 1)
  /-- ATR_SWAP (R266). -/
  | atrSwap (d : Reg) (b : Reg) (g : BitVec 1) (c : BitVec 3) (z : BitVec 1)
  /-- ATR_CAS (R266). -/
  | atrCas (d : Reg) (b : Reg) (i : Reg) (g : BitVec 1) (c : BitVec 3) (z : BitVec 1)
  /-- ATR_AND (R266). -/
  | atrAnd (d : Reg) (b : Reg) (g : BitVec 1) (c : BitVec 3) (z : BitVec 1)
  /-- ATR_OR (R266). -/
  | atrOr (d : Reg) (b : Reg) (g : BitVec 1) (c : BitVec 3) (z : BitVec 1)
  /-- ATR_XOR (R266). -/
  | atrXor (d : Reg) (b : Reg) (g : BitVec 1) (c : BitVec 3) (z : BitVec 1)
  /-- ATR_SMIN (R266). -/
  | atrSmin (d : Reg) (b : Reg) (g : BitVec 1) (c : BitVec 3) (z : BitVec 1)
  /-- ATR_SMAX (R266). -/
  | atrSmax (d : Reg) (b : Reg) (g : BitVec 1) (c : BitVec 3) (z : BitVec 1)
  /-- ATG_ADD (R266). -/
  | atgAdd (d : Reg) (b : Reg) (g : BitVec 1) (c : BitVec 3) (z : BitVec 1)
  /-- ATG_SWAP (R266). -/
  | atgSwap (d : Reg) (b : Reg) (g : BitVec 1) (c : BitVec 3) (z : BitVec 1)
  /-- ATG_CAS (R266). -/
  | atgCas (d : Reg) (b : Reg) (i : Reg) (g : BitVec 1) (c : BitVec 3) (z : BitVec 1)
  /-- ATG_AND (R266). -/
  | atgAnd (d : Reg) (b : Reg) (g : BitVec 1) (c : BitVec 3) (z : BitVec 1)
  /-- ATG_OR (R266). -/
  | atgOr (d : Reg) (b : Reg) (g : BitVec 1) (c : BitVec 3) (z : BitVec 1)
  /-- ATG_XOR (R266). -/
  | atgXor (d : Reg) (b : Reg) (g : BitVec 1) (c : BitVec 3) (z : BitVec 1)
  /-- ATG_SMIN (R266). -/
  | atgSmin (d : Reg) (b : Reg) (g : BitVec 1) (c : BitVec 3) (z : BitVec 1)
  /-- ATG_SMAX (R266). -/
  | atgSmax (d : Reg) (b : Reg) (g : BitVec 1) (c : BitVec 3) (z : BitVec 1)
  /-- FENCE (R269). -/
  | fence (s : BitVec 3)
  /-- ACQ (R270). -/
  | acq (b : Reg) (s : BitVec 3)
  /-- REL (R271). -/
  | rel (b : Reg) (g : BitVec 1) (s : BitVec 3)
  /-- RINGSET (R274). -/
  | ringset (a : Reg) (h : BitVec 4)
  /-- RNEED (R275). -/
  | rneed (a : Reg) (h : BitVec 4)
  /-- RFREE (R275). -/
  | rfree (a : Reg) (h : BitVec 4)
  /-- RADV (R276). -/
  | radv (a : Reg) (h : BitVec 4)
  /-- RPUB (R276). -/
  | rpub (a : Reg) (h : BitVec 4)
  /-- RRD (R277). -/
  | rrd (d : Reg) (h : BitVec 4)
  /-- WINSET (R279). -/
  | winset (a : Reg) (h : BitVec 4)
  /-- WINADV (R280). -/
  | winadv (a : Reg) (h : BitVec 4)
  /-- MAPSET (R282). -/
  | mapset (a : Reg) (m : BitVec 4)
  /-- MAPFLUSH (R283). -/
  | mapflush (m : BitVec 4)
  /-- MAPINV (R283). -/
  | mapinv (m : BitVec 4)
  /-- MCFILL (R285). -/
  | mcfill (d : Reg) (b : Reg) (i : Reg) (c : BitVec 3)
  /-- WBL (R287). -/
  | wbl (b : Reg) (c : BitVec 3)
  /-- INVL (R287). -/
  | invl (b : Reg) (c : BitVec 3)
  /-- WBINVL (R287). -/
  | wbinvl (b : Reg) (c : BitVec 3)
  /-- QCOPY (R299). -/
  | qcopy (q : BitVec 4) (a : Reg) (c : Reg) (s : BitVec 1)
  /-- QGATH (R299). -/
  | qgath (q : BitVec 4) (a : Reg) (b : Reg) (c : Reg) (s : BitVec 1)
  /-- QSCAT (R299). -/
  | qscat (q : BitVec 4) (a : Reg) (b : Reg) (c : Reg) (s : BitVec 1)
  /-- QFILL (R299). -/
  | qfill (q : BitVec 4) (a : Reg) (c : Reg) (s : BitVec 1)
  /-- QDEC (R300). -/
  | qdec (q : BitVec 4) (a : Reg) (c : Reg) (s : BitVec 1)
  /-- QENC (R301). -/
  | qenc (q : BitVec 4) (a : Reg) (c : Reg) (s : BitVec 1)
  /-- QCOLL (R302). -/
  | qcoll (q : BitVec 4) (a : Reg) (c : Reg) (s : BitVec 1)
  /-- QJOIN (R305). -/
  | qjoin (q : BitVec 4) (a : Reg) (c : Reg) (s : BitVec 1)
  /-- QSIG (R305). -/
  | qsig (q : BitVec 4) (c : Reg)
  /-- QSTAT (R306). -/
  | qstat (q : BitVec 4) (d : Reg) (b : Reg)
  /-- MOVM_WRITE_B (R71). -/
  | movmWriteB (s : Reg) (n : BitVec 6)
  /-- VADD (R149). -/
  | vadd (d : Reg) (a : Reg) (b : Reg) (k : BitVec 3) (t : BitVec 4) (m : BitVec 2)
  /-- VSUB (R149). -/
  | vsub (d : Reg) (a : Reg) (b : Reg) (k : BitVec 3) (t : BitVec 4) (m : BitVec 2)
  /-- VMUL (R149). -/
  | vmul (d : Reg) (a : Reg) (b : Reg) (k : BitVec 3) (t : BitVec 4) (m : BitVec 2)
  /-- VFMA (R149). -/
  | vfma (d : Reg) (a : Reg) (b : Reg) (k : BitVec 3) (t : BitVec 4) (m : BitVec 2)
  /-- VMIN (R149). -/
  | vmin (d : Reg) (a : Reg) (b : Reg) (k : BitVec 3) (t : BitVec 4)
  /-- VMAX (R149). -/
  | vmax (d : Reg) (a : Reg) (b : Reg) (k : BitVec 3) (t : BitVec 4)
  /-- VABS (R149). -/
  | vabs (d : Reg) (a : Reg) (k : BitVec 3) (t : BitVec 4) (m : BitVec 2)
  /-- VNEG (R149). -/
  | vneg (d : Reg) (a : Reg) (k : BitVec 3) (t : BitVec 4) (m : BitVec 2)
  /-- VCMPEQ (R151). -/
  | vcmpeq (d : Reg) (a : Reg) (b : Reg) (k : BitVec 3) (t : BitVec 4)
  /-- VCMPNE (R151). -/
  | vcmpne (d : Reg) (a : Reg) (b : Reg) (k : BitVec 3) (t : BitVec 4)
  /-- VCMPLT (R151). -/
  | vcmplt (d : Reg) (a : Reg) (b : Reg) (k : BitVec 3) (t : BitVec 4)
  /-- VCMPLE (R151). -/
  | vcmple (d : Reg) (a : Reg) (b : Reg) (k : BitVec 3) (t : BitVec 4)
  /-- VSEL (R152). -/
  | vsel (d : Reg) (a : Reg) (b : Reg) (k : BitVec 3)
  /-- VEXP2 (R153). -/
  | vexp2 (d : Reg) (a : Reg) (k : BitVec 3) (t : BitVec 4)
  /-- VLOG2 (R153). -/
  | vlog2 (d : Reg) (a : Reg) (k : BitVec 3) (t : BitVec 4)
  /-- VRCP (R153). -/
  | vrcp (d : Reg) (a : Reg) (k : BitVec 3) (t : BitVec 4)
  /-- VRSQ (R153). -/
  | vrsq (d : Reg) (a : Reg) (k : BitVec 3) (t : BitVec 4)
  /-- VSIN (R153). -/
  | vsin (d : Reg) (a : Reg) (k : BitVec 3) (t : BitVec 4)
  /-- VCOS (R153). -/
  | vcos (d : Reg) (a : Reg) (k : BitVec 3) (t : BitVec 4)
  /-- VTANH (R153). -/
  | vtanh (d : Reg) (a : Reg) (k : BitVec 3) (t : BitVec 4)
  /-- VSIGM (R153). -/
  | vsigm (d : Reg) (a : Reg) (k : BitVec 3) (t : BitVec 4)
  /-- VAND (R154). -/
  | vand (d : Reg) (a : Reg) (b : Reg) (k : BitVec 3)
  /-- VOR (R154). -/
  | vor (d : Reg) (a : Reg) (b : Reg) (k : BitVec 3)
  /-- VXOR (R154). -/
  | vxor (d : Reg) (a : Reg) (b : Reg) (k : BitVec 3)
  /-- VANDN (R154). -/
  | vandn (d : Reg) (a : Reg) (b : Reg) (k : BitVec 3)
  /-- VNOT (R154). -/
  | vnot (d : Reg) (a : Reg) (k : BitVec 3)
  /-- VSHL (R155). -/
  | vshl (d : Reg) (a : Reg) (b : Reg) (k : BitVec 3) (t : BitVec 4)
  /-- VSHR (R155). -/
  | vshr (d : Reg) (a : Reg) (b : Reg) (k : BitVec 3) (t : BitVec 4)
  /-- VSRA (R155). -/
  | vsra (d : Reg) (a : Reg) (b : Reg) (k : BitVec 3) (t : BitVec 4)
  /-- VROTL (R155). -/
  | vrotl (d : Reg) (a : Reg) (b : Reg) (k : BitVec 3) (t : BitVec 4)
  /-- VCVT (R156). -/
  | vcvt (d : Reg) (s : Reg) (t : BitVec 4) (u : BitVec 4) (r : BitVec 3)
  /-- VPACK (R158). -/
  | vpack (d : Reg) (a : Reg) (b : Reg) (k : BitVec 3) (t : BitVec 4)
  /-- VUNPKL (R158). -/
  | vunpkl (d : Reg) (a : Reg) (k : BitVec 3) (t : BitVec 4)
  /-- VUNPKH (R158). -/
  | vunpkh (d : Reg) (a : Reg) (k : BitVec 3) (t : BitVec 4)
  /-- VPERM (R159). -/
  | vperm (d : Reg) (a : Reg) (b : Reg) (k : BitVec 3)
  /-- VBCAST (R159). -/
  | vbcast (d : Reg) (a : Reg) (b : Reg) (k : BitVec 3)
  /-- VSLIDEUP (R159). -/
  | vslideup (d : Reg) (a : Reg) (b : Reg) (k : BitVec 3)
  /-- VSLIDEDN (R159). -/
  | vslidedn (d : Reg) (a : Reg) (b : Reg) (k : BitVec 3)
  /-- VREV (R159). -/
  | vrev (d : Reg) (a : Reg) (k : BitVec 3)
  /-- VSPLAT (R159). -/
  | vsplat (d : Reg) (a : Reg) (k : BitVec 3)
  /-- VSCANI (R160). -/
  | vscani (d : Reg) (a : Reg) (k : BitVec 3) (t : BitVec 4)
  /-- VSCANX (R160). -/
  | vscanx (d : Reg) (a : Reg) (k : BitVec 3) (t : BitVec 4)
  /-- VSCANMAX (R160). -/
  | vscanmax (d : Reg) (a : Reg) (k : BitVec 3) (t : BitVec 4)
  /-- VSCANMIN (R160). -/
  | vscanmin (d : Reg) (a : Reg) (k : BitVec 3) (t : BitVec 4)
  /-- VREDADD (R161). -/
  | vredadd (d : Reg) (a : Reg) (k : BitVec 3) (t : BitVec 4)
  /-- VREDMIN (R161). -/
  | vredmin (d : Reg) (a : Reg) (k : BitVec 3) (t : BitVec 4)
  /-- VREDMAX (R161). -/
  | vredmax (d : Reg) (a : Reg) (k : BitVec 3) (t : BitVec 4)
  /-- VREDAND (R161). -/
  | vredand (d : Reg) (a : Reg) (k : BitVec 3) (t : BitVec 4)
  /-- VREDOR (R161). -/
  | vredor (d : Reg) (a : Reg) (k : BitVec 3) (t : BitVec 4)
  /-- VREDXOR (R161). -/
  | vredxor (d : Reg) (a : Reg) (k : BitVec 3) (t : BitVec 4)
  /-- KAND (R162). -/
  | kand (d : Reg) (a : Reg) (b : Reg)
  /-- KOR (R162). -/
  | kor (d : Reg) (a : Reg) (b : Reg)
  /-- KXOR (R162). -/
  | kxor (d : Reg) (a : Reg) (b : Reg)
  /-- KANDN (R162). -/
  | kandn (d : Reg) (a : Reg) (b : Reg)
  /-- KNOT (R162). -/
  | knot (d : Reg) (a : Reg)
  /-- KPOP (R162). -/
  | kpop (d : Reg) (a : Reg)
  /-- KFIRST (R162). -/
  | kfirst (d : Reg) (a : Reg)
  /-- KFROMV (R163). -/
  | kfromv (d : Reg) (a : Reg)
  /-- KTOV (R162). -/
  | ktov (d : Reg) (a : Reg)
  /-- VLDS (R166). -/
  | vlds (d : Reg) (s : Reg) (i : BitVec 16)
  /-- VLDSP (R166). -/
  | vldsp (d : Reg) (s : Reg) (i : BitVec 16)
  /-- VSTS (R167). -/
  | vsts (a : Reg) (b : Reg) (k : BitVec 3)
  /-- VGATH (R168). -/
  | vgath (d : Reg) (a : Reg) (b : Reg) (k : BitVec 3)
  /-- VSCAT (R168). -/
  | vscat (d : Reg) (a : Reg) (b : Reg) (k : BitVec 3)
  /-- VRRD (R169). -/
  | vrrd (d : Reg) (k : BitVec 3) (h : BitVec 4)
  /-- VATOMADD (R170). -/
  | vatomadd (d : Reg) (a : Reg) (b : Reg) (k : BitVec 3)
  /-- MOVM_WRITE_C (R71). -/
  | movmWriteC (s : Reg) (j : BitVec 5) (n : BitVec 6)
  /-- MMA (R180). -/
  | mma (d : Reg) (a : Reg) (n : BitVec 1) (f : BitVec 1) (w : BitVec 2)
  /-- MMAB (R183). -/
  | mmab (d : Reg) (a : Reg) (n : BitVec 1) (f : BitVec 1) (w : BitVec 2)
  /-- BLOAD (R178). -/
  | bload (a : Reg) (w : BitVec 2)
  /-- BCLR (R179). -/
  | bclr (w : BitVec 2)
  /-- FMTW (R177). -/
  | fmtw (b : BitVec 4) (a : BitVec 4)
  /-- DZERO (R184). -/
  | dzero (d : Reg)
  /-- DMOV (R184). -/
  | dmov (d : Reg) (a : Reg)
  /-- DADD (R184). -/
  | dadd (d : Reg) (a : Reg) (b : Reg)
  /-- DSCL (R185). -/
  | dscl (d : Reg) (s : BitVec 8)
  /-- DCVT (R186). -/
  | dcvt (d : Reg) (a : Reg) (r : BitVec 2) (f : BitVec 4)
  /-- DRD (R187). -/
  | drd (d : Reg) (a : Reg) (b : Reg)
  /-- DWR (R187). -/
  | dwr (d : Reg) (a : Reg) (b : Reg)
  /-- MSTAT (R188). -/
  | mstat (d : Reg) (s : BitVec 4)
  /-- PHNEW (R365). -/
  | phnew (d : Reg) (a : Reg) (b : Reg)
  /-- PHREG (R366). -/
  | phreg (a : Reg) (m : BitVec 2)
  /-- PHDROP (R366). -/
  | phdrop (a : Reg)
  /-- PHSIG (R367). -/
  | phsig (a : Reg)
  /-- PHWAIT (R368). -/
  | phwait (a : Reg)
  /-- PHSW (R368). -/
  | phsw (a : Reg)
  /-- PHQRY (R369). -/
  | phqry (d : Reg) (a : Reg) (b : Reg)
  /-- LAUNCH (R372). -/
  | launch (a : Reg)
  /-- LEASE (R374). -/
  | lease (a : Reg)
  /-- MOVM_WRITE_D (R71). -/
  | movmWriteD (s : Reg) (n : BitVec 6)
  /-- SWPT (R373). -/
  | swpt (n : BitVec 12)
  /-- NOP (R54). -/
  | nop
  /-- RFT (R434). -/
  | rft
  /-- HALT (R434). -/
  | halt
  /-- IFENCE (R272). -/
  | ifence
  /-- TEND (R370). -/
  | tend
  /-- TASKEND (R371). -/
  | taskend
  /-- LEASEREL (R374). -/
  | leaserel
  /-- BUNDLE_ISSUE (R66): the core fetches, decodes and reads the operands of its next bundle. -/
  | bundleIssue (core : CoreNum)
  /-- ACQ_POLL (R270): a waiting ACQ reads its lock word again. -/
  | acqPoll (core : CoreNum)
  /-- WINDOW_ROW_ARRIVAL (R206): the next fetched row of a handle's window arrives. -/
  | windowRowArrival (core : CoreNum) (h : BitVec 4)
  /-- MAP_FILL (R210): an empty granule of a mapped region is filled. -/
  | mapFill (core : CoreNum) (map : BitVec 4) (granule : BitVec 9)
  /-- QUEUE_UNIT_DONE (R296): the next transfer unit of a queue's head entry is performed. `remote` is what
  another module answers when the unit reads there (R290), each byte with its poison mark. -/
  | queueUnitDone (core : CoreNum) (q : BitVec 4) (remote : List (BitVec 8 × Bool))
  /-- QUEUE_ENTRY_COMPLETE (R288): the head entry of a queue completes. -/
  | queueEntryComplete (core : CoreNum) (q : BitVec 4)
  /-- COLLECTIVE_CONTRIBUTION (R302): a member's contribution to a step of a group arrives, element by element
  with its poison mark. -/
  | collectiveContribution (part : PartNum) (group : BitVec 10) (step : BitVec 32) (rank : BitVec 16)
      (elems : List (BitVec 128 × Bool))
  /-- GROUP_TIMEOUT (R303): the group timeout of a queue's QCOLL head expires. -/
  | groupTimeout (core : CoreNum) (q : BitVec 4)
  /-- MMA_DELIVERY_END (R384): the stripes of a core end the delivery of a matrix instruction's planes. -/
  | mmaDeliveryEnd (core : CoreNum)
  /-- PHASE_COMPLETE (R361): the engine completes the open phase of a phaser. -/
  | phaseComplete (eng : BitVec 4) (idx : BitVec 12)
  /-- PHASE_ANNOUNCE (R362): another instance of a fabric-scope phaser tells its phase, and whether the
  condition of R361 holds for it there. -/
  | phaseAnnounce (eng : BitVec 4) (idx : BitVec 12) (rank : BitVec 16) (phase : BitVec 32) (ready : Bool)
  /-- LEASE_DECISION (R380): the grove decides a pending lease request. -/
  | leaseDecision (core : CoreNum)
  /-- LEASE_EXPIRY (R381): a lease whose budget is spent ends. -/
  | leaseExpiry (core : CoreNum)
  /-- SLEW_STEP (R383): a step boundary of the grove's slew limiter. -/
  | slewStep (grove : GroveNum)
  /-- LOAD_COMPLETE (R42): an outstanding scoreboarded result arrives. `data` and `poison` are the answer of
  another module, used only when the request went there. -/
  | loadComplete (core : CoreNum) (id : Nat) (data : BitVec 64) (poison : Bool)
  /-- WRITE_ACKNOWLEDGED (R229): the acknowledgement of a context's `i`-th outstanding .g write arrives. -/
  | writeAcknowledged (core : CoreNum) (i : Nat)
  /-- REQUEST_TIMEOUT (R230): an outstanding request gets no answer within TMO. -/
  | requestTimeout (core : CoreNum) (req : ReqRef)
  /-- NACK_RESEND (R309): a request answered with a NACK is sent again. -/
  | nackResend (core : CoreNum) (req : ReqRef) (code : BitVec 4)
  /-- DORMANT_RETRY (R486): a request answered with dormant-retry is sent again and its TMO count restarts. -/
  | dormantRetry (core : CoreNum) (req : ReqRef)
  /-- FABRIC_REQUEST (R511): a request of another module reaches this one. -/
  | fabricRequest (r : FabricReq)
  /-- REFUSED_RESPONSE (R511): the target refuses an outstanding request. -/
  | refusedResponse (core : CoreNum) (req : ReqRef)
  /-- FABRIC_LINK_TRAINED (R512): a fabric port has trained with its partner. -/
  | fabricLinkTrained (port : BitVec 6)
  /-- FABPORT_WRITE (R308): a write to a port's fabport register. -/
  | fabportWrite (by_ : Writer) (port : BitVec 6) (v : BitVec 32)
  /-- MODID_WRITE (R23). -/
  | modidWrite (by_ : Writer) (v : BitVec 32)
  /-- CXL_LINK_LOSS (R314): CXL port 0 or 1 loses its link. -/
  | cxlLinkLoss (port : BitVec 1)
  /-- BACK_INVALIDATION_SNOOP (R313): the pool device asks for a 64-byte line back, which another sharer may then
  write there. -/
  | backInvalidationSnoop (line : Snoop)
  /-- POOLQ_WRITE_BACK (R315): a poolq write with OP 1. -/
  | poolqWriteBack (by_ : Writer) (v : BitVec 64)
  /-- POOLQ_DISCARD (R315): a poolq write with OP 2. -/
  | poolqDiscard (by_ : Writer) (v : BitVec 64)
  /-- POOLQ_DONE (R315): the poolq operation finishes. -/
  | poolqDone
  /-- HOST_WINDOW_ACCESS (R421): a host TLP through BAR 4, at an offset of its 64 GiB (R317). -/
  | hostWindowAccess (part : PartNum) (off : BitVec 36) (acc : HostAcc) (tbit : Bool)
  /-- UNTAGGED_TLP (R417): a TLP without the T bit to a partition's interface. -/
  | untaggedTlp (part : PartNum) (write : Bool)
  /-- LAUNCH_PORT_WRITE (R342): a host write to BAR 2 at a byte offset. -/
  | launchPortWrite (off : BitVec 15) (bytes : List (BitVec 8))
  /-- LAUNCH_MESSAGE (R344): a 16-byte envelope and a 64-byte packet from the fabric or Ethernet. -/
  | launchMessage (env : List (BitVec 8)) (pkt : List (BitVec 8))
  /-- LAUNCH_REPORT_MESSAGE (R345): a 48-byte launch-report message. -/
  | launchReportMessage (msg : List (BitVec 8))
  /-- ADMISSION (R348): the scheduler checks its chosen head. -/
  | admission (part : PartNum)
  /-- DISPATCH (R352): a ready task is started or restored on an idle core. -/
  | dispatch (part : PartNum) (core : CoreNum)
  /-- QUANTUM_EXPIRY (R354): the quantum of a core's context expires. -/
  | quantumExpiry (core : CoreNum)
  /-- AGING_STEP (R353): a ready task has waited one more AGE interval. -/
  | agingStep (part : PartNum) (lid : BitVec 32) (sidx : Nat)
  /-- LONG_WAIT_SWAP (R355): a context has waited LONGWAIT. -/
  | longWaitSwap (core : CoreNum)
  /-- PFDONE_RETRY (R356): a pfdone write without TRAP. -/
  | pfdoneRetry (by_ : Writer) (part : PartNum) (v : BitVec 64)
  /-- PFDONE_TRAP (R356): a pfdone write with TRAP. -/
  | pfdoneTrap (by_ : Writer) (part : PartNum) (v : BitVec 64)
  /-- SCHEDKILL (R358). -/
  | schedkill (by_ : Writer) (part : PartNum) (v : BitVec 64)
  /-- EVQBASE_WRITE (R385). -/
  | evqbaseWrite (by_ : Writer) (part : PartNum) (v : BitVec 64)
  /-- GROVEPWR_WRITE (R378). -/
  | grovepwrWrite (by_ : Writer) (grove : GroveNum) (v : BitVec 64)
  /-- THERM_CHANGE (R378): the sensors move a grove's thermal level; `reading` is in 0.1 degrees. -/
  | thermChange (grove : GroveNum) (level : BitVec 2) (reading : BitVec 64)
  /-- DROOP_TRIP (R198): the droop detector of a grove trips. -/
  | droopTrip (grove : GroveNum) (cycles : Trip)
  /-- DROOP_WINDOW_END (R198). -/
  | droopWindowEnd (grove : GroveNum)
  /-- ROW_IDLE_TIMER (R217): the idle timer of a bank of an HBM stack expires. -/
  | rowIdleTimer (stack : BitVec 3) (bank : Nat) (hitQueued : Bool)
  /-- INVALIDATE (R402): an invctl write with GO. -/
  | invalidate (by_ : Writer) (part : PartNum) (v : BitVec 64)
  /-- INVALIDATE_ALL (R402): an invctl write with GO and ALL. -/
  | invalidateAll (by_ : Writer) (part : PartNum) (v : BitVec 64)
  /-- INVALIDATE_FLUSH (R402): an invctl write with GO and FLUSH. -/
  | invalidateFlush (by_ : Writer) (part : PartNum) (v : BitVec 64)
  /-- INVALIDATION_COMPLETE (R402). -/
  | invalidationComplete (part : PartNum)
  /-- HOTNESS_WINDOW (R403): a window of lookups in a range ends with this many misses. -/
  | hotnessWindow (part : PartNum) (lid : BitVec 32) (range : BitVec 6) (misses : BitVec 32)
  /-- MIGRATION_GO (R405): a migctl write with GO. -/
  | migrationGo (by_ : Writer) (part : PartNum) (v : BitVec 64)
  /-- MIGRATION_SWITCH (R406). -/
  | migrationSwitch (part : PartNum)
  /-- MIGRATION_DONE (R406). -/
  | migrationDone (part : PartNum)
  /-- MIGRATION_ABORTED (R406): by a severed copy or, with `lost`, by a lost duplicate write. -/
  | migrationAborted (part : PartNum) (lost : Bool)
  /-- PARTCTL_WRITE (R408). -/
  | partctlWrite (by_ : Writer) (part : PartNum) (v : BitVec 64)
  /-- PARTITION_TEARDOWN (R408): a partctl write that clears EN. -/
  | partitionTeardown (by_ : Writer) (part : PartNum) (v : BitVec 64)
  /-- GROVE_CHANGE_DONE (R408). -/
  | groveChangeDone (part : PartNum)
  /-- CFGSEL_WRITE (R410). -/
  | cfgselWrite (by_ : Writer) (part : PartNum) (v : BitVec 64)
  /-- CFGDATA_WRITE (R410). -/
  | cfgdataWrite (by_ : Writer) (part : PartNum) (v : BitVec 64)
  /-- OWNER_CHANGE (R411): a memown write. -/
  | ownerChange (by_ : Writer) (v : BitVec 64)
  /-- OWNER_CHANGE_DONE (R411). -/
  | ownerChangeDone
  /-- LOCK_INTERFACE (R416). -/
  | lockInterface (part : PartNum)
  /-- GET_DEVICE_INTERFACE_REPORT (R416). -/
  | getDeviceInterfaceReport (part : PartNum)
  /-- START_INTERFACE (R416). -/
  | startInterface (part : PartNum)
  /-- STOP_INTERFACE (R416). -/
  | stopInterface (part : PartNum)
  /-- KEYSET (R418). -/
  | keyset (part : PartNum) (slot : BitVec 8) (lid : BitVec 32) (digest key : BitVec 256)
  /-- OWNSET (R418). -/
  | ownset (part : PartNum) (entry : BitVec 8) (base : BitVec 52) (units : BitVec 32) (lid : BitVec 32)
  /-- KEYCLR (R418): of a key slot, or of an owner range. -/
  | keyclr (part : PartNum) (range : Bool) (index : BitVec 8)
  /-- SPDM_REQUEST (R414): a standard SPDM request by its code. -/
  | spdmRequest (code : BitVec 8) (payload : List (BitVec 8))
  /-- IDE_KM (R415): a key of an IDE stream (0 the link, 1 physical function 0, 2 + n partition n). -/
  | ideKm (stream : BitVec 4) (key : BitVec 256)
  /-- ELIDE_SET (R455): an elidemap write that sets bits. -/
  | elideSet (by_ : Writer) (v : BitVec 64)
  /-- ELIDE_CLEAR (R455): an elidemap write that clears bits. -/
  | elideClear (by_ : Writer) (v : BitVec 64)
  /-- CHECKPOINT_BOUNDARY (R458): PERIOD has passed, or (`full`) the log region is full. -/
  | checkpointBoundary (part : PartNum) (full : Bool)
  /-- ROLLBACK (R461): the crown controller rolls a waiting context back. -/
  | rollback (part : PartNum) (lid : BitVec 32) (sidx : Nat)
  /-- POWER_FAIL_WARNING (R467): from the input monitor, or from the rack power shelf. -/
  | powerFailWarning (shelf : Bool)
  /-- DORMCTL_TEST (R468). -/
  | dormctlTest (by_ : Writer) (v : BitVec 64)
  /-- DORMCTL_DISCARD (R468). -/
  | dormctlDiscard (by_ : Writer) (v : BitVec 64)
  /-- STOP_PHASE_END (R469). -/
  | stopPhaseEnd
  /-- WRITE_BACK_DONE (R469). -/
  | writeBackDone
  /-- DRAIN_DONE (R479). -/
  | drainDone
  /-- RESERVE_AT_SEALRES (R479): the reserve reaches SEALRES; `units` 64 KiB units were drained. -/
  | reserveAtSealres (units : Nat)
  /-- SEAL_WRITTEN (R478). -/
  | sealWritten
  /-- RESERVE_SPENT (R470). -/
  | reserveSpent
  /-- HARD_THERMAL_TRIP (R479). -/
  | hardThermalTrip
  /-- SUPPLY_LOSS (R499). -/
  | supplyLoss
  /-- RESERVE_CHARGED (R505). -/
  | reserveCharged
  /-- BROWN_OUT_CHANGE (R484): the input monitor's brown-out level moves. -/
  | brownOutChange (level : BitVec 2)
  /-- BROWN_FALL_HELD (R484). -/
  | brownFallHeld
  /-- DIE_SHED (R485). -/
  | dieShed (die : BitVec 2)
  /-- DIE_RESTORE (R485). -/
  | dieRestore (die : BitVec 2)
  /-- CUT_TAKE (R488): a cutctl write with GO and OP 1. -/
  | cutTake (by_ : Writer) (v : BitVec 64)
  /-- CUT_RESTORE (R491): a cutctl write with GO and OP 2. -/
  | cutRestore (by_ : Writer) (v : BitVec 64)
  /-- CUT_ABORT (R488): a cutctl write with GO and OP 3. -/
  | cutAbort (by_ : Writer) (v : BitVec 64)
  /-- CUT_DONE (R490): the cut is written, or its storage target was not reachable. -/
  | cutDone (reachable : Bool)
  /-- POWER_ON (R498). -/
  | powerOn
  /-- FUNDAMENTAL_RESET (R498). -/
  | fundamentalReset
  /-- FULL_START (R500): a startctl write. -/
  | fullStart (by_ : Writer) (v : BitVec 64)
  /-- START_STEP (R498): the step in progress ends, well or with a failure; step 6 tells the groves that passed. -/
  | startStep (res : StartResult)
  /-- START_TIMEOUT (R498). -/
  | startTimeout
  /-- REGISTER_WRITE (R8): a write of 4 or 8 bytes to the trunk configuration space. -/
  | registerWrite (by_ : Writer) (off : BitVec 16) (wide : Bool) (v : BitVec 64)
  /-- READ_CLEAR (R8): a read of a register with RC fields, at an offset of configuration space or, with `bar2`, of the launch
  ports (R343). -/
  | readClear (by_ : Writer) (bar2 : Bool) (off : BitVec 16)
  /-- CXL_LINK_TRAINED (R315). -/
  | cxlLinkTrained (port : BitVec 1)
  /-- PAGE_WAIT_RETRY (R290): a held window fetch or queue unit is translated again. -/
  | pageWaitRetry (core : CoreNum) (held : HeldRef)
  /-- PORT_MODULE_LOSES_VALID (R311). -/
  | portModuleLosesValid (port : BitVec 6)
  /-- AUXILIARY_SUPPLY_LOSS (R500). -/
  | auxiliarySupplyLoss
  deriving DecidableEq, Repr

end Sys2Proof
end

