-- ==== Sys2Proof/Decode.lean ====
section
/-!
DEFINITION. Decoding and encoding of slot words and bundles. One operand table says which field of an instruction names a
register and in what role (R32, R121, R144, R258, R77); legality, ports and scoreboard checks all read it. A word is refused
with the lowest case of R62 that it breaks (R63). The encoder is written from the same fields of R55 and R70 to R77.
-/

namespace Sys2Proof

/-- The four slots (R29). -/
inductive Slot where
  | a | b | c | d
  deriving DecidableEq, Repr

/-- The number of a slot: A is 0 (R426, R428). -/
def Slot.num : Slot → BitVec 2
  | .a => 0 | .b => 1 | .c => 2 | .d => 3

/-- The role of a register field. -/
inductive OpKind where
  /-- Slot A source: 0-19 or 23 (R121). -/
  | srcA
  /-- Slot A destination: 0-16 or 23. -/
  | dstA
  /-- Slot A destination limited to a0-a15. -/
  | gprA
  /-- Slot A destination that is also read, a0-a15 (R128, R131, R133). -/
  | rwA
  /-- CHK's operand: 0-19 (R136). -/
  | chkA
  /-- Slot B source: 0-23 (R258). -/
  | srcB
  /-- Slot B fixed-latency destination: 0-16 or 23. -/
  | dstB
  /-- Slot B scoreboarded destination: 0-15 or 23. -/
  | varB
  /-- Slot B operand read and written: 0-15. -/
  | rwB
  /-- Slot C vector source: 0-19 or 23 (R144). -/
  | srcC
  /-- Slot C destination: 0-16 or 23. -/
  | dstC
  /-- Slot C scoreboarded destination: 0-16 or 23. -/
  | varC
  /-- Slot C destination that is also read: 0-15 (R149). -/
  | rwC
  /-- Slot C scalar position: 0-23 (R145). -/
  | sclC
  /-- Slot C destination of a mask form: 0-16 (R162). -/
  | dstK
  /-- A mask read by name, k0-k7. -/
  | mskS
  /-- A mask written by name, k0-k7. -/
  | mskD
  /-- A tile read as a source (R175). -/
  | tileS
  /-- A tile written. -/
  | tileD
  /-- Slot D scalar source: 16-23 (R77). -/
  | srcD
  /-- Slot D scalar destination: 16 or 23. -/
  | dstD
  /-- Source of slot D's MOVM: 16-19 or 23 (R71). -/
  | mvD
  deriving DecidableEq, Repr

/-- The case of R62 that a value breaks in a role, if any: 4 for a value that R32 forbids there, 9 for one that the entry
leaves out. A lane mask named as a destination by 17 to 22 counts as a value that the entry leaves out (log 48). -/
def OpKind.illegal (k : OpKind) (v : Reg) : Option Nat :=
  let n := v.toNat
  if 24 ≤ n then some 4 else
  match k with
  | .srcA => if 20 ≤ n && n ≤ 22 then some 4 else none
  | .dstA | .dstB | .dstC | .varC => if 17 ≤ n && n ≤ 22 then some 4 else none
  | .gprA | .rwA | .rwB | .rwC => if 17 ≤ n && n ≤ 22 then some 4 else if 16 ≤ n then some 9 else none
  | .chkA => if 20 ≤ n && n ≤ 22 then some 4 else if n = 23 then some 9 else none
  | .srcB | .sclC => none
  | .varB => if 17 ≤ n && n ≤ 22 then some 4 else if n = 16 then some 9 else none
  | .srcC => if 20 ≤ n && n ≤ 22 then some 4 else none
  | .dstK => if 17 ≤ n && n ≤ 22 then some 4 else if n = 23 then some 9 else none
  | .mskS | .mskD => if 8 ≤ n then some 9 else none
  | .tileS | .tileD => if 8 ≤ n then some 4 else none
  | .srcD => if n < 16 then some 4 else none
  | .dstD => if n = 16 || n = 23 then none else some 4
  | .mvD => if n < 16 then some 4 else if 20 ≤ n && n ≤ 22 then some 9 else none

/-- Whether a role reads its register. -/
def OpKind.reads : OpKind → Bool
  | .srcA | .rwA | .chkA | .srcB | .rwB | .srcC | .rwC | .sclC | .mskS | .tileS | .srcD | .mvD => true
  | _ => false

/-- Whether a role writes its register. -/
def OpKind.writes : OpKind → Bool
  | .dstA | .gprA | .rwA | .dstB | .varB | .rwB | .dstC | .varC | .rwC | .dstK | .mskD | .tileD | .dstD => true
  | _ => false

/-- Whether a role may name a port (R35). -/
def OpKind.port : OpKind → Bool
  | .srcB | .sclC | .srcD | .mvD => true
  | _ => false


/-- The register fields of an instruction with their roles, in the order of the encoding. -/
def Instr.operands : Instr → List (OpKind × Reg)
  | .add d a b => [(.dstA, d), (.srcA, a), (.srcA, b)]
  | .sub d a b => [(.dstA, d), (.srcA, a), (.srcA, b)]
  | .and d a b => [(.dstA, d), (.srcA, a), (.srcA, b)]
  | .or d a b => [(.dstA, d), (.srcA, a), (.srcA, b)]
  | .xor d a b => [(.dstA, d), (.srcA, a), (.srcA, b)]
  | .andn d a b => [(.dstA, d), (.srcA, a), (.srcA, b)]
  | .shl d a b => [(.dstA, d), (.srcA, a), (.srcA, b)]
  | .shr d a b => [(.dstA, d), (.srcA, a), (.srcA, b)]
  | .sra d a b => [(.dstA, d), (.srcA, a), (.srcA, b)]
  | .rotr d a b => [(.dstA, d), (.srcA, a), (.srcA, b)]
  | .min d a b => [(.dstA, d), (.srcA, a), (.srcA, b)]
  | .max d a b => [(.dstA, d), (.srcA, a), (.srcA, b)]
  | .minu d a b => [(.dstA, d), (.srcA, a), (.srcA, b)]
  | .maxu d a b => [(.dstA, d), (.srcA, a), (.srcA, b)]
  | .mul d a b => [(.dstA, d), (.srcA, a), (.srcA, b)]
  | .mulh d a b => [(.dstA, d), (.srcA, a), (.srcA, b)]
  | .mulhu d a b => [(.dstA, d), (.srcA, a), (.srcA, b)]
  | .ext d a b => [(.dstA, d), (.srcA, a), (.srcA, b)]
  | .extu d a b => [(.dstA, d), (.srcA, a), (.srcA, b)]
  | .ins d a b => [(.rwA, d), (.srcA, a), (.srcA, b)]
  | .clz d a => [(.dstA, d), (.srcA, a)]
  | .ctz d a => [(.dstA, d), (.srcA, a)]
  | .popc d a => [(.dstA, d), (.srcA, a)]
  | .brev d a => [(.dstA, d), (.srcA, a)]
  | .exti d s _ _ => [(.dstA, d), (.srcA, s)]
  | .extui d s _ _ => [(.dstA, d), (.srcA, s)]
  | .insi d s _ _ => [(.rwA, d), (.srcA, s)]
  | .cmpeq d a b => [(.dstA, d), (.srcA, a), (.srcA, b)]
  | .cmpne d a b => [(.dstA, d), (.srcA, a), (.srcA, b)]
  | .cmplt d a b => [(.dstA, d), (.srcA, a), (.srcA, b)]
  | .cmple d a b => [(.dstA, d), (.srcA, a), (.srcA, b)]
  | .cmpltu d a b => [(.dstA, d), (.srcA, a), (.srcA, b)]
  | .cmpleu d a b => [(.dstA, d), (.srcA, a), (.srcA, b)]
  | .sel d a b => [(.rwA, d), (.srcA, a), (.srcA, b)]
  | .addi d s _ => [(.dstA, d), (.srcA, s)]
  | .andi d s _ => [(.dstA, d), (.srcA, s)]
  | .ori d s _ => [(.dstA, d), (.srcA, s)]
  | .xori d s _ => [(.dstA, d), (.srcA, s)]
  | .shli d s _ => [(.dstA, d), (.srcA, s)]
  | .shri d s _ => [(.dstA, d), (.srcA, s)]
  | .srai d s _ => [(.dstA, d), (.srcA, s)]
  | .rotri d s _ => [(.dstA, d), (.srcA, s)]
  | .li d _ => [(.dstA, d)]
  | .liu d s _ => [(.dstA, d), (.srcA, s)]
  | .tagp d a => [(.dstA, d), (.srcA, a)]
  | .tagc d a => [(.dstA, d), (.srcA, a)]
  | .faddS d a b _ => [(.dstA, d), (.srcA, a), (.srcA, b)]
  | .fsubS d a b _ => [(.dstA, d), (.srcA, a), (.srcA, b)]
  | .fmulS d a b _ => [(.dstA, d), (.srcA, a), (.srcA, b)]
  | .fmaS d a b _ => [(.rwA, d), (.srcA, a), (.srcA, b)]
  | .fminS d a b => [(.dstA, d), (.srcA, a), (.srcA, b)]
  | .fmaxS d a b => [(.dstA, d), (.srcA, a), (.srcA, b)]
  | .fabsS d a => [(.dstA, d), (.srcA, a)]
  | .fnegS d a => [(.dstA, d), (.srcA, a)]
  | .fcmpeqS d a b => [(.dstA, d), (.srcA, a), (.srcA, b)]
  | .fcmpltS d a b => [(.dstA, d), (.srcA, a), (.srcA, b)]
  | .fcmpleS d a b => [(.dstA, d), (.srcA, a), (.srcA, b)]
  | .fcmpunS d a b => [(.dstA, d), (.srcA, a), (.srcA, b)]
  | .faddD d a b _ => [(.dstA, d), (.srcA, a), (.srcA, b)]
  | .fsubD d a b _ => [(.dstA, d), (.srcA, a), (.srcA, b)]
  | .fmulD d a b _ => [(.dstA, d), (.srcA, a), (.srcA, b)]
  | .fmaD d a b _ => [(.rwA, d), (.srcA, a), (.srcA, b)]
  | .fminD d a b => [(.dstA, d), (.srcA, a), (.srcA, b)]
  | .fmaxD d a b => [(.dstA, d), (.srcA, a), (.srcA, b)]
  | .fabsD d a => [(.dstA, d), (.srcA, a)]
  | .fnegD d a => [(.dstA, d), (.srcA, a)]
  | .fcmpeqD d a b => [(.dstA, d), (.srcA, a), (.srcA, b)]
  | .fcmpltD d a b => [(.dstA, d), (.srcA, a), (.srcA, b)]
  | .fcmpleD d a b => [(.dstA, d), (.srcA, a), (.srcA, b)]
  | .fcmpunD d a b => [(.dstA, d), (.srcA, a), (.srcA, b)]
  | .fcvt d a _ _ _ => [(.dstA, d), (.srcA, a)]
  | .brz t _ => [(.srcA, t)]
  | .brnz t _ => [(.srcA, t)]
  | .call t _ => [(.gprA, t)]
  | .chk t _ => [(.chkA, t)]
  | .jr a => [(.srcA, a)]
  | .ret a => [(.srcA, a)]
  | .callr d a => [(.gprA, d), (.srcA, a)]
  | .movmWriteA s _ => [(.srcA, s)]
  | .movmRead d _ => [(.gprA, d)]
  | .csrrd d _ => [(.dstA, d)]
  | .csrwr d s _ => [(.dstA, d), (.srcA, s)]
  | .csrset d s _ => [(.dstA, d), (.srcA, s)]
  | .csrclr d s _ => [(.dstA, d), (.srcA, s)]
  | .segend a b => [(.srcA, a), (.srcA, b)]
  | .lds d b _ _ _ => [(.dstB, d), (.srcB, b)]
  | .ldsx d b _ _ _ => [(.dstB, d), (.srcB, b)]
  | .sts d b _ _ _ _ => [(.srcB, d), (.srcB, b)]
  | .ldr d b _ _ _ => [(.varB, d), (.srcB, b)]
  | .ldrx d b _ _ _ => [(.varB, d), (.srcB, b)]
  | .str d b _ _ _ _ => [(.srcB, d), (.srcB, b)]
  | .ldg d b _ _ _ => [(.varB, d), (.srcB, b)]
  | .ldgx d b _ _ _ => [(.varB, d), (.srcB, b)]
  | .stg d b _ _ _ _ => [(.srcB, d), (.srcB, b)]
  | .ldgs d b _ _ _ => [(.varB, d), (.srcB, b)]
  | .ldgsx d b _ _ _ => [(.varB, d), (.srcB, b)]
  | .ldk d b _ _ => [(.dstB, d), (.srcB, b)]
  | .atsAdd d b _ _ _ => [(.rwB, d), (.srcB, b)]
  | .atsSwap d b _ _ _ => [(.rwB, d), (.srcB, b)]
  | .atsCas d b i _ _ _ => [(.rwB, d), (.srcB, b), (.srcB, i)]
  | .atsAnd d b _ _ _ => [(.rwB, d), (.srcB, b)]
  | .atsOr d b _ _ _ => [(.rwB, d), (.srcB, b)]
  | .atsXor d b _ _ _ => [(.rwB, d), (.srcB, b)]
  | .atsSmin d b _ _ _ => [(.rwB, d), (.srcB, b)]
  | .atsSmax d b _ _ _ => [(.rwB, d), (.srcB, b)]
  | .atrAdd d b _ _ _ => [(.rwB, d), (.srcB, b)]
  | .atrSwap d b _ _ _ => [(.rwB, d), (.srcB, b)]
  | .atrCas d b i _ _ _ => [(.rwB, d), (.srcB, b), (.srcB, i)]
  | .atrAnd d b _ _ _ => [(.rwB, d), (.srcB, b)]
  | .atrOr d b _ _ _ => [(.rwB, d), (.srcB, b)]
  | .atrXor d b _ _ _ => [(.rwB, d), (.srcB, b)]
  | .atrSmin d b _ _ _ => [(.rwB, d), (.srcB, b)]
  | .atrSmax d b _ _ _ => [(.rwB, d), (.srcB, b)]
  | .atgAdd d b _ _ _ => [(.rwB, d), (.srcB, b)]
  | .atgSwap d b _ _ _ => [(.rwB, d), (.srcB, b)]
  | .atgCas d b i _ _ _ => [(.rwB, d), (.srcB, b), (.srcB, i)]
  | .atgAnd d b _ _ _ => [(.rwB, d), (.srcB, b)]
  | .atgOr d b _ _ _ => [(.rwB, d), (.srcB, b)]
  | .atgXor d b _ _ _ => [(.rwB, d), (.srcB, b)]
  | .atgSmin d b _ _ _ => [(.rwB, d), (.srcB, b)]
  | .atgSmax d b _ _ _ => [(.rwB, d), (.srcB, b)]
  | .acq b _ => [(.srcB, b)]
  | .rel b _ _ => [(.srcB, b)]
  | .ringset a _ => [(.srcB, a)]
  | .rneed a _ => [(.srcB, a)]
  | .rfree a _ => [(.srcB, a)]
  | .radv a _ => [(.srcB, a)]
  | .rpub a _ => [(.srcB, a)]
  | .rrd d _ => [(.varB, d)]
  | .winset a _ => [(.srcB, a)]
  | .winadv a _ => [(.srcB, a)]
  | .mapset a _ => [(.srcB, a)]
  | .mcfill d b i _ => [(.srcB, d), (.srcB, b), (.srcB, i)]
  | .wbl b _ => [(.srcB, b)]
  | .invl b _ => [(.srcB, b)]
  | .wbinvl b _ => [(.srcB, b)]
  | .qcopy _ a c _ => [(.srcB, a), (.srcB, c)]
  | .qgath _ a b c _ => [(.srcB, a), (.srcB, b), (.srcB, c)]
  | .qscat _ a b c _ => [(.srcB, a), (.srcB, b), (.srcB, c)]
  | .qfill _ a c _ => [(.srcB, a), (.srcB, c)]
  | .qdec _ a c _ => [(.srcB, a), (.srcB, c)]
  | .qenc _ a c _ => [(.srcB, a), (.srcB, c)]
  | .qcoll _ a c _ => [(.srcB, a), (.srcB, c)]
  | .qjoin _ a c _ => [(.srcB, a), (.srcB, c)]
  | .qsig _ c => [(.srcB, c)]
  | .qstat _ d b => [(.dstB, d), (.srcB, b)]
  | .movmWriteB s _ => [(.srcB, s)]
  | .vadd d a b _ _ _ => [(.dstC, d), (.srcC, a), (.srcC, b)]
  | .vsub d a b _ _ _ => [(.dstC, d), (.srcC, a), (.srcC, b)]
  | .vmul d a b _ _ _ => [(.dstC, d), (.srcC, a), (.srcC, b)]
  | .vfma d a b _ _ _ => [(.rwC, d), (.srcC, a), (.srcC, b)]
  | .vmin d a b _ _ => [(.dstC, d), (.srcC, a), (.srcC, b)]
  | .vmax d a b _ _ => [(.dstC, d), (.srcC, a), (.srcC, b)]
  | .vabs d a _ _ _ => [(.dstC, d), (.srcC, a)]
  | .vneg d a _ _ _ => [(.dstC, d), (.srcC, a)]
  | .vcmpeq d a b _ _ => [(.mskD, d), (.srcC, a), (.srcC, b)]
  | .vcmpne d a b _ _ => [(.mskD, d), (.srcC, a), (.srcC, b)]
  | .vcmplt d a b _ _ => [(.mskD, d), (.srcC, a), (.srcC, b)]
  | .vcmple d a b _ _ => [(.mskD, d), (.srcC, a), (.srcC, b)]
  | .vsel d a b _ => [(.dstC, d), (.srcC, a), (.srcC, b)]
  | .vexp2 d a _ _ => [(.dstC, d), (.srcC, a)]
  | .vlog2 d a _ _ => [(.dstC, d), (.srcC, a)]
  | .vrcp d a _ _ => [(.dstC, d), (.srcC, a)]
  | .vrsq d a _ _ => [(.dstC, d), (.srcC, a)]
  | .vsin d a _ _ => [(.dstC, d), (.srcC, a)]
  | .vcos d a _ _ => [(.dstC, d), (.srcC, a)]
  | .vtanh d a _ _ => [(.dstC, d), (.srcC, a)]
  | .vsigm d a _ _ => [(.dstC, d), (.srcC, a)]
  | .vand d a b _ => [(.dstC, d), (.srcC, a), (.srcC, b)]
  | .vor d a b _ => [(.dstC, d), (.srcC, a), (.srcC, b)]
  | .vxor d a b _ => [(.dstC, d), (.srcC, a), (.srcC, b)]
  | .vandn d a b _ => [(.dstC, d), (.srcC, a), (.srcC, b)]
  | .vnot d a _ => [(.dstC, d), (.srcC, a)]
  | .vshl d a b _ _ => [(.dstC, d), (.srcC, a), (.srcC, b)]
  | .vshr d a b _ _ => [(.dstC, d), (.srcC, a), (.srcC, b)]
  | .vsra d a b _ _ => [(.dstC, d), (.srcC, a), (.srcC, b)]
  | .vrotl d a b _ _ => [(.dstC, d), (.srcC, a), (.srcC, b)]
  | .vcvt d s _ _ _ => [(.dstC, d), (.srcC, s)]
  | .vpack d a b _ _ => [(.dstC, d), (.srcC, a), (.srcC, b)]
  | .vunpkl d a _ _ => [(.dstC, d), (.srcC, a)]
  | .vunpkh d a _ _ => [(.dstC, d), (.srcC, a)]
  | .vperm d a b _ => [(.dstC, d), (.srcC, a), (.srcC, b)]
  | .vbcast d a b _ => [(.dstC, d), (.srcC, a), (.srcC, b)]
  | .vslideup d a b _ => [(.dstC, d), (.srcC, a), (.srcC, b)]
  | .vslidedn d a b _ => [(.dstC, d), (.srcC, a), (.srcC, b)]
  | .vrev d a _ => [(.dstC, d), (.srcC, a)]
  | .vsplat d a _ => [(.dstC, d), (.sclC, a)]
  | .vscani d a _ _ => [(.dstC, d), (.srcC, a)]
  | .vscanx d a _ _ => [(.dstC, d), (.srcC, a)]
  | .vscanmax d a _ _ => [(.dstC, d), (.srcC, a)]
  | .vscanmin d a _ _ => [(.dstC, d), (.srcC, a)]
  | .vredadd d a _ _ => [(.dstC, d), (.srcC, a)]
  | .vredmin d a _ _ => [(.dstC, d), (.srcC, a)]
  | .vredmax d a _ _ => [(.dstC, d), (.srcC, a)]
  | .vredand d a _ _ => [(.dstC, d), (.srcC, a)]
  | .vredor d a _ _ => [(.dstC, d), (.srcC, a)]
  | .vredxor d a _ _ => [(.dstC, d), (.srcC, a)]
  | .kand d a b => [(.mskD, d), (.mskS, a), (.mskS, b)]
  | .kor d a b => [(.mskD, d), (.mskS, a), (.mskS, b)]
  | .kxor d a b => [(.mskD, d), (.mskS, a), (.mskS, b)]
  | .kandn d a b => [(.mskD, d), (.mskS, a), (.mskS, b)]
  | .knot d a => [(.mskD, d), (.mskS, a)]
  | .kpop d a => [(.dstK, d), (.mskS, a)]
  | .kfirst d a => [(.dstK, d), (.mskS, a)]
  | .kfromv d a => [(.mskD, d), (.srcC, a)]
  | .ktov d a => [(.dstK, d), (.mskS, a)]
  | .vlds d s _ => [(.dstC, d), (.sclC, s)]
  | .vldsp d s _ => [(.dstC, d), (.sclC, s)]
  | .vsts a b _ => [(.srcC, a), (.sclC, b)]
  | .vgath d a b _ => [(.varC, d), (.sclC, a), (.srcC, b)]
  | .vscat d a b _ => [(.srcC, d), (.sclC, a), (.srcC, b)]
  | .vrrd d _ _ => [(.varC, d)]
  | .vatomadd d a b _ => [(.varC, d), (.sclC, a), (.srcC, b)]
  | .movmWriteC s _ _ => [(.srcC, s)]
  | .mma d a _ _ _ => [(.tileD, d), (.srcD, a)]
  | .mmab d a _ _ _ => [(.tileD, d), (.srcD, a)]
  | .bload a _ => [(.srcD, a)]
  | .dzero d => [(.tileD, d)]
  | .dmov d a => [(.tileD, d), (.tileS, a)]
  | .dadd d a b => [(.tileD, d), (.tileS, a), (.tileS, b)]
  | .dscl d _ => [(.tileD, d)]
  | .dcvt d a _ _ => [(.tileD, d), (.tileS, a)]
  | .drd d a b => [(.dstD, d), (.tileS, a), (.srcD, b)]
  | .dwr d a b => [(.tileD, d), (.srcD, a), (.srcD, b)]
  | .mstat d _ => [(.dstD, d)]
  | .phnew d a b => [(.dstD, d), (.srcD, a), (.srcD, b)]
  | .phreg a _ => [(.srcD, a)]
  | .phdrop a => [(.srcD, a)]
  | .phsig a => [(.srcD, a)]
  | .phwait a => [(.srcD, a)]
  | .phsw a => [(.srcD, a)]
  | .phqry d a b => [(.dstD, d), (.srcD, a), (.srcD, b)]
  | .launch a => [(.srcD, a)]
  | .lease a => [(.srcD, a)]
  | .movmWriteD s _ => [(.mvD, s)]
  | _ => []

/-- The slot and the word of an instruction (R55, R70 to R77); a step of another agent has no word. NOP stands in slot A. -/
def encode : Instr → Option (Slot × BitVec 32)
  | .nop => some (.a, 0x0#32)
  | .add d a b => some (.a, 0x1#6 ++ d ++ a ++ b ++ 0x0#11)
  | .sub d a b => some (.a, 0x1#6 ++ d ++ a ++ b ++ 0x1#11)
  | .and d a b => some (.a, 0x1#6 ++ d ++ a ++ b ++ 0x2#11)
  | .or d a b => some (.a, 0x1#6 ++ d ++ a ++ b ++ 0x3#11)
  | .xor d a b => some (.a, 0x1#6 ++ d ++ a ++ b ++ 0x4#11)
  | .andn d a b => some (.a, 0x1#6 ++ d ++ a ++ b ++ 0x5#11)
  | .shl d a b => some (.a, 0x1#6 ++ d ++ a ++ b ++ 0x6#11)
  | .shr d a b => some (.a, 0x1#6 ++ d ++ a ++ b ++ 0x7#11)
  | .sra d a b => some (.a, 0x1#6 ++ d ++ a ++ b ++ 0x8#11)
  | .rotr d a b => some (.a, 0x1#6 ++ d ++ a ++ b ++ 0x9#11)
  | .min d a b => some (.a, 0x1#6 ++ d ++ a ++ b ++ 0xA#11)
  | .max d a b => some (.a, 0x1#6 ++ d ++ a ++ b ++ 0xB#11)
  | .minu d a b => some (.a, 0x1#6 ++ d ++ a ++ b ++ 0xC#11)
  | .maxu d a b => some (.a, 0x1#6 ++ d ++ a ++ b ++ 0xD#11)
  | .mul d a b => some (.a, 0x2#6 ++ d ++ a ++ b ++ 0x0#11)
  | .mulh d a b => some (.a, 0x2#6 ++ d ++ a ++ b ++ 0x1#11)
  | .mulhu d a b => some (.a, 0x2#6 ++ d ++ a ++ b ++ 0x2#11)
  | .ext d a b => some (.a, 0x3#6 ++ d ++ a ++ b ++ 0x0#11)
  | .extu d a b => some (.a, 0x3#6 ++ d ++ a ++ b ++ 0x1#11)
  | .ins d a b => some (.a, 0x3#6 ++ d ++ a ++ b ++ 0x2#11)
  | .clz d a => some (.a, 0x3#6 ++ d ++ a ++ 0xB803#16)
  | .ctz d a => some (.a, 0x3#6 ++ d ++ a ++ 0xB804#16)
  | .popc d a => some (.a, 0x3#6 ++ d ++ a ++ 0xB805#16)
  | .brev d a => some (.a, 0x3#6 ++ d ++ a ++ 0xB806#16)
  | .exti d s w p => some (.a, 0x4#6 ++ d ++ s ++ 0x0#4 ++ w ++ p)
  | .extui d s w p => some (.a, 0x4#6 ++ d ++ s ++ 0x1#4 ++ w ++ p)
  | .insi d s w p => some (.a, 0x4#6 ++ d ++ s ++ 0x2#4 ++ w ++ p)
  | .cmpeq d a b => some (.a, 0x5#6 ++ d ++ a ++ b ++ 0x0#11)
  | .cmpne d a b => some (.a, 0x5#6 ++ d ++ a ++ b ++ 0x1#11)
  | .cmplt d a b => some (.a, 0x5#6 ++ d ++ a ++ b ++ 0x2#11)
  | .cmple d a b => some (.a, 0x5#6 ++ d ++ a ++ b ++ 0x3#11)
  | .cmpltu d a b => some (.a, 0x5#6 ++ d ++ a ++ b ++ 0x4#11)
  | .cmpleu d a b => some (.a, 0x5#6 ++ d ++ a ++ b ++ 0x5#11)
  | .sel d a b => some (.a, 0x6#6 ++ d ++ a ++ b ++ 0x0#11)
  | .addi d s i => some (.a, 0x8#6 ++ d ++ s ++ i)
  | .andi d s i => some (.a, 0x9#6 ++ d ++ s ++ i)
  | .ori d s i => some (.a, 0xA#6 ++ d ++ s ++ i)
  | .xori d s i => some (.a, 0xB#6 ++ d ++ s ++ i)
  | .shli d s n => some (.a, 0xC#6 ++ d ++ s ++ 0x0#10 ++ n)
  | .shri d s n => some (.a, 0xC#6 ++ d ++ s ++ 0x1#10 ++ n)
  | .srai d s n => some (.a, 0xC#6 ++ d ++ s ++ 0x2#10 ++ n)
  | .rotri d s n => some (.a, 0xC#6 ++ d ++ s ++ 0x3#10 ++ n)
  | .li d i => some (.a, 0xE#6 ++ d ++ 0x17#5 ++ i)
  | .liu d s i => some (.a, 0xF#6 ++ d ++ s ++ i)
  | .tagp d a => some (.a, 0x14#6 ++ d ++ a ++ 0xB800#16)
  | .tagc d a => some (.a, 0x14#6 ++ d ++ a ++ 0xB801#16)
  | .faddS d a b r => some (.a, 0x18#6 ++ d ++ a ++ b ++ 0x0#5 ++ r ++ 0x0#4)
  | .fsubS d a b r => some (.a, 0x18#6 ++ d ++ a ++ b ++ 0x0#5 ++ r ++ 0x1#4)
  | .fmulS d a b r => some (.a, 0x18#6 ++ d ++ a ++ b ++ 0x0#5 ++ r ++ 0x2#4)
  | .fmaS d a b r => some (.a, 0x18#6 ++ d ++ a ++ b ++ 0x0#5 ++ r ++ 0x3#4)
  | .fminS d a b => some (.a, 0x18#6 ++ d ++ a ++ b ++ 0x4#11)
  | .fmaxS d a b => some (.a, 0x18#6 ++ d ++ a ++ b ++ 0x5#11)
  | .fabsS d a => some (.a, 0x18#6 ++ d ++ a ++ 0xB806#16)
  | .fnegS d a => some (.a, 0x18#6 ++ d ++ a ++ 0xB807#16)
  | .fcmpeqS d a b => some (.a, 0x18#6 ++ d ++ a ++ b ++ 0x8#11)
  | .fcmpltS d a b => some (.a, 0x18#6 ++ d ++ a ++ b ++ 0x9#11)
  | .fcmpleS d a b => some (.a, 0x18#6 ++ d ++ a ++ b ++ 0xA#11)
  | .fcmpunS d a b => some (.a, 0x18#6 ++ d ++ a ++ b ++ 0xB#11)
  | .faddD d a b r => some (.a, 0x19#6 ++ d ++ a ++ b ++ 0x0#5 ++ r ++ 0x0#4)
  | .fsubD d a b r => some (.a, 0x19#6 ++ d ++ a ++ b ++ 0x0#5 ++ r ++ 0x1#4)
  | .fmulD d a b r => some (.a, 0x19#6 ++ d ++ a ++ b ++ 0x0#5 ++ r ++ 0x2#4)
  | .fmaD d a b r => some (.a, 0x19#6 ++ d ++ a ++ b ++ 0x0#5 ++ r ++ 0x3#4)
  | .fminD d a b => some (.a, 0x19#6 ++ d ++ a ++ b ++ 0x4#11)
  | .fmaxD d a b => some (.a, 0x19#6 ++ d ++ a ++ b ++ 0x5#11)
  | .fabsD d a => some (.a, 0x19#6 ++ d ++ a ++ 0xB806#16)
  | .fnegD d a => some (.a, 0x19#6 ++ d ++ a ++ 0xB807#16)
  | .fcmpeqD d a b => some (.a, 0x19#6 ++ d ++ a ++ b ++ 0x8#11)
  | .fcmpltD d a b => some (.a, 0x19#6 ++ d ++ a ++ b ++ 0x9#11)
  | .fcmpleD d a b => some (.a, 0x19#6 ++ d ++ a ++ b ++ 0xA#11)
  | .fcmpunD d a b => some (.a, 0x19#6 ++ d ++ a ++ b ++ 0xB#11)
  | .fcvt d a r t s => some (.a, 0x1A#6 ++ d ++ a ++ 0x2E#6 ++ r ++ t ++ s)
  | .br o => some (.a, 0x417#11 ++ o)
  | .brz t o => some (.a, 0x21#6 ++ t ++ o)
  | .brnz t o => some (.a, 0x22#6 ++ t ++ o)
  | .call t o => some (.a, 0x23#6 ++ t ++ o)
  | .chk t o => some (.a, 0x24#6 ++ t ++ o)
  | .jr a => some (.a, 0x517#11 ++ a ++ 0xB800#16)
  | .ret a => some (.a, 0x517#11 ++ a ++ 0xB801#16)
  | .callr d a => some (.a, 0x28#6 ++ d ++ a ++ 0xB802#16)
  | .movmWriteA s n => some (.a, 0x597#11 ++ s ++ 0x0#10 ++ n)
  | .movmRead d n => some (.a, 0x2D#6 ++ d ++ 0x5C00#15 ++ n)
  | .trap i => some (.a, 0xC2F7#16 ++ i)
  | .svc i => some (.a, 0xC6F7#16 ++ i)
  | .rft => some (.a, 0xCAF7B800#32)
  | .halt => some (.a, 0xCAF7B801#32)
  | .csrrd d n => some (.a, 0x33#6 ++ d ++ 0x170#9 ++ n)
  | .csrwr d s n => some (.a, 0x33#6 ++ d ++ s ++ 0x1#4 ++ n)
  | .csrset d s n => some (.a, 0x33#6 ++ d ++ s ++ 0x2#4 ++ n)
  | .csrclr d s n => some (.a, 0x33#6 ++ d ++ s ++ 0x3#4 ++ n)
  | .segbeg i => some (.a, 0xD2F7#16 ++ i)
  | .segend a b => some (.a, 0x6B7#11 ++ a ++ b ++ 0x0#11)
  | .lds d b c z o => some (.b, 0x1#6 ++ d ++ b ++ 0x0#1 ++ c ++ z ++ o)
  | .ldsx d b c z o => some (.b, 0x2#6 ++ d ++ b ++ 0x0#1 ++ c ++ z ++ o)
  | .sts d b g c z o => some (.b, 0x3#6 ++ d ++ b ++ g ++ c ++ z ++ o)
  | .ldr d b c z o => some (.b, 0x4#6 ++ d ++ b ++ 0x0#1 ++ c ++ z ++ o)
  | .ldrx d b c z o => some (.b, 0x5#6 ++ d ++ b ++ 0x0#1 ++ c ++ z ++ o)
  | .str d b g c z o => some (.b, 0x6#6 ++ d ++ b ++ g ++ c ++ z ++ o)
  | .ldg d b c z o => some (.b, 0x8#6 ++ d ++ b ++ 0x0#1 ++ c ++ z ++ o)
  | .ldgx d b c z o => some (.b, 0x9#6 ++ d ++ b ++ 0x0#1 ++ c ++ z ++ o)
  | .stg d b g c z o => some (.b, 0xA#6 ++ d ++ b ++ g ++ c ++ z ++ o)
  | .ldgs d b c z o => some (.b, 0xB#6 ++ d ++ b ++ 0x0#1 ++ c ++ z ++ o)
  | .ldgsx d b c z o => some (.b, 0xC#6 ++ d ++ b ++ 0x0#1 ++ c ++ z ++ o)
  | .ldk d b z o => some (.b, 0xD#6 ++ d ++ b ++ 0x0#4 ++ z ++ o)
  | .atsAdd d b g c z => some (.b, 0x14#6 ++ d ++ b ++ 0x17#5 ++ g ++ c ++ 0x0#3 ++ z ++ 0x0#3)
  | .atsSwap d b g c z => some (.b, 0x14#6 ++ d ++ b ++ 0x17#5 ++ g ++ c ++ 0x0#3 ++ z ++ 0x1#3)
  | .atsCas d b i g c z => some (.b, 0x14#6 ++ d ++ b ++ i ++ g ++ c ++ 0x0#3 ++ z ++ 0x2#3)
  | .atsAnd d b g c z => some (.b, 0x14#6 ++ d ++ b ++ 0x17#5 ++ g ++ c ++ 0x0#3 ++ z ++ 0x3#3)
  | .atsOr d b g c z => some (.b, 0x14#6 ++ d ++ b ++ 0x17#5 ++ g ++ c ++ 0x0#3 ++ z ++ 0x4#3)
  | .atsXor d b g c z => some (.b, 0x14#6 ++ d ++ b ++ 0x17#5 ++ g ++ c ++ 0x0#3 ++ z ++ 0x5#3)
  | .atsSmin d b g c z => some (.b, 0x14#6 ++ d ++ b ++ 0x17#5 ++ g ++ c ++ 0x0#3 ++ z ++ 0x6#3)
  | .atsSmax d b g c z => some (.b, 0x14#6 ++ d ++ b ++ 0x17#5 ++ g ++ c ++ 0x0#3 ++ z ++ 0x7#3)
  | .atrAdd d b g c z => some (.b, 0x15#6 ++ d ++ b ++ 0x17#5 ++ g ++ c ++ 0x0#3 ++ z ++ 0x0#3)
  | .atrSwap d b g c z => some (.b, 0x15#6 ++ d ++ b ++ 0x17#5 ++ g ++ c ++ 0x0#3 ++ z ++ 0x1#3)
  | .atrCas d b i g c z => some (.b, 0x15#6 ++ d ++ b ++ i ++ g ++ c ++ 0x0#3 ++ z ++ 0x2#3)
  | .atrAnd d b g c z => some (.b, 0x15#6 ++ d ++ b ++ 0x17#5 ++ g ++ c ++ 0x0#3 ++ z ++ 0x3#3)
  | .atrOr d b g c z => some (.b, 0x15#6 ++ d ++ b ++ 0x17#5 ++ g ++ c ++ 0x0#3 ++ z ++ 0x4#3)
  | .atrXor d b g c z => some (.b, 0x15#6 ++ d ++ b ++ 0x17#5 ++ g ++ c ++ 0x0#3 ++ z ++ 0x5#3)
  | .atrSmin d b g c z => some (.b, 0x15#6 ++ d ++ b ++ 0x17#5 ++ g ++ c ++ 0x0#3 ++ z ++ 0x6#3)
  | .atrSmax d b g c z => some (.b, 0x15#6 ++ d ++ b ++ 0x17#5 ++ g ++ c ++ 0x0#3 ++ z ++ 0x7#3)
  | .atgAdd d b g c z => some (.b, 0x16#6 ++ d ++ b ++ 0x17#5 ++ g ++ c ++ 0x0#3 ++ z ++ 0x0#3)
  | .atgSwap d b g c z => some (.b, 0x16#6 ++ d ++ b ++ 0x17#5 ++ g ++ c ++ 0x0#3 ++ z ++ 0x1#3)
  | .atgCas d b i g c z => some (.b, 0x16#6 ++ d ++ b ++ i ++ g ++ c ++ 0x0#3 ++ z ++ 0x2#3)
  | .atgAnd d b g c z => some (.b, 0x16#6 ++ d ++ b ++ 0x17#5 ++ g ++ c ++ 0x0#3 ++ z ++ 0x3#3)
  | .atgOr d b g c z => some (.b, 0x16#6 ++ d ++ b ++ 0x17#5 ++ g ++ c ++ 0x0#3 ++ z ++ 0x4#3)
  | .atgXor d b g c z => some (.b, 0x16#6 ++ d ++ b ++ 0x17#5 ++ g ++ c ++ 0x0#3 ++ z ++ 0x5#3)
  | .atgSmin d b g c z => some (.b, 0x16#6 ++ d ++ b ++ 0x17#5 ++ g ++ c ++ 0x0#3 ++ z ++ 0x6#3)
  | .atgSmax d b g c z => some (.b, 0x16#6 ++ d ++ b ++ 0x17#5 ++ g ++ c ++ 0x0#3 ++ z ++ 0x7#3)
  | .fence s => some (.b, 0xC5EF70#25 ++ s ++ 0x0#4)
  | .acq b s => some (.b, 0x317#11 ++ b ++ 0x170#9 ++ s ++ 0x1#4)
  | .rel b g s => some (.b, 0x317#11 ++ b ++ 0x17#5 ++ g ++ 0x0#3 ++ s ++ 0x2#4)
  | .ifence => some (.b, 0x62F7B803#32)
  | .ringset a h => some (.b, 0x397#11 ++ a ++ 0x17#5 ++ h ++ 0x0#7)
  | .rneed a h => some (.b, 0x397#11 ++ a ++ 0x17#5 ++ h ++ 0x1#7)
  | .rfree a h => some (.b, 0x397#11 ++ a ++ 0x17#5 ++ h ++ 0x2#7)
  | .radv a h => some (.b, 0x397#11 ++ a ++ 0x17#5 ++ h ++ 0x3#7)
  | .rpub a h => some (.b, 0x397#11 ++ a ++ 0x17#5 ++ h ++ 0x4#7)
  | .rrd d h => some (.b, 0x1C#6 ++ d ++ 0x2F7#10 ++ h ++ 0x5#7)
  | .winset a h => some (.b, 0x3B7#11 ++ a ++ 0x17#5 ++ h ++ 0x0#7)
  | .winadv a h => some (.b, 0x3B7#11 ++ a ++ 0x17#5 ++ h ++ 0x1#7)
  | .mapset a m => some (.b, 0x3D7#11 ++ a ++ 0x17#5 ++ m ++ 0x0#7)
  | .mapflush m => some (.b, 0xF5EF7#21 ++ m ++ 0x1#7)
  | .mapinv m => some (.b, 0xF5EF7#21 ++ m ++ 0x2#7)
  | .mcfill d b i c => some (.b, 0x1F#6 ++ d ++ b ++ i ++ 0x0#1 ++ c ++ 0x30#7)
  | .wbl b c => some (.b, 0x417#11 ++ b ++ 0x2E#6 ++ c ++ 0x0#7)
  | .invl b c => some (.b, 0x417#11 ++ b ++ 0x2E#6 ++ c ++ 0x1#7)
  | .wbinvl b c => some (.b, 0x417#11 ++ b ++ 0x2E#6 ++ c ++ 0x2#7)
  | .qcopy q a c s => some (.b, 0x28#6 ++ q ++ a ++ 0x17#5 ++ c ++ s ++ 0x0#6)
  | .qgath q a b c s => some (.b, 0x28#6 ++ q ++ a ++ b ++ c ++ s ++ 0x1#6)
  | .qscat q a b c s => some (.b, 0x28#6 ++ q ++ a ++ b ++ c ++ s ++ 0x2#6)
  | .qfill q a c s => some (.b, 0x28#6 ++ q ++ a ++ 0x17#5 ++ c ++ s ++ 0x3#6)
  | .qdec q a c s => some (.b, 0x28#6 ++ q ++ a ++ 0x17#5 ++ c ++ s ++ 0x4#6)
  | .qenc q a c s => some (.b, 0x28#6 ++ q ++ a ++ 0x17#5 ++ c ++ s ++ 0x5#6)
  | .qcoll q a c s => some (.b, 0x28#6 ++ q ++ a ++ 0x17#5 ++ c ++ s ++ 0x6#6)
  | .qjoin q a c s => some (.b, 0x28#6 ++ q ++ a ++ 0x17#5 ++ c ++ s ++ 0x7#6)
  | .qsig q c => some (.b, 0x28#6 ++ q ++ 0x2F7#10 ++ c ++ 0x48#7)
  | .qstat q d b => some (.b, 0x28#6 ++ q ++ d ++ b ++ 0xB89#12)
  | .movmWriteB s n => some (.b, 0x597#11 ++ s ++ 0x0#10 ++ n)
  | .vadd d a b k t m => some (.c, 0x1#6 ++ d ++ a ++ b ++ k ++ t ++ m ++ 0x0#2)
  | .vsub d a b k t m => some (.c, 0x2#6 ++ d ++ a ++ b ++ k ++ t ++ m ++ 0x0#2)
  | .vmul d a b k t m => some (.c, 0x3#6 ++ d ++ a ++ b ++ k ++ t ++ m ++ 0x0#2)
  | .vfma d a b k t m => some (.c, 0x4#6 ++ d ++ a ++ b ++ k ++ t ++ m ++ 0x0#2)
  | .vmin d a b k t => some (.c, 0x5#6 ++ d ++ a ++ b ++ k ++ t ++ 0x0#4)
  | .vmax d a b k t => some (.c, 0x6#6 ++ d ++ a ++ b ++ k ++ t ++ 0x0#4)
  | .vabs d a k t m => some (.c, 0x7#6 ++ d ++ a ++ 0x17#5 ++ k ++ t ++ m ++ 0x0#2)
  | .vneg d a k t m => some (.c, 0x8#6 ++ d ++ a ++ 0x17#5 ++ k ++ t ++ m ++ 0x0#2)
  | .vcmpeq d a b k t => some (.c, 0x9#6 ++ d ++ a ++ b ++ k ++ t ++ 0x0#4)
  | .vcmpne d a b k t => some (.c, 0x9#6 ++ d ++ a ++ b ++ k ++ t ++ 0x1#4)
  | .vcmplt d a b k t => some (.c, 0x9#6 ++ d ++ a ++ b ++ k ++ t ++ 0x2#4)
  | .vcmple d a b k t => some (.c, 0x9#6 ++ d ++ a ++ b ++ k ++ t ++ 0x3#4)
  | .vsel d a b k => some (.c, 0xA#6 ++ d ++ a ++ b ++ k ++ 0x0#8)
  | .vexp2 d a k t => some (.c, 0xC#6 ++ d ++ a ++ 0x17#5 ++ k ++ t ++ 0x0#4)
  | .vlog2 d a k t => some (.c, 0xC#6 ++ d ++ a ++ 0x17#5 ++ k ++ t ++ 0x1#4)
  | .vrcp d a k t => some (.c, 0xC#6 ++ d ++ a ++ 0x17#5 ++ k ++ t ++ 0x2#4)
  | .vrsq d a k t => some (.c, 0xC#6 ++ d ++ a ++ 0x17#5 ++ k ++ t ++ 0x3#4)
  | .vsin d a k t => some (.c, 0xC#6 ++ d ++ a ++ 0x17#5 ++ k ++ t ++ 0x4#4)
  | .vcos d a k t => some (.c, 0xC#6 ++ d ++ a ++ 0x17#5 ++ k ++ t ++ 0x5#4)
  | .vtanh d a k t => some (.c, 0xC#6 ++ d ++ a ++ 0x17#5 ++ k ++ t ++ 0x6#4)
  | .vsigm d a k t => some (.c, 0xC#6 ++ d ++ a ++ 0x17#5 ++ k ++ t ++ 0x7#4)
  | .vand d a b k => some (.c, 0xD#6 ++ d ++ a ++ b ++ k ++ 0x0#8)
  | .vor d a b k => some (.c, 0xD#6 ++ d ++ a ++ b ++ k ++ 0x1#8)
  | .vxor d a b k => some (.c, 0xD#6 ++ d ++ a ++ b ++ k ++ 0x2#8)
  | .vandn d a b k => some (.c, 0xD#6 ++ d ++ a ++ b ++ k ++ 0x3#8)
  | .vnot d a k => some (.c, 0xD#6 ++ d ++ a ++ 0x17#5 ++ k ++ 0x4#8)
  | .vshl d a b k t => some (.c, 0xE#6 ++ d ++ a ++ b ++ k ++ t ++ 0x0#4)
  | .vshr d a b k t => some (.c, 0xE#6 ++ d ++ a ++ b ++ k ++ t ++ 0x1#4)
  | .vsra d a b k t => some (.c, 0xE#6 ++ d ++ a ++ b ++ k ++ t ++ 0x2#4)
  | .vrotl d a b k t => some (.c, 0xE#6 ++ d ++ a ++ b ++ k ++ t ++ 0x3#4)
  | .vcvt d s t u r => some (.c, 0x10#6 ++ d ++ s ++ t ++ u ++ r ++ 0x0#5)
  | .vpack d a b k t => some (.c, 0x11#6 ++ d ++ a ++ b ++ k ++ t ++ 0x0#4)
  | .vunpkl d a k t => some (.c, 0x11#6 ++ d ++ a ++ 0x17#5 ++ k ++ t ++ 0x1#4)
  | .vunpkh d a k t => some (.c, 0x11#6 ++ d ++ a ++ 0x17#5 ++ k ++ t ++ 0x2#4)
  | .vperm d a b k => some (.c, 0x14#6 ++ d ++ a ++ b ++ k ++ 0x0#8)
  | .vbcast d a b k => some (.c, 0x14#6 ++ d ++ a ++ b ++ k ++ 0x1#8)
  | .vslideup d a b k => some (.c, 0x14#6 ++ d ++ a ++ b ++ k ++ 0x2#8)
  | .vslidedn d a b k => some (.c, 0x14#6 ++ d ++ a ++ b ++ k ++ 0x3#8)
  | .vrev d a k => some (.c, 0x14#6 ++ d ++ a ++ 0x17#5 ++ k ++ 0x4#8)
  | .vsplat d a k => some (.c, 0x14#6 ++ d ++ a ++ 0x17#5 ++ k ++ 0x5#8)
  | .vscani d a k t => some (.c, 0x18#6 ++ d ++ a ++ 0x17#5 ++ k ++ t ++ 0x0#4)
  | .vscanx d a k t => some (.c, 0x18#6 ++ d ++ a ++ 0x17#5 ++ k ++ t ++ 0x1#4)
  | .vscanmax d a k t => some (.c, 0x18#6 ++ d ++ a ++ 0x17#5 ++ k ++ t ++ 0x2#4)
  | .vscanmin d a k t => some (.c, 0x18#6 ++ d ++ a ++ 0x17#5 ++ k ++ t ++ 0x3#4)
  | .vredadd d a k t => some (.c, 0x19#6 ++ d ++ a ++ 0x17#5 ++ k ++ t ++ 0x0#4)
  | .vredmin d a k t => some (.c, 0x19#6 ++ d ++ a ++ 0x17#5 ++ k ++ t ++ 0x1#4)
  | .vredmax d a k t => some (.c, 0x19#6 ++ d ++ a ++ 0x17#5 ++ k ++ t ++ 0x2#4)
  | .vredand d a k t => some (.c, 0x19#6 ++ d ++ a ++ 0x17#5 ++ k ++ t ++ 0x3#4)
  | .vredor d a k t => some (.c, 0x19#6 ++ d ++ a ++ 0x17#5 ++ k ++ t ++ 0x4#4)
  | .vredxor d a k t => some (.c, 0x19#6 ++ d ++ a ++ 0x17#5 ++ k ++ t ++ 0x5#4)
  | .kand d a b => some (.c, 0x20#6 ++ d ++ a ++ b ++ 0x0#11)
  | .kor d a b => some (.c, 0x20#6 ++ d ++ a ++ b ++ 0x1#11)
  | .kxor d a b => some (.c, 0x20#6 ++ d ++ a ++ b ++ 0x2#11)
  | .kandn d a b => some (.c, 0x20#6 ++ d ++ a ++ b ++ 0x3#11)
  | .knot d a => some (.c, 0x20#6 ++ d ++ a ++ 0xB804#16)
  | .kpop d a => some (.c, 0x20#6 ++ d ++ a ++ 0xB805#16)
  | .kfirst d a => some (.c, 0x20#6 ++ d ++ a ++ 0xB806#16)
  | .kfromv d a => some (.c, 0x20#6 ++ d ++ a ++ 0xB807#16)
  | .ktov d a => some (.c, 0x20#6 ++ d ++ a ++ 0xB808#16)
  | .vlds d s i => some (.c, 0x24#6 ++ d ++ s ++ i)
  | .vldsp d s i => some (.c, 0x25#6 ++ d ++ s ++ i)
  | .vsts a b k => some (.c, 0x4D7#11 ++ a ++ b ++ k ++ 0x0#8)
  | .vgath d a b k => some (.c, 0x27#6 ++ d ++ a ++ b ++ k ++ 0x0#8)
  | .vscat d a b k => some (.c, 0x28#6 ++ d ++ a ++ b ++ k ++ 0x0#8)
  | .vrrd d k h => some (.c, 0x2A#6 ++ d ++ 0x2F7#10 ++ k ++ h ++ 0x0#4)
  | .vatomadd d a b k => some (.c, 0x2B#6 ++ d ++ a ++ b ++ k ++ 0x0#8)
  | .movmWriteC s j n => some (.c, 0x597#11 ++ s ++ 0x0#5 ++ j ++ n)
  | .mma d a n f w => some (.d, 0x1#6 ++ d ++ a ++ 0xB80#12 ++ n ++ f ++ w)
  | .mmab d a n f w => some (.d, 0x2#6 ++ d ++ a ++ 0xB80#12 ++ n ++ f ++ w)
  | .bload a w => some (.d, 0x97#11 ++ a ++ 0x2E00#14 ++ w)
  | .bclr w => some (.d, 0x5BDEE00#30 ++ w)
  | .fmtw b a => some (.d, 0x1AF700#24 ++ b ++ a)
  | .dzero d => some (.d, 0x8#6 ++ d ++ 0x17B800#21)
  | .dmov d a => some (.d, 0x9#6 ++ d ++ a ++ 0xB800#16)
  | .dadd d a b => some (.d, 0xA#6 ++ d ++ a ++ b ++ 0x0#11)
  | .dscl d s => some (.d, 0xB#6 ++ d ++ 0x1700#13 ++ s)
  | .dcvt d a r f => some (.d, 0xC#6 ++ d ++ a ++ 0x2E0#10 ++ r ++ f)
  | .drd d a b => some (.d, 0xD#6 ++ d ++ a ++ b ++ 0x0#11)
  | .dwr d a b => some (.d, 0xE#6 ++ d ++ a ++ b ++ 0x0#11)
  | .mstat d s => some (.d, 0xF#6 ++ d ++ 0x17B80#17 ++ s)
  | .phnew d a b => some (.d, 0x20#6 ++ d ++ a ++ b ++ 0x0#11)
  | .phreg a m => some (.d, 0x417#11 ++ a ++ 0x2E0#10 ++ m ++ 0x1#4)
  | .phdrop a => some (.d, 0x417#11 ++ a ++ 0xB802#16)
  | .phsig a => some (.d, 0x417#11 ++ a ++ 0xB803#16)
  | .phwait a => some (.d, 0x417#11 ++ a ++ 0xB804#16)
  | .phsw a => some (.d, 0x417#11 ++ a ++ 0xB805#16)
  | .phqry d a b => some (.d, 0x20#6 ++ d ++ a ++ b ++ 0x6#11)
  | .tend => some (.d, 0x92F7B800#32)
  | .taskend => some (.d, 0x92F7B801#32)
  | .launch a => some (.d, 0x4B7#11 ++ a ++ 0xB800#16)
  | .swpt n => some (.d, 0xA2F70#20 ++ n)
  | .lease a => some (.d, 0x537#11 ++ a ++ 0xB800#16)
  | .leaserel => some (.d, 0xA6F7B801#32)
  | .movmWriteD s n => some (.d, 0x597#11 ++ s ++ 0x0#10 ++ n)
  | _ => none


/-- The governing mask of a slot C instruction (R56); 0 makes every lane active. -/
def Instr.mask : Instr → BitVec 3
  | .vadd _ _ _ k _ _ => k
  | .vsub _ _ _ k _ _ => k
  | .vmul _ _ _ k _ _ => k
  | .vfma _ _ _ k _ _ => k
  | .vmin _ _ _ k _ => k
  | .vmax _ _ _ k _ => k
  | .vabs _ _ k _ _ => k
  | .vneg _ _ k _ _ => k
  | .vcmpeq _ _ _ k _ => k
  | .vcmpne _ _ _ k _ => k
  | .vcmplt _ _ _ k _ => k
  | .vcmple _ _ _ k _ => k
  | .vsel _ _ _ k => k
  | .vexp2 _ _ k _ => k
  | .vlog2 _ _ k _ => k
  | .vrcp _ _ k _ => k
  | .vrsq _ _ k _ => k
  | .vsin _ _ k _ => k
  | .vcos _ _ k _ => k
  | .vtanh _ _ k _ => k
  | .vsigm _ _ k _ => k
  | .vand _ _ _ k => k
  | .vor _ _ _ k => k
  | .vxor _ _ _ k => k
  | .vandn _ _ _ k => k
  | .vnot _ _ k => k
  | .vshl _ _ _ k _ => k
  | .vshr _ _ _ k _ => k
  | .vsra _ _ _ k _ => k
  | .vrotl _ _ _ k _ => k
  | .vpack _ _ _ k _ => k
  | .vunpkl _ _ k _ => k
  | .vunpkh _ _ k _ => k
  | .vperm _ _ _ k => k
  | .vbcast _ _ _ k => k
  | .vslideup _ _ _ k => k
  | .vslidedn _ _ _ k => k
  | .vrev _ _ k => k
  | .vsplat _ _ k => k
  | .vscani _ _ k _ => k
  | .vscanx _ _ k _ => k
  | .vscanmax _ _ k _ => k
  | .vscanmin _ _ k _ => k
  | .vredadd _ _ k _ => k
  | .vredmin _ _ k _ => k
  | .vredmax _ _ k _ => k
  | .vredand _ _ k _ => k
  | .vredor _ _ k _ => k
  | .vredxor _ _ k _ => k
  | .vsts _ _ k => k
  | .vgath _ _ _ k => k
  | .vscat _ _ _ k => k
  | .vrrd _ k _ => k
  | .vatomadd _ _ _ k => k
  | _ => 0


/-- TY values above BF16 are reserved (R74). -/
def tyReserved (t : BitVec 4) : Bool := decide (9 ≤ t.toNat)
/-- The integer element types (R74). -/
def tyInt (t : BitVec 4) : Bool := decide (t.toNat < 6)
/-- The unsigned element types. -/
def tyUnsigned (t : BitVec 4) : Bool := t = 1 || t = 3 || t = 5

/-- The numbers of R436. -/
def csrNumbers : List Nat :=
  [0x000, 0x001, 0x002, 0x003, 0x004, 0x005, 0x010, 0x011, 0x012, 0x013, 0x014, 0x015, 0x016, 0x017, 0x018,
   0x100, 0x101, 0x102, 0x103, 0x104, 0x200, 0x300, 0x301, 0x302]

/-- Whether a scope code is illegal: 6, 7, and 5 without the capacity tier (R58, R69). -/
def scopeIllegal (caps : List (BitVec 12)) (s : BitVec 3) : Bool :=
  s = 6 || s = 7 || (s = 5 && !caps.contains 0x002)

/-- The class of an FMTW code: floating (R78). -/
def fmtFloat (x : BitVec 4) : Bool := x.toNat ≤ 4 || 9 ≤ x.toNat

/-- Cases of R62 that an instruction breaks by a field that names no register. Stochastic rounding of VCVT to a format without it is a
reserved form (case 2, log 48). -/
def Instr.limits (caps : List (BitVec 12)) : Instr → List Nat
  | .fcvt _ _ _ t s => if 8 ≤ t.toNat || 8 ≤ s.toNat || t = s || (t.toNat ≤ 3 && s.toNat ≤ 3) then [2] else []
  | .csrrd _ n => if csrNumbers.contains n.toNat then [] else [9]
  | .csrwr _ _ n => if csrNumbers.contains n.toNat then [] else [9]
  | .csrset _ _ n => if csrNumbers.contains n.toNat then [] else [9]
  | .csrclr _ _ n => if csrNumbers.contains n.toNat then [] else [9]
  | .fence s => if scopeIllegal caps s then [8] else []
  | .acq _ s => if scopeIllegal caps s then [8] else []
  | .rel _ _ s => if scopeIllegal caps s then [8] else []
  | .qcopy _ _ c s => (if s = 0 && c ≠ 23 then [3] else [])
  | .qgath _ _ _ c s => (if s = 0 && c ≠ 23 then [3] else [])
  | .qscat _ _ _ c s => (if s = 0 && c ≠ 23 then [3] else [])
  | .qfill _ _ c s => (if s = 0 && c ≠ 23 then [3] else [])
  | .qdec _ _ c s => (if s = 0 && c ≠ 23 then [3] else []) ++ (if caps.contains 0x005 then [] else [2])
  | .qenc _ _ c s => (if s = 0 && c ≠ 23 then [3] else []) ++ (if caps.contains 0x005 then [] else [2])
  | .qcoll _ _ c s => (if s = 0 && c ≠ 23 then [3] else [])
  | .qjoin _ _ c s => (if s = 0 && c ≠ 23 then [3] else [])
  | .vadd _ _ _ _ t m => if tyReserved t || (tyInt t && 2 ≤ m.toNat) then [2] else []
  | .vsub _ _ _ _ t m => if tyReserved t || (tyInt t && 2 ≤ m.toNat) then [2] else []
  | .vmul _ _ _ _ t m => if tyReserved t || (tyInt t && 2 ≤ m.toNat) then [2] else []
  | .vfma _ _ _ _ t m => if tyReserved t || (tyInt t && 2 ≤ m.toNat) then [2] else []
  | .vmin _ _ _ _ t => if tyReserved t then [2] else []
  | .vmax _ _ _ _ t => if tyReserved t then [2] else []
  | .vabs _ _ _ t m => if tyReserved t || tyUnsigned t || (tyInt t && 2 ≤ m.toNat) || (!tyInt t && m.toNat ≠ 0) then [2] else []
  | .vneg _ _ _ t m => if tyReserved t || tyUnsigned t || (tyInt t && 2 ≤ m.toNat) || (!tyInt t && m.toNat ≠ 0) then [2] else []
  | .vcmpeq _ _ _ _ t => if tyReserved t then [2] else []
  | .vcmpne _ _ _ _ t => if tyReserved t then [2] else []
  | .vcmplt _ _ _ _ t => if tyReserved t then [2] else []
  | .vcmple _ _ _ _ t => if tyReserved t then [2] else []
  | .vexp2 _ _ _ t => if tyReserved t || tyInt t then [2] else []
  | .vlog2 _ _ _ t => if tyReserved t || tyInt t then [2] else []
  | .vrcp _ _ _ t => if tyReserved t || tyInt t then [2] else []
  | .vrsq _ _ _ t => if tyReserved t || tyInt t then [2] else []
  | .vsin _ _ _ t => if tyReserved t || tyInt t then [2] else []
  | .vcos _ _ _ t => if tyReserved t || tyInt t then [2] else []
  | .vtanh _ _ _ t => if tyReserved t || tyInt t then [2] else []
  | .vsigm _ _ _ t => if tyReserved t || tyInt t then [2] else []
  | .vshl _ _ _ _ t => if tyReserved t || !tyInt t then [2] else []
  | .vshr _ _ _ _ t => if tyReserved t || !tyInt t then [2] else []
  | .vsra _ _ _ _ t => if tyReserved t || !tyInt t then [2] else []
  | .vrotl _ _ _ _ t => if tyReserved t || !tyInt t then [2] else []
  | .vpack _ _ _ _ t => if [2, 3, 4, 5, 7, 8].contains t.toNat then [] else [2]
  | .vunpkl _ _ _ t => if [0, 1, 2, 3, 6].contains t.toNat then [] else [2]
  | .vunpkh _ _ _ t => if [0, 1, 2, 3, 6].contains t.toNat then [] else [2]
  | .vscani _ _ _ t => if tyReserved t then [2] else []
  | .vscanx _ _ _ t => if tyReserved t then [2] else []
  | .vscanmax _ _ _ t => if tyReserved t then [2] else []
  | .vscanmin _ _ _ t => if tyReserved t then [2] else []
  | .vredadd _ _ _ t => if tyReserved t then [2] else []
  | .vredmin _ _ _ t => if tyReserved t then [2] else []
  | .vredmax _ _ _ t => if tyReserved t then [2] else []
  | .vredand _ _ _ t => if tyReserved t || !tyInt t then [2] else []
  | .vredor _ _ _ t => if tyReserved t || !tyInt t then [2] else []
  | .vredxor _ _ _ t => if tyReserved t || !tyInt t then [2] else []
  | .vcvt _ _ t u r =>
      if t = 15 || u = 15 || 5 ≤ r.toNat || t = u || (r = 4 && !([9, 10, 11, 13, 14].contains t.toNat)) then [2] else []
  | .fmtw b a => if 12 ≤ a.toNat || 12 ≤ b.toNat then [2] else if fmtFloat a ≠ fmtFloat b then [9] else []
  | .dcvt _ _ r f => if 4 ≤ f.toNat then [2] else if f = 1 && r ≠ 0 then [3] else []
  | .mstat _ s => if 4 ≤ s.toNat then [2] else []
  | .phreg _ m => if m = 3 then [2] else []
  | .lease _ => if caps.contains 0x009 then [] else [1]
  | .leaserel => if caps.contains 0x009 then [] else [1]
  | _ => []

/-- Every case of R62 that an instruction breaks by itself. -/
def Instr.illegal (caps : List (BitVec 12)) (i : Instr) : List Nat :=
  i.limits caps ++ i.operands.filterMap fun p => p.1.illegal p.2

/-- A bit slice x[hi:lo] with its width (R5). -/
def bits (w : BitVec 32) (lo len : Nat) : BitVec len := w.extractLsb' lo len

/-- What a slot's map says of a word: a reserved point with its case (R67), or an instruction with the cases that its fixed
fields break (R68). -/
inductive Raw where
  | bad (case_ : Nat)
  | ok (i : Instr) (cases : List Nat)
  /-- SWPT apart: Lean's runtime builds at most 244 constructors with fields of one type, and SWPT is the 245th. -/
  | swpt (n : BitVec 12) (cases : List Nat)
  deriving DecidableEq, Repr

/-- The instruction of a word for all that depends on its register fields alone, with the cases that its fixed fields
break: SWPT has no register field and stands as NOP. -/
def Raw.view : Raw → Option (Instr × List Nat)
  | .bad _ => none
  | .ok i cs => some (i, cs)
  | .swpt _ cs => some (.nop, cs)

/-- The instruction of a word (without runtime code: see `Raw.swpt`). -/
noncomputable def Raw.instr : Raw → Option Instr
  | .bad _ => none
  | .ok i _ => some i
  | .swpt n _ => some (.swpt n)

/-- The case `c` when a fixed field does not hold its value (R68). -/
def fixed (c : Nat) (holds : Bool) : List Nat := if holds then [] else [c]


/-- Slot A, major opcode 0x01. -/
def rawA01 (w : BitVec 32) : Raw :=
  if bits w 0 11 = 0x0#11 then .ok (.add (bits w 21 5) (bits w 16 5) (bits w 11 5)) ([])
  else if bits w 0 11 = 0x1#11 then .ok (.sub (bits w 21 5) (bits w 16 5) (bits w 11 5)) ([])
  else if bits w 0 11 = 0x2#11 then .ok (.and (bits w 21 5) (bits w 16 5) (bits w 11 5)) ([])
  else if bits w 0 11 = 0x3#11 then .ok (.or (bits w 21 5) (bits w 16 5) (bits w 11 5)) ([])
  else if bits w 0 11 = 0x4#11 then .ok (.xor (bits w 21 5) (bits w 16 5) (bits w 11 5)) ([])
  else if bits w 0 11 = 0x5#11 then .ok (.andn (bits w 21 5) (bits w 16 5) (bits w 11 5)) ([])
  else if bits w 0 11 = 0x6#11 then .ok (.shl (bits w 21 5) (bits w 16 5) (bits w 11 5)) ([])
  else if bits w 0 11 = 0x7#11 then .ok (.shr (bits w 21 5) (bits w 16 5) (bits w 11 5)) ([])
  else if bits w 0 11 = 0x8#11 then .ok (.sra (bits w 21 5) (bits w 16 5) (bits w 11 5)) ([])
  else if bits w 0 11 = 0x9#11 then .ok (.rotr (bits w 21 5) (bits w 16 5) (bits w 11 5)) ([])
  else if bits w 0 11 = 0xA#11 then .ok (.min (bits w 21 5) (bits w 16 5) (bits w 11 5)) ([])
  else if bits w 0 11 = 0xB#11 then .ok (.max (bits w 21 5) (bits w 16 5) (bits w 11 5)) ([])
  else if bits w 0 11 = 0xC#11 then .ok (.minu (bits w 21 5) (bits w 16 5) (bits w 11 5)) ([])
  else if bits w 0 11 = 0xD#11 then .ok (.maxu (bits w 21 5) (bits w 16 5) (bits w 11 5)) ([])
  else .bad 2

/-- Slot A, major opcode 0x02. -/
def rawA02 (w : BitVec 32) : Raw :=
  if bits w 0 11 = 0x0#11 then .ok (.mul (bits w 21 5) (bits w 16 5) (bits w 11 5)) ([])
  else if bits w 0 11 = 0x1#11 then .ok (.mulh (bits w 21 5) (bits w 16 5) (bits w 11 5)) ([])
  else if bits w 0 11 = 0x2#11 then .ok (.mulhu (bits w 21 5) (bits w 16 5) (bits w 11 5)) ([])
  else .bad 2

/-- Slot A, major opcode 0x03. -/
def rawA03 (w : BitVec 32) : Raw :=
  if bits w 0 11 = 0x0#11 then .ok (.ext (bits w 21 5) (bits w 16 5) (bits w 11 5)) ([])
  else if bits w 0 11 = 0x1#11 then .ok (.extu (bits w 21 5) (bits w 16 5) (bits w 11 5)) ([])
  else if bits w 0 11 = 0x2#11 then .ok (.ins (bits w 21 5) (bits w 16 5) (bits w 11 5)) ([])
  else if bits w 0 11 = 0x3#11 then .ok (.clz (bits w 21 5) (bits w 16 5)) (fixed 3 (bits w 11 5 = 0x17#5))
  else if bits w 0 11 = 0x4#11 then .ok (.ctz (bits w 21 5) (bits w 16 5)) (fixed 3 (bits w 11 5 = 0x17#5))
  else if bits w 0 11 = 0x5#11 then .ok (.popc (bits w 21 5) (bits w 16 5)) (fixed 3 (bits w 11 5 = 0x17#5))
  else if bits w 0 11 = 0x6#11 then .ok (.brev (bits w 21 5) (bits w 16 5)) (fixed 3 (bits w 11 5 = 0x17#5))
  else .bad 2

/-- Slot A, major opcode 0x04. -/
def rawA04 (w : BitVec 32) : Raw :=
  if bits w 12 4 = 0x0#4 then .ok (.exti (bits w 21 5) (bits w 16 5) (bits w 6 6) (bits w 0 6)) ([])
  else if bits w 12 4 = 0x1#4 then .ok (.extui (bits w 21 5) (bits w 16 5) (bits w 6 6) (bits w 0 6)) ([])
  else if bits w 12 4 = 0x2#4 then .ok (.insi (bits w 21 5) (bits w 16 5) (bits w 6 6) (bits w 0 6)) ([])
  else .bad 2

/-- Slot A, major opcode 0x05. -/
def rawA05 (w : BitVec 32) : Raw :=
  if bits w 0 11 = 0x0#11 then .ok (.cmpeq (bits w 21 5) (bits w 16 5) (bits w 11 5)) ([])
  else if bits w 0 11 = 0x1#11 then .ok (.cmpne (bits w 21 5) (bits w 16 5) (bits w 11 5)) ([])
  else if bits w 0 11 = 0x2#11 then .ok (.cmplt (bits w 21 5) (bits w 16 5) (bits w 11 5)) ([])
  else if bits w 0 11 = 0x3#11 then .ok (.cmple (bits w 21 5) (bits w 16 5) (bits w 11 5)) ([])
  else if bits w 0 11 = 0x4#11 then .ok (.cmpltu (bits w 21 5) (bits w 16 5) (bits w 11 5)) ([])
  else if bits w 0 11 = 0x5#11 then .ok (.cmpleu (bits w 21 5) (bits w 16 5) (bits w 11 5)) ([])
  else .bad 2

/-- Slot A, major opcode 0x06. -/
def rawA06 (w : BitVec 32) : Raw :=
  if bits w 0 11 = 0x0#11 then .ok (.sel (bits w 21 5) (bits w 16 5) (bits w 11 5)) ([])
  else .bad 2

/-- Slot A, major opcode 0x08. -/
def rawA08 (w : BitVec 32) : Raw :=
  .ok (.addi (bits w 21 5) (bits w 16 5) (bits w 0 16)) ([])

/-- Slot A, major opcode 0x09. -/
def rawA09 (w : BitVec 32) : Raw :=
  .ok (.andi (bits w 21 5) (bits w 16 5) (bits w 0 16)) ([])

/-- Slot A, major opcode 0x0A. -/
def rawA0A (w : BitVec 32) : Raw :=
  .ok (.ori (bits w 21 5) (bits w 16 5) (bits w 0 16)) ([])

/-- Slot A, major opcode 0x0B. -/
def rawA0B (w : BitVec 32) : Raw :=
  .ok (.xori (bits w 21 5) (bits w 16 5) (bits w 0 16)) ([])

/-- Slot A, major opcode 0x0C. -/
def rawA0C (w : BitVec 32) : Raw :=
  if bits w 6 2 = 0x0#2 then .ok (.shli (bits w 21 5) (bits w 16 5) (bits w 0 6)) (fixed 3 (bits w 11 5 = 0x0#5) ++ fixed 3 (bits w 8 3 = 0x0#3))
  else if bits w 6 2 = 0x1#2 then .ok (.shri (bits w 21 5) (bits w 16 5) (bits w 0 6)) (fixed 3 (bits w 11 5 = 0x0#5) ++ fixed 3 (bits w 8 3 = 0x0#3))
  else if bits w 6 2 = 0x2#2 then .ok (.srai (bits w 21 5) (bits w 16 5) (bits w 0 6)) (fixed 3 (bits w 11 5 = 0x0#5) ++ fixed 3 (bits w 8 3 = 0x0#3))
  else if bits w 6 2 = 0x3#2 then .ok (.rotri (bits w 21 5) (bits w 16 5) (bits w 0 6)) (fixed 3 (bits w 11 5 = 0x0#5) ++ fixed 3 (bits w 8 3 = 0x0#3))
  else .bad 2

/-- Slot A, major opcode 0x0E. -/
def rawA0E (w : BitVec 32) : Raw :=
  .ok (.li (bits w 21 5) (bits w 0 16)) (fixed 3 (bits w 16 5 = 0x17#5))

/-- Slot A, major opcode 0x0F. -/
def rawA0F (w : BitVec 32) : Raw :=
  .ok (.liu (bits w 21 5) (bits w 16 5) (bits w 0 16)) ([])

/-- Slot A, major opcode 0x14. -/
def rawA14 (w : BitVec 32) : Raw :=
  if bits w 0 11 = 0x0#11 then .ok (.tagp (bits w 21 5) (bits w 16 5)) (fixed 3 (bits w 11 5 = 0x17#5))
  else if bits w 0 11 = 0x1#11 then .ok (.tagc (bits w 21 5) (bits w 16 5)) (fixed 3 (bits w 11 5 = 0x17#5))
  else .bad 2

/-- Slot A, major opcode 0x18. -/
def rawA18 (w : BitVec 32) : Raw :=
  if bits w 0 4 = 0x0#4 then .ok (.faddS (bits w 21 5) (bits w 16 5) (bits w 11 5) (bits w 4 2)) (fixed 3 (bits w 6 5 = 0x0#5))
  else if bits w 0 4 = 0x1#4 then .ok (.fsubS (bits w 21 5) (bits w 16 5) (bits w 11 5) (bits w 4 2)) (fixed 3 (bits w 6 5 = 0x0#5))
  else if bits w 0 4 = 0x2#4 then .ok (.fmulS (bits w 21 5) (bits w 16 5) (bits w 11 5) (bits w 4 2)) (fixed 3 (bits w 6 5 = 0x0#5))
  else if bits w 0 4 = 0x3#4 then .ok (.fmaS (bits w 21 5) (bits w 16 5) (bits w 11 5) (bits w 4 2)) (fixed 3 (bits w 6 5 = 0x0#5))
  else if bits w 0 4 = 0x4#4 then .ok (.fminS (bits w 21 5) (bits w 16 5) (bits w 11 5)) (fixed 3 (bits w 4 7 = 0x0#7))
  else if bits w 0 4 = 0x5#4 then .ok (.fmaxS (bits w 21 5) (bits w 16 5) (bits w 11 5)) (fixed 3 (bits w 4 7 = 0x0#7))
  else if bits w 0 4 = 0x6#4 then .ok (.fabsS (bits w 21 5) (bits w 16 5)) (fixed 3 (bits w 11 5 = 0x17#5) ++ fixed 3 (bits w 4 7 = 0x0#7))
  else if bits w 0 4 = 0x7#4 then .ok (.fnegS (bits w 21 5) (bits w 16 5)) (fixed 3 (bits w 11 5 = 0x17#5) ++ fixed 3 (bits w 4 7 = 0x0#7))
  else if bits w 0 4 = 0x8#4 then .ok (.fcmpeqS (bits w 21 5) (bits w 16 5) (bits w 11 5)) (fixed 3 (bits w 4 7 = 0x0#7))
  else if bits w 0 4 = 0x9#4 then .ok (.fcmpltS (bits w 21 5) (bits w 16 5) (bits w 11 5)) (fixed 3 (bits w 4 7 = 0x0#7))
  else if bits w 0 4 = 0xA#4 then .ok (.fcmpleS (bits w 21 5) (bits w 16 5) (bits w 11 5)) (fixed 3 (bits w 4 7 = 0x0#7))
  else if bits w 0 4 = 0xB#4 then .ok (.fcmpunS (bits w 21 5) (bits w 16 5) (bits w 11 5)) (fixed 3 (bits w 4 7 = 0x0#7))
  else .bad 2

/-- Slot A, major opcode 0x19. -/
def rawA19 (w : BitVec 32) : Raw :=
  if bits w 0 4 = 0x0#4 then .ok (.faddD (bits w 21 5) (bits w 16 5) (bits w 11 5) (bits w 4 2)) (fixed 3 (bits w 6 5 = 0x0#5))
  else if bits w 0 4 = 0x1#4 then .ok (.fsubD (bits w 21 5) (bits w 16 5) (bits w 11 5) (bits w 4 2)) (fixed 3 (bits w 6 5 = 0x0#5))
  else if bits w 0 4 = 0x2#4 then .ok (.fmulD (bits w 21 5) (bits w 16 5) (bits w 11 5) (bits w 4 2)) (fixed 3 (bits w 6 5 = 0x0#5))
  else if bits w 0 4 = 0x3#4 then .ok (.fmaD (bits w 21 5) (bits w 16 5) (bits w 11 5) (bits w 4 2)) (fixed 3 (bits w 6 5 = 0x0#5))
  else if bits w 0 4 = 0x4#4 then .ok (.fminD (bits w 21 5) (bits w 16 5) (bits w 11 5)) (fixed 3 (bits w 4 7 = 0x0#7))
  else if bits w 0 4 = 0x5#4 then .ok (.fmaxD (bits w 21 5) (bits w 16 5) (bits w 11 5)) (fixed 3 (bits w 4 7 = 0x0#7))
  else if bits w 0 4 = 0x6#4 then .ok (.fabsD (bits w 21 5) (bits w 16 5)) (fixed 3 (bits w 11 5 = 0x17#5) ++ fixed 3 (bits w 4 7 = 0x0#7))
  else if bits w 0 4 = 0x7#4 then .ok (.fnegD (bits w 21 5) (bits w 16 5)) (fixed 3 (bits w 11 5 = 0x17#5) ++ fixed 3 (bits w 4 7 = 0x0#7))
  else if bits w 0 4 = 0x8#4 then .ok (.fcmpeqD (bits w 21 5) (bits w 16 5) (bits w 11 5)) (fixed 3 (bits w 4 7 = 0x0#7))
  else if bits w 0 4 = 0x9#4 then .ok (.fcmpltD (bits w 21 5) (bits w 16 5) (bits w 11 5)) (fixed 3 (bits w 4 7 = 0x0#7))
  else if bits w 0 4 = 0xA#4 then .ok (.fcmpleD (bits w 21 5) (bits w 16 5) (bits w 11 5)) (fixed 3 (bits w 4 7 = 0x0#7))
  else if bits w 0 4 = 0xB#4 then .ok (.fcmpunD (bits w 21 5) (bits w 16 5) (bits w 11 5)) (fixed 3 (bits w 4 7 = 0x0#7))
  else .bad 2

/-- Slot A, major opcode 0x1A. -/
def rawA1A (w : BitVec 32) : Raw :=
  .ok (.fcvt (bits w 21 5) (bits w 16 5) (bits w 8 2) (bits w 4 4) (bits w 0 4)) (fixed 3 (bits w 11 5 = 0x17#5) ++ fixed 3 (bits w 10 1 = 0x0#1))

/-- Slot A, major opcode 0x20. -/
def rawA20 (w : BitVec 32) : Raw :=
  .ok (.br (bits w 0 21)) (fixed 3 (bits w 21 5 = 0x17#5))

/-- Slot A, major opcode 0x21. -/
def rawA21 (w : BitVec 32) : Raw :=
  .ok (.brz (bits w 21 5) (bits w 0 21)) ([])

/-- Slot A, major opcode 0x22. -/
def rawA22 (w : BitVec 32) : Raw :=
  .ok (.brnz (bits w 21 5) (bits w 0 21)) ([])

/-- Slot A, major opcode 0x23. -/
def rawA23 (w : BitVec 32) : Raw :=
  .ok (.call (bits w 21 5) (bits w 0 21)) ([])

/-- Slot A, major opcode 0x24. -/
def rawA24 (w : BitVec 32) : Raw :=
  .ok (.chk (bits w 21 5) (bits w 0 21)) ([])

/-- Slot A, major opcode 0x28. -/
def rawA28 (w : BitVec 32) : Raw :=
  if bits w 0 11 = 0x0#11 then .ok (.jr (bits w 16 5)) (fixed 3 (bits w 21 5 = 0x17#5) ++ fixed 3 (bits w 11 5 = 0x17#5))
  else if bits w 0 11 = 0x1#11 then .ok (.ret (bits w 16 5)) (fixed 3 (bits w 21 5 = 0x17#5) ++ fixed 3 (bits w 11 5 = 0x17#5))
  else if bits w 0 11 = 0x2#11 then .ok (.callr (bits w 21 5) (bits w 16 5)) (fixed 3 (bits w 11 5 = 0x17#5))
  else .bad 2

/-- Slot A, major opcode 0x2C. -/
def rawA2C (w : BitVec 32) : Raw :=
  .ok (.movmWriteA (bits w 16 5) (bits w 0 6)) (fixed 3 (bits w 21 5 = 0x17#5) ++ fixed 3 (bits w 11 5 = 0x0#5) ++ fixed 3 (bits w 6 5 = 0x0#5))

/-- Slot A, major opcode 0x2D. -/
def rawA2D (w : BitVec 32) : Raw :=
  .ok (.movmRead (bits w 21 5) (bits w 0 6)) (fixed 3 (bits w 16 5 = 0x17#5) ++ fixed 3 (bits w 11 5 = 0x0#5) ++ fixed 3 (bits w 6 5 = 0x0#5))

/-- Slot A, major opcode 0x30. -/
def rawA30 (w : BitVec 32) : Raw :=
  .ok (.trap (bits w 0 16)) (fixed 3 (bits w 21 5 = 0x17#5) ++ fixed 3 (bits w 16 5 = 0x17#5))

/-- Slot A, major opcode 0x31. -/
def rawA31 (w : BitVec 32) : Raw :=
  .ok (.svc (bits w 0 16)) (fixed 3 (bits w 21 5 = 0x17#5) ++ fixed 3 (bits w 16 5 = 0x17#5))

/-- Slot A, major opcode 0x32. -/
def rawA32 (w : BitVec 32) : Raw :=
  if bits w 0 11 = 0x0#11 then .ok .rft (fixed 3 (bits w 21 5 = 0x17#5) ++ fixed 3 (bits w 16 5 = 0x17#5) ++ fixed 3 (bits w 11 5 = 0x17#5))
  else if bits w 0 11 = 0x1#11 then .ok .halt (fixed 3 (bits w 21 5 = 0x17#5) ++ fixed 3 (bits w 16 5 = 0x17#5) ++ fixed 3 (bits w 11 5 = 0x17#5))
  else .bad 2

/-- Slot A, major opcode 0x33. -/
def rawA33 (w : BitVec 32) : Raw :=
  if bits w 12 4 = 0x0#4 then .ok (.csrrd (bits w 21 5) (bits w 0 12)) (fixed 3 (bits w 16 5 = 0x17#5))
  else if bits w 12 4 = 0x1#4 then .ok (.csrwr (bits w 21 5) (bits w 16 5) (bits w 0 12)) ([])
  else if bits w 12 4 = 0x2#4 then .ok (.csrset (bits w 21 5) (bits w 16 5) (bits w 0 12)) ([])
  else if bits w 12 4 = 0x3#4 then .ok (.csrclr (bits w 21 5) (bits w 16 5) (bits w 0 12)) ([])
  else .bad 2

/-- Slot A, major opcode 0x34. -/
def rawA34 (w : BitVec 32) : Raw :=
  .ok (.segbeg (bits w 0 16)) (fixed 3 (bits w 21 5 = 0x17#5) ++ fixed 3 (bits w 16 5 = 0x17#5))

/-- Slot A, major opcode 0x35. -/
def rawA35 (w : BitVec 32) : Raw :=
  .ok (.segend (bits w 16 5) (bits w 11 5)) (fixed 3 (bits w 21 5 = 0x17#5) ++ fixed 3 (bits w 0 11 = 0x0#11))

/-- The map of slot A (R70). -/
def rawA (w : BitVec 32) : Raw :=
  let op := bits w 26 6
  if op = 0x00#6 then (if w = 0 then .ok .nop [] else .bad 3)
  else if op = 0x01#6 then rawA01 w
  else if op = 0x02#6 then rawA02 w
  else if op = 0x03#6 then rawA03 w
  else if op = 0x04#6 then rawA04 w
  else if op = 0x05#6 then rawA05 w
  else if op = 0x06#6 then rawA06 w
  else if op = 0x08#6 then rawA08 w
  else if op = 0x09#6 then rawA09 w
  else if op = 0x0A#6 then rawA0A w
  else if op = 0x0B#6 then rawA0B w
  else if op = 0x0C#6 then rawA0C w
  else if op = 0x0E#6 then rawA0E w
  else if op = 0x0F#6 then rawA0F w
  else if op = 0x14#6 then rawA14 w
  else if op = 0x18#6 then rawA18 w
  else if op = 0x19#6 then rawA19 w
  else if op = 0x1A#6 then rawA1A w
  else if op = 0x20#6 then rawA20 w
  else if op = 0x21#6 then rawA21 w
  else if op = 0x22#6 then rawA22 w
  else if op = 0x23#6 then rawA23 w
  else if op = 0x24#6 then rawA24 w
  else if op = 0x28#6 then rawA28 w
  else if op = 0x2C#6 then rawA2C w
  else if op = 0x2D#6 then rawA2D w
  else if op = 0x30#6 then rawA30 w
  else if op = 0x31#6 then rawA31 w
  else if op = 0x32#6 then rawA32 w
  else if op = 0x33#6 then rawA33 w
  else if op = 0x34#6 then rawA34 w
  else if op = 0x35#6 then rawA35 w
  else .bad 1


/-- Slot B, major opcode 0x01. -/
def rawB01 (w : BitVec 32) : Raw :=
  .ok (.lds (bits w 21 5) (bits w 16 5) (bits w 12 3) (bits w 10 2) (bits w 0 10)) (fixed 8 (bits w 15 1 = 0x0#1))

/-- Slot B, major opcode 0x02. -/
def rawB02 (w : BitVec 32) : Raw :=
  .ok (.ldsx (bits w 21 5) (bits w 16 5) (bits w 12 3) (bits w 10 2) (bits w 0 10)) (fixed 8 (bits w 15 1 = 0x0#1))

/-- Slot B, major opcode 0x03. -/
def rawB03 (w : BitVec 32) : Raw :=
  .ok (.sts (bits w 21 5) (bits w 16 5) (bits w 15 1) (bits w 12 3) (bits w 10 2) (bits w 0 10)) ([])

/-- Slot B, major opcode 0x04. -/
def rawB04 (w : BitVec 32) : Raw :=
  .ok (.ldr (bits w 21 5) (bits w 16 5) (bits w 12 3) (bits w 10 2) (bits w 0 10)) (fixed 8 (bits w 15 1 = 0x0#1))

/-- Slot B, major opcode 0x05. -/
def rawB05 (w : BitVec 32) : Raw :=
  .ok (.ldrx (bits w 21 5) (bits w 16 5) (bits w 12 3) (bits w 10 2) (bits w 0 10)) (fixed 8 (bits w 15 1 = 0x0#1))

/-- Slot B, major opcode 0x06. -/
def rawB06 (w : BitVec 32) : Raw :=
  .ok (.str (bits w 21 5) (bits w 16 5) (bits w 15 1) (bits w 12 3) (bits w 10 2) (bits w 0 10)) ([])

/-- Slot B, major opcode 0x08. -/
def rawB08 (w : BitVec 32) : Raw :=
  .ok (.ldg (bits w 21 5) (bits w 16 5) (bits w 12 3) (bits w 10 2) (bits w 0 10)) (fixed 8 (bits w 15 1 = 0x0#1))

/-- Slot B, major opcode 0x09. -/
def rawB09 (w : BitVec 32) : Raw :=
  .ok (.ldgx (bits w 21 5) (bits w 16 5) (bits w 12 3) (bits w 10 2) (bits w 0 10)) (fixed 8 (bits w 15 1 = 0x0#1))

/-- Slot B, major opcode 0x0A. -/
def rawB0A (w : BitVec 32) : Raw :=
  .ok (.stg (bits w 21 5) (bits w 16 5) (bits w 15 1) (bits w 12 3) (bits w 10 2) (bits w 0 10)) ([])

/-- Slot B, major opcode 0x0B. -/
def rawB0B (w : BitVec 32) : Raw :=
  .ok (.ldgs (bits w 21 5) (bits w 16 5) (bits w 12 3) (bits w 10 2) (bits w 0 10)) (fixed 8 (bits w 15 1 = 0x0#1))

/-- Slot B, major opcode 0x0C. -/
def rawB0C (w : BitVec 32) : Raw :=
  .ok (.ldgsx (bits w 21 5) (bits w 16 5) (bits w 12 3) (bits w 10 2) (bits w 0 10)) (fixed 8 (bits w 15 1 = 0x0#1))

/-- Slot B, major opcode 0x0D. -/
def rawB0D (w : BitVec 32) : Raw :=
  .ok (.ldk (bits w 21 5) (bits w 16 5) (bits w 10 2) (bits w 0 10)) (fixed 8 (bits w 15 1 = 0x0#1) ++ fixed 3 (bits w 12 3 = 0x0#3))

/-- Slot B, major opcode 0x14. -/
def rawB14 (w : BitVec 32) : Raw :=
  if bits w 0 3 = 0x0#3 then .ok (.atsAdd (bits w 21 5) (bits w 16 5) (bits w 10 1) (bits w 7 3) (bits w 3 1)) (fixed 8 (bits w 4 3 = 0x0#3) ++ fixed 3 (bits w 11 5 = 0x17#5))
  else if bits w 0 3 = 0x1#3 then .ok (.atsSwap (bits w 21 5) (bits w 16 5) (bits w 10 1) (bits w 7 3) (bits w 3 1)) (fixed 8 (bits w 4 3 = 0x0#3) ++ fixed 3 (bits w 11 5 = 0x17#5))
  else if bits w 0 3 = 0x2#3 then .ok (.atsCas (bits w 21 5) (bits w 16 5) (bits w 11 5) (bits w 10 1) (bits w 7 3) (bits w 3 1)) (fixed 8 (bits w 4 3 = 0x0#3))
  else if bits w 0 3 = 0x3#3 then .ok (.atsAnd (bits w 21 5) (bits w 16 5) (bits w 10 1) (bits w 7 3) (bits w 3 1)) (fixed 8 (bits w 4 3 = 0x0#3) ++ fixed 3 (bits w 11 5 = 0x17#5))
  else if bits w 0 3 = 0x4#3 then .ok (.atsOr (bits w 21 5) (bits w 16 5) (bits w 10 1) (bits w 7 3) (bits w 3 1)) (fixed 8 (bits w 4 3 = 0x0#3) ++ fixed 3 (bits w 11 5 = 0x17#5))
  else if bits w 0 3 = 0x5#3 then .ok (.atsXor (bits w 21 5) (bits w 16 5) (bits w 10 1) (bits w 7 3) (bits w 3 1)) (fixed 8 (bits w 4 3 = 0x0#3) ++ fixed 3 (bits w 11 5 = 0x17#5))
  else if bits w 0 3 = 0x6#3 then .ok (.atsSmin (bits w 21 5) (bits w 16 5) (bits w 10 1) (bits w 7 3) (bits w 3 1)) (fixed 8 (bits w 4 3 = 0x0#3) ++ fixed 3 (bits w 11 5 = 0x17#5))
  else if bits w 0 3 = 0x7#3 then .ok (.atsSmax (bits w 21 5) (bits w 16 5) (bits w 10 1) (bits w 7 3) (bits w 3 1)) (fixed 8 (bits w 4 3 = 0x0#3) ++ fixed 3 (bits w 11 5 = 0x17#5))
  else .bad 2

/-- Slot B, major opcode 0x15. -/
def rawB15 (w : BitVec 32) : Raw :=
  if bits w 0 3 = 0x0#3 then .ok (.atrAdd (bits w 21 5) (bits w 16 5) (bits w 10 1) (bits w 7 3) (bits w 3 1)) (fixed 8 (bits w 4 3 = 0x0#3) ++ fixed 3 (bits w 11 5 = 0x17#5))
  else if bits w 0 3 = 0x1#3 then .ok (.atrSwap (bits w 21 5) (bits w 16 5) (bits w 10 1) (bits w 7 3) (bits w 3 1)) (fixed 8 (bits w 4 3 = 0x0#3) ++ fixed 3 (bits w 11 5 = 0x17#5))
  else if bits w 0 3 = 0x2#3 then .ok (.atrCas (bits w 21 5) (bits w 16 5) (bits w 11 5) (bits w 10 1) (bits w 7 3) (bits w 3 1)) (fixed 8 (bits w 4 3 = 0x0#3))
  else if bits w 0 3 = 0x3#3 then .ok (.atrAnd (bits w 21 5) (bits w 16 5) (bits w 10 1) (bits w 7 3) (bits w 3 1)) (fixed 8 (bits w 4 3 = 0x0#3) ++ fixed 3 (bits w 11 5 = 0x17#5))
  else if bits w 0 3 = 0x4#3 then .ok (.atrOr (bits w 21 5) (bits w 16 5) (bits w 10 1) (bits w 7 3) (bits w 3 1)) (fixed 8 (bits w 4 3 = 0x0#3) ++ fixed 3 (bits w 11 5 = 0x17#5))
  else if bits w 0 3 = 0x5#3 then .ok (.atrXor (bits w 21 5) (bits w 16 5) (bits w 10 1) (bits w 7 3) (bits w 3 1)) (fixed 8 (bits w 4 3 = 0x0#3) ++ fixed 3 (bits w 11 5 = 0x17#5))
  else if bits w 0 3 = 0x6#3 then .ok (.atrSmin (bits w 21 5) (bits w 16 5) (bits w 10 1) (bits w 7 3) (bits w 3 1)) (fixed 8 (bits w 4 3 = 0x0#3) ++ fixed 3 (bits w 11 5 = 0x17#5))
  else if bits w 0 3 = 0x7#3 then .ok (.atrSmax (bits w 21 5) (bits w 16 5) (bits w 10 1) (bits w 7 3) (bits w 3 1)) (fixed 8 (bits w 4 3 = 0x0#3) ++ fixed 3 (bits w 11 5 = 0x17#5))
  else .bad 2

/-- Slot B, major opcode 0x16. -/
def rawB16 (w : BitVec 32) : Raw :=
  if bits w 0 3 = 0x0#3 then .ok (.atgAdd (bits w 21 5) (bits w 16 5) (bits w 10 1) (bits w 7 3) (bits w 3 1)) (fixed 8 (bits w 4 3 = 0x0#3) ++ fixed 3 (bits w 11 5 = 0x17#5))
  else if bits w 0 3 = 0x1#3 then .ok (.atgSwap (bits w 21 5) (bits w 16 5) (bits w 10 1) (bits w 7 3) (bits w 3 1)) (fixed 8 (bits w 4 3 = 0x0#3) ++ fixed 3 (bits w 11 5 = 0x17#5))
  else if bits w 0 3 = 0x2#3 then .ok (.atgCas (bits w 21 5) (bits w 16 5) (bits w 11 5) (bits w 10 1) (bits w 7 3) (bits w 3 1)) (fixed 8 (bits w 4 3 = 0x0#3))
  else if bits w 0 3 = 0x3#3 then .ok (.atgAnd (bits w 21 5) (bits w 16 5) (bits w 10 1) (bits w 7 3) (bits w 3 1)) (fixed 8 (bits w 4 3 = 0x0#3) ++ fixed 3 (bits w 11 5 = 0x17#5))
  else if bits w 0 3 = 0x4#3 then .ok (.atgOr (bits w 21 5) (bits w 16 5) (bits w 10 1) (bits w 7 3) (bits w 3 1)) (fixed 8 (bits w 4 3 = 0x0#3) ++ fixed 3 (bits w 11 5 = 0x17#5))
  else if bits w 0 3 = 0x5#3 then .ok (.atgXor (bits w 21 5) (bits w 16 5) (bits w 10 1) (bits w 7 3) (bits w 3 1)) (fixed 8 (bits w 4 3 = 0x0#3) ++ fixed 3 (bits w 11 5 = 0x17#5))
  else if bits w 0 3 = 0x6#3 then .ok (.atgSmin (bits w 21 5) (bits w 16 5) (bits w 10 1) (bits w 7 3) (bits w 3 1)) (fixed 8 (bits w 4 3 = 0x0#3) ++ fixed 3 (bits w 11 5 = 0x17#5))
  else if bits w 0 3 = 0x7#3 then .ok (.atgSmax (bits w 21 5) (bits w 16 5) (bits w 10 1) (bits w 7 3) (bits w 3 1)) (fixed 8 (bits w 4 3 = 0x0#3) ++ fixed 3 (bits w 11 5 = 0x17#5))
  else .bad 2

/-- Slot B, major opcode 0x18. -/
def rawB18 (w : BitVec 32) : Raw :=
  if bits w 0 4 = 0x0#4 then .ok (.fence (bits w 4 3)) (fixed 8 (bits w 10 1 = 0x0#1) ++ fixed 3 (bits w 21 5 = 0x17#5) ++ fixed 3 (bits w 16 5 = 0x17#5) ++ fixed 3 (bits w 11 5 = 0x17#5) ++ fixed 3 (bits w 7 3 = 0x0#3))
  else if bits w 0 4 = 0x1#4 then .ok (.acq (bits w 16 5) (bits w 4 3)) (fixed 8 (bits w 10 1 = 0x0#1) ++ fixed 3 (bits w 21 5 = 0x17#5) ++ fixed 3 (bits w 11 5 = 0x17#5) ++ fixed 3 (bits w 7 3 = 0x0#3))
  else if bits w 0 4 = 0x2#4 then .ok (.rel (bits w 16 5) (bits w 10 1) (bits w 4 3)) (fixed 3 (bits w 21 5 = 0x17#5) ++ fixed 3 (bits w 11 5 = 0x17#5) ++ fixed 3 (bits w 7 3 = 0x0#3))
  else if bits w 0 4 = 0x3#4 then .ok .ifence (fixed 8 (bits w 10 1 = 0x0#1) ++ fixed 8 (bits w 4 3 = 0x0#3) ++ fixed 3 (bits w 21 5 = 0x17#5) ++ fixed 3 (bits w 16 5 = 0x17#5) ++ fixed 3 (bits w 11 5 = 0x17#5) ++ fixed 3 (bits w 7 3 = 0x0#3))
  else .bad 2

/-- Slot B, major opcode 0x1C. -/
def rawB1C (w : BitVec 32) : Raw :=
  if bits w 0 4 = 0x0#4 then .ok (.ringset (bits w 16 5) (bits w 7 4)) (fixed 3 (bits w 21 5 = 0x17#5) ++ fixed 3 (bits w 11 5 = 0x17#5) ++ fixed 3 (bits w 4 3 = 0x0#3))
  else if bits w 0 4 = 0x1#4 then .ok (.rneed (bits w 16 5) (bits w 7 4)) (fixed 3 (bits w 21 5 = 0x17#5) ++ fixed 3 (bits w 11 5 = 0x17#5) ++ fixed 3 (bits w 4 3 = 0x0#3))
  else if bits w 0 4 = 0x2#4 then .ok (.rfree (bits w 16 5) (bits w 7 4)) (fixed 3 (bits w 21 5 = 0x17#5) ++ fixed 3 (bits w 11 5 = 0x17#5) ++ fixed 3 (bits w 4 3 = 0x0#3))
  else if bits w 0 4 = 0x3#4 then .ok (.radv (bits w 16 5) (bits w 7 4)) (fixed 3 (bits w 21 5 = 0x17#5) ++ fixed 3 (bits w 11 5 = 0x17#5) ++ fixed 3 (bits w 4 3 = 0x0#3))
  else if bits w 0 4 = 0x4#4 then .ok (.rpub (bits w 16 5) (bits w 7 4)) (fixed 3 (bits w 21 5 = 0x17#5) ++ fixed 3 (bits w 11 5 = 0x17#5) ++ fixed 3 (bits w 4 3 = 0x0#3))
  else if bits w 0 4 = 0x5#4 then .ok (.rrd (bits w 21 5) (bits w 7 4)) (fixed 3 (bits w 16 5 = 0x17#5) ++ fixed 3 (bits w 11 5 = 0x17#5) ++ fixed 3 (bits w 4 3 = 0x0#3))
  else .bad 2

/-- Slot B, major opcode 0x1D. -/
def rawB1D (w : BitVec 32) : Raw :=
  if bits w 0 4 = 0x0#4 then .ok (.winset (bits w 16 5) (bits w 7 4)) (fixed 3 (bits w 21 5 = 0x17#5) ++ fixed 3 (bits w 11 5 = 0x17#5) ++ fixed 3 (bits w 4 3 = 0x0#3))
  else if bits w 0 4 = 0x1#4 then .ok (.winadv (bits w 16 5) (bits w 7 4)) (fixed 3 (bits w 21 5 = 0x17#5) ++ fixed 3 (bits w 11 5 = 0x17#5) ++ fixed 3 (bits w 4 3 = 0x0#3))
  else .bad 2

/-- Slot B, major opcode 0x1E. -/
def rawB1E (w : BitVec 32) : Raw :=
  if bits w 0 4 = 0x0#4 then .ok (.mapset (bits w 16 5) (bits w 7 4)) (fixed 3 (bits w 21 5 = 0x17#5) ++ fixed 3 (bits w 11 5 = 0x17#5) ++ fixed 3 (bits w 4 3 = 0x0#3))
  else if bits w 0 4 = 0x1#4 then .ok (.mapflush (bits w 7 4)) (fixed 3 (bits w 21 5 = 0x17#5) ++ fixed 3 (bits w 16 5 = 0x17#5) ++ fixed 3 (bits w 11 5 = 0x17#5) ++ fixed 3 (bits w 4 3 = 0x0#3))
  else if bits w 0 4 = 0x2#4 then .ok (.mapinv (bits w 7 4)) (fixed 3 (bits w 21 5 = 0x17#5) ++ fixed 3 (bits w 16 5 = 0x17#5) ++ fixed 3 (bits w 11 5 = 0x17#5) ++ fixed 3 (bits w 4 3 = 0x0#3))
  else .bad 2

/-- Slot B, major opcode 0x1F. -/
def rawB1F (w : BitVec 32) : Raw :=
  if bits w 0 4 = 0x0#4 then .ok (.mcfill (bits w 21 5) (bits w 16 5) (bits w 11 5) (bits w 7 3)) (fixed 8 (bits w 10 1 = 0x0#1) ++ fixed 8 (bits w 4 3 = 0x3#3))
  else .bad 2

/-- Slot B, major opcode 0x20. -/
def rawB20 (w : BitVec 32) : Raw :=
  if bits w 0 4 = 0x0#4 then .ok (.wbl (bits w 16 5) (bits w 7 3)) (fixed 8 (bits w 10 1 = 0x0#1) ++ fixed 8 (bits w 4 3 = 0x0#3) ++ fixed 3 (bits w 21 5 = 0x17#5) ++ fixed 3 (bits w 11 5 = 0x17#5))
  else if bits w 0 4 = 0x1#4 then .ok (.invl (bits w 16 5) (bits w 7 3)) (fixed 8 (bits w 10 1 = 0x0#1) ++ fixed 8 (bits w 4 3 = 0x0#3) ++ fixed 3 (bits w 21 5 = 0x17#5) ++ fixed 3 (bits w 11 5 = 0x17#5))
  else if bits w 0 4 = 0x2#4 then .ok (.wbinvl (bits w 16 5) (bits w 7 3)) (fixed 8 (bits w 10 1 = 0x0#1) ++ fixed 8 (bits w 4 3 = 0x0#3) ++ fixed 3 (bits w 21 5 = 0x17#5) ++ fixed 3 (bits w 11 5 = 0x17#5))
  else .bad 2

/-- Slot B, major opcode 0x28. -/
def rawB28 (w : BitVec 32) : Raw :=
  if bits w 0 6 = 0x0#6 then .ok (.qcopy (bits w 22 4) (bits w 17 5) (bits w 7 5) (bits w 6 1)) (fixed 3 (bits w 12 5 = 0x17#5))
  else if bits w 0 6 = 0x1#6 then .ok (.qgath (bits w 22 4) (bits w 17 5) (bits w 12 5) (bits w 7 5) (bits w 6 1)) ([])
  else if bits w 0 6 = 0x2#6 then .ok (.qscat (bits w 22 4) (bits w 17 5) (bits w 12 5) (bits w 7 5) (bits w 6 1)) ([])
  else if bits w 0 6 = 0x3#6 then .ok (.qfill (bits w 22 4) (bits w 17 5) (bits w 7 5) (bits w 6 1)) (fixed 3 (bits w 12 5 = 0x17#5))
  else if bits w 0 6 = 0x4#6 then .ok (.qdec (bits w 22 4) (bits w 17 5) (bits w 7 5) (bits w 6 1)) (fixed 3 (bits w 12 5 = 0x17#5))
  else if bits w 0 6 = 0x5#6 then .ok (.qenc (bits w 22 4) (bits w 17 5) (bits w 7 5) (bits w 6 1)) (fixed 3 (bits w 12 5 = 0x17#5))
  else if bits w 0 6 = 0x6#6 then .ok (.qcoll (bits w 22 4) (bits w 17 5) (bits w 7 5) (bits w 6 1)) (fixed 3 (bits w 12 5 = 0x17#5))
  else if bits w 0 6 = 0x7#6 then .ok (.qjoin (bits w 22 4) (bits w 17 5) (bits w 7 5) (bits w 6 1)) (fixed 3 (bits w 12 5 = 0x17#5))
  else if bits w 0 6 = 0x8#6 then .ok (.qsig (bits w 22 4) (bits w 7 5)) (fixed 9 (bits w 6 1 = 0x1#1) ++ fixed 3 (bits w 6 1 = 0x1#1 || bits w 7 5 = 0x17#5) ++ fixed 3 (bits w 17 5 = 0x17#5) ++ fixed 3 (bits w 12 5 = 0x17#5))
  else if bits w 0 6 = 0x9#6 then .ok (.qstat (bits w 22 4) (bits w 17 5) (bits w 12 5)) (fixed 9 (bits w 6 1 = 0x0#1) ++ fixed 3 (bits w 6 1 = 0x1#1 || bits w 7 5 = 0x17#5) ++ fixed 4 (bits w 6 1 = 0x0#1 || decide ((bits w 7 5).toNat < 24)))
  else .bad 2

/-- Slot B, major opcode 0x2C. -/
def rawB2C (w : BitVec 32) : Raw :=
  .ok (.movmWriteB (bits w 16 5) (bits w 0 6)) (fixed 3 (bits w 21 5 = 0x17#5) ++ fixed 3 (bits w 11 5 = 0x0#5) ++ fixed 3 (bits w 6 5 = 0x0#5))

/-- The map of slot B (R72). -/
def rawB (w : BitVec 32) : Raw :=
  let op := bits w 26 6
  if op = 0x00#6 then (if w = 0 then .ok .nop [] else .bad 3)
  else if op = 0x01#6 then rawB01 w
  else if op = 0x02#6 then rawB02 w
  else if op = 0x03#6 then rawB03 w
  else if op = 0x04#6 then rawB04 w
  else if op = 0x05#6 then rawB05 w
  else if op = 0x06#6 then rawB06 w
  else if op = 0x08#6 then rawB08 w
  else if op = 0x09#6 then rawB09 w
  else if op = 0x0A#6 then rawB0A w
  else if op = 0x0B#6 then rawB0B w
  else if op = 0x0C#6 then rawB0C w
  else if op = 0x0D#6 then rawB0D w
  else if op = 0x14#6 then rawB14 w
  else if op = 0x15#6 then rawB15 w
  else if op = 0x16#6 then rawB16 w
  else if op = 0x18#6 then rawB18 w
  else if op = 0x1C#6 then rawB1C w
  else if op = 0x1D#6 then rawB1D w
  else if op = 0x1E#6 then rawB1E w
  else if op = 0x1F#6 then rawB1F w
  else if op = 0x20#6 then rawB20 w
  else if op = 0x28#6 then rawB28 w
  else if op = 0x2C#6 then rawB2C w
  else .bad 1


/-- Slot C, major opcode 0x01. -/
def rawC01 (w : BitVec 32) : Raw :=
  .ok (.vadd (bits w 21 5) (bits w 16 5) (bits w 11 5) (bits w 8 3) (bits w 4 4) (bits w 2 2)) (fixed 3 (bits w 0 2 = 0x0#2))

/-- Slot C, major opcode 0x02. -/
def rawC02 (w : BitVec 32) : Raw :=
  .ok (.vsub (bits w 21 5) (bits w 16 5) (bits w 11 5) (bits w 8 3) (bits w 4 4) (bits w 2 2)) (fixed 3 (bits w 0 2 = 0x0#2))

/-- Slot C, major opcode 0x03. -/
def rawC03 (w : BitVec 32) : Raw :=
  .ok (.vmul (bits w 21 5) (bits w 16 5) (bits w 11 5) (bits w 8 3) (bits w 4 4) (bits w 2 2)) (fixed 3 (bits w 0 2 = 0x0#2))

/-- Slot C, major opcode 0x04. -/
def rawC04 (w : BitVec 32) : Raw :=
  .ok (.vfma (bits w 21 5) (bits w 16 5) (bits w 11 5) (bits w 8 3) (bits w 4 4) (bits w 2 2)) (fixed 3 (bits w 0 2 = 0x0#2))

/-- Slot C, major opcode 0x05. -/
def rawC05 (w : BitVec 32) : Raw :=
  .ok (.vmin (bits w 21 5) (bits w 16 5) (bits w 11 5) (bits w 8 3) (bits w 4 4)) (fixed 2 (bits w 2 2 = 0x0#2) ++ fixed 3 (bits w 0 2 = 0x0#2))

/-- Slot C, major opcode 0x06. -/
def rawC06 (w : BitVec 32) : Raw :=
  .ok (.vmax (bits w 21 5) (bits w 16 5) (bits w 11 5) (bits w 8 3) (bits w 4 4)) (fixed 2 (bits w 2 2 = 0x0#2) ++ fixed 3 (bits w 0 2 = 0x0#2))

/-- Slot C, major opcode 0x07. -/
def rawC07 (w : BitVec 32) : Raw :=
  .ok (.vabs (bits w 21 5) (bits w 16 5) (bits w 8 3) (bits w 4 4) (bits w 2 2)) (fixed 3 (bits w 11 5 = 0x17#5) ++ fixed 3 (bits w 0 2 = 0x0#2))

/-- Slot C, major opcode 0x08. -/
def rawC08 (w : BitVec 32) : Raw :=
  .ok (.vneg (bits w 21 5) (bits w 16 5) (bits w 8 3) (bits w 4 4) (bits w 2 2)) (fixed 3 (bits w 11 5 = 0x17#5) ++ fixed 3 (bits w 0 2 = 0x0#2))

/-- Slot C, major opcode 0x09. -/
def rawC09 (w : BitVec 32) : Raw :=
  if bits w 0 2 = 0x0#2 then .ok (.vcmpeq (bits w 21 5) (bits w 16 5) (bits w 11 5) (bits w 8 3) (bits w 4 4)) (fixed 3 (bits w 2 2 = 0x0#2))
  else if bits w 0 2 = 0x1#2 then .ok (.vcmpne (bits w 21 5) (bits w 16 5) (bits w 11 5) (bits w 8 3) (bits w 4 4)) (fixed 3 (bits w 2 2 = 0x0#2))
  else if bits w 0 2 = 0x2#2 then .ok (.vcmplt (bits w 21 5) (bits w 16 5) (bits w 11 5) (bits w 8 3) (bits w 4 4)) (fixed 3 (bits w 2 2 = 0x0#2))
  else if bits w 0 2 = 0x3#2 then .ok (.vcmple (bits w 21 5) (bits w 16 5) (bits w 11 5) (bits w 8 3) (bits w 4 4)) (fixed 3 (bits w 2 2 = 0x0#2))
  else .bad 2

/-- Slot C, major opcode 0x0A. -/
def rawC0A (w : BitVec 32) : Raw :=
  .ok (.vsel (bits w 21 5) (bits w 16 5) (bits w 11 5) (bits w 8 3)) (fixed 3 (bits w 0 8 = 0x0#8))

/-- Slot C, major opcode 0x0C. -/
def rawC0C (w : BitVec 32) : Raw :=
  if bits w 0 4 = 0x0#4 then .ok (.vexp2 (bits w 21 5) (bits w 16 5) (bits w 8 3) (bits w 4 4)) (fixed 3 (bits w 11 5 = 0x17#5))
  else if bits w 0 4 = 0x1#4 then .ok (.vlog2 (bits w 21 5) (bits w 16 5) (bits w 8 3) (bits w 4 4)) (fixed 3 (bits w 11 5 = 0x17#5))
  else if bits w 0 4 = 0x2#4 then .ok (.vrcp (bits w 21 5) (bits w 16 5) (bits w 8 3) (bits w 4 4)) (fixed 3 (bits w 11 5 = 0x17#5))
  else if bits w 0 4 = 0x3#4 then .ok (.vrsq (bits w 21 5) (bits w 16 5) (bits w 8 3) (bits w 4 4)) (fixed 3 (bits w 11 5 = 0x17#5))
  else if bits w 0 4 = 0x4#4 then .ok (.vsin (bits w 21 5) (bits w 16 5) (bits w 8 3) (bits w 4 4)) (fixed 3 (bits w 11 5 = 0x17#5))
  else if bits w 0 4 = 0x5#4 then .ok (.vcos (bits w 21 5) (bits w 16 5) (bits w 8 3) (bits w 4 4)) (fixed 3 (bits w 11 5 = 0x17#5))
  else if bits w 0 4 = 0x6#4 then .ok (.vtanh (bits w 21 5) (bits w 16 5) (bits w 8 3) (bits w 4 4)) (fixed 3 (bits w 11 5 = 0x17#5))
  else if bits w 0 4 = 0x7#4 then .ok (.vsigm (bits w 21 5) (bits w 16 5) (bits w 8 3) (bits w 4 4)) (fixed 3 (bits w 11 5 = 0x17#5))
  else .bad 2

/-- Slot C, major opcode 0x0D. -/
def rawC0D (w : BitVec 32) : Raw :=
  if bits w 0 8 = 0x0#8 then .ok (.vand (bits w 21 5) (bits w 16 5) (bits w 11 5) (bits w 8 3)) ([])
  else if bits w 0 8 = 0x1#8 then .ok (.vor (bits w 21 5) (bits w 16 5) (bits w 11 5) (bits w 8 3)) ([])
  else if bits w 0 8 = 0x2#8 then .ok (.vxor (bits w 21 5) (bits w 16 5) (bits w 11 5) (bits w 8 3)) ([])
  else if bits w 0 8 = 0x3#8 then .ok (.vandn (bits w 21 5) (bits w 16 5) (bits w 11 5) (bits w 8 3)) ([])
  else if bits w 0 8 = 0x4#8 then .ok (.vnot (bits w 21 5) (bits w 16 5) (bits w 8 3)) (fixed 3 (bits w 11 5 = 0x17#5))
  else .bad 2

/-- Slot C, major opcode 0x0E. -/
def rawC0E (w : BitVec 32) : Raw :=
  if bits w 0 4 = 0x0#4 then .ok (.vshl (bits w 21 5) (bits w 16 5) (bits w 11 5) (bits w 8 3) (bits w 4 4)) ([])
  else if bits w 0 4 = 0x1#4 then .ok (.vshr (bits w 21 5) (bits w 16 5) (bits w 11 5) (bits w 8 3) (bits w 4 4)) ([])
  else if bits w 0 4 = 0x2#4 then .ok (.vsra (bits w 21 5) (bits w 16 5) (bits w 11 5) (bits w 8 3) (bits w 4 4)) ([])
  else if bits w 0 4 = 0x3#4 then .ok (.vrotl (bits w 21 5) (bits w 16 5) (bits w 11 5) (bits w 8 3) (bits w 4 4)) ([])
  else .bad 2

/-- Slot C, major opcode 0x10. -/
def rawC10 (w : BitVec 32) : Raw :=
  .ok (.vcvt (bits w 21 5) (bits w 16 5) (bits w 12 4) (bits w 8 4) (bits w 5 3)) (fixed 3 (bits w 0 5 = 0x0#5))

/-- Slot C, major opcode 0x11. -/
def rawC11 (w : BitVec 32) : Raw :=
  if bits w 0 4 = 0x0#4 then .ok (.vpack (bits w 21 5) (bits w 16 5) (bits w 11 5) (bits w 8 3) (bits w 4 4)) ([])
  else if bits w 0 4 = 0x1#4 then .ok (.vunpkl (bits w 21 5) (bits w 16 5) (bits w 8 3) (bits w 4 4)) (fixed 3 (bits w 11 5 = 0x17#5))
  else if bits w 0 4 = 0x2#4 then .ok (.vunpkh (bits w 21 5) (bits w 16 5) (bits w 8 3) (bits w 4 4)) (fixed 3 (bits w 11 5 = 0x17#5))
  else .bad 2

/-- Slot C, major opcode 0x14. -/
def rawC14 (w : BitVec 32) : Raw :=
  if bits w 0 8 = 0x0#8 then .ok (.vperm (bits w 21 5) (bits w 16 5) (bits w 11 5) (bits w 8 3)) ([])
  else if bits w 0 8 = 0x1#8 then .ok (.vbcast (bits w 21 5) (bits w 16 5) (bits w 11 5) (bits w 8 3)) ([])
  else if bits w 0 8 = 0x2#8 then .ok (.vslideup (bits w 21 5) (bits w 16 5) (bits w 11 5) (bits w 8 3)) ([])
  else if bits w 0 8 = 0x3#8 then .ok (.vslidedn (bits w 21 5) (bits w 16 5) (bits w 11 5) (bits w 8 3)) ([])
  else if bits w 0 8 = 0x4#8 then .ok (.vrev (bits w 21 5) (bits w 16 5) (bits w 8 3)) (fixed 3 (bits w 11 5 = 0x17#5))
  else if bits w 0 8 = 0x5#8 then .ok (.vsplat (bits w 21 5) (bits w 16 5) (bits w 8 3)) (fixed 3 (bits w 11 5 = 0x17#5))
  else .bad 2

/-- Slot C, major opcode 0x18. -/
def rawC18 (w : BitVec 32) : Raw :=
  if bits w 0 4 = 0x0#4 then .ok (.vscani (bits w 21 5) (bits w 16 5) (bits w 8 3) (bits w 4 4)) (fixed 3 (bits w 11 5 = 0x17#5))
  else if bits w 0 4 = 0x1#4 then .ok (.vscanx (bits w 21 5) (bits w 16 5) (bits w 8 3) (bits w 4 4)) (fixed 3 (bits w 11 5 = 0x17#5))
  else if bits w 0 4 = 0x2#4 then .ok (.vscanmax (bits w 21 5) (bits w 16 5) (bits w 8 3) (bits w 4 4)) (fixed 3 (bits w 11 5 = 0x17#5))
  else if bits w 0 4 = 0x3#4 then .ok (.vscanmin (bits w 21 5) (bits w 16 5) (bits w 8 3) (bits w 4 4)) (fixed 3 (bits w 11 5 = 0x17#5))
  else .bad 2

/-- Slot C, major opcode 0x19. -/
def rawC19 (w : BitVec 32) : Raw :=
  if bits w 0 4 = 0x0#4 then .ok (.vredadd (bits w 21 5) (bits w 16 5) (bits w 8 3) (bits w 4 4)) (fixed 3 (bits w 11 5 = 0x17#5))
  else if bits w 0 4 = 0x1#4 then .ok (.vredmin (bits w 21 5) (bits w 16 5) (bits w 8 3) (bits w 4 4)) (fixed 3 (bits w 11 5 = 0x17#5))
  else if bits w 0 4 = 0x2#4 then .ok (.vredmax (bits w 21 5) (bits w 16 5) (bits w 8 3) (bits w 4 4)) (fixed 3 (bits w 11 5 = 0x17#5))
  else if bits w 0 4 = 0x3#4 then .ok (.vredand (bits w 21 5) (bits w 16 5) (bits w 8 3) (bits w 4 4)) (fixed 3 (bits w 11 5 = 0x17#5))
  else if bits w 0 4 = 0x4#4 then .ok (.vredor (bits w 21 5) (bits w 16 5) (bits w 8 3) (bits w 4 4)) (fixed 3 (bits w 11 5 = 0x17#5))
  else if bits w 0 4 = 0x5#4 then .ok (.vredxor (bits w 21 5) (bits w 16 5) (bits w 8 3) (bits w 4 4)) (fixed 3 (bits w 11 5 = 0x17#5))
  else .bad 2

/-- Slot C, major opcode 0x20. -/
def rawC20 (w : BitVec 32) : Raw :=
  if bits w 0 8 = 0x0#8 then .ok (.kand (bits w 21 5) (bits w 16 5) (bits w 11 5)) (fixed 3 (bits w 8 3 = 0x0#3))
  else if bits w 0 8 = 0x1#8 then .ok (.kor (bits w 21 5) (bits w 16 5) (bits w 11 5)) (fixed 3 (bits w 8 3 = 0x0#3))
  else if bits w 0 8 = 0x2#8 then .ok (.kxor (bits w 21 5) (bits w 16 5) (bits w 11 5)) (fixed 3 (bits w 8 3 = 0x0#3))
  else if bits w 0 8 = 0x3#8 then .ok (.kandn (bits w 21 5) (bits w 16 5) (bits w 11 5)) (fixed 3 (bits w 8 3 = 0x0#3))
  else if bits w 0 8 = 0x4#8 then .ok (.knot (bits w 21 5) (bits w 16 5)) (fixed 3 (bits w 11 5 = 0x17#5) ++ fixed 3 (bits w 8 3 = 0x0#3))
  else if bits w 0 8 = 0x5#8 then .ok (.kpop (bits w 21 5) (bits w 16 5)) (fixed 3 (bits w 11 5 = 0x17#5) ++ fixed 3 (bits w 8 3 = 0x0#3))
  else if bits w 0 8 = 0x6#8 then .ok (.kfirst (bits w 21 5) (bits w 16 5)) (fixed 3 (bits w 11 5 = 0x17#5) ++ fixed 3 (bits w 8 3 = 0x0#3))
  else if bits w 0 8 = 0x7#8 then .ok (.kfromv (bits w 21 5) (bits w 16 5)) (fixed 3 (bits w 11 5 = 0x17#5) ++ fixed 3 (bits w 8 3 = 0x0#3))
  else if bits w 0 8 = 0x8#8 then .ok (.ktov (bits w 21 5) (bits w 16 5)) (fixed 3 (bits w 11 5 = 0x17#5) ++ fixed 3 (bits w 8 3 = 0x0#3))
  else .bad 2

/-- Slot C, major opcode 0x24. -/
def rawC24 (w : BitVec 32) : Raw :=
  .ok (.vlds (bits w 21 5) (bits w 16 5) (bits w 0 16)) ([])

/-- Slot C, major opcode 0x25. -/
def rawC25 (w : BitVec 32) : Raw :=
  .ok (.vldsp (bits w 21 5) (bits w 16 5) (bits w 0 16)) ([])

/-- Slot C, major opcode 0x26. -/
def rawC26 (w : BitVec 32) : Raw :=
  .ok (.vsts (bits w 16 5) (bits w 11 5) (bits w 8 3)) (fixed 3 (bits w 21 5 = 0x17#5) ++ fixed 3 (bits w 0 8 = 0x0#8))

/-- Slot C, major opcode 0x27. -/
def rawC27 (w : BitVec 32) : Raw :=
  .ok (.vgath (bits w 21 5) (bits w 16 5) (bits w 11 5) (bits w 8 3)) (fixed 3 (bits w 0 8 = 0x0#8))

/-- Slot C, major opcode 0x28. -/
def rawC28 (w : BitVec 32) : Raw :=
  .ok (.vscat (bits w 21 5) (bits w 16 5) (bits w 11 5) (bits w 8 3)) (fixed 3 (bits w 0 8 = 0x0#8))

/-- Slot C, major opcode 0x2A. -/
def rawC2A (w : BitVec 32) : Raw :=
  .ok (.vrrd (bits w 21 5) (bits w 8 3) (bits w 4 4)) (fixed 3 (bits w 16 5 = 0x17#5) ++ fixed 3 (bits w 11 5 = 0x17#5) ++ fixed 3 (bits w 0 4 = 0x0#4))

/-- Slot C, major opcode 0x2B. -/
def rawC2B (w : BitVec 32) : Raw :=
  .ok (.vatomadd (bits w 21 5) (bits w 16 5) (bits w 11 5) (bits w 8 3)) (fixed 3 (bits w 0 8 = 0x0#8))

/-- Slot C, major opcode 0x2C. -/
def rawC2C (w : BitVec 32) : Raw :=
  .ok (.movmWriteC (bits w 16 5) (bits w 6 5) (bits w 0 6)) (fixed 3 (bits w 21 5 = 0x17#5) ++ fixed 3 (bits w 11 5 = 0x0#5))

/-- The map of slot C (R75). -/
def rawC (w : BitVec 32) : Raw :=
  let op := bits w 26 6
  if op = 0x00#6 then (if w = 0 then .ok .nop [] else .bad 3)
  else if op = 0x01#6 then rawC01 w
  else if op = 0x02#6 then rawC02 w
  else if op = 0x03#6 then rawC03 w
  else if op = 0x04#6 then rawC04 w
  else if op = 0x05#6 then rawC05 w
  else if op = 0x06#6 then rawC06 w
  else if op = 0x07#6 then rawC07 w
  else if op = 0x08#6 then rawC08 w
  else if op = 0x09#6 then rawC09 w
  else if op = 0x0A#6 then rawC0A w
  else if op = 0x0C#6 then rawC0C w
  else if op = 0x0D#6 then rawC0D w
  else if op = 0x0E#6 then rawC0E w
  else if op = 0x10#6 then rawC10 w
  else if op = 0x11#6 then rawC11 w
  else if op = 0x14#6 then rawC14 w
  else if op = 0x18#6 then rawC18 w
  else if op = 0x19#6 then rawC19 w
  else if op = 0x20#6 then rawC20 w
  else if op = 0x24#6 then rawC24 w
  else if op = 0x25#6 then rawC25 w
  else if op = 0x26#6 then rawC26 w
  else if op = 0x27#6 then rawC27 w
  else if op = 0x28#6 then rawC28 w
  else if op = 0x2A#6 then rawC2A w
  else if op = 0x2B#6 then rawC2B w
  else if op = 0x2C#6 then rawC2C w
  else .bad 1


/-- Slot D, major opcode 0x01. -/
def rawD01 (w : BitVec 32) : Raw :=
  .ok (.mma (bits w 21 5) (bits w 16 5) (bits w 3 1) (bits w 2 1) (bits w 0 2)) (fixed 3 (bits w 11 5 = 0x17#5) ++ fixed 3 (bits w 4 7 = 0x0#7))

/-- Slot D, major opcode 0x02. -/
def rawD02 (w : BitVec 32) : Raw :=
  .ok (.mmab (bits w 21 5) (bits w 16 5) (bits w 3 1) (bits w 2 1) (bits w 0 2)) (fixed 3 (bits w 11 5 = 0x17#5) ++ fixed 3 (bits w 4 7 = 0x0#7))

/-- Slot D, major opcode 0x04. -/
def rawD04 (w : BitVec 32) : Raw :=
  .ok (.bload (bits w 16 5) (bits w 0 2)) (fixed 3 (bits w 21 5 = 0x17#5) ++ fixed 3 (bits w 11 5 = 0x17#5) ++ fixed 3 (bits w 2 9 = 0x0#9))

/-- Slot D, major opcode 0x05. -/
def rawD05 (w : BitVec 32) : Raw :=
  .ok (.bclr (bits w 0 2)) (fixed 3 (bits w 21 5 = 0x17#5) ++ fixed 3 (bits w 16 5 = 0x17#5) ++ fixed 3 (bits w 11 5 = 0x17#5) ++ fixed 3 (bits w 2 9 = 0x0#9))

/-- Slot D, major opcode 0x06. -/
def rawD06 (w : BitVec 32) : Raw :=
  .ok (.fmtw (bits w 4 4) (bits w 0 4)) (fixed 3 (bits w 21 5 = 0x17#5) ++ fixed 3 (bits w 16 5 = 0x17#5) ++ fixed 3 (bits w 11 5 = 0x0#5) ++ fixed 3 (bits w 8 3 = 0x0#3))

/-- Slot D, major opcode 0x08. -/
def rawD08 (w : BitVec 32) : Raw :=
  .ok (.dzero (bits w 21 5)) (fixed 3 (bits w 16 5 = 0x17#5) ++ fixed 3 (bits w 11 5 = 0x17#5) ++ fixed 3 (bits w 0 11 = 0x0#11))

/-- Slot D, major opcode 0x09. -/
def rawD09 (w : BitVec 32) : Raw :=
  .ok (.dmov (bits w 21 5) (bits w 16 5)) (fixed 3 (bits w 11 5 = 0x17#5) ++ fixed 3 (bits w 0 11 = 0x0#11))

/-- Slot D, major opcode 0x0A. -/
def rawD0A (w : BitVec 32) : Raw :=
  .ok (.dadd (bits w 21 5) (bits w 16 5) (bits w 11 5)) (fixed 3 (bits w 0 11 = 0x0#11))

/-- Slot D, major opcode 0x0B. -/
def rawD0B (w : BitVec 32) : Raw :=
  .ok (.dscl (bits w 21 5) (bits w 0 8)) (fixed 3 (bits w 16 5 = 0x17#5) ++ fixed 3 (bits w 11 5 = 0x0#5) ++ fixed 3 (bits w 8 3 = 0x0#3))

/-- Slot D, major opcode 0x0C. -/
def rawD0C (w : BitVec 32) : Raw :=
  .ok (.dcvt (bits w 21 5) (bits w 16 5) (bits w 4 2) (bits w 0 4)) (fixed 3 (bits w 11 5 = 0x17#5) ++ fixed 3 (bits w 6 5 = 0x0#5))

/-- Slot D, major opcode 0x0D. -/
def rawD0D (w : BitVec 32) : Raw :=
  .ok (.drd (bits w 21 5) (bits w 16 5) (bits w 11 5)) (fixed 3 (bits w 0 11 = 0x0#11))

/-- Slot D, major opcode 0x0E. -/
def rawD0E (w : BitVec 32) : Raw :=
  .ok (.dwr (bits w 21 5) (bits w 16 5) (bits w 11 5)) (fixed 3 (bits w 0 11 = 0x0#11))

/-- Slot D, major opcode 0x0F. -/
def rawD0F (w : BitVec 32) : Raw :=
  .ok (.mstat (bits w 21 5) (bits w 0 4)) (fixed 3 (bits w 16 5 = 0x17#5) ++ fixed 3 (bits w 11 5 = 0x17#5) ++ fixed 3 (bits w 4 7 = 0x0#7))

/-- Slot D, major opcode 0x20. -/
def rawD20 (w : BitVec 32) : Raw :=
  if bits w 0 4 = 0x0#4 then .ok (.phnew (bits w 21 5) (bits w 16 5) (bits w 11 5)) (fixed 3 (bits w 4 7 = 0x0#7))
  else if bits w 0 4 = 0x1#4 then .ok (.phreg (bits w 16 5) (bits w 4 2)) (fixed 3 (bits w 21 5 = 0x17#5) ++ fixed 3 (bits w 11 5 = 0x17#5) ++ fixed 3 (bits w 6 5 = 0x0#5))
  else if bits w 0 4 = 0x2#4 then .ok (.phdrop (bits w 16 5)) (fixed 3 (bits w 21 5 = 0x17#5) ++ fixed 3 (bits w 11 5 = 0x17#5) ++ fixed 3 (bits w 4 7 = 0x0#7))
  else if bits w 0 4 = 0x3#4 then .ok (.phsig (bits w 16 5)) (fixed 3 (bits w 21 5 = 0x17#5) ++ fixed 3 (bits w 11 5 = 0x17#5) ++ fixed 3 (bits w 4 7 = 0x0#7))
  else if bits w 0 4 = 0x4#4 then .ok (.phwait (bits w 16 5)) (fixed 3 (bits w 21 5 = 0x17#5) ++ fixed 3 (bits w 11 5 = 0x17#5) ++ fixed 3 (bits w 4 7 = 0x0#7))
  else if bits w 0 4 = 0x5#4 then .ok (.phsw (bits w 16 5)) (fixed 3 (bits w 21 5 = 0x17#5) ++ fixed 3 (bits w 11 5 = 0x17#5) ++ fixed 3 (bits w 4 7 = 0x0#7))
  else if bits w 0 4 = 0x6#4 then .ok (.phqry (bits w 21 5) (bits w 16 5) (bits w 11 5)) (fixed 3 (bits w 4 7 = 0x0#7))
  else .bad 2

/-- Slot D, major opcode 0x24. -/
def rawD24 (w : BitVec 32) : Raw :=
  if bits w 0 11 = 0x0#11 then .ok .tend (fixed 3 (bits w 21 5 = 0x17#5) ++ fixed 3 (bits w 16 5 = 0x17#5) ++ fixed 3 (bits w 11 5 = 0x17#5))
  else if bits w 0 11 = 0x1#11 then .ok .taskend (fixed 3 (bits w 21 5 = 0x17#5) ++ fixed 3 (bits w 16 5 = 0x17#5) ++ fixed 3 (bits w 11 5 = 0x17#5))
  else .bad 2

/-- Slot D, major opcode 0x25. -/
def rawD25 (w : BitVec 32) : Raw :=
  .ok (.launch (bits w 16 5)) (fixed 3 (bits w 21 5 = 0x17#5) ++ fixed 3 (bits w 11 5 = 0x17#5) ++ fixed 3 (bits w 0 11 = 0x0#11))

/-- Slot D, major opcode 0x28. -/
def rawD28 (w : BitVec 32) : Raw :=
  .swpt (bits w 0 12) (fixed 3 (bits w 21 5 = 0x17#5) ++ fixed 3 (bits w 16 5 = 0x17#5) ++ fixed 3 (bits w 12 4 = 0x0#4))

/-- Slot D, major opcode 0x29. -/
def rawD29 (w : BitVec 32) : Raw :=
  if bits w 0 11 = 0x0#11 then .ok (.lease (bits w 16 5)) (fixed 3 (bits w 21 5 = 0x17#5) ++ fixed 3 (bits w 11 5 = 0x17#5))
  else if bits w 0 11 = 0x1#11 then .ok .leaserel (fixed 3 (bits w 21 5 = 0x17#5) ++ fixed 3 (bits w 16 5 = 0x17#5) ++ fixed 3 (bits w 11 5 = 0x17#5))
  else .bad 2

/-- Slot D, major opcode 0x2C. -/
def rawD2C (w : BitVec 32) : Raw :=
  .ok (.movmWriteD (bits w 16 5) (bits w 0 6)) (fixed 3 (bits w 21 5 = 0x17#5) ++ fixed 3 (bits w 11 5 = 0x0#5) ++ fixed 3 (bits w 6 5 = 0x0#5))

/-- The map of slot D (R77). -/
def rawD (w : BitVec 32) : Raw :=
  let op := bits w 26 6
  if op = 0x00#6 then (if w = 0 then .ok .nop [] else .bad 3)
  else if op = 0x01#6 then rawD01 w
  else if op = 0x02#6 then rawD02 w
  else if op = 0x04#6 then rawD04 w
  else if op = 0x05#6 then rawD05 w
  else if op = 0x06#6 then rawD06 w
  else if op = 0x08#6 then rawD08 w
  else if op = 0x09#6 then rawD09 w
  else if op = 0x0A#6 then rawD0A w
  else if op = 0x0B#6 then rawD0B w
  else if op = 0x0C#6 then rawD0C w
  else if op = 0x0D#6 then rawD0D w
  else if op = 0x0E#6 then rawD0E w
  else if op = 0x0F#6 then rawD0F w
  else if op = 0x20#6 then rawD20 w
  else if op = 0x24#6 then rawD24 w
  else if op = 0x25#6 then rawD25 w
  else if op = 0x28#6 then rawD28 w
  else if op = 0x29#6 then rawD29 w
  else if op = 0x2C#6 then rawD2C w
  else .bad 1


/-- What a slot's map says of a word. -/
def raw : Slot → BitVec 32 → Raw
  | .a, w => rawA w
  | .b, w => rawB w
  | .c, w => rawC w
  | .d, w => rawD w

/-- The cases of R62 that a slot word breaks by itself. -/
def wordCases (caps : List (BitVec 12)) (r : Raw) : List Nat :=
  match r with
  | .bad c => [c]
  | .ok i cs => cs ++ i.illegal caps
  | .swpt _ cs => cs

/-- The instruction of a slot word (R67), or none where the word is an illegal encoding. -/
noncomputable def decodeSlot (caps : List (BitVec 12)) (s : Slot) (w : BitVec 32) : Option Instr :=
  if wordCases caps (raw s w) = [] then (raw s w).instr else none

/-! ## Headers and bundles -/

/-- Whether a word is a header (R29). -/
def isHeader (w : BitVec 32) : Bool := bits w 26 6 = 0x3F#6

/-- The ports that a HDR.P allots: slot number (0 none, 1 B, 2 C, 3 D) and register, p0 first (R59). -/
def headerPorts (w : BitVec 32) : List (BitVec 2 × BitVec 6) :=
  if isHeader w && !w.getLsbD 25 then
    [(bits w 6 2, bits w 0 6), (bits w 14 2, bits w 8 6), (bits w 22 2, bits w 16 6)]
  else []

/-- The byte that HDR.X lends to slot B, C or D (R59, R61); zero without HDR.X. -/
def headerByte (w : BitVec 32) : Slot → BitVec 8
  | .a => 0
  | .b => if isHeader w && w.getLsbD 25 then bits w 0 8 else 0
  | .c => if isHeader w && w.getLsbD 25 then bits w 8 8 else 0
  | .d => if isHeader w && w.getLsbD 25 then bits w 16 8 else 0

/-- Whether a bundle's slot A word is HDR.X. -/
def isHdrX (w : BitVec 32) : Bool := isHeader w && w.getLsbD 25

/-- Whether HDR.X may lend a byte to an instruction: it has an off10, or an imm16 that extends (R61). -/
def Instr.extends_ : Instr → Bool
  | .lds .. | .ldsx .. | .sts .. | .ldr .. | .ldrx .. | .str .. | .ldg .. | .ldgx .. | .stg .. | .ldgs .. | .ldgsx ..
  | .ldk .. | .vlds .. | .vldsp .. => true
  | _ => false

/-- The main-file register that a MOVM write names (R71). -/
def Instr.movmTarget : Instr → Option (BitVec 6)
  | .movmWriteA _ n => some n
  | .movmWriteB _ n => some n
  | .movmWriteC _ _ n => some n
  | .movmWriteD _ n => some n
  | _ => none

/-- The cases that a header word breaks by itself (R59, R60). -/
def headerCases (w : BitVec 32) : List Nat :=
  fixed 3 (!w.getLsbD 24) ++
  (headerPorts w).flatMap fun p => fixed 3 (p.1 ≠ 0 || p.2 = 0)

/-- A bundle's register fields: slot A's instruction, or none under a header, and those of slots B to D (`Raw.view`). -/
structure Bundle where
  a : Option Instr
  b : Instr
  c : Instr
  d : Instr
  deriving DecidableEq, Repr

/-- The lowest number of a nonempty list. -/
def lowest : List Nat → Option Nat
  | [] => none
  | c :: t => some (t.foldl min c)

/-- The registers that a slot word names where a port may stand (R35); among them the completion source of a QSTAT whose SIG is
1, which no legal QSTAT has (R57). -/
def portFields (s : Slot) (w : BitVec 32) : List Reg :=
  (((raw s w).view.map fun v => v.1.operands).getD []).filterMap (fun p => if p.1.port then some p.2 else none) ++
  (if s = .b && bits w 26 6 = 0x28 && bits w 0 6 = 0x09 && bits w 6 1 = 1 then [bits w 7 5] else [])

/-- The cases that slot `s` of a bundle breaks (R62, R63): of the word itself; case 5 where an operand names a port not
allotted to the slot; case 1 for the major opcode 0x29 of slot D on a module without boost leases (R69). -/
def slotCases (caps : List (BitVec 12)) (hdr : BitVec 32) (s : Slot) (w : BitVec 32) : List Nat :=
  let ports := headerPorts hdr
  let port5 := (portFields s w).filterMap fun r =>
    if 20 ≤ r.toNat && r.toNat ≤ 22 then
      (if (ports[r.toNat - 20]?).any fun q => q.1 = s.num then none else some 5)
    else none
  (if s = .d && bits w 26 6 = 0x29 && !caps.contains 0x009 then [1] else []) ++ wordCases caps (raw s w) ++ port5

/-- The slot of the third MOVM write, or of the second one to one main-file register, whichever comes first (R36, R63). -/
def movmBreach : List (Slot × BitVec 6) → List (BitVec 6) → Option Slot
  | [], _ => none
  | (s, n) :: t, seen => if 2 ≤ seen.length || seen.contains n then some s else movmBreach t (n :: seen)

/-- The instruction of a word for its register fields, whatever cases its fields break. -/
def rawView (s : Slot) (w : BitVec 32) : Option Instr := (raw s w).view.map (·.1)

/-- The MOVM writes of a bundle in slot order. -/
def movmWrites (wa wb wc wd : BitVec 32) : List (Slot × BitVec 6) :=
  [(Slot.a, wa), (.b, wb), (.c, wc), (.d, wd)].filterMap fun p =>
    ((rawView p.1 p.2).bind Instr.movmTarget).map fun n => (p.1, n)

/-- Case 7: HDR.X lends a nonzero byte to a slot that cannot use it (R61); a slot whose word stands for no instruction cannot
(log 48). -/
def case7 (wa : BitVec 32) (s : Slot) (w : BitVec 32) : Bool :=
  headerByte wa s ≠ 0 && !((rawView s w).any Instr.extends_)

/-- The cases of R62 in each slot of a bundle, A to D. -/
def bundleCases (caps : List (BitVec 12)) (wa wb wc wd : BitVec 32) : List (Slot × List Nat) :=
  let six := movmBreach (movmWrites wa wb wc wd) []
  let c6 (s : Slot) : List Nat := if six = some s then [6] else []
  let ca := if isHeader wa then
      headerCases wa ++ (if case7 wa .b wb || case7 wa .c wc || case7 wa .d wd then [7] else [])
    else slotCases caps 0 .a wa
  [(.a, ca ++ c6 .a), (.b, slotCases caps wa .b wb ++ c6 .b), (.c, slotCases caps wa .c wc ++ c6 .c),
   (.d, slotCases caps wa .d wd ++ c6 .d)]

/-- Decode a bundle whole (R62, R63): the lowest slot with a breach and the lowest case there, or the instructions. -/
def decodeBundle (caps : List (BitVec 12)) (wa wb wc wd : BitVec 32) : Except (Slot × Nat) Bundle :=
  match (bundleCases caps wa wb wc wd).findSome? fun p => (lowest p.2).map fun c => (p.1, c) with
  | some e => .error e
  | none =>
    match (if isHeader wa then some none else (rawView .a wa).map some), rawView .b wb, rawView .c wc, rawView .d wd with
    | some ia, some ib, some ic, some id_ => .ok ⟨ia, ib, ic, id_⟩
    | _, _, _, _ => .error (.a, 1)

/-! ## The host's view of a table word -/

/-- How many bits of its word the table's row of an instruction fixes. -/
def Instr.fixedBits : Instr → Nat
  | .addi .. | .andi .. | .ori .. | .xori .. | .liu .. | .brz .. | .brnz .. | .call .. | .chk .. | .sts ..
  | .str .. | .stg .. | .vlds .. | .vldsp .. => 6
  | .lds .. | .ldsx .. | .ldr .. | .ldrx .. | .ldg .. | .ldgx .. | .ldgs .. | .ldgsx .. => 7
  | .vadd .. | .vsub .. | .vmul .. | .vfma .. => 8
  | .exti .. | .extui .. | .insi .. | .csrwr .. | .csrset .. | .csrclr .. | .ldk .. | .vmin .. | .vmax ..
  | .vcmpeq .. | .vcmpne .. | .vcmplt .. | .vcmple .. | .vshl .. | .vshr .. | .vsra .. | .vrotl .. | .vpack .. => 10
  | .li .. | .br .. | .vcvt .. => 11
  | .fcvt .. | .atsCas .. | .atrCas .. | .atgCas .. | .qgath .. | .qscat .. => 12
  | .vabs .. | .vneg .. => 13
  | .mcfill .. | .vsel .. | .vand .. | .vor .. | .vxor .. | .vandn .. | .vperm .. | .vbcast .. | .vslideup ..
  | .vslidedn .. | .vgath .. | .vscat .. | .vatomadd .. => 14
  | .faddS .. | .fsubS .. | .fmulS .. | .fmaS .. | .faddD .. | .fsubD .. | .fmulD .. | .fmaD .. | .csrrd ..
  | .vexp2 .. | .vlog2 .. | .vrcp .. | .vrsq .. | .vsin .. | .vcos .. | .vtanh .. | .vsigm .. | .vunpkl ..
  | .vunpkh .. | .vscani .. | .vscanx .. | .vscanmax .. | .vscanmin .. | .vredadd .. | .vredmin .. | .vredmax ..
  | .vredand .. | .vredor .. | .vredxor .. => 15
  | .shli .. | .shri .. | .srai .. | .rotri .. | .trap .. | .svc .. | .segbeg .. | .movmWriteC .. | .dcvt .. => 16
  | .add .. | .sub .. | .and .. | .or .. | .xor .. | .andn .. | .shl .. | .shr .. | .sra .. | .rotr .. | .min ..
  | .max .. | .minu .. | .maxu .. | .mul .. | .mulh .. | .mulhu .. | .ext .. | .extu .. | .ins .. | .cmpeq ..
  | .cmpne .. | .cmplt .. | .cmple .. | .cmpltu .. | .cmpleu .. | .sel .. | .fminS .. | .fmaxS .. | .fcmpeqS ..
  | .fcmpltS .. | .fcmpleS .. | .fcmpunS .. | .fminD .. | .fmaxD .. | .fcmpeqD .. | .fcmpltD .. | .fcmpleD ..
  | .fcmpunD .. | .atsAdd .. | .atsSwap .. | .atsAnd .. | .atsOr .. | .atsXor .. | .atsSmin .. | .atsSmax ..
  | .atrAdd .. | .atrSwap .. | .atrAnd .. | .atrOr .. | .atrXor .. | .atrSmin .. | .atrSmax .. | .atgAdd ..
  | .atgSwap .. | .atgAnd .. | .atgOr .. | .atgXor .. | .atgSmin .. | .atgSmax .. | .qcopy .. | .qfill ..
  | .qdec .. | .qenc .. | .qcoll .. | .qjoin .. | .kand .. | .kor .. | .kxor .. | .kandn .. | .dadd .. | .drd ..
  | .dwr .. | .phnew .. | .phqry .. => 17
  | .qstat .. | .mma .. | .mmab .. => 18
  | .vnot .. | .vrev .. | .vsplat .. | .vsts .. | .dscl .. => 19
  | .vrrd .. | .swpt .. => 20
  | .movmWriteA .. | .movmRead .. | .movmWriteB .. | .movmWriteD .. => 21
  | .clz .. | .ctz .. | .popc .. | .brev .. | .tagp .. | .tagc .. | .fabsS .. | .fnegS .. | .fabsD ..
  | .fnegD .. | .callr .. | .segend .. | .knot .. | .kpop .. | .kfirst .. | .kfromv .. | .ktov .. | .dmov .. => 22
  | .rel .. | .ringset .. | .rneed .. | .rfree .. | .radv .. | .rpub .. | .rrd .. | .winset .. | .winadv ..
  | .mapset .. | .qsig .. | .mstat .. => 23
  | .acq .. | .wbl .. | .invl .. | .wbinvl .. | .fmtw .. => 24
  | .bload .. | .phreg .. => 25
  | .jr .. | .ret .. | .dzero .. | .phdrop .. | .phsig .. | .phwait .. | .phsw .. | .launch .. | .lease .. => 27
  | .mapflush .. | .mapinv .. => 28
  | .fence .. => 29
  | .bclr .. => 30
  | .nop .. | .rft .. | .halt .. | .ifence .. | .tend .. | .taskend .. | .leaserel .. => 32
  | _ => 0

/-- How many bits the row of a legal word fixes, plus one; 0 where the slot's map does not take the word. -/
def slotFit (w : BitVec 32) (s : Slot) : Nat :=
  let r := raw s w
  if wordCases Config.caps r = [] then
    match r with
    | .bad _ => 0
    | .ok i _ => i.fixedBits + 1
    | .swpt _ _ => 21
  else 0

/-- The slot whose map takes a word (log 13): a table word does not say its slot (R53), so the row that fixes most bits of
the word is taken, C before A before B before D among equals; none where no map takes it. -/
def tableSlot (w : BitVec 32) : Option Slot :=
  [Slot.c, .a, .b, .d].foldl (fun best s =>
    if slotFit w s = 0 then best else
    match best with
    | none => some s
    | some t => if slotFit w t < slotFit w s then some s else best) none

/-- The instruction that the decoder reads from a table word of 32 bits. -/
noncomputable def decodeTableWord (nbits w : Nat) : Option Instr :=
  if nbits ≤ 32 then (tableSlot (BitVec.ofNat 32 w)).bind fun s => decodeSlot Config.caps s (BitVec.ofNat 32 w)
  else none

end Sys2Proof
end

