-- ==== Sys2Proof/Machine/Map.lean ====
section
/-!
DEFINITION. The one sparse table of the model: a list of key and value pairs with strictly rising keys, in which no entry
holds the default value. Memory, tiles, weight images, tables and cores are all of this shape.
-/

namespace Sys2Proof.Machine

/-- The value at a key; an unlisted key holds the default. -/
def smGet {α : Type} (d : α) (k : Nat) : SMap α → α
  | [] => d
  | (j, v) :: t => if j = k then v else smGet d k t

/-- Remove a key. -/
def smDel {α : Type} (k : Nat) : SMap α → SMap α
  | [] => []
  | (j, v) :: t => if j < k then (j, v) :: smDel k t else if j = k then t else (j, v) :: t

/-- Put a value at a key, at its sorted place. -/
def smPut {α : Type} (k : Nat) (v : α) : SMap α → SMap α
  | [] => [(k, v)]
  | (j, w) :: t => if j < k then (j, w) :: smPut k v t else if j = k then (k, v) :: t else (k, v) :: (j, w) :: t

/-- Write a value at a key in canonical form: the default is not listed. -/
def smSet {α : Type} [DecidableEq α] (d : α) (k : Nat) (v : α) (m : SMap α) : SMap α :=
  if v = d then smDel k m else smPut k v m

/-- Keys strictly rise, and every key is above `lo` when `lo` is given. -/
def smSorted {α : Type} : Option Nat → SMap α → Bool
  | _, [] => true
  | lo, (j, _) :: t => (match lo with | none => true | some l => decide (l < j)) && smSorted (some j) t

/-- The canonical form of a table. -/
def smWf {α : Type} [DecidableEq α] (d : α) (m : SMap α) : Bool :=
  smSorted none m && m.all fun e => decide (e.2 ≠ d)

/-- Remove every key of a range. -/
def smClear {α : Type} (lo len : Nat) (m : SMap α) : SMap α :=
  m.filter fun e => !(decide (lo ≤ e.1) && decide (e.1 < lo + len))

/-- The part of a table in a range. -/
def smSlice {α : Type} (lo len : Nat) (m : SMap α) : SMap α :=
  m.filter fun e => decide (lo ≤ e.1) && decide (e.1 < lo + len)

/-- Insert a number into a sorted list without repeats. -/
def setIns (k : Nat) : List Nat → List Nat
  | [] => [k]
  | j :: t => if j < k then j :: setIns k t else if j = k then j :: t else k :: j :: t

/-- Remove a number from a list without repeats. -/
def setDel (k : Nat) (l : List Nat) : List Nat := l.filter fun j => !(j == k)

/-- Bytes `a` to `a + n - 1` of a sparse byte table, lowest first. -/
def readBytes (m : SMap Byte) (a n : Nat) : List Byte :=
  (List.range n).map fun i => smGet 0 (a + i) m

/-- Write bytes from `a` on. -/
def writeBytes (m : SMap Byte) (a : Nat) : List Byte → SMap Byte
  | [] => m
  | x :: t => writeBytes (smSet 0 a x m) (a + 1) t

/-- The number that little-endian bytes spell (R5). -/
def leNat : List Byte → Nat
  | [] => 0
  | x :: t => x.toNat + 256 * leNat t

/-- The `n` low bytes of a number, lowest first (R5). -/
def leBytes : Nat → Nat → List Byte
  | 0, _ => []
  | n + 1, x => BitVec.ofNat 8 x :: leBytes n (x / 256)

/-- Read `n` bytes as a number. -/
def readLe (m : SMap Byte) (a n : Nat) : Nat := leNat (readBytes m a n)

end Sys2Proof.Machine
end

