-- ==== Sys2Proof/Machine/State.lean ====
section
/-!
DEFINITION. The state of the module as plain data: contexts, cores, groves, dies, partitions, the scheduler's launches and
tasks, phasers, memory, the trunk die's registers, dormancy and start; the outcome's reasons; the state after reset.
-/

namespace Sys2Proof.Machine

/-! ## Values and register files -/

/-- A 64-bit value with its 2-bit tag: 0 clean, 1 deferred, 2 poison, 3 never produced (R48). -/
structure TVal where
  val : BitVec 64
  tag : BitVec 2
  deriving DecidableEq, Repr

/-- Zero with a clean tag. -/
def TVal.zero : TVal := ⟨0, 0⟩

/-- A vector register: 64 lanes, a side bit per lane, the speculative flag (R30, R50). -/
structure VReg where
  lanes : Vector (BitVec 32) 64
  side : BitVec 64
  spec : Bool
  deriving DecidableEq, Repr

/-- All lanes zero, side bits and flag clear. -/
def VReg.zero : VReg := ⟨Vector.replicate 64 0, 0, false⟩

/-- The tile formats, with the codes of R172. -/
inductive TileFmt where
  | fp32 | fx96 | bf16 | fp16 | int32
  deriving DecidableEq, Repr

/-- One tile element: for FX96 the pair (W, N) and the NaN bit (R116), else the value in the low bits; and the side bit. -/
structure Elem where
  bits : BitVec 112
  nan : Bool
  side : Bool
  deriving DecidableEq, Repr

/-- An element that holds +0 with its side bit clear. -/
def Elem.zero : Elem := ⟨0, false, false⟩

/-- An accumulator tile (R171, R172): element (m, n) stands at key 64 m + n; an absent key holds `Elem.zero`. -/
structure Tile where
  fmt : TileFmt
  scale : BitVec 8
  elems : SMap Elem
  deriving DecidableEq, Repr

/-- The tile at the start of a task (R171). -/
def Tile.zero : Tile := ⟨.fp32, 0, []⟩

/-- A weight slot (R171): its image by byte (absent: zero), a side bit per element, the recorded format or empty. The 16
stripe copies are always equal, so one is kept. -/
structure WSlot where
  image : SMap Byte
  side : BitVec 4096
  fmt : Option (BitVec 4)
  deriving DecidableEq, Repr

/-- An empty weight slot. -/
def WSlot.zero : WSlot := ⟨[], 0, none⟩

/-! ## Handles, windows, maps -/

/-- A window descriptor (R207). -/
structure WinDesc where
  tbase : BitVec 56
  s0 : BitVec 64
  s1 : BitVec 64
  s2 : BitVec 64
  e0 : BitVec 32
  e1 : BitVec 32
  e2 : BitVec 32
  deriving DecidableEq, Repr

/-- A fetched window row that has not arrived: its bytes, and which of its 64-byte scratchpad blocks arrive poisoned. -/
structure Row where
  bytes : List Byte
  poison : List Bool
  deriving DecidableEq, Repr

/-- A bound window: its descriptor, the next row to fetch, the rows fetched and not arrived, and whether the fetch at the
head of the address queue is held (R207, R208). -/
structure Window where
  desc : WinDesc
  t : Nat
  arriving : List Row
  held : Bool
  deriving DecidableEq, Repr

/-- A ring handle (R205), with its window. -/
structure Handle where
  rowsM1 : BitVec 12
  rowb : BitVec 12
  base : BitVec 15
  fill : BitVec 13
  head : BitVec 12
  tail : BitVec 12
  cursor : BitVec 21
  win : Option Window
  deriving DecidableEq, Repr

/-- A handle without a ring. -/
def Handle.zero : Handle := ⟨0, 0, 0, 0, 0, 0, 0, none⟩

/-- A translated address: where it lies, its page's policy, W and OWNK, the entry, the page's first physical byte and its bytes,
whether it is a slab, the log of a slab's row (else of the page), the entry's virtual range (its first byte and the log of its
bytes), its level and its words. -/
structure Xlat where
  pa : Nat
  remote : Option (BitVec 18)
  pol : BitVec 2
  w : Bool
  ownk : Bool
  entry : Nat
  pagePa : Nat
  pageBytes : Nat
  slab : Bool
  rowLog : Nat
  page : Nat
  log : Nat
  level : Nat
  w0 : BitVec 64
  w1 : BitVec 64
  deriving DecidableEq, Repr

/-- A filled granule of a map: its dirty blocks, the blocks whose page had W at the fill (R210, R400), and whether a
write has made it dirty; and the translations that its blocks were filled through (R402). -/
structure Granule where
  dirty : BitVec 64
  writable : BitVec 64
  homes : List (Nat × List (Xlat × Nat))
  deriving DecidableEq, Repr

/-- A map descriptor (R281). -/
structure MapDesc where
  vbase : BitVec 56
  s1 : BitVec 64
  s2 : BitVec 64
  spbase : BitVec 32
  len : BitVec 32
  rowb : BitVec 32
  e1 : BitVec 32
  deriving DecidableEq, Repr

/-- A map unit: bound or not, and its filled granules by number; an absent granule is empty (R209, R210). -/
structure MapUnit where
  desc : Option MapDesc
  grans : List (Nat × Granule)
  deriving DecidableEq, Repr

/-! ## Queues -/

/-- The commands that take a queue entry (R291). -/
inductive QKind where
  | copy | gath | scat | fill | dec | enc | coll | join | sig
  deriving DecidableEq, Repr

/-- A command block (R293), as copied at acceptance. -/
structure Block where
  dst : BitVec 64
  src : BitVec 64
  len : BitVec 32
  dspace : BitVec 4
  sspace : BitVec 4
  arg0 : BitVec 8
  arg1 : BitVec 16
  arg2 : BitVec 64
  arg3 : BitVec 64
  arg4 : BitVec 64
  arg5 : BitVec 64
  deriving DecidableEq, Repr

/-- A collective's place in its group, read at issue (R316): group entry word and number of members. -/
structure CollInfo where
  phaser : BitVec 32
  timeout : BitVec 16
  rank : BitVec 16
  nm1 : BitVec 16
  deriving DecidableEq, Repr

/-- An accepted queue entry (R288). `joins` names, for QJOIN, each queue and how many of its entries must have completed;
`started` holds from the first unit; `after` is the number of the first request that its issuing context made later (R242).
A QDEC, QENC or QCOLL holds in `got` what it has read and in `out` what it writes; `keyed` holds once the entry has become
the head and read its key slot, whose key for this context is `key` (R420). `bad` are the offsets in a tile's image at which
it wrote a byte of a poison-marked block (R295). `worded` holds once the completion word is written (R293). -/
structure QEntry where
  kind : QKind
  blk : Block
  blkAddr : BitVec 32
  idx : BitVec 32
  sig : Option (BitVec 32)
  joins : List (BitVec 4 × Nat)
  coll : Option CollInfo
  prog : Nat
  resume : Nat
  started : Bool
  status : BitVec 4
  step : BitVec 32
  failAddr : BitVec 56
  finished : Bool
  worded : Bool
  after : Nat
  got : List (Byte × Bool)
  out : Option (List (Byte × Bool))
  bad : List Nat
  keyed : Bool
  key : Option (BitVec 256)
  deriving DecidableEq, Repr

/-- One asynchronous queue of a core (R288, R306). `owed` holds the detail words of queue-fault traps not yet taken, `fault`
the detail word of the latest halting entry (R289); `held` holds while the head's unit waits for a page or for an answer, and
`nacked` when that is the answer to a request of its (R290). -/
structure Queue where
  entries : List QEntry
  halt : Bool
  last : BitVec 4
  accepted : Nat
  completed : Nat
  owed : List (BitVec 64)
  held : Bool
  nacked : Bool
  fault : BitVec 64
  deriving DecidableEq, Repr

/-- A queue at the start of a task. -/
def Queue.zero : Queue := ⟨[], false, 0, 0, 0, [], false, false, 0⟩

/-! ## Threads of execution -/

/-- Where a fixed-latency result lands (R32, R33). `aQuiet` is the walker's write, which enters no last-result file (R335). -/
inductive LDest where
  | a (r : Fin 16) | aLast | aQuiet (r : Fin 16)
  | b (r : Fin 16) | bLast
  | dLast
  | c (r : Fin 16) | cLast
  | k (r : Fin 8)
  | m (n : Fin 64)
  | tile (t : Fin 8)
  | wslot (w : Fin 4)
  | latch
  | discard
  deriving DecidableEq, Repr

/-- What lands. A vector result writes the lanes of its mask alone (R143). A tile result is a whole tile, or zeroes every
element (DZERO), changes single elements (DWR), or makes every element poison, and keeps format and scale (R184, R187); or it
changes the scale alone (DSCL, R185). -/
inductive LVal where
  | scalar (v : TVal)
  | vec (v : VReg) (lanes : BitVec 64)
  | mask (v : BitVec 64)
  | tile (t : Tile)
  | tileZero
  | tilePart (l : List (Nat × Elem))
  | tileBad
  | tileScale (scale : BitVec 8)
  | wslot (w : WSlot)
  | latch (a b : BitVec 4)
  deriving DecidableEq, Repr

/-- A result in the landing buffer with its remaining bundle distance (R40, R47), the flags it raises when it becomes
visible (R120), and whether it is a matrix result (R188). -/
structure Landing where
  dist : Nat
  dest : LDest
  val : LVal
  flags : BitVec 7
  matrix : Bool
  deriving DecidableEq, Repr

/-- Where a scoreboarded result goes (R42, R369). -/
inductive PDest where
  | b (r : Fin 16)
  | c (r : Fin 16)
  | phqres
  | discard
  deriving DecidableEq, Repr

/-- An access of a context's own that its home has not performed: a load with its sign extension, an atomic, VATOMADD with
its addends and mask (R261, R486). -/
inductive Access where
  | load (signed : Bool)
  | atomic (op : AtomOp) (data cmp : BitVec 64)
  | lanes (add : VReg) (mask : BitVec 64)
  deriving DecidableEq, Repr

/-- Where such an access is performed: at translated pieces of memory, or in a core's scratchpad (R267). -/
inductive Place where
  | memory (pieces : List (Xlat × Nat))
  | spad (core : CoreNum) (off bytes : Nat)
  deriving DecidableEq, Repr

/-- What an outstanding request waits for and what it will deliver: a value already read here (a vector's with its lanes), the answer of another
module (with its width, sign extension, the bytes of its pieces that were read here, and whether one of those is poison; for
VATOMADD its addends and mask), a ring read that waits for row `k` of a handle (R277, R278), an access that a shed die has
not performed (R261), or a long form with the lanes it has still to do, each with its address, the data of a scatter, what it
has gathered, its mask and its progress index (R46, R148). -/
inductive PVal where
  | scalar (v : TVal)
  | vec (v : VReg) (lanes : BitVec 64)
  | remote (addr : BitVec 56) (bytes : Nat) (signed : Bool) (here : List (Option Byte)) (bad : Bool)
  | vremote (addr : BitVec 56) (add : VReg) (mask : BitVec 64)
  | ring (h : Fin 16) (k : Nat) (addr : Nat)
  | vring (h : Fin 16) (k : Nat) (addr : Nat) (mask : BitVec 64)
  | later (place : Place) (what : Access)
  | long (data : Option VReg) (todo : List (Nat × Nat)) (got : VReg) (mask : BitVec 64) (prog : Nat)
  deriving DecidableEq, Repr

/-- A request that was sent to another module: that module, the physical address there, what it asks (R307). -/
structure Sent where
  module : BitVec 18
  pa : BitVec 52
  kind : FabricKind
  deriving DecidableEq, Repr

/-- How an access reached memory: what serves it as R463 numbers sites (0 to 3 a compute die, 5 the pool, 6 another module),
if a request was made; the ranges of the entries that translated it, each by its first byte and the log of its bytes (R402);
the requests that were sent, for a NACK to send them again, and whether they wait for that (R309); its alias class (R219). -/
structure Way where
  site : Option (BitVec 3)
  via : List (Nat × Nat)
  sent : List Sent
  waiting : Bool
  cls : BitVec 3
  deriving DecidableEq, Repr

/-- The way of what makes no request. -/
def Way.none : Way := ⟨.none, [], [], false, 0⟩

/-- A scoreboarded request outstanding (R42) with its way; `dormant` holds while its last answer was a dormant-retry (R261). -/
structure Pend where
  id : Nat
  dest : PDest
  val : PVal
  addr : BitVec 56
  atomic : Bool
  gather : Bool
  way : Way
  dormant : Bool
  deriving DecidableEq, Repr

/-- A piece of a .g write whose acknowledgement is outstanding (R229): the number of its write in issue order, its address as
formed, its way. -/
structure Ack where
  id : Nat
  addr : BitVec 56
  way : Way
  deriving DecidableEq, Repr

/-- A pending redirect (R135). -/
structure Redirect where
  target : BitVec 52
  count : BitVec 2
  deriving DecidableEq, Repr

/-- The bundle in issue: its four words, what each port read and for which slot (1 B, 2 C, 3 D), and the next slot to
commit (R59, R66); when its last slot has committed the program goes on at `jump` (TEND, SWPT: R370, R373). -/
structure Issue where
  wa : Word32
  wb : Word32
  wc : Word32
  wd : Word32
  ports : List (BitVec 2 × TVal)
  slot : BitVec 2
  jump : Option (BitVec 52)
  deriving DecidableEq, Repr

/-- What a context that does not issue waits for (R270, R275, R355, R356, R368). -/
inductive Wait where
  | none
  | board | landing | busy | order
  | lock (va : BitVec 56)
  | ring (h : Fin 16)
  | phase (handle : BitVec 32) (phase : BitVec 32)
  | page (va : BitVec 56) (kind : BitVec 2) (level : BitVec 2)
  | level3
  | queueFull
  | launchFull
  | slew
  | granule
  deriving DecidableEq, Repr

/-- A program in execution: the files that a handler has of its own (R429), the program counter, the pending redirects
and the transfer committed by the bundle in issue (R135), bundle time, landing buffer, outstanding requests; and whether the
handler ends when the last slot of its bundle has committed (`leave` 1 by RFT, 2 by HALT, R434). -/
structure Thread where
  a : Vector TVal 16
  b : Vector TVal 16
  m : Vector TVal 64
  ya : Vector TVal 4
  yb : Vector TVal 4
  yd : Vector TVal 4
  pc : BitVec 52
  redirects : List Redirect
  taken : Option (BitVec 52)
  btime : BitVec 64
  landing : List Landing
  board : List Pend
  issue : Option Issue
  resume : BitVec 2
  leave : BitVec 2
  deriving DecidableEq, Repr

/-- A thread at its start: every register zero and clean (R333, R429). -/
def Thread.zero : Thread where
  a := Vector.replicate 16 .zero
  b := Vector.replicate 16 .zero
  m := Vector.replicate 64 .zero
  ya := Vector.replicate 4 .zero
  yb := Vector.replicate 4 .zero
  yd := Vector.replicate 4 .zero
  pc := 0
  redirects := []
  taken := none
  btime := 0
  landing := []
  board := []
  issue := none
  resume := 0
  leave := 0

/-- Slot C's registers (R30). -/
structure VecFile where
  c : Vector VReg 16
  y : Vector VReg 4
  k : Vector (BitVec 64) 8
  deriving DecidableEq, Repr

/-- Slot D's tiles, weight slots and format latch (R171). -/
structure MatFile where
  d : Vector Tile 8
  w : Vector WSlot 4
  latchA : BitVec 4
  latchB : BitVec 4
  deriving DecidableEq, Repr

/-- The context registers of R436 and the trap registers of R428. `fresh` holds the flags that became visible at the start
of the bundle in issue (R9, R120); `srPend` a write of srstate that later bundles see (R113); `segId` the first request
number of the open segment (R196). -/
structure Csrs where
  cause : BitVec 8
  sres : BitVec 2
  tpc : BitVec 52
  tdet : BitVec 64
  regsel : BitVec 64
  arflags : BitVec 7
  fresh : BitVec 7
  srseed : BitVec 32
  srstate : BitVec 32
  srPend : Option (BitVec 32)
  segnum : BitVec 16
  suspect : Bool
  segOpen : Bool
  segId : Nat
  segCount : BitVec 32
  segCrc : BitVec 32
  mcAny : Bool
  mcLast : BitVec 16
  phqres : BitVec 64
  deriving DecidableEq, Repr

/-- The context registers at the start of a task (R113, R193, R333). -/
def Csrs.zero : Csrs where
  cause := 0
  sres := 0
  tpc := 0
  tdet := 0
  regsel := 0
  arflags := 0
  fresh := 0
  srseed := 1
  srstate := 1
  srPend := none
  segnum := 0
  suspect := false
  segOpen := false
  segId := 0
  segCount := 0
  segCrc := 0xFFFFFFFF
  mcAny := false
  mcLast := 0
  phqres := 0

/-- A boost lease and its request (R374, R380-R382). -/
structure Lease where
  remain : BitVec 32
  held : Bool
  suspended : Bool
  level : BitVec 2
  refused : BitVec 3
  request : Option (BitVec 32 × BitVec 2)
  deriving DecidableEq, Repr

/-- No lease. -/
def Lease.zero : Lease := ⟨0, false, false, 0, 0, none⟩

/-! ## Kernels and tasks -/

/-- A loop level (R329): kind 0 temporal, 1 core, 2 die. -/
structure Level where
  extm1 : BitVec 32
  step : BitVec 32
  kind : BitVec 8
  red : Bool
  deriving DecidableEq, Repr

/-- A present schedule: the bundle counter of its first bundle and its entry points (R328). -/
structure Sched where
  code : BitVec 52
  len : BitVec 32
  pro : BitVec 32
  body : BitVec 32
  epi : BitVec 32
  deriving DecidableEq, Repr

/-- A switch row (R329). -/
structure SwitchRow where
  point : BitVec 16
  dense : BitVec 32
  medium : BitVec 32
  relaxed : BitVec 32
  deriving DecidableEq, Repr

/-- A range of a launch's range list (R329). -/
structure RangeRec where
  base : BitVec 56
  bytes : BitVec 48
  reuse : BitVec 2
  deriving DecidableEq, Repr

/-- What a kernel image gives its tasks (R328, R329), with the packet's ARG and ORDER (R330). -/
structure Kernel where
  spad : Nat
  rings : Nat
  tiles : Nat
  wslots : Nat
  phasers : Nat
  levels : List Level
  sched0 : Option Sched
  sched1 : Option Sched
  sched2 : Option Sched
  switches : List SwitchRow
  ranges : List RangeRec
  binds : List (BitVec 64 × BitVec 64 × BitVec 64)
  rings0 : List (Nat × Handle)
  wins0 : List (Nat × WinDesc)
  consts : SMap Byte
  prio : BitVec 3
  drain : BitVec 3
  must : Bool
  arg : BitVec 64
  order : Bool
  imageEnd : Nat
  deriving DecidableEq, Repr

/-- A kernel that declares nothing. -/
def Kernel.zero : Kernel :=
  ⟨0, 0, 0, 0, 0, [], none, none, none, [], [], [], [], [], [], 0, 7, false, 0, false, 0⟩

/-- The walker's record (R442): BASEP, the map of points run, the run in progress (0 between runs, 1 prologue, 2 body,
3 epilogue), PRODONE and the P of the body run. -/
structure Walk where
  basep : Nat
  map : BitVec 4096
  run : BitVec 2
  proDone : Bool
  p : Nat
  deriving DecidableEq, Repr

/-- A context: one tile task with everything its image holds (R443, R444). `entry` holds before the entry bundle of a run
(R376), `pendTrap` a trap that a pfdone write ordered (R356). -/
structure Ctx where
  part : PartNum
  lid : BitVec 32
  sidx : Nat
  boot : Bool
  kern : Kernel
  task : Thread
  hand : Thread
  inHandler : Bool
  vec : VecFile
  mat : MatFile
  h : Vector Handle 16
  maps : Vector MapUnit 16
  queues : Vector Queue 16
  csr : Csrs
  lease : Lease
  sched : BitVec 2
  walk : Walk
  acks : List Ack
  lost : List (Nat × BitVec 56)
  replays : List (BitVec 32 × BitVec 32 × BitVec 32)
  irrevocable : Bool
  released : Bool
  segTraps : Nat
  nextId : Nat
  wait : Wait
  pendTrap : Option (BitVec 8 × BitVec 64)
  entry : Bool
  deriving DecidableEq, Repr

/-- A context before any task: every register of R30 zero (R333; before a task starts, DESIGN CHOICE, log 4). -/
def Ctx.zero : Ctx where
  part := 0
  lid := 0
  sidx := 0
  boot := false
  kern := .zero
  task := .zero
  hand := .zero
  inHandler := false
  vec := ⟨Vector.replicate 16 .zero, Vector.replicate 4 .zero, Vector.replicate 8 0⟩
  mat := ⟨Vector.replicate 8 .zero, Vector.replicate 4 .zero, 0, 0⟩
  h := Vector.replicate 16 .zero
  maps := Vector.replicate 16 ⟨none, []⟩
  queues := Vector.replicate 16 .zero
  csr := .zero
  lease := .zero
  sched := 0
  walk := ⟨0, 0, 0, false, 0⟩
  acks := []
  lost := []
  replays := []
  irrevocable := false
  released := false
  segTraps := 0
  nextId := 0
  wait := .none
  pendTrap := none
  entry := false

/-! ## Cores, groves, dies -/

/-- What a core's stripes do (R383, R384). -/
inductive Stripes where
  | idle | delivering | filler
  deriving DecidableEq, Repr

/-- A macro-instruction that the matrix engine has accepted and not finished (R46, R176): the weight slot it reads, its steps
(4 row groups of planes), and how many are done. -/
structure Macro where
  slot : Fin 4
  steps : Nat
  prog : Nat
  deriving DecidableEq, Repr

/-- A leaf or slab that a TLB holds (R399): its partition, its level, its address, its words, the first virtual byte it
translates and the log of their number. -/
structure TlbEntry where
  part : PartNum
  level : Nat
  entry : Nat
  w0 : BitVec 64
  w1 : BitVec 64
  page : Nat
  log : Nat
  deriving DecidableEq, Repr

/-- A core (R15): its scratchpad with poison marks and latent errors by 64-byte block (R191, R203, R452), constant cache
(R213) with its poison blocks, loss counters (R38), the context on it, the moment at which its quantum expired (R353), the
matrix work in flight (R46), whether the bundle in issue was granted a start (R383), and whether the context is being saved and
waits for a collective (R297). -/
structure Core where
  busy : Bool
  ctx : Ctx
  spad : SMap Byte
  spadMark : List Nat
  spadErr : List Nat
  const : SMap Byte
  constMark : List Nat
  bankloss : Vector (BitVec 32) 4
  stripes : Stripes
  expired : Option Nat
  macros : List Macro
  granted : Bool
  saving : Bool
  deriving DecidableEq, Repr

/-- An idle core. -/
def Core.zero : Core where
  busy := false
  ctx := .zero
  spad := []
  spadMark := []
  spadErr := []
  const := []
  constMark := []
  bankloss := Vector.replicate 4 0
  stripes := .idle
  expired := none
  macros := []
  granted := false
  saving := false

/-- A grove: droop control (R199) and the HOLD of an open window, power registers (R378) with FREQ's sample, slew limiter
(R383): SLEWEN and RAMP as the last step boundary took them, step index, filler cores by the end of their delivery, whether a
start waited; leases suspended in order (R381). -/
structure Grove where
  droopctl : BitVec 32
  window : Option (BitVec 8)
  pwr : BitVec 64
  ramp : BitVec 64
  freq : BitVec 16
  slewOn : Bool
  rampNow : BitVec 64
  step : BitVec 4
  fillers : List CoreNum
  waited : Bool
  suspended : List CoreNum
  deriving DecidableEq, Repr

/-- A grove at reset (R199, R378). -/
def Grove.zero : Grove where
  droopctl := 0x80400000#32 ||| Config.thresh.setWidth 32
  window := none
  pwr := 0x0000A10000008000#64
  ramp := 0xFEDCBA9876543210#64
  freq := 0
  slewOn := true
  rampNow := 0xFEDCBA9876543210#64
  step := 0
  fillers := []
  waited := false
  suspended := []

/-- A compute die's supervisor registers (R217, R230). -/
structure Die where
  memrowa : BitVec 32
  memrowb : BitVec 32
  acktmo : BitVec 32
  deriving DecidableEq, Repr

/-- A die at reset. -/
def Die.zero : Die := ⟨0x80000020, 0x80000020, 0x3E8⟩

/-! ## Phasers -/

/-- A membership (R360): the task, its mode (0 signal, 1 wait, 2 both), SPH and WPH. -/
structure Member where
  lid : BitVec 32
  sidx : Nat
  mode : BitVec 2
  sph : BitVec 32
  wph : BitVec 32
  deriving DecidableEq, Repr

/-- An allocated phaser (R360) of an engine; `home` is the creator's core, which fixes the instance; `remote` tells what the
other instances of a fabric-scope phaser announced, `announced` whether this one told them that it is ready (R362). -/
structure Phaser where
  eng : BitVec 4
  idx : BitVec 12
  scope : BitVec 3
  gen : BitVec 13
  phase : BitVec 32
  pending : BitVec 16
  part : PartNum
  group : BitVec 10
  home : CoreNum
  members : List Member
  remote : List (BitVec 16 × BitVec 32 × Bool)
  announced : Bool
  deriving DecidableEq, Repr

/-! ## Scheduler -/

/-- How a packet came (R342). -/
inductive Route where
  | port | launch | message (sender : BitVec 18)
  deriving DecidableEq, Repr

/-- A launch packet in a queue (R330, R346): its bytes, its acceptance number, its route, the launches it still waits for, and whether it was
checked when it became head (R348). -/
structure Packet where
  bytes : List Byte
  seq : Nat
  route : Route
  deps : List (BitVec 32)
  headed : Bool
  deriving DecidableEq, Repr

/-- An admitted launch (R348-R351): tasks from `nextTask` on, and those in `skipped`, have not started; `readyAt` is the
moment at which they became ready, `ages` the AGEs that each has waited (R353), `killed` the code of a kill whose last
task has not ended (R358). -/
structure Launch where
  lid : BitVec 32
  part : PartNum
  queue : BitVec 4
  route : Route
  kern : Kernel
  prio : BitVec 3
  groves : BitVec 16
  total : Nat
  nextTask : Nat
  skipped : List Nat
  readyAt : Nat
  open_ : Nat
  frames : Nat
  freeFrames : List Nat
  frameSize : Nat
  base : Nat
  bindings : List Nat
  seq : Nat
  taskLost : Bool
  killed : Option Nat
  ages : SMap Nat
  digest : BitVec 256
  slots : Bool
  mustUnits : Nat
  lookups : List (Nat × Nat)
  deriving DecidableEq, Repr

/-- What a started task that is not running waits for (R332, R355, R356, R461). -/
inductive TStatus where
  | ready
  | running (core : CoreNum)
  | page (token : BitVec 32) (va : BitVec 56) (kind level : BitVec 2)
  | phase (handle phase : BitVec 32)
  | lock (va : BitVec 56)
  | ring (h : Fin 16)
  | queuePage (q : Fin 16)
  | level
  | die
  | rollback (cause : BitVec 8)
  deriving DecidableEq, Repr

/-- A started task: its frame and, while it does not run, its saved context and scratchpad (R351, R443); `saving` names the
core whose save waits for a collective of the task (R297). -/
structure Task where
  part : PartNum
  lid : BitVec 32
  sidx : Nat
  frame : Nat
  status : TStatus
  ctx : Ctx
  spad : SMap Byte
  spadMark : List Nat
  ready : Nat
  aging : Nat
  home : CoreNum
  saving : Option CoreNum
  deriving DecidableEq, Repr

/-- A checkpoint of a task (R458): the saved context, scratchpad and the phase numbers of its memberships. -/
structure Checkpoint where
  part : PartNum
  lid : BitVec 32
  sidx : Nat
  ctx : Ctx
  spad : SMap Byte
  spadMark : List Nat
  phases : List (BitVec 32 × BitVec 32 × BitVec 32)
  deriving DecidableEq, Repr

/-- An undo-log entry (R459): the block, the bytes it can restore and their old values, and whose it is. -/
structure Undo where
  part : PartNum
  lid : BitVec 32
  sidx : Nat
  block : Nat
  mask : BitVec 64
  old : List Byte
  deriving DecidableEq, Repr

/-! ## Partitions -/

/-- A key slot (R418). -/
structure KeySlot where
  key : BitVec 256
  lid : BitVec 32
  deriving DecidableEq, Repr

/-- An owner range (R418): base, length in 64 KiB units, launch. -/
structure OwnRange where
  base : BitVec 52
  units : BitVec 32
  lid : BitVec 32
  deriving DecidableEq, Repr

/-- An invalidation in progress (R401, R402): first byte, bytes, flush. -/
structure Inval where
  base : Nat
  bytes : Nat
  flush : Bool
  forMigration : Bool
  deriving DecidableEq, Repr

/-- A migration in progress (R405, R406): migva and RETIRE at GO, the leaf's address, source, destination, size, the leaf's
first virtual address, whether it has switched, whether a duplicate write could not be performed. -/
structure Migration where
  va : BitVec 64
  retire : Bool
  page : Nat
  entry : Nat
  src : Nat
  dst : Nat
  bytes : Nat
  switched : Bool
  lost : Bool
  deriving DecidableEq, Repr

/-- A contribution to a collective step, and the step a module's own participant performs (R302, R304). -/
structure Contribution where
  group : BitVec 10
  step : BitVec 32
  rank : BitVec 16
  elems : List (BitVec 128 × Bool)
  deriving DecidableEq, Repr

/-- A partition: its register blocks (R350, R385, R393, R401-R405, R407, R410, R429, R457) and tables (R232, R316, R342,
R418); whether a secured SPDM session is held with its interface (R418); the records of corrected errors in the latest second
that had one, and those suppressed since (R463). -/
structure Part where
  partctl : BitVec 64
  busy : Bool
  lasterr : BitVec 4
  removing : BitVec 16
  teardown : Bool
  schedctl : BitVec 64
  framectl : BitVec 64
  evqbase : BitVec 64
  evqhead : BitVec 32
  evqtail : BitVec 32
  evqlost : BitVec 32
  evqdrops : Nat
  trapvec : BitVec 64
  ptroot : BitVec 64
  invva : BitVec 64
  inval : Option Inval
  invseq : BitVec 32
  migva : BitVec 64
  migdst : BitVec 64
  retire : Bool
  migbusy : Option Migration
  migresult : BitVec 4
  hotctl : BitVec 64
  cfgsel : BitVec 64
  staged : SMap (BitVec 64)
  bind : SMap (BitVec 64 × BitVec 64 × BitVec 64)
  groups : SMap (BitVec 128)
  keys : Vector (Option KeySlot) 16
  ranges : Vector (Option OwnRange) 16
  queues : Vector (List Packet) 16
  partial_ : Vector (BitVec 16) 16
  full : Vector (BitVec 16) 16
  chosen : Option (BitVec 4)
  headWait : Option (BitVec 32 × BitVec 56)
  headNeeds : Option (BitVec 8)
  tokens : BitVec 32
  ckptctl : BitVec 64
  ckptlog : BitVec 64
  ckptseq : BitVec 32
  groupStep : SMap (BitVec 32)
  contribs : List Contribution
  lastCut : Option (BitVec 64 × BitVec 10 × BitVec 32 × Bool)
  session : Bool
  fixSecond : Nat
  fixCount : Nat
  fixMissed : Nat
  deriving DecidableEq, Repr

/-- A partition at reset. -/
def Part.zero : Part where
  partctl := 0
  busy := false
  lasterr := 0
  removing := 0
  teardown := false
  schedctl := 0x000000C8271003E8#64
  framectl := 0
  evqbase := 0
  evqhead := 0
  evqtail := 0
  evqlost := 0
  evqdrops := 0
  trapvec := 0
  ptroot := 0
  invva := 0
  inval := none
  invseq := 0
  migva := 0
  migdst := 0
  retire := false
  migbusy := none
  migresult := 0
  hotctl := 0x8000000000000010#64
  cfgsel := 0
  staged := []
  bind := []
  groups := []
  keys := Vector.replicate 16 none
  ranges := Vector.replicate 16 none
  queues := Vector.replicate 16 []
  partial_ := Vector.replicate 16 0
  full := Vector.replicate 16 0
  chosen := none
  headWait := none
  headNeeds := none
  tokens := 1
  ckptctl := 0x3E8#64
  ckptlog := 0
  ckptseq := 0
  groupStep := []
  contribs := []
  lastCut := none
  session := false
  fixSecond := 0
  fixCount := 0
  fixMissed := 0

/-! ## Memory, trunk die, dormancy, start -/

/-- A line that the memory-side cache holds dirty: its 64 bytes, its check bytes as `Mem.check` gives them, and the contexts
whose writes it holds (R216, R241, R451). -/
structure Line where
  data : List Byte
  check : BitVec 64
  who : List (PartNum × BitVec 32 × Nat)
  deriving DecidableEq, Repr

/-- Memory of the module: HBM and pool-device bytes by physical address; each block's 8 check bytes, as the difference
(exclusive or) from those that R451 computes for its stored bytes at its address, so that an absent block has the right ones
and one whose difference is 0x96 in every byte is poison-marked (R191, R452); the lines the memory-side cache holds dirty and
those in quarantine, by line address (R314). -/
structure Mem where
  bytes : List Host.Cell
  check : SMap (BitVec 64)
  dirty : List (Nat × Line)
  quarantine : List (Nat × Line)
  deriving DecidableEq, Repr

/-- A drain region and how far it was drained (R477). -/
structure Region where
  part : PartNum
  cls : BitVec 3
  must : Bool
  cut : Bool
  red : Bool
  kind : BitVec 2
  lid : BitVec 32
  base : Nat
  bytes : Nat
  done : Nat
  status : BitVec 2
  deriving DecidableEq, Repr

/-- A manifest (R476, R477) with what its drain area holds. Heartwood is read by nothing but restore (R214), so it stands
as structured data (log 7). -/
structure Manifest where
  state : BitVec 8
  modnum : BitVec 18
  seq : BitVec 64
  time : BitVec 64
  cause : BitVec 8
  parts : List (PartNum × Part)
  memown : SMap (BitVec 8)
  elide : SMap (BitVec 64)
  phasers : List Phaser
  regions : List Region
  tasks : List Task
  launches : List Launch
  lost : List (PartNum × BitVec 32 × Nat)
  checkpoints : List Checkpoint
  undo : List Undo
  data : List Host.Cell
  marks : List Nat
  shed : BitVec 4
  deriving DecidableEq, Repr

/-- A cut (R489, R490) of a partition in one half of its cut granules; `grans` are the granules that hold it. -/
structure Cut where
  part : PartNum
  half : Bool
  seq : BitVec 64
  group : BitVec 10
  step : BitVec 32
  regions : List Region
  data : List Host.Cell
  marks : List Nat
  grans : List Nat
  deriving DecidableEq, Repr

/-- The cut being taken: its request, and, from the cut instant on, the value the regions had (R488-R490). -/
structure CutRun where
  part : PartNum
  group : BitVec 10
  step : BitVec 32
  armed : Bool
  snap : Option Cut
  deriving DecidableEq, Repr

/-- The trunk die: `hot` is how much was drained when a grove reached level 3 (R479), `retest` the cores that run the march test
a second time (R508), `unitKeys` the key unit's seal, manifest and cut keys (R413), `capPick` places the capability list of this start (R24, log 12) (R22-R28, R308, R312-R319, R411, R454, R464-R505). -/
structure Trunk where
  modid : BitVec 32
  caps : List (BitVec 12)
  dieslive : BitVec 4
  groveslive : BitVec 16
  fabports : Vector (BitVec 32) 36
  poolrte : SMap (BitVec 64)
  cxlUp : BitVec 2
  poolq : BitVec 64
  poolOp : Option (BitVec 2)
  routes : SMap (BitVec 128)
  memsel : BitVec 12
  memown : SMap (BitVec 8)
  ownBusy : List (Nat × BitVec 4)
  elidesel : BitVec 9
  elide : SMap (BitVec 64)
  elideReads : SMap Nat
  dormctl : BitVec 64
  phase : BitVec 4
  charged : Bool
  warnCause : BitVec 8
  warnTime : BitVec 64
  hot : Option Nat
  drainsel : BitVec 8
  drain : SMap (BitVec 64 × BitVec 64)
  drainent1 : BitVec 64
  mustsum : BitVec 24
  pollctl : BitVec 64
  brown : BitVec 2
  shedOrder : List (BitVec 2)
  cutctl : BitVec 64
  cutstat : BitVec 64
  cuttgt : BitVec 64
  cut : Option CutRun
  cuts : List Cut
  reason : BitVec 8
  fails : BitVec 2
  seedling : Bool
  done : Bool
  step : BitVec 4
  groveok : BitVec 16
  repsel : BitVec 12
  repair : SMap (BitVec 64)
  retest : List CoreNum
  capPick : Nat
  manifests : Vector (Option Manifest) 2
  powered : Bool
  glidin : List (List Byte)
  glidinSeq : BitVec 8
  ideKeys : List (BitVec 4 × BitVec 256)
  exchanged : Bool
  secured : Bool
  unitKeys : List (BitVec 256)
  deriving DecidableEq, Repr

/-- The value of complement for memown is stored XOR 0x0F, so that an absent granule reads OWNER 0xF, FABRIC 0 (R411). -/
def Trunk.zero : Trunk where
  modid := 0
  caps := Config.caps
  dieslive := 0
  groveslive := 0
  fabports := Vector.ofFn fun (p : Fin 36) => if p.val < 4 then 0x10C00000#32 else 0x00C00000#32
  poolrte := []
  cxlUp := 0
  poolq := 0
  poolOp := none
  routes := []
  memsel := 0
  memown := []
  ownBusy := []
  elidesel := 0
  elide := []
  elideReads := []
  dormctl := 0x6000000003938700#64 ||| (Config.sealRes.setWidth 64 <<< 32)
  phase := 0
  charged := false
  warnCause := 0
  warnTime := 0
  hot := none
  drainsel := 0
  drain := []
  drainent1 := 0
  mustsum := 0
  pollctl := 0x8000000000007D00#64
  brown := 0
  shedOrder := []
  cutctl := 0x1000000000000000#64
  cutstat := 0
  cuttgt := 0
  cut := none
  cuts := []
  reason := 0
  fails := 0
  seedling := false
  done := false
  step := 0
  groveok := 0
  repsel := 0
  repair := []
  retest := []
  capPick := 0
  manifests := Vector.replicate 2 none
  powered := true
  glidin := []
  glidinSeq := 0
  ideKeys := []
  exchanged := false
  secured := false
  unitKeys := []

/-- The way that the module route table gives a request for another module (R319): the fabric ports, or Ethernet to an
endpoint under a job. -/
inductive Path where
  | fabric
  | ethernet (fep job : BitVec 32)
  deriving DecidableEq, Repr

/-- A message that leaves the module (model's own record of it, log 3). `glidin` is a record's message (R465), `report` a
launch-report message (R345). -/
inductive OutMsg where
  | glidin (bytes : List Byte)
  | report (path : Path) (module : BitVec 18) (bytes : List Byte)
  | hostData (bytes : List Byte) (poison : Bool)
  | unsupported
  | nack (code : BitVec 4) (hint : BitVec 32)
  | fabricData (bytes : List Byte) (poison : Bool)
  | refused
  | ack
  | request (path : Path) (req : Sent)
  | tdisp (ok : Bool) (bytes : List Byte)
  | vendor (code : BitVec 8)
  | spdm (code : BitVec 8) (bytes : List Byte)
  | filler (core : CoreNum)
  | contribution (group : BitVec 10) (step : BitVec 32) (elems : List (BitVec 128 × Bool))
  | announce (handle phase : BitVec 32) (ready : Bool)
  | cutBytes (seq : BitVec 64)
  deriving DecidableEq, Repr

/-- The module. `cur` is the core whose turn it is, `agenda` the pending steps of other agents in order, `tick` the counter
of free values, `out` the messages sent: the model's own fields (logs 1 to 3). `gens` holds the last generation of every
phaser index that was ever allocated (R359). `tlb1` holds each core's L1 TLB and `tlb2` each grove's L2 TLB (R399), `fetched`
the bundles that each core's fetch holds, by physical address (R65, R272). -/
structure State where
  cur : CoreNum
  agenda : List Instr
  tick : Nat
  clock : BitVec 64
  cores : List (Nat × Core)
  groves : Vector Grove 16
  dies : Vector Die 4
  parts : Vector Part 8
  launches : List Launch
  tasks : List Task
  checkpoints : List Checkpoint
  undo : List Undo
  phasers : List Phaser
  gens : SMap (BitVec 13)
  tlb1 : SMap (List TlbEntry)
  tlb2 : SMap (List TlbEntry)
  fetched : SMap (SMap (Option (BitVec 128)))
  seqno : Nat
  mem : Mem
  trunk : Trunk
  out : List OutMsg
  deriving DecidableEq, Repr

/-- The module right after reset (R7): every register at its reset value, no context, memory with nothing listed. -/
def State.reset : State where
  cur := 0
  agenda := []
  tick := 0
  clock := 0
  cores := []
  groves := Vector.replicate 16 .zero
  dies := Vector.replicate 4 .zero
  parts := Vector.replicate 8 .zero
  launches := []
  tasks := []
  checkpoints := []
  undo := []
  phasers := []
  gens := []
  tlb1 := []
  tlb2 := []
  fetched := []
  seqno := 0
  mem := ⟨[], [], [], []⟩
  trunk := .zero
  out := []

/-- Reasons for which the machine stops. The spec gives every step of the module an effect, so none is ever raised: every
architectural trap is a next state (R426). Safe. -/
inductive Fault where
  /-- Raised by nothing: kept so that the type has a name to show. Safe. -/
  | none_
  deriving DecidableEq, Repr

/-- Reasons for which a step is refused. -/
inductive Refusal where
  /-- Raised by exec's arm of an instruction that has no meaning yet. Safe. -/
  | notModelled (mnemonic : String)
  deriving DecidableEq, Repr

/-- What a step answers. -/
abbrev Out := Host.Outcome State Fault Refusal

end Sys2Proof.Machine
end

