-- ==== Sys2Proof/Machine/Access.lean ====
section
/-!
DEFINITION. Reading and writing the parts of the state by name: cores, contexts, threads, partitions, groves, dies. Every
other definition of the machine goes through these.
-/

namespace Sys2Proof.Machine

/-- A 4-bit number as an index. -/
def fin4 (x : BitVec 4) : Fin 16 := ⟨x.toNat, x.isLt⟩
/-- A 3-bit number as an index. -/
def fin3 (x : BitVec 3) : Fin 8 := ⟨x.toNat, x.isLt⟩
/-- A 2-bit number as an index. -/
def fin2 (x : BitVec 2) : Fin 4 := ⟨x.toNat, x.isLt⟩
/-- The low four bits of a register specifier as an index. -/
def regIx (r : Reg) : Fin 16 := fin4 (r.setWidth 4)
/-- The low two bits of a register specifier as an index: y0-y3 for 16-19 (R32). -/
def yIx (r : Reg) : Fin 4 := fin2 (r.setWidth 2)

/-- The die of a core (R16). -/
def dieOf (c : CoreNum) : BitVec 2 := c.extractLsb' 6 2
/-- The module-wide grove number of a core (R16). -/
def groveOf (c : CoreNum) : GroveNum := c.extractLsb' 4 4
/-- The die of a grove (R16). -/
def groveDie (g : GroveNum) : BitVec 2 := g.extractLsb' 2 2

/-- A core; one that is not listed is idle at its reset values. -/
def State.core (s : State) (c : CoreNum) : Core := smGet Core.zero c.toNat s.cores
/-- Replace a core. -/
def State.setCore (s : State) (c : CoreNum) (k : Core) : State := { s with cores := smPut c.toNat k s.cores }
/-- Change a core. -/
def State.onCore (s : State) (c : CoreNum) (f : Core → Core) : State := s.setCore c (f (s.core c))
/-- The context of the core whose turn it is. -/
def State.ctx (s : State) : Ctx := (s.core s.cur).ctx
/-- Replace that context. -/
def State.setCtx (s : State) (c : Ctx) : State := s.onCore s.cur fun k => { k with ctx := c }
/-- Change that context. -/
def State.onCtx (s : State) (f : Ctx → Ctx) : State := s.setCtx (f s.ctx)

/-- The program that runs: the handler while it is active, else the task (R429). -/
def Ctx.thr (c : Ctx) : Thread := if c.inHandler then c.hand else c.task
/-- Replace the program that runs. -/
def Ctx.setThr (c : Ctx) (t : Thread) : Ctx := if c.inHandler then { c with hand := t } else { c with task := t }
/-- Change the program that runs. -/
def Ctx.onThr (c : Ctx) (f : Thread → Thread) : Ctx := c.setThr (f c.thr)
/-- The program that runs on the core whose turn it is. -/
def State.thr (s : State) : Thread := s.ctx.thr
/-- Change it. -/
def State.onThr (s : State) (f : Thread → Thread) : State := s.onCtx fun c => c.onThr f

/-- A partition. -/
def State.part (s : State) (p : PartNum) : Part := s.parts[fin3 p]
/-- Replace a partition. -/
def State.setPart (s : State) (p : PartNum) (x : Part) : State := { s with parts := s.parts.set (fin3 p) x }
/-- Change a partition. -/
def State.onPart (s : State) (p : PartNum) (f : Part → Part) : State := s.setPart p (f (s.part p))
/-- A grove. -/
def State.grove (s : State) (g : GroveNum) : Grove := s.groves[fin4 g]
/-- Change a grove. -/
def State.onGrove (s : State) (g : GroveNum) (f : Grove → Grove) : State :=
  { s with groves := s.groves.set (fin4 g) (f (s.grove g)) }
/-- A die. -/
def State.die (s : State) (d : BitVec 2) : Die := s.dies[fin2 d]
/-- Change a die. -/
def State.onDie (s : State) (d : BitVec 2) (f : Die → Die) : State :=
  { s with dies := s.dies.set (fin2 d) (f (s.die d)) }
/-- Change the trunk die. -/
def State.onTrunk (s : State) (f : Trunk → Trunk) : State := { s with trunk := f s.trunk }
/-- Change the memory. -/
def State.onMem (s : State) (f : Mem → Mem) : State := { s with mem := f s.mem }
/-- Run a change as the given core's turn. -/
def State.asCore (s : State) (c : CoreNum) (f : State → State) : State := { f { s with cur := c } with cur := s.cur }

/-- The next free value's number, and the state that has used it (log 2). -/
def State.fresh (s : State) : Nat × State := (s.tick, { s with tick := s.tick + 1 })
/-- The time of an event (R464), and the state whose clock has moved on (log 8). -/
def State.stamp (s : State) : BitVec 64 × State :=
  (s.clock, { s with clock := s.clock + BitVec.ofNat 64 (Config.elapsed s.tick), tick := s.tick + 1 })
/-- Send a message out of the module (log 3). -/
def State.send (s : State) (m : OutMsg) : State := { s with out := s.out ++ [m] }

/-- The partition that holds a grove, if any (R21, R407). -/
def State.grovePart (s : State) (g : GroveNum) : Option PartNum :=
  (List.range 8).findSome? fun n =>
    let p := BitVec.ofNat 3 n
    if (s.part p).partctl.getLsbD 63 && (s.part p).partctl.getLsbD g.toNat then some p else none

/-- A grove runs when its die is not shed and start has brought it up (R22). -/
def State.groveRuns (s : State) (g : GroveNum) : Bool := s.trunk.groveslive.getLsbD g.toNat

/-- MODNUM (R22). -/
def State.modnum (s : State) : BitVec 18 := s.trunk.modid.setWidth 18

/-- Whose accesses these are: the task of a write in the undo log (R459). -/
structure TaskId where
  part : PartNum
  lid : BitVec 32
  sidx : Nat
  deriving DecidableEq, Repr

/-- The task of a context. -/
def Ctx.id (c : Ctx) : TaskId := ⟨c.part, c.lid, c.sidx⟩

/-- The admitted launch of a context. -/
def State.launch? (s : State) (p : PartNum) (lid : BitVec 32) : Option Launch :=
  s.launches.find? fun l => l.part = p && l.lid = lid
/-- Change a launch. -/
def State.onLaunch (s : State) (p : PartNum) (lid : BitVec 32) (f : Launch → Launch) : State :=
  { s with launches := s.launches.map fun l => if l.part = p && l.lid = lid then f l else l }

end Sys2Proof.Machine
end

