-- ==== Sys2Proof/Machine/Check.lean ====
section
/-!
DEFINITION. The check bytes of a 64-byte block (R451) and what a reader makes of them (R452): arithmetic in GF(2^8), the
remainder modulo g(x), the decoder over the 78 symbols of a word.

Memory keeps, for each block, the exclusive or of its stored check bytes with the ones that R451 computes. The word that a
reader forms is m(x) x^8 + r(x) plus that difference, and m(x) x^8 + r(x) is a multiple of g(x): so the syndromes are those of
the difference alone, and it tells all that the stored check bytes can tell.
-/

namespace Sys2Proof.Machine

/-! ## GF(2^8) -/

/-- Multiplication by α = 0x02 modulo x^8 + x^4 + x^3 + x^2 + 1. -/
def gfDouble (x : BitVec 8) : BitVec 8 := if x.getLsbD 7 then (x <<< 1) ^^^ 0x1D else x <<< 1
/-- The product of two field elements. -/
def gfMul (x y : BitVec 8) : BitVec 8 :=
  ((List.range 8).foldl (fun (p : BitVec 8 × BitVec 8) i => (if y.getLsbD i then p.1 ^^^ p.2 else p.1, gfDouble p.2)) (0, x)).1
/-- α to a power. -/
def gfExp : Nat → BitVec 8
  | 0 => 1
  | n + 1 => gfDouble (gfExp n)
/-- A power of a field element. -/
def gfPow (x : BitVec 8) : Nat → BitVec 8
  | 0 => 1
  | n + 1 => gfMul x (gfPow x n)
/-- The inverse of a field element; 0 for 0. -/
def gfInv (x : BitVec 8) : BitVec 8 := gfPow x 254
/-- The value of a polynomial, lowest coefficient first. -/
def gfEval (p : List (BitVec 8)) (x : BitVec 8) : BitVec 8 := p.foldr (fun c v => c ^^^ gfMul x v) 0
/-- A coefficient of a polynomial. -/
def gfCoef (p : List (BitVec 8)) (i : Nat) : BitVec 8 := (p[i]?).getD 0

/-! ## The check bytes of a block (R451) -/

/-- (x + α^i) times a polynomial. -/
def gfTimes (p : List (BitVec 8)) (i : Nat) : List (BitVec 8) :=
  (List.range (p.length + 1)).map fun k => gfMul (gfExp i) (gfCoef p k) ^^^ (if k = 0 then 0 else gfCoef p (k - 1))
/-- g(x) = (x + α^0) … (x + α^7). -/
def checkPoly : List (BitVec 8) := (List.range 8).foldl gfTimes [1]
/-- The remainder modulo g(x), with the next lower coefficient brought in. -/
def checkShift (r : List (BitVec 8)) (c : BitVec 8) : List (BitVec 8) :=
  let top := c ^^^ gfCoef r 7
  (List.range 8).map fun k => gfMul top (gfCoef checkPoly k) ^^^ (if k = 0 then 0 else gfCoef r (k - 1))
/-- The address symbols u_0 to u_5 of a block. -/
def addressSymbols (blk : Nat) : List (BitVec 8) := (List.range 6).map fun j => BitVec.ofNat 8 (blk / 2 ^ (8 * j))
/-- r(x) of a block with its 64 data bytes: check byte k in bits 8 k + 7 to 8 k. -/
def checkBytes (blk : Nat) (data : List Byte) : BitVec 64 :=
  let m := data ++ addressSymbols blk
  let r := m.reverse.foldl checkShift (List.replicate 8 0)
  (List.range 8).foldr (fun k v => (v <<< 8) ||| (gfCoef r k).setWidth 64) 0

/-! ## What a reader finds (R452) -/

/-- The difference that marks a block as poison: every check byte XORed with 0x96. -/
def markPattern : BitVec 64 := 0x9696969696969696#64

/-- A reader's finding: the corrections are symbol positions with the values to add, the data byte i at position 8 + i. -/
inductive Finding where
  | clean
  | marked
  | corrected (errors : List (Nat × BitVec 8))
  | misdirected
  | uncorrectable
  deriving DecidableEq, Repr

/-- The syndromes c(α^i) of a word whose check bytes differ so. -/
def syndromes (d : BitVec 64) : List (BitVec 8) :=
  let p := (List.range 8).map fun k => d.extractLsb' (8 * k) 8
  (List.range 8).map fun i => gfEval p (gfExp i)
/-- The state of the search for the shortest error locator: the locator, the previous one, its length, the shift, the last
discrepancy. -/
structure Locate where
  c : List (BitVec 8)
  b : List (BitVec 8)
  len : Nat
  shift : Nat
  last : BitVec 8
/-- One syndrome of the search. -/
def Locate.next (s : List (BitVec 8)) (l : Locate) (n : Nat) : Locate :=
  let d := (List.range (l.len + 1)).foldl (fun v i => v ^^^ gfMul (gfCoef l.c i) (gfCoef s (n - i))) 0
  let f := gfMul d (gfInv l.last)
  let c := (List.range 9).map fun k =>
    gfCoef l.c k ^^^ (if k < l.shift then 0 else gfMul f (gfCoef l.b (k - l.shift)))
  if d = 0 then { l with shift := l.shift + 1 }
  else if 2 * l.len ≤ n then ⟨c, l.c, n + 1 - l.len, 1, d⟩
  else { l with c := c, shift := l.shift + 1 }
/-- The error locator of eight syndromes and the number of errors it stands for. -/
def locator (s : List (BitVec 8)) : List (BitVec 8) × Nat :=
  let l := (List.range 8).foldl (Locate.next s) ⟨[1], [1], 0, 1, 1⟩
  (l.c, l.len)
/-- The error at a position that the locator names: its position and its value. -/
def errorAt (s c : List (BitVec 8)) (p : Nat) : Nat × BitVec 8 :=
  let x := gfExp p
  let y := gfInv x
  let omega := (List.range 8).map fun k => (List.range (k + 1)).foldl (fun v i => v ^^^ gfMul (gfCoef c i) (gfCoef s (k - i))) 0
  let slope := (List.range 8).map fun k => if k % 2 = 0 then gfCoef c (k + 1) else 0
  (p, gfMul x (gfMul (gfEval omega y) (gfInv (gfEval slope y))))
/-- Whether a set of errors gives the syndromes. -/
def explains (s : List (BitVec 8)) (errors : List (Nat × BitVec 8)) : Bool :=
  (List.range 8).all fun i => gfCoef s i = errors.foldl (fun v e => v ^^^ gfMul e.2 (gfExp (i * e.1 % 255))) 0
/-- What a reader finds in a block whose stored check bytes differ so from the ones it expects. -/
def finding (d : BitVec 64) : Finding :=
  if d = 0 then .clean
  else if d = markPattern then .marked
  else
    let s := syndromes d
    let (c, n) := locator s
    let errors := ((List.range 78).filter fun p => gfEval c (gfInv (gfExp p)) = 0).map (errorAt s c)
    if 4 < n || errors.length ≠ n || !explains s errors then .uncorrectable
    else if errors.any fun e => 72 ≤ e.1 then .misdirected
    else .corrected errors
/-- A block's data with the errors of its data symbols corrected. -/
def mend (errors : List (Nat × BitVec 8)) (data : List Byte) : List Byte :=
  data.zipIdx.map fun p => errors.foldl (fun v e => if e.1 = 8 + p.2 then v ^^^ e.2 else v) p.1
/-- What a finding makes of a read: poison or not. -/
def Finding.bad : Finding → Bool
  | .clean | .corrected _ => false
  | _ => true
/-- The difference that an error of one symbol makes: its value times x^p modulo g(x). -/
def symbolError (p : Nat) (v : BitVec 8) : BitVec 64 :=
  let m := (List.replicate 78 (0 : BitVec 8)).set p v
  let r := (m.drop 8).reverse.foldl checkShift (List.replicate 8 0)
  (List.range 8).foldr (fun k w => (w <<< 8) ||| (gfCoef r k ^^^ gfCoef (m.take 8) k).setWidth 64) 0

end Sys2Proof.Machine
end

