-- ==== Sys2Proof/Machine/Memory.lean ====
section
/-!
DEFINITION. Memory by physical address: the address map (R214), ownership (R411), refresh elision (R456), poison marks and
errors (R191, R452), the memory-side cache's dirty lines (R216), the undo log (R459), event records (R385-R388, R463, R465).
Every access is performed when it is issued: one of the outcomes of R218 to R244 (log 9).
-/

namespace Sys2Proof.Machine

/-! ## The address map -/

/-- What a physical address reaches (R214). -/
inductive Target where
  | hbm | heartwood | config | pool | unmapped
  deriving DecidableEq, Repr

/-- The first pool address. -/
def poolBase : Nat := 0x8000000000000
/-- The first configuration-space address. -/
def configBase : Nat := 0x7000000000000
/-- Decode a physical address (R214). -/
def target (pa : Nat) : Target :=
  if pa < 0x8000000000 then .hbm
  else if 0x4000000000000 ≤ pa && pa < 0x4030000000000 then .heartwood
  else if configBase ≤ pa && pa < configBase + 0x10000 then .config
  else if poolBase ≤ pa && pa < 0x10000000000000 then .pool
  else .unmapped

/-- The pool region of a pool address (R216). -/
def regionOf (pa : Nat) : Nat := (pa - poolBase) / 0x40000000
/-- The 64-byte block of an address. -/
def blockOf (a : Nat) : Nat := a / 64

/-- The memown byte of a granule (R411). It is stored XOR 0x0F, so that an absent one reads OWNER 0xF, FABRIC 0. -/
def Trunk.ownByte (t : Trunk) (g : Nat) : BitVec 8 := smGet 0 g t.memown ^^^ 0x0F
/-- The owner of a granule; 0xF is free. -/
def Trunk.owner (t : Trunk) (g : Nat) : BitVec 4 := (t.ownByte g).setWidth 4
/-- Whether a granule is served to other modules (R411). -/
def Trunk.fabric (t : Trunk) (g : Nat) : Bool := (t.ownByte g).getLsbD 5
/-- Set a granule's memown byte. -/
def Trunk.setOwn (t : Trunk) (g : Nat) (v : BitVec 8) : Trunk := { t with memown := smSet 0 g (v ^^^ 0x0F) t.memown }
/-- Whether a partition owns an HBM byte. -/
def Trunk.owns (t : Trunk) (p : PartNum) (pa : Nat) : Bool := t.owner (pa / 0x40000000) = p.setWidth 4
/-- Whether a range of HBM lies wholly in a partition's granules. -/
def Trunk.ownsRange (t : Trunk) (p : PartNum) (pa n : Nat) : Bool :=
  pa + n ≤ 0x8000000000 &&
  (List.range ((pa + n - 1) / 0x40000000 - pa / 0x40000000 + 1)).all fun i =>
    t.owner (pa / 0x40000000 + i) = p.setWidth 4

/-- Whether refresh of an HBM byte is elided (R454). -/
def Trunk.elided (t : Trunk) (pa : Nat) : Bool :=
  decide (pa < 0x8000000000) && (smGet 0 (pa / 0x40000000) t.elide).getLsbD (pa / 0x1000000 % 64)

/-- What a pool route says of a region (R312): the lowest-numbered valid entry that covers it. -/
def Trunk.route (t : Trunk) (r : Nat) : Option (Nat × BitVec 64) :=
  t.poolrte.find? fun e =>
    e.2.getLsbD 63 && decide ((e.2.extractLsb' 0 21).toNat ≤ r) &&
    decide (r ≤ (e.2.extractLsb' 0 21).toNat + (e.2.extractLsb' 32 21).toNat)
/-- Whether a route entry is severed. -/
def rteSevered (e : BitVec 64) : Bool := e.getLsbD 61

/-! ## Bytes and blocks -/

/-- Cut bytes at 64-byte block boundaries, with fuel for the number of pieces. -/
def splitBlocks : Nat → Nat → List Byte → List (Nat × List Byte)
  | 0, _, _ => []
  | n + 1, pa, data =>
    if data.isEmpty then [] else
    let k := 64 - pa % 64
    (pa, data.take k) :: splitBlocks n (pa + k) (data.drop k)

/-- The dirty line of a pool block that the memory-side cache holds. -/
def Mem.line? (m : Mem) (blk : Nat) : Option Line := (m.dirty.find? fun e => e.1 == blk).map (·.2)
/-- A line's poison mark. -/
def Line.mark (l : Line) : Bool := l.check = markPattern
/-- How a block's check bytes differ from the right ones, seen through the cache or at the device (R451). -/
def Mem.checkOf (m : Mem) (blk : Nat) (cached : Bool) : BitVec 64 :=
  match (if cached then m.line? blk else none) with
  | some l => l.check
  | none => smGet 0 blk m.check
/-- Whether a block counts as poison-marked, seen through the cache or at the device (R191, R243). -/
def Mem.marked (m : Mem) (blk : Nat) (cached : Bool) : Bool := m.checkOf blk cached = markPattern
/-- The poison-marked blocks of the devices, in rising order. -/
def Mem.mark (m : Mem) : List Nat := (m.check.filter fun e => e.2 = markPattern).map (·.1)
/-- The blocks of the devices that read as poison, in rising order (R452). -/
def Mem.failing (m : Mem) : List Nat := (m.check.filter fun e => (finding e.2).bad).map (·.1)
/-- A byte, seen through the cache or at the device. -/
def Mem.byte (m : Mem) (pa : Nat) (cached : Bool) : Byte :=
  match (if cached then m.line? (blockOf pa) else none) with
  | some l => (l.data[pa % 64]?).getD 0
  | none => smGet 0 pa m.bytes

/-- A byte of memory as a cached access sees it; an elided unit reads zero (R456). -/
def State.byteAt (s : State) (pa : Nat) (cached : Bool := true) : Byte :=
  if s.trunk.elided pa then 0 else s.mem.byte pa cached
/-- Bytes of memory, without reports. -/
def State.peek (s : State) (pa n : Nat) (cached : Bool := true) : List Byte :=
  (List.range n).map fun i => s.byteAt (pa + i) cached

/-- The canonical form of memory: keys rise strictly, and no byte or error entry holds what an unlisted one reads as. -/
def Memory.wf (m : Mem) : Bool :=
  smWf 0 m.bytes && smWf 0 m.check && smSorted none m.dirty && smSorted none m.quarantine

/-- The 8 check bytes that the device stores with a block (R451). -/
def Mem.checkBytes (m : Mem) (blk : Nat) : BitVec 64 :=
  Machine.checkBytes blk ((List.range 64).map fun i => smGet 0 (blk * 64 + i) m.bytes) ^^^ smGet 0 blk m.check
/-- The check bytes after a write, as they differ from the right ones: poison gives the mark, clean data over all 64 bytes
replaces them, a partial clean write keeps a mark or an error (R191, R452). -/
def newCheck (old : BitVec 64) (n : Nat) (poison : Bool) : BitVec 64 :=
  if poison then markPattern else if n = 64 then 0 else old
/-- Write bytes within one block at the device (R191, R452). -/
def Mem.putBlock (m : Mem) (pa : Nat) (data : List Byte) (poison : Bool) : Mem :=
  { m with
    bytes := writeBytes m.bytes pa data
    check := smSet 0 (blockOf pa) (newCheck (smGet 0 (blockOf pa) m.check) data.length poison) m.check }

/-- Write bytes within one block of the pool into the memory-side cache's dirty line (R216). -/
def Mem.putLine (m : Mem) (who : Option TaskId) (pa : Nat) (data : List Byte) (poison : Bool) : Mem :=
  let blk := blockOf pa
  let l : Line := (m.line? blk).getD
    ⟨(List.range 64).map fun i => smGet 0 (blk * 64 + i) m.bytes, smGet 0 blk m.check, []⟩
  let w := match who with
    | some t => if l.who.contains (t.part, t.lid, t.sidx) then l.who else (t.part, t.lid, t.sidx) :: l.who
    | none => l.who
  let d := (List.range 64).map fun i =>
    if pa % 64 ≤ i && i < pa % 64 + data.length then (data[i - pa % 64]?).getD 0 else (l.data[i]?).getD 0
  { m with dirty := smPut blk ⟨d, newCheck l.check data.length poison, w⟩ m.dirty }

/-- A line goes to the pool device with its check bytes (R451). -/
def Mem.storeLine (m : Mem) (blk : Nat) (l : Line) : Mem :=
  { m with bytes := writeBytes m.bytes (blk * 64) l.data, check := smSet 0 blk l.check m.check }
/-- Write a dirty line back to the pool device and keep it clean: it leaves the list. -/
def Mem.writeBack (m : Mem) (blk : Nat) : Mem :=
  match m.line? blk with
  | none => m
  | some l => { (m.storeLine blk l) with dirty := smDel blk m.dirty }
/-- Correct a block where it stands, in its dirty line or at the device, and give it the right check bytes (R452). -/
def Mem.correct (m : Mem) (blk : Nat) (cached : Bool) (errors : List (Nat × BitVec 8)) : Mem :=
  match (if cached then m.line? blk else none) with
  | some l => { m with dirty := smPut blk { l with data := mend errors l.data, check := 0 } m.dirty }
  | none => { m with
    bytes := writeBytes m.bytes (blk * 64) (mend errors ((List.range 64).map fun i => smGet 0 (blk * 64 + i) m.bytes))
    check := smDel blk m.check }

/-- The mask of a write within its 64-byte block. -/
def blockMask (pa n : Nat) : BitVec 64 := (BitVec.allOnes 64 >>> (64 - n)) <<< (pa % 64)

/-- What a write within one block does to the undo log (R459): the writer's first write to the block appends its old bytes,
a later one adds to the mask; bytes that another agent writes leave every other entry's mask. -/
def State.logWrite (s : State) (who : Option TaskId) (pa n : Nat) : State :=
  let blk := blockOf pa
  let m := blockMask pa n
  let mine (u : Undo) : Bool := who = some ⟨u.part, u.lid, u.sidx⟩
  let u1 := s.undo.map fun u =>
    if u.block = blk then (if mine u then { u with mask := u.mask ||| m } else { u with mask := u.mask &&& ~~~m }) else u
  match who with
  | none => { s with undo := u1 }
  | some w =>
    let logged := (s.part w.part).ckptctl.getLsbD 63 &&
      s.checkpoints.any fun c => c.part = w.part && c.lid = w.lid && c.sidx = w.sidx
    if logged && !(u1.any fun u => u.block = blk && mine u) then
      { s with undo := u1 ++ [⟨w.part, w.lid, w.sidx, blk, m, s.peek (blk * 64) 64⟩] }
    else { s with undo := u1 }

/-- A write clears the elision bit of the unit it reaches, which zeroes the unit (R456). -/
def State.unelide (s : State) (pa : Nat) : State :=
  if s.trunk.elided pa then
    let g := pa / 0x40000000
    let u := pa / 0x1000000 % 64
    let lo := pa / 0x1000000 * 0x1000000
    { s with
      trunk := { s.trunk with elide := smSet 0 g (smGet 0 g s.trunk.elide &&& ~~~(1#64 <<< u)) s.trunk.elide }
      mem := { s.mem with
        bytes := smClear lo 0x1000000 s.mem.bytes
        check := smClear (lo / 64) 0x40000 s.mem.check } }
  else s

/-- A migration duplicates writes from GO until the invalidation after its switch completes (R406). -/
def Part.duplicating (q : Part) : Bool := q.migbusy.any fun m => !m.switched || q.inval.any (·.forMigration)
/-- Where a migration in progress duplicates a write (R406). -/
def Part.duplicate (q : Part) (pa : Nat) : Option Nat :=
  if q.duplicating then
    q.migbusy.bind fun m => if m.src ≤ pa && pa < m.src + m.bytes then some (m.dst + (pa - m.src)) else none
  else none
/-- Where the migrations in progress duplicate a write. -/
def State.duplicates (s : State) (pa : Nat) : List Nat := s.parts.toList.filterMap fun p => p.duplicate pa
/-- Whether an address can take a write: a pool address needs a route that is not severed (R312, R314). -/
def State.canTake (s : State) (pa : Nat) : Bool :=
  target pa ≠ .pool || (s.trunk.route (regionOf pa)).any fun e => !rteSevered e.2
/-- A migration loses a duplicate that cannot be performed (R406): MIGRATION_ABORTED ends it. -/
def State.loseDuplicates (s : State) (pa : Nat) : State :=
  if (s.duplicates pa).all s.canTake then s
  else { s with parts := Vector.ofFn fun i =>
    let q := s.parts[i]
    if (q.duplicate pa).any fun a => !s.canTake a then { q with migbusy := q.migbusy.map fun m => { m with lost := true } } else q }

/-- Where a block lies, as records name it (R463), of those in HBM by the interleave of R215: the stack of an address. -/
def stackOf (pa : Nat) : Nat := (pa / 0x2000 % 8) ^^^ (pa / 0x1000000 % 8)
/-- The slice of the stack's die that an HBM line lives in (R215). -/
def sliceOf (pa : Nat) : Nat := stackOf pa % 2 * 64 + ((pa / 0x80 % 64) ^^^ (pa / 0x8000000 % 64))
/-- Where a block lies, as records name it (R463): a compute die, or 5 for the pool. -/
def siteOf (pa : Nat) : Nat := if target pa = .pool then 5 else stackOf pa / 2

/-- A partial clean write merges into a block: an error that can be corrected is corrected first, without a record (log 102). -/
def Mem.mergeInto (m : Mem) (cached : Bool) (pa n : Nat) (poison : Bool) : Mem :=
  match finding (m.checkOf (blockOf pa) cached) with
  | .corrected errors => if poison || n = 64 then m else m.correct (blockOf pa) cached errors
  | _ => m
/-- Perform a write within one block at its home: into the memory-side cache for a cached pool write, else at the device; a pool
write past the cache also reaches a dirty line that the cache holds (R244). -/
def State.putPiece (s : State) (who : Option TaskId) (cached : Bool) (poison : Bool) (pa : Nat) (data : List Byte) : State :=
  let s := ((s.unelide pa).logWrite who pa data.length).loseDuplicates pa
  let put (m : Mem) (a : Nat) : Mem :=
    let m := m.mergeInto (target a = .pool) a data.length poison
    if target a = .pool && (cached || (m.line? (blockOf a)).isSome) then
      (let m := m.putLine who a data poison
       if cached then m else m.writeBack (blockOf a))
    else m.putBlock a data poison
  { s with mem := ((s.duplicates pa).filter s.canTake).foldl put (put s.mem pa) }

/-- Perform a write of any length, block by block. -/
def State.writePhys (s : State) (who : Option TaskId) (pa : Nat) (data : List Byte) (poison : Bool := false)
    (cached : Bool := true) : State :=
  (splitBlocks data.length pa data).foldl (fun s p => s.putPiece who cached poison p.1 p.2) s

/-! ## Event records -/

/-- Write a 32-byte record at a slot of a partition's ring (R385). -/
def State.putRecord (s : State) (p : PartNum) (ix : BitVec 32) (rec_ : List Byte) : State :=
  let q := s.part p
  let size := 2 ^ ((q.evqbase.extractLsb' 56 4).toNat + 6)
  s.writePhys none ((q.evqbase.extractLsb' 12 40).toNat * 4096 + 32 * (ix.toNat % size)) rec_

/-- The overflow record (R388). -/
def overflowRecord (p : PartNum) (drops : Nat) (time : BitVec 64) : List Byte :=
  leBytes 8 (0x01 + p.toNat * 0x10000) ++ leBytes 8 drops ++ leBytes 8 0 ++ leBytes 8 time.toNat

/-- Put a record into a partition's event queue (R386): dropped and counted when the queue is off or has no room; after a
drop an overflow record comes first, which takes a second slot. -/
def State.enqueue (s : State) (p : PartNum) (rec_ : List Byte) (time : BitVec 64) : State :=
  let q := s.part p
  let size := 2 ^ ((q.evqbase.extractLsb' 56 4).toNat + 6)
  let used := (q.evqtail - q.evqhead).toNat
  let need := if q.evqdrops = 0 then 1 else 2
  if !q.evqbase.getLsbD 0 || decide (size < used + need) then
    s.onPart p fun q => { q with
      evqlost := if q.evqlost = 0xFFFFFFFF then q.evqlost else q.evqlost + 1
      evqdrops := q.evqdrops + 1 }
  else
    let s := if q.evqdrops = 0 then s else s.putRecord p q.evqtail (overflowRecord p q.evqdrops time)
    let ix := if q.evqdrops = 0 then q.evqtail else q.evqtail + 1
    (s.putRecord p ix rec_).onPart p fun q => { q with evqtail := ix + 1, evqdrops := 0 }

/-- The severity of a record type (R465). -/
def severity (type : Nat) : Nat :=
  if [0x30, 0x33].contains type then 0
  else if [0x31, 0x32, 0x34, 0x38, 0x62, 0x63, 0x67].contains type then 1
  else if [0x39, 0x3A, 0x3B, 0x68].contains type then 2
  else 3

/-- Hand a record to Glidin (R465): kept among the last 4,096 and sent as a 48-byte message. -/
def State.toGlidin (s : State) (rec_ : List Byte) : State :=
  let type := ((rec_[0]?).getD 0).toNat
  let time := leNat (rec_.drop 24)
  let msg := rec_ ++ leBytes 4 s.modnum.toNat ++ leBytes 6 (time / 1000000000) ++ leBytes 4 (time % 1000000000) ++
    [BitVec.ofNat 8 (severity type), s.trunk.glidinSeq]
  let kept := s.trunk.glidin ++ [msg]
  { s with
    trunk := { s.trunk with
      glidin := if Config.glidinStore < kept.length then kept.drop 1 else kept
      glidinSeq := s.trunk.glidinSeq + 1 }
    out := s.out ++ [.glidin msg] }

/-- A record of R388. -/
structure PowerRec where
  type : Nat
  code : Nat := 0
  grove : Nat := 0
  old : Nat := 0
  new : Nat := 0
  core : Nat := 0
  value : Nat := 0
  lid : Nat := 0
  handle : Nat := 0

/-- Write a record of R388 to a partition's event queue; a boot context's goes to Glidin only (R506). -/
def State.power (s : State) (p : PartNum) (r : PowerRec) (boot : Bool := false) : State :=
  let (t, s) := s.stamp
  (fun b => if boot then s.toGlidin b else s.enqueue p b t) (leBytes 1 r.type ++ leBytes 1 r.code ++ leBytes 1 p.toNat ++ leBytes 1 r.grove ++ leBytes 1 r.old ++
    leBytes 1 r.new ++ leBytes 1 r.core ++ leBytes 1 0 ++ leBytes 8 r.value ++ leBytes 4 r.lid ++ leBytes 4 r.handle ++
    leBytes 8 t.toNat)

/-- A record of R463. -/
structure ErrRec where
  type : Nat
  code : Nat := 0
  site : Nat := 0
  lid : Nat := 0
  addr : Nat := 0
  sidx : Nat := 0
  value : Nat := 0

/-- The 32 bytes of a record of R463, R404 or R483 at a time. -/
def ErrRec.bytes (r : ErrRec) (p : Option PartNum) (time : BitVec 64) : List Byte :=
  leBytes 1 r.type ++ leBytes 1 r.code ++ leBytes 1 ((p.map (·.toNat)).getD 0) ++ leBytes 1 r.site ++
    leBytes 4 r.lid ++ leBytes 8 r.addr ++ leBytes 4 r.sidx ++ leBytes 4 r.value ++ leBytes 8 time.toNat
/-- A partition's count of corrected errors at a time: records in the second of that time, and those suppressed since the last
one (R463). -/
def Part.fix (q : Part) (time : BitVec 64) : Bool × Nat × Part :=
  let sec := time.toNat / 1000000000
  let n := if q.fixSecond = sec then q.fixCount else 0
  if n < 1000 then (true, q.fixMissed, { q with fixSecond := sec, fixCount := n + 1, fixMissed := 0 })
  else (false, 0, { q with fixSecond := sec, fixCount := n, fixMissed := Nat.min 0xFFFF (q.fixMissed + 1) })
/-- Write a record of R463 to Glidin and to the event queues of some partitions. -/
def State.errRecords (s : State) (ps : List PartNum) (r : ErrRec) : State :=
  let (t, s) := s.stamp
  ps.foldl (fun s p => s.enqueue p (r.bytes (some p) t) t) (s.toGlidin (r.bytes ps.head? t))
/-- Write a record of R463: to Glidin always, and to the partition's event queue where one owns it. -/
def State.errRecord (s : State) (p : Option PartNum) (r : ErrRec) : State := s.errRecords p.toList r
/-- Write a record of a corrected error: at most 1,000 in a second for a partition; VALUE tells how many were suppressed
(R463). -/
def State.fixRecord (s : State) (p : Option PartNum) (r : ErrRec) : State :=
  match p with
  | none => s.errRecord none r
  | some n =>
    let (due, missed, q) := (s.part n).fix s.clock
    let s := s.setPart n q
    if due then s.errRecord p { r with value := r.value + missed * 65536 } else s

/-! ## Reading with reports -/

/-- The partition that owns an HBM byte, if any. -/
def State.ownerPart (s : State) (pa : Nat) : Option PartNum :=
  if target pa = .hbm then
    let o := s.trunk.owner (pa / 0x40000000)
    if o.toNat < 8 then some (o.setWidth 3) else none
  else none

/-- Count a read of an elided unit: the first of each 1,000 writes record 0x33, whose VALUE counts the others (R456). -/
def State.elidedRead (s : State) (pa : Nat) : State :=
  let u := pa / 0x1000000
  let n := smGet 0 u s.trunk.elideReads
  let due := n = 0 || n = 1000
  let s := s.onTrunk fun t => { t with elideReads := smSet 0 u (if due then 1 else n + 1) t.elideReads }
  if due then s.errRecord (s.ownerPart pa) { type := 0x33, site := siteOf pa, addr := pa, value := n - 1 } else s

/-- Read a block as R452 gives: whether it reads as poison, and the state with the report written; a corrected block is written
back at its home. -/
def State.checkBlock (s : State) (part : Option PartNum) (cached : Bool) (pa : Nat) : Bool × State :=
  if s.trunk.elided pa then (false, s.elidedRead pa) else
  let blk := blockOf pa
  let found := finding (s.mem.checkOf blk cached)
  let own := if target pa = .hbm then s.ownerPart pa else part
  let rec_ : ErrRec := { type := 0x31, code := if target pa = .pool then 4 else 0, site := siteOf pa, addr := blk * 64 }
  (found.bad,
   match found with
   | .clean | .marked => s
   | .corrected errors => (s.onMem fun m => m.correct blk cached errors).fixRecord own { rec_ with type := 0x30, value := errors.length }
   | .misdirected => s.errRecord own { rec_ with type := 0x32 }
   | .uncorrectable => s.errRecord own rec_)

/-- The blocks that a range of bytes touches. -/
def blocksOf (pa n : Nat) : List Nat :=
  if n = 0 then [] else (List.range (blockOf (pa + n - 1) - blockOf pa + 1)).map fun i => (blockOf pa + i) * 64

/-- Read bytes of memory: the bytes, whether any is poison, and the state with the reports written (R452, R191, R456). -/
def State.readPhys (s : State) (part : Option PartNum) (pa n : Nat) (cached : Bool := true) : List Byte × Bool × State :=
  let (p, s) := (blocksOf pa n).foldl (fun (acc : Bool × State) b =>
    let (q, s) := acc.2.checkBlock part cached b
    (acc.1 || q, s)) (false, s)
  (s.peek pa n cached, p, s)

/-! ## Scratchpads -/

/-- Whether any byte of a scratchpad range lies in a marked or erroneous block (R203, R452). -/
def Core.spadBad (k : Core) (a n : Nat) : Bool :=
  (blocksOf a n).any fun b => k.spadMark.contains (blockOf b) || k.spadErr.contains (blockOf b)

/-- Read bytes of a scratchpad, with a report for each block whose error is uncorrectable. -/
def State.readSpad (s : State) (c : CoreNum) (a n : Nat) : List Byte × Bool × State :=
  let k := s.core c
  let bad := (blocksOf a n).filter fun b => k.spadErr.contains (blockOf b)
  let s := bad.foldl (fun s b => s.errRecord (if k.busy then some k.ctx.part else none)
    { type := 0x31, code := 2, site := (dieOf c).toNat, addr := b }) s
  (readBytes k.spad a n, k.spadBad a n, s)

/-- Write bytes within one scratchpad block (R191). -/
def Core.putSpad (k : Core) (a : Nat) (data : List Byte) (poison : Bool) : Core :=
  let blk := blockOf a
  let full := decide (data.length = 64)
  { k with
    spad := writeBytes k.spad a data
    spadMark := if poison then setIns blk k.spadMark else if full then setDel blk k.spadMark else k.spadMark
    spadErr := if full then setDel blk k.spadErr else k.spadErr }

/-- Write bytes of a scratchpad. -/
def State.writeSpad (s : State) (c : CoreNum) (a : Nat) (data : List Byte) (poison : Bool := false) : State :=
  s.onCore c fun k => (splitBlocks data.length a data).foldl (fun k p => k.putSpad p.1 p.2 poison) k

end Sys2Proof.Machine
end

