-- ==== Sys2Proof/Machine/Translate.lean ====
section
/-!
DEFINITION. Address translation (R392-R400): the walk over the partition's tables, its faults in their order, and the
division of a global access into pieces (R224), the TLBs (R399), the paths to other modules (R319).
-/

namespace Sys2Proof.Machine

/-- What an access asks of a page (R397). -/
inductive Kind where
  | read | write | atomic | fetch
  deriving DecidableEq, Repr

/-- The code of a kind in the detail word (R397). -/
def Kind.num : Kind → BitVec 2
  | .read => 0 | .write => 1 | .atomic => 2 | .fetch => 3

/-- Who makes an access: its partition, its launch if it is a context, whether it runs at supervisor level (R409), at task
level (R397), or as a boot context (R506); `free` marks a walk that asks for no permission (R300, R405), `tlb` an agent of the
core whose turn it is, which translates through that core's TLBs (R399). -/
structure Agent where
  part : PartNum
  lid : Option (BitVec 32)
  super : Bool
  task : Bool
  boot : Bool
  free : Bool := false
  tlb : Bool := false
  deriving DecidableEq, Repr

/-- The context of the core whose turn it is, as an agent. -/
def Ctx.agent (c : Ctx) : Agent := ⟨c.part, some c.lid, c.inHandler, !c.inHandler, c.boot, false, true⟩
/-- The partition's own agents: the scheduler, queues, windows and maps of a task of a launch (R395, R397). -/
def taskAgent (p : PartNum) (lid : BitVec 32) : Agent := ⟨p, some lid, false, true, false, false, false⟩

/-- A cached access: policy WB (R243). -/
def Xlat.cached (x : Xlat) : Bool := x.pol = 0

/-- How a walk ends other than well. -/
inductive WalkStop where
  | fault (reason : BitVec 4) (level : BitVec 2)
  | wait (level : BitVec 2)
  | address
  | busy
  | severed (region : Nat)
  deriving DecidableEq, Repr

/-- Index, entry count's log and table alignment of a level (R394). -/
def vaIndex (va : Nat) : Nat → Nat
  | 0 => va / 2 ^ 43 % 8192
  | 1 => va / 2 ^ 30 % 8192
  | 2 => va / 2 ^ 21 % 512
  | _ => va / 2 ^ 16 % 32
/-- The bytes of a table of a level. -/
def tableBytes : Nat → Nat
  | 0 => 131072
  | 1 => 131072
  | 2 => 8192
  | _ => 512
/-- The log of the leaf size at a level. -/
def leafLog : Nat → Nat
  | 1 => 30
  | 2 => 21
  | _ => 16

/-- The fields of a slab's word 1 (R396): row bytes' log, rows per plane's log, strides in bytes. -/
def slabRowLog (w1 : BitVec 64) : Nat := (w1.extractLsb' 40 5).toNat
/-- log2 of the rows per plane. -/
def slabE1Log (w1 : BitVec 64) : Nat := (w1.extractLsb' 35 5).toNat
/-- The stride between rows in bytes. -/
def slabS1 (w1 : BitVec 64) : Nat := (w1.extractLsb' 18 17).toNat * 64
/-- The stride between planes in bytes. -/
def slabS2 (w1 : BitVec 64) : Nat := (w1.extractLsb' 0 18).toNat * 4096
/-- The offset of a slab's byte from PABASE (R396). -/
def slabOffset (w1 : BitVec 64) (o : Nat) : Nat :=
  let r := o / 2 ^ slabRowLog w1
  o % 2 ^ slabRowLog w1 + r % 2 ^ slabE1Log w1 * slabS1 w1 + r / 2 ^ slabE1Log w1 * slabS2 w1
/-- The offset of the highest byte that a slab reaches. -/
def slabTop (w1 : BitVec 64) (log : Nat) : Nat :=
  let e1 := 2 ^ slabE1Log w1
  2 ^ slabRowLog w1 - 1 + (e1 - 1) * slabS1 w1 + (2 ^ (log - slabRowLog w1) / e1 - 1) * slabS2 w1

/-- ADDR of a word 0 (R395). -/
def entryAddr (w0 : BitVec 64) : Nat := (w0.extractLsb' 0 52).toNat

/-- Whether a valid entry breaks its format at a level (R395-R397), apart from the range of a slab. -/
def entryBad (t : Trunk) (p : PartNum) (level : Nat) (w0 w1 : BitVec 64) : Bool :=
  let type := w0.extractLsb' 61 2
  let addr := entryAddr w0
  w0.extractLsb' 52 2 ≠ 0 ||
  match type.toNat with
  | 0 =>
    level = 3 || w0.extractLsb' 54 7 ≠ 0 || w1 ≠ 0 || addr % tableBytes (level + 1) ≠ 0 ||
    !(t.ownsRange p addr (tableBytes (level + 1)))
  | 1 =>
    level = 0 || w0.extractLsb' 59 2 = 3 || w1.extractLsb' 0 45 ≠ 0 || (!w1.getLsbD 63 && w1.extractLsb' 45 18 ≠ 0) ||
    addr % 2 ^ leafLog level ≠ 0
  | 2 =>
    level = 0 || level = 3 || w0.extractLsb' 59 2 = 3 || (!w1.getLsbD 63 && w1.extractLsb' 45 18 ≠ 0) || addr % 64 ≠ 0 ||
    slabRowLog w1 < 6 || leafLog level < slabRowLog w1 || leafLog level - slabRowLog w1 < slabE1Log w1
  | _ => true

/-- Whether a range of physical bytes lies wholly in an owner range of a launch (R419). -/
def Part.ownerKeyed (q : Part) (lid : Option (BitVec 32)) (pa n : Nat) : Bool :=
  q.ranges.toList.any fun r => match r with
    | none => false
    | some r => lid = some r.lid && decide (r.base.toNat ≤ pa) && decide (pa + n ≤ r.base.toNat + r.units.toNat * 65536)

/-- The permission an access needs of a page (R397, R409, R419); a page of another module lies in no owner range. -/
def permitted (q : Part) (a : Agent) (k : Kind) (w0 : BitVec 64) (here : Bool) (pagePa pageBytes : Nat) : Bool :=
  let r := w0.getLsbD 58
  let w := w0.getLsbD 57
  let x := w0.getLsbD 56
  a.free || (match k with
    | .read => r
    | .write => w
    | .atomic => r && w
    | .fetch => r && x) &&
  !(w0.getLsbD 55 && a.task) &&
  (!w0.getLsbD 54 || (here && q.ownerKeyed a.lid pagePa pageBytes))

/-- Whether R214, R312, R411 or R260 forbids a local physical address to an agent, given the page that holds it: a page that
reaches an HBM granule of another owner is forbidden whole (R411), and no atomic is performed in configuration space (R267). -/
def State.forbidden (s : State) (a : Agent) (k : Kind) (pol : BitVec 2) (page n pa : Nat) : Bool :=
  match target pa with
  | .hbm => !(s.trunk.ownsRange a.part page n)
  | .pool => (s.trunk.route (regionOf pa)).isNone
  | .config => !a.super || k = .fetch || k = .atomic || pol ≠ 1
  | _ => true

/-- The checks of a leaf or slab (R396, R397): the address of the byte, or how the walk ends. -/
def State.leafCheck (s : State) (a : Agent) (k : Kind) (va level : Nat) (entry : Nat) (w0 w1 : BitVec 64) :
    Except WalkStop Xlat :=
  let log := leafLog level
  let slab := w0.extractLsb' 61 2 = 2
  let addr := entryAddr w0
  let top := if slab then slabTop w1 log else 2 ^ log - 1
  let o := va % 2 ^ log
  let pa := addr + (if slab then slabOffset w1 o else o)
  let remote := if w1.getLsbD 63 then some (w1.extractLsb' 45 18) else none
  let pol := w0.extractLsb' 59 2
  if slab && (target addr ≠ target (addr + top) || !(target addr = .hbm || target addr = .pool)) then
    .error (.fault 3 (BitVec.ofNat 2 level))
  else if remote.isNone && s.forbidden a k pol addr (top + 1) pa then .error .address
  else if !permitted (s.part a.part) a k w0 remote.isNone addr (top + 1) then .error (.fault 2 (BitVec.ofNat 2 level))
  else if remote.isNone && target pa = .hbm && s.trunk.ownBusy.any (fun g => g.1 = pa / 0x40000000) then .error .busy
  else if remote.isNone && target pa = .pool && (s.trunk.route (regionOf pa)).any (fun e => rteSevered e.2) then
    .error (.severed (regionOf pa))
  else .ok ⟨pa, remote, pol, w0.getLsbD 57, w0.getLsbD 54, entry, addr, top + 1, slab, if slab then slabRowLog w1 else log,
    va / 2 ^ log * 2 ^ log, log, level, w0, w1⟩

/-- The walk from a level on, with the table's address (R397). The first word that reads with an error ends it. -/
def State.walkFrom (s : State) (a : Agent) (k : Kind) (va : Nat) : List Nat → Nat → Except WalkStop Xlat × State
  | [], _ => (.error (.fault 3 3), s)
  | level :: more, base =>
    let entry := base + 16 * vaIndex va level
    let (bytes, bad, s) := s.readPhys (some a.part) entry 16
    let w0 := BitVec.ofNat 64 (leNat (bytes.take 8))
    let w1 := BitVec.ofNat 64 (leNat (bytes.drop 8))
    if bad then (.error (.fault 4 (BitVec.ofNat 2 level)), s)
    else if !w0.getLsbD 63 then
      (.error (if w0.getLsbD 62 then .wait (BitVec.ofNat 2 level) else .fault 1 (BitVec.ofNat 2 level)), s)
    else if entryBad s.trunk a.part level w0 w1 then (.error (.fault 3 (BitVec.ofNat 2 level)), s)
    else if w0.extractLsb' 61 2 = 0 then s.walkFrom a k va more (entryAddr w0)
    else (s.leafCheck a k va level entry w0 w1, s)

/-- The whole walk of a virtual address. -/
def State.walkTables (s : State) (a : Agent) (k : Kind) (va : BitVec 56) : Except WalkStop Xlat × State :=
  let root := (s.part a.part).ptroot
  let base := (root.extractLsb' 17 35).toNat * 131072
  if !root.getLsbD 63 then (.error (.fault 1 0), s)
  else if !(s.trunk.ownsRange a.part base 131072) then (.error (.fault 3 0), s)
  else s.walkFrom a k va.toNat [0, 1, 2, 3] base

/-! ## The TLBs (R399) -/

/-- Whether an entry translates an address of a partition. -/
def TlbEntry.holds (e : TlbEntry) (p : PartNum) (va : Nat) : Bool :=
  e.part = p && decide (e.page ≤ va) && decide (va < e.page + 2 ^ e.log)
/-- The entry that a walk ended at. -/
def Xlat.tlbEntry (x : Xlat) (p : PartNum) : TlbEntry := ⟨p, x.level, x.entry, x.w0, x.w1, x.page, x.log⟩
/-- A TLB of `n` entries takes an entry: the oldest gives way. -/
def tlbTake (n : Nat) (e : TlbEntry) (l : List TlbEntry) : List TlbEntry := if l.contains e then l else (e :: l).take n
/-- The TLBs of the core whose turn it is and of its grove take an entry. -/
def State.tlbFill (s : State) (e : TlbEntry) : State :=
  let c := s.cur.toNat
  let g := (groveOf s.cur).toNat
  { s with
    tlb1 := smSet [] c (tlbTake 128 e (smGet [] c s.tlb1)) s.tlb1
    tlb2 := smSet [] g (tlbTake 4096 e (smGet [] g s.tlb2)) s.tlb2 }
/-- The entry that the core's TLBs hold for an address, if it is not the one a walk gave. -/
def State.tlbHeld (s : State) (p : PartNum) (va : Nat) (new : Option TlbEntry) : Option TlbEntry :=
  (smGet [] s.cur.toNat s.tlb1 ++ smGet [] (groveOf s.cur).toNat s.tlb2).find? fun e => e.holds p va && new != some e
/-- Remove entries from every TLB. -/
def State.tlbDrop (s : State) (f : TlbEntry → Bool) : State :=
  let keep (m : SMap (List TlbEntry)) : SMap (List TlbEntry) :=
    (m.map fun e => (e.1, e.2.filter fun x => !f x)).filter fun e => !e.2.isEmpty
  { s with tlb1 := keep s.tlb1, tlb2 := keep s.tlb2 }
/-- No core's fetch holds bundles of some physical addresses any longer (R411). -/
def State.fetchDrop (s : State) (f : Nat → Bool) : State :=
  { s with fetched := (s.fetched.map fun e => (e.1, e.2.filter fun b => !f b.1)).filter fun e => !e.2.isEmpty }
/-- The physical bytes that an entry's page reaches: its first, and their number. -/
def TlbEntry.reach (e : TlbEntry) : Nat × Nat :=
  (entryAddr e.w0, if e.w0.extractLsb' 61 2 = 2 then slabTop e.w1 e.log + 1 else 2 ^ e.log)
/-- Translate an address (R399): by a walk, or, where the core's TLBs hold another entry for it, by either. -/
def State.walk (s : State) (a : Agent) (k : Kind) (va : BitVec 56) : Except WalkStop Xlat × State :=
  let (r, s) := s.walkTables a k va
  if !a.tlb then (r, s)
  else
    let new := match r with | .ok x => some (x.tlbEntry a.part) | .error _ => none
    let s := match new with | some e => s.tlbFill e | none => s
    match s.tlbHeld a.part va.toNat new with
    | none => (r, s)
    | some e =>
      let (n, s) := s.fresh
      (if Config.tlbOld n then s.leafCheck a k va.toNat e.level e.entry e.w0 e.w1 else r, s)

/-- What stops an access: a trap with its cause and detail word (R426), a page to wait for (R356), a granule whose owner
changes (R411), or an earlier access that is kept before it or a home that is a shed die (R220, R486). -/
inductive Stop where
  | trap (cause : BitVec 8) (detail : BitVec 64)
  | page (va : BitVec 56) (kind : Kind) (level : BitVec 2)
  | granule
  | order
  deriving DecidableEq, Repr

/-- The translation fault's detail word (R397). -/
def faultDetail (reason : BitVec 4) (level : BitVec 2) (k : Kind) (va : BitVec 56) : BitVec 64 :=
  reason ++ level ++ k.num ++ va

/-- A walk's end as what it does to the access. -/
def WalkStop.stop (w : WalkStop) (k : Kind) (va : BitVec 56) : Stop :=
  match w with
  | .fault reason level => .trap 0x0A (faultDetail reason level k va)
  | .wait level => .page va k level
  | .address => .trap 0x09 (va.setWidth 64)
  | .busy => .granule
  | .severed r => .trap 0x0B (BitVec.ofNat 64 r)

/-- The boot window (R506). -/
def bootWindow : Nat := 0x2000000

/-- Translate one global address as an instruction formed it (R260 steps 5 to 7). A boot context has no page tables: its
addresses are physical, with policy WB, within the boot window (R506). -/
def State.xlate (s : State) (a : Agent) (k : Kind) (va : BitVec 64) : Except Stop Xlat × State :=
  if va.extractLsb' 56 8 ≠ 0 then (.error (.trap 0x09 ((va.setWidth 56).setWidth 64)), s)
  else if a.boot then
    (if va.toNat < bootWindow then .ok ⟨va.toNat, none, 0, true, false, 0, 0, bootWindow, false, 25, 0, 25, 0, 0, 0⟩
      else .error (.trap 0x09 va), s)
  else
    let (r, s) := s.walk a k (va.setWidth 56)
    (match r with
      | .ok x => .ok x
      | .error w => .error (w.stop k (va.setWidth 56)), s)

/-- The pieces of a global access: its parts within aligned 8 bytes (R224). Every other boundary of R224 is a multiple of 8. -/
def pieces : Nat → BitVec 64 → Nat → List (BitVec 64 × Nat)
  | 0, _, _ => []
  | fuel + 1, va, n =>
    if n = 0 then [] else
    let k := Nat.min n (8 - va.toNat % 8)
    (va, k) :: pieces fuel (va + BitVec.ofNat 64 k) (n - k)

/-- Translate every piece before any is performed; the lowest failing one decides (R224, R260). -/
def State.xlateAll (s : State) (a : Agent) (k : Kind) : List (BitVec 64 × Nat) → Except Stop (List (Xlat × Nat)) × State
  | [] => (.ok [], s)
  | (va, n) :: t =>
    match s.xlate a k va with
    | (.error e, s) => (.error e, s)
    | (.ok x, s) =>
      match s.xlateAll a k t with
      | (.error e, s) => (.error e, s)
      | (.ok xs, s) => (.ok ((x, n) :: xs), s)

/-- Count a lookup in every range of a launch that holds an address (R403). -/
def Launch.lookUp (l : Launch) (va : BitVec 64) : Launch :=
  { l with lookups := l.kern.ranges.zipIdx.foldl (fun m r =>
      if r.1.base.toNat ≤ va.toNat && va.toNat < r.1.base.toNat + r.1.bytes.toNat then smSet 0 r.2 (smGet 0 r.2 m + 1) m
      else m) l.lookups }
/-- Count a lookup of a launch's task, while its partition's ranges are watched (R403). -/
def State.noteLookup (s : State) (a : Agent) (va : BitVec 64) : State :=
  match a.lid with
  | some lid => if (s.part a.part).hotctl.getLsbD 63 then s.onLaunch a.part lid fun l => l.lookUp va else s
  | none => s
/-- Translate a global access of `n` bytes: one lookup (R403). -/
def State.xlateRange (s : State) (a : Agent) (k : Kind) (va : BitVec 64) (n : Nat) :
    Except Stop (List (Xlat × Nat)) × State :=
  match s.xlateAll a k (pieces (n + 1) va n) with
  | (.ok xs, s) => (.ok xs, s.noteLookup a va)
  | r => r

/-- The parts of a range of bytes within aligned 64-byte blocks: what a queue unit, a fill or a fetch reads or writes at
once. -/
def blockPieces : Nat → BitVec 64 → Nat → List (BitVec 64 × Nat)
  | 0, _, _ => []
  | fuel + 1, va, n =>
    if n = 0 then [] else
    let k := Nat.min n (64 - va.toNat % 64)
    (va, k) :: blockPieces fuel (va + BitVec.ofNat 64 k) (n - k)
/-- The first bytes in each line of a translated range: lines of 128 bytes in HBM, of 64 bytes in the pool (R202). -/
def lineStarts : Option Nat → List (BitVec 64 × Nat) → List (Xlat × Nat) → List (BitVec 64)
  | last, (va, _) :: t, (x, _) :: u =>
    let line := if target x.pa = .pool then x.pa / 64 else x.pa / 128
    (if last = some line then [] else [va]) ++ lineStarts (some line) t u
  | _, _, _ => []
/-- Count a lookup for each line of a translated range (R403). -/
def State.noteLines (s : State) (a : Agent) (l : List (BitVec 64 × Nat)) (xs : List (Xlat × Nat)) : State :=
  (lineStarts none l xs).foldl (fun s va => s.noteLookup a va) s
/-- Translate a range block by block: a lookup for each line (R403). -/
def State.xlateSpan (s : State) (a : Agent) (k : Kind) (va : BitVec 64) (n : Nat) :
    Except Stop (List (Xlat × Nat)) × State :=
  let l := blockPieces (n + 1) va n
  match s.xlateAll a k l with
  | (.ok xs, s) => (.ok xs, s.noteLines a l xs)
  | r => r

/-! ## Other modules -/

/-- What serves an address, as R463 numbers sites: a compute die (R215), the pool, or another module; nothing outside the
trunk die serves configuration space. -/
def siteServing (x : Xlat) : Option (BitVec 3) :=
  if x.remote.isSome then some 6
  else match target x.pa with
    | .hbm | .pool => some (BitVec.ofNat 3 (siteOf x.pa))
    | _ => none
/-- What serves the first piece of an access. -/
def siteOfPieces (xs : List (Xlat × Nat)) : Option (BitVec 3) := (xs.head?).bind fun x => siteServing x.1
/-- Whether a site is a shed compute die (R485, R486). -/
def State.siteShed (s : State) (x : Option (BitVec 3)) : Bool :=
  match x with
  | some d => decide (d.toNat < 4) && s.trunk.shedOrder.contains (d.setWidth 2)
  | none => false

/-- The entry of the module route table that governs a module, if any (R319). -/
def Trunk.routeTo (t : Trunk) (m : BitVec 18) : Option (BitVec 128) :=
  (t.routes.find? fun e => e.2.getLsbD 127 && decide ((e.2.extractLsb' 64 18).toNat ≤ m.toNat) &&
    decide (m.toNat ≤ (e.2.extractLsb' 82 18).toNat)).map (·.2)
/-- Whether a fabric port carries requests: trained, and for collective traffic and launch packets in Brixeel mode (R307). -/
def portCarries (heavy : Bool) (r : BitVec 32) : Bool := r.getLsbD 31 && (!heavy || r.extractLsb' 29 2 = 0)
/-- Whether the fabric carries requests: some port does. -/
def Trunk.fabricUp (t : Trunk) (heavy : Bool) : Bool := t.fabports.toList.any (portCarries heavy)
/-- The path of a request to another module (R319): none without MODNUM, since the module then originates no traffic (R23), and
none where no port carries it. -/
def State.path (s : State) (m : BitVec 18) (heavy : Bool := false) : Option Path :=
  if !s.trunk.modid.getLsbD 31 then none
  else
    let overFabric := if s.trunk.fabricUp heavy then some Path.fabric else none
    match s.trunk.routeTo m with
    | some e => if e.getLsbD 126 then some (.ethernet (e.extractLsb' 0 32) (e.extractLsb' 32 32)) else overFabric
    | none => overFabric
/-- Send requests to other modules, those that have a path (R309: the others wait as NOROUTE gives). -/
def State.sendAll (s : State) (l : List Sent) : State :=
  l.foldl (fun s r => match s.path r.module with | some p => s.send (.request p r) | none => s) s
/-- The read requests of translated pieces. -/
def readsOf (xs : List (Xlat × Nat)) : List Sent :=
  xs.filterMap fun x => x.1.remote.map fun m => ⟨m, BitVec.ofNat 52 x.1.pa, .read (BitVec.ofNat 9 x.2)⟩
/-- The write requests of translated pieces of data. -/
def writesOf (poison g : Bool) : List (Xlat × Nat) → List Byte → List Sent
  | [], _ => []
  | (x, n) :: t, data =>
    (match x.remote with
      | some m => [⟨m, BitVec.ofNat 52 x.pa, .write (data.take n) poison g⟩]
      | none => []) ++ writesOf poison g t (data.drop n)
/-- Whether some request has no path to its module: it waits as NOROUTE gives (R309). -/
def State.stuck (s : State) (l : List Sent) : Bool := l.any fun r => (s.path r.module).isNone
/-- The way of an access of an alias class (R219, R229, R402): what serves its first piece, the entries it was translated
through, what was sent. -/
def State.wayOf (s : State) (xs : List (Xlat × Nat)) (sent : List Sent) (cls : BitVec 3 := 0) : Way :=
  ⟨siteOfPieces xs, (xs.map fun x => (x.1.page, x.1.log)).dedup, sent, s.stuck sent, cls⟩

/-- What another module answers to a read that an agent waits for: free values, one per 8 bytes, and whether it reads as poison
or does not come (logs 2 and 45). -/
def State.remoteBytes (s : State) (n : Nat) : List Byte × Bool × State :=
  (((List.range ((n + 7) / 8)).flatMap fun i => leBytes 8 (Config.remoteData (s.tick + i)).toNat).take n,
   Config.remotePoison s.tick, { s with tick := s.tick + (n + 7) / 8 })
/-- Whether some piece's home, another module, refuses the read (R511): a free value (log 45). -/
def State.refuses (s : State) (xs : List (Xlat × Nat)) : Bool × State :=
  if xs.any fun x => x.1.remote.isSome then (Config.remoteRefused s.tick, { s with tick := s.tick + 1 }) else (false, s)

/-- Read translated pieces: local ones from memory, those of another module as free values. -/
def State.readPieces (s : State) (part : PartNum) : List (Xlat × Nat) → List Byte × Bool × State
  | [] => ([], false, s)
  | (x, n) :: t =>
    let (b, p, s) := if x.remote.isSome then (s.sendAll (readsOf [(x, n)])).remoteBytes n
      else s.readPhys (some part) x.pa n x.cached
    let (bs, q, s) := s.readPieces part t
    (b ++ bs, p || q, s)

/-- Read translated pieces, each byte with whether its piece read as poison. -/
def State.readMarked (s : State) (part : PartNum) : List (Xlat × Nat) → List (Byte × Bool) × State
  | [] => ([], s)
  | x :: t =>
    let (l, bad, s) := s.readPieces part [x]
    let (r, s) := s.readMarked part t
    (l.map (fun b => (b, bad)) ++ r, s)
/-- Write translated pieces: local ones to memory, those of another module as requests that leave the module; `g` asks for an
acknowledgement. -/
def State.writePieces (s : State) (who : Option TaskId) (poison g : Bool) : List (Xlat × Nat) → List Byte → State
  | [], _ => s
  | (x, n) :: t, data =>
    let s := if x.remote.isSome then s.sendAll (writesOf poison g [(x, n)] data)
      else s.writePhys who x.pa (data.take n) poison x.cached
    s.writePieces who poison g t (data.drop n)

/-- Write translated pieces of bytes that carry their own poison: a piece that holds a poison byte is a poison write. -/
def State.writeMarked (s : State) (who : Option TaskId) : List (Xlat × Nat) → List (Byte × Bool) → State
  | [], _ => s
  | (x, n) :: t, data =>
    let l := data.take n
    (s.writePieces who (l.any (·.2)) true [(x, n)] (l.map (·.1))).writeMarked who t (data.drop n)

/-- A read of the partition's own agents (the scheduler, a queue): the bytes and whether they read as poison, or what stops
it. -/
def State.readVirt (s : State) (a : Agent) (va : BitVec 64) (n : Nat) : Except Stop (List Byte × Bool) × State :=
  match s.xlateSpan a .read va n with
  | (.error e, s) => (.error e, s)
  | (.ok xs, s) =>
    let (b, p, s) := s.readPieces a.part xs
    (.ok (b, p), s)

end Sys2Proof.Machine
end

