-- ==== Sys2Proof/Machine/Sched.lean ====
section
/-!
DEFINITION. What several agents share: granted levels and leases (R379-R381), phasers and the completion of phases (R360-R362),
the cut instant (R489), the end of tasks and launches with their reports (R349, R358, R371), lost tasks (R463).
-/

namespace Sys2Proof.Machine

/-! ## Levels and leases -/

/-- LEVEL of grovepwr (R378). -/
def Grove.level (g : Grove) : BitVec 2 := g.pwr.extractLsb' 0 2
/-- THERM. -/
def Grove.therm (g : Grove) : BitVec 2 := g.pwr.extractLsb' 2 2
/-- EFF: Max(LEVEL, THERM). -/
def Grove.eff (g : Grove) : BitVec 2 := if g.level.toNat ≤ g.therm.toNat then g.therm else g.level
/-- LEASEFLOOR. -/
def Grove.leaseFloor (g : Grove) : BitVec 2 := g.pwr.extractLsb' 36 2
/-- LEASEMAX. -/
def Grove.leaseMax (g : Grove) : Nat := (g.pwr.extractLsb' 38 5).toNat
/-- LEASELEN. -/
def Grove.leaseLen (g : Grove) : Nat := (g.pwr.extractLsb' 43 5).toNat
/-- SLEWEN. -/
def Grove.slewEn (g : Grove) : Bool := g.pwr.getLsbD 15

/-- The level granted to a context with a lease on a grove (R379). -/
def grantedLevel (g : Grove) (l : Lease) : BitVec 2 :=
  if g.level = 3 || g.therm = 3 then 3
  else if l.held && !l.suspended then
    let m := if g.level.toNat ≤ l.level.toNat then g.level else l.level
    if m.toNat ≤ g.therm.toNat then g.therm else m
  else g.eff
/-- The level granted to the context of a core; a boot context's is 0 (R506). -/
def State.granted (s : State) (c : CoreNum) : BitVec 2 :=
  if (s.core c).ctx.boot then 0 else grantedLevel (s.grove (groveOf c)) (s.core c).ctx.lease

/-- The cores of a grove. -/
def coresOf (g : GroveNum) : List CoreNum := (List.range 16).map fun i => g ++ BitVec.ofNat 4 i
/-- Leases that are active in a grove (R381). -/
def State.activeLeases (s : State) (g : GroveNum) : Nat :=
  ((coresOf g).filter fun c => (s.core c).busy && (s.core c).ctx.lease.held && !(s.core c).ctx.lease.suspended).length

/-- Make the leases that were suspended first active again while the grove has room (R381). -/
def State.regrant (s : State) (g : GroveNum) : State :=
  (s.grove g).suspended.foldl (fun s c =>
    if s.activeLeases g < (s.grove g).leaseMax then
      (s.onCore c fun k => { k with ctx := { k.ctx with lease := { k.ctx.lease with suspended := false } } }).onGrove g
        fun x => { x with suspended := x.suspended.filter (· ≠ c) }
    else s) s

/-- End the lease that the context of a core holds, with record 0x24 and its code (R381, R388). -/
def State.endLease (s : State) (c : CoreNum) (code : Nat) : State :=
  let x := (s.core c).ctx
  let g := groveOf c
  if x.lease.held then
    let old := s.granted c
    let s := s.onCore c fun k => { k with ctx := { k.ctx with
      lease := { k.ctx.lease with held := false, suspended := false, remain := 0, level := 0 } } }
    let s := (s.onGrove g fun y => { y with suspended := y.suspended.filter (· ≠ c) }).power x.part
      { type := 0x24, code := code, grove := g.toNat, old := old.toNat, new := (s.granted c).toNat, core := c.toNat,
        value := x.lease.remain.toNat, lid := x.lid.toNat }
    s.regrant g
  else s

/-! ## Phasers -/

/-- The handle of a phaser (R359). -/
def Phaser.handle (p : Phaser) : BitVec 32 := p.eng ++ p.idx ++ p.scope ++ p.gen
/-- The live phaser that a handle names (R359). -/
def State.phaser? (s : State) (h : BitVec 32) : Option Phaser := s.phasers.find? fun p => p.handle = h
/-- Change the phaser at an engine's index. -/
def State.onPhaser (s : State) (eng : BitVec 4) (idx : BitVec 12) (f : Phaser → Phaser) : State :=
  { s with phasers := s.phasers.map fun p => if p.eng = eng && p.idx = idx then f p else p }

/-- Whether a mode signals (0 signal-only, 2 both). -/
def modeSignals (m : BitVec 2) : Bool := m = 0 || m = 2
/-- Whether a mode waits (1 wait-only, 2 both). -/
def modeWaits (m : BitVec 2) : Bool := m = 1 || m = 2
/-- Whether phase `p` has completed at a phaser whose open phase is `phase` (R361). -/
def phaseDone (phase p : BitVec 32) : Bool := 1 ≤ (phase - p).toNat && (phase - p).toNat ≤ 0x7FFFFFFF

/-- The condition of R361 on this instance. -/
def Phaser.localReady (p : Phaser) : Bool :=
  p.pending = 0 && p.members.all fun m => !(modeSignals m.mode && m.sph = p.phase)
/-- The condition on every other instance of a fabric-scope phaser (R362). -/
def Phaser.remoteReady (q : Part) (p : Phaser) : Bool :=
  p.scope ≠ 4 ||
  (let g := smGet 0 p.group.toNat q.groups
   g.getLsbD 127 &&
   decide ((g.extractLsb' 16 16).toNat ≤
     (p.remote.filter fun r => (r.2.1 = p.phase && r.2.2) || phaseDone r.2.1 p.phase).length))

/-- The entries of the drain list, by index, that hold (R473). -/
def Trunk.drainEntries (t : Trunk) : List (Nat × BitVec 64 × BitVec 64) := t.drain.filter fun e => e.2.1.getLsbD 63
/-- A drain-list entry as a region. -/
def drainRegion (e0 e1 : BitVec 64) : Region :=
  ⟨e0.extractLsb' 55 3, e0.extractLsb' 58 3, e0.getLsbD 62, e0.getLsbD 61, false, 1, 0,
   (e0.extractLsb' 16 36).toNat * 65536, (e1.extractLsb' 0 24).toNat * 65536, 0, 2⟩

/-- The contents of HBM ranges: listed bytes of units that are refreshed, and the blocks that are marked or read with an
uncorrectable error (R474). -/
def State.capture (s : State) (rs : List (Nat × Nat)) : List Host.Cell × List Nat :=
  let covers (a : Nat) := rs.any fun r => decide (r.1 ≤ a) && decide (a < r.1 + r.2)
  let live (a : Nat) := covers a && !s.trunk.elided a
  (s.mem.bytes.filter fun c => live c.1, s.mem.failing.filter fun b => live (b * 64))

/-- The cut instant (R489): when phase STEP of the group's phaser completes, the armed cut takes the value of the regions. -/
def State.cutInstant (s : State) (p : Phaser) : State :=
  match s.trunk.cut with
  | none => s
  | some r =>
    let g := smGet 0 r.group.toNat (s.part r.part).groups
    if r.armed && g.extractLsb' 64 32 = p.handle && r.part = p.part && r.step = p.phase then
      let rs := (s.trunk.drainEntries.map fun e => drainRegion e.2.1 e.2.2).filter fun x => x.cut && x.part = r.part
      let rs := rs.map fun x => { x with done := x.bytes, status := 0 }
      let c := s.capture (rs.map fun x => (x.base, x.bytes))
      let cut : Cut := ⟨r.part, false, 0, r.group, r.step, rs, c.1, c.2, []⟩
      s.onTrunk fun t => { t with cut := some { r with armed := false, snap := some cut } }
    else s

/-- What a receiver that does not take traffic answers: NOTREADY without MODNUM (R23), DORMANT in dormancy (R471). -/
def State.unready (s : State) : Option State :=
  if !s.trunk.modid.getLsbD 31 then some (s.send (.nack 2 0))
  else if 2 ≤ s.trunk.phase.toNat then some (s.send (.nack 3 (s.trunk.dormctl.setWidth 32)))
  else none
/-- Whether the module can send its part of a fabric exchange, whose other modules the spec names by a group alone (R316): it
has MODNUM (R23), and some fabric port that carries collective traffic, or Ethernet, is there (R307, R319; log 105). -/
def Trunk.exchanges (t : Trunk) : Bool :=
  t.modid.getLsbD 31 && (t.fabricUp true || t.routes.any fun e => e.2.getLsbD 127 && e.2.getLsbD 126)
/-- A fabric-scope instance tells its peers when it becomes ready for its open phase while its group's entry is valid, and when
it is so no longer (R362). -/
def State.announcePhase (s : State) (p : Phaser) : State :=
  let ready := p.localReady && (smGet 0 p.group.toNat (s.part p.part).groups).getLsbD 127
  if p.scope = 4 && ready != p.announced && s.trunk.exchanges then
    (s.onPhaser p.eng p.idx fun p => { p with announced := ready }).send (.announce p.handle p.phase ready)
  else s
/-- Complete the open phase of a phaser if R361, and R362 for fabric scope, hold; a fabric-scope instance tells its peers how
it stands. -/
def State.tryPhase (s : State) (eng : BitVec 4) (idx : BitVec 12) : State :=
  match s.phasers.find? (fun p => p.eng = eng && p.idx = idx) with
  | none => s
  | some p =>
    let s := s.announcePhase p
    if p.localReady && p.remoteReady (s.part p.part) then
      (s.onPhaser eng idx fun p => { p with phase := p.phase + 1, announced := false }).cutInstant p
    else s

/-- Complete a phase at the point of the engine's order at which its condition first holds: right after the operation that
makes it hold (R361). A phaser with no signalling member completes one phase there and further ones by PHASE_COMPLETE: the
spec leaves their rate open (log 14). -/
def State.settle (s : State) (eng : BitVec 4) (idx : BitVec 12) : State := s.tryPhase eng idx
/-- A group's entry has changed: the instances of its fabric-scope phasers tell their peers, and may complete (R362). -/
def State.settleGroup (s : State) (p : PartNum) (g : Nat) : State :=
  (s.phasers.filter fun x => x.part = p && x.scope = 4 && x.group.toNat == g).foldl (fun s x => s.tryPhase x.eng x.idx) s

/-- Free a phaser with no member and PENDING 0 (R365, R366). -/
def State.sweepPhasers (s : State) : State :=
  { s with phasers := s.phasers.filter fun p => !(p.members.isEmpty && p.pending = 0) }

/-- End a task's membership of a phaser (R366). -/
def State.dropMember (s : State) (t : TaskId) (eng : BitVec 4) (idx : BitVec 12) : State :=
  ((s.onPhaser eng idx fun p =>
    { p with members := p.members.filter fun m => !(m.lid = t.lid && m.sidx = t.sidx) }).settle eng idx).sweepPhasers

/-- End every membership of a task (R371). -/
def State.dropAll (s : State) (t : TaskId) : State :=
  (s.phasers.filter fun p => p.part = t.part && p.members.any fun m => m.lid = t.lid && m.sidx = t.sidx).foldl
    (fun s p => s.dropMember t p.eng p.idx) s

/-! ## Reports and the end of launches -/

/-- Send a launch-report message on the path of its target (R345, R319); without one it is dropped. -/
def State.sendReport (s : State) (m : BitVec 18) (msg : List Byte) : State :=
  match s.path m true with
  | some p => s.send (.report p m msg)
  | none => s
/-- The record of a residency report at a time (R349). -/
def Launch.reportRec (l : Launch) (type code : Nat) (t : BitVec 64) : List Byte :=
  let sender := match l.route with
    | .message m => 0x80000000 + m.toNat
    | _ => 0
  let q := match l.route with
    | .launch => 0x80
    | _ => l.queue.toNat
  let red := (l.kern.levels.zipIdx.map fun x => if x.1.red then 2 ^ x.2 else 0).sum
  let refused := type = 0x11
  leBytes 1 type ++ leBytes 1 code ++ leBytes 1 l.part.toNat ++ leBytes 1 q ++ leBytes 4 l.lid.toNat ++
    leBytes 4 (if refused then 0 else l.total) ++ leBytes 2 l.groves.toNat ++ leBytes 1 red ++ leBytes 1 l.prio.toNat ++
    leBytes 4 (if type = 0x10 then l.frames else 0) ++ leBytes 4 sender ++ leBytes 8 t.toNat
/-- The launch-report message of a record of a launch that came by message (R345). -/
def State.reportTo (s : State) (m : BitVec 18) (part : BitVec 8) (queue : BitVec 4) (rec_ : List Byte) : State :=
  s.sendReport m (leBytes 4 m.toNat ++ leBytes 1 part.toNat ++ leBytes 1 queue.toNat ++ leBytes 2 0 ++
    leBytes 4 s.modnum.toNat ++ leBytes 4 0 ++ rec_)
/-- A residency report (R349): to the partition's event queue, and to the sender of a launch that came by message (R344). -/
def State.report (s : State) (l : Launch) (type code : Nat) : State :=
  let (t, s) := s.stamp
  let rec_ := l.reportRec type code t
  let s := s.enqueue l.part rec_ t
  match l.route with
  | .message m => s.reportTo m (l.part.setWidth 8) l.queue rec_
  | _ => s

/-- Zero a range of HBM (R411, R412): bytes, marks and errors. -/
def Mem.zero (m : Mem) (lo n : Nat) : Mem :=
  { m with
    bytes := smClear lo n m.bytes
    check := smClear (lo / 64) (n / 64) m.check }

/-- The bytes of a range no longer stand in the undo log (R459): another agent wrote them. -/
def State.forgetUndo (s : State) (lo n : Nat) : State :=
  { s with undo := s.undo.filter fun u => !(decide (lo / 64 ≤ u.block) && decide (u.block < (lo + n) / 64)) }
/-- Zero a range of HBM: a write, which clears the elision bits it meets (R351, R456). -/
def State.zeroRange (s : State) (lo n : Nat) : State :=
  let s := if n = 0 then s else
    (List.range ((lo + n - 1) / 0x1000000 - lo / 0x1000000 + 1)).foldl (fun s i => s.unelide (lo + i * 0x1000000)) s
  (s.onMem fun m => m.zero lo n).forgetUndo lo n
/-- Clear an owner range and zero its memory (R412, R419). -/
def State.clearRange (s : State) (p : PartNum) (i : Fin 16) : State :=
  match (s.part p).ranges[i] with
  | none => s
  | some r => ((s.onMem fun m => m.zero r.base.toNat (r.units.toNat * 65536)).forgetUndo r.base.toNat
      (r.units.toNat * 65536)).onPart p fun q =>
      { q with ranges := q.ranges.set i none }

/-- Clear the key slots and owner ranges that name a launch (R419). -/
def State.clearKeys (s : State) (p : PartNum) (which : BitVec 32 → Bool) : State :=
  let s := s.onPart p fun q => { q with keys := Vector.ofFn fun i => match q.keys[i] with
    | some k => if which k.lid then none else some k
    | none => none }
  (List.range 16).foldl (fun s n =>
    let i := fin4 (BitVec.ofNat 4 n)
    match (s.part p).ranges[i] with
    | some r => if which r.lid then s.clearRange p i else s
    | none => s) s

/-- A launch ends (R349): its bindings are cleared, frames return, dependents are satisfied, the ended report is written,
its key slots and owner ranges are cleared, its must-drain units leave mustsum (R473). -/
def State.launchEnd (s : State) (p : PartNum) (lid : BitVec 32) (code : Nat) : State :=
  match s.launch? p lid with
  | none => s
  | some l =>
    let s := s.onPart p fun q => { q with
      bind := l.bindings.foldl (fun b i =>
        let e := smGet (0, 0, 0) i b
        smSet (0, 0, 0) i (e.1 &&& ~~~(1#64 <<< 63), e.2.1, e.2.2) b) q.bind
      queues := Vector.ofFn fun i => q.queues[i].map fun k => { k with deps := k.deps.filter (· ≠ lid) } }
    let s := { s with
      launches := s.launches.filter fun x => !(x.part = p && x.lid = lid)
      trunk := { s.trunk with mustsum := s.trunk.mustsum - BitVec.ofNat 24 l.mustUnits } }
    (s.report l 0x12 code).clearKeys p (· = lid)

/-- A task of a launch has ended: its frame is free again, and the launch ends with its last task (R349, R358). -/
def State.taskEnded (s : State) (t : TaskId) (lost : Bool) : State :=
  let frame := (s.tasks.find? fun x => x.part = t.part && x.lid = t.lid && x.sidx = t.sidx).map (·.frame)
  let other {α : Type} (f : α → PartNum × BitVec 32 × Nat) (x : α) : Bool := f x ≠ (t.part, t.lid, t.sidx)
  let s := { s with
    tasks := s.tasks.filter (other fun x => (x.part, x.lid, x.sidx))
    checkpoints := s.checkpoints.filter (other fun x => (x.part, x.lid, x.sidx))
    undo := s.undo.filter (other fun x => (x.part, x.lid, x.sidx)) }
  let s := s.onLaunch t.part t.lid fun l => { l with
    open_ := l.open_ - 1
    freeFrames := match frame with | some f => l.freeFrames ++ [f] | none => l.freeFrames
    taskLost := l.taskLost || lost }
  match s.launch? t.part t.lid with
  | some l =>
    if l.open_ = 0 then s.launchEnd t.part t.lid (match l.killed with | some c => c | none => if l.taskLost then 0x21 else 0) else s
  | none => s

/-- What the registers of a context hold once its task has left the core (R371, R424): results in flight are discarded. -/
def Ctx.left (c : Ctx) : Ctx :=
  { Ctx.zero with
    task := { c.task with redirects := [], taken := none, landing := [], board := [], issue := none, resume := 0, leave := 0 }
    vec := c.vec, mat := c.mat, h := c.h, csr := c.csr }
/-- A core's context leaves it: the core is idle (R352); what its scratchpad and registers hold stays until the next task
(R412, R424). -/
def Core.free (k : Core) : Core :=
  { k with busy := false, ctx := k.ctx.left, const := [], constMark := [], expired := none, macros := [], granted := false,
           saving := false }

/-- End the task on a core: memberships dropped, lease returned (R371), no waiting, landing results, queue entries and maps
discarded with the context. -/
def State.endTask (s : State) (c : CoreNum) (lost : Bool) : State :=
  let x := (s.core c).ctx
  if x.boot then s.onCore c Core.free
  else (((s.endLease c 3).dropAll x.id).onCore c Core.free).taskEnded x.id lost

/-- Record 0x3B and the end of a lost task (R429, R430, R434, R201); a boot context's goes to Glidin only (R506). -/
def State.loseTask (s : State) (c : CoreNum) (code causes : Nat) : State :=
  let x := (s.core c).ctx
  let r : ErrRec := { type := 0x3B, code, site := (dieOf c).toNat, lid := x.lid.toNat, addr := x.csr.tpc.toNat,
                      sidx := x.sidx, value := causes }
  (s.errRecord (if x.boot then none else some x.part) r).endTask c true

/-- The record of a saved lease that is returned with code 3 (R371, R440). -/
def State.savedLease (s : State) (x : Task) : State :=
  let r : PowerRec := { type := 0x24, code := 3, grove := (groveOf x.home).toNat, core := x.home.toNat,
                        value := x.ctx.lease.remain.toNat, lid := x.lid.toNat }
  if x.ctx.lease.held then s.power x.part r else s

/-- End a saved task in the same way. -/
def State.endSaved (s : State) (t : TaskId) (lost : Bool) : State :=
  match s.tasks.find? fun x => x.part = t.part && x.lid = t.lid && x.sidx = t.sidx with
  | none => s
  | some x => ((s.savedLease x).dropAll t).taskEnded t lost

/-- Whether the context on a core belongs to a launch that was killed: it ends at its next bundle boundary (R358). -/
def State.dying (s : State) (c : CoreNum) : Bool :=
  let x := (s.core c).ctx
  (s.core c).busy && !x.boot && (s.launch? x.part x.lid).any (·.killed.isSome)
/-- Whether a core's context stands between the slots of a bundle, of which some have committed. -/
def Core.midBundle (k : Core) : Bool :=
  match k.ctx.thr.issue with
  | some i => i.slot ≠ 0
  | none => k.ctx.thr.resume ≠ 0
/-- End a killed context if it has reached a bundle boundary (R358). -/
def State.reap (s : State) (c : CoreNum) : State :=
  if s.dying c && !(s.core c).midBundle then s.endTask c false else s
/-- End every task of a launch and the launch itself with a code (R358): tasks that do not run and those at a bundle boundary
end at once, the others at the end of their bundle, and the launch with its last task. -/
def State.killLaunch (s : State) (p : PartNum) (lid : BitVec 32) (code : Nat) : State :=
  let running := (s.cores.filter fun e => e.2.busy && e.2.ctx.part = p && e.2.ctx.lid = lid && !e.2.ctx.boot).map
    fun e => BitVec.ofNat 8 e.1
  let late := running.filter fun c => (s.core c).midBundle && !(s.core c).saving
  let s := s.onLaunch p lid fun l => { l with killed := some (l.killed.getD code), nextTask := l.total, skipped := [] }
  let s := (running.filter fun c => !late.contains c).foldl (fun s c =>
    let x := (s.core c).ctx
    let s := ((s.endLease c 3).dropAll x.id).onCore c Core.free
    { s with tasks := s.tasks.filter fun t => !(t.part = p && t.lid = lid && t.sidx = x.sidx) }) s
  let runs (t : Task) : Bool := late.any fun c => (s.core c).ctx.id = ⟨t.part, t.lid, t.sidx⟩
  let s := (s.tasks.filter fun t => t.part = p && t.lid = lid && !runs t).foldl (fun s t =>
    (s.savedLease t).dropAll ⟨p, lid, t.sidx⟩) s
  let s := { s with tasks := s.tasks.filter fun t => !(t.part = p && t.lid = lid) || runs t }
  let keep {α : Type} (f : α → PartNum × BitVec 32) (x : α) : Bool := f x ≠ (p, lid)
  if late.isEmpty then
    { s with
      checkpoints := s.checkpoints.filter (keep fun x => (x.part, x.lid))
      undo := s.undo.filter (keep fun x => (x.part, x.lid)) }.launchEnd p lid code
  else s.onLaunch p lid fun l => { l with open_ := late.length }

end Sys2Proof.Machine
end

