-- ==== Sys2Proof/Machine/Units.lean ====
section
/-!
DEFINITION. The accesses of asynchronous queues by space (R294, R295, R298) and the collectives that a QCOLL head takes part in
(R302-R304, R472), the state of a head entry. A unit is performed whole by one step.
-/

namespace Sys2Proof.Machine

/-! ## Addresses of a context's agents -/

/-- The task of the context as an agent, whatever program runs (R207). -/
def Ctx.taskAgent (c : Ctx) : Agent := ⟨c.part, some c.lid, false, true, c.boot, false, true⟩
/-- Whether a grove is up: it runs, or its die is shed and answers dormant-retry for its scratchpads (R204, R486, log 110). -/
def State.groveUp (s : State) (g : GroveNum) : Bool :=
  s.groveRuns g || (s.trunk.shedOrder.contains (g.extractLsb' 2 2) && s.trunk.groveok.getLsbD g.toNat)
/-- Whether a context's remote accesses reach a core (R204, R506). -/
def State.reaches (s : State) (x : Ctx) (c : CoreNum) : Bool :=
  s.groveUp (groveOf c) &&
  (if x.boot then dieOf c = dieOf s.cur else s.grovePart (groveOf c) = some x.part)
/-- The core and offset of a remote-scratchpad address, or none where R204 makes it an address fault. -/
def State.remoteOf (s : State) (v : BitVec 64) : Option (CoreNum × Nat) :=
  let c := v.extractLsb' 24 8
  let off := (v.extractLsb' 0 21).toNat
  if v.extractLsb' 32 32 = 0 && v.extractLsb' 21 3 = 0 && off < 0x180000 && s.reaches s.ctx c then some (c, off) else none
/-- A write that the undo log cannot restore (R460): to another module, or to the pool past the caches. -/
def externalWrite (xs : List (Xlat × Nat)) : Bool :=
  xs.any fun x => x.1.remote.isSome || (target x.1.pa = .pool && !x.1.cached)
/-- Mark the interval of the running context irrevocable (R460). -/
def State.irrevocable (s : State) : State := s.onCtx fun c => { c with irrevocable := true }
/-- Change a queue of the context whose turn it is. -/
def State.onQueue (s : State) (i : Fin 16) (f : Queue → Queue) : State :=
  s.onCtx fun c => { c with queues := c.queues.set i (f c.queues[i]) }

/-! ## Tile images (R172) -/

/-- A poison element of a tile format: its side bit with the value that R172 shows. -/
def TileFmt.bad (f : TileFmt) : Elem :=
  ⟨match f with
    | .fp32 => 0x7FE00000
    | .bf16 => 0x7FE0
    | .fp16 => 0x7F00
    | _ => 0, false, true⟩
/-- The bytes of an element in a tile's image. -/
def TileFmt.bytes : TileFmt → Nat
  | .fp32 | .int32 => 4
  | .bf16 | .fp16 => 2
  | .fx96 => 16
/-- The bytes of a tile's image. -/
def TileFmt.imageBytes (f : TileFmt) : Nat := 4096 * f.bytes
/-- An element's image: N and W in bytes 13:0 of FX96, the NaN bit in bit 0 of byte 14. -/
def TileFmt.image (f : TileFmt) (e : Elem) : List Byte :=
  if f = .fx96 then leBytes 14 e.bits.toNat ++ [if e.nan then 1 else 0, 0] else leBytes f.bytes e.bits.toNat
/-- The clean element that an image gives. -/
def TileFmt.ofImage (f : TileFmt) (l : List Byte) : Elem :=
  if f = .fx96 then ⟨BitVec.ofNat 112 (leNat (l.take 14)), ((l[14]?).getD 0).getLsbD 0, false⟩
  else ⟨BitVec.ofNat 112 (leNat (l.take f.bytes)), false, false⟩
/-- The poison pattern of a tile format, if it has one (R99). -/
def TileFmt.poisonCode (f : TileFmt) : Option (BitVec 112) :=
  match f with
  | .fp32 => some 0x7FE00000
  | .bf16 => some 0x7FE0
  | .fp16 => some 0x7F00
  | _ => none
/-- Whether an element is poison: its side bit is set, or it bears a poison NaN of its format, of either sign (R172, R99). -/
def TileFmt.elemBad (f : TileFmt) (e : Elem) : Bool :=
  e.side || (match f.poisonCode with
    | some c => e.bits &&& c = c
    | none => false)
/-- A byte of a tile's image with whether its element is poison. -/
def Tile.byte (t : Tile) (i : Nat) : Byte × Bool :=
  let e := smGet Elem.zero (i / t.fmt.bytes) t.elems
  (((t.fmt.image e)[i % t.fmt.bytes]?).getD 0, t.fmt.elemBad e)
/-- A queue's write of an element: the bytes of the image that it covers. The element is poison when one of its bytes is, among
those written now and those that the entry wrote before, at the offsets of `bad` (R295). -/
def Tile.putElem (t : Tile) (off : Nat) (data : List (Byte × Bool)) (bad : List Nat) (k : Nat) : Tile :=
  let z := t.fmt.bytes
  let new (j : Nat) : Option (Byte × Bool) := if off ≤ k * z + j then data[k * z + j - off]? else none
  let old := t.fmt.image (smGet Elem.zero k t.elems)
  let img := (List.range z).map fun j => match new j with | some b => b.1 | none => (old[j]?).getD 0
  let poison (j : Nat) : Bool := match new j with | some b => b.2 | none => bad.contains (k * z + j)
  let e := if (List.range z).any poison then t.fmt.bad else t.fmt.ofImage img
  { t with elems := smSet Elem.zero k e t.elems }
/-- A queue's write to a tile. -/
def Tile.write (t : Tile) (off : Nat) (data : List (Byte × Bool)) (bad : List Nat) : Tile :=
  if data.isEmpty then t else
  let lo := off / t.fmt.bytes
  (List.range ((off + data.length - 1) / t.fmt.bytes - lo + 1)).foldl (fun t i => t.putElem off data bad (lo + i)) t
/-- The offsets of poison bytes among those that an entry wrote to a tile's image. -/
def badOffsets (bad : List Nat) (off : Nat) (data : List (Byte × Bool)) : List Nat :=
  data.zipIdx.foldl (fun l p => if p.1.2 then setIns (off + p.2) l else setDel (off + p.2) l) bad
/-- The tile that an aperture address names. -/
def apertureTile (a : BitVec 64) : Fin 8 := fin3 (a.extractLsb' 16 3)
/-- The byte offset of an aperture address. -/
def apertureOff (a : BitVec 64) : Nat := (a.extractLsb' 0 16).toNat

/-! ## Reading and writing by space -/

/-- How an access of a unit ends other than well: held until its page is present (R290), or with a halting status (R289). -/
inductive UStop where
  | held
  | fail (status : BitVec 4)
  deriving DecidableEq, Repr

/-- What stops an access, as it stops a queue's unit. -/
def Stop.unit : Stop → UStop
  | .trap c _ => if c = 0x09 then .fail 4 else if c = 0x0B then .fail 5 else .fail 3
  | _ => .held

/-- Read a scratchpad, each byte with whether its block is bad. -/
def State.spadMarked (s : State) (c : CoreNum) (a n : Nat) : List (Byte × Bool) × State :=
  let k := s.core c
  let (l, _, s) := s.readSpad c a n
  (l.zipIdx.map fun p => (p.1, k.spadBad (a + p.2) 1), s)
/-- Cut bytes at 64-byte boundaries of their addresses. -/
def markedBlocks : Nat → Nat → List (Byte × Bool) → List (Nat × List (Byte × Bool))
  | 0, _, _ => []
  | f + 1, a, l =>
    if l.isEmpty then [] else
    let k := 64 - a % 64
    (a, l.take k) :: markedBlocks f (a + k) (l.drop k)
/-- Write a scratchpad block by block; neither a fill nor a dirty mark follows (R211). -/
def State.putMarked (s : State) (c : CoreNum) (a : Nat) (l : List (Byte × Bool)) : State :=
  (markedBlocks l.length a l).foldl (fun s p => s.writeSpad c p.1 (p.2.map (·.1)) (p.2.any (·.2))) s

/-- Whether some piece's home is a shed die, which answers dormant-retry (R486). -/
def State.shedPieces (s : State) (xs : List (Xlat × Nat)) : Bool := xs.any fun x => s.siteShed (siteServing x.1)
/-- Whether a core lies on a shed die. -/
def State.shedCore (s : State) (c : CoreNum) : Bool := s.siteShed (some ((dieOf c).setWidth 3))

/-- Read bytes of a space (R294); a shed home holds the unit, and so does a module without a path (R290, R309, R486). `remote` is what another module answers; without it the bytes are free values. -/
def State.spaceRead (s : State) (sp : BitVec 4) (a : BitVec 64) (n : Nat) (remote : List (Byte × Bool) := []) :
    Except UStop (List (Byte × Bool)) × State :=
  match sp.toNat with
  | 0 =>
    if s.ctx.kern.spad < a.toNat + n then (.error (.fail 4), s)
    else let (l, s) := s.spadMarked s.cur a.toNat n; (.ok l, s)
  | 1 =>
    match s.remoteOf a with
    | some (c, off) =>
      if 0x180000 < off + n then (.error (.fail 4), s)
      else if s.shedCore c then (.error .held, s)
      else let (l, s) := s.spadMarked c off n; (.ok l, s)
    | none => (.error (.fail 4), s)
  | 2 =>
    match s.xlateSpan s.ctx.taskAgent .read a n with
    | (.error e, s) => (.error e.unit, s)
    | (.ok xs, s) =>
      if s.shedPieces xs || s.stuck (readsOf xs) then (.error .held, s)
      else if xs.any (fun x => x.1.remote.isSome) && remote.length = n then (.ok remote, s.sendAll (readsOf xs))
      else let (l, s) := s.readMarked s.ctx.part xs; (.ok l, s)
  | _ =>
    let t := s.ctx.mat.d[apertureTile a]
    if a.extractLsb' 19 45 ≠ 0 || decide (t.fmt.imageBytes < apertureOff a + n) then (.error (.fail 4), s)
    else (.ok ((List.range n).map fun i => t.byte (apertureOff a + i)), s)

/-- Write bytes of a space (R294); a shed home holds the unit, and so does a module without a path. A write of no byte does nothing. -/
def State.spaceWrite (s : State) (sp : BitVec 4) (a : BitVec 64) (l : List (Byte × Bool)) (bad : List Nat := []) :
    Except UStop Unit × State :=
  match sp.toNat with
  | 0 =>
    if s.ctx.kern.spad < a.toNat + l.length then (.error (.fail 4), s) else (.ok (), s.putMarked s.cur a.toNat l)
  | 1 =>
    match s.remoteOf a with
    | some (c, off) =>
      if 0x180000 < off + l.length then (.error (.fail 4), s)
      else if s.shedCore c then (.error .held, s)
      else
        let s := s.putMarked c off l
        (.ok (), if c = s.cur then s else s.irrevocable)
    | none => (.error (.fail 4), s)
  | 2 =>
    match s.xlateSpan s.ctx.taskAgent .write a l.length with
    | (.error e, s) => (.error e.unit, s)
    | (.ok xs, s) =>
      if s.shedPieces xs || s.stuck (writesOf false true xs (l.map (·.1))) then (.error .held, s) else
      let s := s.writeMarked (some s.ctx.id) xs l
      (.ok (), if externalWrite xs then s.irrevocable else s)
  | _ =>
    let t := s.ctx.mat.d[apertureTile a]
    if a.extractLsb' 19 45 ≠ 0 || decide (t.fmt.imageBytes < apertureOff a + l.length) then (.error (.fail 4), s)
    else (.ok (), s.onCtx fun c => { c with mat := { c.mat with d := c.mat.d.set (apertureTile a) (t.write (apertureOff a) l bad) } })

/-! ## Collectives -/

/-- OP of a collective. -/
def QEntry.op (e : QEntry) : Nat := (e.blk.arg0.extractLsb' 0 4).toNat
/-- TYPE of a collective. -/
def QEntry.ty (e : QEntry) : Nat := (e.blk.arg0.extractLsb' 4 4).toNat
/-- The bytes of an element of a type (R302). -/
def collBytes (ty : Nat) : Nat := if ty = 1 then 8 else if ty = 2 then 16 else 4
/-- Group number of a QCOLL. -/
def QEntry.group (e : QEntry) : BitVec 10 := e.blk.arg1.setWidth 10
/-- STEP of a QCOLL. -/
def QEntry.stepNum (e : QEntry) : BitVec 32 := e.blk.arg2.setWidth 32
/-- An element with whether it is poison. -/
abbrev CElem := BitVec 128 × Bool

/-- Cut bytes into elements. -/
def collElems (z : Nat) : Nat → List (Byte × Bool) → List CElem
  | 0, _ => []
  | f + 1, l =>
    if l.isEmpty then [] else
    (BitVec.ofNat 128 (leNat ((l.take z).map (·.1))), (l.take z).any (·.2)) :: collElems z f (l.drop z)
/-- The bytes of elements. -/
def collImage (z : Nat) (l : List CElem) : List (Byte × Bool) :=
  l.flatMap fun e => (leBytes z e.1.toNat).map fun b => (b, e.2)
/-- Combine two elements (R302). -/
def collCombine (ty : Nat) (x y : BitVec 128) : BitVec 128 :=
  match ty with
  | 0 => (x.setWidth 32 + y.setWidth 32).setWidth 128
  | 1 => (x.setWidth 64 + y.setWidth 64).setWidth 128
  | 2 => (0 : BitVec 15) ++ (x.extractLsb' 112 1 ||| y.extractLsb' 112 1) ++ (x.setWidth 112 + y.setWidth 112)
  | 3 => if (x.setWidth 32).toInt ≤ (y.setWidth 32).toInt then x else y
  | _ => if (x.setWidth 32).toInt ≤ (y.setWidth 32).toInt then y else x
/-- Combine the contributions element by element; what lacks one, or meets poison, is poison (R303). -/
def collReduce (ty n : Nat) : List (Option (List CElem)) → List CElem
  | [] => List.replicate n (0, false)
  | [some l] => l
  | none :: _ => List.replicate n (0, true)
  | some l :: t =>
    (l.zip (collReduce ty n t)).map fun p => if p.1.2 || p.2.2 then (0, true) else (collCombine ty p.1.1 p.2.1, false)

/-- The contribution of a rank to a step, if it is there. -/
def Part.contrib (q : Part) (g : BitVec 10) (step : BitVec 32) (rank : Nat) : Option (List CElem) :=
  (q.contribs.find? fun c => c.group = g && c.step = step && c.rank.toNat == rank).map (·.elems)
/-- The result that a member receives (R302): whether a contribution lacks, and the elements. -/
def Part.collResult (q : Part) (e : QEntry) (i : CollInfo) : Bool × List CElem :=
  let n := i.nm1.toNat + 1
  let z := collBytes e.ty
  let per := e.blk.len.toNat / z
  let all := (List.range n).map (q.contrib e.group e.stepNum)
  let lack : List CElem := List.replicate per (0, true)
  (all.any (·.isNone),
   match e.op with
   | 0 => collReduce e.ty per all
   | 1 => ((collReduce e.ty per all).drop (i.rank.toNat * (per / n))).take (per / n)
   | 2 => all.flatMap fun c => c.getD lack
   | _ => ((all.head?).join).getD lack)

/-! ## The head entry of a queue -/

/-- Change the head entry of a queue. -/
def State.onHead (s : State) (i : Fin 16) (f : QEntry → QEntry) : State :=
  s.onQueue i fun q => { q with entries := match q.entries with | e :: t => f e :: t | [] => [] }
/-- The head entry ends with a status. -/
def State.endHead (s : State) (i : Fin 16) (status : BitVec 4) : State :=
  s.onHead i fun e => { e with status := status, finished := true }
/-- A unit of the head fails: its lowest address is kept (R289). -/
def State.failHead (s : State) (i : Fin 16) (u : UStop) (addr : BitVec 64) : State :=
  match u with
  | .held => s.onQueue i fun q => { q with held := true }
  | .fail st => (s.onHead i fun e => { e with failAddr := addr.setWidth 56 }).endHead i st

/-- What a key slot holds for the context (R419, R420). -/
def State.keyFor (s : State) (b : Block) : Option (BitVec 256) :=
  match (s.part s.ctx.part).keys[fin4 (b.arg0.setWidth 4)] with
  | some k => if k.lid = s.ctx.lid then some k.key else none
  | none => none
/-- A QDEC or QENC that becomes the head of a queue that is not halted reads its slot's key, once (R420). -/
def State.readKey (s : State) (i : Fin 16) : State :=
  match (s.ctx.queues[i]).entries with
  | e :: _ =>
    if (e.kind = .dec || e.kind = .enc) && !e.keyed && !(s.ctx.queues[i]).halt then
      s.onHead i fun e => { e with keyed := true, key := s.keyFor e.blk }
    else s
  | [] => s

/-- What a QDEC, QENC or QCOLL reads, in order: addresses and lengths in the source space (R300-R302). -/
def QEntry.sources (e : QEntry) : List (BitVec 64 × Nat) :=
  let b := e.blk
  let aad := ((b.arg5.extractLsb' 0 44).setWidth 64, (b.arg5.extractLsb' 44 12).toNat)
  match e.kind with
  | .dec => [(b.src, b.len.toNat), aad, (b.arg4, 16)]
  | .enc => [(b.src, b.len.toNat), aad]
  | .coll => if e.op = 3 && (e.coll.map (·.rank)) != some 0 then [] else [(b.src, b.len.toNat)]
  | _ => []
/-- What it writes, in order: addresses and lengths in the destination space. -/
def QEntry.sinks (e : QEntry) : List (BitVec 64 × Nat) :=
  let b := e.blk
  match e.kind with
  | .dec => [(b.dst, b.len.toNat)]
  | .enc => [(b.dst, b.len.toNat), (b.arg4, 16)]
  | .coll =>
    let n := (e.coll.map fun c => c.nm1.toNat + 1).getD 1
    [(b.dst, if e.op = 1 then b.len.toNat / n else if e.op = 2 then n * b.len.toNat else b.len.toNat)]
  | _ => []
/-- The bytes of a list of ranges. -/
def spanBytes (l : List (BitVec 64 × Nat)) : Nat := (l.map (·.2)).sum
/-- The unit at an offset of a list of ranges: its address and its bytes, up to the next aligned 64-byte block (R296). -/
def spanUnit : List (BitVec 64 × Nat) → Nat → Option (BitVec 64 × Nat)
  | [], _ => none
  | (a, n) :: t, o =>
    if o < n then
      let x := a + BitVec.ofNat 64 o
      some (x, Nat.min (n - o) (64 - x.toNat % 64))
    else spanUnit t (o - n)
/-- Write the next unit of what a QDEC, QENC or QCOLL has to write; after the last one the entry ends with its status. -/
def State.putUnit (s : State) (i : Fin 16) (e : QEntry) (l : List (Byte × Bool)) : State :=
  match spanUnit e.sinks e.resume with
  | none => s.endHead i e.status
  | some (a, n) =>
    match s.spaceWrite e.blk.dspace a ((l.drop e.resume).take n) with
    | (.error f, s) => s.failHead i f a
    | (.ok _, s) =>
      let s := s.onHead i fun e => { e with prog := e.prog + 1, resume := e.resume + n }
      if spanBytes e.sinks ≤ e.resume + n then s.endHead i e.status else s
/-- A QDEC, QENC or QCOLL has all that it writes, and its status when that is written. -/
def State.readyHead (s : State) (i : Fin 16) (l : List (Byte × Bool)) (status : BitVec 4) : State :=
  s.onHead i fun e => { e with out := some l, status := status }

/-- A collective's result is complete, or its group's timeout has come: it is written next (R303), PARTIAL when a contribution
lacks, POISONED when the result holds poison. -/
def State.collFinish (s : State) (i : Fin 16) (e : QEntry) (c : CollInfo) : State :=
  let (lacks, l) := (s.part s.ctx.part).collResult e c
  (s.readyHead i (collImage (collBytes e.ty) l) (if lacks then 8 else if l.any (·.2) then 6 else 0)).onPart s.ctx.part fun q =>
    { q with contribs := q.contribs.filter fun x => !(x.group = e.group && x.step = e.stepNum) }
/-- Write all that is left of a head that has begun to write, as far as it can be written now (R297). -/
def State.putRest : Nat → Fin 16 → State → State
  | 0, _, s => s
  | f + 1, i, s =>
    match (s.ctx.queues[i]).entries with
    | e :: _ =>
      (match e.out with
      | some l => if e.finished || (s.ctx.queues[i]).held then s else State.putRest f i (s.putUnit i e l)
      | none => s)
    | [] => s
/-- A head starts over from offset 0 (R297, R472). -/
def QEntry.restart (e : QEntry) : QEntry := { e with started := false, got := [], out := none, status := 0, prog := 0, resume := 0 }
/-- Withdraw the module's contribution of a collective head: it runs again from the start (R472), unless its result is there. -/
def State.collWithdraw (s : State) (i : Fin 16) (e : QEntry) (c : CollInfo) : State :=
  if e.out.isSome then State.putRest (e.blk.len.toNat + 65536) i s
  else if !((s.part s.ctx.part).collResult e c).1 then State.putRest (e.blk.len.toNat + 65536) i (s.collFinish i e c)
  else (s.onHead i QEntry.restart).onPart s.ctx.part fun q => { q with
    groupStep := smDel e.group.toNat q.groupStep
    contribs := q.contribs.filter fun x => !(x.group = e.group && x.step = e.stepNum && x.rank = c.rank) }
/-- What a save does with a head (R297, R472): a QDEC or QENC that has begun to write is written whole, and otherwise starts over
after the restore; a QCOLL withdraws under dormancy, and else goes on until it ends. -/
def State.queueStop (s : State) (i : Fin 16) : State :=
  match (s.ctx.queues[i]).entries with
  | e :: _ =>
    if e.finished then s
    else
      match e.kind with
      | .dec | .enc => if e.out.isSome && e.resume ≠ 0 then State.putRest 2048 i s else s.onHead i QEntry.restart
      | .coll =>
        (match e.coll with
        | some c => if e.started && s.trunk.phase ≠ 0 then s.collWithdraw i e c else s
        | none => s)
      | _ => s
  | [] => s
/-- The same for every queue of a context. -/
def State.queuesStop (s : State) : State := (List.finRange 16).foldl State.queueStop s
/-- Whether a collective head of the context has not ended (R297). -/
def Ctx.collBusy (c : Ctx) : Bool :=
  (List.finRange 16).any fun i => match (c.queues[i]).entries with
    | e :: _ => e.kind = .coll && !e.finished && !(c.queues[i]).halt
    | [] => false

end Sys2Proof.Machine
end

