-- ==== Sys2Proof/Machine/Frames.lean ====
section
/-!
DEFINITION. The context image that a stop writes into its task's frame (R443-R445): the words of the context registers, the tiles and
what is in flight to them, the areas of the control area, and the writes. Records of R444 whose inner layout the spec does not give
hold free bytes (log 31).
-/

namespace Sys2Proof.Machine

/-! ## Words of context registers -/

/-- tsw (R428). -/
def Ctx.tsw (c : Ctx) : BitVec 64 :=
  c.csr.cause ++ c.csr.sres ++ c.sched ++ BitVec.ofNat 2 c.task.redirects.length ++ (0 : BitVec 50)
/-- segstat (R193). -/
def Csrs.segstat (r : Csrs) : BitVec 64 :=
  r.segnum ++ (0 : BitVec 14) ++ BitVec.ofBool r.suspect ++ BitVec.ofBool r.segOpen ++ r.segCount
/-- leasestat (R382). -/
def Lease.stat (l : Lease) : BitVec 64 :=
  (if l.held then l.remain else 0) ++ (0 : BitVec 24) ++ BitVec.ofBool l.held ++ BitVec.ofBool l.request.isSome ++
    BitVec.ofBool l.suspended ++ (if l.held then l.level else 0) ++ l.refused
/-- mcstat (R286). -/
def Csrs.mcstat (r : Csrs) : BitVec 64 := (0 : BitVec 47) ++ BitVec.ofBool r.mcAny ++ r.mcLast
/-- A handle record's two words (R205). -/
def Handle.words (r : Handle) : BitVec 64 × BitVec 64 :=
  (BitVec.ofBool r.win.isSome ++ (0 : BitVec 7) ++ r.rowsM1 ++ r.rowb ++ (0 : BitVec 11) ++ r.base ++ (0 : BitVec 6),
   (0 : BitVec 6) ++ r.fill ++ r.head ++ r.tail ++ r.cursor)
/-- The lost piece that was issued first, by the number of its write and then by its place (R230, R224). -/
def oldest : List (Nat × BitVec 56) → Option (Nat × BitVec 56)
  | [] => none
  | a :: t => match oldest t with
    | some b => if b.1 < a.1 then some b else some a
    | none => some a
/-- The detail word of the acknowledgement-loss fault (R230): the writes that the fault retires, and the address of the oldest, a
write that was divided being named by the piece that was lost. -/
def ackDetail (lost : List (Nat × BitVec 56)) : BitVec 64 :=
  BitVec.ofNat 8 (Nat.min ((lost.map (·.1)).dedup).length 255) ++ (match oldest lost with | some a => a.2 | none => 0)

/-! ## Tiles and what is in flight to them -/

/-- A tile after a slot D result. -/
def Tile.apply (t : Tile) (v : LVal) : Tile :=
  match v with
  | .tile x => x
  | .tileZero => { t with elems := [] }
  | .tilePart l => { t with elems := l.foldl (fun m p => smSet Elem.zero p.1 p.2 m) t.elems }
  | .tileBad => { t with elems := (List.range 4096).map fun i => (i, t.fmt.bad) }
  | .tileScale x => { t with scale := x }
  | _ => t
/-- Put a result into the order in which the results land. -/
def insLanding (x : Landing) : List Landing → List Landing
  | [] => [x]
  | y :: t => if x.dist < y.dist then x :: y :: t else y :: insLanding x t
/-- The slot D results in flight to a tile, in the order in which they land. -/
def Thread.tileFlight (t : Thread) (n : Fin 8) : List Landing :=
  (t.landing.filter fun l => l.dest = .tile n).foldl (fun a x => insLanding x a) []
/-- The chained value of a tile (R175). -/
def Ctx.chained (c : Ctx) (n : Fin 8) : Tile := (c.task.tileFlight n).foldl (fun t l => t.apply l.val) c.mat.d[n]
/-- The values that a tile's area holds (R445): the chained one where FX96 is concerned, else the visible one and those in flight. -/
def Ctx.tileValues (c : Ctx) (n : Fin 8) : List Tile :=
  let l := (c.task.tileFlight n).foldl (fun (acc : List Tile) x => acc ++ [(acc.getLast?.getD c.mat.d[n]).apply x.val]) [c.mat.d[n]]
  if l.any fun t => t.fmt = .fx96 then [c.chained n] else l
/-- The bytes of one value (R172, R445): its image; with FX96 the side bit in bit 0 of an element's byte 15, else 512 bytes of side
bits from +16,384 on. -/
def Tile.saved (t : Tile) : List (Nat × List Byte) :=
  let img := t.elems.map fun e => (e.1 * t.fmt.bytes,
    if t.fmt = .fx96 then (t.fmt.image e.2).take 15 ++ [if e.2.side then 1 else 0] else t.fmt.image e.2)
  if t.fmt = .fx96 then img
  else img ++ (List.range 512).map fun i => (16384 + i, [BitVec.ofNat 8 ((List.range 8).map fun j =>
    if (smGet Elem.zero (i * 8 + j) t.elems).side then 2 ^ j else 0).sum])

/-! ## The control area (R444) -/

/-- A field of the control area: bytes that the spec lays out, or a number of bytes whose layout it leaves open. -/
inductive Field where
  | bytes (l : List Byte)
  | open_ (n : Nat)

/-- 64-bit registers, one after the other. -/
def Field.words (l : List (BitVec 64)) : Field := .bytes (l.flatMap fun w => leBytes 8 w.toNat)
/-- One number of some bytes. -/
def Field.num (n x : Nat) : Field := .bytes (leBytes n x)
/-- One byte for each tag. -/
def Field.tags (l : List TVal) : Field := .bytes (l.map fun v => v.tag.setWidth 8)
/-- Records of a size whose layout the spec leaves open, as many as an area holds. -/
def Field.records (used size most : Nat) : Field := .open_ (min used most * size)

/-- A pending redirect: its target, its count, and that it is valid. -/
def Redirect.word (r : Redirect) : BitVec 64 := (1 : BitVec 1) ++ (0 : BitVec 9) ++ r.count ++ r.target
/-- Three redirects. -/
def Thread.redirectWords (t : Thread) : List (BitVec 64) := (List.range 3).map fun i => (t.redirects[i]?.map Redirect.word).getD 0
/-- A window descriptor (R207). -/
def WinDesc.image (d : WinDesc) : List Byte :=
  leBytes 8 d.tbase.toNat ++ leBytes 8 d.s0.toNat ++ leBytes 8 d.s1.toNat ++ leBytes 8 d.s2.toNat ++ leBytes 4 d.e0.toNat ++
    leBytes 4 d.e1.toNat ++ leBytes 4 d.e2.toNat ++ leBytes 4 0
/-- A map descriptor (R281). -/
def MapDesc.image (d : MapDesc) : List Byte :=
  leBytes 8 d.vbase.toNat ++ leBytes 8 d.s1.toNat ++ leBytes 8 d.s2.toNat ++ leBytes 4 d.spbase.toNat ++ leBytes 4 d.len.toNat ++
    leBytes 4 d.rowb.toNat ++ leBytes 4 d.e1.toNat ++ leBytes 8 0
/-- A queue whose record is not all zero. -/
def Queue.kept (q : Queue) : Bool := q.halt || q.last ≠ 0 || q.completed ≠ 0 || !q.owed.isEmpty || !q.entries.isEmpty
/-- Landing results by kind. -/
def Ctx.landings (c : Ctx) (p : LVal → Bool) : List Landing := (c.task.landing ++ c.hand.landing).filter fun l => p l.val
/-- The requests that a save leaves outstanding. -/
def Ctx.requests (c : Ctx) (p : PVal → Bool) : Nat := ((c.task.board ++ c.hand.board).filter fun x => p x.val).length
/-- The format latch, with the first pending FMTW and its distance. -/
def Ctx.latchWord (c : Ctx) : BitVec 64 :=
  let pend : BitVec 16 := (c.task.landing.findSome? fun l => match l.val with
    | .latch a b => some (BitVec.ofNat 8 l.dist ++ b ++ a)
    | _ => none).getD 0
  (0 : BitVec 40) ++ pend ++ c.mat.latchB ++ c.mat.latchA
/-- Bytes of a pending BLOAD's image and of its side bits. -/
def Ctx.pendingSlot (c : Ctx) : Option WSlot := c.task.landing.findSome? fun l => match l.val with | .wslot x => some x | _ => none

/-- A vector register's lanes. -/
def VReg.laneBytes (v : VReg) : List Byte := v.lanes.toList.flatMap fun x => leBytes 4 x.toNat
/-- A vector register's side bits and flag. -/
def VReg.flagWords (v : VReg) : List (BitVec 64) := [v.side, if v.spec then 1 else 0]
/-- The scalar files of a program in the order of R444. -/
def Thread.fileFields (t : Thread) : Field × Field :=
  let l := t.a.toList ++ t.b.toList ++ t.m.toList
  (.words (l.map (·.val)), .tags l)
/-- The handler's part, while the handler is active. -/
def Ctx.handFields (c : Ctx) : List (Nat × Field) :=
  let t := c.hand
  let y := t.ya.toList ++ t.yb.toList
  if !c.inHandler then [] else
  [(0x2400, t.fileFields.1), (0x2700, t.fileFields.2), (0x2760, .words (y.map (·.val))), (0x27A0, .tags y),
   (0x27A8, .words ([t.pc.setWidth 64, t.btime] ++ t.redirectWords))]
/-- The maps' part: descriptors, dirty blocks by granule of the scratchpad, states. -/
def Ctx.mapFields (c : Ctx) : List (Nat × Field) :=
  let bound := (List.finRange 16).filterMap fun i => (c.maps[i].desc).map fun d => (0x7000 + 48 * i.val, Field.bytes d.image)
  let dirty := c.maps.toList.flatMap fun m => match m.desc with
    | some d => m.grans.map fun g => (0x7300 + 8 * (d.spbase.toNat / 4096 + g.1), Field.num 8 g.2.dirty.toNat)
    | none => []
  bound ++ dirty ++ (if bound.isEmpty then [] else [(0x7F00, .open_ 96)])
/-- The queues' part. -/
def Ctx.queueFields (c : Ctx) : List (Nat × Field) :=
  (List.finRange 16).flatMap fun i =>
    let q := c.queues[i]
    (if q.kept then [(0x6A00 + 16 * i.val, Field.open_ 16)] else []) ++
      (if q.entries.isEmpty then [] else [(0x8000 + 2048 * i.val, Field.records q.entries.length 64 32)])
/-- The windows' part. -/
def Ctx.windowFields (c : Ctx) : List (Nat × Field) :=
  (List.finRange 16).filterMap fun i => (c.h[i].win).map fun w =>
    (0x6B00 + 64 * i.val, Field.bytes (w.desc.image ++ leBytes 16 w.t))
/-- The matrix engine's part. -/
def Ctx.matrixFields (c : Ctx) : List (Nat × Field) :=
  let tiles := (List.finRange 8).filterMap fun i =>
    if c.mat.d[i].fmt = .fp32 && c.mat.d[i].scale = 0 && (c.task.tileFlight i).isEmpty then none
    else some (0x980 + 16 * i.val, Field.open_ 16)
  let slots := (List.finRange 4).filterMap fun i =>
    if i.val < c.kern.wslots then some (0x6200 + 512 * i.val, Field.num 512 c.mat.w[i].side.toNat) else none
  let pend := match c.pendingSlot with
    | some w => [(0x4000, Field.bytes (readBytes w.image 0 8192)), (0x6000, Field.num 512 w.side.toNat)]
    | none => []
  tiles ++ (if c.kern.wslots = 0 then [] else [(0xA00, .open_ 64)]) ++ slots ++ pend

/-- The control area by offset. -/
def Ctx.controlFields (c : Ctx) (flags : Nat) : List (Nat × Field) :=
  let r := c.csr
  let y := c.task.ya.toList ++ c.task.yb.toList ++ c.task.yd.toList
  let v := c.vec.c.toList ++ c.vec.y.toList
  let sres := if c.inHandler then r.sres else c.task.resume
  let l := c.lease.stat &&& 0xFFFFFFFF000000B8
  [(0x0000, .num 4 0x0E025A7E), (0x0004, .num 4 flags), (0x0008, .num 4 c.lid.toNat), (0x000C, .num 4 c.sidx),
   (0x0010, .words [c.task.pc.setWidth 64, c.task.btime, { c with csr := { r with sres := sres } }.tsw, r.tpc.setWidth 64, r.tdet]),
   (0x0038, .words c.task.redirectWords), (0x0050, .num 4 r.srseed.toNat), (0x0054, .num 4 r.srstate.toNat),
   (0x0058, .words [r.arflags.setWidth 64, r.mcstat, r.phqres, c.lease.stat, r.segstat, r.segCrc.setWidth 64]),
   (0x0088, .num 8 c.walk.basep), (0x0090, .words [c.latchWord, ackDetail c.lost, r.regsel, l]),
   (0x00C8, .words [BitVec.ofNat 32 c.walk.p ++ (0 : BitVec 29) ++ BitVec.ofBool c.walk.proDone ++ c.walk.run]),
   (0x0100, .num 512 c.walk.map.toNat), (0x0300, c.task.fileFields.1), (0x0600, c.task.fileFields.2),
   (0x0660, .words (y.map (·.val))), (0x06C0, .tags y),
   (0x0700, .words (c.h.toList.flatMap fun h => [h.words.1, h.words.2])), (0x0800, .words c.vec.k.toList),
   (0x0840, .words (v.flatMap VReg.flagWords)), (0x1000, .bytes (v.flatMap VReg.laneBytes)),
   (0x0A40, .records (c.requests fun | .ring .. | .vring .. => true | _ => false) 8 16),
   (0x0B00, .records (c.landings fun | .scalar _ => true | _ => false).length 16 80),
   (0x00B0, .records (c.requests fun | .long .. => true | _ => false) 24 1),
   (0x2800, .records (c.requests fun | .ring .. | .vring .. | .long .. => false | _ => true) 64 32),
   (0x3000, .records (c.landings fun | .vec .. | .mask _ => true | _ => false).length 272 12)] ++
  c.handFields ++ c.matrixFields ++ c.queueFields ++ c.windowFields ++ c.mapFields

/-! ## Writing an image -/

/-- A field's bytes at an offset; those that are open are free values of a moment. -/
def Field.at (f : Field) (moment off : Nat) : List Byte :=
  match f with
  | .bytes l => l
  | .open_ n => (List.range n).map fun i => Config.imageByte moment (off + i)
/-- The blocks of a saved scratchpad that hold something, with whether they are poison. -/
def spadBlocks (spad : SMap Byte) (mark : List Nat) (size : Nat) : List (Nat × List Byte × Bool) :=
  let l := spad.foldl (fun acc e => setIns (blockOf e.1) acc) mark
  (l.filter fun b => b * 64 < size).map fun b => (b * 64, readBytes spad (b * 64) 64, mark.contains b)
/-- The pieces of an image by frame offset (R443): the control area, the scratchpad, the tiles, the weight slots. -/
def Ctx.pieces (c : Ctx) (flags moment : Nat) (spad : SMap Byte) (mark : List Nat) : List (Nat × List Byte × Bool) :=
  let n := 0x10000 + c.kern.spad
  let control := (c.controlFields flags).map fun f => (f.1, f.2.at moment f.1, false)
  let local_ := (spadBlocks spad mark c.kern.spad).map fun b => (0x10000 + b.1, b.2)
  let tiles := (List.finRange 8).flatMap fun i =>
    if c.kern.tiles ≤ i.val then [] else
    (c.tileValues i).zipIdx.flatMap fun x => x.1.saved.map fun p => (n + 0x10000 * i.val + 16896 * x.2 + p.1, p.2, false)
  let slots := (List.finRange 4).flatMap fun i =>
    if c.kern.wslots ≤ i.val then [] else
    (c.mat.w[i].image).map fun e => (n + 0x10000 * c.kern.tiles + 8192 * i.val + e.1, [e.2], false)
  control ++ local_ ++ tiles ++ slots
/-- Write an image into a frame of `n` bytes: the frame holds it and zeros. -/
def State.writeImage (s : State) (lo n : Nat) (c : Ctx) (flags : Nat) (spad : SMap Byte) (mark : List Nat) : State :=
  let (k, s) := s.fresh
  ((c.pieces flags k spad mark).filter fun p => p.1 + p.2.1.length ≤ n).foldl
    (fun s p => s.writePhys none (lo + p.1) p.2.1 p.2.2) (s.zeroRange lo n)
/-- FLAGS of an image (R444). -/
def imageFlags (hand page dormant : Bool) : Nat := hand.toNat + 2 * page.toNat + 4 * dormant.toNat

end Sys2Proof.Machine
end

