-- ==== Sys2Proof/Machine/Ops.lean ====
section
/-!
DEFINITION. The shared operations of execution: register reads (R32), the landing buffer and its results' visibility (R33,
R40, R41, R120), scoreboarded results (R42), the end of a slot and of a bundle (R66, R135), stops (R437, R438), taking a trap
and returning from one (R429, R434), ordering points (R229, R230).
-/

namespace Sys2Proof.Machine

/-! ## Reading registers -/

/-- What port `k` read for the bundle in issue (R35). -/
def Thread.port (t : Thread) (k : Nat) : TVal :=
  match t.issue with
  | some i => ((i.ports[k]?).map (·.2)).getD .zero
  | none => .zero

/-- A slot A source (R121). -/
def Thread.readA (t : Thread) (r : Reg) : TVal :=
  if r.toNat < 16 then t.a[regIx r] else if r.toNat < 20 then t.ya[yIx r] else .zero
/-- A slot B source (R258). -/
def Thread.readB (t : Thread) (r : Reg) : TVal :=
  if r.toNat < 16 then t.b[regIx r] else if r.toNat < 20 then t.yb[yIx r]
  else if r.toNat < 23 then t.port (r.toNat - 20) else .zero
/-- A slot D scalar source: y0-y3, a port or zero (R77). -/
def Thread.readD (t : Thread) (r : Reg) : TVal :=
  if r.toNat < 16 then .zero else if r.toNat < 20 then t.yd[yIx r]
  else if r.toNat < 23 then t.port (r.toNat - 20) else .zero
/-- A slot C vector source (R144). -/
def VecFile.read (f : VecFile) (r : Reg) : VReg :=
  if r.toNat < 16 then f.c[regIx r] else if r.toNat < 20 then f.y[yIx r] else .zero
/-- A lane mask by number. -/
def VecFile.mask (f : VecFile) (r : BitVec 3) : BitVec 64 := f.k[fin3 r]
/-- The lanes that a governing mask makes active; 0 makes all (R56). -/
def VecFile.active (f : VecFile) (k : BitVec 3) : BitVec 64 := if k = 0 then BitVec.allOnes 64 else f.mask k

/-- The tag is deferred (R48). -/
def TVal.deferred (v : TVal) : Bool := v.tag = 1
/-- The tag is poison or never produced (R48). -/
def TVal.poison (v : TVal) : Bool := v.tag = 2 || v.tag = 3
/-- A clean value. -/
def TVal.clean (v : BitVec 64) : TVal := ⟨v, 0⟩
/-- An integer poison result (R122). -/
def TVal.bad : TVal := ⟨0, 2⟩

/-! ## The landing buffer -/

/-- Shift a new result into a last-result file (R33). -/
def pushY {α : Type} (y : Vector α 4) (v : α) : Vector α 4 :=
  Vector.ofFn fun i => if i = 0 then v else y[i.val - 1]

/-- Where a slot A result goes (R32). -/
def destA (r : Reg) : LDest := if r.toNat < 16 then .a (regIx r) else if r = 16 then .aLast else .discard
/-- Where a slot B fixed-latency result goes. -/
def destB (r : Reg) : LDest := if r.toNat < 16 then .b (regIx r) else if r = 16 then .bLast else .discard
/-- Where a slot C fixed-latency vector result goes. -/
def destC (r : Reg) : LDest := if r.toNat < 16 then .c (regIx r) else if r = 16 then .cLast else .discard
/-- Where a slot D scalar result goes (R77). -/
def destD (r : Reg) : LDest := if r = 16 then .dLast else .discard

/-- Put a result into the landing buffer with its exposed latency (R40). -/
def Thread.land (t : Thread) (dist : Nat) (dest : LDest) (val : LVal) (flags : BitVec 7 := 0) (matrix : Bool := false) :
    Thread :=
  { t with landing := t.landing ++ [⟨dist, dest, val, flags, matrix⟩] }
/-- The same on the program that runs. -/
def State.land (s : State) (dist : Nat) (dest : LDest) (val : LVal) (flags : BitVec 7 := 0) (matrix : Bool := false) :
    State :=
  s.onThr fun t => t.land dist dest val flags matrix

/-- A result becomes visible (R33, R40). -/
def Thread.reveal (t : Thread) (d : LDest) (v : LVal) : Thread :=
  match d, v with
  | .a r, .scalar x => { t with a := t.a.set r x, ya := pushY t.ya x }
  | .aLast, .scalar x => { t with ya := pushY t.ya x }
  | .aQuiet r, .scalar x => { t with a := t.a.set r x }
  | .b r, .scalar x => { t with b := t.b.set r x, yb := pushY t.yb x }
  | .bLast, .scalar x => { t with yb := pushY t.yb x }
  | .dLast, .scalar x => { t with yd := pushY t.yd x }
  | .m n, .scalar x => { t with m := t.m.set n x }
  | _, _ => t
/-- A register with the lanes of a mask replaced: the others keep value and side bit, the flag is the new one (R143). -/
def VReg.merge (old new : VReg) (lanes : BitVec 64) : VReg where
  lanes := Vector.ofFn fun i => if lanes.getLsbD i.val then new.lanes[i] else old.lanes[i]
  side := (old.side &&& ~~~lanes) ||| (new.side &&& lanes)
  spec := new.spec
/-- A vector or mask result becomes visible; a last-result entry holds every lane (R144). -/
def VecFile.reveal (f : VecFile) (d : LDest) (v : LVal) : VecFile :=
  match d, v with
  | .c r, .vec x m => let n := (f.c[r]).merge x m
    { f with c := f.c.set r n, y := pushY f.y n }
  | .cLast, .vec x m => { f with y := pushY f.y (VReg.zero.merge x m) }
  | .k r, .mask x => { f with k := f.k.set r x }
  | _, _ => f
/-- A tile, weight or latch result becomes visible. -/
def MatFile.reveal (f : MatFile) (d : LDest) (v : LVal) : MatFile :=
  match d, v with
  | .tile t, v => { f with d := f.d.set t (f.d[t].apply v) }
  | .wslot w, .wslot x => { f with w := f.w.set w x }
  | .latch, .latch a b => { f with latchA := a, latchB := b }
  | _, _ => f
/-- A landing result becomes visible and raises its flags (R120); a handler's flags are recorded nowhere (R430). -/
def Ctx.reveal (c : Ctx) (l : Landing) : Ctx :=
  let c := { c.onThr fun t => t.reveal l.dest l.val with vec := c.vec.reveal l.dest l.val, mat := c.mat.reveal l.dest l.val }
  if c.inHandler then c
  else { c with csr := { c.csr with arflags := c.csr.arflags ||| l.flags, fresh := c.csr.fresh ||| l.flags } }
/-- Whether a destination is the walker's. -/
def LDest.walker : LDest → Bool
  | .aQuiet _ => true
  | _ => false
/-- Bundle time has advanced by one: results whose bundle has come become visible in issue order, the walker's writes after every
other result of the bundle that they count with (R40, R41, R335); the flags of an
earlier bundle are no longer fresh (R9). -/
def Ctx.landBundle (c : Ctx) : Ctx :=
  let l := c.thr.landing
  let c := c.onThr fun t => { t with
    landing := (l.filter fun x => 1 < x.dist).map fun x => { x with dist := x.dist - 1 } }
  let c := { c with csr := { c.csr with fresh := 0 } }
  let due := l.filter fun x => x.dist ≤ 1
  ((due.filter fun x => !x.dest.walker) ++ due.filter (·.dest.walker)).foldl Ctx.reveal c

/-! ## Scoreboarded results -/

/-- The landing destination that a scoreboarded destination replaces. -/
def PDest.landing : PDest → LDest
  | .b r => .b r
  | .c r => .c r
  | _ => .discard

/-- Issue a scoreboarded request: a fixed-latency result still in flight to its destination is cancelled (R42). -/
def Thread.await (t : Thread) (p : Pend) : Thread :=
  { t with
    landing := t.landing.map fun l => if p.dest.landing ≠ .discard && l.dest = p.dest.landing then { l with dest := .discard } else l
    board := t.board ++ [p] }
/-- The same on the core whose turn it is, with the next request number. -/
def State.await (s : State) (dest : PDest) (val : PVal) (addr : BitVec 56) (atomic gather : Bool := false)
    (way : Way := .none) : State :=
  s.onCtx fun c =>
    { (c.onThr fun t => t.await ⟨c.nextId, dest, val, addr, atomic, gather, way, false⟩) with nextId := c.nextId + 1 }

/-- The value of a request is fixed: it is performed (R218). -/
def PVal.fixed : PVal → Bool
  | .scalar _ => true
  | .vec _ _ => true
  | _ => false

/-- Where slot B's variable-latency results go (R258). -/
def pdestB (r : Reg) : PDest := if r.toNat < 16 then .b (regIx r) else .discard
/-- Where slot C's variable-latency results go: 16 enters nothing, since such a result enters no last-result file (R33). -/
def pdestC (r : Reg) : PDest := if r.toNat < 16 then .c (regIx r) else .discard

/-- Change the handler's thread or the task's. -/
def Ctx.onThread (c : Ctx) (hand : Bool) (f : Thread → Thread) : Ctx :=
  if hand then { c with hand := f c.hand } else { c with task := f c.task }
/-- Deliver a scoreboarded result to its register in the handler's files or the task's; it enters no last-result file
(R33, R42, R369). -/
def Ctx.deliver (c : Ctx) (hand : Bool) (d : PDest) (v : PVal) : Ctx :=
  match d, v with
  | .b r, .scalar x => c.onThread hand fun t => { t with b := t.b.set r x }
  | .c r, .vec x _ => { c with vec := { c.vec with c := c.vec.c.set r x } }
  | .phqres, .scalar x => { c with csr := { c.csr with phqres := x.val } }
  | _, _ => c
/-- The outstanding request with a number, and whether it is the handler's; the task's go on while the handler runs (R429). -/
def Ctx.request? (c : Ctx) (id : Nat) : Option (Bool × Pend) :=
  match c.task.board.find? fun p => p.id == id with
  | some p => some (false, p)
  | none => (c.hand.board.find? fun p => p.id == id).map fun p => (true, p)
/-- Take a request off the scoreboard. -/
def Thread.retire (t : Thread) (id : Nat) : Thread := { t with board := t.board.filter fun q => !(q.id == id) }
/-- Change an outstanding request. -/
def Ctx.onRequest (c : Ctx) (id : Nat) (f : Pend → Pend) : Ctx :=
  let g (t : Thread) : Thread := { t with board := t.board.map fun q => if q.id == id then f q else q }
  { c with task := g c.task, hand := g c.hand }
/-- A request completes with a value. -/
def Ctx.completeWith (c : Ctx) (hand : Bool) (p : Pend) (v : PVal) : Ctx :=
  (c.deliver hand p.dest v).onThread hand fun t => t.retire p.id
/-- Complete a request, if its value is fixed. -/
def Ctx.complete (c : Ctx) (id : Nat) : Ctx :=
  match c.request? id with
  | some (hand, p) => if p.val.fixed then c.completeWith hand p p.val else c
  | none => c

/-- Whether a scoreboarded write to a slot B register is outstanding. -/
def Thread.boardB (t : Thread) (r : Reg) : Bool :=
  decide (r.toNat < 16) && t.board.any fun p => p.dest = .b (regIx r)
/-- Whether a scoreboarded write to a slot C register is outstanding. -/
def Thread.boardC (t : Thread) (r : Reg) : Bool :=
  decide (r.toNat < 16) && t.board.any fun p => p.dest = .c (regIx r)

/-! ## The outcome of a slot -/

/-- How a slot's instruction ends: committed, with a trap, stalled in its slot, or stopped for a page (R356). -/
inductive SlotOut where
  | done (s : State)
  | trap (s : State) (cause : BitVec 8) (detail : BitVec 64)
  | stall (s : State) (w : Wait)
  | page (s : State) (va : BitVec 56) (kind : Kind) (level : BitVec 2)

/-- What stops an access stops its slot. -/
def Stop.slot (e : Stop) (s : State) : SlotOut :=
  match e with
  | .trap c d => .trap s c d
  | .page va k l => .page s va k l
  | .granule => .stall s .granule
  | .order => .stall s .order

/-- The slot that the bundle in issue commits next; without one, the slot to resume at. -/
def Thread.slotNow (t : Thread) : BitVec 2 :=
  match t.issue with
  | some i => i.slot
  | none => t.resume
/-- The word in that slot. -/
def Thread.wordNow (t : Thread) : BitVec 32 :=
  match t.issue with
  | some i => if i.slot = 0 then i.wa else if i.slot = 1 then i.wb else if i.slot = 2 then i.wc else i.wd
  | none => 0

/-! ## Rings and the arrival of rows -/

/-- The number of rows of a ring (R205). -/
def Handle.rows (h : Handle) : Nat := h.rowsM1.toNat + 1
/-- The bytes of a row; 0 for a handle without a ring. -/
def Handle.rb (h : Handle) : Nat := h.rowb.toNat * 16
/-- The scratchpad address of a row. -/
def Handle.rowAddr (h : Handle) (row : Nat) : Nat := h.base.toNat * 64 + row * h.rb
/-- Change a handle of the context whose turn it is. -/
def State.onHandle (s : State) (h : BitVec 4) (f : Handle → Handle) : State :=
  s.onCtx fun c => { c with h := c.h.set (fin4 h) (f c.h[fin4 h]) }

/-- A lane of a vector register by number. -/
def VReg.lane (v : VReg) (i : Nat) : BitVec 32 := if h : i < 64 then v.lanes[i] else 0
/-- The 64 lanes that 256 bytes hold. -/
def lanesOf (l : List Byte) : Vector (BitVec 32) 64 :=
  Vector.ofFn fun i => BitVec.ofNat 32 (leNat ((l.drop (4 * i.val)).take 4))
/-- A mask of lanes by a test. -/
def laneMask (f : Nat → Bool) : BitVec 64 :=
  (List.range 64).foldl (fun m i => if f i then m ||| (1#64 <<< i) else m) 0
/-- Read 64 words of the core's own scratchpad: a lane whose word lies in an erroneous block is poison and zero (R100,
R166). -/
def State.readLanes (s : State) (a : Nat) : VReg × State :=
  let k := s.core s.cur
  let (l, _, s) := s.readSpad s.cur a 256
  let bad := laneMask fun i => k.spadBad (a + 4 * i) 4
  (⟨Vector.ofFn fun i => if bad.getLsbD i.val then 0 else (lanesOf l)[i], bad, false⟩, s)

/-- Fix the value of a ring read whose row has arrived (R277, R169). -/
def State.resolveRing (s : State) (h : BitVec 4) (p : Pend) : State :=
  let fill := (s.ctx.h[fin4 h]).fill.toNat
  let put (s : State) (v : PVal) : State := s.onCtx fun c => { c with task := { c.task with
    board := c.task.board.map fun q => if q.id = p.id then { q with val := v } else q } }
  match p.val with
  | .ring g k a =>
    if g = fin4 h && decide (k < fill) then
      let (l, bad, s) := s.readSpad s.cur a 8
      put s (.scalar (if bad then .bad else .clean (BitVec.ofNat 64 (leNat l))))
    else s
  | .vring g k a m =>
    if g = fin4 h && decide (k < fill) then
      let (v, s) := s.readLanes a
      match p.dest with
      | .c r => put s (.vec ((s.ctx.vec.c[r]).merge v m) m)
      | _ => put s (.vec v m)
    else s
  | _ => s
/-- Fix every ring read of a handle whose row has arrived, in issue order. -/
def State.resolveRings (s : State) (h : BitVec 4) : State :=
  s.ctx.task.board.foldl (fun s p => s.resolveRing h p) s

/-- The bytes of an arriving row by 64-byte scratchpad block, each with its poison mark. -/
def State.writeRow (s : State) : List (Nat × List Byte) → List Bool → State
  | [], _ => s
  | (a, l) :: t, m => (s.writeSpad s.cur a l ((m.head?).getD false)).writeRow t m.tail
/-- The next fetched row of a handle's window arrives (R206, R208). -/
def State.rowArrives (s : State) (h : BitVec 4) : State :=
  let x := s.ctx.h[fin4 h]
  match x.win with
  | some w =>
    match w.arriving with
    | r :: t =>
      let s := s.writeRow (splitBlocks r.bytes.length (x.rowAddr x.tail.toNat) r.bytes) r.poison
      let s := s.onHandle h fun x => { x with
        fill := x.fill + 1, tail := BitVec.ofNat 12 ((x.tail.toNat + 1) % x.rows), win := some { w with arriving := t } }
      s.resolveRings h
    | [] => s
  | none => s
/-- Every row that was fetched arrives (R438). -/
def State.rowsArrive (s : State) : State :=
  (List.range 16).foldl (fun s n =>
    let h := BitVec.ofNat 4 n
    match (s.ctx.h[fin4 h]).win with
    | some w => w.arriving.foldl (fun s _ => s.rowArrives h) s
    | none => s) s

/-! ## Stops -/

/-- The value of loaded bytes (R262). -/
def loadVal (signed bad : Bool) (l : List Byte) : TVal :=
  if bad then .bad
  else .clean (if signed then (BitVec.ofNat (8 * l.length) (leNat l)).signExtend 64 else BitVec.ofNat 64 (leNat l))
/-- The bytes of a load of which another module answers those that were not read here (R224, R262). -/
def answered (here : List (Option Byte)) (data : BitVec 64) : List Byte :=
  here.zipIdx.map fun p => p.1.getD (data.extractLsb' (8 * p.2) 8)
/-- The value that another module's answer gives to a load. -/
def remoteVal (signed : Bool) (here : List (Option Byte)) (data : BitVec 64) (poison : Bool) : TVal :=
  loadVal signed poison (answered here data)
/-- VATOMADD's result (R170): each active lane receives the old word plus the addends of the active lanes below it, or
poison when there is no old word; the other lanes keep what the destination holds. -/
def atomSums (add : VReg) (m : BitVec 64) (old : Option (BitVec 32)) : VReg :=
  match old with
  | none => ⟨Vector.replicate 64 0, m, false⟩
  | some o =>
    let sums := (List.range 64).foldl (fun (p : BitVec 32 × List (BitVec 32)) i =>
      ((if m.getLsbD i then p.1 + add.lane i else p.1), p.2 ++ [p.1])) (o, [])
    ⟨Vector.ofFn fun i => (sums.2[i.val]?).getD 0, 0, false⟩
/-- The destination register of VATOMADD with its result. -/
def Ctx.atomLanes (c : Ctx) (d : PDest) (add : VReg) (m : BitVec 64) (old : Option (BitVec 32)) : VReg :=
  let v := atomSums add m old
  match d with
  | .c r => (c.vec.c[r]).merge v m
  | _ => v
/-- The write of an atomic is indeterminate from now on (R230, R268): its acknowledgement no longer comes. -/
def Ctx.loseWrite (c : Ctx) (id : Nat) (addr : BitVec 56) : Ctx :=
  { c with acks := c.acks.filter fun a => a.id ≠ id, lost := c.lost ++ [(id, addr)] }
/-- The new value of an atomic on `n` bytes (R266): none where CAS compares unequal. -/
def atomApply (op : AtomOp) (n : Nat) (old x cmp : BitVec 64) : Option (BitVec 64) :=
  let sx (v : BitVec 64) : Int := if n = 4 then (v.setWidth 32).toInt else v.toInt
  match op with
  | .add => some (old + x)
  | .swap => some x
  | .cas => if (if n = 4 then old.setWidth 32 = cmp.setWidth 32 else old = cmp) then some x else none
  | .and => some (old &&& x)
  | .or => some (old ||| x)
  | .xor => some (old ^^^ x)
  | .smin => some (if sx x < sx old then x else old)
  | .smax => some (if sx old < sx x then x else old)
/-- Perform an atomic at its home (R266-R268, R310): the old bytes and whether they are poison; a pool word past the cache is
read and written at the device, whose dirty line is written back first (R225). -/
def State.atomAt (s : State) (who : Option TaskId) (part : PartNum) (x : Xlat) (n : Nat) (f : BitVec 64 → Option (BitVec 64)) :
    List Byte × Bool × State :=
  let s := if target x.pa = .pool && !x.cached then s.onMem fun m => m.writeBack (blockOf x.pa) else s
  let (l, bad, s) := s.readPhys (some part) x.pa n x.cached
  (l, bad,
   match (if bad then none else f (BitVec.ofNat 64 (leNat l))) with
   | some v => s.writePhys who x.pa (leBytes n v.toNat) false x.cached
   | none => s)
/-- What a request that ends without a result delivers: 0 with tag 0b10; poison in the lanes of a vector result. -/
def Ctx.noResult (c : Ctx) (p : Pend) : PVal :=
  let lanes (m : BitVec 64) : PVal :=
    let v : VReg := ⟨Vector.replicate 64 0, m, false⟩
    .vec (match p.dest with | .c r => (c.vec.c[r]).merge v m | _ => v) m
  match p.val with
  | .vec _ m => lanes m
  | .vremote _ _ m => lanes m
  | .later _ (.lanes _ m) => lanes m
  | _ => .scalar .bad
/-- The sum of the addends of the active lanes (R170). -/
def addSum (add : VReg) (m : BitVec 64) : BitVec 32 :=
  (List.range 64).foldl (fun a i => if m.getLsbD i then a + add.lane i else a) 0
/-- Perform an atomic in a core's scratchpad, whose bank has an atomic unit (R267): the old bytes and whether they are poison. -/
def State.atomSpad (s : State) (c : CoreNum) (a n : Nat) (f : BitVec 64 → Option (BitVec 64)) : List Byte × Bool × State :=
  let (l, bad, s) := s.readSpad c a n
  (l, bad,
   match (if bad then none else f (BitVec.ofNat 64 (leNat l))) with
   | some v => let s := s.writeSpad c a (leBytes n v.toNat); if c = s.cur then s else s.irrevocable
   | none => s)
/-- Perform an atomic where its operand lies. -/
def State.atomPlace (s : State) (at_ : Place) (f : Nat → BitVec 64 → Option (BitVec 64)) : List Byte × Bool × State :=
  let x := s.ctx
  match at_ with
  | .memory ((y, n) :: _) => s.atomAt (some x.id) x.part y n (f n)
  | .memory [] => ([], true, s)
  | .spad c a n => s.atomSpad c a n (f n)
/-- Perform at its home an access of the context whose turn it is: what it delivers (R261, R262, R266, R170). -/
def State.performAt (s : State) (p : Pend) (at_ : Place) (what : Access) : PVal × State :=
  let x := s.ctx
  match what with
  | .load signed =>
    let (b, bad, s) := match at_ with
      | .memory l => s.readPieces x.part l
      | .spad c a n => s.readSpad c a n
    (.scalar (loadVal signed bad b), s)
  | .atomic op d c =>
    let (b, bad, s) := s.atomPlace at_ fun n old => atomApply op n old d c
    (.scalar (loadVal true bad b), s)
  | .lanes add m =>
    let (b, bad, s) := s.atomPlace at_ fun _ old => some (old + (addSum add m).setWidth 64)
    (.vec (x.atomLanes p.dest add m (if bad then none else some (BitVec.ofNat 32 (leNat b)))) m, s)
/-- Whether a request has not been performed and its die is shed, or its last answer was a dormant-retry (R261, R486). -/
def State.withdrawn (s : State) (p : Pend) : Bool := !p.val.fixed && (p.dormant || s.siteShed p.way.site)
/-- Complete a request at a stop: one that waits on another module is answered by free values (R261, R438); a ring read
whose row has not arrived and a long form stay recorded (R278, R148); a request whose last answer was a dormant-retry, or whose die
is shed, is withdrawn and stays recorded, but a load without a destination is dropped (R261). -/
def State.drainOne (s : State) (id : Nat) : State :=
  match s.ctx.request? id with
  | some (hand, p) =>
    if s.withdrawn p then
      (if p.dest = .discard && !p.atomic then s.onCtx fun c => c.onThread hand fun t => t.retire p.id
      else s.onCtx fun c => c.onRequest id fun q => { q with dormant := false })
    else
    match p.val with
    | .remote _ _ signed here bad =>
      let (b, poison, s) := s.remoteBytes 8
      s.onCtx fun c => c.completeWith hand p (.scalar (remoteVal signed here (BitVec.ofNat 64 (leNat b)) (bad || poison)))
    | .vremote _ add m =>
      let (b, poison, s) := s.remoteBytes 8
      let old := if poison then none else some (BitVec.ofNat 32 (leNat b))
      s.onCtx fun c => c.completeWith hand p (.vec (c.atomLanes p.dest add m old) m)
    | .later place what =>
      let (v, s) := s.performAt p place what
      s.onCtx fun c => c.completeWith hand p v
    | v => if v.fixed then s.onCtx fun c => c.completeWith hand p v else s
  | none => s
/-- Complete the outstanding requests of the task and of the handler. -/
def State.drainLoads (s : State) : State :=
  ((s.ctx.task.board ++ s.ctx.hand.board).map (·.id)).foldl State.drainOne s

/-- A thread as its context's image records it: the slots that have committed stay committed, the rest issue after restore
(R437), and so does RFT or HALT (R434). -/
def Thread.park (t : Thread) : Thread := { t with issue := none, resume := t.slotNow }
/-- A context as its image records it: a pending lease request is withdrawn (R440). -/
def Ctx.image (c : Ctx) : Ctx :=
  { c with task := c.task.park, hand := c.hand.park, wait := .none, lease := { c.lease with suspended := false, request := none } }
/-- The first byte of a task's frame, and the bytes of a frame (R351). -/
def State.frameOf (s : State) (t : TaskId) : Nat × Nat :=
  match s.launch? t.part t.lid, s.tasks.find? fun x => x.part = t.part && x.lid = t.lid && x.sidx = t.sidx with
  | some l, some x => (l.base + x.frame * l.frameSize, l.frameSize)
  | _, _ => (0, 0)
/-- What a save's status becomes when its frame cannot be written (R446): it no longer lies in the partition's granules. -/
def State.saveStatus (s : State) (t : TaskId) (status : TStatus) : TStatus × State :=
  let f := s.frameOf t
  if f.2 = 0 || s.trunk.ownsRange t.part f.1 f.2 then (status, s)
  else (.rollback 0x3A, s.errRecord (some t.part)
    { type := 0x3A, lid := t.lid.toNat, addr := f.1, sidx := t.sidx })

/-- What a save makes of scratchpad blocks with an uncorrectable error: each is reported and saved as poison (R452, R191). -/
def State.saveMarks (s : State) (c : CoreNum) : List Nat × State :=
  let k := s.core c
  (k.spadErr.foldl (fun m b => setIns b m) k.spadMark,
   k.spadErr.foldl (fun s b => s.errRecord (some k.ctx.part) { type := 0x31, code := 2, site := (dieOf c).toNat, addr := b * 64 }) s)
/-- Write a saved context's image into its frame (R443), where it lies in the partition's granules. -/
def State.saveFrame (s : State) (c : Ctx) (page : Bool) (spad : SMap Byte) (mark : List Nat) : State :=
  let f := s.frameOf c.id
  if f.2 = 0 || !s.trunk.ownsRange c.part f.1 f.2 then s
  else s.writeImage f.1 f.2 c (imageFlags c.inHandler page (s.trunk.phase ≠ 0)) spad mark
/-- A status that waits for a page. -/
def TStatus.waitsPage : TStatus → Bool
  | .page .. => true
  | _ => false

/-- Save the context on a core (R437, R438): the image is written to the frame; the lease counts against no grove (R381,
R440). -/
def State.finishSave (s : State) (c : CoreNum) (status : TStatus) : State :=
  let k := s.core c
  let g := groveOf c
  let x := k.ctx.image
  let (status, s) := s.saveStatus x.id status
  let (mark, s) := s.saveMarks c
  let s := s.saveFrame { x with lease := { k.ctx.lease with request := none } } status.waitsPage k.spad mark
  let save (t : Task) : Task :=
    if t.part = x.part && t.lid = x.lid && t.sidx = x.sidx then
      { t with ctx := x, spad := k.spad, spadMark := mark, status := status, ready := s.seqno, aging := 0, home := c,
               saving := none }
    else t
  let s := { s with tasks := s.tasks.map save, seqno := s.seqno + 1 }
  let s := s.onCore c Core.free
  (s.onGrove g fun y => { y with suspended := y.suspended.filter (· ≠ c) }).regrant g
/-- The task record of the context on a core. -/
def State.taskOf (s : State) (c : CoreNum) : Option Task :=
  let x := (s.core c).ctx
  s.tasks.find? fun t => t.part = x.part && t.lid = x.lid && t.sidx = x.sidx
/-- A save waits for a collective in progress (R297): the task has its status already. -/
def State.holdSave (s : State) (c : CoreNum) (status : TStatus) : State :=
  let x := (s.core c).ctx
  { s.onCore c (fun k => { k with saving := true }) with
    tasks := s.tasks.map fun t =>
      if t.part = x.part && t.lid = x.lid && t.sidx = x.sidx then { t with status := status, saving := some c } else t }
/-- Stop the context on a core and save it (R437, R438): outstanding loads complete, and a collective in progress goes on until
it ends (R297); under dormancy it is withdrawn (R472). A killed context ends (R358). -/
def State.stop (s : State) (c : CoreNum) (status : TStatus) : State :=
  let k := s.core c
  if !k.busy || k.ctx.boot then s
  else if s.dying c then s.endTask c false
  else
    let status := if k.saving then ((s.taskOf c).map (·.status)).getD status else status
    let s := s.asCore c fun s => s.rowsArrive.drainLoads.queuesStop
    if (s.core c).ctx.collBusy && s.trunk.phase = 0 then s.holdSave c status else s.finishSave c status
/-- End a save that waited for a collective (R297). -/
def State.saveDone (s : State) (c : CoreNum) : State :=
  let k := s.core c
  if k.saving && !k.ctx.collBusy then s.finishSave c (((s.taskOf c).map (·.status)).getD .ready) else s

/-- A wait for a page (R356): record 0x13 with a new token, and the task is saved at the faulting slot. -/
def State.pageStop (s : State) (va : BitVec 56) (k : Kind) (level : BitVec 2) : State :=
  let x := s.ctx
  let token := (s.part x.part).tokens
  let (t, s) := s.stamp
  let s := (s.onPart x.part fun q => { q with tokens := q.tokens + 1 }).enqueue x.part
    (leBytes 4 0x13 ++ leBytes 4 x.lid.toNat ++ leBytes 8 va.toNat ++ leBytes 4 token.toNat ++ leBytes 4 k.num.toNat ++
      leBytes 8 t.toNat) t
  s.stop s.cur (.page token va k.num level)

/-! ## Taking a trap and returning from one -/

/-- Take a trap at a slot (R429): tsw, tpc and tdet are written and the handler context starts, with its registers zero, at
supervisor level. With trapvec off the task is lost, and so is a boot context (R506). A trap of the handler loses the task (R430). A segment check goes to
the crown controller, which rolls the context back, or loses it at the third in a row (R201). -/
def State.takeTrap (s : State) (slot : BitVec 2) (cause : BitVec 8) (detail : BitVec 64) : State :=
  let x := s.ctx
  if x.inHandler then s.loseTask s.cur 2 (x.csr.cause.toNat * 256 + cause.toNat)
  else
    let park (t : Thread) : Thread := { t with issue := none, resume := slot }
    let s := s.setCtx { x with
      csr := { x.csr with cause := cause, sres := slot, tpc := x.task.pc, tdet := detail, fresh := 0 }
      task := park x.task, wait := .none, pendTrap := none }
    if x.boot then s.loseTask s.cur 1 cause.toNat
    else if cause = 0x15 then
      if 2 ≤ x.segTraps then s.loseTask s.cur 4 0x15
      else (s.onCtx fun c => { c with segTraps := c.segTraps + 1 }).stop s.cur (.rollback 0x15)
    else if !(s.part x.part).trapvec.getLsbD 63 then s.loseTask s.cur 1 cause.toNat
    else s.onCtx fun c => { c with
      inHandler := true, hand := { Thread.zero with pc := (s.part x.part).trapvec.extractLsb' 0 52 } }

/-- A trap at a slot: a killed context ends where it would trap (R358). -/
def State.trapAt (s : State) (slot : BitVec 2) (cause : BitVec 8) (detail : BitVec 64) : State :=
  if s.dying s.cur then s.endTask s.cur false else s.takeTrap slot cause detail

/-- Return from the handler (R434): the task re-enters the bundle at tpc from slot SRES. -/
def Ctx.returnFromTrap (c : Ctx) : Ctx :=
  { c with
    inHandler := false, hand := Thread.zero, wait := .none
    task := { c.task with pc := c.csr.tpc, resume := c.csr.sres, issue := none } }

/-! ## The end of a slot and of a bundle -/

/-- One step of CRC-32C (R194). -/
def crcBit (c : BitVec 32) : BitVec 32 := if c.getLsbD 0 then (c >>> 1) ^^^ 0x82F63B78 else c >>> 1
/-- CrcByte (R194). -/
def crcByte (c : BitVec 32) (x : Byte) : BitVec 32 :=
  (List.range 8).foldl (fun c _ => crcBit c) (c ^^^ x.setWidth 32)
/-- CRC-32C over bytes, before the final inversion. -/
def crcBytes (c : BitVec 32) (l : List Byte) : BitVec 32 := l.foldl crcByte c
/-- The bytes of a word, lowest first. -/
def wordBytes (w : BitVec 32) : List Byte := leBytes 4 w.toNat

/-- A completed bundle counts in the open segment, the SEGBEG and SEGEND bundles apart (R194). -/
def Csrs.countBundle (r : Csrs) (i : Issue) : Csrs :=
  if r.segOpen && !(bits i.wa 26 6 = 0x34 || bits i.wa 26 6 = 0x35) then
    { r with
      segCount := if r.segCount = 0xFFFFFFFF then r.segCount else r.segCount + 1
      segCrc := crcBytes r.segCrc (wordBytes i.wa ++ wordBytes i.wb ++ wordBytes i.wc ++ wordBytes i.wd) }
  else r

/-- The bundle's redirects (R135): the program counter of the next bundle and the list that remains. -/
def Thread.advance (t : Thread) (jump : Option (BitVec 52)) : Thread :=
  let l := t.redirects.map fun r => { r with count := r.count - 1 }
  let pc := match jump, l.find? fun r => r.count = 0 with
    | some p, _ => p
    | none, some r => r.target
    | none, none => t.pc + 1
  { t with
    pc := pc
    redirects := (l.filter fun r => r.count ≠ 0) ++ (match t.taken with | some a => [⟨a, 3⟩] | none => [])
    taken := none, btime := t.btime + 1, issue := none, resume := 0, leave := 0 }

/-- A bundle of the task or of the handler completes: its transfer and redirects act, bundle time advances, results become
visible, the segment and the lease count it, a write of srstate is seen (R135, R39, R40, R194, R381, R113). -/
def Ctx.completeBundle (c : Ctx) (i : Issue) : Ctx :=
  let c := { c.onThr fun t => t.advance i.jump with wait := .none }
  let c := if c.inHandler then c else
    { c with
      csr := { c.csr.countBundle i with
        srstate := (match c.csr.srPend with | some v => v | none => c.csr.srstate), srPend := none }
      lease := if c.lease.held && !c.lease.suspended && c.lease.remain ≠ 0 then
          { c.lease with remain := c.lease.remain - 1 } else c.lease }
  c.landBundle

/-- The lease of a core's context ends at the bundle that brings its budget to 0 (R381). -/
def State.expireLease (s : State) (c : CoreNum) : State :=
  let l := (s.core c).ctx.lease
  if (s.core c).busy && l.held && !l.suspended && l.remain = 0 then s.endLease c 0 else s
/-- The slot in issue has committed: the next one is due, or the bundle completes; then a handler that met RFT or HALT ends
(R66, R434), a spent lease ends (R381), and so does a killed context (R358). -/
def State.slotDone (s : State) : State :=
  let x := s.ctx
  match x.thr.issue with
  | none => s
  | some i =>
    if i.slot ≠ 3 then
      s.setCtx { (x.setThr { x.thr with issue := some { i with slot := i.slot + 1 } }) with wait := .none }
    else
      let c := x.completeBundle i
      if x.inHandler && x.thr.leave = 1 then (s.setCtx c.returnFromTrap).reap s.cur
      else if x.inHandler && x.thr.leave = 2 then (s.setCtx c).loseTask s.cur 3 x.csr.cause.toNat
      else ((s.setCtx c).expireLease s.cur).reap s.cur

/-- The state in which a slot's outcome leaves the machine. -/
def SlotOut.fin : SlotOut → State
  | .done s => s.slotDone
  | .trap s c d => s.trapAt s.thr.slotNow c d
  | .stall s w => s.onCtx fun c => { c with wait := w }
  | .page s va k l => s.pageStop va k l
/-- A slot's outcome as the machine's: always a next state. -/
def SlotOut.out (o : SlotOut) : Out := .next o.fin

/-- Whether a cause comes before the privilege cause in a slot's order (R427): a deferred operand, a poison one. -/
def beforePrivilege (c : BitVec 8) : Bool := c = 0x03 || c = 0x04 || c = 0x05
/-- A form that the handler may not use (R430): after the checks of its operands' tags a breach raises the privilege cause with
the slot's word. -/
def State.taskForm (s : State) (k : SlotOut) : SlotOut :=
  if s.ctx.inHandler then
    match k with
    | .trap t c d => if beforePrivilege c then .trap t c d else .trap s 0x02 (s.thr.wordNow.setWidth 64)
    | _ => .trap s 0x02 (s.thr.wordNow.setWidth 64)
  else k
/-- Run such a form. -/
def State.taskOnly (s : State) (f : SlotOut) : Out := (s.taskForm f).out

/-! ## Kept order (R220) -/

/-- Whether accesses of two alias classes of a context are kept in order. -/
def keptClasses (a b : BitVec 3) : Bool := a = 0 || b = 0 || a = b
/-- The one module that requests go to, if there is one. -/
def oneModule (l : List Sent) : Option (BitVec 18) :=
  match l with
  | r :: t => if t.all fun x => x.module = r.module then some r.module else none
  | [] => none
/-- Whether an outstanding request of a context has to be performed before a later access of a class (R220), which goes to a
module if one is given: a read or atomic that has not been performed. Requests to one module follow each other, unless the first
one waits to be sent again (R309). A ring read waits for a row that its own program publishes, unless a window does, and then
holds back nothing (log 106). -/
def Ctx.holds (c : Ctx) (cls : BitVec 3) (home : Option (BitVec 18)) (p : Pend) : Bool :=
  keptClasses p.way.cls cls && !p.val.fixed &&
  match p.val with
  | .ring h .. | .vring h .. => (c.h[h]).win.isSome
  | .remote .. | .vremote .. => p.dormant || p.way.waiting || home.isNone || oneModule p.way.sent != home
  | _ => true
/-- Whether a VGATH or VSCAT of a context has steps left (R148, R165). -/
def Ctx.longBusy (c : Ctx) : Bool :=
  (c.task.board ++ c.hand.board).any fun p => match p.val with
    | .long .. => true
    | _ => false
/-- Whether some window of a context holds a fetch, a read of class 0 (R208, R219). -/
def Ctx.winHeld (c : Ctx) : Bool := c.h.toList.any fun h => h.win.any (·.held)
/-- Whether an access of the context of a class, to a module if one is given, waits for an earlier one that is kept before it
(R220, R309). -/
def Ctx.kept (c : Ctx) (cls : BitVec 3) (home : Option (BitVec 18) := none) : Bool :=
  (c.task.board ++ c.hand.board).any (c.holds cls home) || c.winHeld ||
  (home.isSome && c.acks.any fun a => a.way.waiting && keptClasses a.way.cls cls && oneModule a.way.sent = home)
/-- Perform an access in the state that its checks leave, unless an earlier one is kept before it: then its slot stalls, in the
state before its checks. -/
def State.inOrder (s : State) (cls : BitVec 3) (home : Option (BitVec 18)) (k : SlotOut) : SlotOut :=
  if s.ctx.kept cls home then .stall s .order else k

/-! ## Ordering points -/

/-- The first queue of a context that owes a queue-fault trap, with the trap's detail word (R289). -/
def Ctx.owedTrap (c : Ctx) : Option (Fin 16 × BitVec 64) :=
  (List.finRange 16).findSome? fun i => ((c.queues[i]).owed.head?).map fun d => (i, d)
/-- What an ordering point does before it commits (R229, R230, R289): an owed queue fault is raised once, then lost
acknowledgements, which are retired; it stalls while a .g write is unacknowledged or a read, a window's held fetch among them, is
not performed; `none` lets it commit. -/
def State.orderWait (s : State) : Option SlotOut :=
  let x := s.ctx
  match x.owedTrap with
  | some (i, d) => some (.trap (s.onQueue i fun q => { q with owed := q.owed.drop 1 }) 0x11 d)
  | none =>
  if x.lost ≠ [] then some (.trap (s.onCtx fun c => { c with lost := [] }) 0x14 (ackDetail x.lost))
  else if x.acks ≠ [] || x.winHeld || (x.task.board ++ x.hand.board).any (fun p => !p.val.fixed) then
    some (.stall s .order)
  else none

end Sys2Proof.Machine
end

