-- ==== Sys2Proof/Machine/Launches.lean ====
section
/-!
DEFINITION. Launch packets and queues (R330, R342, R346), acceptance and refusal (R348, R349), the walker's points and the
induction values (R331, R335, R336, R442).
-/

namespace Sys2Proof.Machine

/-! ## Packets (R330) -/

/-- Some bytes of a packet as a number. -/
def Packet.num (p : Packet) (off n : Nat) : Nat := leNat ((p.bytes.drop off).take n)
/-- LID. -/
def Packet.lid (p : Packet) : BitVec 32 := BitVec.ofNat 32 (p.num 28 4)
/-- The two DEPLID. -/
def Packet.depLids (p : Packet) : List (BitVec 32) := [BitVec.ofNat 32 (p.num 40 4), BitVec.ofNat 32 (p.num 44 4)]
/-- DEPPH. -/
def Packet.depPh (p : Packet) : BitVec 32 := BitVec.ofNat 32 (p.num 32 4)
/-- DEPPHASE. -/
def Packet.depPhase (p : Packet) : BitVec 32 := BitVec.ofNat 32 (p.num 36 4)
/-- The PRIO byte. -/
def Packet.prioByte (p : Packet) : BitVec 8 := BitVec.ofNat 8 (p.num 26 1)
/-- The priority that a packet asks for, under its image's default. -/
def Packet.prio (p : Packet) (image : BitVec 3) : BitVec 3 := if p.prioByte.getLsbD 7 then image else p.prioByte.setWidth 3

/-- The launches of a partition that are accepted and not ended (R346). -/
def State.liveLids (s : State) (p : PartNum) : List (BitVec 32) :=
  ((s.launches.filter fun l => l.part = p).map (·.lid)) ++ (s.part p).queues.toList.flatMap fun q => q.map (·.lid)

/-- The grove set of a packet (R332). -/
def State.groveSet (s : State) (p : PartNum) (k : Packet) : BitVec 16 :=
  let m := BitVec.ofNat 16 (k.num 48 2)
  let own := (s.part p).partctl.setWidth 16
  (if m = 0 then own else m &&& own) &&& s.trunk.groveslive
/-- What a report says of a packet, by the grove set it names and its image as far as that was read (R349, log 68). -/
def Packet.stub (k : Packet) (part : PartNum) (q : BitVec 4) (groves : BitVec 16) (kern : Kernel := .zero) : Launch where
  lid := k.lid
  part := part
  queue := q
  route := k.route
  kern := kern
  prio := k.prio kern.prio
  groves := groves
  total := 0
  nextTask := 0
  skipped := []
  readyAt := 0
  open_ := 0
  frames := 0
  freeFrames := []
  frameSize := 0
  base := 0
  bindings := []
  seq := k.seq
  taskLost := false
  killed := none
  ages := []
  digest := 0
  slots := false
  mustUnits := 0
  lookups := []

/-- The dependences on an ended launch are satisfied (R346). -/
def State.satisfy (s : State) (p : PartNum) (lid : BitVec 32) : State :=
  if (s.liveLids p).contains lid then s
  else s.onPart p fun q => { q with
    queues := Vector.ofFn fun i => q.queues[i].map fun k => { k with deps := k.deps.filter (· ≠ lid) } }
/-- Refuse a packet that is in no queue (R348, R349). -/
def State.refuse (s : State) (p : PartNum) (q : BitVec 4) (k : Packet) (code : Nat) (kern : Kernel := .zero) : State :=
  (s.report (k.stub p q (s.groveSet p k) kern) 0x11 code).satisfy p k.lid
/-- Whether a packet breaks R330: BADPKT (R348). -/
def Packet.bad (p : Packet) : Bool :=
  p.num 50 14 ≠ 0 || p.prioByte.extractLsb' 3 4 ≠ 0 || 2 ≤ p.num 27 1 || p.lid = 0 || (p.num 16 8 = 0 && p.num 24 2 ≠ 0) ||
  64 < p.num 24 2
/-- The phaser of DEPPH, where the partition may wait on it (R348). -/
def State.depPhaser? (s : State) (p : PartNum) (k : Packet) : Option Phaser :=
  (s.phaser? k.depPh).bind fun x => if x.part = p then some x else none
/-- The code with which a packet is refused when it becomes head (R348): DUPLID and DEPPH, or BADPKT before them. -/
def State.headCode (s : State) (p : PartNum) (k : Packet) : Nat :=
  let dup := (s.launches.any fun l => l.part = p && l.lid = k.lid) ||
    (s.part p).queues.toList.any fun q => q.any fun x => x.lid = k.lid && x.seq ≠ k.seq
  let ph := k.depPh ≠ 0 && (s.depPhaser? p k).isNone
  if !dup && !ph then 0 else if k.bad then 1 else if dup then 2 else 8
/-- Change a queue of a partition. -/
def State.onLaunchQueue (s : State) (p : PartNum) (q : BitVec 4) (f : List Packet → List Packet) : State :=
  s.onPart p fun x => { x with queues := x.queues.set (fin4 q) (f x.queues[fin4 q]) }
/-- Check the packets of a queue as they become head (R348), with fuel for the packets of the queue. -/
def State.checkHead : Nat → PartNum → BitVec 4 → State → State
  | 0, _, _, s => s
  | n + 1, p, q, s =>
    match (s.part p).queues[fin4 q] with
    | [] => s
    | k :: _ =>
      if k.headed then s
      else
        let c := s.headCode p k
        if c = 0 then s.onLaunchQueue p q fun l => match l with | k :: t => { k with headed := true } :: t | [] => []
        else State.checkHead n p q ((s.onLaunchQueue p q fun l => l.drop 1).refuse p q k c)
/-- Check the head of a queue. -/
def State.headCheck (s : State) (p : PartNum) (q : BitVec 4) : State := State.checkHead 257 p q s
/-- Accept a packet into a queue with room (R342, R346); one that names its own LID in DEPLID is refused (R348). -/
def State.acceptPacket (s : State) (p : PartNum) (q : BitVec 4) (bytes : List Byte) (route : Route) : State :=
  let k : Packet := ⟨bytes, s.seqno, route, [], false⟩
  let s := { s with seqno := s.seqno + 1 }
  let named := k.depLids.filter (· ≠ 0)
  if named.contains k.lid then s.refuse p q k 0x01
  else
    let live := s.liveLids p
    (s.onLaunchQueue p q fun l => l ++ [{ k with deps := named.filter fun d => live.contains d }]).headCheck p q
/-- Packets in a queue. -/
def State.queueFill (s : State) (p : PartNum) (q : BitVec 4) : Nat := ((s.part p).queues[fin4 q]).length

/-! ## Iteration space (R331) -/

/-- The extent of a level. -/
def Level.extent (l : Level) : Nat := l.extm1.toNat + 1
/-- Whether a level is temporal. -/
def Level.temporal (l : Level) : Bool := l.kind = 0
/-- The product of extents. -/
def extentProduct (l : List Level) : Nat := (l.map Level.extent).prod
/-- The temporal points of each task. -/
def Kernel.points (k : Kernel) : Nat := extentProduct (k.levels.filter Level.temporal)
/-- The tile tasks of a launch. -/
def Kernel.tasks (k : Kernel) : Nat := extentProduct (k.levels.filter fun l => !l.temporal)
/-- The iteration numbers of levels at a mixed-radix index, in which the last level varies fastest. -/
def mixedRadix (l : List Level) (n : Nat) : List Nat :=
  (l.foldr (fun x p => (p.1 / x.extent, p.1 % x.extent :: p.2)) (n, ([] : List Nat))).2
/-- The induction value of a level (R331). -/
def Level.value (l : Level) (i : Nat) : BitVec 64 := BitVec.ofNat 64 i * l.step.signExtend 64
/-- The induction values of all levels, in order, at a spatial and a temporal combination. -/
def inductionOf : List Level → List Nat → List Nat → List (BitVec 64)
  | [], _, _ => []
  | l :: t, sp, tp =>
    if l.temporal then l.value ((tp.head?).getD 0) :: inductionOf t sp tp.tail
    else l.value ((sp.head?).getD 0) :: inductionOf t sp.tail tp
/-- The induction values of a task's point. -/
def Kernel.induction (k : Kernel) (sidx p : Nat) : List (BitVec 64) :=
  inductionOf k.levels (mixedRadix (k.levels.filter fun l => !l.temporal) sidx) (mixedRadix (k.levels.filter Level.temporal) p)
/-- The registers a10 + l. -/
def walkerReg (l : Nat) : Fin 16 := fin4 (BitVec.ofNat 4 (10 + l))

/-- Mix (R112). -/
def mixSeed (seed : BitVec 32) (sidx : Nat) (p : BitVec 32) : BitVec 32 :=
  let v := seed ^^^ (BitVec.ofNat 32 sidx * 0x85EBCA6B) ^^^ (p * 0x9E3779B9)
  if v = 0 then 1 else v

/-! ## The walker (R334-R338, R442) -/

/-- The value P of a run for Mix: the prologue and the epilogue have their own. -/
def Walk.mixP (w : Walk) : BitVec 32 :=
  if w.run = 1 then 0xFFFFFFFE else if w.run = 3 then 0xFFFFFFFF else BitVec.ofNat 32 w.p
/-- Move BASEP past the points that have run, with fuel for the map's bits. -/
def Walk.slide : Nat → Walk → Walk
  | 0, w => w
  | n + 1, w => if w.map.getLsbD 0 then Walk.slide n { w with basep := w.basep + 1, map := w.map >>> 1 } else w
/-- Mark the point of the body run in progress as run. -/
def Walk.mark (w : Walk) : Walk := Walk.slide 4096 { w with map := w.map ||| (1#4096 <<< (w.p - w.basep)) }
/-- The next point: among those not yet run below BASEP + 4,096 (R336, R442), the lowest under ORDER; without it, a choice
that is not architectural (log 29). -/
def Kernel.nextPoint (k : Kernel) (w : Walk) (pick : Nat) : Option Nat :=
  let span := Nat.min 4096 (k.points - w.basep)
  let start := if k.order then 0 else pick
  (List.range span).findSome? fun j =>
    let i := (start + j) % span
    if w.map.getLsbD i then none else some (w.basep + i)
/-- The prologue is present (R328; log 16). -/
def Kernel.hasPro (k : Kernel) : Bool := k.sched0.any fun c => c.pro ≠ 0xFFFFFFFF
/-- The epilogue is present. -/
def Kernel.hasEpi (k : Kernel) : Bool := k.sched0.any fun c => c.epi ≠ 0xFFFFFFFF
/-- The run that follows the points not yet run. -/
def Kernel.bodyOrEpi (k : Kernel) (w : Walk) (pick : Nat) : Option Walk :=
  match k.nextPoint w pick with
  | some p => some { w with run := 2, proDone := true, p := p }
  | none => if k.hasEpi then some { w with run := 3, proDone := true } else none
/-- The first run of a task. -/
def Kernel.firstRun (k : Kernel) (pick : Nat) : Walk :=
  let w : Walk := ⟨0, 0, 0, false, 0⟩
  if k.hasPro then { w with run := 1 } else (k.bodyOrEpi w pick).getD w
/-- The run after the one in progress, if one remains (R334, R370). -/
def Kernel.nextRun (k : Kernel) (w : Walk) (pick : Nat) : Option Walk :=
  if w.run = 1 then k.bodyOrEpi w pick
  else if w.run = 2 then k.bodyOrEpi w.mark pick
  else none

/-- Begin a run (R334, R335): the entry bundle is next, and before a body run the walker writes the induction values, which
land one bundle on and enter no last-result file. -/
def Ctx.beginRun (c : Ctx) (w : Walk) : Ctx :=
  let writes : List Landing :=
    if w.run = 2 then
      (c.kern.induction c.sidx w.p).zipIdx.map fun v =>
        ⟨1, .aQuiet (walkerReg v.2), .scalar ⟨v.1, 0⟩, 0, false⟩
    else []
  { c with walk := w, entry := true, task := { c.task with landing := c.task.landing ++ writes } }

end Sys2Proof.Machine
end

