-- ==== Sys2Proof/Machine/Registers.lean ====
section
/-!
DEFINITION. What the registers of the trunk configuration space share: masked writes (R8, R10), who may write (R409), the
locks of a partition's interface and its ERROR state (R416, R417).
-/

namespace Sys2Proof.Machine

/-- Whether the capability list announces a feature; without that it is not there (R1, R24). -/
def Trunk.announces (t : Trunk) (id : BitVec 12) : Bool := t.caps.contains id
/-- A register with the bits of a mask taken from a write. -/
def regMerge {w : Nat} (old v mask : BitVec w) : BitVec w := (old &&& ~~~mask) ||| (v &&& mask)
/-- Whether a writer reaches the whole configuration space: the host's physical function and Glidin do (R409). -/
def writerFull : Writer → Bool
  | .supervisor _ => false
  | _ => true
/-- Whether a writer reaches the blocks of a partition. -/
def writerOf (w : Writer) (p : PartNum) : Bool :=
  match w with
  | .supervisor q => q = p
  | _ => true

/-- A write that a writer may make, and the state after it; from dormancy's write-back phase on, the host link answers
Unsupported Request (R471). -/
def State.written (s : State) (w : Writer) (ok : Bool) (t : State) : State :=
  if w = .host && decide (2 ≤ s.trunk.phase.toNat) then s.send .unsupported else if ok then t else s

/-- TDI of partctl (R407): 0 unlocked, 1 locked, 2 run, 3 error. -/
def Part.tdi (q : Part) : BitVec 3 := q.partctl.extractLsb' 60 3
/-- Set TDI. -/
def Part.setTdi (q : Part) (x : BitVec 3) : Part :=
  { q with partctl := regMerge q.partctl (x.setWidth 64 <<< 60) (7#64 <<< 60) }
/-- EN of partctl. -/
def Part.en (q : Part) : Bool := q.partctl.getLsbD 63
/-- The locks of R416 are in force. -/
def Part.locked (q : Part) : Bool := q.tdi = 1 || q.tdi = 2

/-- A launch that is accepted and not ended, by acceptance number: admitted, or in a queue. -/
abbrev Accepted := Nat × BitVec 32 × Option (BitVec 4 × Packet)
/-- Insert by acceptance number. -/
def insAccepted (x : Accepted) : List Accepted → List Accepted
  | [] => [x]
  | y :: t => if x.1 < y.1 then x :: y :: t else y :: insAccepted x t
/-- The accepted launches of a partition, in acceptance order. -/
def State.accepted (s : State) (p : PartNum) : List Accepted :=
  let queued : List Accepted := (List.finRange 16).flatMap fun i =>
    ((s.part p).queues[i]).map fun k => (k.seq, k.lid, some (BitVec.ofNat 4 i.val, k))
  let running : List Accepted := (s.launches.filter fun l => l.part = p).map fun l => (l.seq, l.lid, none)
  (queued ++ running).foldr insAccepted []
/-- End every launch of a partition with a code, in acceptance order (R358, R408, R417); a launch whose packet waits in a
queue gets its ended report alone. -/
def State.endLaunches (s : State) (p : PartNum) (code : Nat) : State :=
  let l := s.accepted p
  let s := s.onPart p fun q => { q with queues := Vector.replicate 16 [], chosen := none, headWait := none, headNeeds := none }
  l.foldl (fun s x => match x.2.2 with
    | some (q, k) => s.report (k.stub p q (s.groveSet p k)) 0x12 code
    | none => s.killLaunch p x.2.1 code) s
/-- Enter ERROR (R417). -/
def State.enterError (s : State) (p : PartNum) : State :=
  ((s.onPart p fun q => q.setTdi 3).endLaunches p 0x22).onPart p fun q => { q with keys := Vector.replicate 16 none }
/-- A write to a register that R416 locks: in CONFIG_LOCKED and RUN it moves TDI to ERROR and changes nothing. -/
def State.unlessLocked (s : State) (p : PartNum) (k : State) : State := if (s.part p).locked then s.enterError p else k

/-! ## What a change of a granule's owner clears -/

/-- Whether a range of HBM bytes meets a granule. -/
def meetsGranule (lo n g : Nat) : Bool := decide (lo < (g + 1) * 0x40000000) && decide (g * 0x40000000 < lo + n)
/-- A change of owner clears every drain-list entry that the granule meets (R473); must-drain units leave mustsum. -/
def Trunk.dropDrain (t : Trunk) (g : Nat) : Trunk :=
  let hit (e : Nat × BitVec 64 × BitVec 64) : Bool :=
    e.2.1.getLsbD 63 && (let r := drainRegion e.2.1 e.2.2; meetsGranule r.base r.bytes g)
  let units := ((t.drain.filter fun e => hit e && e.2.1.getLsbD 62).map fun e => (e.2.2.extractLsb' 0 24).toNat).sum
  { t with
    drain := t.drain.map fun e => if hit e then (e.1, e.2.1 &&& 0x7FFFFFFFFFFFFFFF, e.2.2) else e
    mustsum := t.mustsum - BitVec.ofNat 24 units }
/-- A cut whose granule is zeroed is lost (R491). -/
def Trunk.dropCuts (t : Trunk) (g : Nat) : Trunk := { t with cuts := t.cuts.filter fun c => !c.grans.contains g }
/-- A granule leaves its owner: its drain-list entries and its cut are gone. -/
def Trunk.ownerGone (t : Trunk) (g : Nat) : Trunk := (t.dropDrain g).dropCuts g

end Sys2Proof.Machine
end

