-- ==== Sys2Proof/Machine/Links.lean ====
section
/-!
DEFINITION. The module identifier (R22, R23), the fabric ports (R307, R308, R311, R512), the CXL ports with the pool route
table and poolq (R312-R315), back-invalidation (R313), the module route table (R319).
-/

namespace Sys2Proof.Machine

/-! ## MODID -/

/-- A write of MODID: ignored once VALID is 1 (R23). -/
def State.writeModid (s : State) (v : BitVec 32) : State :=
  if s.trunk.modid.getLsbD 31 then s else s.onTrunk fun t => { t with modid := v &&& 0x8003FFFF }
/-- MODID_WRITE (R23). -/
def execModidWrite (by_ : Writer) (v : BitVec 32) (s : State) : Out := .next (s.written by_ (writerFull by_) (s.writeModid v))

/-! ## Fabric ports -/

/-- A fabric port's register; 0 for a number that names no port. -/
def Trunk.fabport (t : Trunk) (p : Nat) : BitVec 32 := (t.fabports[p]?).getD 0
/-- Change a fabric port's register. -/
def State.onFabport (s : State) (p : Nat) (f : BitVec 32 → BitVec 32) : State :=
  s.onTrunk fun t => { t with fabports := t.fabports.setIfInBounds p (f (t.fabport p)) }
/-- KEEP of a port. -/
def portKeep (r : BitVec 32) : Bool := r.getLsbD 28
/-- Ports other than `p` that stay alive in dormancy. -/
def Trunk.keeps (t : Trunk) (p : Nat) : Nat := ((List.range 36).filter fun i => i != p && portKeep (t.fabport i)).length
/-- A write of fabport (R308); UALink mode is there only where it is announced (R1). -/
def State.writeFabport (s : State) (p : Nat) (v : BitVec 32) : State :=
  let old := s.trunk.fabport p
  let mode := if v.getLsbD 30 || (v.getLsbD 29 && !s.trunk.announces 0x003) then old.extractLsb' 29 2 else v.extractLsb' 29 2
  let keep := if v.getLsbD 28 && decide (4 ≤ s.trunk.keeps p) then portKeep old else v.getLsbD 28
  let up := old.getLsbD 31 && mode = old.extractLsb' 29 2
  s.onFabport p fun _ =>
    BitVec.ofBool up ++ mode ++ BitVec.ofBool keep ++ (0 : BitVec 4) ++ v.extractLsb' 16 8 ++ old.extractLsb' 0 16
/-- FABPORT_WRITE (R308). -/
def execFabportWrite (by_ : Writer) (port : BitVec 6) (v : BitVec 32) (s : State) : Out :=
  .next (s.written by_ (writerFull by_) (s.writeFabport port.toNat v))
/-- A flit that was answered with a NACK is resent over a port (R308): RETRIES counts it, and holds at its top. -/
def State.countRetry (s : State) (p : Nat) : State :=
  s.onFabport p fun r => if r.extractLsb' 0 16 = 0xFFFF then r else r + 1
/-- FABRIC_LINK_TRAINED (R512): not before step 8, not in seedling mode, not while the port is off in dormancy: without KEEP from phase 2
on (R469), with it once the reserve is spent in phase 5 (R470). -/
def execFabricLinkTrained (port : BitVec 6) (s : State) : Out :=
  let t := s.trunk
  let off := (2 ≤ t.phase.toNat && !portKeep (t.fabport port.toNat)) || (t.phase = 5 && !t.charged)
  .next (if (8 ≤ t.step.toNat || t.done) && !t.seedling && !off then
    s.onFabport port.toNat fun r => r ||| 0x80000000 else s)
/-- PORT_MODULE_LOSES_VALID (R311): the agent's words go back to HBM, where every access already sees them (R310). -/
def execPortModuleLosesValid (_port : BitVec 6) (s : State) : Out := .next s

/-! ## The capacity tier -/

/-- The writable bits of poolrte. -/
def poolrteMask : BitVec 64 := 0xC01FFFFF001FFFFF
/-- A write of poolrte: ignored while the entry is severed, and where no capacity tier is announced (R312, R1). -/
def State.writePoolrte (s : State) (n : Nat) (v : BitVec 64) : State :=
  if rteSevered (smGet 0 n s.trunk.poolrte) || !s.trunk.announces 0x002 then s
  else s.onTrunk fun t => { t with poolrte := smSet 0 n (v &&& poolrteMask) t.poolrte }
/-- The port of an entry. -/
def rtePort (e : BitVec 64) : Nat := if e.getLsbD 62 then 1 else 0
/-- Whether the entry that governs a line meets a test. -/
def Trunk.lineBy (t : Trunk) (blk : Nat) (f : Nat × BitVec 64 → Bool) : Bool := (t.route (regionOf (blk * 64))).any f

/-- End one request to a severed region: value 0, poison, record 0x27 code 2; the write of an atomic is indeterminate. -/
def State.severRequest (s : State) (c : CoreNum) (id : Nat) : State :=
  let x := (s.core c).ctx
  match x.request? id with
  | some (hand, p) =>
    let y := x.completeWith hand p (x.noResult p)
    (s.onCore c fun k => { k with ctx := if p.atomic then y.loseWrite p.id p.addr else y }).power x.part
      { type := 0x27, code := 2, grove := (groveOf c).toNat, core := c.toNat, value := p.addr.toNat, lid := x.lid.toNat } x.boot
  | none => s
/-- Whether an address of a context now lies in a severed region; no permission is asked. -/
def State.severedAt (s : State) (x : Ctx) (a : BitVec 56) : Bool :=
  match (s.xlate { x.agent with free := true, tlb := false } .read (a.setWidth 64)).1 with
  | .error (.trap cause _) => cause = 0x0B
  | _ => false
/-- The writes of a context to severed regions whose acknowledgements are outstanding are indeterminate (R314, R230). -/
def State.severWrites (s : State) (x : Ctx) : Ctx :=
  let bad := x.acks.filter fun a => s.severedAt x a.addr
  bad.foldl (fun y a => y.loseWrite a.id a.addr) x
/-- Whether some piece of a request lies in a severed region: one that crosses a page has its last byte in the second. -/
def State.severedRequest (s : State) (x : Ctx) (p : Pend) : Bool :=
  s.severedAt x p.addr || (decide (2 ≤ p.way.via.length) && s.severedAt x (p.addr + 7))
/-- End what is outstanding to severed regions from one core (R314). -/
def State.severCore (s : State) (c : CoreNum) : State :=
  let x := (s.core c).ctx
  let gone := (x.task.board ++ x.hand.board).filter fun p => p.way.site.isSome && s.severedRequest x p
  let s := gone.foldl (fun s p => s.severRequest c p.id) s
  s.onCore c fun k => { k with ctx := s.severWrites k.ctx }
/-- The same for the contexts that are saved, whose requests are complete. -/
def State.severSaved (s : State) : State :=
  { s with tasks := s.tasks.map fun t => { t with ctx := s.severWrites t.ctx } }
/-- CXL_LINK_LOSS (R314). -/
def execCxlLinkLoss (port : BitVec 1) (s : State) : Out :=
  let hit (e : BitVec 64) : Bool := e.getLsbD 63 && !rteSevered e && rtePort e == port.toNat
  .next (if !s.trunk.cxlUp.getLsbD port.toNat then s
  else
    let cut := s.trunk.poolrte.filter fun e => hit e.2
    let s := s.onTrunk fun t => { t with
      cxlUp := t.cxlUp &&& ~~~(1#2 <<< port.toNat)
      poolrte := t.poolrte.map fun e => if hit e.2 then (e.1, e.2 ||| 0x2000000000000000) else e }
    let held := s.mem.dirty.filter fun e => s.trunk.lineBy e.1 fun r => rteSevered r.2
    let s := s.onMem fun m => { m with
      dirty := m.dirty.filter fun e => !(held.any fun h => h.1 == e.1)
      quarantine := held.foldl (fun q e => smPut e.1 e.2 q) m.quarantine }
    let s := ((s.cores.filter fun e => e.2.busy).foldl (fun s e => s.severCore (BitVec.ofNat 8 e.1)) s).severSaved
    cut.foldl (fun s e =>
      let first := poolBase + (e.2.extractLsb' 0 21).toNat * 0x40000000
      let n := (e.2.extractLsb' 32 21).toNat + 1
      s.errRecord none { type := 0x34, code := e.1, site := 5, addr := first, value := n }) s)
/-- CXL_LINK_TRAINED (R315): the port is up where the capacity tier is there (R312, R504); entries stay severed (R314). -/
def execCxlLinkTrained (port : BitVec 1) (s : State) : Out :=
  .next (if s.trunk.announces 0x002 then s.onTrunk fun t => { t with cxlUp := t.cxlUp ||| (1#2 <<< port.toNat) } else s)
/-- Another sharer's write to a line at the pool device, which the undo log no longer restores (R313, R459). -/
def State.sharerWrite (s : State) (blk : Nat) (w : Option (BitVec 6 × List (BitVec 8))) : State :=
  match w with
  | none => s
  | some (off, data) => (s.onMem fun m => m.putBlock (blk * 64 + off.toNat) (data.take (64 - off.toNat)) false).forgetUndo (blk * 64) 64
/-- BACK_INVALIDATION_SNOOP (R313): a dirty copy of the line is returned to the pool device; then the sharer that asked for the line
may write it there (R324). No snoop reaches the module over a link that is down. -/
def execBackInvalidationSnoop (line : Snoop) (s : State) : Out :=
  let blk := blockOf line.line.toNat
  .next (if target line.line.toNat ≠ .pool || s.trunk.lineBy blk (fun r => rteSevered r.2) then s
  else
    let s := match s.mem.line? blk with
      | some l => (s.onMem fun m => m.writeBack blk).send (.fabricData l.data (finding l.check).bad)
      | none => s
    s.sharerWrite blk line.write)

/-- The entry that poolq names. -/
def Trunk.poolqEntry (t : Trunk) : Nat := (t.poolq.extractLsb' 0 8).toNat
/-- poolq's fields after an operation ends or begins. -/
def poolqWord (busy : Bool) (result : BitVec 4) (entry : BitVec 8) : BitVec 64 :=
  (0 : BitVec 8) ++ BitVec.ofBool busy ++ (0 : BitVec 3) ++ result ++ (0 : BitVec 40) ++ entry
/-- Whether an operation on an entry fails (R315): 1 the port is not up, for OP 1; 2 the entry is not severed. -/
def Trunk.poolqError (t : Trunk) (op : BitVec 2) (n : Nat) : BitVec 4 :=
  let e := smGet 0 n t.poolrte
  if !rteSevered e then 2 else if op = 1 && !t.cxlUp.getLsbD (rtePort e) then 1 else 0
/-- A write of poolq (R315): ignored while busy, and without a capacity tier; the operation runs until POOLQ_DONE. -/
def State.writePoolq (s : State) (v : BitVec 64) : State :=
  let t := s.trunk
  let op := v.extractLsb' 62 2
  let entry := v.setWidth 8
  if t.poolOp.isSome || !t.announces 0x002 then s
  else if op = 0 || op = 3 then s.onTrunk fun t => { t with poolq := poolqWord false (t.poolq.extractLsb' 48 4) entry }
  else
    let e := t.poolqError op entry.toNat
    if e ≠ 0 then s.onTrunk fun t => { t with poolq := poolqWord false e entry }
    else s.onTrunk fun t => { t with poolq := poolqWord true 0 entry, poolOp := some op }
/-- POOLQ_WRITE_BACK (R315). -/
def execPoolqWriteBack (by_ : Writer) (v : BitVec 64) (s : State) : Out :=
  .next (s.written by_ (writerFull by_ && v.extractLsb' 62 2 = 1) (s.writePoolq v))
/-- POOLQ_DISCARD (R315). -/
def execPoolqDiscard (by_ : Writer) (v : BitVec 64) (s : State) : Out :=
  .next (s.written by_ (writerFull by_ && v.extractLsb' 62 2 = 2) (s.writePoolq v))
/-- Write a quarantined line to the pool device. -/
def Mem.releaseLine (m : Mem) (e : Nat × Line) : Mem := m.storeLine e.1 e.2
/-- Whether a line lies in the regions of a route entry (R312). -/
def rteHolds (e : BitVec 64) (blk : Nat) : Bool :=
  let r := regionOf (blk * 64)
  decide ((e.extractLsb' 0 21).toNat ≤ r) && decide (r ≤ (e.extractLsb' 0 21).toNat + (e.extractLsb' 32 21).toNat)
/-- POOLQ_DONE (R315): OP 1 writes the lines of the entry's regions to the device, OP 2 drops them; both clear SEVERED. -/
def execPoolqDone (s : State) : Out :=
  let t := s.trunk
  let n := t.poolqEntry
  .next (match t.poolOp with
  | none => s
  | some op =>
    let e := t.poolqError op n
    let s := s.onTrunk fun t => { t with poolOp := none, poolq := poolqWord false e (BitVec.ofNat 8 n) }
    if e ≠ 0 then s
    else
      let lines := s.mem.quarantine.filter fun l => rteHolds (smGet 0 n t.poolrte) l.1
      let s := s.onMem fun m =>
        let m := if op = 1 then lines.foldl Mem.releaseLine m else m
        { m with quarantine := m.quarantine.filter fun l => !(lines.any fun h => h.1 == l.1) }
      s.onTrunk fun t => { t with poolrte := smSet 0 n (smGet 0 n t.poolrte &&& ~~~0x2000000000000000) t.poolrte })

/-! ## The module route table -/

/-- The writable bits of the upper word of a route entry (R319). -/
def routeMask : BitVec 64 := 0xC000000FFFFFFFFF
/-- A write of one 8-byte word of a route entry, on a module that announces Ethernet ports (R1). -/
def State.writeRoute (s : State) (n : Nat) (hi : Bool) (v : BitVec 64) : State :=
  if !s.trunk.announces 0x004 then s else
  let e := smGet 0 n s.trunk.routes
  let e := if hi then (v &&& routeMask) ++ e.setWidth 64 else e.extractLsb' 64 64 ++ v
  s.onTrunk fun t => { t with routes := smSet 0 n e t.routes }
end Sys2Proof.Machine
end

