-- ==== Sys2Proof/Machine/Flags.lean ====
section
/-!
DEFINITION. The sticky flags of arflags (R119) and the integer results that set SAT (R94).
-/

namespace Sys2Proof.Machine

/-- Inexact. -/
def flNX : BitVec 7 := 0x01
/-- Underflow. -/
def flUF : BitVec 7 := 0x02
/-- Overflow. -/
def flOF : BitVec 7 := 0x04
/-- Division by zero. -/
def flDZ : BitVec 7 := 0x08
/-- Invalid operation. -/
def flNV : BitVec 7 := 0x10
/-- An integer result saturated. -/
def flSAT : BitVec 7 := 0x20
/-- An FX96 conversion met a sum out of range. -/
def flFXOV : BitVec 7 := 0x40

/-- An integer result of a width (R94): wrapped, or saturated with SAT. -/
def intResult (w : Nat) (signed sat : Bool) (x : Int) : Nat × BitVec 7 :=
  let lo : Int := if signed then -(2 ^ (w - 1) : Nat) else 0
  let hi : Int := if signed then (2 ^ (w - 1) : Nat) - 1 else (2 ^ w : Nat) - 1
  let wrap (y : Int) : Nat := (y % (2 ^ w : Nat)).toNat
  if sat then (if x < lo then (wrap lo, flSAT) else if hi < x then (wrap hi, flSAT) else (wrap x, 0))
  else (wrap x, 0)

end Sys2Proof.Machine
end

