-- ==== Sys2Proof/Machine/Float.lean ====
section
/-!
DEFINITION. The floating-point formats (R96), their values and NaNs (R99), one rounding of an exact value (R104-R109), and the
operations that form exact results. An exact value is an integer times a power of two.
-/

namespace Sys2Proof.Machine

/-- How a format uses its top codes: as IEEE, as E4M3, or every code a number. -/
inductive FStyle where
  | ieee | e4m3 | plain
  deriving DecidableEq, Repr

/-- A floating-point format: exponent bits, mantissa bits, style (R96). -/
structure FFmt where
  eb : Nat
  mb : Nat
  style : FStyle
  deriving DecidableEq, Repr

/-- FP64. -/
def fp64 : FFmt := ⟨11, 52, .ieee⟩
/-- FP32. -/
def fp32 : FFmt := ⟨8, 23, .ieee⟩
/-- FP16. -/
def fp16 : FFmt := ⟨5, 10, .ieee⟩
/-- BF16. -/
def bf16 : FFmt := ⟨8, 7, .ieee⟩
/-- FP8 E4M3. -/
def e4m3 : FFmt := ⟨4, 3, .e4m3⟩
/-- FP8 E5M2. -/
def e5m2 : FFmt := ⟨5, 2, .ieee⟩
/-- E2M1. -/
def e2m1 : FFmt := ⟨2, 1, .plain⟩

/-- The exponent bias. -/
def FFmt.bias (f : FFmt) : Nat := 2 ^ (f.eb - 1) - 1
/-- The width in bits. -/
def FFmt.width (f : FFmt) : Nat := 1 + f.eb + f.mb
/-- The code of the largest finite magnitude. -/
def FFmt.maxCode (f : FFmt) : Nat :=
  match f.style with
  | .ieee => (2 ^ f.eb - 1) * 2 ^ f.mb - 1
  | .e4m3 => 2 ^ (f.eb + f.mb) - 2
  | .plain => 2 ^ (f.eb + f.mb) - 1
/-- The code of +∞ (IEEE styles). -/
def FFmt.infCode (f : FFmt) : Nat := (2 ^ f.eb - 1) * 2 ^ f.mb
/-- The canonical NaN (R99); E2M1 has none and gives +0. -/
def FFmt.nanCode (f : FFmt) : Nat :=
  match f.style with
  | .ieee => f.infCode + 2 ^ (f.mb - 1)
  | .e4m3 => 0x7F
  | .plain => 0
/-- The poison pattern (R99); a format without one holds zero and relies on its side bit (R100). -/
def FFmt.poisonCode (f : FFmt) : Nat :=
  match f.style with
  | .ieee => f.infCode + 2 ^ (f.mb - 1) + 2 ^ (f.mb - 2)
  | _ => 0
/-- The sign bit of a code. -/
def FFmt.signBit (f : FFmt) (x : Nat) : Bool := x / 2 ^ (f.eb + f.mb) % 2 = 1

/-- A value of a format: (−1)^neg × m × 2^e, an infinity, an ordinary NaN or poison. -/
inductive FVal where
  | fin (neg : Bool) (m : Nat) (e : Int)
  | inf (neg : Bool)
  | nan
  | poison
  deriving DecidableEq, Repr

/-- Read a code (R96, R99). -/
def FFmt.unpack (f : FFmt) (x : Nat) : FVal :=
  let neg := f.signBit x
  let e := x / 2 ^ f.mb % 2 ^ f.eb
  let m := x % 2 ^ f.mb
  let top := e = 2 ^ f.eb - 1
  if f.style = .ieee ∧ top then
    if m = 0 then .inf neg else if 3 ≤ m / 2 ^ (f.mb - 2) then .poison else .nan
  else if f.style = .e4m3 ∧ top ∧ m = 2 ^ f.mb - 1 then .nan
  else if e = 0 then .fin neg m (1 - (f.bias : Int) - f.mb)
  else .fin neg (2 ^ f.mb + m) ((e : Int) - f.bias - f.mb)

/-- A rounding mode (R104); stochastic carries its 16 random bits (R106). -/
inductive RMode where
  | rn | rz | rp | rm
  | rs (r : Nat)
  deriving DecidableEq, Repr

/-- The mode of a two-bit code. -/
def rmode (r : BitVec 2) : RMode :=
  if r = 0 then .rn else if r = 1 then .rz else if r = 2 then .rp else .rm

/-- Whether a magnitude with quotient `q` and discarded part `rem` of `2^sh` rounds away from zero (R104, R106). -/
def roundsUp (mode : RMode) (neg : Bool) (q rem sh : Nat) : Bool :=
  match mode with
  | .rn => decide (2 ^ sh < 2 * rem) || (decide (2 * rem = 2 ^ sh) && q % 2 = 1)
  | .rz => false
  | .rp => !neg && decide (rem ≠ 0)
  | .rm => neg && decide (rem ≠ 0)
  | .rs r => decide (r < rem * 65536 / 2 ^ sh)

/-- A result code with its sign, and its flags. -/
abbrev FRes := Nat × BitVec 7

/-- The code of a signed magnitude code. -/
def FFmt.sign (f : FFmt) (neg : Bool) (code : Nat) : Nat := (if neg then 2 ^ (f.eb + f.mb) else 0) + code

/-- What a finite result beyond the largest magnitude becomes (R108). -/
def FFmt.overflow (f : FFmt) (mode : RMode) (neg : Bool) : FRes :=
  let toInf := match f.style, mode with
    | .ieee, .rn => true
    | .ieee, .rp => !neg
    | .ieee, .rm => neg
    | _, _ => false
  (f.sign neg (if toInf then f.infCode else f.maxCode), flOF ||| flNX)

/-- Round the exact value (−1)^neg × m × 2^e once into a format (R105-R109). -/
def FFmt.round (f : FFmt) (mode : RMode) (neg : Bool) (m : Nat) (e : Int) : FRes :=
  if m = 0 then (f.sign neg 0, 0) else
  let top : Int := (m.log2 : Int) + e
  let emin : Int := 1 - (f.bias : Int)
  let big := if top < emin then emin else top
  let q : Int := big - f.mb
  let sh := (q - e).toNat
  let base := if e ≤ q then m / 2 ^ sh else m * 2 ^ (e - q).toNat
  let rem := if e ≤ q then m % 2 ^ sh else 0
  let r := if rem ≠ 0 && roundsUp mode neg base rem sh then base + 1 else base
  -- the magnitude's code: a carry into the exponent comes out of the addition
  let code := (big - emin).toNat * 2 ^ f.mb + r
  if f.maxCode < code then f.overflow mode neg
  else
    let inexact := rem ≠ 0
    let tiny := code < 2 ^ f.mb
    (f.sign neg code, (if inexact then flNX else 0) ||| (if inexact && tiny then flUF else 0))

/-- An exact sum's value as sign and magnitude: an exact zero takes the sign `z`. -/
def FFmt.roundInt (f : FFmt) (mode : RMode) (z : Bool) (i : Int) (e : Int) : FRes :=
  if i = 0 then (f.sign z 0, 0) else f.round mode (i < 0) i.natAbs e

/-- The signed integer of a finite value. -/
def signed (neg : Bool) (m : Nat) : Int := if neg then -(m : Int) else m

/-- i × 2^e + j × 2^d, as an integer times 2 to the smaller exponent. -/
def dyAdd (i : Int) (e : Int) (j : Int) (d : Int) : Int × Int :=
  let lo := if e ≤ d then e else d
  (i * 2 ^ (e - lo).toNat + j * 2 ^ (d - lo).toNat, lo)

/-- An invalid operation: the canonical NaN and NV. -/
def FFmt.invalid (f : FFmt) : FRes := (f.nanCode, flNV)
/-- A result that is a NaN because an operand is. -/
def FFmt.quiet (f : FFmt) : FRes := (f.nanCode, 0)

/-- The sum of two values, rounded once (R105); the sign of an exact zero sum follows IEEE 754. -/
def FFmt.addV (f : FFmt) (mode : RMode) (x y : FVal) : FRes :=
  match x, y with
  | .poison, _ | _, .poison => (f.poisonCode, 0)
  | .nan, _ | _, .nan => f.quiet
  | .inf a, .inf b => if a = b then (f.sign a f.infCode, 0) else f.invalid
  | .inf a, _ | _, .inf a => (f.sign a f.infCode, 0)
  | .fin a m e, .fin b n d =>
    let (i, lo) := dyAdd (signed a m) e (signed b n) d
    f.roundInt mode (if m = 0 && n = 0 && a = b then a else mode == .rm) i lo

/-- The value with its sign inverted. -/
def FVal.neg : FVal → FVal
  | .fin a m e => .fin (!a) m e
  | .inf a => .inf (!a)
  | v => v

/-- The product of two values, rounded once. -/
def FFmt.mulV (f : FFmt) (mode : RMode) (x y : FVal) : FRes :=
  match x, y with
  | .poison, _ | _, .poison => (f.poisonCode, 0)
  | .nan, _ | _, .nan => f.quiet
  | .inf a, .inf b => (f.sign (a ^^ b) f.infCode, 0)
  | .inf a, .fin b m _ | .fin b m _, .inf a => if m = 0 then f.invalid else (f.sign (a ^^ b) f.infCode, 0)
  | .fin a m e, .fin b n d => f.round mode (a ^^ b) (m * n) (e + d)

/-- An infinite product added to a value. -/
def FFmt.infPlus (f : FFmt) (c : FVal) (neg : Bool) : FRes :=
  match c with
  | .inf b => if b = neg then (f.sign neg f.infCode, 0) else f.invalid
  | _ => (f.sign neg f.infCode, 0)

/-- c + x × y, rounded once. A NaN addend keeps the result quiet (log 15). -/
def FFmt.fmaV (f : FFmt) (mode : RMode) (c x y : FVal) : FRes :=
  match c, x, y with
  | .poison, _, _ | _, .poison, _ | _, _, .poison => (f.poisonCode, 0)
  | .nan, _, _ | _, .nan, _ | _, _, .nan => f.quiet
  | c, .inf a, .inf b => f.infPlus c (a ^^ b)
  | c, .inf a, .fin b m _ | c, .fin b m _, .inf a => if m = 0 then f.invalid else f.infPlus c (a ^^ b)
  | .inf c, .fin .., .fin .. => (f.sign c f.infCode, 0)
  | .fin c k g, .fin a m e, .fin b n d =>
    let p := a ^^ b
    let (i, lo) := dyAdd (signed c k) g (signed p (m * n)) (e + d)
    f.roundInt mode (if k = 0 && m * n = 0 && c = p then c else mode == .rm) i lo
/-- Whether x < y of two values that are not NaN; +0 and −0 are equal. -/
def FVal.lt (x y : FVal) : Bool :=
  match x, y with
  | .inf a, .inf b => a && !b
  | .inf a, _ => a
  | _, .inf b => !b
  | .fin a m e, .fin b n d =>
    let (i, _) := dyAdd (signed a m) e (-signed b n) d
    decide (i < 0)
  | _, _ => false
/-- Whether x = y of two values that are not NaN. -/
def FVal.eq (x y : FVal) : Bool :=
  match x, y with
  | .inf a, .inf b => a = b
  | .fin a m e, .fin b n d =>
    let (i, _) := dyAdd (signed a m) e (-signed b n) d
    decide (i = 0)
  | _, _ => false
/-- An ordinary NaN. -/
def FVal.isNan : FVal → Bool
  | .nan => true
  | _ => false
/-- Poison. -/
def FVal.isPoison : FVal → Bool
  | .poison => true
  | _ => false
/-- The sign of a value. -/
def FVal.sign : FVal → Bool
  | .fin a _ _ => a
  | .inf a => a
  | _ => false

/-- Lesser or greater of two codes (R133): −0 is less than +0, one NaN gives the other operand, two the canonical NaN. -/
def FFmt.minmax (f : FFmt) (greater : Bool) (x y : Nat) : Nat :=
  let u := f.unpack x
  let v := f.unpack y
  if u.isNan && v.isNan then f.nanCode else if u.isNan then y else if v.isNan then x
  else
    let less := u.lt v || (u.eq v && u.sign && !v.sign)
    if greater then (if less then y else x) else (if less then x else y)

/-- Convert a value into a format (R105, R108, R98). -/
def FFmt.ofVal (f : FFmt) (mode : RMode) (v : FVal) : FRes :=
  match v with
  | .poison => (f.poisonCode, 0)
  | .nan => if f.style = .plain then (0, flNV) else (f.nanCode, 0)
  | .inf a => if f.style = .ieee then (f.sign a f.infCode, 0) else (f.sign a f.maxCode, flNV)
  | .fin a m e => f.round mode a m e

/-- Round an exact value to an integer (R104): the integer, and whether it differs. -/
def roundToInt (mode : RMode) (neg : Bool) (m : Nat) (e : Int) : Int × Bool :=
  if 0 ≤ e then (signed neg (m * 2 ^ e.toNat), false)
  else
    let sh := (-e).toNat
    let q := m / 2 ^ sh
    let rem := m % 2 ^ sh
    (signed neg (if rem ≠ 0 && roundsUp mode neg q rem sh then q + 1 else q), rem ≠ 0)

/-- Convert a value into an integer of a width (R107): the nearest bound and NV out of range, 0 and NV for a NaN. -/
def toInteger (w : Nat) (sgn : Bool) (mode : RMode) (v : FVal) : Int × BitVec 7 :=
  let lo : Int := if sgn then -(2 ^ (w - 1) : Nat) else 0
  let hi : Int := if sgn then (2 ^ (w - 1) : Nat) - 1 else (2 ^ w : Nat) - 1
  match v with
  | .poison => (0, 0)
  | .nan => (0, flNV)
  | .inf a => (if a then lo else hi, flNV)
  | .fin a m e =>
    let (i, inexact) := roundToInt mode a m e
    if i < lo then (lo, flNV) else if hi < i then (hi, flNV) else (i, if inexact then flNX else 0)

/-- Convert an integer into a format (R107). -/
def FFmt.ofInt (f : FFmt) (mode : RMode) (i : Int) : FRes := f.roundInt mode false i 0

end Sys2Proof.Machine
end

