-- ==== Sys2Proof/Machine/Operands.lean ====
section
/-!
DEFINITION. The operand forms of the slots: which tags stop an instruction (R49, R122, R138, R190, R192), what a poison source
makes of a result (R122), immediates and offsets (R61), and the results of each slot.
-/

namespace Sys2Proof.Machine

/-! ## Checks of tags -/

/-- The detail word that names a specifier (R426). -/
def specDetail (r : Reg) : BitVec 64 := r.setWidth 64
/-- The detail word that names a vector lane (R426). -/
def laneDetail (r : Reg) (lane : Nat) : BitVec 64 := r.setWidth 64 ||| 0x40#64 ||| (BitVec.ofNat 64 lane <<< 8)

/-- The first operand, in the order listed, whose tag a test holds. -/
def firstTag (p : TVal → Bool) : List (Reg × TVal) → Option Reg
  | [] => none
  | (r, v) :: t => if p v then some r else firstTag p t

/-- Continue unless a source is deferred (R49). -/
def State.needs (s : State) (ops : List (Reg × TVal)) (k : SlotOut) : SlotOut :=
  match firstTag TVal.deferred ops with
  | some r => .trap s 0x03 (specDetail r)
  | none => k
/-- Continue unless a source is deferred, or poison: then the cause given, 0x04 or 0x05 (R138, R190, R192). -/
def State.needsClean (s : State) (cause : BitVec 8) (ops : List (Reg × TVal)) (k : SlotOut) : SlotOut :=
  s.needs ops
    (match firstTag TVal.poison ops with
    | some r => .trap s cause (specDetail r)
    | none => k)

/-! ## Slot A -/

/-- A slot A source with its specifier. -/
def State.srcA (s : State) (r : Reg) : Reg × TVal := (r, s.thr.readA r)
/-- A slot B source with its specifier. -/
def State.srcB (s : State) (r : Reg) : Reg × TVal := (r, s.thr.readB r)
/-- A slot D scalar source with its specifier. -/
def State.srcD (s : State) (r : Reg) : Reg × TVal := (r, s.thr.readD r)

/-- Write a slot A result. -/
def State.putA (s : State) (lat : Nat) (d : Reg) (v : TVal) (fl : BitVec 7 := 0) : SlotOut :=
  .done (s.land lat (destA d) (.scalar v) fl)
/-- Write a slot B fixed-latency result. -/
def State.putB (s : State) (lat : Nat) (d : Reg) (v : TVal) : SlotOut := .done (s.land lat (destB d) (.scalar v))
/-- Write a slot D scalar result. -/
def State.putD (s : State) (lat : Nat) (d : Reg) (v : TVal) : SlotOut := .done (s.land lat (destD d) (.scalar v))

/-- An integer result of one source (R122). -/
def State.intA1 (s : State) (lat : Nat) (d a : Reg) (f : BitVec 64 → BitVec 64) : SlotOut :=
  let x := s.thr.readA a
  s.needs [(a, x)] (s.putA lat d (if x.poison then .bad else .clean (f x.val)))
/-- An integer result of two sources (R122). -/
def State.intA2 (s : State) (lat : Nat) (d a b : Reg) (f : BitVec 64 → BitVec 64 → BitVec 64) : SlotOut :=
  let x := s.thr.readA a
  let y := s.thr.readA b
  s.needs [(a, x), (b, y)] (s.putA lat d (if x.poison || y.poison then .bad else .clean (f x.val y.val)))
/-- An integer result of two sources and of the destination, which is read (R128). -/
def State.intA3 (s : State) (lat : Nat) (d a b : Reg) (f : BitVec 64 → BitVec 64 → BitVec 64 → BitVec 64) : SlotOut :=
  let x := s.thr.readA a
  let y := s.thr.readA b
  let z := s.thr.readA d
  s.needs [(a, x), (b, y), (d, z)]
    (s.putA lat d (if x.poison || y.poison || z.poison then .bad else .clean (f x.val y.val z.val)))

/-! ## Floating-point sources and results of slot A -/

/-- A source in a format: the bits above its width are ignored, and a poison tag is poison (R122, R123). -/
def FFmt.source (f : FFmt) (v : TVal) : FVal := if v.poison then .poison else f.unpack (v.val.toNat % 2 ^ f.width)
/-- The exposed latency of a format's scalar forms (R43). -/
def FFmt.latency (f : FFmt) : Nat := if f.eb = 11 then 6 else 4
/-- A floating-point result, zero-extended (R122, R123). -/
def FFmt.result (f : FFmt) (bad : Bool) (r : FRes) : TVal × BitVec 7 :=
  if bad then (⟨BitVec.ofNat 64 f.poisonCode, 2⟩, 0) else (.clean (BitVec.ofNat 64 r.1), r.2)

/-- A floating-point result of one source's code. -/
def State.fpA1 (s : State) (f : FFmt) (d a : Reg) (op : Nat → FRes) : SlotOut :=
  let x := s.thr.readA a
  let r := f.result (f.source x).isPoison (op (x.val.toNat % 2 ^ f.width))
  s.needs [(a, x)] (s.putA f.latency d r.1 r.2)
/-- A floating-point result of two sources. -/
def State.fpA2 (s : State) (f : FFmt) (d a b : Reg) (op : FVal → FVal → FRes) : SlotOut :=
  let x := s.thr.readA a
  let y := s.thr.readA b
  let u := f.source x
  let v := f.source y
  let r := f.result (u.isPoison || v.isPoison) (op u v)
  s.needs [(a, x), (b, y)] (s.putA f.latency d r.1 r.2)
/-- A floating-point result of two sources and of the destination, which is read. -/
def State.fpA3 (s : State) (f : FFmt) (d a b : Reg) (op : FVal → FVal → FVal → FRes) : SlotOut :=
  let x := s.thr.readA a
  let y := s.thr.readA b
  let z := s.thr.readA d
  let u := f.source x
  let v := f.source y
  let w := f.source z
  let r := f.result (u.isPoison || v.isPoison || w.isPoison) (op u v w)
  s.needs [(a, x), (b, y), (d, z)] (s.putA f.latency d r.1 r.2)
/-- A compare of two floating-point sources: an integer result, and NV where the form signals on a NaN (R133). -/
def State.fpCmp (s : State) (f : FFmt) (d a b : Reg) (signals : Bool) (rel : FVal → FVal → Bool) : SlotOut :=
  let x := s.thr.readA a
  let y := s.thr.readA b
  let u := f.source x
  let v := f.source y
  let bad := u.isPoison || v.isPoison
  let fl := if !bad && signals && (u.isNan || v.isNan) then flNV else 0
  s.needs [(a, x), (b, y)] (s.putA f.latency d (if bad then .bad else .clean (if rel u v then 1 else 0)) fl)

/-! ## Immediates and offsets -/

/-- The byte that HDR.X lends to slot B or C of the bundle in issue (R59, R61). -/
def Thread.lent (t : Thread) (slot : Slot) : Option (BitVec 8) :=
  match t.issue with
  | some i => if isHdrX i.wa then some (headerByte i.wa slot) else none
  | none => none
/-- ImmValue of a signed immediate (R61). -/
def Thread.immS (t : Thread) (slot : Slot) (imm : BitVec 16) : BitVec 64 :=
  match t.lent slot with
  | some x => (x ++ imm).signExtend 64
  | none => imm.signExtend 64
/-- OffValue (R61). -/
def Thread.offB (t : Thread) (off : BitVec 10) (z : BitVec 2) : BitVec 64 :=
  let raw : BitVec 64 := match t.lent .b with
    | some x => (x ++ off).signExtend 64
    | none => off.signExtend 64
  raw <<< z.toNat

/-! ## Vectors -/

/-- The lowest lane of a mask, if any. -/
def lowLane (m : BitVec 64) : Option Nat := (List.range 64).find? fun i => m.getLsbD i
/-- The lowest active lane of a register that is deferred: its flag is set and the lane's side bit is 1 (R49, R50). -/
def VReg.deferredLane (v : VReg) (active : BitVec 64) : Option Nat :=
  if v.spec then lowLane (v.side &&& active) else none
/-- Continue unless an active lane of a source is deferred (R49). -/
def State.needsV (s : State) (active : BitVec 64) (ops : List (Reg × VReg)) (k : SlotOut) : SlotOut :=
  match ops.findSome? fun p => (p.2.deferredLane active).map fun n => (p.1, n) with
  | some (r, n) => .trap s 0x03 (laneDetail r n)
  | none => k
/-- A slot C source with its specifier. -/
def State.srcC (s : State) (r : Reg) : Reg × VReg := (r, s.ctx.vec.read r)
/-- A scalar position of slot C: an allotted port's 64-bit value, zero, or lane 0 of a slot C register (R145). -/
def State.portC (s : State) (r : Reg) : Option TVal :=
  if 20 ≤ r.toNat && r.toNat ≤ 22 then some (s.thr.port (r.toNat - 20)) else none
/-- Write the active lanes of a slot C fixed-latency vector result. -/
def State.putC (s : State) (lat : Nat) (d : Reg) (v : VReg) (lanes : BitVec 64) (fl : BitVec 7 := 0) : SlotOut :=
  .done (s.land lat (destC d) (.vec v lanes) fl)
/-- Write a lane-mask result. -/
def State.putK (s : State) (lat : Nat) (d : Reg) (m : BitVec 64) (fl : BitVec 7 := 0) : SlotOut :=
  .done (s.land lat (.k (fin3 (d.setWidth 3))) (.mask m) fl)

end Sys2Proof.Machine
end

