-- ==== Sys2Proof/Machine/LocalMem.lean ====
section
/-!
DEFINITION. A core's own accesses to its scratchpad: the checks of R260, scratchpad maps with their fills, dirty blocks and
write-backs (R209-R211, R281-R284, R400), and the remote-scratchpad addresses of R204.
-/

namespace Sys2Proof.Machine

/-! ## Maps -/

/-- The virtual address of a region byte (R281). -/
def MapDesc.va (d : MapDesc) (j : Nat) : BitVec 64 :=
  let v := d.vbase.setWidth 64
  let r := j / d.rowb.toNat
  let a := if d.rowb = 0 then v + BitVec.ofNat 64 j
    else v + BitVec.ofNat 64 (j % d.rowb.toNat) + BitVec.ofNat 64 (r % d.e1.toNat) * d.s1 +
      BitVec.ofNat 64 (r / d.e1.toNat) * d.s2
  (a.setWidth 56).setWidth 64
/-- Whether a map's region holds a scratchpad byte. -/
def MapDesc.covers (d : MapDesc) (a : Nat) : Bool := decide (d.spbase.toNat ≤ a) && decide (a < d.spbase.toNat + d.len.toNat)
/-- The bound map whose region holds a scratchpad byte; regions never overlap (R209). -/
def Ctx.mapAt (c : Ctx) (a : Nat) : Option (Fin 16 × MapDesc) :=
  (List.finRange 16).findSome? fun i =>
    match (c.maps[i]).desc with
    | some d => if d.covers a then some (i, d) else none
    | none => none
/-- A granule of a map unit, if it is filled. -/
def MapUnit.gran? (m : MapUnit) (g : Nat) : Option Granule := (m.grans.find? fun e => e.1 == g).map (·.2)
/-- Change a map unit of the context whose turn it is. -/
def State.onMap (s : State) (i : Fin 16) (f : MapUnit → MapUnit) : State :=
  s.onCtx fun c => { c with maps := c.maps.set i (f c.maps[i]) }
/-- The number of the granule that holds a byte of a region. -/
def MapDesc.granOf (d : MapDesc) (a : Nat) : Nat := (a - d.spbase.toNat) / 4096
/-- The number of the 64-byte block within its granule. -/
def MapDesc.blockIn (d : MapDesc) (a : Nat) : Nat := (a - d.spbase.toNat) % 4096 / 64

/-- Insert a block in ascending order of virtual address. -/
def insVa (x : Nat × BitVec 64) : List (Nat × BitVec 64) → List (Nat × BitVec 64)
  | [] => [x]
  | y :: t => if x.2.toNat < y.2.toNat then x :: y :: t else y :: insVa x t
/-- The blocks of a granule with their virtual addresses, the lowest address first: a fault names the lowest (R284). -/
def MapDesc.blocks (d : MapDesc) (g : Nat) : List (Nat × BitVec 64) :=
  ((List.range 64).map fun i => (i, d.va (g * 4096 + i * 64))).foldr insVa []

/-- Translate blocks of 64 bytes (R400). -/
def State.xlateBlocks (s : State) (a : Agent) (k : Kind) :
    List (Nat × BitVec 64) → Except Stop (List (Nat × List (Xlat × Nat))) × State
  | [] => (.ok [], s)
  | (i, va) :: t =>
    match s.xlateSpan a k va 64 with
    | (.error e, s) => (.error e, s)
    | (.ok xs, s) =>
      match s.xlateBlocks a k t with
      | (.error e, s) => (.error e, s)
      | (.ok r, s) => (.ok ((i, xs) :: r), s)

/-- Read the translated blocks of a granule into the scratchpad, with a mark on each block that reads as poison. -/
def State.fillBlocks (s : State) (part : PartNum) (base : Nat) : List (Nat × List (Xlat × Nat)) → State
  | [] => s
  | (i, xs) :: t =>
    let (l, bad, s) := s.readPieces part xs
    (s.writeSpad s.cur (base + i * 64) l bad).fillBlocks part base t
/-- Which blocks of a granule had W at the fill (R400). -/
def writableMask (l : List (Nat × List (Xlat × Nat))) : BitVec 64 :=
  l.foldl (fun m p => if p.2.all (fun x => x.1.w) then m ||| (1#64 <<< p.1) else m) 0

/-- Fill an empty granule whole (R210, R284): a read of class 0, which waits for earlier ones and on a shed home. -/
def State.fillGranule (s : State) (i : Fin 16) (d : MapDesc) (g : Nat) : Except Stop Unit × State :=
  if s.ctx.kept 0 then (.error .order, s) else
  match s.xlateBlocks s.ctx.agent .read (d.blocks g) with
  | (.error e, s) => (.error e, s)
  | (.ok l, t) =>
    if l.any fun b => t.shedPieces b.2 then (.error .order, s) else
    let s := t.fillBlocks s.ctx.part (d.spbase.toNat + g * 4096) l
    (.ok (), s.onMap i fun m => { m with grans := m.grans ++ [(g, ⟨0, writableMask l, l⟩)] })

/-- The 4 KiB blocks that a range touches. -/
def granulesOf (a n : Nat) : List Nat :=
  if n = 0 then [] else (List.range ((a + n - 1) / 4096 - a / 4096 + 1)).map fun i => (a / 4096 + i) * 4096
/-- Fill every empty granule that an access touches (R210). -/
def State.touchAll (s : State) : List Nat → Except Stop Unit × State
  | [] => (.ok (), s)
  | a :: t =>
    match s.ctx.mapAt a with
    | none => s.touchAll t
    | some (i, d) =>
      if ((s.ctx.maps[i]).gran? (d.granOf a)).isSome then s.touchAll t
      else
        match s.fillGranule i d (d.granOf a) with
        | (.error e, s) => (.error e, s)
        | (.ok _, s) => s.touchAll t
/-- Fill what a range touches. -/
def State.touch (s : State) (a n : Nat) : Except Stop Unit × State := s.touchAll (granulesOf a n)

/-- The first block of a range that a filled granule records without W (R400). -/
def Ctx.unwritable (c : Ctx) (a n : Nat) : Option (BitVec 64) :=
  (blocksOf a n).findSome? fun b =>
    match c.mapAt b with
    | none => none
    | some (i, d) =>
      match (c.maps[i]).gran? (d.granOf b) with
      | some g => if g.writable.getLsbD (d.blockIn b) then none else some (d.va (b - d.spbase.toNat))
      | none => none
/-- The translation fault of a store to a block without W: reason PROT (R400). A walk tells the level where it still faults;
otherwise the level is a free value (log 52). -/
def State.mapProt (s : State) (va : BitVec 64) : Stop × State :=
  match s.walk s.ctx.agent .write (va.setWidth 56) with
  | (.error (.fault _ level), s) => (.trap 0x0A (faultDetail 2 level .write (va.setWidth 56)), s)
  | (_, s) =>
    let (n, s) := s.fresh
    (.trap 0x0A (faultDetail 2 (Config.mapFaultLevel n) .write (va.setWidth 56)), s)
/-- Mark the blocks of a range dirty in their granules (R210). -/
def Ctx.markDirty (c : Ctx) (a n : Nat) : Ctx :=
  (blocksOf a n).foldl (fun c b =>
    match c.mapAt b with
    | none => c
    | some (i, d) =>
      let g := d.granOf b
      { c with maps := c.maps.set i { c.maps[i] with grans := (c.maps[i]).grans.map fun e =>
          if e.1 == g then (e.1, { e.2 with dirty := e.2.dirty ||| (1#64 <<< d.blockIn b) }) else e } }) c

/-- Make a range of the scratchpad ready for a write of the core: fill, check W. -/
def State.readyWrite (s : State) (a n : Nat) : Except Stop Unit × State :=
  match s.touch a n with
  | (.error e, s) => (.error e, s)
  | (.ok _, s) =>
    match s.ctx.unwritable a n with
    | some va => let (e, s) := s.mapProt va; (.error e, s)
    | none => (.ok (), s)
/-- A write of the core's own to its scratchpad, which is ready for it: blocks of maps become dirty (R210). -/
def State.ownWrite (s : State) (a : Nat) (data : List Byte) (poison : Bool := false) : State :=
  (s.onCtx fun c => c.markDirty a data.length).writeSpad s.cur a data poison
/-- Read the core's own scratchpad. -/
def State.localRead (s : State) (a n : Nat) : Except Stop (List Byte × Bool) × State :=
  match s.touch a n with
  | (.error e, s) => (.error e, s)
  | (.ok _, s) =>
    let (l, bad, s) := s.readSpad s.cur a n
    (.ok (l, bad), s)
/-- Write the core's own scratchpad. -/
def State.localWrite (s : State) (a : Nat) (data : List Byte) (poison : Bool) : Except Stop Unit × State :=
  match s.readyWrite a data.length with
  | (.error e, s) => (.error e, s)
  | (.ok _, s) => (.ok (), s.ownWrite a data poison)

/-! ## Acknowledgements and write-back -/

/-- The acknowledgements that the pieces of a .g write wait for (R224, R229). -/
def State.pieceAcks (s : State) (id : Nat) (cls : BitVec 3) (poison : Bool) : BitVec 64 → List (Xlat × Nat) → List Byte → List Ack
  | _, [], _ => []
  | va, (x, n) :: t, data =>
    ⟨id, va.setWidth 56, s.wayOf [(x, n)] (writesOf poison true [(x, n)] data) cls⟩ ::
      s.pieceAcks id cls poison (va + BitVec.ofNat 64 n) t (data.drop n)
/-- Add outstanding acknowledgements under the next request number. -/
def Ctx.addAcks (c : Ctx) (l : List Ack) : Ctx := { c with acks := c.acks ++ l, nextId := c.nextId + 1 }
/-- The pieces of a .g write of the context wait for their acknowledgements. -/
def State.addAcks (s : State) (g : Bool) (cls : BitVec 3) (poison : Bool) (va : BitVec 64) (xs : List (Xlat × Nat)) (data : List Byte) :
    State :=
  if g then s.onCtx fun c => c.addAcks (s.pieceAcks c.nextId cls poison va xs data) else s

/-- Write back one dirty block as a class-0 .g store (R210), and leave it clean. -/
def State.writeBackBlock (s : State) (i : Fin 16) (d : MapDesc) (g b : Nat) : Except Stop Unit × State :=
  let va := d.va (g * 4096 + b * 64)
  match s.xlateSpan s.ctx.agent .write va 64 with
  | (.error e, s) => (.error e, s)
  | (.ok xs, s) =>
    let a := d.spbase.toNat + g * 4096 + b * 64
    let (l, bad, s) := s.readSpad s.cur a 64
    let s := (s.writePieces (some s.ctx.id) bad true xs l).addAcks true 0 bad va xs l
    let s := s.onMap i fun m => { m with grans := m.grans.map fun e =>
      if e.1 == g then (e.1, { e.2 with dirty := e.2.dirty &&& ~~~(1#64 <<< b) }) else e }
    (.ok (), if externalWrite xs then s.irrevocable else s)
/-- Write back a list of (granule, block) in order. -/
def State.writeBackList (s : State) (i : Fin 16) (d : MapDesc) : List (Nat × Nat) → Except Stop Unit × State
  | [] => (.ok (), s)
  | (g, b) :: t =>
    match s.writeBackBlock i d g b with
    | (.error e, s) => (.error e, s)
    | (.ok _, s) => s.writeBackList i d t
/-- The dirty blocks of a map unit. -/
def MapUnit.dirtyBlocks (m : MapUnit) : List (Nat × Nat) :=
  m.grans.flatMap fun e => ((List.range 64).filter fun b => e.2.dirty.getLsbD b).map fun b => (e.1, b)
/-- Write back every dirty block of a map (R283, R284), as class-0 stores: on a fault, what is already written stays clean. -/
def State.writeBackMap (s : State) (i : Fin 16) : Except Stop Unit × State :=
  match (s.ctx.maps[i]).desc with
  | none => (.ok (), s)
  | some d =>
    let l := (s.ctx.maps[i]).dirtyBlocks
    if !l.isEmpty && s.ctx.kept 0 then (.error .order, s) else s.writeBackList i d l
/-- Write back every map (R371). -/
def State.writeBackMaps (s : State) : List (Fin 16) → Except Stop Unit × State
  | [] => (.ok (), s)
  | i :: t =>
    match s.writeBackMap i with
    | (.error e, s) => (.error e, s)
    | (.ok _, s) => s.writeBackMaps t

/-! ## Checks of local and remote addresses -/

/-- The alignment and range checks of a local address (R260 steps 3 and 4). -/
def State.checkLocal (s : State) (a n align : Nat) (k : SlotOut) : SlotOut :=
  if a % align ≠ 0 then .trap s 0x07 (BitVec.ofNat 64 a)
  else if s.ctx.kern.spad < a + n then .trap s 0x08 (BitVec.ofNat 64 a)
  else k
/-- Detail of a 64-bit address: bits 55:0 (R426). -/
def addrDetail (v : BitVec 64) : BitVec 64 := (v.setWidth 56).setWidth 64

/-- MAP_FILL (R210): the map units fill an empty granule of a mapped region; a fill that faults changes nothing here, and the
touching access raises it. -/
def execMapFill (core : CoreNum) (map : BitVec 4) (granule : BitVec 9) (s : State) : Out :=
  .next (s.asCore core fun s =>
    let i := fin4 map
    match (s.ctx.maps[i]).desc with
    | some d =>
      if granule.toNat * 4096 < d.len.toNat && ((s.ctx.maps[i]).gran? granule.toNat).isNone then
        match s.fillGranule i d granule.toNat with
        | (.ok _, t) => t
        | (.error _, _) => s
      else s
    | none => s)

end Sys2Proof.Machine
end

