-- ==== Sys2Proof/Machine/Paging.lean ====
section
/-!
DEFINITION. The translation registers of a partition (R393, R401, R403, R405): invalidation (R402), hotness (R403, R404) and
migration with retirement (R405, R406).
-/

namespace Sys2Proof.Machine

/-! ## ptroot -/

/-- A write of ptroot, which R416 locks (R393). -/
def State.writePtroot (s : State) (p : PartNum) (v : BitVec 64) : State :=
  s.unlessLocked p (s.onPart p fun q => { q with ptroot := v &&& 0x800FFFFFFFFE0000 })

/-! ## Invalidation -/

/-- A write of invva. -/
def State.writeInvva (s : State) (p : PartNum) (v : BitVec 64) : State :=
  s.onPart p fun q => { q with invva := v &&& 0x00FFFFFFFFFF0000 }
/-- A write of invctl (R401): GO starts an invalidation, unless one runs, a migration runs, or COUNT is 0 without ALL. -/
def Part.writeInvctl (q : Part) (v : BitVec 64) : Part :=
  let all := v.getLsbD 62
  let count := (v.setWidth 24).toNat
  if !v.getLsbD 63 || q.inval.isSome || q.migbusy.isSome || (count = 0 && !all) then q
  else { q with inval := some ⟨if all then 0 else q.invva.toNat, if all then 2 ^ 56 else count * 65536, v.getLsbD 61, false⟩ }
/-- A write of invctl. -/
def State.writeInvctl (s : State) (p : PartNum) (v : BitVec 64) : State := s.onPart p fun q => q.writeInvctl v
/-- INVALIDATE (R402). -/
def execInvalidate (by_ : Writer) (part : PartNum) (v : BitVec 64) (s : State) : Out :=
  .next (s.written by_ (writerOf by_ part && !v.getLsbD 62 && !v.getLsbD 61) (s.writeInvctl part v))
/-- INVALIDATE_ALL (R402). -/
def execInvalidateAll (by_ : Writer) (part : PartNum) (v : BitVec 64) (s : State) : Out :=
  .next (s.written by_ (writerOf by_ part && v.getLsbD 62) (s.writeInvctl part v))
/-- INVALIDATE_FLUSH (R402). -/
def execInvalidateFlush (by_ : Writer) (part : PartNum) (v : BitVec 64) (s : State) : Out :=
  .next (s.written by_ (writerOf by_ part && v.getLsbD 61) (s.writeInvctl part v))
/-- What invstat reads. -/
def Part.invstat (q : Part) : BitVec 64 := BitVec.ofBool q.inval.isSome ++ (0 : BitVec 31) ++ q.invseq

/-- Whether a translation's entry meets a range of virtual addresses (R402). -/
def Inval.covers (v : Inval) (x : Xlat) : Bool := decide (x.page < v.base + v.bytes) && decide (v.base < x.page + 2 ^ x.log)
/-- Whether a granule has a block filled through a covered entry. -/
def Inval.hits (v : Inval) (g : Granule) : Bool := g.homes.any fun h => h.2.any fun x => v.covers x.1
/-- Write the dirty blocks of a granule back through the translations it was filled through (R402). -/
def State.writeHome (s : State) (who : TaskId) (k : Core) (base : Nat) (g : Granule) : State :=
  (g.homes.filter fun h => g.dirty.getLsbD h.1).foldl (fun s h =>
    s.writePieces (some who) (k.spadBad (base + h.1 * 64) 64) true h.2 (readBytes k.spad (base + h.1 * 64) 64)) s
/-- Empty the covered granules of a context, whose scratchpad stands in `k` (R402). -/
def State.flushMaps (s : State) (v : Inval) (who : TaskId) (k : Core) (maps : Vector MapUnit 16) : State :=
  (List.finRange 16).foldl (fun s i =>
    match (maps[i]).desc with
    | none => s
    | some d => ((maps[i]).grans.filter fun e => v.hits e.2).foldl (fun s e =>
        s.writeHome who k (d.spbase.toNat + e.1 * 4096) e.2) s) s
/-- The maps without the covered granules. -/
def Inval.keep (v : Inval) (maps : Vector MapUnit 16) : Vector MapUnit 16 :=
  Vector.ofFn fun i => { maps[i] with grans := (maps[i]).grans.filter fun e => !v.hits e.2 }
/-- Whether an access went through a covered entry. -/
def Inval.crosses (v : Inval) (w : Way) : Bool :=
  w.via.any fun e => decide (e.1 < v.base + v.bytes) && decide (v.base < e.1 + 2 ^ e.2)
/-- Whether some access of a context that went through a covered entry is not performed, or is a .g write without its
acknowledgement (R402). -/
def Inval.awaits (v : Inval) (c : Ctx) : Bool :=
  (c.acks.any fun a => v.crosses a.way) || (c.task.board ++ c.hand.board).any fun p => !p.val.fixed && v.crosses p.way
/-- The contexts of a partition, on cores and saved. -/
def State.contextsOf (s : State) (p : PartNum) : List Ctx :=
  ((s.cores.filter fun e => e.2.busy && e.2.ctx.part = p && !e.2.ctx.boot).map fun e => e.2.ctx) ++
  ((s.tasks.filter fun t => t.part = p && (match t.status with | .running _ => false | _ => true)).map (·.ctx))
/-- Perform an invalidation for the contexts of a partition, on cores and saved: their covered granules are written back and
emptied. -/
def State.invalidateContexts (s : State) (p : PartNum) (v : Inval) : State :=
  let clean (c : Ctx) : Ctx := { c with maps := v.keep c.maps }
  let s := (s.cores.filter fun e => e.2.busy && e.2.ctx.part = p && !e.2.ctx.boot).foldl (fun s e =>
    (s.flushMaps v e.2.ctx.id e.2 e.2.ctx.maps).onCore (BitVec.ofNat 8 e.1) fun k => { k with ctx := clean k.ctx }) s
  let saved (t : Task) : Bool := t.part = p && (match t.status with | .running _ => false | _ => true)
  let s := (s.tasks.filter saved).foldl (fun s t =>
    s.flushMaps v t.ctx.id { Core.zero with spad := t.spad, spadMark := t.spadMark } t.ctx.maps) s
  { s with tasks := s.tasks.map fun t => if saved t then { t with ctx := clean t.ctx } else t }
/-- INVALIDATION_COMPLETE (R402): once every access through a covered entry is performed, the TLBs drop the covered entries, BUSY
clears and SEQ increments in one step. FLUSH writes back every dirty line that can be. -/
def execInvalidationComplete (part : PartNum) (s : State) : Out :=
  .next (match (s.part part).inval with
  | none => s
  | some v =>
    if (s.contextsOf part).any v.awaits then s else
    let s := (s.invalidateContexts part v).tlbDrop fun e =>
      e.part = part && decide (e.page < v.base + v.bytes) && decide (v.base < e.page + 2 ^ e.log)
    let s := if v.flush then s.onMem fun m => (m.dirty.filter fun e =>
        (s.trunk.route (regionOf (e.1 * 64))).any fun r => !rteSevered r.2).foldl (fun m e => m.writeBack e.1) m else s
    s.onPart part fun q => { q with inval := none, invseq := q.invseq + 1 })

/-! ## Hotness -/

/-- A write of hotctl: WINLOG at least 10 (R403). -/
def State.writeHotctl (s : State) (p : PartNum) (v : BitVec 64) : State :=
  s.onPart p fun q => { q with
    hotctl := (v &&& 0x8000000000000000) ||| BitVec.ofNat 64 (Nat.max 10 (v.setWidth 5).toNat) }
/-- Whether the misses of a window contradict a hint (R403). -/
def hintBroken (reuse : BitVec 2) (lookups misses : Nat) : Bool :=
  match reuse.toNat with
  | 0 => 4 * misses < lookups
  | 1 => 16 * misses < lookups || 3 * lookups < 4 * misses
  | 2 => lookups < 4 * misses
  | _ => lookups < 16 * misses
/-- A record of R404, which no one but the partition receives. -/
def State.plainRecord (s : State) (p : PartNum) (r : ErrRec) : State :=
  let (t, s) := s.stamp
  s.enqueue p (r.bytes (some p) t) t
/-- HOTNESS_WINDOW (R403, R404): a window of 2^WINLOG lookups in a range is over. -/
def execHotnessWindow (part : PartNum) (lid : BitVec 32) (range : BitVec 6) (misses : BitVec 32) (s : State) : Out :=
  let n := 2 ^ ((s.part part).hotctl.setWidth 5).toNat
  .next (match s.launch? part lid with
  | none => s
  | some l =>
    match l.kern.ranges[range.toNat]? with
    | none => s
    | some r =>
      if smGet 0 range.toNat l.lookups < n then s
      else
        let s := s.onLaunch part lid fun l => { l with
          lookups := smSet 0 range.toNat (smGet 0 range.toNat l.lookups - n) l.lookups }
        if hintBroken r.reuse n misses.toNat then
          s.plainRecord part { type := 0x50, code := range.toNat, site := r.reuse.toNat, lid := lid.toNat,
                               addr := r.base.toNat, sidx := misses.toNat, value := n }
        else s)

/-! ## Migration -/

/-- A write of migva. -/
def State.writeMigva (s : State) (p : PartNum) (v : BitVec 64) : State :=
  s.onPart p fun q => { q with migva := v &&& 0x00FFFFFFFFFF0000 }
/-- A write of migdst. -/
def State.writeMigdst (s : State) (p : PartNum) (v : BitVec 64) : State :=
  s.onPart p fun q => { q with migdst := v &&& 0x000FFFFFFFFFFFFF }
/-- What migctl reads. -/
def Part.migctl (q : Part) : BitVec 64 :=
  (0 : BitVec 1) ++ BitVec.ofBool q.retire ++ BitVec.ofBool q.migbusy.isSome ++ (0 : BitVec 57) ++ q.migresult
/-- Whether some region of a range of pool addresses has no route: it is not the pool of this module. -/
def State.poolAbsent (s : State) (pa n : Nat) : Bool :=
  target pa = .pool &&
  (List.range (regionOf (pa + n - 1) - regionOf pa + 1)).any fun i => (s.trunk.route (regionOf pa + i)).isNone
/-- The local leaf that maps migva, if its walk ends at one (R405). -/
def State.migLeaf (s : State) (p : PartNum) : Option Xlat × State :=
  match s.walk ⟨p, none, true, false, false, true, false⟩ .read ((s.part p).migva.setWidth 56) with
  | (.ok x, s) => (if x.slab || x.remote.isSome then none else some x, s)
  | (.error _, s) => (none, s)
/-- Whether two ranges lie wholly in one owner range of a partition (R419). -/
def Part.sameRange (q : Part) (a b n : Nat) : Bool :=
  q.ranges.toList.any fun r => match r with
    | some r =>
      let lo := r.base.toNat
      let hi := lo + r.units.toNat * 65536
      decide (lo ≤ a) && decide (a + n ≤ hi) && decide (lo ≤ b) && decide (b + n ≤ hi)
    | none => false
/-- Whether a frame may receive a migration (R405). -/
def migTarget (dst bytes src : Nat) : Bool :=
  dst % bytes = 0 && target dst = target (dst + bytes - 1) && (target dst = .hbm || target dst = .pool) &&
  !(decide (dst < src + bytes) && decide (src < dst + bytes))
/-- A migration ends before it starts, with a result. -/
def State.migFail (s : State) (p : PartNum) (r : BitVec 4) : State := s.onPart p fun q => { q with migresult := r }
/-- A write of migctl (R405): GO is ignored while a migration or an invalidation runs. -/
def State.writeMigctl (s : State) (p : PartNum) (v : BitVec 64) : State :=
  let q := s.part p
  let s := s.onPart p fun q => { q with retire := v.getLsbD 62 }
  if !v.getLsbD 63 || q.migbusy.isSome || q.inval.isSome then s
  else
    match s.migLeaf p with
    | (none, s) => s.migFail p 1
    | (some x, s) =>
      let dst := q.migdst.toNat
      if !migTarget dst x.pageBytes x.pagePa || s.poolAbsent dst x.pageBytes ||
          (x.ownk && !q.sameRange x.pagePa dst x.pageBytes) then s.migFail p 2
      else
        let m : Migration := ⟨q.migva, v.getLsbD 62, x.page, x.entry, x.pagePa, dst, x.pageBytes, false, false⟩
        s.onPart p fun q => { q with migbusy := some m }
/-- MIGRATION_GO (R405). -/
def execMigrationGo (by_ : Writer) (part : PartNum) (v : BitVec 64) (s : State) : Out :=
  .next (s.written by_ (writerOf by_ part && v.getLsbD 63) (s.writeMigctl part v))

/-- Copy a frame in 64-byte blocks, each read at the source's home (R406). -/
def State.copyFrame (s : State) (p : PartNum) (src dst : Nat) : Nat → State
  | 0 => s
  | n + 1 =>
    let s := s.copyFrame p src dst n
    let (l, bad, s) := s.readPhys (some p) (src + n * 64) 64
    s.writePhys none (dst + n * 64) l bad
/-- Whether some region of a pool range is severed or has no route. -/
def State.poolCut (s : State) (pa n : Nat) : Bool :=
  target pa = .pool &&
  (List.range (regionOf (pa + n - 1) - regionOf pa + 1)).any fun i =>
    match s.trunk.route (regionOf pa + i) with
    | some e => rteSevered e.2
    | none => true
/-- A migration ends before its switch (R406): the destination's contents are undefined, the source keeps every write. -/
def State.migAbort (s : State) (p : PartNum) (m : Migration) (r : BitVec 4) : State :=
  let (k, s) := s.fresh
  let s := (s.onPart p fun q => { q with migbusy := none, migresult := r }).writePhys none m.dst
    ((List.range m.bytes).map fun i => Config.migratedByte k i)
  s.plainRecord p { type := 0x52, code := r.toNat, addr := m.va.toNat }
/-- MIGRATION_SWITCH (R406): the frame is copied, the leaf's ADDR is rewritten, and the leaf's range is invalidated. -/
def execMigrationSwitch (part : PartNum) (s : State) : Out :=
  .next (match (s.part part).migbusy with
  | none => s
  | some m =>
    if m.switched then s
    else if m.lost then s.migAbort part m 4
    else if s.poolCut m.dst m.bytes then s.migAbort part m 3
    else
      let s := s.copyFrame part m.src m.dst (m.bytes / 64)
      let w := BitVec.ofNat 64 (leNat (s.peek m.entry 8))
      let w := regMerge w (BitVec.ofNat 64 m.dst) 0x000FFFFFFFFFFFFF
      let s := s.writePhys none m.entry (leBytes 8 w.toNat)
      s.onPart part fun q => { q with
        migbusy := some { m with switched := true }, inval := some ⟨m.page, m.bytes, true, true⟩ })
/-- Enter a retired frame in the repair table (R406, R501), at the first entry not in force. -/
def Trunk.retireFrame (t : Trunk) (pa : Nat) : Trunk :=
  match (List.range 4096).find? fun i => !(smGet 0 i t.repair).getLsbD 63 with
  | some i => { t with repair := smSet 0 i (0xB000000000000000 ||| (BitVec.ofNat 64 pa &&& 0x000FFFFFFFFF0000)) t.repair }
  | none => t
/-- Zero a frame: in HBM or in the pool, with the lines that the memory-side cache holds. -/
def Mem.zeroFrame (m : Mem) (lo n : Nat) : Mem :=
  { m.zero lo n with dirty := m.dirty.filter fun e => !(decide (lo / 64 ≤ e.1) && decide (e.1 < (lo + n) / 64)) }
/-- MIGRATION_DONE (R406): once the switch's invalidation is complete, the source frame is zeroed and freed or
retired; seedling mode writes no entry (R504). -/
def execMigrationDone (part : PartNum) (s : State) : Out :=
  let q := s.part part
  .next (match q.migbusy with
  | none => s
  | some m =>
    if !m.switched || q.inval.isSome then s
    else
      let s := ((s.onMem fun x => x.zeroFrame m.src m.bytes).forgetUndo m.src m.bytes).onPart part fun q =>
        { q with migbusy := none, migresult := 0 }
      let s := if m.retire && !s.trunk.seedling then s.onTrunk fun t => t.retireFrame m.src else s
      s.plainRecord part { type := 0x51, code := if m.retire then 1 else 0, addr := m.va.toNat,
                           sidx := m.src % 2 ^ 32, value := m.src / 2 ^ 32 })
/-- MIGRATION_ABORTED (R406): before the switch, by a severed region or, with `lost`, by a duplicate write that cannot be
performed. -/
def execMigrationAborted (part : PartNum) (lost : Bool) (s : State) : Out :=
  .next (match (s.part part).migbusy with
  | none => s
  | some m =>
    if m.switched then s
    else if lost then (if m.lost then s.migAbort part m 4 else s)
    else if s.poolCut m.dst m.bytes then s.migAbort part m 3 else s)

end Sys2Proof.Machine
end

