-- ==== Sys2Proof/Machine/Crypto.lean ====
section
/-!
DEFINITION. The ciphers that the spec names by their standards: AES-256-GCM with a 96-bit IV and a 128-bit tag (NIST SP 800-38D,
R300) and SHA-256 (R418). Bytes stand in lists, first byte first.
-/

namespace Sys2Proof.Machine

/-! ## AES-256 -/

/-- The AES S-box, byte `i` at bit 8 i. -/
def sboxTable : Nat :=
  0x16BB54B00F2D99416842E6BF0D89A18CDF2855CEE9871E9B948ED9691198F8E19E1DC186B95735610EF6034866B53E708A8BBD4B1F74DDE8C6B4A61C2E2578BA08AE7A65EAF4566CA94ED58D6D37C8E779E4959162ACD3C25C2406490A3A32E0DB0B5EDE14B8EE4688902A22DC4F816073195D643D7EA7C41744975FEC130CCDD2F3FF1021DAB6BCF5389D928F40A351A89F3C507F02F94585334D43FBAAEFD0CF584C4A39BECB6A5BB1FC20ED00D153842FE329B3D63B52A05A6E1B1A2C830975B227EBE28012079A059618C323C7041531D871F1E5A534CCF73F362693FDB7C072A49CAFA2D4ADF04759FA7DC982CA76ABD7FE2B670130C56F6BF27B777C63
/-- SubBytes of one byte. -/
def subByte (x : Byte) : Byte := BitVec.ofNat 8 (sboxTable >>> (8 * x.toNat))
/-- Multiplication by x in the AES field. -/
def xtime (x : Byte) : Byte := if x.getLsbD 7 then (x <<< 1) ^^^ 0x1B else x <<< 1
/-- XOR of two byte lists. -/
def xorBytes (a b : List Byte) : List Byte := List.zipWith (· ^^^ ·) a b
/-- A byte of a list. -/
def byteAt (l : List Byte) (i : Nat) : Byte := (l[i]?).getD 0
/-- ShiftRows after SubBytes, on 16 bytes in column order. -/
def subShift (l : List Byte) : List Byte := (List.range 16).map fun i => subByte (byteAt l ((i + 4 * (i % 4)) % 16))
/-- MixColumns of one column. -/
def mixColumn (a b c d : Byte) : List Byte :=
  let t := a ^^^ b ^^^ c ^^^ d
  [a ^^^ t ^^^ xtime (a ^^^ b), b ^^^ t ^^^ xtime (b ^^^ c), c ^^^ t ^^^ xtime (c ^^^ d), d ^^^ t ^^^ xtime (d ^^^ a)]
/-- MixColumns. -/
def mixColumns : List Byte → List Byte
  | a :: b :: c :: d :: t => mixColumn a b c d ++ mixColumns t
  | _ => []
/-- The next words of the key schedule, newest first: `i` counts words, `n` remain. -/
def expandKey : Nat → Nat → Byte → List (List Byte) → List (List Byte)
  | 0, _, _, ws => ws
  | n + 1, i, rcon, ws =>
    let last := (ws[0]?).getD []
    let old := (ws[7]?).getD []
    let t := if i % 8 = 0 then
        xorBytes ((last.drop 1 ++ last.take 1).map subByte) [rcon, 0, 0, 0]
      else if i % 8 = 4 then last.map subByte
      else last
    expandKey n (i + 1) (if i % 8 = 0 then xtime rcon else rcon) (xorBytes old t :: ws)
/-- Four bytes at a time. -/
def words4 : List Byte → List (List Byte)
  | a :: b :: c :: d :: t => [a, b, c, d] :: words4 t
  | _ => []
/-- The fifteen round keys of a 32-byte key. -/
def roundKeys (key : List Byte) : List (List Byte) :=
  let ws := (expandKey 52 8 1 (words4 key).reverse).reverse
  (List.range 15).map fun r => ((ws.drop (4 * r)).take 4).flatten
/-- AES-256 of one block under its round keys. -/
def aesBlock (ks : List (List Byte)) (x : List Byte) : List Byte :=
  let k (r : Nat) : List Byte := (ks[r]?).getD []
  let s := (List.range 13).foldl (fun s r => xorBytes (mixColumns (subShift s)) (k (r + 1))) (xorBytes x (k 0))
  xorBytes (subShift s) (k 14)

/-! ## GCM -/

/-- The number that big-endian bytes spell. -/
def beNat (l : List Byte) : Nat := l.foldl (fun n x => 256 * n + x.toNat) 0
/-- `n` bytes of a number, highest first. -/
def beBytes (n x : Nat) : List Byte := (leBytes n x).reverse
/-- The product of two blocks in GCM's field, by the bits of the first. -/
def gcmMul (x y : Nat) : Nat :=
  ((List.range 128).foldl (fun (p : Nat × Nat) i =>
    (if x / 2 ^ (127 - i) % 2 = 1 then Nat.xor p.1 p.2 else p.1,
     if p.2 % 2 = 1 then Nat.xor (p.2 / 2) (0xE1 * 2 ^ 120) else p.2 / 2)) (0, y)).1
/-- Cut bytes into blocks of 16, the last padded with zeros, with fuel. -/
def blocks16 : Nat → List Byte → List (List Byte)
  | 0, _ => []
  | n + 1, l => if l.isEmpty then [] else (l.take 16 ++ List.replicate (16 - (l.take 16).length) 0) :: blocks16 n (l.drop 16)
/-- GHASH. -/
def ghash (h : Nat) (l : List (List Byte)) : Nat := l.foldl (fun y b => gcmMul (Nat.xor y (beNat b)) h) 0
/-- The counter-mode key stream over `n` blocks from a counter on. -/
def gcmStream (ks : List (List Byte)) (iv : List Byte) (n : Nat) : List Byte :=
  (List.range n).flatMap fun i => aesBlock ks (iv ++ beBytes 4 (i + 2))
/-- The tag of AAD and ciphertext. -/
def gcmTag (ks : List (List Byte)) (iv aad ct : List Byte) : List Byte :=
  let h := beNat (aesBlock ks (List.replicate 16 0))
  let lens := beBytes 8 (8 * aad.length) ++ beBytes 8 (8 * ct.length)
  let s := ghash h (blocks16 (aad.length + 1) aad ++ blocks16 (ct.length + 1) ct ++ [lens])
  xorBytes (beBytes 16 s) (aesBlock ks (iv ++ [0, 0, 0, 1]))
/-- GcmEncrypt: the ciphertext and its tag. -/
def gcmEncrypt (key iv pt aad : List Byte) : List Byte × List Byte :=
  let ks := roundKeys key
  let ct := xorBytes pt (gcmStream ks iv ((pt.length + 15) / 16))
  (ct, gcmTag ks iv aad ct)
/-- GcmDecrypt: the plaintext, when the tag agrees. -/
def gcmDecrypt (key iv ct aad tag : List Byte) : Option (List Byte) :=
  let ks := roundKeys key
  if gcmTag ks iv aad ct = tag then some (xorBytes ct (gcmStream ks iv ((ct.length + 15) / 16))) else none

/-! ## SHA-256 -/

/-- The round constants, constant `i` at bit 32 i. -/
def shaTable : Nat :=
  0xC67178F2BEF9A3F7A4506CEB90BEFFFA8CC7020884C8781478A5636F748F82EE682E6FF35B9CCA4F4ED8AA4A391C0CB334B0BCB52748774C1E376C0819A4C116106AA070F40E3585D6990624D192E819C76C51A3C24B8B70A81A664BA2BFE8A192722C8581C2C92E766A0ABB650A735453380D134D2C6DFC2E1B213827B70A851429296706CA6351D5A79147C6E00BF3BF597FC7B00327C8A831C66D983E515276F988DA5CB0A9DC4A7484AA2DE92C6F240CA1CC0FC19DC6EFBE4786E49B69C1C19BF1749BDC06A780DEB1FE72BE5D74550C7DC3243185BE12835B01D807AA98AB1C5ED5923F82A459F111F13956C25BE9B5DBA5B5C0FBCF71374491428A2F98
/-- The initial hash value, word `i` at bit 32 i. -/
def shaInit : Nat :=
  0x5BE0CD191F83D9AB9B05688C510E527FA54FF53A3C6EF372BB67AE856A09E667
/-- A word of a table. -/
def shaWord (t i : Nat) : BitVec 32 := BitVec.ofNat 32 (t >>> (32 * i))
/-- A word of a list. -/
def wordOf (l : List (BitVec 32)) (i : Nat) : BitVec 32 := (l[i]?).getD 0
/-- The message schedule: the last sixteen words, newest first, and the words so far. -/
def shaExpand : Nat → List (BitVec 32) → List (BitVec 32)
  | 0, ws => ws
  | n + 1, ws =>
    let a := wordOf ws 14
    let b := wordOf ws 1
    let s0 := a.rotateRight 7 ^^^ a.rotateRight 18 ^^^ (a >>> 3)
    let s1 := b.rotateRight 17 ^^^ b.rotateRight 19 ^^^ (b >>> 10)
    shaExpand n ((wordOf ws 15 + s0 + wordOf ws 6 + s1) :: ws)
/-- One round on the eight working words. -/
def shaRound (v : List (BitVec 32)) (k w : BitVec 32) : List (BitVec 32) :=
  match v with
  | [a, b, c, d, e, f, g, h] =>
    let t1 := h + (e.rotateRight 6 ^^^ e.rotateRight 11 ^^^ e.rotateRight 25) + ((e &&& f) ^^^ (~~~e &&& g)) + k + w
    let t2 := (a.rotateRight 2 ^^^ a.rotateRight 13 ^^^ a.rotateRight 22) + ((a &&& b) ^^^ (a &&& c) ^^^ (b &&& c))
    [t1 + t2, a, b, c, d + t1, e, f, g]
  | v => v
/-- One 64-byte block. -/
def shaBlock (h : List (BitVec 32)) (b : List Byte) : List (BitVec 32) :=
  let ws := (shaExpand 48 ((words4 b).map fun w => BitVec.ofNat 32 (beNat w)).reverse).reverse
  List.zipWith (· + ·) h (ws.zipIdx.foldl (fun v p => shaRound v (shaWord shaTable p.2) p.1) h)
/-- Cut bytes into blocks of 64, with fuel. -/
def blocks64 : Nat → List Byte → List (List Byte)
  | 0, _ => []
  | n + 1, l => if l.isEmpty then [] else l.take 64 :: blocks64 n (l.drop 64)
/-- SHA-256, as a number whose first byte is the lowest. -/
def sha256 (l : List Byte) : BitVec 256 :=
  let m := l ++ [0x80] ++ List.replicate ((119 - l.length % 64) % 64) 0 ++ beBytes 8 (8 * l.length)
  let h := (blocks64 (m.length + 1) m).foldl shaBlock ((List.range 8).map (shaWord shaInit))
  BitVec.ofNat 256 (leNat (h.flatMap fun x => beBytes 4 x.toNat))

/-! ## HKDF-SHA-256 (R413) -/

/-- The bytes of a digest or key, its first byte lowest. -/
def digestBytes (x : BitVec 256) : List Byte := leBytes 32 x.toNat
/-- HMAC-SHA-256 under a key of at most 64 bytes. -/
def hmac (key msg : List Byte) : BitVec 256 :=
  let k := key ++ List.replicate (64 - key.length) 0
  sha256 (k.map (· ^^^ 0x5C) ++ digestBytes (sha256 (k.map (· ^^^ 0x36) ++ msg)))
/-- The 256-bit key that HKDF derives from a secret under an info label, without a salt (log 109). -/
def hkdf (secret : BitVec 256) (label : List Byte) : BitVec 256 :=
  hmac (digestBytes (hmac (List.replicate 32 0) (digestBytes secret))) (label ++ [1])
/-- The info labels "seal", "manifest" and "cut". -/
def keyLabels : List (List Byte) :=
  [[0x73, 0x65, 0x61, 0x6C], [0x6D, 0x61, 0x6E, 0x69, 0x66, 0x65, 0x73, 0x74], [0x63, 0x75, 0x74]]
/-- The key unit's keys (R413). -/
def keyUnit (secret : BitVec 256) : List (BitVec 256) := keyLabels.map (hkdf secret)

end Sys2Proof.Machine
end

