-- ==== Sys2Proof/Machine/VecOps.lean ====
section
/-!
DEFINITION. What slot C's instructions share: element types (R74, R76), elements of lanes (R95, R143), poison (R100, R146), the
checks of deferred lanes (R49), scalar positions (R145), and the results of element-wise forms.
-/

namespace Sys2Proof.Machine

/-! ## Element types -/

/-- An element type: an integer with its width and signedness, or a floating-point format. -/
inductive VTy where
  | int (w : Nat) (sgn : Bool)
  | fp (f : FFmt)
  deriving DecidableEq, Repr

/-- The type of a TY code (R74) or of a VCVT code below 0xD (R76). -/
def VTy.of (t : BitVec 4) : VTy :=
  match t.toNat with
  | 0 => .int 32 true
  | 1 => .int 32 false
  | 2 => .int 16 true
  | 3 => .int 16 false
  | 4 => .int 8 true
  | 5 => .int 8 false
  | 6 => .fp fp32
  | 7 => .fp fp16
  | 8 => .fp bf16
  | 9 => .fp e4m3
  | 10 => .fp e5m2
  | 11 => .fp e2m1
  | 12 => .int 4 true
  | 13 => .fp e4m3
  | _ => .fp e2m1
/-- The width of an element. -/
def VTy.w : VTy → Nat
  | .int w _ => w
  | .fp f => f.width
/-- Elements per lane. -/
def VTy.epl (t : VTy) : Nat := 32 / t.w
/-- Whether the type is a floating-point format. -/
def VTy.isFp : VTy → Bool
  | .fp _ => true
  | _ => false
/-- The pattern of a poison element, in a format that has one (R99). -/
def VTy.pattern : VTy → Option Nat
  | .fp f => if f.style = .ieee then some f.poisonCode else none
  | _ => none
/-- Whether an element's code is itself poison. -/
def VTy.bad (t : VTy) (x : Nat) : Bool :=
  match t with
  | .fp f => (f.unpack x).isPoison
  | _ => false
/-- The integer that a code spells in an integer type. -/
def VTy.toInt (t : VTy) (x : Nat) : Int :=
  match t with
  | .int w true => if 2 ^ (w - 1) ≤ x then (x : Int) - (2 ^ w : Nat) else x
  | _ => x
/-- Element `j` of a lane (R95). -/
def VTy.elem (t : VTy) (x : BitVec 32) (j : Nat) : Nat := x.toNat / 2 ^ (j * t.w) % 2 ^ t.w
/-- The lane that holds elements, the lowest first. -/
def VTy.pack (t : VTy) (l : List Nat) : BitVec 32 := BitVec.ofNat 32 (l.foldr (fun x acc => x + 2 ^ t.w * acc) 0)

/-! ## Results of lanes -/

/-- A result lane: its bits, its side bit and the flags it raises. -/
structure LaneRes where
  bits : BitVec 32
  side : Bool
  flags : BitVec 7
  deriving DecidableEq, Repr

/-- A lane of bits without poison. -/
def LaneRes.of (x : BitVec 32) : LaneRes := ⟨x, false, 0⟩
/-- A lane that keeps value and side bit of a source lane. -/
def VReg.move (v : VReg) (i : Nat) : LaneRes := ⟨v.lane i, v.side.getLsbD i, 0⟩
/-- A poison lane without a format. -/
def LaneRes.bad : LaneRes := ⟨0, true, 0⟩
/-- The flags of results, poison ones apart (R51). -/
def flagsOf (l : List (Option FRes)) : BitVec 7 :=
  l.foldl (fun f x => match x with | some r => f ||| r.2 | none => f) 0
/-- The lane of element results; `none` is a poison element: its pattern, or the side bit over a zero lane (R100, R146). -/
def VTy.result (t : VTy) (l : List (Option FRes)) : LaneRes :=
  match t.pattern with
  | some p => ⟨t.pack (l.map fun x => match x with | some r => r.1 | none => p), false, flagsOf l⟩
  | none =>
    if l.any (·.isNone) then ⟨0, true, flagsOf l⟩
    else ⟨t.pack (l.map fun x => match x with | some r => r.1 | none => 0), false, flagsOf l⟩
/-- A register of result lanes, and the flags of its active lanes. -/
def buildVec (active : BitVec 64) (f : Nat → LaneRes) : VReg × BitVec 7 :=
  let l := (List.range 64).map fun i => if active.getLsbD i then f i else LaneRes.of 0
  (⟨Vector.ofFn fun i => ((l[i.val]?).map (·.bits)).getD 0,
    laneMask fun i => ((l[i]?).map (·.side)).getD false, false⟩,
   l.foldl (fun a r => a ||| r.flags) 0)

/-! ## Sources -/

/-- A vector source with the lanes that active results read. -/
structure VSrc where
  reg : Reg
  val : VReg
  need : BitVec 64
/-- Continue unless a needed lane of a source is deferred; the first source listed is named (R49). -/
def State.needsLanes (s : State) (l : List VSrc) (k : SlotOut) : SlotOut :=
  match l.findSome? fun x => (x.val.deferredLane x.need).map fun n => (x.reg, n) with
  | some (r, n) => .trap s 0x03 (laneDetail r n)
  | none => k
/-- A vector source read under a mask of lanes. -/
def State.vsrc (s : State) (r : Reg) (need : BitVec 64) : VSrc := ⟨r, s.ctx.vec.read r, need⟩
/-- The poison side bits of a register: none while its flag is 1 (R50). -/
def VReg.poisonSide (v : VReg) : BitVec 64 := if v.spec then 0 else v.side
/-- Element `j` of lane `i`, or none when it is poison (R146). -/
def VTy.read (t : VTy) (v : VReg) (i j : Nat) : Option Nat :=
  let x := t.elem (v.lane i) j
  if v.poisonSide.getLsbD i || t.bad x then none else some x
/-- Every one of a list, or none. -/
def allSome : List (Option Nat) → Option (List Nat)
  | [] => some []
  | none :: _ => none
  | some x :: t => (allSome t).map (x :: ·)

/-- Write the active lanes of a vector result computed lane by lane, once its sources are checked. -/
def State.vecOut (s : State) (lat : Nat) (d : Reg) (lanes : BitVec 64) (srcs : List VSrc) (f : Nat → LaneRes) : SlotOut :=
  s.needsLanes srcs
    (let (v, fl) := buildVec lanes f
     s.putC lat d v lanes fl)
/-- An element-wise form over the active lanes (R143, R146). -/
def State.elemForm (s : State) (t : VTy) (lat : Nat) (d : Reg) (k : BitVec 3) (rs : List Reg) (op : List Nat → FRes) :
    SlotOut :=
  let act := s.ctx.vec.active k
  let vs := rs.map fun r => s.vsrc r act
  s.vecOut lat d act vs fun i =>
    t.result ((List.range t.epl).map fun j => (allSome (vs.map fun x => t.read x.val i j)).map op)

/-! ## Scalar positions -/

/-- The value of a scalar position (R145): a port's, or lane 0, or lanes 0 and 1 for a 64-bit address. -/
def State.scalar (s : State) (r : Reg) (wide : Bool) : TVal :=
  match s.portC r with
  | some v => v
  | none =>
    let v := s.ctx.vec.read r
    let bad := if wide then v.side &&& 3 ≠ 0 else v.side.getLsbD 0
    ⟨if wide then v.lane 1 ++ v.lane 0 else (v.lane 0).setWidth 64, if bad then (if v.spec then 1 else 2) else 0⟩
/-- The detail word of a deferred scalar position: the specifier, with the lowest deferred lane of a register (R426). -/
def State.scalarDetail (s : State) (r : Reg) : BitVec 64 :=
  match s.portC r with
  | some _ => specDetail r
  | none => laneDetail r (if (s.ctx.vec.read r).side.getLsbD 0 then 0 else 1)
/-- Continue unless a scalar position is deferred (R145). -/
def State.needsScalar (s : State) (r : Reg) (wide : Bool) (k : TVal → SlotOut) : SlotOut :=
  let v := s.scalar r wide
  if v.deferred then .trap s 0x03 (s.scalarDetail r) else k v

end Sys2Proof.Machine
end

