-- ==== Sys2Proof/Machine/Matrix.lean ====
section
/-!
DEFINITION. What slot D's matrix instructions share: formats and images (R173), block alignment and exact block sums (R114, R115),
the FX96 accumulator (R116-R118), tiles and their chained values (R172, R175), the matrix-format trap (R441).
-/

namespace Sys2Proof.Machine

/-! ## Formats of operands -/

/-- The element type of an FMTW code (R78). -/
def matTy (c : BitVec 4) : VTy :=
  match c.toNat with
  | 0 => .fp bf16
  | 1 => .fp fp16
  | 2 | 9 => .fp e4m3
  | 3 | 10 => .fp e5m2
  | 4 | 11 => .fp e2m1
  | 5 => .int 8 true
  | 6 => .int 4 true
  | 7 => .int 8 false
  | _ => .int 4 false
/-- Whether a code names an MX format. -/
def matMx (c : BitVec 4) : Bool := decide (9 ≤ c.toNat)
/-- The A planes of a code (R173). -/
def matPlanes (c : BitVec 4) : Nat :=
  match c.toNat with
  | 0 => 10
  | 1 => 13
  | 2 | 9 => 6
  | 3 | 10 => 5
  | 5 | 7 => 8
  | _ => 4
/-- The bytes of an operand image (R173). -/
def matBytes (c : BitVec 4) : Nat := 512 * (matTy c).w + (if matMx c then 128 else 0)

/-! ## Images -/

/-- The element codes of an image's bytes, each with whether a byte of it is bad (R95). -/
def codesOf (w : Nat) : List (Byte × Bool) → List (Nat × Bool)
  | [] => []
  | [x] => if w = 4 then [(x.1.toNat % 16, x.2), (x.1.toNat / 16, x.2)] else [(x.1.toNat, x.2)]
  | x :: y :: t =>
    if w = 16 then (x.1.toNat + 256 * y.1.toNat, x.2 || y.2) :: codesOf w t
    else if w = 8 then (x.1.toNat, x.2) :: (y.1.toNat, y.2) :: codesOf w t
    else (x.1.toNat % 16, x.2) :: (x.1.toNat / 16, x.2) :: (y.1.toNat % 16, y.2) :: (y.1.toNat / 16, y.2) :: codesOf w t
/-- Cut a list into pieces of `n`, with fuel. -/
def chunks {α : Type} (n : Nat) : Nat → List α → List (List α)
  | 0, _ => []
  | f + 1, l => if l.isEmpty then [] else l.take n :: chunks n f (l.drop n)

/-- A block of 32 elements, aligned (R114): integers under one unit 2^unit, or what its special elements are; `bad` for a
poison element or scale. -/
structure MBlock where
  q : List Int
  unit : Int
  vals : List FVal
  special : Bool
  nan : Bool
  bad : Bool

/-- The largest exponent of a block's nonzero finite values. -/
def topExp (l : List FVal) : Option Int :=
  l.foldl (fun a v => match v with
    | .fin _ m e => if m = 0 then a else (match a with | some b => some (if b < e then e else b) | none => some e)
    | _ => a) none
/-- The aligned integer of a value under a top exponent: magnitude truncated toward zero. -/
def alignVal (top : Int) (v : FVal) : Int :=
  match v with
  | .fin a m e => signed a (2 * m / 2 ^ (top - e).toNat)
  | _ => 0
/-- Align a block; integer formats are used as they stand (R114). -/
def alignBlock (t : VTy) (mx : Bool) (scale : Byte) (scaleBad : Bool) (l : List (Nat × Bool)) : MBlock :=
  let bad := scaleBad || l.any fun p => p.2 || t.bad p.1
  match t with
  | .int .. => ⟨l.map fun p => t.toInt p.1, 0, [], false, false, bad⟩
  | .fp f =>
    let vals := l.map fun p => f.unpack p.1
    let x : Int := if mx then (scale.toNat : Int) - 127 else 0
    let nan := (mx && scale = 255) || vals.any (·.isNan)
    let special := vals.any fun v => match v with | .fin .. => false | _ => true
    match topExp vals with
    | some top => ⟨vals.map (alignVal top), top - 1 + x, vals, special, nan, bad⟩
    | none => ⟨vals.map fun _ => 0, 0, vals, special, nan, bad⟩
/-- The 128 blocks of an image, two per row of A or column of B; the scale of block `j` of row `m` stands at 2 m + j. -/
def alignImage (c : BitVec 4) (elems : List (Nat × Bool)) (scales : List (Byte × Bool)) : List MBlock :=
  let t := matTy c
  (chunks 32 128 elems).zipIdx.map fun p =>
    let z := (scales[p.2]?).getD (127, false)
    alignBlock t (matMx c) z.1 z.2 p.1
/-- Pair the blocks of each row. -/
def pairBlocks : List MBlock → List (MBlock × MBlock)
  | x :: y :: t => (x, y) :: pairBlocks t
  | _ => []

/-! ## Block sums -/

/-- The sum of products of two lists. -/
def dot : List Int → List Int → Int
  | a :: s, b :: t => a * b + dot s t
  | _, _ => 0
/-- What infinities make of a block pair: the signs of its infinite products, and whether one meets a zero (R115). That is judged on
the element's own value, before alignment (log 108). -/
def infProducts : List FVal → List FVal → List Bool × Bool
  | u :: s, v :: t =>
    let (l, z) := infProducts s t
    match u, v with
    | .inf a, .fin b m _ | .fin b m _, .inf a => if m = 0 then (l, true) else ((a ^^ b) :: l, z)
    | .inf a, .inf b => ((a ^^ b) :: l, z)
    | _, _ => (l, z)
  | _, _ => ([], false)
/-- V of a block pair whose elements are not poison, with its flags (R115). -/
def blockSum (a b : MBlock) : FVal × BitVec 7 :=
  if a.nan || b.nan then (.nan, 0)
  else if a.special || b.special then
    let (l, z) := infProducts a.vals b.vals
    if z then (.nan, 0)
    else if l.any id && l.any not then (.nan, flNV)
    else match l with
      | x :: _ => (.inf x, 0)
      | [] => (.fin false 0 0, 0)
  else
    let t := dot a.q b.q
    (.fin (t < 0) t.natAbs (a.unit + b.unit), 0)

/-! ## FX96 -/

/-- The pair (W, N) as a signed number. -/
def Elem.pair (e : Elem) : Int := e.bits.toInt
/-- An FX96 element of a pair. -/
def fxElem (i : Int) (nan : Bool) : Elem := ⟨BitVec.ofInt 112 i, nan, false⟩
/-- Floor (i × 2^e), and whether that is exact. -/
def floorShift (i : Int) (e : Int) : Int × Bool :=
  if 0 ≤ e then (i * 2 ^ e.toNat, true)
  else
    let d : Int := (2 ^ (-e).toNat : Nat)
    (i / d, i % d = 0)
/-- Add a term that is not poison (R117). -/
def fxAdd (scale : Int) (e : Elem) (v : FVal) : Elem × BitVec 7 :=
  match v with
  | .fin a m x =>
    let (n, exact) := floorShift (signed a m) (x - scale)
    (fxElem (e.pair + n) e.nan, if exact then 0 else flNX)
  | _ => ({ e with nan := true }, flNV)
/-- Rescale a pair from scale `u` to `t` (R185). -/
def fxRescale (u t : Int) (e : Elem) : Elem × BitVec 7 :=
  let (n, exact) := floorShift e.pair (u - t)
  (fxElem n e.nan, if exact then 0 else flNX)
/-- Convert out of FX96 (R118). A NaN bit raises NV alone, whatever the upper bits hold (log 108). -/
def fxOut (f : FFmt) (mode : RMode) (scale : Int) (e : Elem) : FRes :=
  if e.nan then f.invalid
  else
    let n := (e.bits.setWidth 96).toInt
    let r := f.roundInt mode false n scale
    (r.1, r.2 ||| (if n = e.pair then 0 else flFXOV))

/-! ## Tiles -/

/-- The code of a tile format (R172). -/
def TileFmt.num : TileFmt → BitVec 4
  | .fp32 => 0 | .fx96 => 1 | .bf16 => 2 | .fp16 => 3 | .int32 => 4
/-- The floating-point format of a tile format, if it has one. -/
def TileFmt.fp? : TileFmt → Option FFmt
  | .fp32 => some Sys2Proof.Machine.fp32
  | .bf16 => some Sys2Proof.Machine.bf16
  | .fp16 => some Sys2Proof.Machine.fp16
  | _ => none
/-- A clean element of a code. -/
def codeElem (x : Nat) : Elem := ⟨BitVec.ofNat 112 x, false, false⟩
/-- The scale of a tile. -/
def Tile.exp (t : Tile) : Int := t.scale.toInt

/-- Every element of a sparse list of `n`, from a key on. -/
def smDense {α : Type} (d : α) : Nat → Nat → SMap α → List α
  | 0, _, _ => []
  | n + 1, k, [] => d :: smDense d n (k + 1) []
  | n + 1, k, (j, v) :: t => if j = k then v :: smDense d n (k + 1) t else d :: smDense d n (k + 1) ((j, v) :: t)
/-- The 4,096 elements of a tile. -/
def Tile.dense (t : Tile) : List Elem := smDense Elem.zero 4096 0 t.elems
/-- A tile of 4,096 elements. -/
def Tile.ofDense (f : TileFmt) (scale : BitVec 8) (l : List Elem) : Tile :=
  ⟨f, scale, l.zipIdx.filterMap fun p => if p.1 = Elem.zero then none else some (p.2, p.1)⟩
/-- The flags of a list of results. -/
def orFlags {α : Type} (l : List (α × BitVec 7)) : BitVec 7 := l.foldl (fun f p => f ||| p.2) 0

/-- A tile field. -/
def tileIx (r : Reg) : Fin 8 := fin3 (r.setWidth 3)

/-! ## The matrix-format trap -/

/-- The trap with a reason and a tile (R441, R426). -/
def State.matTrap (s : State) (reason : Nat) (tile : Reg) : SlotOut :=
  .trap s 0x0F ((tile.setWidth 3).setWidth 64 <<< 4 ||| BitVec.ofNat 64 reason)
/-- Whether an incomplete queue entry names a tile through the aperture (R295). -/
def Ctx.tileQueued (c : Ctx) (n : Fin 8) : Bool :=
  (List.finRange 16).any fun i => (c.queues[i]).entries.any fun e =>
    (e.blk.dspace = 3 && apertureTile e.blk.dst = n) || (e.blk.sspace = 3 && apertureTile e.blk.src = n)
/-- Reason 7: a tile or weight field beyond what the kernel declares; then the stall for a tile that a queue entry names
(R295). -/
def State.matLimits (s : State) (tiles : List Reg) (slots : List (BitVec 2)) (k : SlotOut) : SlotOut :=
  let n := s.ctx.kern
  match tiles.find? fun r => n.tiles ≤ r.toNat with
  | some r => s.matTrap 7 r
  | none =>
    if slots.any fun w => decide (n.wslots ≤ w.toNat) then s.matTrap 7 0
    else if tiles.any fun r => s.ctx.tileQueued (tileIx r) then .stall s .busy
    else k
/-- Reason 5: a third slot D result in flight to a tile. -/
def State.matRoom (s : State) (d : Reg) (k : SlotOut) : SlotOut :=
  if 2 ≤ (s.ctx.task.tileFlight (tileIx d)).length then s.matTrap 5 d else k
/-- Whether a landing result gives its tile the FX96 format, or keeps it so. -/
def Landing.fx (l : Landing) (t : Tile) : Bool := (t.apply l.val).fmt = .fx96
/-- Reason 4: a source tile with a result in flight, where FX96 is concerned. -/
def State.matSource (s : State) (a : Reg) (k : Tile → SlotOut) : SlotOut :=
  let t := s.ctx.mat.d[tileIx a]
  let l := s.ctx.task.tileFlight (tileIx a)
  if !l.isEmpty && (t.fmt = .fx96 || l.any fun x => x.fx t) then s.matTrap 4 a else k t
/-- Write a tile result. -/
def State.putTile (s : State) (lat : Nat) (d : Reg) (v : LVal) (fl : BitVec 7 := 0) (matrix : Bool := false) : SlotOut :=
  .done (s.land lat (.tile (tileIx d)) v fl matrix)

/-- Read an image of the core's own scratchpad: each byte with whether its block is bad (R174). -/
def State.imageRead (s : State) (a n : Nat) : Except Stop (List (Byte × Bool)) × State :=
  match s.touch a n with
  | (.error e, s) => (.error e, s)
  | (.ok _, s) =>
    let k := s.core s.cur
    let (l, _, s) := s.readSpad s.cur a n
    (.ok (l.zipIdx.map fun p => (p.1, k.spadBad (a + p.2) 1)), s)
/-- Check the address operand of matrix work and read its image, a local read of class 0 that waits for earlier accesses and for the
steps of a long form (R165, R219); a poison address performs no access (R174, R182, R178). -/
def State.withImage (s : State) (r : Reg) (n : Nat) (check : State → SlotOut → SlotOut)
    (k : State → Option (List (Byte × Bool)) → SlotOut) : SlotOut :=
  let x := s.thr.readD r
  let a := (x.val.extractLsb' 0 32).toNat
  s.needs [(r, x)]
    (if x.poison then check s (k s none)
    else s.checkLocal a n 256 (check s
      (if s.ctx.longBusy then .stall s .busy
      else s.inOrder 0 none
        (match s.imageRead a n with
        | (.error e, s) => e.slot s
        | (.ok l, s) => k s (some l)))))

end Sys2Proof.Machine
end

