-- ==== Sys2Proof/Machine/Phasers.lean ====
section
/-!
DEFINITION. Slot D's phaser forms (R359-R369) over the engines' operations of Sched.lean, with the replay counts of a rollback
(R461), and the engines' own steps (R361, R362).
-/

namespace Sys2Proof.Machine

/-! ## Members -/

/-- The membership that a task holds of a phaser. -/
def Phaser.member? (p : Phaser) (t : TaskId) : Option Member := p.members.find? fun m => m.lid = t.lid && m.sidx = t.sidx
/-- Change a task's membership. -/
def Phaser.onMember (p : Phaser) (t : TaskId) (f : Member → Member) : Phaser :=
  { p with members := p.members.map fun m => if m.lid = t.lid && m.sidx = t.sidx then f m else m }
/-- Whether a task of the phaser's partition is a member. -/
def Phaser.has (p : Phaser) (t : TaskId) : Bool := p.part = t.part && (p.member? t).isSome
/-- The memberships that a task holds (R360). -/
def State.memberships (s : State) (t : TaskId) : Nat := (s.phasers.filter fun p => p.has t).length
/-- Whether a core lies in the phaser's scope instance (R236, R360). -/
def Phaser.admits (p : Phaser) (c : CoreNum) : Bool :=
  if p.scope = 0 then p.home = c
  else if p.scope = 1 then groveOf p.home = groveOf c
  else if p.scope = 2 then dieOf p.home = dieOf c
  else true
/-- The phaser trap (R363). -/
def State.phTrap (s : State) (reason : BitVec 4) (h : BitVec 32) : SlotOut := .trap s 0x12 (reason ++ (0 : BitVec 28) ++ h)
/-- The live phaser that a handle names for the running context, in its scope instance: STALE, then SCOPE (R363). -/
def State.withPhaser (s : State) (h : BitVec 32) (k : Phaser → SlotOut) : SlotOut :=
  match s.phaser? h with
  | none => s.phTrap 1 h
  | some p => if p.part ≠ s.ctx.part then s.phTrap 1 h else if !p.admits s.cur then s.phTrap 2 h else k p
/-- A form on a handle: its operand is clean (R363, R192). -/
def State.phaserForm (s : State) (a : Reg) (k : Phaser → SlotOut) : SlotOut :=
  let x := s.thr.readD a
  s.needsClean 0x04 [(a, x)] (s.withPhaser (x.val.setWidth 32) k)
/-- A form for members whose mode passes a test. -/
def State.memberForm (s : State) (a : Reg) (ok : BitVec 2 → Bool) (k : Phaser → Member → SlotOut) : SlotOut :=
  s.phaserForm a fun p =>
    match p.member? s.ctx.id with
    | some m => if ok m.mode then k p m else s.phTrap 3 p.handle
    | none => s.phTrap 3 p.handle

/-! ## Replay counts (R461) -/

/-- SREPLAY and WREPLAY of a handle. -/
def Ctx.replay (c : Ctx) (h : BitVec 32) : BitVec 32 × BitVec 32 :=
  ((c.replays.find? fun r => r.1 = h).map (·.2)).getD (0, 0)
/-- Change the counts of a handle. -/
def Ctx.onReplay (c : Ctx) (h : BitVec 32) (f : BitVec 32 × BitVec 32 → BitVec 32 × BitVec 32) : Ctx :=
  { c with replays := c.replays.map fun r => if r.1 = h then (h, f r.2) else r }

/-! ## Signals and waits -/

/-- The engine takes a member's signal (R367). -/
def State.signalMember (s : State) (p : Phaser) (t : TaskId) : State :=
  (s.onPhaser p.eng p.idx fun p => p.onMember t fun m => { m with sph := m.sph + 1 }).settle p.eng p.idx
/-- PHSIG's wait as an ordering point, then its signal or the replay of one (R367, R461). -/
def State.signalThen (s : State) (p : Phaser) (k : State → SlotOut) : SlotOut :=
  match s.orderWait with
  | some o => o
  | none =>
    if (s.ctx.replay p.handle).1 ≠ 0 then k (s.onCtx fun c => c.onReplay p.handle fun r => (r.1 - 1, r.2))
    else
      match p.member? s.ctx.id with
      | some m =>
        if m.sph = p.phase then
          k ((s.signalMember p s.ctx.id).onCtx fun c => { c with released := c.released || decide (1 ≤ p.scope.toNat) })
        else .stall s .order
      | none => s.phTrap 3 p.handle
/-- PHWAIT's wait for the member's WPH, or the replay of one (R368, R461). -/
def State.waitPhase (s : State) (h : BitVec 32) : SlotOut :=
  if (s.ctx.replay h).2 ≠ 0 then .done (s.onCtx fun c => c.onReplay h fun r => (r.1, r.2 - 1))
  else
    match s.phaser? h with
    | none => s.phTrap 1 h
    | some p =>
      match p.member? s.ctx.id with
      | none => s.phTrap 3 h
      | some m =>
        if phaseDone p.phase m.wph then
          .done (s.onPhaser p.eng p.idx fun p => p.onMember s.ctx.id fun m => { m with wph := m.wph + 1 })
        else .stall s (.phase h m.wph)
/-- Whether the running context already waits in this PHSW, its signal done. -/
def Wait.isPhase : Wait → Bool
  | .phase .. => true
  | _ => false

/-- PHSIG (R367). -/
def execPhsig (a : Reg) (s : State) : Out :=
  s.taskOnly (s.memberForm a modeSignals fun p _ => s.signalThen p .done)
/-- PHWAIT (R368). -/
def execPhwait (a : Reg) (s : State) : Out :=
  s.taskOnly (s.memberForm a modeWaits fun p m =>
    if m.mode = 2 && m.sph = m.wph && (s.ctx.replay p.handle).2 = 0 then s.phTrap 6 p.handle else s.waitPhase p.handle)
/-- PHSW (R368): it signals where its member has not yet signalled the phase that it awaits. -/
def execPhsw (a : Reg) (s : State) : Out :=
  s.taskOnly (s.memberForm a (· = 2) fun p m =>
    if !s.ctx.wait.isPhase && (m.sph = m.wph || (s.ctx.replay p.handle).1 ≠ 0) then
      s.signalThen p fun s => s.waitPhase p.handle
    else s.waitPhase p.handle)

/-! ## PHNEW, PHREG, PHDROP, PHQRY -/

/-- Whether PHNEW's operands break R365 (reason ARG). -/
def State.newBad (s : State) (cfg pend : BitVec 64) : Bool :=
  cfg &&& 0xFC00FFC8 ≠ 0 || decide (5 ≤ (cfg.extractLsb' 0 3).toNat) ||
  (cfg.extractLsb' 0 3 ≠ 4 && cfg.extractLsb' 16 10 ≠ 0) || pend.extractLsb' 16 48 ≠ 0 ||
  (cfg.extractLsb' 0 3 = 4 && !(smGet 0 (cfg.extractLsb' 16 10).toNat (s.part s.ctx.part).groups).getLsbD 127)
/-- The indices of an engine (R359). -/
def engineSize (eng : BitVec 4) : Nat := if eng = 4 then 4096 else 2048
/-- A free index of an engine; which one is not stated (log 28). -/
def State.freePhaser (s : State) (eng : BitVec 4) (pick : Nat) : Option (BitVec 12) :=
  (List.range (engineSize eng)).findSome? fun i =>
    let ix := BitVec.ofNat 12 ((pick + i) % engineSize eng)
    if s.phasers.any fun p => p.eng = eng && p.idx = ix then none else some ix
/-- The next generation of an index (R359). -/
def nextGen (g : BitVec 13) : BitVec 13 := if g = 8191 then 1 else g + 1
/-- The phaser that PHNEW makes (R365). -/
def State.newPhaser (s : State) (cfg pend : BitVec 64) (eng : BitVec 4) (ix : BitVec 12) (gen : BitVec 13) : Phaser where
  eng := eng
  idx := ix
  scope := cfg.extractLsb' 0 3
  gen := gen
  phase := cfg.extractLsb' 32 32
  pending := pend.setWidth 16
  part := s.ctx.part
  group := cfg.extractLsb' 16 10
  home := s.cur
  members := if cfg.extractLsb' 4 2 = 3 then [] else
    [⟨s.ctx.lid, s.ctx.sidx, cfg.extractLsb' 4 2, cfg.extractLsb' 32 32, cfg.extractLsb' 32 32⟩]
  remote := []
  announced := false
/-- PHNEW (R365). -/
def execPhnew (d a b : Reg) (s : State) : Out :=
  let x := s.thr.readD a
  let y := s.thr.readD b
  s.taskOnly (s.needsClean 0x04 [(a, x), (b, y)]
    (if s.newBad x.val y.val then s.phTrap 8 0
    else if x.val.extractLsb' 4 2 ≠ 3 && decide (s.ctx.kern.phasers ≤ s.memberships s.ctx.id) then s.phTrap 5 0
    else
      let eng : BitVec 4 := if (x.val.extractLsb' 0 3).toNat ≤ 2 then (dieOf s.cur).setWidth 4 else 4
      let (n, s) := s.fresh
      let s := s.irrevocable
      match s.freePhaser eng (Config.phaserPick n) with
      | none => s.putD 2 d (.clean 0)
      | some ix =>
        let key := eng.toNat * 4096 + ix.toNat
        let gen := nextGen (smGet 0 key s.gens)
        let p := s.newPhaser x.val y.val eng ix gen
        let s := { s with phasers := s.phasers ++ [p], gens := smSet 0 key gen s.gens }
        ((s.settle eng ix).sweepPhasers).putD 2 d (.clean (p.handle.setWidth 64))))

/-- PHREG (R366). -/
def execPhreg (a : Reg) (m : BitVec 2) (s : State) : Out :=
  s.taskOnly (s.phaserForm a fun p =>
    if p.has s.ctx.id then s.phTrap 4 p.handle
    else if s.ctx.kern.phasers ≤ s.memberships s.ctx.id then s.phTrap 5 p.handle
    else if 65535 ≤ p.members.length then s.phTrap 7 p.handle
    else
      let s := s.onPhaser p.eng p.idx fun p => { p with
        members := p.members ++ [⟨s.ctx.lid, s.ctx.sidx, m, p.phase, p.phase⟩]
        pending := if p.pending = 0 then 0 else p.pending - 1 }
      .done (s.settle p.eng p.idx).irrevocable)
/-- PHDROP (R366). -/
def execPhdrop (a : Reg) (s : State) : Out :=
  s.taskOnly (s.memberForm a (fun _ => true) fun p _ => .done (s.dropMember s.ctx.id p.eng p.idx).irrevocable)

/-- PHQRY's word (R369). -/
def Phaser.query (p : Phaser) (t : TaskId) (sel : BitVec 64) : BitVec 64 :=
  let sig := p.members.filter fun m => modeSignals m.mode
  let m := p.member? t
  if sel = 0 then
    BitVec.ofNat 16 (sig.filter fun m => m.sph ≠ p.phase).length ++ BitVec.ofNat 16 sig.length ++ p.phase
  else if sel = 1 then (match m with | some m => m.wph ++ m.sph | none => 0)
  else (0 : BitVec 16) ++ p.pending ++ (match m with | some m => (m.mode ++ 1#1).setWidth 32 | none => 0)
/-- PHQRY (R369). Its bundle has waited at issue for an outstanding one (R42). -/
def execPhqry (d a b : Reg) (s : State) : Out :=
  let x := s.thr.readD a
  let y := s.thr.readD b
  s.taskOnly (s.needsClean 0x04 [(a, x), (b, y)] (s.withPhaser (x.val.setWidth 32) fun p =>
    if 3 ≤ y.val.toNat then s.phTrap 8 p.handle
    else .done (s.await (if d = 16 then .phqres else .discard) (.scalar (.clean (p.query s.ctx.id y.val))) 0)))

/-! ## The engines' own steps -/

/-- PHASE_COMPLETE (R361): the open phase completes if its condition holds. -/
def execPhaseComplete (eng : BitVec 4) (ix : BitVec 12) (s : State) : Out := .next (s.tryPhase eng ix)
/-- PHASE_ANNOUNCE (R362): what another instance of a fabric-scope phaser tells; the phase may complete at this point. A module
that takes no traffic answers as R309 gives (R23, R471). -/
def execPhaseAnnounce (eng : BitVec 4) (ix : BitVec 12) (rank : BitVec 16) (phase : BitVec 32) (ready : Bool)
    (s : State) : Out :=
  .next (match s.unready with
  | some t => t
  | none => (s.onPhaser eng ix fun p =>
      if p.scope = 4 then { p with remote := p.remote.filter (fun r => r.1 ≠ rank) ++ [(rank, phase, ready)] } else p).settle
        eng ix)

end Sys2Proof.Machine
end

