-- ==== Sys2Proof/Machine/Rings.lean ====
section
/-!
DEFINITION. Slot B's ring, window and map forms (R273-R284, R205-R210), and the steps of the window's fetches.
-/

namespace Sys2Proof.Machine

/-! ## Operands and traps -/

/-- The ring-format trap (R426). -/
def State.ringFormat (s : State) (h : BitVec 4) : SlotOut := .trap s 0x0C (h.setWidth 64)
/-- The ring-count trap. -/
def State.ringCount (s : State) (h : BitVec 4) : SlotOut := .trap s 0x0D (h.setWidth 64)
/-- A form on a handle with a ring (R273), with its count or address operand clean (R260). -/
def State.ringForm (s : State) (h : BitVec 4) (a : Reg) (k : Handle → Nat → SlotOut) : SlotOut :=
  let x := s.thr.readB a
  let r := s.ctx.h[fin4 h]
  s.needsClean 0x05 [(a, x)] (if r.rowb = 0 then s.ringFormat h else k r x.val.toNat)
/-- Whether an earlier ring read of a handle has not read its bytes. -/
def Thread.ringReads (t : Thread) (h : BitVec 4) : Bool :=
  t.board.any fun p => match p.val with
    | .ring g _ _ => g = fin4 h
    | .vring g _ _ _ => g = fin4 h
    | _ => false
/-- A descriptor in the core's own scratchpad at srcA (R259): aligned to 16. Its bytes are used as stored, marked or not
(log 19). -/
def State.descriptor (s : State) (a : Reg) (n : Nat) (k : State → List Byte → SlotOut) : SlotOut :=
  let x := s.thr.readB a
  let p := (x.val.extractLsb' 0 32).toNat
  s.needsClean 0x05 [(a, x)] (s.checkLocal p n 16
    (match s.localRead p n with
    | (.error e, s) => e.slot s
    | (.ok (l, _), s) => k s l))
/-- Eight bytes of a descriptor. -/
def word64At (l : List Byte) (i : Nat) : BitVec 64 := BitVec.ofNat 64 (leNat ((l.drop i).take 8))
/-- Four bytes of a descriptor. -/
def word32At (l : List Byte) (i : Nat) : BitVec 32 := BitVec.ofNat 32 (leNat ((l.drop i).take 4))

/-! ## Rings -/

/-- The handle that a record holds (R205), without a window. -/
def Handle.ofWords (w0 w1 : BitVec 64) : Handle where
  rowsM1 := w0.extractLsb' 44 12
  rowb := w0.extractLsb' 32 12
  base := w0.extractLsb' 6 15
  fill := w1.extractLsb' 45 13
  head := w1.extractLsb' 33 12
  tail := w1.extractLsb' 21 12
  cursor := w1.extractLsb' 0 21
  win := none
/-- Whether RINGSET accepts a record (R205, R274) under a scratchpad size. -/
def ringRecordOk (w0 w1 : BitVec 64) (spad : Nat) : Bool :=
  let r := Handle.ofWords w0 w1
  w0.extractLsb' 56 7 = 0 && w0.extractLsb' 21 11 = 0 && w0.extractLsb' 0 6 = 0 && w1.extractLsb' 58 6 = 0 &&
  (r.rowb = 0 ||
    (decide (r.head.toNat < r.rows) && decide (r.tail.toNat < r.rows) && decide (r.fill.toNat ≤ r.rows) &&
     decide (r.cursor.toNat < r.rb * r.rows) && decide (r.tail.toNat = (r.head.toNat + r.fill.toNat) % r.rows) &&
     decide (r.rowAddr r.rows ≤ spad)))
/-- RINGSET (R274). -/
def execRingset (a : Reg) (h : BitVec 4) (s : State) : Out :=
  s.taskOnly (s.descriptor a 16 fun s l =>
    let w0 := word64At l 0
    let w1 := word64At l 8
    if !ringRecordOk w0 w1 s.ctx.kern.spad then s.ringFormat h
    else if s.thr.ringReads h then .stall s (.ring (fin4 h))
    else .done (s.onHandle h fun _ => Handle.ofWords w0 w1))

/-- RNEED (R275). -/
def execRneed (a : Reg) (h : BitVec 4) (s : State) : Out :=
  s.taskOnly (s.ringForm h a fun r n =>
    if r.rows < n then s.ringCount h
    else if n ≤ r.fill.toNat then .done s else .stall s (.ring (fin4 h)))
/-- RFREE (R275). -/
def execRfree (a : Reg) (h : BitVec 4) (s : State) : Out :=
  s.taskOnly (s.ringForm h a fun r n =>
    if r.win.isSome then s.ringFormat h
    else if r.rows < n then s.ringCount h
    else if n ≤ r.rows - r.fill.toNat then .done s else .stall s (.ring (fin4 h)))

/-- Retire rows (R276). -/
def Handle.retire (r : Handle) (n : Nat) : Handle :=
  { r with
    head := BitVec.ofNat 12 ((r.head.toNat + n) % r.rows)
    fill := r.fill - BitVec.ofNat 13 n
    cursor := BitVec.ofNat 21 (r.cursor.toNat - n * r.rb) }
/-- Publish rows (R276). -/
def Handle.publish (r : Handle) (n : Nat) : Handle :=
  { r with tail := BitVec.ofNat 12 ((r.tail.toNat + n) % r.rows), fill := r.fill + BitVec.ofNat 13 n }
/-- Retire rows when every earlier ring read of the handle has read its bytes, then go on. -/
def State.retireRows (s : State) (h : BitVec 4) (r : Handle) (n : Nat) (k : State → State) : SlotOut :=
  if r.fill.toNat < n then s.ringCount h
  else if s.thr.ringReads h then .stall s (.ring (fin4 h))
  else .done (k (s.onHandle h fun r => r.retire n))
/-- RADV (R276). -/
def execRadv (a : Reg) (h : BitVec 4) (s : State) : Out :=
  s.taskOnly (s.ringForm h a fun r n => if r.win.isSome then s.ringFormat h else s.retireRows h r n id)
/-- RPUB (R276): the rows arrive, and ring reads that waited for them read. -/
def execRpub (a : Reg) (h : BitVec 4) (s : State) : Out :=
  s.taskOnly (s.ringForm h a fun r n =>
    if r.win.isSome then s.ringFormat h
    else if r.rows - r.fill.toNat < n then s.ringCount h
    else .done ((s.onHandle h fun r => r.publish n).resolveRings h))

/-- The row of the cursor, counted from HEAD, and the address of the next ring read (R277). -/
def Handle.next (r : Handle) : Nat × Nat :=
  let k := r.cursor.toNat / r.rb
  (k, r.rowAddr ((r.head.toNat + k) % r.rows) + r.cursor.toNat % r.rb)
/-- Issue a ring read: the cursor advances, the read waits for its row (R277). A mapped granule that it touches is filled at
issue (log 20). -/
def State.ringRead (s : State) (h : BitVec 4) (bytes : Nat) (dest : PDest) (val : Nat → Nat → PVal) : SlotOut :=
  let r := s.ctx.h[fin4 h]
  let (k, a) := r.next
  if r.rows ≤ k then s.ringCount h
  else
    match s.touch a bytes with
    | (.error e, s) => e.slot s
    | (.ok _, s) =>
      let s := s.onHandle h fun r => { r with cursor := r.cursor + BitVec.ofNat 21 bytes }
      .done ((s.await dest (val k a) 0).resolveRings h)
/-- RRD (R277). -/
def execRrd (d : Reg) (h : BitVec 4) (s : State) : Out :=
  s.taskOnly
    (if (s.ctx.h[fin4 h]).rowb = 0 then s.ringFormat h
    else s.ringRead h 8 (pdestB d) fun k a => .ring (fin4 h) k a)

/-! ## Windows -/

/-- The number of rows of a window (R207). -/
def WinDesc.total (d : WinDesc) : Nat := d.e0.toNat * d.e1.toNat * d.e2.toNat
/-- The address of a row (R207). -/
def WinDesc.rowVa (d : WinDesc) (t : Nat) : BitVec 64 :=
  let i (n : Nat) : BitVec 64 := BitVec.ofNat 64 n
  let v := d.tbase.setWidth 64 + i (t % d.e0.toNat) * d.s0 + i (t / d.e0.toNat % d.e1.toNat) * d.s1 +
    i (t / (d.e0.toNat * d.e1.toNat)) * d.s2
  (v.setWidth 56).setWidth 64
/-- Which 64-byte blocks of a destination hold a poison byte. -/
def markBlocks : Nat → Nat → List (Byte × Bool) → List Bool
  | 0, _, _ => []
  | n + 1, a, l =>
    if l.isEmpty then [] else
    let k := 64 - a % 64
    (l.take k).any (·.2) :: markBlocks n (a + k) (l.drop k)
/-- Change the window of a handle. -/
def State.onWindow (s : State) (h : BitVec 4) (f : Window → Window) : State :=
  s.onHandle h fun r => { r with win := r.win.map f }
/-- Whether an earlier request of a context, a ring read apart, has to be performed before a window fetch: a read of class 0
(R207, R220). -/
def Ctx.fetchWaits (c : Ctx) : Bool :=
  (c.task.board ++ c.hand.board).any fun p => c.holds 0 none p && (match p.val with | .ring .. | .vring .. => false | _ => true)
/-- Fetch rows into every free row of the ring, in row order, until one faults, waits, or is refused: it is held at the head
(R207, R208, R511). -/
def State.fetchRows : Nat → BitVec 4 → State → State
  | 0, _, s => s
  | n + 1, h, s =>
    let r := s.ctx.h[fin4 h]
    match r.win with
    | none => s
    | some w =>
      let ahead := r.fill.toNat + w.arriving.length
      if w.held || decide (r.rows ≤ ahead) || decide (w.desc.total ≤ w.t) then s
      else if s.ctx.fetchWaits then s.onWindow h fun w => { w with held := true }
      else
        match s.xlateSpan s.ctx.taskAgent .read (w.desc.rowVa w.t) r.rb with
        | (.error _, s) => s.onWindow h fun w => { w with held := true }
        | (.ok xs, s) =>
          let (no, s) := s.refuses xs
          if no || s.shedPieces xs then s.onWindow h fun w => { w with held := true } else
          let (l, s) := s.readMarked s.ctx.part xs
          let at_ := r.rowAddr ((r.head.toNat + ahead) % r.rows)
          let row : Row := ⟨l.map (·.1), markBlocks (l.length + 1) at_ l⟩
          State.fetchRows n h (s.onWindow h fun w => { w with t := w.t + 1, arriving := w.arriving ++ [row] })
/-- Enable fetches into every free row (R207). -/
def State.enableRows (s : State) (h : BitVec 4) : State := State.fetchRows (s.ctx.h[fin4 h]).rows h s

/-- The window descriptor of 48 bytes (R207). -/
def WinDesc.ofBytes (l : List Byte) : WinDesc :=
  ⟨(word64At l 0).setWidth 56, word64At l 8, word64At l 16, word64At l 24, word32At l 32, word32At l 36, word32At l 40⟩
/-- Whether WINSET accepts a descriptor (R279). -/
def winBytesOk (l : List Byte) : Bool :=
  (word64At l 0).extractLsb' 56 8 = 0 && word32At l 32 ≠ 0 && word32At l 36 ≠ 0 && word32At l 40 ≠ 0 && word32At l 44 = 0
/-- Bind a window to a handle (R279). -/
def State.bindWindow (s : State) (h : BitVec 4) (d : WinDesc) : State :=
  (s.onHandle h fun r => { r with tail := r.head, fill := 0, cursor := 0, win := some ⟨d, 0, [], false⟩ }).enableRows h
/-- WINSET (R279). -/
def execWinset (a : Reg) (h : BitVec 4) (s : State) : Out :=
  s.taskOnly (s.descriptor a 48 fun s l =>
    if (s.ctx.h[fin4 h]).rowb = 0 || !winBytesOk l then s.ringFormat h
    else if s.thr.ringReads h then .stall s (.ring (fin4 h))
    else .done (s.bindWindow h (WinDesc.ofBytes l)))
/-- WINADV (R280). -/
def execWinadv (a : Reg) (h : BitVec 4) (s : State) : Out :=
  s.taskOnly (s.ringForm h a fun r n =>
    if r.win.isNone then s.ringFormat h else s.retireRows h r n fun s => s.enableRows h)

/-- Whether a core runs a task whose windows fetch. -/
def State.runsTask (s : State) (c : CoreNum) : Bool := (s.core c).busy
/-- WINDOW_ROW_ARRIVAL (R206): the next fetched row of a handle's window is written at TAIL, and FILL and TAIL advance. -/
def execWindowRowArrival (core : CoreNum) (h : BitVec 4) (s : State) : Out :=
  .next (if s.runsTask core then s.asCore core fun s => s.rowArrives h else s)
/-- Retry the fetch that a window holds at the head of its address queue (R208). -/
def State.retryWindow (s : State) (h : BitVec 4) : State :=
  (s.onWindow h fun w => { w with held := false }).enableRows h

/-! ## Maps -/

/-- The map descriptor of 48 bytes (R281). -/
def MapDesc.ofBytes (l : List Byte) : MapDesc :=
  ⟨(word64At l 0).setWidth 56, word64At l 8, word64At l 16, word32At l 24, word32At l 28, word32At l 32, word32At l 36⟩
/-- Whether the fields of a map descriptor keep R281. -/
def mapBytesOk (l : List Byte) : Bool :=
  let d := MapDesc.ofBytes l
  (word64At l 0).extractLsb' 56 8 = 0 && d.vbase.toNat % 64 = 0 && d.spbase.toNat % 4096 = 0 && d.len.toNat % 4096 = 0 &&
  (d.rowb = 0 || (d.rowb.toNat % 64 = 0 && d.len.toNat % d.rowb.toNat = 0 && d.e1 ≠ 0)) && word64At l 40 = 0
/-- Whether two regions share a byte. -/
def MapDesc.overlaps (d e : MapDesc) : Bool :=
  decide (d.spbase.toNat < e.spbase.toNat + e.len.toNat) && decide (e.spbase.toNat < d.spbase.toNat + d.len.toNat)
/-- Whether MAPSET may bind a region to a map of a context (R282). -/
def Ctx.mapFits (c : Ctx) (i : Fin 16) (d : MapDesc) : Bool :=
  d.len = 0 ||
  (decide (d.spbase.toNat + d.len.toNat ≤ c.kern.spad) &&
   (List.finRange 16).all fun j => j == i || match (c.maps[j]).desc with
     | some e => !d.overlaps e
     | none => true)
/-- MAPSET (R282): the old binding's dirty blocks are written back first. -/
def execMapset (a : Reg) (m : BitVec 4) (s : State) : Out :=
  s.taskOnly (s.descriptor a 48 fun s l =>
    let d := MapDesc.ofBytes l
    if !mapBytesOk l || !s.ctx.mapFits (fin4 m) d then .trap s 0x0E (m.setWidth 64)
    else
      match s.writeBackMap (fin4 m) with
      | (.error e, s) => e.slot s
      | (.ok _, s) => .done (s.onMap (fin4 m) fun _ => ⟨if d.len = 0 then none else some d, []⟩))
/-- MAPFLUSH (R283). -/
def execMapflush (m : BitVec 4) (s : State) : Out :=
  s.taskOnly (match s.writeBackMap (fin4 m) with
    | (.error e, s) => e.slot s
    | (.ok _, s) => .done s)
/-- MAPINV (R283): every granule becomes empty; dirty blocks are discarded. -/
def execMapinv (m : BitVec 4) (s : State) : Out :=
  s.taskOnly (.done (s.onMap (fin4 m) fun u => { u with grans := [] }))

end Sys2Proof.Machine
end

