-- ==== Sys2Proof/Machine/Queues.lean ====
section
/-!
DEFINITION. Asynchronous queues: the acceptance of commands (R288-R293), the units and effects of each form (R294-R304, R420),
completion, joins, signals and status (R289, R305, R306, R367).
-/

namespace Sys2Proof.Machine

/-! ## Acceptance -/

/-- A command block (R293); CWORD is ignored. -/
def Block.ofBytes (l : List Byte) : Block where
  dst := word64At l 0
  src := word64At l 8
  len := word32At l 16
  dspace := (word32At l 20).extractLsb' 0 4
  sspace := (word32At l 20).extractLsb' 4 4
  arg0 := (word32At l 20).extractLsb' 8 8
  arg1 := (word32At l 20).extractLsb' 16 16
  arg2 := word64At l 32
  arg3 := word64At l 40
  arg4 := word64At l 48
  arg5 := word64At l 56
/-- A block of zeros: what a command without a block keeps. -/
def Block.zero : Block := ⟨0, 0, 0, 0, 0, 0, 0, 0, 0, 0, 0⟩
/-- AADADDR. -/
def Block.aadAddr (b : Block) : BitVec 64 := (b.arg5.extractLsb' 0 44).setWidth 64
/-- AADLEN. -/
def Block.aadLen (b : Block) : Nat := (b.arg5.extractLsb' 44 12).toNat
/-- ESZ. -/
def Block.esz (b : Block) : Nat := 2 ^ (b.arg0.extractLsb' 0 4).toNat

/-- Whether a range of a space keeps its limits at issue (R292, R294). -/
def State.rangeOk (s : State) (sp : BitVec 4) (a : BitVec 64) (n : Nat) : Bool :=
  match sp.toNat with
  | 0 => a.extractLsb' 32 32 = 0 && decide (a.toNat + n ≤ s.ctx.kern.spad)
  | 1 => (match s.remoteOf a with
    | some (_, off) => decide (off + n ≤ 0x180000)
    | none => false)
  | 2 => a.extractLsb' 56 8 = 0
  | 3 => a.extractLsb' 19 45 = 0 && decide ((apertureTile a).val < s.ctx.kern.tiles) &&
      decide (apertureOff a + n ≤ (s.ctx.chained (apertureTile a)).fmt.imageBytes)
  | _ => false
/-- Whether QCOPY's ranges share a byte of one space (R292). -/
def Block.overlaps (b : Block) : Bool :=
  b.dspace = b.sspace && decide (b.src.toNat < b.dst.toNat + b.len.toNat) && decide (b.dst.toNat < b.src.toNat + b.len.toNat)
/-- The entry of a collective's group, read at issue (R316). -/
def State.collEntry (s : State) (g : BitVec 16) : Option CollInfo :=
  if 1024 ≤ g.toNat then none
  else
    let e := smGet 0 g.toNat (s.part s.ctx.part).groups
    if e.getLsbD 127 then some ⟨e.extractLsb' 64 32, e.extractLsb' 48 16, e.extractLsb' 32 16, e.extractLsb' 16 16⟩ else none
/-- QCOLL's rules (R302). -/
def State.collOk (s : State) (b : Block) : Bool :=
  let op := (b.arg0.extractLsb' 0 4).toNat
  let ty := (b.arg0.extractLsb' 4 4).toNat
  match s.collEntry b.arg1 with
  | none => false
  | some i =>
    let n := i.nm1.toNat + 1
    let len := b.len.toNat
    decide (op ≤ 3) && decide (ty ≤ 4) && decide (len % collBytes ty = 0) && (op ≠ 1 || decide (len % (n * collBytes ty) = 0)) &&
    b.arg2.extractLsb' 32 32 = 0 && b.arg3 = 0 && b.arg4 = 0 && b.arg5 = 0 &&
    s.rangeOk b.dspace b.dst (if op = 1 then len / n else if op = 2 then n * len else len) && s.rangeOk b.sspace b.src len
/-- Whether a block keeps the rules of its form (R292 step 6). -/
def State.blockOk (s : State) (k : QKind) (b : Block) : Bool :=
  let len := b.len.toNat
  let d := b.dspace.toNat
  let r := b.sspace.toNat
  let tail := b.arg3 = 0 && b.arg4 = 0 && b.arg5 = 0
  let dst (n : Nat) : Bool := s.rangeOk b.dspace b.dst n
  let src (n : Nat) : Bool := s.rangeOk b.sspace b.src n
  let key := decide (d ≤ 2) && (r = 0 || r = 2) && 1 ≤ len && len ≤ 65536 && b.arg1 = 0 && b.arg0.extractLsb' 4 4 = 0 &&
    b.arg2.extractLsb' 32 32 = 0 && b.arg5.extractLsb' 56 8 = 0 && src len && dst len && s.rangeOk b.sspace b.aadAddr b.aadLen
  let elems := 1 ≤ len && len ≤ 65536 && decide (b.arg0.toNat ≤ 12) && b.arg1 = 0 && b.arg2 = 0 && tail
  match k with
  | .copy => d ≤ 3 && r ≤ 3 && 1 ≤ len && b.arg0 = 0 && b.arg1 = 0 && b.arg2 = 0 && tail && dst len && src len && !b.overlaps
  | .fill => d ≤ 3 && r = 0 && b.src = 0 && 1 ≤ len && b.arg0 = 0 && b.arg1 = 0 && tail && dst len
  | .gath => d ≤ 3 && r ≤ 2 && elems && dst (len * b.esz) && src 0
  | .scat => d ≤ 2 && r ≤ 3 && elems && src (len * b.esz) && dst 0
  | .dec => key && d ≠ 1 && s.rangeOk b.sspace b.arg4 16
  | .enc => key && s.rangeOk b.dspace b.arg4 16
  | .coll => (d = 0 || d = 2) && (r = 0 || r = 2) && s.collOk b
  | _ => true

/-- The queue-fault trap of a command to a halted queue (R289). -/
def Queue.trap (q : Queue) (s : State) : SlotOut := .trap s 0x11 q.fault
/-- The queue-format trap. -/
def State.queueFormat (s : State) (q : BitVec 4) : SlotOut := .trap s 0x10 (q.setWidth 64 <<< 60)
/-- Accept an entry, when fewer than 32 are pending (R288); an entry that becomes the head reads its key (R420). -/
def State.accept (s : State) (q : BitVec 4) (e : QEntry) : SlotOut :=
  if 32 ≤ (s.ctx.queues[fin4 q]).entries.length then .stall s .queueFull
  else
    let s := (s.onQueue (fin4 q) fun x => { x with
      entries := x.entries ++ [{ e with after := s.ctx.nextId }], accepted := x.accepted + 1 }).readKey (fin4 q)
    .done (if e.kind = .dec || e.kind = .enc || e.kind = .coll then s.irrevocable else s)
/-- A new entry. -/
def QEntry.new (k : QKind) (b : Block) (addr idx : BitVec 32) (sig : Option (BitVec 32)) : QEntry where
  kind := k
  blk := b
  blkAddr := addr
  idx := idx
  sig := sig
  joins := []
  coll := none
  prog := 0
  resume := 0
  started := false
  status := 0
  step := 0
  failAddr := 0
  finished := false
  worded := false
  after := 0
  got := []
  out := none
  bad := []
  keyed := false
  key := none
/-- The handle operand of a form with SIG: its source, and the handle. -/
def State.sigOf (s : State) (c : Reg) (sig : Bool) : List (Reg × TVal) × Option (BitVec 32) :=
  if sig then ([(c, s.thr.readB c)], some ((s.thr.readB c).val.setWidth 32)) else ([], none)

/-- Whether the index list of an entry keeps its limits (R299): 4 bytes per element, below the declared scratchpad size. -/
def State.indexOk (s : State) (list : Bool) (ix : BitVec 32) (b : Block) : Bool :=
  !list || decide (ix.toNat + 4 * b.len.toNat ≤ s.ctx.kern.spad)
/-- A command with a block, and an index list where the form has one (R292). -/
def State.blockForm (s : State) (k : QKind) (q : BitVec 4) (a : Reg) (b : Option Reg) (c : Reg) (sig : Bool) : SlotOut :=
  let x := s.thr.readB a
  let p := (x.val.extractLsb' 0 32).toNat
  let ix : BitVec 32 := match b with | some b => (s.thr.readB b).val.setWidth 32 | none => 0
  let (h, handle) := s.sigOf c sig
  s.needsClean 0x05 ([(a, x)] ++ (match b with | some b => [(b, s.thr.readB b)] | none => []) ++ h)
    (if p % 64 ≠ 0 then .trap s 0x07 (BitVec.ofNat 64 p)
    else if ix.toNat % 4 ≠ 0 then .trap s 0x07 (ix.setWidth 64)
    else s.checkLocal p 64 64 (s.inOrder 0 none
      (match s.localRead p 64 with
      | (.error e, s) => e.slot s
      | (.ok (l, _), s) =>
        let blk := Block.ofBytes l
        if (s.ctx.queues[fin4 q]).halt then (s.ctx.queues[fin4 q]).trap s
        else if !(s.indexOk b.isSome ix blk && s.blockOk k blk) then s.queueFormat q
        else
          let e := QEntry.new k blk (BitVec.ofNat 32 p) ix handle
          s.accept q { e with coll := if k = .coll then s.collEntry blk.arg1 else none })))

/-- QCOPY (R299). -/
def execQcopy (q : BitVec 4) (a c : Reg) (g : BitVec 1) (s : State) : Out :=
  s.taskOnly (s.blockForm .copy q a none c (g = 1))
/-- QGATH (R299). -/
def execQgath (q : BitVec 4) (a b c : Reg) (g : BitVec 1) (s : State) : Out :=
  s.taskOnly (s.blockForm .gath q a (some b) c (g = 1))
/-- QSCAT (R299). -/
def execQscat (q : BitVec 4) (a b c : Reg) (g : BitVec 1) (s : State) : Out :=
  s.taskOnly (s.blockForm .scat q a (some b) c (g = 1))
/-- QFILL (R299). -/
def execQfill (q : BitVec 4) (a c : Reg) (g : BitVec 1) (s : State) : Out :=
  s.taskOnly (s.blockForm .fill q a none c (g = 1))
/-- QDEC (R300). -/
def execQdec (q : BitVec 4) (a c : Reg) (g : BitVec 1) (s : State) : Out :=
  s.taskOnly (s.blockForm .dec q a none c (g = 1))
/-- QENC (R301). -/
def execQenc (q : BitVec 4) (a c : Reg) (g : BitVec 1) (s : State) : Out :=
  s.taskOnly (s.blockForm .enc q a none c (g = 1))
/-- QCOLL (R302). -/
def execQcoll (q : BitVec 4) (a c : Reg) (g : BitVec 1) (s : State) : Out :=
  s.taskOnly (s.blockForm .coll q a none c (g = 1))

/-- The queues that a QJOIN mask names, each with how many of its entries must have completed (R305). -/
def Ctx.joinSet (c : Ctx) (q : BitVec 4) (m : BitVec 16) : List (BitVec 4 × Nat) :=
  ((List.finRange 16).filter fun j => m.getLsbD j.val && j != fin4 q).map fun j => (BitVec.ofNat 4 j.val, (c.queues[j]).accepted)
/-- QJOIN (R305): an ordering point. -/
def execQjoin (q : BitVec 4) (a c : Reg) (g : BitVec 1) (s : State) : Out :=
  let x := s.thr.readB a
  let (h, handle) := s.sigOf c (g = 1)
  s.taskOnly (s.needsClean 0x05 ([(a, x)] ++ h)
    (if (s.ctx.queues[fin4 q]).halt then (s.ctx.queues[fin4 q]).trap s
    else
      match s.orderWait with
      | some o => o
      | none => s.accept q { QEntry.new .join .zero 0 0 handle with joins := s.ctx.joinSet q (x.val.setWidth 16) }))
/-- QSIG (R305). -/
def execQsig (q : BitVec 4) (c : Reg) (s : State) : Out :=
  let (h, handle) := s.sigOf c true
  s.taskOnly (s.needsClean 0x05 h
    (if (s.ctx.queues[fin4 q]).halt then (s.ctx.queues[fin4 q]).trap s
    else s.accept q (QEntry.new .sig .zero 0 0 handle)))

/-- The queue status word (R306). -/
def Queue.statusWord (q : Queue) : BitVec 64 :=
  let head := match q.entries with | e :: _ => Nat.min e.resume 0xFFFFFFFF | [] => 0
  BitVec.ofNat 16 q.completed ++ BitVec.ofNat 8 q.entries.length ++ BitVec.ofBool q.halt ++ (0 : BitVec 3) ++ q.last ++
    BitVec.ofNat 32 head
/-- Clear HALT: the queue goes on with its next entry (R306). -/
def State.unhalt (s : State) (i : Fin 16) : State := (s.onQueue i fun q => { q with halt := false }).readKey i
/-- QSTAT (R306): L = 2. -/
def execQstat (q : BitVec 4) (d b : Reg) (s : State) : Out :=
  let x := s.thr.readB b
  s.taskOnly (s.needsClean 0x05 [(b, x)]
    (let w := (s.ctx.queues[fin4 q]).statusWord
     (if x.val.getLsbD 0 then s.unhalt (fin4 q) else s).putB 2 d (.clean w)))

/-! ## Units of the data-moving forms -/

/-- A transfer unit (R296): its addresses, its bytes, and whether its index is poison. -/
structure QUnit where
  src : BitVec 64
  dst : BitVec 64
  n : Nat
  badIndex : Bool

/-- The bytes that an entry moves. -/
def QEntry.total (e : QEntry) : Nat :=
  match e.kind with
  | .gath | .scat => e.blk.len.toNat * e.blk.esz
  | _ => e.blk.len.toNat
/-- How far a read of global memory from an address on goes before a boundary of R224: an 8 KiB granule, or a row of a slab, which the
walk alone shows (R396). Every other boundary, and each one of a destination, falls on a 64-byte block. -/
def State.sourceSpan (s : State) (a : BitVec 64) : Nat × State :=
  match s.xlate { s.ctx.taskAgent with free := true, tlb := false } .read a with
  | (.ok x, s) => (Nat.min (8192 - x.pa % 8192) (2 ^ x.rowLog - (a.toNat - x.page) % 2 ^ x.rowLog), s)
  | (.error _, s) => (8192 - a.toNat % 8192, s)
/-- Cut a unit's bytes at the boundaries of both sides (R296). -/
def State.cutUnit (s : State) (e : QEntry) (src dst : BitVec 64) (n : Nat) : Nat × State :=
  let n := Nat.min n (64 - dst.toNat % 64)
  if e.blk.sspace = 2 && e.kind ≠ .fill then
    let (k, s) := s.sourceSpan src
    (Nat.min n k, s)
  else (n, s)
/-- The next unit of an entry at its resume offset (R296, R299), with the index word read as the entry runs. -/
def State.nextUnit (s : State) (e : QEntry) : QUnit × State :=
  let b := e.blk
  let o := e.resume
  let at_ (base : BitVec 64) (n : Nat) : BitVec 64 := base + BitVec.ofNat 64 n
  match e.kind with
  | .gath | .scat =>
    let z := b.esz
    let (w, s) := s.spadMarked s.cur (e.idx.toNat + 4 * (o / z)) 4
    let x := leNat (w.map (·.1))
    let (src, dst) := if e.kind = .gath then (at_ b.src (x * z + o % z), at_ b.dst o) else (at_ b.src o, at_ b.dst (x * z + o % z))
    let bad := w.any (·.2)
    if bad && e.kind = .scat then (⟨src, dst, z - o % z, bad⟩, s)
    else
      let (n, s) := s.cutUnit e src dst (z - o % z)
      (⟨src, dst, n, bad⟩, s)
  | _ =>
    let (n, s) := s.cutUnit e (at_ b.src o) (at_ b.dst o) (e.total - o)
    (⟨at_ b.src o, at_ b.dst o, n, false⟩, s)
/-- The head has performed a unit; after the last one it is finished with status OK. -/
def State.unitDone (s : State) (i : Fin 16) (e : QEntry) (n : Nat) : State :=
  let s := s.onHead i fun e => { e with started := true, prog := e.prog + 1, resume := e.resume + n }
  if e.total ≤ e.resume + n then s.endHead i 0 else s
/-- Bytes of value zero, all poison. -/
def badBytes (n : Nat) : List (Byte × Bool) := List.replicate n (0, true)
/-- Mark every destination block that a data-moving entry has not yet written as poisoned, where it can be written (R298). -/
def State.markUnits : Nat → QEntry → State → State
  | 0, _, s => s
  | f + 1, e, s =>
    if e.total ≤ e.resume then s
    else
      let (u, s) := s.nextUnit e
      let s := if u.badIndex && e.kind = .scat then s else (s.spaceWrite e.blk.dspace u.dst (badBytes u.n)).2
      State.markUnits f { e with resume := e.resume + u.n } s
/-- The same for the ranges that a QENC or QCOLL writes, from its resume offset on. -/
def State.markSinks : Nat → QEntry → State → State
  | 0, _, s => s
  | f + 1, e, s =>
    match spanUnit e.sinks e.resume with
    | none => s
    | some (a, n) => State.markSinks f { e with resume := e.resume + n } (s.spaceWrite e.blk.dspace a (badBytes n)).2
/-- A unit fails on the source side: what the entry has not yet written is marked poisoned (R298), but a QDEC marks nothing (R300);
then the entry ends, unless the unit is held. -/
def State.sourceFails (s : State) (i : Fin 16) (e : QEntry) (f : UStop) (a : BitVec 64) : State :=
  match f with
  | .held => s.failHead i .held a
  | f =>
    (match e.kind with
    | .dec => s
    | .enc | .coll => State.markSinks (spanBytes e.sinks + 1) e s
    | _ => State.markUnits (e.total + 1) e s).failHead i f a
/-- QFILL's bytes (R299). -/
def fillBytes (p : BitVec 64) (dst : BitVec 64) (n : Nat) : List (Byte × Bool) :=
  (List.range n).map fun j => ((p >>> (8 * ((dst.toNat + j) % 8))).setWidth 8, false)
/-- The bytes that a unit writes: those of its source, QFILL's, or poison under a poison index (R299). -/
def State.unitBytes (s : State) (e : QEntry) (u : QUnit) (remote : List (Byte × Bool)) :
    Except UStop (List (Byte × Bool)) × State :=
  if u.badIndex then (.ok (badBytes u.n), s)
  else if e.kind = .fill then (.ok (fillBytes e.blk.arg2 u.dst u.n), s)
  else s.spaceRead e.blk.sspace u.src u.n remote
/-- Write the bytes of a unit and count it. -/
def State.landUnit (s : State) (i : Fin 16) (e : QEntry) (u : QUnit) (l : List (Byte × Bool)) : State :=
  match s.spaceWrite e.blk.dspace u.dst l e.bad with
  | (.error f, s) => s.failHead i f u.dst
  | (.ok _, s) =>
    let s := if e.blk.dspace = 3 then s.onHead i fun e => { e with bad := badOffsets e.bad (apertureOff u.dst) l } else s
    s.unitDone i e u.n
/-- Perform the next unit of a data-moving entry (R296, R298, R299). -/
def State.moveUnit (s : State) (i : Fin 16) (e : QEntry) (remote : List (Byte × Bool)) : State :=
  let (u, s) := s.nextUnit e
  if u.badIndex && e.kind = .scat then s.unitDone i e u.n
  else
    match s.unitBytes e u remote with
    | (.error f, s) => s.sourceFails i e f u.src
    | (.ok l, s) => s.landUnit i e u l
/-- A QDEC, QENC or QCOLL takes bytes that it has read: they are held in the queue. -/
def State.takeBytes (s : State) (i : Fin 16) (l : List (Byte × Bool)) : State :=
  s.onHead i fun e => { e with started := true, got := e.got ++ l }

/-! ## Confidential copies -/

/-- The first unit of a list that an access of an agent does not reach, with what stops it. -/
def State.firstStop (s : State) (a : Agent) (k : Kind) : List (BitVec 64 × Nat) → Option (UStop × BitVec 64) × State
  | [] => (none, s)
  | (va, _) :: t =>
    match s.xlate a k va with
    | (.error e, s) => (some (e.unit, va), s)
    | (.ok _, s) => s.firstStop a k t
/-- Whether a page is owner-keyed for the context whose turn it is (R419). -/
def State.pageKeyed (s : State) (x : Xlat) : Bool :=
  x.ownk && x.remote.isNone && (s.part s.ctx.part).ownerKeyed (some s.ctx.lid) x.pagePa x.pageBytes
/-- Whether some unit of a list lies in a page that is not owner-keyed for the context, whatever the page permits (R300). -/
def State.someUnkeyed (s : State) : List (BitVec 64 × Nat) → Bool × State
  | [] => (false, s)
  | (va, _) :: t =>
    match s.xlate { s.ctx.taskAgent with free := true } .read va with
    | (.ok x, s) => if s.pageKeyed x then s.someUnkeyed t else (true, s)
    | (.error _, s) => s.someUnkeyed t
/-- The bytes of a list without their marks. -/
def plainBytes (l : List (Byte × Bool)) : List Byte := l.map (·.1)
/-- Bytes without poison. -/
def cleanBytes (l : List Byte) : List (Byte × Bool) := l.map fun b => (b, false)
/-- The IV's bytes in GCM order (R300). -/
def Block.iv (b : Block) : List Byte := beBytes 4 (b.arg2.setWidth 32).toNat ++ beBytes 8 b.arg3.toNat

/-- A QDEC that has authenticated its plaintext looks at its destination before it writes a byte (R300): a page that is not
owner-keyed denies it, and a page that it cannot write stops it. -/
def State.decryptTo (s : State) (i : Fin 16) (b : Block) (p : List Byte) : State :=
  let l := if b.dspace = 2 then blockPieces (b.len.toNat + 1) b.dst b.len.toNat else []
  match s.someUnkeyed l with
  | (true, s) => s.endHead i 2
  | (false, s) =>
    match s.firstStop s.ctx.taskAgent .write l with
    | (some (f, a), s) => s.failHead i f a
    | (none, s) => s.readyHead i (cleanBytes p) 0
/-- What a QDEC or QENC makes of all that it read, under its key (R300, R301). -/
def State.cipherHead (s : State) (i : Fin 16) (e : QEntry) (key : List Byte) : State :=
  let b := e.blk
  let body := e.got.take b.len.toNat
  let rest := e.got.drop b.len.toNat
  let aad := rest.take b.aadLen
  if e.got.any (·.2) then s.endHead i 6
  else if e.kind = .enc then
    let r := gcmEncrypt key b.iv (plainBytes body) (plainBytes aad)
    s.readyHead i (cleanBytes (r.1 ++ r.2)) 0
  else
    match gcmDecrypt key b.iv (plainBytes body) (plainBytes aad) (plainBytes (rest.drop b.aadLen)) with
    | none => s.endHead i 1
    | some p => s.decryptTo i b p
/-- The next step of a QDEC or QENC head (R300, R301): it reads a unit, ciphers what it read, or writes a unit. The key is that of the
moment at which it became head (R420). -/
def State.cryptUnit (s : State) (i : Fin 16) (e : QEntry) (remote : List (Byte × Bool)) : State :=
  match e.key, e.out with
  | none, _ => s.endHead i 2
  | some _, some l => s.putUnit i e l
  | some k, none =>
    match spanUnit e.sources e.got.length with
    | none => s.cipherHead i e (leBytes 32 k.toNat)
    | some (a, n) =>
      match s.spaceRead e.blk.sspace a n remote with
      | (.error f, s) => s.sourceFails i e f a
      | (.ok l, s) => s.takeBytes i l

/-! ## Collective heads -/

/-- The step of a group as this module's instance of its phaser holds it (R303). -/
def State.groupPhase (s : State) (c : CollInfo) : Option (BitVec 32) :=
  (s.phaser? c.phaser).bind fun p => if p.part = s.ctx.part then some p.phase else none
/-- The status with which a collective's head ends at once: DUPLICATE when the module's participant performs or performed the step,
then STEP when the group stands at another (R303, R304). -/
def State.collRefused (s : State) (e : QEntry) (c : CollInfo) : Option (BitVec 4) :=
  if (s.part s.ctx.part).groupStep.any fun g => g.1 == e.group.toNat && g.2 = e.stepNum then some 0xA
  else if s.groupPhase c ≠ some e.stepNum then some 7
  else none
/-- The head ends at once; CWORD.STEP is the step that it was checked against (R303). -/
def State.collRefuse (s : State) (i : Fin 16) (e : QEntry) (c : CollInfo) (st : BitVec 4) : State :=
  (s.onHead i fun x => { x with
    step := if st = 0xA then e.stepNum else (s.groupPhase c).getD e.stepNum }).endHead i st
/-- The module's participant takes up the step: the port complex records it (R304). -/
def State.collStart (s : State) (i : Fin 16) (e : QEntry) : State :=
  (s.onHead i fun x => { x with started := true, step := e.stepNum }).onPart s.ctx.part fun q => { q with
    groupStep := smPut e.group.toNat e.stepNum q.groupStep }
/-- Contribute what the head has read (R302). -/
def State.contribute (s : State) (e : QEntry) (c : CollInfo) (l : List (Byte × Bool)) : State :=
  let m := collElems (collBytes e.ty) (l.length + 1) l
  (s.onPart s.ctx.part fun q => { q with contribs := q.contribs ++ [⟨e.group, e.stepNum, c.rank, m⟩] }).send
    (.contribution e.group e.stepNum m)
/-- A collective's head takes bytes that it has read; with the last ones the module contributes. -/
def State.collTake (s : State) (i : Fin 16) (e : QEntry) (c : CollInfo) (l : List (Byte × Bool)) : State :=
  let s := s.takeBytes i l
  if (spanUnit e.sources (e.got.length + l.length)).isNone then s.contribute e c (e.got ++ l) else s
/-- Read the next unit of a collective's source; without a source the module contributes at once. -/
def State.collRead (s : State) (i : Fin 16) (e : QEntry) (c : CollInfo) (remote : List (Byte × Bool)) : State :=
  match spanUnit e.sources e.got.length with
  | none => s.contribute e c e.got
  | some (a, n) =>
    match s.spaceRead e.blk.sspace a n remote with
    | (.error f, s) => s.sourceFails i e f a
    | (.ok l, s) => s.collTake i e c l
/-- The next step of a collective's head (R302-R304): it ends at once, starts, reads and contributes; once it has contributed it ends
when every contribution is there, and writes its result. Without a path for the exchange it is held (R309). -/
def State.collUnit (s : State) (i : Fin 16) (e : QEntry) (c : CollInfo) (remote : List (Byte × Bool)) : State :=
  match e.out with
  | some l => s.putUnit i e l
  | none =>
    if !e.started then
      match s.collRefused e c with
      | some st => s.collRefuse i e c st
      | none => if s.trunk.exchanges then (s.collStart i e).collRead i e c remote else s.failHead i .held 0
    else if (spanUnit e.sources e.got.length).isSome then s.collRead i e c remote
    else if ((s.part s.ctx.part).collResult e c).1 then s
    else s.collFinish i e c

/-! ## The steps of queues -/

/-- The entry that a queue has at its head and that has not ended, unless the queue is halted. -/
def State.openHead (s : State) (i : Fin 16) : Option QEntry :=
  let q := s.ctx.queues[i]
  match q.entries with
  | e :: _ => if q.halt || e.finished then none else some e
  | [] => none
/-- Whether an access of the context that precedes a command in program order has not been performed (R242): a read or atomic, a write
that waits to be sent again, a window's held fetch. -/
def Ctx.commandWaits (c : Ctx) (e : QEntry) : Bool :=
  ((c.task.board ++ c.hand.board).any fun p => decide (p.id < e.after) && c.holds 0 none p) ||
  (c.acks.any fun a => decide (a.id < e.after) && a.way.waiting) || c.winHeld
/-- The head entry that a queue may work on: neither halted nor held, after the accesses that precede its command (R242), its tiles
without a result in flight (R295); while the context is saved, a collective alone (R297). -/
def State.workHead (s : State) (i : Fin 16) : Option QEntry :=
  (s.openHead i).filter fun e =>
    let tile (sp : BitVec 4) (a : BitVec 64) : Bool := sp = 3 && !(s.ctx.task.tileFlight (apertureTile a)).isEmpty
    !((s.ctx.queues[i]).held || s.ctx.commandWaits e || tile e.blk.dspace e.blk.dst || tile e.blk.sspace e.blk.src ||
      ((s.core s.cur).saving && e.kind ≠ .coll))
/-- The next step of a queue's head. -/
def State.queueUnit (s : State) (i : Fin 16) (remote : List (Byte × Bool)) : State :=
  match s.workHead i with
  | none => s
  | some e =>
    match e.kind with
    | .join | .sig => s
    | .dec | .enc => s.cryptUnit i e remote
    | .coll => (match e.coll with | some c => s.collUnit i e c remote | none => s)
    | _ => s.moveUnit i e remote
/-- A step of a core's queues, when it runs a task; a save that waited for a collective may end with it (R297). -/
def State.queueStep (s : State) (core : CoreNum) (f : State → State) : Out :=
  .next (if s.runsTask core then (s.asCore core f).saveDone core else s)
/-- QUEUE_UNIT_DONE (R296). -/
def execQueueUnitDone (core : CoreNum) (q : BitVec 4) (remote : List (BitVec 8 × Bool)) (s : State) : Out :=
  s.queueStep core fun s => s.queueUnit (fin4 q) remote

/-- A queue's completion signal (R367, R461): sent, replayed, or discarded with record 0x26; `none` while the member has
already signalled the open phase. -/
def State.queueSignal (s : State) (q : BitVec 4) (h : BitVec 32) : Option State :=
  let x := s.ctx
  if (x.replay h).1 ≠ 0 then some (s.onCtx fun c => c.onReplay h fun r => (r.1 - 1, r.2))
  else
    let lost := s.power x.part { type := 0x26, code := q.toNat, grove := (groveOf s.cur).toNat, core := s.cur.toNat,
                                 lid := x.lid.toNat, handle := h.toNat } x.boot
    match s.phaser? h with
    | none => some lost
    | some p =>
      if p.part ≠ x.part then some lost
      else
        match p.member? x.id with
        | none => some lost
        | some m =>
          if !modeSignals m.mode then some lost
          else if m.sph ≠ p.phase then none
          else some ((s.signalMember p x.id).onCtx fun c => { c with released := c.released || decide (1 ≤ p.scope.toNat) })
/-- A status that halts its queue (R289). -/
def haltsQueue (st : BitVec 4) : Bool := st = 3 || st = 4 || st = 5 || st = 9
/-- The detail word of a queue-fault trap (R289). -/
def QEntry.fault (e : QEntry) (q : BitVec 4) : BitVec 64 := q ++ e.status ++ e.failAddr
/-- The completion word of an entry that has a block, written once (R293). -/
def State.writeWord (s : State) (i : Fin 16) (e : QEntry) : State :=
  if e.kind = .join || e.kind = .sig || e.worded then s
  else
    (s.putMarked s.cur (e.blkAddr.toNat + 24) (cleanBytes (leBytes 8 (e.step.toNat * 2 ^ 32 + e.status.toNat)))).onHead i
      fun e => { e with worded := true }
/-- The head leaves its queue; a halting status halts it, with a queue-fault trap owed (R288, R289). -/
def Queue.pop (q : Queue) (n : BitVec 4) (e : QEntry) : Queue :=
  { q with
    entries := q.entries.drop 1, completed := q.completed + 1, last := e.status
    halt := haltsQueue e.status
    owed := if haltsQueue e.status then q.owed ++ [e.fault n] else q.owed
    fault := if haltsQueue e.status then e.fault n else q.fault }
/-- Whether the head entry of a queue is at its end: finished, a QSIG, or a QJOIN whose queues are not halted and have
completed the entries it names (R289, R305). -/
def Ctx.headReady (c : Ctx) (e : QEntry) : Bool :=
  e.finished || e.kind = .sig ||
  (e.kind = .join && e.joins.all fun j => !(c.queues[fin4 j.1]).halt && decide (j.2 ≤ (c.queues[fin4 j.1]).completed))
/-- Complete the head entry: its completion word, its signal, its leaving (R288, R289, R298). -/
def State.completeHead (s : State) (q : BitVec 4) : State :=
  let i := fin4 q
  match (s.ctx.queues[i]).entries with
  | [] => s
  | e :: _ =>
    if (s.ctx.queues[i]).halt || !s.ctx.headReady e then s
    else
      let s := s.writeWord i e
      match (match e.sig with | some h => s.queueSignal q h | none => some s) with
      | none => s
      | some s => (s.onQueue i fun x => x.pop q e).readKey i
/-- QUEUE_ENTRY_COMPLETE (R288). -/
def execQueueEntryComplete (core : CoreNum) (q : BitVec 4) (s : State) : Out :=
  s.queueStep core fun s => s.completeHead q

/-- COLLECTIVE_CONTRIBUTION (R302): a member's contribution to a step arrives once; a module that takes no traffic answers as R309
gives (R23, R471). -/
def execCollectiveContribution (part : PartNum) (group : BitVec 10) (step : BitVec 32) (rank : BitVec 16)
    (elems : List (BitVec 128 × Bool)) (s : State) : Out :=
  .next (match s.unready with
  | some t => t
  | none => s.onPart part fun q =>
    if (q.contrib group step rank.toNat).isSome then q
    else { q with contribs := q.contribs ++ [⟨group, step, rank, elems⟩] })
/-- GROUP_TIMEOUT (R303): a head that has not started is checked first; then it ends with what was contributed, and what lacks a
contribution is written poison. -/
def execGroupTimeout (core : CoreNum) (q : BitVec 4) (s : State) : Out :=
  s.queueStep core fun s =>
    let i := fin4 q
    match s.openHead i with
    | some e =>
      (match e.coll with
      | some c =>
        if e.out.isSome then s
        else
          let s := s.onQueue i fun q => { q with held := false, nacked := false }
          match (if e.started then none else s.collRefused e c) with
          | some st => s.collRefuse i e c st
          | none => (if e.started then s else s.collStart i e).collFinish i e c
      | none => s)
    | none => s

/-! ## Units that get no answer (R290) -/

/-- An access of a head's next unit: its address, and whether its translation finds a home other than this core's scratchpad and
tiles; whether that is another module, and whether it is a shed die, which answers (R486). -/
structure UnitAccess where
  addr : BitVec 64
  away : Bool
  remote : Bool
  shed : Bool
/-- What an access of a space asks of its home. -/
def State.unitAccess (s : State) (sp : BitVec 4) (a : BitVec 64) (k : Kind) : UnitAccess :=
  if sp = 2 then
    match (s.xlate { s.ctx.taskAgent with tlb := false } k a).1 with
    | .ok x => ⟨a, true, x.remote.isSome, s.siteShed (siteServing x)⟩
    | .error _ => ⟨a, false, false, false⟩
  else if sp = 1 then
    match s.remoteOf a with
    | some (c, _) => ⟨a, true, false, s.shedCore c⟩
    | none => ⟨a, false, false, false⟩
  else ⟨a, false, false, false⟩
/-- The read and the write that the head's next step makes, if it makes them, with the unit of a data-moving entry. -/
def State.headAccess (s : State) (e : QEntry) : Option UnitAccess × Option UnitAccess × Option QUnit × State :=
  let read (a : BitVec 64) := s.unitAccess e.blk.sspace a .read
  let write (a : BitVec 64) := s.unitAccess e.blk.dspace a .write
  match e.kind with
  | .join | .sig => (none, none, none, s)
  | .dec | .enc | .coll =>
    if e.out.isSome then (none, (spanUnit e.sinks e.resume).map fun u => write u.1, none, s)
    else if e.kind = .coll && !e.started then (none, none, none, s)
    else ((spanUnit e.sources e.got.length).map fun u => read u.1, none, none, s)
  | _ =>
    let (u, s) := s.nextUnit e
    (if e.kind = .fill || u.badIndex then none else some (read u.src),
     if u.badIndex && e.kind = .scat then none else some (write u.dst), some u, s)
/-- The head's read ends without an answer: it reads poison (R290, R298). -/
def State.readLost (s : State) (i : Fin 16) (e : QEntry) (u : Option QUnit) : State :=
  match u, spanUnit e.sources e.got.length with
  | some u, _ => s.landUnit i e u (badBytes u.n)
  | none, some (_, n) =>
    match e.coll with
    | some c => s.collTake i e c (badBytes n)
    | none => s.takeBytes i (badBytes n)
  | none, none => s
/-- The head's write ends without an acknowledgement: the entry ends with ACKLOST, and the write may have been performed or not
(R289, R231). -/
def State.writeLost (s : State) (i : Fin 16) (e : QEntry) (u : Option QUnit) (a : BitVec 64) : State :=
  let (k, s) := s.fresh
  let s := if !Config.writePerformed k then s else
    match u, e.out with
    | some u, _ => (match s.unitBytes e u [] with
      | (.ok l, s) => (s.spaceWrite e.blk.dspace u.dst l e.bad).2
      | (.error _, s) => s)
    | none, some l =>
      (match spanUnit e.sinks e.resume with
      | some (a, n) => (s.spaceWrite e.blk.dspace a ((l.drop e.resume).take n)).2
      | none => s)
    | none, none => s
  s.failHead i (.fail 9) a
/-- Whether an access can end without an answer: its home is no shed die, whose answers restart the count (R290, R486). -/
def UnitAccess.timesOut (x : UnitAccess) : Bool := x.away && !x.shed
/-- The head goes on or ends: nothing holds it any longer. -/
def State.unhold (s : State) (i : Fin 16) : State := s.onQueue i fun q => { q with held := false, nacked := false }
/-- The head entry whose unit may have been sent. -/
def State.sentHead (s : State) (i : Fin 16) : Option QEntry := (s.openHead i).filter fun e => !s.ctx.commandWaits e
/-- A unit's request gets no answer within TMO (R290). -/
def State.unitTimeout (s : State) (i : Fin 16) : State :=
  match s.sentHead i with
  | none => s
  | some e =>
    let (r, w, u, s) := s.headAccess e
    let (k, s) := s.fresh
    match r.filter (·.timesOut), w.filter (·.timesOut) with
    | some _, none => (s.unhold i).readLost i e u
    | none, some y => (s.unhold i).writeLost i e u y.addr
    | some _, some y => if Config.writeLost k then (s.unhold i).writeLost i e u y.addr else (s.unhold i).readLost i e u
    | none, none => s
/-- A unit's request is refused by its target, another module: the entry ends with ADDRESS (R290, R511). -/
def State.unitRefused (s : State) (i : Fin 16) : State :=
  match s.sentHead i with
  | none => s
  | some e =>
    let (r, w, _, s) := s.headAccess e
    match r.filter (·.remote), w.filter (·.remote) with
    | some x, _ => (s.unhold i).sourceFails i e (.fail 4) x.addr
    | none, some y => (s.unhold i).failHead i (.fail 4) y.addr
    | none, none => s

end Sys2Proof.Machine
end

