-- ==== Sys2Proof/Machine/Ready.lean ====
section
/-!
DEFINITION. Which tasks are ready, where they may run and in which order (R332, R351-R353), and which context is pre-empted
(R354).
-/

namespace Sys2Proof.Machine

/-! ## Where a task may run -/

/-- The dies that hold a grove of a launch's set, in order. -/
def Launch.dies (l : Launch) : List (BitVec 2) :=
  ((List.range 4).filter fun d => (List.range 4).any fun g => l.groves.getLsbD (4 * d + g)).map (BitVec.ofNat 2)
/-- The mixed-radix index over the die levels alone, if the kernel has one (R332). -/
def Kernel.dieIndex (k : Kernel) (sidx : Nat) : Option Nat :=
  let sp := k.levels.filter fun l => !l.temporal
  let its := (sp.zip (mixedRadix sp sidx)).filter fun x => x.1.kind = 2
  if its.isEmpty then none else some (its.foldl (fun n x => n * x.1.extent + x.2) 0)
/-- The die of a task, under a die rule (R332). -/
def Launch.homeDie (l : Launch) (sidx : Nat) : Option (BitVec 2) :=
  (l.kern.dieIndex sidx).bind fun d => l.dies[d % l.dies.length]?
/-- Whether a task of a launch may run on a core (R332). -/
def State.mayRun (s : State) (l : Launch) (sidx : Nat) (c : CoreNum) : Bool :=
  let g := groveOf c
  l.groves.getLsbD g.toNat && s.groveRuns g && s.grovePart g = some l.part &&
  (match l.homeDie sidx with
    | some d => d = dieOf c
    | none => true)
/-- The first task number from `i` on that passes a test, with fuel. -/
def scanTasks (f : Nat → Bool) : Nat → Nat → Option Nat
  | 0, _ => none
  | n + 1, i => if f i then some i else scanTasks f n (i + 1)
/-- Whether a task of a launch has not started. -/
def Launch.unstarted (l : Launch) (i : Nat) : Bool :=
  l.skipped.contains i || (decide (l.nextTask ≤ i) && decide (i < l.total))
/-- The tasks of a launch that have not started and of which one may be the next on a core: those that have waited longest, and the
first of all; each needs a free frame (R351). -/
def State.freshTasks (s : State) (l : Launch) (c : CoreNum) : List Nat :=
  if l.freeFrames.isEmpty then []
  else
    let aged := (l.ages.map (·.1)).filter fun i => l.unstarted i && s.mayRun l i c
    aged ++ ((match l.skipped.find? fun i => s.mayRun l i c with
    | some i => some i
    | none => scanTasks (fun i => s.mayRun l i c) (l.total - l.nextTask) l.nextTask).toList.filter fun i => !aged.contains i)
/-- A launch after a task has been taken to start: the tasks passed over wait in `skipped`. -/
def Launch.take (l : Launch) (i : Nat) : Launch :=
  let l := { l with ages := smDel i l.ages }
  if l.skipped.contains i then { l with skipped := l.skipped.filter (· ≠ i) }
  else { l with
    skipped := l.skipped ++ (List.range (i - l.nextTask)).map (· + l.nextTask)
    nextTask := i + 1 }

/-! ## The order of ready tasks -/

/-- A ready task: its launch, index and effective priority, when it became ready, whether it was started before. -/
structure Cand where
  lid : BitVec 32
  sidx : Nat
  eff : Nat
  since : Nat
  saved : Bool
/-- Effective priority (R353). -/
def effPrio (prio : BitVec 3) (aging : Nat) : Nat := Nat.min 7 (prio.toNat + aging)
/-- Whether a task comes before another (R353). -/
def Cand.before (a b : Cand) : Bool :=
  if a.eff ≠ b.eff then decide (b.eff < a.eff)
  else if a.since ≠ b.since then decide (a.since < b.since)
  else if a.lid ≠ b.lid then decide (a.lid.toNat < b.lid.toNat)
  else a.saved && !b.saved
/-- The ready tasks of a partition that may run on a core: saved ones, and of each launch those not started that may come
next. -/
def State.candidates (s : State) (p : PartNum) (c : CoreNum) : List Cand :=
  let saved := s.tasks.filterMap fun t =>
    if t.part = p && t.status = .ready && t.saving.isNone then
      match s.launch? p t.lid with
      | some l => if s.mayRun l t.sidx c then
          some ⟨t.lid, t.sidx, effPrio l.prio t.aging, t.ready, true⟩ else none
      | none => none
    else none
  let fresh := s.launches.filterMap fun l =>
    if l.part = p then some ((s.freshTasks l c).map fun i =>
      (⟨l.lid, i, effPrio l.prio (smGet 0 i l.ages), l.readyAt, false⟩ : Cand)) else none
  saved ++ fresh.flatten
/-- The first of a list of ready tasks. -/
def bestCand : List Cand → Option Cand
  | [] => none
  | a :: t => match bestCand t with
    | some b => some (if b.before a then b else a)
    | none => some a
/-- Whether a ready task finds an idle core (R354). -/
def State.findsIdle (s : State) (p : PartNum) (a : Cand) : Bool :=
  match s.launch? p a.lid with
  | none => false
  | some l => (List.range 16).any fun g => l.groves.getLsbD g &&
      (coresOf (BitVec.ofNat 4 g)).any fun c => !(s.core c).busy && s.mayRun l a.sidx c

/-! ## Pre-emption -/

/-- The priority of the task on a core. -/
def State.runPrio (s : State) (c : CoreNum) : Nat :=
  let x := (s.core c).ctx
  match s.launch? x.part x.lid with
  | some l => l.prio.toNat
  | none => 0
/-- Whether a ready task waits for a core (R354, R355): one that may run on it and finds no idle core. -/
def State.wanted (s : State) (c : CoreNum) (least : Nat) : Bool :=
  let p := (s.core c).ctx.part
  (s.candidates p c).any fun a => decide (least ≤ a.eff) && !s.findsIdle p a
/-- Whether a core qualifies as a victim (R354). -/
def State.victim (s : State) (c : CoreNum) : Option (Nat × Nat) :=
  let k := s.core c
  match k.expired with
  | none => none
  | some n => if k.busy && !k.ctx.boot && !k.saving && s.wanted c (s.runPrio c) then some (s.runPrio c, n) else none
/-- Whether a core is the victim: no other of its partition qualifies with a lower priority, then an earlier expiry, then a
lower number (R354). -/
def State.preempted (s : State) (c : CoreNum) : Bool :=
  match s.victim c with
  | none => false
  | some a => (s.cores.filter fun e => e.2.busy && e.2.ctx.part = (s.core c).ctx.part && e.1 != c.toNat).all fun e =>
      match s.victim (BitVec.ofNat 8 e.1) with
      | none => true
      | some b => decide (a.1 < b.1) || (a.1 == b.1 && (decide (a.2 < b.2) || (a.2 == b.2 && decide (c.toNat < e.1))))

end Sys2Proof.Machine
end

