-- ==== Sys2Proof/Machine/Starting.lean ====
section
/-!
DEFINITION. The starting and restoring of tasks (R332, R333, R351-R353, R439, R440, R446), quanta and aging (R353, R354), the
swap of long waits and what makes a waiting task ready again (R355).
-/

namespace Sys2Proof.Machine

/-- The identity of a task. -/
def Task.id (t : Task) : TaskId := ⟨t.part, t.lid, t.sidx⟩
/-- Change a task of the table. -/
def State.onTask (s : State) (i : TaskId) (f : Task → Task) : State :=
  { s with tasks := s.tasks.map fun (t : Task) => if t.id = i then f t else t }

/-! ## What makes a saved task ready again (R355) -/

/-- The task's context as it would stand on the core that it left, to try what it waits for. -/
def State.asTask (s : State) (t : Task) : State :=
  { s.onCore t.home fun k => { k with busy := true, ctx := t.ctx, spad := t.spad, spadMark := t.spadMark } with cur := t.home }
/-- Whether a level other than 3 would be granted to a saved task in its grove set (R373). -/
def State.levelOpen (s : State) (t : Task) : Bool :=
  match s.launch? t.part t.lid with
  | some l => (List.range 16).any fun g => l.groves.getLsbD g && s.groveRuns (BitVec.ofNat 4 g) &&
      grantedLevel (s.grove (BitVec.ofNat 4 g)) t.ctx.lease ≠ 3
  | none => true
/-- Whether the translation of an access waits for a page, or for a granule whose owner changes (R356, R411). -/
def State.waitsPage (s : State) (k : Kind) (va : BitVec 64) (n : Nat) : Bool :=
  match (s.xlateAll { s.ctx.taskAgent with tlb := false } k (blockPieces (n + 1) va n)).1 with
  | .error (.page ..) | .error .granule => true
  | _ => false
/-- Whether the fetch that a handle's window holds waits for its page (R208). -/
def State.fetchWaitsPage (s : State) (h : Fin 16) : Bool :=
  (s.ctx.h[h]).win.any fun w => w.held && s.waitsPage .read (w.desc.rowVa w.t) (s.ctx.h[h]).rb
/-- Whether the unit that a queue holds waits for its page (R290). -/
def State.unitWaitsPage (s : State) (q : Fin 16) : Bool :=
  match s.openHead q with
  | none => false
  | some e =>
    let (r, w, _, s) := s.headAccess e
    (s.ctx.queues[q]).held &&
      ((e.blk.sspace = 2 && r.any fun x => s.waitsPage .read x.addr 1) ||
       (e.blk.dspace = 2 && w.any fun x => s.waitsPage .write x.addr 1))
/-- Whether the condition of a waiting task holds (R355), once its save has ended. -/
def State.waitOver (s : State) (t : Task) : Bool :=
  t.saving.isNone &&
  match t.status with
  | .phase h p => (match s.phaser? h with | some x => phaseDone x.phase p | none => true)
  | .lock va =>
    (match (s.readVirt (taskAgent t.part t.lid) (va.setWidth 64) 8).1 with
    | .ok (l, _) => leNat l = 0
    | .error _ => true)
  | .ring h => !(s.asTask t).fetchWaitsPage h
  | .queuePage q => !(s.asTask t).unitWaitsPage q
  | .level => s.levelOpen t
  | _ => false
/-- Tasks whose condition holds become ready; this is done after every step, so that each has the moment at which its wait ended
(R353). -/
def State.wake (s : State) : State :=
  let now := s.seqno
  if s.tasks.any s.waitOver then
    { s with
      tasks := s.tasks.map fun t => if s.waitOver t then { t with status := .ready, ready := now, aging := 0 } else t
      seqno := now + 1 }
  else s

/-! ## Starting a task (R333) -/

/-- Load a core's constant cache from a launch's constant copy (R213, R351). -/
def State.loadConsts (s : State) (c : CoreNum) (l : Launch) : State :=
  let lo := l.base + l.frames * l.frameSize
  let s := (smSlice (blockOf lo) 1024 s.mem.check).foldl (fun s e => (s.checkBlock (some l.part) true (e.1 * 64)).2) s
  let bad := ((smSlice (blockOf lo) 1024 s.mem.check).filter fun e => !s.trunk.elided (e.1 * 64) && (finding e.2).bad).map
    fun e => e.1 - blockOf lo
  let bytes := (smSlice lo 65536 s.mem.bytes).filter fun e => !s.trunk.elided e.1
  s.onCore c fun k => { k with const := bytes.map (fun e => (e.1 - lo, e.2)), constMark := bad }
/-- The start values of a task's scalar registers: ARG in a9, and the spatial induction values (R333). -/
def startRegs (k : Kernel) (sidx : Nat) : Vector TVal 16 :=
  let vs := k.induction sidx 0
  (k.levels.zip vs).zipIdx.foldl (fun a x =>
      a.set (walkerReg x.2) (TVal.mk (if x.1.1.temporal then 0 else x.1.2) 0))
    ((Vector.replicate 16 TVal.zero).set 9 (TVal.mk k.arg 0))
/-- The context of a task at its start, before its windows are bound. -/
def startCtx (l : Launch) (sidx : Nat) (pick : Nat) : Ctx :=
  let k := l.kern
  let w := k.firstRun pick
  let c : Ctx := { Ctx.zero with
    part := l.part
    lid := l.lid
    sidx := sidx
    kern := k
    task := { Thread.zero with a := startRegs k sidx }
    h := k.rings0.foldl (fun v r => v.set (fin4 (BitVec.ofNat 4 r.1)) r.2) Ctx.zero.h
    csr := { Csrs.zero with srstate := mixSeed 1 sidx w.mixP } }
  c.beginRun w
/-- A checkpoint of a context (R458): its image and the phase numbers of its memberships. -/
def State.checkpointOf (s : State) (x : Ctx) (spad : SMap Byte) (mark : List Nat) : Checkpoint :=
  { part := x.part, lid := x.lid, sidx := x.sidx, ctx := x, spad := spad, spadMark := mark
    phases := s.phasers.filterMap fun p =>
      if p.part = x.part then (p.member? x.id).map fun m => (p.handle, m.sph, m.wph) else none }
/-- Start a task of a launch on an idle core (R333, R351, R352). Its first checkpoint is its initial state (R458); an open droop window
makes the running context suspect (R198). -/
def State.startTask (s : State) (l : Launch) (sidx : Nat) (c : CoreNum) : State :=
  let (n, s) := s.fresh
  let x := startCtx l sidx (Config.walkPick n)
  let t : Task := ⟨l.part, l.lid, x.sidx, (l.freeFrames.head?).getD 0, .running c, x, [], [], 0, 0, c, none⟩
  let s := (s.onLaunch l.part l.lid fun l => { l.take sidx with freeFrames := l.freeFrames.drop 1 })
  let s := { s with tasks := s.tasks ++ [t] }
  let s := s.onCore c fun k => { k with busy := true, ctx := x, spad := [], spadMark := [], spadErr := [], expired := none }
  let s := s.loadConsts c l
  let s := s.asCore c fun s => l.kern.wins0.foldl (fun s w => s.bindWindow (BitVec.ofNat 4 w.1) w.2) s
  let s := if l.slots then { s with checkpoints := s.checkpoints ++ [s.checkpointOf (s.core c).ctx [] []] } else s
  s.onCore c fun k => { k with ctx := { k.ctx with csr := { k.ctx.csr with suspect := (s.grove (groveOf c)).window.isSome } } }

/-! ## Restoring a task (R439, R440, R446) -/

/-- Whether a restore's reads of a frame fail (R446). -/
def State.frameBad (s : State) (l : Launch) (t : Task) : Bool :=
  let lo := l.base + t.frame * l.frameSize
  !s.trunk.ownsRange l.part lo l.frameSize ||
    (smSlice (lo / 64) (l.frameSize / 64) s.mem.check).any fun e => (finding e.2).bad && e.2 ≠ markPattern
/-- What a restore makes of a lease (R381, R440): returned on another grove, with its record; on the same one active again if
there is room, else suspended. -/
def State.restoreLease (s : State) (c : CoreNum) (left : CoreNum) : State :=
  let x := (s.core c).ctx
  let g := groveOf c
  if !x.lease.held then s
  else if groveOf left ≠ g then
    let old := s.granted c
    let s := s.onCore c fun k => { k with ctx := { k.ctx with lease := .zero } }
    s.power x.part { type := 0x24, code := 4, grove := (groveOf left).toNat, old := old.toNat, new := (s.granted c).toNat,
                     core := left.toNat, value := x.lease.remain.toNat, lid := x.lid.toNat }
  else
    if s.activeLeases g ≤ (s.grove g).leaseMax then s
    else
      (s.onCore c fun k => { k with ctx := { k.ctx with lease := { k.ctx.lease with suspended := true } } }).onGrove g
        fun y => { y with suspended := y.suspended ++ [c] }
/-- Restore a saved task on an idle core (R439): its windows fetch again, its queues go on. The frame holds the scratchpad below SPAD;
every byte above it is zero (R412, R443). -/
def State.restoreTask (s : State) (l : Launch) (t : Task) (c : CoreNum) : State :=
  let x := t.ctx
  let window := (s.grove (groveOf c)).window.isSome
  let x := { x with csr := { x.csr with suspect := x.csr.suspect || window } }
  let s := s.onTask t.id fun y => { y with status := .running c, aging := 0 }
  let s := s.onCore c fun k => { k with
    busy := true, ctx := x, spad := smSlice 0 x.kern.spad t.spad, spadMark := t.spadMark.filter fun b => b * 64 < x.kern.spad
    spadErr := [], expired := none }
  let s := (s.loadConsts c l).restoreLease c t.home
  s.asCore c fun s => (List.finRange 16).foldl (fun s i =>
    (s.retryWindow (BitVec.ofNat 4 i.val)).unhold i) s
/-- A restore whose frame cannot be read (R446): record 0x3A, and a rollback, which loses the task where it has no
checkpoint. -/
def State.restoreFails (s : State) (l : Launch) (t : Task) : State :=
  let s := s.errRecord (some t.part) { type := 0x3A, code := 1, lid := t.lid.toNat, addr := l.base + t.frame * l.frameSize,
                                       sidx := t.sidx }
  s.onTask t.id fun y => { y with status := .rollback 0x3A }

/-! ## Dispatch, quanta, aging -/

/-- Give a core to the first ready task of a partition that may run on it. -/
def State.giveCore (s : State) (p : PartNum) (c : CoreNum) : State :=
  match bestCand (s.candidates p c) with
  | none => s
  | some a =>
    match s.launch? p a.lid with
    | none => s
    | some l =>
      if !a.saved then s.startTask l a.sidx c
      else
        match s.tasks.find? fun t => t.id = ⟨p, a.lid, a.sidx⟩ with
        | none => s
        | some t => if s.frameBad l t then s.restoreFails l t else s.restoreTask l t c
/-- DISPATCH (R352, R353). Nothing starts while dormancy stops the module (R469). -/
def execDispatch (part : PartNum) (core : CoreNum) (s : State) : Out :=
  .next (if (s.core core).busy || s.trunk.phase ≠ 0 || s.grovePart (groveOf core) ≠ some part then s
    else s.giveCore part core)
/-- QUANTUM_EXPIRY (R353, R354): the quantum stays expired until the context leaves its core; the victim of R354 stops, but not
while a collective of its queues is in progress (R297). -/
def execQuantumExpiry (core : CoreNum) (s : State) : Out :=
  let k := s.core core
  .next (if !k.busy || k.ctx.boot || k.expired.isSome then s
    else
      let s := { s.onCore core fun k => { k with expired := some s.seqno } with seqno := s.seqno + 1 }
      if s.preempted core && !(s.core core).ctx.collBusy then s.stop core .ready else s)
/-- AGING_STEP (R353): a ready task has waited one more AGE. -/
def execAgingStep (part : PartNum) (lid : BitVec 32) (sidx : Nat) (s : State) : Out :=
  let i : TaskId := ⟨part, lid, sidx⟩
  .next (if s.tasks.any fun t => t.id = i then s.onTask i fun t => if t.status = .ready then { t with aging := t.aging + 1 } else t
    else s.onLaunch part lid fun l =>
      if l.unstarted sidx then { l with ages := smSet 0 sidx (smGet 0 sidx l.ages + 1) l.ages } else l)

/-! ## Long waits (R355) -/

/-- What a ring wait waits for: the page of a fetch held at the head of the window, or nothing. -/
def Ctx.ringWait (c : Ctx) (h : Fin 16) : TStatus := if ((c.h[h]).win).any (·.held) then .ring h else .ready
/-- The handle that an outstanding ring read waits for. -/
def Ctx.ringRead? (c : Ctx) : Option (Fin 16) :=
  c.task.board.findSome? fun p => match p.val with
    | .ring h _ _ => some h
    | .vring h _ _ _ => some h
    | _ => none
/-- The first queue of a context with a unit held. -/
def Ctx.heldQueue (c : Ctx) : Option (Fin 16) := (List.finRange 16).find? fun i => (c.queues[i]).held
/-- What a task that is saved in a long wait waits for, if its wait is one (R355, R373). -/
def Ctx.longWait (c : Ctx) : Option TStatus :=
  match c.wait with
  | .phase h p => some (.phase h p)
  | .lock va => some (.lock va)
  | .ring h => some (c.ringWait h)
  | .board => c.ringRead?.map c.ringWait
  | .level3 => some .level
  | .order | .queueFull => c.heldQueue.map .queuePage
  | _ => none
/-- LONG_WAIT_SWAP (R355): only while a ready task of its grove set finds no idle core. -/
def execLongWaitSwap (core : CoreNum) (s : State) : Out :=
  let k := s.core core
  .next (if !k.busy || k.ctx.boot || k.saving || !s.wanted core 0 then s
    else
      match k.ctx.longWait with
      | some w => s.stop core w
      | none => s)

end Sys2Proof.Machine
end

