-- ==== Sys2Proof/Machine/Pollard.lean ====
section
/-!
DEFINITION. Pollard mode (R484-R487): brown-out levels, shedding and restoring compute dies.
-/

namespace Sys2Proof.Machine

/-- SHED. -/
def Trunk.shedBits (t : Trunk) : BitVec 4 := t.pollctl.setWidth 4
/-- BUSY: a die whose SHED bit and state differ (R484). -/
def Trunk.pollWorks (t : Trunk) : Bool :=
  (List.range 4).any fun d => t.shedBits.getLsbD d != t.shedOrder.contains (BitVec.ofNat 2 d)
/-- What pollstat reads. -/
def Trunk.pollstat (t : Trunk) : BitVec 64 := BitVec.ofBool t.pollWorks ++ (0 : BitVec 61) ++ t.brown
/-- Set SHED. -/
def Trunk.setShed (t : Trunk) (m : BitVec 4) : Trunk := { t with pollctl := regMerge t.pollctl (m.setWidth 64) 0xF }
/-- A write of pollctl, on a module that announces pollard mode (R1): one that sets all four SHED bits is ignored, and SHED keeps its value while BUSY. -/
def State.writePollctl (s : State) (v : BitVec 64) : State :=
  if v.setWidth 4 = (0xF : BitVec 4) || !s.trunk.announces 0x008 then s
  else s.onTrunk fun t => { t with pollctl := regMerge t.pollctl v (if t.pollWorks then 0x8000000FFFFFFFF0 else 0x8000000FFFFFFFFF) }
/-- AUTO. -/
def Trunk.autoShed (t : Trunk) : Bool := t.pollctl.getLsbD 63
/-- The highest-numbered live die, unless it is the only one. -/
def Trunk.topDie (t : Trunk) : Option (BitVec 2) :=
  let live := (List.range 4).filter fun d => t.dieslive.getLsbD d && !t.shedBits.getLsbD d
  if live.length ≤ 1 then none else (live.getLast?).map (BitVec.ofNat 2)
/-- BROWN_OUT_CHANGE (R484): with AUTO, a rise sets the SHED bit of the highest-numbered live die. -/
def execBrownOutChange (level : BitVec 2) (s : State) : Out :=
  let rise := decide (s.trunk.brown.toNat < level.toNat) && s.trunk.announces 0x008
  .next (s.onTrunk fun t =>
    let t := { t with brown := level }
    match (if rise && t.autoShed then t.topDie else none) with
    | some d => t.setShed (t.shedBits ||| (1#4 <<< d.toNat))
    | none => t)
/-- BROWN_FALL_HELD (R484): with AUTO, the most recently set bit clears. -/
def execBrownFallHeld (s : State) : Out :=
  .next (s.onTrunk fun t =>
    match (if t.autoShed && t.announces 0x008 then t.shedOrder.getLast? else none) with
    | some d => t.setShed (t.shedBits &&& ~~~(1#4 <<< d.toNat))
    | none => t)

/-- The partitions that hold a grove of a die. -/
def State.partsOfDie (s : State) (d : BitVec 2) : List PartNum :=
  ((List.range 8).map (BitVec.ofNat 3)).filter fun p =>
    (s.part p).en && (List.range 4).any fun g => (s.part p).partctl.getLsbD (4 * d.toNat + g)
/-- Record 0x64 or 0x65 (R483). -/
def State.dieRecord (s : State) (type : Nat) (d : BitVec 2) : State :=
  s.errRecords (s.partsOfDie d) { type, code := d.toNat, value := s.trunk.brown.toNat }
/-- The groves of a die. -/
def dieGroves (d : BitVec 2) : BitVec 16 := 0xF <<< (4 * d.toNat)
/-- The cores of a die that hold a context. -/
def State.busyOn (s : State) (die : BitVec 2) : List CoreNum :=
  (s.cores.filter fun e => e.2.busy && dieOf (BitVec.ofNat 8 e.1) = die).map fun e => BitVec.ofNat 8 e.1
/-- DIE_SHED (R485): the die's contexts are saved and wait, and its bits clear; memory and scratchpads keep every byte. While a save
waits for a collective (R297) the shed is not done, and a later step ends it. -/
def execDieShed (die : BitVec 2) (s : State) : Out :=
  .next (if !s.trunk.shedBits.getLsbD die.toNat || s.trunk.shedOrder.contains die then s
  else
    let s := (s.busyOn die).foldl (fun s c => s.stop c .die) s
    if s.busyOn die ≠ [] then s else
    let s := s.onTrunk fun t => { t with
      dieslive := t.dieslive &&& ~~~(1#4 <<< die.toNat)
      groveslive := t.groveslive &&& ~~~dieGroves die
      shedOrder := t.shedOrder ++ [die] }
    s.dieRecord 0x64 die)
/-- DIE_RESTORE (R485): the bits of the groves that the start brought up are set, and the waiting tasks are ready. -/
def execDieRestore (die : BitVec 2) (s : State) : Out :=
  .next (if s.trunk.shedBits.getLsbD die.toNat || !s.trunk.shedOrder.contains die then s
  else
    let back := s.trunk.groveok &&& dieGroves die
    let s := s.onTrunk fun t => { t with
      dieslive := if back = 0 then t.dieslive else t.dieslive ||| (1 <<< die.toNat)
      groveslive := t.groveslive ||| back
      shedOrder := t.shedOrder.filter (· ≠ die) }
    let now := s.seqno
    let s : State := { s with
      seqno := now + 1
      tasks := s.tasks.map fun t =>
        if t.status = .die && dieOf t.home = die then { t with status := .ready, ready := now, aging := 0 } else t }
    s.dieRecord 0x65 die)

end Sys2Proof.Machine
end

