-- ==== Sys2Proof/Machine/Power.lean ====
section
/-!
DEFINITION. The power registers of groves (R378, R379), thermal changes, droop windows (R198, R199), row timers (R217), and
the event queue's registers (R385, R386).
-/

namespace Sys2Proof.Machine

/-! ## Grove power -/

/-- A level record of a grove, to the partition that holds it (R388). -/
def State.levelRecord (s : State) (g : GroveNum) (type code : Nat) (old new : BitVec 2) (value : Nat) : State :=
  match s.grovePart g with
  | some p => s.power p { type, code, grove := g.toNat, old := old.toNat, new := new.toNat, value }
  | none => s
/-- A field held between bounds. -/
def clampField (v lo hi : Nat) : Nat := Nat.min hi (Nat.max lo v)
/-- A write of grovepwr (R378): LEASELEN at least 10, LEASEMAX at most 16; FREQ, EFF and THERM are read-only. -/
def State.writeGrovepwr (s : State) (g : GroveNum) (v : BitVec 64) : State :=
  let x := s.grove g
  let len := BitVec.ofNat 5 (clampField (v.extractLsb' 43 5).toNat 10 31)
  let max := BitVec.ofNat 5 (clampField (v.extractLsb' 38 5).toNat 0 16)
  let w : BitVec 64 := (0 : BitVec 16) ++ len ++ max ++ v.extractLsb' 36 2 ++ (0 : BitVec 20) ++ v.extractLsb' 15 1 ++
    (0 : BitVec 11) ++ x.therm ++ v.extractLsb' 0 2
  let s := s.onGrove g fun y => { y with pwr := w }
  let s := if (s.grove g).eff = x.eff then s else s.levelRecord g 0x20 0 x.eff (s.grove g).eff 0
  s.regrant g
/-- GROVEPWR_WRITE (R378). -/
def execGrovepwrWrite (by_ : Writer) (grove : GroveNum) (v : BitVec 64) (s : State) : Out :=
  .next (s.written by_ (writerFull by_) (s.writeGrovepwr grove v))
/-- What grovepwr reads: FREQ as hardware sampled it last (R378), EFF is Max(LEVEL, THERM). -/
def Grove.readPwr (x : Grove) : BitVec 64 := x.freq ++ x.pwr.extractLsb' 6 42 ++ x.eff ++ x.pwr.extractLsb' 0 4
/-- A write of slewramp: the next step boundary takes it (R378). -/
def State.writeSlewramp (s : State) (g : GroveNum) (v : BitVec 64) : State := s.onGrove g fun y => { y with ramp := v }

/-- THERM_CHANGE (R378): record 0x21 with the sensors' reading. A grove that reaches 3 while dormancy drains stops the
regions that need not drain (R479). -/
def execThermChange (grove : GroveNum) (level : BitVec 2) (reading : BitVec 64) (s : State) : Out :=
  let old := (s.grove grove).therm
  .next (if level = old then s
    else
      let (k, s) := s.fresh
      let s := if s.trunk.phase = 3 && level = 3 && s.trunk.hot.isNone then
          s.onTrunk fun t => { t with hot := some (Config.drained k) }
        else s
      (s.onGrove grove fun y => { y with pwr := regMerge y.pwr (level.setWidth 64 <<< 2) 0xC }).levelRecord grove 0x21
        (if old.toNat < level.toNat then 0 else 1) old level reading.toNat)

/-! ## Droop -/

/-- A context with SUSPECT set. -/
def Ctx.doubted (c : Ctx) : Ctx := { c with csr := { c.csr with suspect := true } }
/-- Mark a task whose context left the grove within the 16 cycles before its trip (R198): on a core, or in its saved image. -/
def State.doubtTask (s : State) (t : Task) : State :=
  match t.status with
  | .running c => s.onCore c fun k => { k with ctx := k.ctx.doubted }
  | st =>
    let hit (u : Task) : Bool := u.part = t.part && u.lid = t.lid && u.sidx = t.sidx
    ({ s with tasks := s.tasks.map fun u => if hit u then { u with ctx := u.ctx.doubted } else u } : State).saveFrame
      t.ctx.doubted st.waitsPage t.spad t.spadMark
/-- DROOP_TRIP (R198, R199): with EN, the contexts on the grove's cores, and those that left them within the 16 cycles before,
become suspect, and the window opens under the HOLD in force. Each trip writes record 0x25. -/
def execDroopTrip (grove : GroveNum) (cycles : Trip) (s : State) : Out :=
  let x := s.grove grove
  let s := if x.droopctl.getLsbD 31 then
      let s := ((coresOf grove).filter fun c => (s.core c).busy).foldl (fun s c =>
        s.onCore c fun k => { k with ctx := k.ctx.doubted })
        (s.onGrove grove fun y => { y with window := some (y.window.getD (x.droopctl.extractLsb' 16 8)) })
      (s.tasks.filter fun t => groveOf t.home = grove && cycles.before.contains (t.part, t.lid, t.sidx)).foldl State.doubtTask s
    else s
  .next (s.levelRecord grove 0x25 0 0 0 cycles.cycles.toNat)
/-- DROOP_WINDOW_END (R198). -/
def execDroopWindowEnd (grove : GroveNum) (s : State) : Out := .next (s.onGrove grove fun y => { y with window := none })

/-- ROW_IDLE_TIMER (R217): row policy changes timing only. -/
def execRowIdleTimer (_stack : BitVec 3) (_bank : Nat) (_hitQueued : Bool) (s : State) : Out := .next s

/-! ## The event queue's registers -/

/-- The writable bits of evqbase. -/
def evqMask : BitVec 64 := 0x0F0FFFFFFFFFF001
/-- Whether a ring lies wholly in HBM. -/
def evqInHbm (v : BitVec 64) : Bool :=
  decide ((v.extractLsb' 12 40).toNat * 4096 + 32 * 2 ^ ((v.extractLsb' 56 4).toNat + 6) ≤ 0x8000000000)
/-- A write of evqbase (R385): while EN is 1 it changes only EN; one that sets EN needs a ring in HBM, and sets TAIL to HEAD. -/
def Part.writeEvqbase (q : Part) (v : BitVec 64) : Part :=
  let old := q.evqbase
  if old.getLsbD 0 then { q with evqbase := regMerge old v 1 }
  else if v.getLsbD 0 then
    (if evqInHbm v then { q with evqbase := v &&& evqMask, evqtail := q.evqhead } else q)
  else { q with evqbase := v &&& evqMask }
/-- A write of evqbase, which R416 locks. -/
def State.writeEvqbase (s : State) (p : PartNum) (v : BitVec 64) : State :=
  s.unlessLocked p (s.onPart p fun q => q.writeEvqbase v)
/-- EVQBASE_WRITE (R385). -/
def execEvqbaseWrite (by_ : Writer) (part : PartNum) (v : BitVec 64) (s : State) : Out :=
  .next (s.written by_ (writerOf by_ part) (s.writeEvqbase part v))
/-- A write of evqhead: one that moves past TAIL is ignored (R386). -/
def State.writeEvqhead (s : State) (p : PartNum) (v : BitVec 64) : State :=
  s.onPart p fun q =>
    if (q.evqtail - q.evqhead).toNat < (v.setWidth 32 - q.evqhead).toNat then q else { q with evqhead := v.setWidth 32 }
/-- What evqtail reads; the read clears LOST (R385). -/
def State.readEvqtail (s : State) (p : PartNum) : BitVec 64 × State :=
  let q := s.part p
  (q.evqlost ++ q.evqtail, s.onPart p fun q => { q with evqlost := 0 })

end Sys2Proof.Machine
end

