-- ==== Sys2Proof/Machine/Images.lean ====
section
/-!
DEFINITION. Kernel images and range lists as the scheduler reads them at admission (R328, R329, R348).
-/

namespace Sys2Proof.Machine

/-- What ends the reading of an image: data unreadable or broken, a page to wait for, or a granule whose owner changes. -/
inductive ImgStop where
  | bad
  | page (va : BitVec 56) (level : BitVec 2)
  | later
  deriving DecidableEq, Repr

/-- The scheduler as an agent of a partition (R348). -/
def schedAgent (p : PartNum) : Agent := ⟨p, none, false, true, false, false, false⟩
/-- A read of the scheduler for a partition (R348): poison and what another module refuses are unreadable; it waits on a shed
die (R486). -/
def State.readImg (s : State) (p : PartNum) (va : BitVec 64) (n : Nat) : Except ImgStop (List Byte) × State :=
  if n = 0 then (.ok [], s)
  else
    match s.xlateSpan (schedAgent p) .read va n with
    | (.error (.page v _ l), s) => (.error (.page v l), s)
    | (.error (.trap _ _), s) => (.error .bad, s)
    | (.error _, s) => (.error .later, s)
    | (.ok xs, s) =>
      if s.shedPieces xs then (.error .later, s) else
      let (no, s) := s.refuses xs
      let (l, bad, s) := s.readPieces p xs
      (if no || bad then .error .bad else .ok l, s)
/-- Read several areas of an image. -/
def State.readAreas (s : State) (p : PartNum) (va : BitVec 64) :
    List (Nat × Nat) → Except ImgStop (List (List Byte)) × State
  | [] => (.ok [], s)
  | (off, n) :: t =>
    match s.readImg p (va + BitVec.ofNat 64 off) n with
    | (.error e, s) => (.error e, s)
    | (.ok l, s) =>
      match s.readAreas p va t with
      | (.error e, s) => (.error e, s)
      | (.ok r, s) => (.ok (l :: r), s)

/-- Bytes of a record as a number. -/
def field (l : List Byte) (off n : Nat) : Nat := leNat ((l.drop off).take n)
/-- Cut bytes into records of a size. -/
def records (z : Nat) : Nat → List Byte → List (List Byte)
  | 0, _ => []
  | n + 1, l => l.take z :: records z n (l.drop z)
/-- The ones of a 16-bit mask, in ascending order. -/
def maskBits (m : Nat) : List Nat := (List.range 16).filter fun i => m / 2 ^ i % 2 = 1

/-- A loop level (R329), if its record is well formed. -/
def Level.ofRecord (l : List Byte) : Option Level :=
  if field l 4 4 = 0 || 2 < field l 8 1 || 1 < field l 9 1 || field l 10 6 ≠ 0 then none
  else some ⟨BitVec.ofNat 32 (field l 0 4), BitVec.ofNat 32 (field l 4 4), BitVec.ofNat 8 (field l 8 1), field l 9 1 = 1⟩
/-- A range (R329). -/
def RangeRec.ofRecord (l : List Byte) : Option RangeRec :=
  let w := field l 8 8
  if field l 7 1 ≠ 0 || w % 2 ^ 48 = 0 || 4 ≤ w / 2 ^ 48 then none
  else some ⟨BitVec.ofNat 56 (field l 0 7), BitVec.ofNat 48 w, BitVec.ofNat 2 (w / 2 ^ 48)⟩
/-- A switch row (R329). -/
def SwitchRow.ofRecord (l : List Byte) : SwitchRow :=
  ⟨BitVec.ofNat 16 (field l 0 2), BitVec.ofNat 32 (field l 4 4), BitVec.ofNat 32 (field l 8 4), BitVec.ofNat 32 (field l 12 4)⟩
/-- A schedule of the header (R328): absent with CODEOFF 0. -/
def schedOf (h : List Byte) (va : BitVec 64) (i : Nat) : Option Sched :=
  let o := 48 + 16 * i
  if field h o 4 = 0 then none
  else some ⟨(va + BitVec.ofNat 64 (field h o 4)).extractLsb' 4 52, BitVec.ofNat 32 (field h (96 + 4 * i) 4),
    BitVec.ofNat 32 (field h (o + 4) 4), BitVec.ofNat 32 (field h (o + 8) 4), BitVec.ofNat 32 (field h (o + 12) 4)⟩
/-- Whether a present schedule's entry points keep R328. -/
def Sched.ok (c : Sched) : Bool :=
  let opt (x : BitVec 32) : Bool := x = 0xFFFFFFFF || decide (x.toNat < c.len.toNat)
  opt c.pro && opt c.epi && decide (c.body.toNat < c.len.toNat)
/-- Whether a header keeps R328 and R375. -/
def headerOk (h : List Byte) (va : BitVec 64) : Bool :=
  let n (off z : Nat) : Nat := field h off z
  let code (i : Nat) : Bool := n (48 + 16 * i) 4 % 16 = 0 && match schedOf h va i with | some c => c.ok | none => true
  va.toNat % 256 = 0 && n 0 4 = 0x0E024B31 && n 4 1 ≤ 6 && n 5 1 ≤ 64 && n 6 2 ≤ 256 && n 8 2 ≤ 4096 && n 10 1 < 8 &&
  n 11 1 &&& 0x78 = 0 && n 12 4 ≤ 65536 && n 16 4 % 8 = 0 && n 20 4 % 16 = 0 && n 24 4 % 16 = 0 && n 28 4 % 32 = 0 &&
  n 32 4 % 16 = 0 && n 40 4 % 4096 = 0 && n 40 4 ≤ 1572864 && n 44 1 ≤ 16 && n 45 1 ≤ 8 && n 46 1 ≤ 4 && n 47 1 ≤ 64 &&
  n 112 16 = 0 && (n 110 2 &&& n 108 2) = n 110 2 && (maskBits (n 108 2)).length ≤ n 44 1 &&
  (schedOf h va 0).isSome && code 0 && code 1 && code 2 &&
  (n 8 2 = 0 || ((schedOf h va 1).isSome && (schedOf h va 2).isSome))
/-- The areas that a header locates: loop table, range list, binding list, switch table, ring records and windows,
constants. -/
def headerAreas (h : List Byte) : List (Nat × Nat) :=
  let n (off z : Nat) : Nat := field h off z
  [(n 20 4, 16 * n 4 1), (n 24 4, 16 * n 5 1), (n 28 4, 32 * n 6 2), (n 32 4, 16 * n 8 2),
   (n 36 4, 16 * (maskBits (n 108 2)).length + 48 * (maskBits (n 110 2)).length), (n 16 4, n 12 4)]
/-- IMGEND (R418): the largest end among the header, the areas and each present schedule's code. -/
def imageEndOf (h : List Byte) : Nat :=
  let code (i : Nat) : Nat := if field h (48 + 16 * i) 4 = 0 then 0 else field h (48 + 16 * i) 4 + 16 * field h (96 + 4 * i) 4
  ((headerAreas h).map fun a => if a.2 = 0 then 0 else a.1 + a.2).foldl Nat.max (Nat.max 128 (Nat.max (code 0) (Nat.max (code 1) (code 2))))
/-- Whether POINT values rise strictly. -/
def pointsRise : List SwitchRow → Bool
  | a :: b :: t => decide (a.point.toNat < b.point.toNat) && pointsRise (b :: t)
  | _ => true
/-- Whether a switch row keeps R329. -/
def switchOk (h : List Byte) (l : List Byte) : Bool :=
  field l 0 2 ≤ 4095 && field l 2 2 = 0 && (List.range 3).all fun i => decide (field l (4 + 4 * i) 4 < field h (96 + 4 * i) 4)
/-- A binding record as the words of R232, with its last word. -/
def bindRecord (l : List Byte) : BitVec 64 × BitVec 64 × BitVec 64 × BitVec 64 :=
  (word64At l 0, word64At l 8, word64At l 16, word64At l 24)
/-- The kernel of an image's bytes, or none where they break R328, R329 or R205. -/
def kernelOf (h : List Byte) (va : BitVec 64) (areas : List (List Byte)) :
    Option (Kernel × List (BitVec 64 × BitVec 64 × BitVec 64 × BitVec 64)) :=
  let area (i : Nat) : List Byte := (areas[i]?).getD []
  let levels := (records 16 (field h 4 1) (area 0)).map Level.ofRecord
  let ranges := (records 16 (field h 5 1) (area 1)).map RangeRec.ofRecord
  let binds := (records 32 (field h 6 2) (area 2)).map bindRecord
  let rows := records 16 (field h 8 2) (area 3)
  let hs := maskBits (field h 108 2)
  let ws := maskBits (field h 110 2)
  let rings := records 16 hs.length (area 4)
  let wins := records 48 ws.length ((area 4).drop (16 * hs.length))
  let spad := field h 40 4
  let ringBad (l : List Byte) : Bool := !ringRecordOk (word64At l 0) (word64At l 8) spad
  let handles := hs.zip (rings.map fun l => Handle.ofWords (word64At l 0) (word64At l 8))
  let winBad (x : Nat × List Byte) : Bool :=
    !winBytesOk x.2 || (match handles.find? fun r => r.1 == x.1 with | some r => r.2.rowb = 0 | none => true)
  if levels.any (·.isNone) || ranges.any (·.isNone) || binds.any (fun b => !b.1.getLsbD 63) ||
     rows.any (fun l => !switchOk h l) || !pointsRise (rows.map SwitchRow.ofRecord) || rings.any ringBad ||
     (ws.zip wins).any winBad then none
  else
    let drain := field h 11 1
    some ({ spad, rings := field h 44 1, tiles := field h 45 1, wslots := field h 46 1, phasers := field h 47 1
            levels := levels.filterMap id
            sched0 := schedOf h va 0, sched1 := schedOf h va 1, sched2 := schedOf h va 2
            switches := rows.map SwitchRow.ofRecord
            ranges := ranges.filterMap id
            binds := binds.map fun b => (b.1, b.2.1, b.2.2.1)
            rings0 := handles
            wins0 := ws.zip (wins.map WinDesc.ofBytes)
            consts := writeBytes [] 0 (area 5)
            prio := BitVec.ofNat 3 (field h 10 1)
            drain := BitVec.ofNat 3 drain
            must := 128 ≤ drain
            arg := 0
            order := false
            imageEnd := imageEndOf h }, binds)

/-- Read and check the image of a packet (R348): the kernel with the packet's ARG and ORDER, and its binding records. -/
def State.readKernel (s : State) (p : PartNum) (k : Packet) :
    Except ImgStop (Kernel × List (BitVec 64 × BitVec 64 × BitVec 64 × BitVec 64)) × State :=
  let va := BitVec.ofNat 64 (k.num 0 8)
  match (if va.toNat % 256 = 0 then s.readImg p va 128 else (.error .bad, s)) with
  | (.error e, s) => (.error e, s)
  | (.ok h, s) =>
    if !headerOk h va then (.error .bad, s)
    else
      match s.readAreas p va (headerAreas h) with
      | (.error e, s) => (.error e, s)
      | (.ok areas, s) =>
        match kernelOf h va areas with
        | none => (.error .bad, s)
        | some (c, b) => (.ok ({ c with arg := BitVec.ofNat 64 (k.num 8 8), order := k.num 27 1 % 2 = 1 }, b), s)
/-- Read a replacing range list (R330, R348); without one, the image's list stands. -/
def State.readRanges (s : State) (p : PartNum) (k : Packet) (own : List RangeRec) : Except ImgStop (List RangeRec) × State :=
  let va := BitVec.ofNat 64 (k.num 16 8)
  let n := k.num 24 2
  if va = 0 then (.ok own, s)
  else if va.toNat % 16 ≠ 0 then (.error .bad, s)
  else
    match s.readImg p va (16 * n) with
    | (.error e, s) => (.error e, s)
    | (.ok l, s) =>
      let r := (records 16 n l).map RangeRec.ofRecord
      (if r.any (·.isNone) then .error .bad else .ok (r.filterMap id), s)

end Sys2Proof.Machine
end

