-- ==== Sys2Proof/Machine/Partitions.lean ====
section
/-!
DEFINITION. Partitions (R407, R408), the configuration window (R410, R232, R233, R316), ownership of memory (R411, R412), the
TDISP interface (R415-R417), key slots and owner ranges (R418, R419, R422), SPDM (R414).
-/

namespace Sys2Proof.Machine

/-! ## partctl -/

/-- Whether a grove belongs to a partition, or is still being taken from one. -/
def Part.holds (q : Part) (g : Nat) : Bool := q.partctl.getLsbD g || q.removing.getLsbD g
/-- Groves on which a context of the partition is resident (R407). -/
def State.resident (s : State) (p : PartNum) : BitVec 16 :=
  (s.cores.filter fun e => e.2.busy && e.2.ctx.part = p).foldl
    (fun m e => m ||| (1 <<< (groveOf (BitVec.ofNat 8 e.1)).toNat)) 0
/-- What partstat reads. -/
def State.partstat (s : State) (p : PartNum) : BitVec 64 :=
  let q := s.part p
  BitVec.ofBool q.busy ++ (0 : BitVec 3) ++ q.lasterr ++ (0 : BitVec 40) ++ s.resident p
/-- What keystat reads. -/
def Part.keystat (q : Part) : BitVec 64 :=
  let bits (f : Fin 16 → Bool) : BitVec 16 := (List.finRange 16).foldl (fun m i => if f i then m ||| (1 <<< i.val) else m) 0
  (0 : BitVec 32) ++ bits (fun i => (q.ranges[i]).isSome) ++ bits fun i => (q.keys[i]).isSome
/-- Record an error of a GROVES write. -/
def State.partError (s : State) (p : PartNum) (e : BitVec 4) : State := s.onPart p fun q => { q with lasterr := e }
/-- Clear the key slots and the owner ranges of a partition, zeroing the ranges (R412, R416). -/
def State.clearAllKeys (s : State) (p : PartNum) : State := s.clearKeys p fun _ => true
/-- Tear a partition down (R408): its launches end, its keys and ranges are cleared; its granules and groves are freed when
the change is done. -/
def State.teardown (s : State) (p : PartNum) : State :=
  ((s.endLaunches p 0x22).clearAllKeys p).onPart p fun q => { q with
    busy := true, teardown := true, removing := q.removing ||| q.partctl.setWidth 16, partctl := 0 }
/-- Whether a grove of a set is held by another partition. -/
def State.heldElsewhere (s : State) (p : PartNum) (set : BitVec 16) : Bool :=
  (List.range 16).any fun g => set.getLsbD g &&
    ((s.part p).removing.getLsbD g || (List.range 8).any fun n =>
      let q := BitVec.ofNat 3 n
      q ≠ p && (s.part q).holds g)
/-- A write of partctl (R408). EN = 1 with GROVES = 0 leaves a partition that exists and holds no grove, though R21 speaks of a
nonempty set: DESIGN CHOICE (log 107). -/
def State.writePartctl (s : State) (by_ : Writer) (p : PartNum) (v : BitVec 64) : State :=
  let q := s.part p
  let old := q.partctl.setWidth 16
  let new := v.setWidth 16
  if q.busy && by_ = .host then s
  else if q.en && !v.getLsbD 63 then s.teardown p
  else if new ≠ old && q.locked then (s.partError p 3).enterError p
  else if s.heldElsewhere p (new &&& ~~~old) then s.partError p 1
  else if old &&& ~~~new &&& s.resident p ≠ 0 then s.partError p 2
  else
    let gone := old &&& ~~~new
    s.onPart p fun q => { q with
      partctl := regMerge q.partctl v 0x800000000000FFFF
      removing := q.removing ||| gone
      busy := q.busy || decide (gone ≠ 0) }
/-- PARTCTL_WRITE (R408). -/
def execPartctlWrite (by_ : Writer) (part : PartNum) (v : BitVec 64) (s : State) : Out :=
  .next (s.written by_ (writerFull by_) (s.writePartctl by_ part v))
/-- PARTITION_TEARDOWN (R408): a write that clears EN. -/
def execPartitionTeardown (by_ : Writer) (part : PartNum) (v : BitVec 64) (s : State) : Out :=
  .next (s.written by_ (writerFull by_ && !v.getLsbD 63 && (s.part part).en) (s.writePartctl by_ part v))
/-- Zero the cores of a grove and invalidate its TLBs (R408, R412). -/
def State.zeroGrove (s : State) (g : GroveNum) : State :=
  let s := { s with
    tlb1 := (coresOf g).foldl (fun m c => smDel c.toNat m) s.tlb1
    tlb2 := smDel g.toNat s.tlb2
    fetched := (coresOf g).foldl (fun m c => smDel c.toNat m) s.fetched }
  (coresOf g).foldl (fun s c => s.onCore c fun k => { k with
    ctx := .zero, spad := [], spadMark := [], spadErr := [], const := [], constMark := [] }) s
/-- The HBM granules of a partition. -/
def Trunk.granulesOwned (t : Trunk) (p : PartNum) : List Nat := (List.range 512).filter fun g => t.owner g = p.setWidth 4
/-- The granules of a partition, heartwood's among them. -/
def Trunk.ownedBy (t : Trunk) (p : PartNum) : List Nat := (List.range 3584).filter fun g => t.owner g = p.setWidth 4
/-- Zero a granule: memory, elision bits (R455), undo entries (R459); no TLB translates into it, and no fetch holds its bundles
(R411). -/
def State.zeroGranule (s : State) (g : Nat) : State :=
  if g < 512 then
    let s := (s.tlbDrop fun e => meetsGranule e.reach.1 e.reach.2 g).fetchDrop fun a => meetsGranule a 16 g
    { s with
      mem := s.mem.zero (g * 0x40000000) 0x40000000
      trunk := { s.trunk with elide := smDel g s.trunk.elide }
      undo := s.undo.filter fun u => u.block * 64 / 0x40000000 ≠ g }
  else s
/-- GROVE_CHANGE_DONE (R408): removed groves are zeroed and free; after a teardown every granule is zeroed and free. -/
def execGroveChangeDone (part : PartNum) (s : State) : Out :=
  let q := s.part part
  .next (if !q.busy then s
  else
    let s := (((List.range 16).filter fun g => q.removing.getLsbD g).foldl (fun s g => s.zeroGrove (BitVec.ofNat 4 g)) s)
    let s := if q.teardown then
        (s.trunk.ownedBy part).foldl (fun s g => (s.zeroGranule g).onTrunk fun t => (t.ownerGone g).setOwn g 0x0F) s
      else s
    s.onPart part fun q => { q with busy := false, teardown := false, removing := 0 })

/-! ## The configuration window -/

/-- A write of cfgsel (R410): a new TABLE or INDEX discards what is staged. -/
def Part.writeCfgsel (q : Part) (v : BitVec 64) : Part :=
  let new := v &&& 0xC000000000003FFF
  let moved := new.extractLsb' 62 2 ≠ q.cfgsel.extractLsb' 62 2 || new.extractLsb' 0 12 ≠ q.cfgsel.extractLsb' 0 12
  { q with cfgsel := new, staged := if moved then [] else q.staged }
/-- CFGSEL_WRITE (R410). -/
def execCfgselWrite (by_ : Writer) (part : PartNum) (v : BitVec 64) (s : State) : Out :=
  .next (s.written by_ (writerOf by_ part) (s.onPart part fun q => q.writeCfgsel v))
/-- The entry that cfgsel selects: table, index and word, if they are in range. -/
def Part.selected (q : Part) : Option (Bool × Nat × Nat) :=
  let table := q.cfgsel.extractLsb' 62 2
  let word := (q.cfgsel.extractLsb' 12 2).toNat
  let ix := (q.cfgsel.extractLsb' 0 12).toNat
  if table = 0 then some (false, ix, word)
  else if table = 1 && ix < 1024 && word < 2 then some (true, ix, word)
  else none
/-- A word of a table as installed. -/
def Part.installed (q : Part) (group : Bool) (ix word : Nat) : BitVec 64 :=
  if group then (let e := smGet 0 ix q.groups; if word = 0 then e.setWidth 64 else e.extractLsb' 64 64)
  else
    let e := smGet (0, 0, 0) ix q.bind
    if word = 0 then e.1 else if word = 1 then e.2.1 else if word = 2 then e.2.2 else 0
/-- What cfgdata reads. -/
def Part.cfgdata (q : Part) : BitVec 64 :=
  match q.selected with
  | some (g, ix, w) => q.installed g ix w
  | none => 0
/-- The refusal rules of R233 on a binding's words; 0x002 is the capability of pool scope. -/
def bindingOk (caps : List (BitVec 12)) (w0 w1 w2 w3 : BitVec 64) : Bool :=
  let scope := (w0.extractLsb' 56 3).toNat
  let vbase := (w0.extractLsb' 7 49).toNat
  let lines := (w1.extractLsb' 0 49).toNat
  lines ≠ 0 && decide (vbase * 128 + lines * 128 ≤ 2 ^ 56) && decide (scope < 6) && (scope ≠ 5 || caps.contains 2) &&
  (if w2.getLsbD 63 then w2.extractLsb' 0 3 = 0 else w2.extractLsb' 32 24 = 0) &&
  w0 &&& 0x780000000000007F = 0 && w1.extractLsb' 49 15 = 0 && w2.extractLsb' 56 7 = 0 && w3 = 0
/-- Install the staged words of the selected entry (R410): a binding that R233 refuses keeps VALID 0. -/
def Part.install (q : Part) (caps : List (BitVec 12)) (group : Bool) (ix : Nat) : Part :=
  let word (n : Nat) : BitVec 64 := smGet (q.installed group ix n) n q.staged
  let q' := { q with staged := [] }
  if group then
    { q' with groups := smSet 0 ix ((word 1 &&& 0x80000000FFFFFFFF) ++ (word 0 &&& 0xFFFFFFFFFFFF0000)) q.groups }
  else
    let ok := (word 0).getLsbD 63 && bindingOk caps (word 0) (word 1) (word 2) (word 3)
    let w0 := (word 0 &&& 0x07FFFFFFFFFFFF80) ||| (if ok then 1#64 <<< 63 else 0)
    { q' with bind := smSet (0, 0, 0) ix (w0, word 1 &&& 0x0001FFFFFFFFFFFF, word 2 &&& 0x80FFFFFFFFFFFFFF) q.bind }
/-- A write of cfgdata (R410): it stages a word; the word that holds VALID installs the entry. An installed group may let
phases of its phasers complete (R362). -/
def State.writeCfgdata (s : State) (p : PartNum) (v : BitVec 64) : State :=
  match (s.part p).selected with
  | none => s
  | some (group, ix, w) =>
    let s := s.onPart p fun q => { q with staged := smPut w v q.staged }
    if w = (if group then 1 else 0) then
      (let s := s.onPart p fun q => q.install s.trunk.caps group ix
       if group then s.settleGroup p ix else s)
    else s
/-- CFGDATA_WRITE (R410). -/
def execCfgdataWrite (by_ : Writer) (part : PartNum) (v : BitVec 64) (s : State) : Out :=
  .next (s.written by_ (writerOf by_ part) (s.writeCfgdata part v))

/-! ## Ownership of memory -/

/-- A write of memsel. -/
def State.writeMemsel (s : State) (v : BitVec 64) : State := s.onTrunk fun t => { t with memsel := v.setWidth 12 }
/-- The granule that memsel names. -/
def Trunk.gran (t : Trunk) : Nat := t.memsel.toNat
/-- What memown reads of the selected granule; a number above 3,583 names none. -/
def Trunk.memownWord (t : Trunk) : BitVec 64 :=
  BitVec.ofBool (!t.ownBusy.isEmpty) ++ (0 : BitVec 55) ++ (if t.gran < 3584 then t.ownByte t.gran else 0)
/-- The partition that an OWNER code names. -/
def ownerPartOf (o : BitVec 4) : Option PartNum := if o.toNat < 8 then some (o.setWidth 3) else none
/-- Whether OWNER may change from one code to another (R411). -/
def State.ownerFree (s : State) (old new : BitVec 4) : Bool :=
  s.trunk.ownBusy.isEmpty &&
  (match ownerPartOf old with
    | some p => (s.liveLids p).isEmpty && !(s.part p).locked
    | none => true) &&
  (match ownerPartOf new with
    | some p => !(s.part p).locked
    | none => true)
/-- A write of memown (R411, R416, R466): FABRIC, and OWNER where it may change; the change then runs until OWNER_CHANGE_DONE. -/
def State.writeMemown (s : State) (v : BitVec 64) : State :=
  let g := s.trunk.gran
  let old := s.trunk.owner g
  let new := v.setWidth 4
  let put (o : BitVec 4) : State := s.onTrunk fun t => t.setOwn g ((0 : BitVec 2) ++ v.extractLsb' 5 1 ++ (0 : BitVec 1) ++ o)
  if 3584 ≤ g then s
  else if (match ownerPartOf old with | some p => (s.part p).locked | none => false) then
    (match ownerPartOf old with
    | some p => s.enterError p
    | none => s)
  else if new = old || (8 ≤ new.toNat && new ≠ 0xF) || (512 ≤ g && g < 1538) || !s.ownerFree old new then put old
  else (put new).onTrunk fun t => { t.ownerGone g with ownBusy := [(g, new)] }
/-- OWNER_CHANGE (R411). -/
def execOwnerChange (by_ : Writer) (v : BitVec 64) (s : State) : Out := .next (s.written by_ (writerFull by_) (s.writeMemown v))
/-- OWNER_CHANGE_DONE (R411): the granule is zeroed, and BUSY clears. -/
def execOwnerChangeDone (s : State) : Out :=
  .next ((s.trunk.ownBusy.foldl (fun s g => s.zeroGranule g.1) s).onTrunk fun t => { t with ownBusy := [] })

/-! ## The TDISP interface -/

/-- A TDISP request that the interface's state does not allow (R416). -/
def State.tdispError (s : State) : State := s.send (.tdisp false [])
/-- LOCK_INTERFACE (R416). -/
def execLockInterface (part : PartNum) (s : State) : Out :=
  let q := s.part part
  .next (if q.tdi = 0 && q.en then
      (s.onPart part fun q => { q.setTdi 1 with session := s.trunk.secured }).send (.tdisp true [])
    else s.tdispError)
/-- The ranges of the host link's BARs that a partition's interface comprises (R415, R317): its launch ports in BAR 2, the host
window in BAR 4, its three blocks in BAR 0; each a BAR, an offset and bytes. -/
def barRanges (p : PartNum) : List (Nat × Nat × Nat) :=
  let n := p.toNat
  [(2, 0x1000 * n, 0x1000), (4, 0, 0x1000000000), (0, 0x4000 + 0x40 * n, 0x40), (0, 0x6000 + 0x40 * n, 0x40),
   (0, 0x7000 + 0x40 * n, 0x40)]
/-- What the interface report tells (R416, R457): GROVES, the locked registers, the BAR ranges, the owned granules. Its layout is
the model's (log 30). -/
def State.interfaceReport (s : State) (p : PartNum) : List Byte :=
  let q := s.part p
  leBytes 2 q.partctl.toNat ++ leBytes 8 q.ptroot.toNat ++ leBytes 8 q.framectl.toNat ++ leBytes 8 q.evqbase.toNat ++
    leBytes 8 q.ckptlog.toNat ++ (barRanges p).flatMap (fun b => leBytes 1 b.1 ++ leBytes 8 b.2.1 ++ leBytes 8 b.2.2) ++
    (s.trunk.ownedBy p).flatMap fun g => leBytes 2 g
/-- GET_DEVICE_INTERFACE_REPORT (R416). -/
def execGetDeviceInterfaceReport (part : PartNum) (s : State) : Out :=
  .next (if (s.part part).locked then s.send (.tdisp true (s.interfaceReport part)) else s.tdispError)
/-- START_INTERFACE (R416). -/
def execStartInterface (part : PartNum) (s : State) : Out :=
  .next (if (s.part part).tdi = 1 then (s.onPart part fun q => { q.setTdi 2 with session := q.session || s.trunk.secured }).send (.tdisp true []) else s.tdispError)
/-- STOP_INTERFACE (R416): in every state; launches end as in teardown, keys and ranges are cleared, owned granules zeroed. -/
def execStopInterface (part : PartNum) (s : State) : Out :=
  let s := (s.endLaunches part 0x22).clearAllKeys part
  let s := (s.trunk.ownedBy part).foldl (fun s g => (s.zeroGranule g).onTrunk fun t => t.dropCuts g) s
  .next ((s.onPart part fun q => { q.setTdi 0 with session := false }).send (.tdisp true []))
/-- UNTAGGED_TLP (R417): in RUN it has no effect; a write moves TDI to ERROR, a read completes with Unsupported Request. -/
def execUntaggedTlp (part : PartNum) (write : Bool) (s : State) : Out :=
  .next (if (s.part part).tdi = 2 then (if write then s.enterError part else s.send .unsupported) else s)

/-! ## Key slots and owner ranges -/

/-- Whether a secured session is held with a partition's interface (R418). -/
def State.sessionWith (s : State) (p : PartNum) : Bool := s.trunk.secured && (s.part p).session
/-- Answer a vendor-defined request (R418); 0 is success. -/
def State.vendor (s : State) (code : BitVec 8) : State := s.send (.vendor code)
/-- KEYSET's refusal code, or 0 (R418): code 6 comes after 1 and before the others. -/
def State.keysetCode (s : State) (p : PartNum) (slot : BitVec 8) (lid : BitVec 32) (digest : BitVec 256) : BitVec 8 :=
  if (s.part p).tdi ≠ 2 then 1
  else if 16 ≤ slot.toNat then 6
  else
    match s.launch? p lid with
    | none => 2
    | some l =>
      if l.digest ≠ digest then 3
      else if ((s.part p).keys[fin4 (slot.setWidth 4)]).isSome then 4 else 0
/-- KEYSET (R418, R422). -/
def execKeyset (part : PartNum) (slot : BitVec 8) (lid : BitVec 32) (digest key : BitVec 256) (s : State) : Out :=
  .next (if !s.sessionWith part then s
  else
    let c := s.keysetCode part slot lid digest
    let s := if c = 0 then s.onPart part fun q => { q with keys := q.keys.set (fin4 (slot.setWidth 4)) (some ⟨key, lid⟩) } else s
    s.vendor c)
/-- OWNSET's refusal code, or 0 (R418). -/
def State.ownsetCode (s : State) (p : PartNum) (entry : BitVec 8) (base : BitVec 52) (units lid : BitVec 32) : BitVec 8 :=
  let n := units.toNat * 65536
  if (s.part p).tdi ≠ 2 then 1
  else if 16 ≤ entry.toNat || base.toNat % 65536 ≠ 0 || units = 0 || 2 ^ 24 ≤ units.toNat then 6
  else if (s.launch? p lid).isNone then 2
  else if !s.trunk.ownsRange p base.toNat n || (s.part p).ranges.toList.any fun r => match r with
      | some r => decide (base.toNat < r.base.toNat + r.units.toNat * 65536) && decide (r.base.toNat < base.toNat + n)
      | none => false then 5
  else if ((s.part p).ranges[fin4 (entry.setWidth 4)]).isSome then 4 else 0
/-- OWNSET (R418, R422): the range is zeroed before the answer. -/
def execOwnset (part : PartNum) (entry : BitVec 8) (base : BitVec 52) (units : BitVec 32) (lid : BitVec 32) (s : State) : Out :=
  .next (if !s.sessionWith part then s
  else
    let c := s.ownsetCode part entry base units lid
    let s := if c = 0 then
        ((s.onMem fun m => m.zero base.toNat (units.toNat * 65536)).forgetUndo base.toNat (units.toNat * 65536)).onPart part fun q => { q with
          ranges := q.ranges.set (fin4 (entry.setWidth 4)) (some ⟨base, units, lid⟩) }
      else s
    s.vendor c)
/-- KEYCLR (R418, R419). -/
def execKeyclr (part : PartNum) (range : Bool) (index : BitVec 8) (s : State) : Out :=
  let i := fin4 (index.setWidth 4)
  .next (if !s.sessionWith part then s
  else if (s.part part).tdi ≠ 2 then s.vendor 1
  else if 16 ≤ index.toNat then s.vendor 6
  else (if range then s.clearRange part i else s.onPart part fun q => { q with keys := q.keys.set i none }).vendor 0)

/-! ## SPDM and IDE -/

/-- The request codes of DSP0274 that the supported items of R414 use: GET_DIGESTS, GET_CERTIFICATE, CHALLENGE,
GET_VERSION, GET_MEASUREMENTS, GET_CAPABILITIES, NEGOTIATE_ALGORITHMS, KEY_EXCHANGE, FINISH, HEARTBEAT, END_SESSION. PRESUMED
from that standard (log 30). -/
def spdmCodes : List (BitVec 8) := [0x81, 0x82, 0x83, 0x84, 0xE0, 0xE1, 0xE3, 0xE4, 0xE5, 0xE8, 0xEC]
/-- The capability flags of R414 at the places of DSP0274: CERT, CHAL, MEAS with signature, ENCRYPT, MAC, KEY_EX, HBEAT. PRESUMED
(log 30). -/
def spdmFlags : Nat := 0x2 + 0x4 + 0x10 + 0x40 + 0x80 + 0x200 + 0x2000
/-- The algorithms of R414 at the places of DSP0274: RSAPSS_3072, SHA_256, secp384r1, AES-256-GCM. PRESUMED (log 30). -/
def spdmAlgorithms : List Byte := leBytes 4 0x8 ++ leBytes 4 0x1 ++ leBytes 2 0x10 ++ leBytes 2 0x2
/-- A measurement (R414): 0x10 + n is the digest of partition n's interface report, the others are free values. -/
def State.measurement (s : State) (i : BitVec 8) : BitVec 256 :=
  if 0x10 ≤ i.toNat && i.toNat < 0x18 then sha256 (s.interfaceReport (i.setWidth 3)) else Config.measurement i
/-- What an SPDM response holds (R414): a measurement's index is the payload's first byte. The other responses' contents are not
modelled (log 30). -/
def State.spdmAnswer (s : State) (code : BitVec 8) (payload : List (BitVec 8)) : List Byte :=
  if code = 0xE0 then leBytes 32 (s.measurement ((payload.head?).getD 0)).toNat
  else if code = 0xE1 then leBytes 4 spdmFlags
  else if code = 0xE3 then spdmAlgorithms
  else []
/-- What an SPDM request does to the session (R414): FINISH opens it after KEY_EXCHANGE, END_SESSION ends it. -/
def Trunk.spdm (t : Trunk) (code : BitVec 8) : Trunk :=
  if code = 0xE4 then { t with exchanged := true }
  else if code = 0xE5 then { t with secured := true, exchanged := false }
  else if code = 0xEC then { t with secured := false }
  else t
/-- SPDM_REQUEST (R414): a request that the module does not support, a FINISH without KEY_EXCHANGE and a HEARTBEAT or END_SESSION
without a session are answered with ERROR. -/
def execSpdmRequest (code : BitVec 8) (payload : List (BitVec 8)) (s : State) : Out :=
  .next (if !spdmCodes.contains code || (code = 0xE5 && !s.trunk.exchanged) ||
      ((code = 0xE8 || code = 0xEC) && !s.trunk.secured) then s.send (.spdm 0x7F [])
    else
      let out : OutMsg := .spdm (code - 0x80) (s.spdmAnswer code payload)
      let s := s.onTrunk fun t => t.spdm code
      (if code = 0xEC then { s with parts := s.parts.map fun q => { q with session := false } } else s).send out)
/-- IDE_KM (R415): within a secured session, a stream's key is set. Streams are link IDE, physical function 0 and one for
each partition. -/
def execIdeKm (stream : BitVec 4) (key : BitVec 256) (s : State) : Out :=
  .next (if s.trunk.secured && decide (stream.toNat < 10) then
    s.onTrunk fun t => { t with ideKeys := smPut stream.toNat key (t.ideKeys.map fun k => (k.1.toNat, k.2)) |>.map fun k =>
      (BitVec.ofNat 4 k.1, k.2) }
  else s)

end Sys2Proof.Machine
end

