-- ==== Sys2Proof/Machine/Admission.lean ====
section
/-!
DEFINITION. The scheduler's registers (R350, R429), the choice and the admission of launches (R346-R348, R351, R418, R458, R473),
page-fault answers (R356) and kills (R358).
-/

namespace Sys2Proof.Machine

/-! ## Registers -/

/-- A field of schedctl as a write stores it: 0 becomes 1 (R350). -/
def atLeast1 (x : BitVec 16) : BitVec 16 := if x = 0 then 1 else x
/-- A write of schedctl. -/
def Part.writeSchedctl (q : Part) (v : BitVec 64) : Part :=
  { q with schedctl := BitVec.ofBool (v.getLsbD 63) ++ (0 : BitVec 15) ++ atLeast1 (v.extractLsb' 32 16) ++
      atLeast1 (v.extractLsb' 16 16) ++ atLeast1 (v.extractLsb' 0 16) }
/-- The region of framectl, or of ckptlog: first byte and bytes. -/
def regionOfWord (v : BitVec 64) : Nat × Nat := ((v.extractLsb' 0 36).toNat * 65536, (v.extractLsb' 36 24).toNat * 65536)
/-- Whether a region lies wholly in HBM (R214). -/
def inHbm (r : Nat × Nat) : Bool := decide (r.1 + r.2 ≤ 0x8000000000)
/-- A write of framectl (R350, R416). -/
def State.writeFramectl (s : State) (p : PartNum) (v : BitVec 64) : State :=
  let v := v &&& 0x0FFFFFFFFFFFFFFF
  s.unlessLocked p (
    if (s.launches.any fun l => l.part = p) || !inHbm (regionOfWord v) then s
    else s.onPart p fun q => { q with framectl := v })
/-- A write of trapvec (R429). -/
def Part.writeTrapvec (q : Part) (v : BitVec 64) : Part := { q with trapvec := v &&& 0x800FFFFFFFFFFFFF }

/-! ## The choice of a head (R346, R347) -/

/-- Whether a head's dependences are satisfied (R346). A DEPPH whose phaser is gone holds nothing back: admission refuses it
(R348). -/
def State.eligible (s : State) (p : PartNum) (k : Packet) : Bool :=
  k.deps.isEmpty && (k.depPh = 0 || match s.depPhaser? p k with
    | some x => phaseDone x.phase k.depPhase
    | none => true)
/-- The default priority of a packet's image; 0 where it cannot be read. -/
def State.imagePrio (s : State) (p : PartNum) (k : Packet) : BitVec 3 :=
  match (s.readImg p (BitVec.ofNat 64 (k.num 0 8) + 10) 1).1 with
  | .ok l => BitVec.ofNat 3 (field l 0 1)
  | .error _ => 0
/-- The priority of a head. -/
def State.headPrio (s : State) (p : PartNum) (k : Packet) : Nat :=
  (k.prio (if k.prioByte.getLsbD 7 then s.imagePrio p k else 0)).toNat
/-- The eligible heads of a partition by queue. -/
def State.heads (s : State) (p : PartNum) : List (BitVec 4 × Packet) :=
  (List.finRange 16).filterMap fun i => match (s.part p).queues[i] with
    | k :: _ => if s.eligible p k then some (BitVec.ofNat 4 i.val, k) else none
    | [] => none
/-- The better of two heads (R347): priority, acceptance, queue. -/
def State.betterHead (s : State) (p : PartNum) (a b : BitVec 4 × Packet) : BitVec 4 × Packet :=
  let x := s.headPrio p a.2
  let y := s.headPrio p b.2
  if y < x then a else if x < y then b else if a.2.seq ≤ b.2.seq then a else b
/-- The head that admission takes: the chosen one while it waits (R347). -/
def State.pickHead (s : State) (p : PartNum) : Option (BitVec 4 × Packet) :=
  match (s.part p).chosen with
  | some q => (((s.part p).queues[fin4 q]).head?).map fun k => (q, k)
  | none => match s.heads p with
    | [] => none
    | h :: t => some (t.foldl (s.betterHead p) h)

/-! ## Admission (R348) -/

/-- F (R351). -/
def Kernel.frameSize (k : Kernel) : Nat := (65536 + k.spad + 65536 * k.tiles + 8192 * k.wslots + 65535) / 65536 * 65536
/-- The cores of a grove set. -/
def coreCount (groves : BitVec 16) : Nat := 16 * ((List.range 16).filter fun g => groves.getLsbD g).length
/-- Bytes that a launch holds in the frame region: its frames and its constant copy. -/
def Launch.regionBytes (l : Launch) : Nat := l.frames * l.frameSize + 65536
/-- Free room of the frame region: the lowest address with so many free bytes (the place is the model's choice). -/
def State.frameRoom (s : State) (p : PartNum) (n : Nat) : Option Nat :=
  let r := regionOfWord (s.part p).framectl
  let ls := s.launches.filter fun l => l.part = p
  let starts := r.1 :: ls.map fun l => l.base + l.regionBytes
  let free (a : Nat) : Bool := decide (r.1 ≤ a) && decide (a + n ≤ r.1 + r.2) &&
    ls.all fun l => decide (a + n ≤ l.base) || decide (l.base + l.regionBytes ≤ a)
  (starts.filter free).foldl (fun m a => match m with | some b => some (Nat.min a b) | none => some a) none

/-- The byte range that a binding covers (R232). -/
def bindRange (w0 w1 : BitVec 64) : Nat × Nat :=
  ((w0.extractLsb' 7 49).toNat * 128, (w1.extractLsb' 0 49).toNat * 128)
/-- Whether two ranges share a byte. -/
def rangesMeet (a b : Nat × Nat) : Bool := decide (a.1 < b.1 + b.2) && decide (b.1 < a.1 + a.2)
/-- Whether no two ranges of a list share a byte. -/
def apart : List (Nat × Nat) → Bool
  | [] => true
  | a :: t => t.all (fun b => !rangesMeet a b) && apart t
/-- The lowest entries of a binding table with VALID 0, so many of them. -/
def Part.freeBindings (q : Part) (n : Nat) : List Nat :=
  if n = 0 then [] else ((List.range 4096).filter fun i => !(smGet (0, 0, 0) i q.bind).1.getLsbD 63).take n
/-- Whether a binding list may be installed (R233, R348). -/
def State.bindingsOk (s : State) (p : PartNum) (l : List (BitVec 64 × BitVec 64 × BitVec 64 × BitVec 64)) : Bool :=
  let q := s.part p
  let rs := l.map fun b => bindRange b.1 b.2.1
  let old := (q.bind.filter fun e => e.2.1.getLsbD 63).map fun e => bindRange e.2.1 e.2.2.1
  l.all (fun b => bindingOk s.trunk.caps b.1 b.2.1 b.2.2.1 b.2.2.2) && apart rs &&
  rs.all (fun r => old.all fun o => !rangesMeet r o) && decide ((q.freeBindings l.length).length = l.length)

/-- A head leaves its queue. -/
def State.popHead (s : State) (p : PartNum) (q : BitVec 4) : State :=
  (s.onLaunchQueue p q fun l => l.drop 1).onPart p fun x => { x with chosen := none, headWait := none, headNeeds := none }
/-- Refuse the head of a queue with a code. -/
def State.refuseHead (s : State) (p : PartNum) (q : BitVec 4) (k : Packet) (code : Nat) (kern : Kernel := .zero) : State :=
  ((s.popHead p q).refuse p q k code kern).headCheck p q
/-- A head waits for a page of its image or range list (R348): record 0x13 with a token; `code` is what a TRAP answer refuses
it with. -/
def State.headPage (s : State) (p : PartNum) (q : BitVec 4) (k : Packet) (code : BitVec 8) (va : BitVec 56) : State :=
  let token := (s.part p).tokens
  let (t, s) := s.stamp
  (s.onPart p fun x => { x with
    chosen := some q, tokens := token + 1, headWait := some (token, va), headNeeds := some code }).enqueue p
    (leBytes 4 0x13 ++ leBytes 4 k.lid.toNat ++ leBytes 8 va.toNat ++ leBytes 4 token.toNat ++ leBytes 4 0 ++ leBytes 8 t.toNat) t
/-- What stops the reading of an image or list stops its head. -/
def State.headStop (s : State) (p : PartNum) (q : BitVec 4) (k : Packet) (code : BitVec 8) (e : ImgStop) (kern : Kernel := .zero) :
    State :=
  match e with
  | .bad => s.refuseHead p q k code.toNat kern
  | .page va _ => s.headPage p q k code va
  | .later => s

/-- 64 KiB units of a launch's ranges, each rounded up (R473). -/
def Kernel.rangeUnits (k : Kernel) : Nat := (k.ranges.map fun r => (r.bytes.toNat + 65535) / 65536).sum
/-- Bytes of a partition's log region in use (R458, R459). -/
def State.logUsed (s : State) (p : PartNum) : Nat :=
  ((s.launches.filter fun l => l.part = p && l.slots).map fun l => l.frames * l.frameSize).sum +
    96 * (s.undo.filter fun u => u.part = p).length
/-- The digest of an image's bytes, computed while TDI is RUN, when the whole image is read (R418); 0 otherwise. -/
def State.imageDigest (s : State) (p : PartNum) (k : Packet) (n : Nat) : Except ImgStop (BitVec 256) × State :=
  if (s.part p).tdi = 2 then
    match s.readImg p (BitVec.ofNat 64 (k.num 0 8)) n with
    | (.ok l, s) => (.ok (sha256 l), s)
    | (.error e, s) => (.error e, s)
  else (.ok 0, s)
/-- Install the bindings, entry by entry (R348). -/
def Part.bindAll (q : Part) (es : List Nat) (bs : List (BitVec 64 × BitVec 64 × BitVec 64)) : Part :=
  { q with bind := (es.zip bs).foldl (fun m x => smSet (0, 0, 0) x.1 x.2 m) q.bind }
/-- What checkpoints a launch gets (R458). -/
def State.reserveSlots (s : State) (p : PartNum) (lid : BitVec 32) (bytes frames : Nat) : Bool × State :=
  if !(s.part p).ckptctl.getLsbD 63 then (false, s)
  else if s.logUsed p + bytes ≤ (regionOfWord (s.part p).ckptlog).2 then (true, s)
  else (false, s.errRecord (some p) { type := 0x3C, lid := lid.toNat, value := frames })

/-- Admit a launch whose checks passed (R348, R351): bindings, frames and constant copy, must-drain units, report, tasks. -/
def State.enterLaunch (s : State) (p : PartNum) (q : BitVec 4) (k : Packet) (kern : Kernel) (groves : BitVec 16) (base : Nat)
    (digest : BitVec 256) : State :=
  let es := (s.part p).freeBindings kern.binds.length
  let size := kern.frameSize
  let total := kern.tasks
  let frames := Nat.min total (2 * coreCount groves)
  let units := if kern.must then kern.rangeUnits else 0
  let must := kern.must && decide (s.trunk.mustsum.toNat + units ≤ Config.mustCap.toNat)
  let s := s.onPart p fun x => x.bindAll es kern.binds
  let s := s.zeroRange base (frames * size + 65536)
  let s := s.writePhys none (base + frames * size) (readBytes kern.consts 0 (((kern.consts.getLast?).map fun e => e.1 + 1).getD 0))
  let s := if must then s.onTrunk fun t => { t with mustsum := t.mustsum + BitVec.ofNat 24 units } else s
  let (slots, s) := s.reserveSlots p k.lid (frames * size) frames
  let l : Launch := { k.stub p q groves { kern with must := must } with
    total := total
    readyAt := s.seqno
    open_ := total
    frames := frames
    freeFrames := List.range frames
    frameSize := size
    base := base
    bindings := es
    digest := digest
    slots := slots
    mustUnits := if must then units else 0 }
  let s := (State.report { s with seqno := s.seqno + 1 } l 0x10 0).popHead p q
  State.headCheck { s with launches := s.launches ++ [l] } p q

/-- Check a head whose image and range list are read (R348): GROVES, BINDING, NOFRAME, DEPPH; then it is admitted, or waits
for frame room (R347). -/
def State.admitRead (s : State) (p : PartNum) (q : BitVec 4) (k : Packet) (kern : Kernel)
    (binds : List (BitVec 64 × BitVec 64 × BitVec 64 × BitVec 64)) (digest : BitVec 256) : State :=
  let groves := s.groveSet p k
  let need := Nat.min kern.tasks (2 * coreCount groves) * kern.frameSize + 65536
  let r := regionOfWord (s.part p).framectl
  if groves = 0 then s.refuseHead p q k 5 kern
  else if !s.bindingsOk p binds then s.refuseHead p q k 6 kern
  else if r.2 < need || !s.trunk.ownsRange p r.1 r.2 then s.refuseHead p q k 7 kern
  else if k.depPh ≠ 0 && (s.depPhaser? p k).isNone then s.refuseHead p q k 8 kern
  else
    match s.frameRoom p need with
    | none => s.onPart p fun x => { x with chosen := some q }
    | some base => s.enterLaunch p q k kern groves base digest
/-- Check the head of a queue in the order of R348. -/
def State.checkAdmit (s : State) (p : PartNum) (q : BitVec 4) (k : Packet) : State :=
  if k.bad then s.refuseHead p q k 1
  else
    match s.readKernel p k with
    | (.error e, s) => s.headStop p q k 3 e
    | (.ok (kern, binds), s) =>
      match s.imageDigest p k kern.imageEnd with
      | (.error e, s) => s.headStop p q k 3 e
      | (.ok digest, s) =>
        match s.readRanges p k kern.ranges with
        | (.error e, s) => s.headStop p q k 4 e kern
        | (.ok ranges, s) => s.admitRead p q k { kern with ranges := ranges } binds digest
/-- ADMISSION (R347, R348): nothing is admitted while 64 launches run or the chosen head waits for a page. -/
def execAdmission (part : PartNum) (s : State) : Out :=
  .next (if !(s.part part).en || s.trunk.phase ≠ 0 || (s.part part).headWait.isSome ||
      64 ≤ (s.launches.filter fun l => l.part = part).length then s
  else
    match s.pickHead part with
    | some (q, k) => s.checkAdmit part q k
    | none => s)

/-! ## Page-fault answers and kills -/

/-- The task of a partition that waits for a page under a token. -/
def Task.waits (t : Task) (p : PartNum) (token : BitVec 32) : Option (BitVec 56 × BitVec 2 × BitVec 2) :=
  match t.status with
  | .page k va kind level => if t.part = p && k = token then some (va, kind, level) else none
  | _ => none
/-- A task becomes ready. -/
def Task.wakes (t : Task) (now : Nat) : Task := { t with status := .ready, ready := now, aging := 0 }
/-- A task after its page is answered (R356): with TRAP the fault is raised at the faulting slot, with reason NOMAP. -/
def Task.answered (t : Task) (p : PartNum) (token : BitVec 32) (trap : Bool) (now : Nat) : Task :=
  match t.waits p token with
  | some (va, kind, level) =>
    let d : BitVec 64 := (1 : BitVec 4) ++ level ++ kind ++ va
    let c := if trap then { t.ctx with pendTrap := some (0x0A, d) } else t.ctx
    { t.wakes now with ctx := c }
  | none => t
/-- A write of pfdone (R356, R348): it answers a waiting task, or a head that waits. -/
def State.pfdone (s : State) (p : PartNum) (v : BitVec 64) : State :=
  let token := v.setWidth 32
  let trap := v.getLsbD 63
  if s.tasks.any fun t => (t.waits p token).isSome then
    { s with tasks := s.tasks.map fun t => t.answered p token trap s.seqno, seqno := s.seqno + 1 }
  else
    match (s.part p).headWait, s.pickHead p with
    | some (k, _), some (q, x) =>
      if k ≠ token then s
      else if trap then s.refuseHead p q x (((s.part p).headNeeds).getD 3).toNat
      else s.onPart p fun y => { y with headWait := none, headNeeds := none }
    | _, _ => s
/-- PFDONE_RETRY (R356). -/
def execPfdoneRetry (by_ : Writer) (part : PartNum) (v : BitVec 64) (s : State) : Out :=
  .next (s.written by_ (writerOf by_ part && !v.getLsbD 63) (s.pfdone part v))
/-- PFDONE_TRAP (R356). -/
def execPfdoneTrap (by_ : Writer) (part : PartNum) (v : BitVec 64) (s : State) : Out :=
  .next (s.written by_ (writerOf by_ part && v.getLsbD 63) (s.pfdone part v))

/-- The packet of a partition with a LID, and its queue. -/
def State.queuedPacket (s : State) (p : PartNum) (lid : BitVec 32) : Option (BitVec 4 × Packet) :=
  (List.finRange 16).findSome? fun i =>
    (((s.part p).queues[i]).find? fun k => k.lid = lid).map fun k => (BitVec.ofNat 4 i.val, k)
/-- A killed packet leaves its queue, with its ended report (R358). -/
def State.dropPacket (s : State) (p : PartNum) (q : BitVec 4) (k : Packet) : State :=
  let first := (((s.part p).queues[fin4 q]).head?).map (·.seq) = some k.seq
  let s := s.onLaunchQueue p q fun l => l.filter fun x => x.seq ≠ k.seq
  let s := if first && (s.part p).chosen = some q then
      s.onPart p fun x => { x with chosen := none, headWait := none, headNeeds := none }
    else s
  ((s.report (k.stub p q (s.groveSet p k)) 0x12 0x20).satisfy p k.lid).headCheck p q
/-- SCHEDKILL (R350, R358). -/
def State.kill (s : State) (p : PartNum) (lid : BitVec 32) : State :=
  if (s.launch? p lid).isSome then s.killLaunch p lid 0x20
  else
    match s.queuedPacket p lid with
    | some (q, k) => s.dropPacket p q k
    | none => s
/-- SCHEDKILL (R358). -/
def execSchedkill (by_ : Writer) (part : PartNum) (v : BitVec 64) (s : State) : Out :=
  .next (s.written by_ (writerOf by_ part) (s.kill part (v.setWidth 32)))

end Sys2Proof.Machine
end

