-- ==== Sys2Proof/Machine/Routes.lean ====
section
/-!
DEFINITION. What comes over the host link, the fabric and Ethernet for a partition: launch ports (R342, R343), launch messages
and reports (R344, R345), the host window (R317, R417).
-/

namespace Sys2Proof.Machine

/-! ## Launch ports (R342, R343) -/

/-- Add 1 to a count that holds at its top. -/
def bump16 (x : BitVec 16) : BitVec 16 := if x = 0xFFFF then x else x + 1
/-- A write of 64 bytes to a slot: accepted, or refused with QFULL. -/
def State.portPacket (s : State) (p : PartNum) (q : BitVec 4) (bytes : List Byte) : State :=
  if s.queueFill p q < 256 then s.acceptPacket p q bytes .port
  else
    (s.onPart p fun x => { x with full := x.full.set (fin4 q) (bump16 x.full[fin4 q]) }).refuse p q
      ⟨bytes, 0, .port, [], false⟩ 9
/-- LAUNCH_PORT_WRITE (R342, R343): without EN it is discarded, as is every write from dormancy's write-back phase on (R471);
the status bytes ignore writes; any other size or alignment counts as PARTIAL. -/
def execLaunchPortWrite (off : BitVec 15) (bytes : List (BitVec 8)) (s : State) : Out :=
  let p := off.extractLsb' 12 3
  let q := off.extractLsb' 8 4
  let a := (off.extractLsb' 0 8).toNat
  .next (
    if 2 ≤ s.trunk.phase.toNat then s.send .unsupported
    else if !(s.part p).en then s
    else if a = 0 && bytes.length = 64 then s.portPacket p q bytes
    else if 0x40 ≤ a && a + bytes.length ≤ 0x48 then s
    else s.onPart p fun x => { x with partial_ := x.partial_.set (fin4 q) (bump16 x.partial_[fin4 q]) })
/-- The port status of a queue's slot; a partition without EN reads zero. -/
def State.portStatus (s : State) (p : PartNum) (q : BitVec 4) : BitVec 64 :=
  let x := s.part p
  if x.en then x.partial_[fin4 q] ++ x.full[fin4 q] ++ (0 : BitVec 23) ++ BitVec.ofNat 9 (s.queueFill p q) else 0
/-- A read of the port status clears PARTIAL and FULL. -/
def State.clearPort (s : State) (p : PartNum) (q : BitVec 4) : State :=
  s.onPart p fun x => if x.en then { x with partial_ := x.partial_.set (fin4 q) 0, full := x.full.set (fin4 q) 0 } else x

/-! ## Launch messages and reports (R344, R345) -/

/-- LAUNCH_MESSAGE (R344). A refusal for a partition that no register can make exist is reported to the sender alone. -/
def execLaunchMessage (env pkt : List (BitVec 8)) (s : State) : Out :=
  .next (match s.unready with
  | some t => t
  | none =>
    let n (off z : Nat) : Nat := field env off z
    let sender := BitVec.ofNat 18 (n 8 4)
    let k : Packet := ⟨pkt, 0, .message sender, [], false⟩
    let p := BitVec.ofNat 3 (n 4 1)
    let q := BitVec.ofNat 4 (n 5 1)
    if n 0 4 ≠ s.modnum.toNat || n 6 2 ≠ 0 || 2 ^ 18 ≤ n 8 4 || n 12 4 ≠ 0 || 16 ≤ n 5 1 then s.send (.nack 4 0)
    else if 8 ≤ n 4 1 then
      let (t, s) := s.stamp
      s.reportTo (BitVec.ofNat 18 (n 8 4)) (BitVec.ofNat 8 (n 4 1)) q ((k.stub p q 0).reportRec 0x11 0x0A t)
    else if !(s.part p).en || !(s.part p).schedctl.getLsbD 63 then s.refuse p q k 0x0A
    else if 256 ≤ s.queueFill p q then s.send (.nack 1 0)
    else s.acceptPacket p q pkt (.message sender))
/-- LAUNCH_REPORT_MESSAGE (R345): a report for this module's partition joins its event queue; any other is dropped. -/
def execLaunchReportMessage (msg : List (BitVec 8)) (s : State) : Out :=
  .next (match s.unready with
  | some t => t
  | none =>
    let p := BitVec.ofNat 3 (field msg 4 1)
    if field msg 0 4 = s.modnum.toNat && field msg 4 1 < 8 && (s.part p).en && (s.part p).schedctl.getLsbD 63 then
      let (t, s) := s.stamp
      s.enqueue p ((msg.drop 16).take 32) t
    else s)

/-! ## The host window (R317) -/

/-- The host as an agent of the partition whose page tables translate its window. -/
def hostAgent (p : PartNum) : Agent := ⟨p, none, false, false, false, false, false⟩
/-- An access of the host window that is performed; one that translation stops completes with Unsupported Request. -/
def State.hostAccess (s : State) (p : PartNum) (va : BitVec 64) (acc : HostAcc) : State :=
  match acc with
  | .read n =>
    (match s.readVirt (hostAgent p) va n.toNat with
    | (.ok (l, bad), s) => s.send (.hostData l bad)
    | (.error _, s) => s.send .unsupported)
  | .write l =>
    (match s.xlateSpan (hostAgent p) .write va l.length with
    | (.ok xs, s) => s.writePieces none false true xs l
    | (.error _, s) => s.send .unsupported)
/-- HOST_WINDOW_ACCESS (R317): an offset of the window's 64 GiB is the virtual address; in RUN an access without the T bit has no effect on the window (R417); in dormancy the host
link answers Unsupported Request (R471). -/
def execHostWindowAccess (part : PartNum) (off : BitVec 36) (acc : HostAcc) (tbit : Bool) (s : State) : Out :=
  .next (
    if 2 ≤ s.trunk.phase.toNat || !(s.part part).en then s.send .unsupported
    else if (s.part part).tdi = 2 && !tbit then
      (match acc with
      | .write _ => s.enterError part
      | .read _ => s.send .unsupported)
    else s.hostAccess part (off.setWidth 64) acc)

end Sys2Proof.Machine
end

