-- ==== Sys2Proof/Machine/March.lean ====
section
/-!
DEFINITION. Step 6 of a start: the boot-time march test's image, its boot contexts, and what the crown controllers make of its
results (R498, R501, R502, R506-R508).
-/

namespace Sys2Proof.Machine

/-! ## The program of R507, bundle by bundle: a header, or zero without one, and its instructions -/

/-- A bundle of the listing. -/
structure March where
  header : BitVec 32
  slots : List Instr

/-- Bundles 0 to 7. -/
def marchCode0 : List March := [
  ⟨0, [.csrrd 9 0x104]⟩,
  ⟨0, [.li 10 0xFFF]⟩,
  ⟨0, [.li 7 0]⟩,
  ⟨0, [.andi 9 9 0xFF]⟩,
  ⟨0, [.shli 9 9 16]⟩,
  ⟨0, [.li 15 0x100]⟩,
  ⟨0, [.shli 15 15 16]⟩,
  ⟨0, [.or 15 15 9]⟩]
/-- Bundles 8 to 15: elements 0 and 1. -/
def marchCode1 : List March := [
  ⟨0, [.li 6 0]⟩,
  ⟨0, [.li 5 0xFFFF]⟩,
  ⟨0, [.call 0 0x28]⟩,
  ⟨0, [.li 14 0]⟩,
  ⟨0, [.li 4 0]⟩,
  ⟨0, [.movmWriteA 23 3]⟩,
  ⟨0, [.li 6 1]⟩,
  ⟨0, [.call 0 0x23]⟩]
/-- Bundles 16 to 23: elements 2 and 3. -/
def marchCode2 : List March := [
  ⟨0, [.li 14 1]⟩,
  ⟨0, [.li 4 0]⟩,
  ⟨0, [.movmWriteA 5 3]⟩,
  ⟨0, [.call 0 0x1F]⟩,
  ⟨0, [.li 14 2]⟩,
  ⟨0, [.li 4 0xFFFF]⟩,
  ⟨0, [.movmWriteA 23 3]⟩,
  ⟨0, [.call 0 0x3B]⟩]
/-- Bundles 24 to 31: elements 4 and 5. -/
def marchCode3 : List March := [
  ⟨0, [.li 14 3]⟩,
  ⟨0, [.li 4 0]⟩,
  ⟨0, [.movmWriteA 5 3]⟩,
  ⟨0, [.call 0 0x37]⟩,
  ⟨0, [.li 14 4]⟩,
  ⟨0, [.li 4 0xFFFF]⟩,
  ⟨0, [.movmWriteA 23 3]⟩,
  ⟨0, [.call 0 0x13]⟩]
/-- Bundles 32 to 39. -/
def marchCode4 : List March := [
  ⟨0, [.li 14 5]⟩,
  ⟨0, [.li 4 0]⟩,
  ⟨0, [.movmWriteA 23 3]⟩,
  ⟨0, [.cmpeq 8 7 10]⟩,
  ⟨0, [.shli 8 8 62]⟩,
  ⟨0, [.li 11 1]⟩,
  ⟨0, [.shli 11 11 63]⟩,
  ⟨0, [.or 8 8 11]⟩]
/-- Bundles 40 to 47: the summary. -/
def marchCode5 : List March := [
  ⟨0, [.or 8 8 7]⟩,
  ⟨0, [.csrrd 9 0x104]⟩,
  ⟨0, [.andi 9 9 0xFF]⟩,
  ⟨0, [.shli 9 9 3]⟩,
  ⟨0, [.addi 9 9 0x800]⟩,
  ⟨0, [.movmWriteA 8 4]⟩,
  ⟨0, [.movmWriteA 9 5]⟩,
  ⟨0, []⟩]
/-- Bundles 48 to 55: the end; `up` is 50, `march` 55. -/
def marchCode6 : List March := [
  ⟨0xFC004544, [.stg 20 21 1 0 3 0]⟩,
  ⟨0, [.taskend]⟩,
  ⟨0, [.li 1 0]⟩,
  ⟨0, [.li 2 8]⟩,
  ⟨0, [.li 3 0x18]⟩,
  ⟨0, [.liu 3 3 0]⟩,
  ⟨0, [.shli 14 14 32]⟩,
  ⟨0, [.movmWriteA 1 1]⟩]
/-- Bundles 56 to 63. -/
def marchCode7 : List March := [
  ⟨0, [.or 12 1 14]⟩,
  ⟨0xFC000041, [.lds 4 20 0 3 0]⟩,
  ⟨0, [.movmWriteA 12 4]⟩,
  ⟨0, [.shli 13 7 4]⟩,
  ⟨0, [.add 13 13 15]⟩,
  ⟨0, [.movmWriteA 13 5, .movmWriteB 4 2]⟩,
  ⟨0, [.cmplt 11 7 10]⟩,
  ⟨0, [.movmRead 8 2]⟩]
/-- Bundles 64 to 71. -/
def marchCode8 : List March := [
  ⟨0, [.xor 8 8 4]⟩,
  ⟨0, [.cmpne 12 8 23]⟩,
  ⟨0, [.and 12 12 6]⟩,
  ⟨0, [.and 12 12 11]⟩,
  ⟨0, [.movmWriteA 8 6]⟩,
  ⟨0xFC004143, [.sts 20 21 1 0 3 0]⟩,
  ⟨0xFC004544, [.stg 20 21 1 0 3 0]⟩,
  ⟨0xFC004546, [.stg 20 21 1 0 3 1]⟩]
/-- Bundles 72 to 79. -/
def marchCode9 : List March := [
  ⟨0, [.add 1 1 2]⟩,
  ⟨0, [.cmpne 11 1 3]⟩,
  ⟨0, [.brnz 11 0x1FFFED]⟩,
  ⟨0, [.add 7 7 12]⟩,
  ⟨0, []⟩,
  ⟨0, []⟩,
  ⟨0, [.ret 0]⟩,
  ⟨0, []⟩]
/-- Bundles 80 to 87; `down` is 82. -/
def marchCode10 : List March := [
  ⟨0, []⟩,
  ⟨0, []⟩,
  ⟨0, [.li 1 0x17]⟩,
  ⟨0, [.liu 1 1 0xFFF8]⟩,
  ⟨0, [.br 0x1FFFE3]⟩,
  ⟨0, [.li 2 0xFFF8]⟩,
  ⟨0, [.li 3 0xFFF8]⟩,
  ⟨0, [.shli 14 14 32]⟩]
/-- The whole program. -/
def marchCode : List March :=
  marchCode0 ++ marchCode1 ++ marchCode2 ++ marchCode3 ++ marchCode4 ++ marchCode5 ++ marchCode6 ++ marchCode7 ++
    marchCode8 ++ marchCode9 ++ marchCode10

/-- The word of a slot of a bundle. -/
def March.word (m : March) (sl : Slot) : BitVec 32 :=
  if sl = .a && m.header ≠ 0 then m.header
  else (m.slots.findSome? fun i => match encode i with
    | some (t, w) => if t = sl then some w else none
    | none => none).getD 0
/-- The bytes of a bundle. -/
def March.bytes (m : March) : List Byte :=
  wordBytes (m.word .a) ++ wordBytes (m.word .b) ++ wordBytes (m.word .c) ++ wordBytes (m.word .d)
/-- Where ROM's image is placed (R506). -/
def bootImage : Nat := 0x100000
/-- The header of ROM's image (R328): MAGIC, SPAD, schedule 0 with its code behind the header and a body alone. -/
def bootHeader : List Byte :=
  leBytes 4 0x0E024B31 ++ List.replicate 36 0 ++ leBytes 4 0x180000 ++ List.replicate 4 0 ++
    leBytes 4 128 ++ leBytes 4 0xFFFFFFFF ++ leBytes 4 0 ++ leBytes 4 0xFFFFFFFF ++ List.replicate 32 0 ++
    leBytes 4 88 ++ List.replicate 28 0

/-! ## Boot contexts (R506) -/

/-- The kernel of the march test. -/
def bootKernel : Kernel :=
  { Kernel.zero with spad := 0x180000, sched0 := some ⟨BitVec.ofNat 52 (bootImage / 16 + 8), 88, 0xFFFFFFFF, 0, 0xFFFFFFFF⟩ }
/-- The boot context at its start. -/
def bootCtx : Ctx :=
  let w := bootKernel.firstRun 0
  Ctx.beginRun { Ctx.zero with
    boot := true
    kern := bootKernel
    csr := { Csrs.zero with srstate := mixSeed 1 0 w.mixP } } w
/-- Start the march test on cores. -/
def State.bootCores (s : State) (l : List CoreNum) : State :=
  l.foldl (fun s c => s.onCore c fun k => { k with
    busy := true, ctx := bootCtx, spad := [], spadMark := [], spadErr := [], expired := none }) s
/-- The cores of the groves of a set. -/
def coresIn (groves : BitVec 16) : List CoreNum :=
  ((List.range 16).filter fun g => groves.getLsbD g).flatMap fun g => coresOf (BitVec.ofNat 4 g)
/-- Enter step 6 (R498, R506): every grove of sealed configuration is tested (log 6). -/
def State.enterMarch (s : State) : State :=
  let s := s.onTrunk fun t => { t with step := 6, groveslive := 0xFFFF, dieslive := 0xF, retest := [] }
  let s := s.writePhys none bootImage (bootHeader ++ marchCode.flatMap March.bytes)
  s.bootCores (coresIn 0xFFFF)
/-- Whether a boot context still runs. -/
def State.booting (s : State) : Bool := s.cores.any fun e => e.2.busy && e.2.ctx.boot

/-! ## Results and repairs (R502, R508) -/

/-- A core's summary word (R507). -/
def State.marchSummary (s : State) (c : CoreNum) : BitVec 64 := BitVec.ofNat 64 (leNat (s.peek (0x800 + 8 * c.toNat) 8))
/-- A core that did not finish, or whose list is full. -/
def State.marchFailed (s : State) (c : CoreNum) : Bool :=
  !(s.marchSummary c).getLsbD 63 || (s.marchSummary c).getLsbD 62
/-- The failing rows of a core, as bank and row, without repeats. -/
def State.marchRows (s : State) (c : CoreNum) : List (Nat × Nat) :=
  ((List.range ((s.marchSummary c).setWidth 32).toNat).map fun i =>
    let a := leNat (s.peek (0x1000000 + 0x10000 * c.toNat + 16 * i) 4)
    (a / 64 % 16, a / 1024)).eraseDups
/-- A repair-table entry of a scratchpad row (R501). -/
def repairEntry (c : CoreNum) (bank row spare : Nat) : BitVec 64 :=
  (8 : BitVec 4) ++ c ++ BitVec.ofNat 4 bank ++ BitVec.ofNat 11 row ++ BitVec.ofNat 4 spare ++ (0 : BitVec 33)
/-- The spares of a bank that entries in force use. -/
def Trunk.sparesUsed (t : Trunk) (c : CoreNum) (bank : Nat) : List Nat :=
  (t.repair.filter fun e => e.2.extractLsb' 60 4 = 8 && e.2.extractLsb' 52 8 = c &&
    (e.2.extractLsb' 48 4).toNat == bank).map fun e => (e.2.extractLsb' 33 4).toNat
/-- Steer a row to the lowest free spare of its bank: the table with its new entry, if the bank and the table have room. -/
def Trunk.steer (t : Trunk) (c : CoreNum) (r : Nat × Nat) : Option Trunk :=
  let used := t.sparesUsed c r.1
  match (List.range 16).find? fun i => !used.contains i, (List.range 4096).find? fun i => !(smGet 0 i t.repair).getLsbD 63 with
  | some sp, some i => some { t with repair := smSet 0 i (repairEntry c r.1 r.2 sp) t.repair }
  | _, _ => none
/-- A grove leaves the set. -/
def dropGrove (m : BitVec 16) (c : CoreNum) : BitVec 16 := m &&& ~~~(1#16 <<< (groveOf c).toNat)
/-- The rows of a core are steered, one by one; where one cannot be, or in seedling mode, which writes no entry (R504), the
grove leaves. -/
def State.repairCore (p : State × BitVec 16 × List CoreNum) (c : CoreNum) : State × BitVec 16 × List CoreNum :=
  let rows := p.1.marchRows c
  if p.1.marchFailed c then (p.1, dropGrove p.2.1 c, p.2.2)
  else if rows.isEmpty then p
  else if p.1.trunk.seedling then (p.1, dropGrove p.2.1 c, p.2.2)
  else
    match rows.foldlM (fun t r => Trunk.steer t c r) p.1.trunk with
    | some t => ({ p.1 with trunk := t }, p.2.1, p.2.2 ++ [c])
    | none => (p.1, dropGrove p.2.1 c, p.2.2)
/-- The end of step 6's runs: the groves that pass so far, and the cores to run once more. -/
def State.marchResult (s : State) (groves : BitVec 16) : State × BitVec 16 × List CoreNum :=
  if s.trunk.retest.isEmpty then (coresIn groves).foldl State.repairCore (s, groves, [])
  else
    (s, (s.trunk.retest.filter fun c => s.marchFailed c || !(s.marchRows c).isEmpty).foldl dropGrove
      (groves &&& s.trunk.groveok), [])

end Sys2Proof.Machine
end

