-- ==== Sys2Proof/Machine/Dormancy.lean ====
section
/-!
DEFINITION. The drain list (R473), the dormancy controller's registers (R468), the warning and the phases of dormancy (R467,
R469-R471), the drain and the manifest (R474-R479), the reserve (R470, R505).
-/

namespace Sys2Proof.Machine

/-! ## The drain list (R473) -/

/-- A write of drainsel. -/
def State.writeDrainsel (s : State) (v : BitVec 64) : State := s.onTrunk fun t => { t with drainsel := v.setWidth 8 }
/-- A write of drainent1, which is staged as written. -/
def State.writeDrainent1 (s : State) (v : BitVec 64) : State := s.onTrunk fun t => { t with drainent1 := v }
/-- The entry that drainsel selects. -/
def Trunk.drainEntry (t : Trunk) : BitVec 64 × BitVec 64 := smGet (0, 0) t.drainsel.toNat t.drain
/-- Must-drain units of an entry in force. -/
def mustUnits (e : BitVec 64 × BitVec 64) : Nat :=
  if e.1.getLsbD 63 && e.1.getLsbD 62 then (e.2.extractLsb' 0 24).toNat else 0
/-- Why an entry is refused. -/
def Trunk.drainRefused (t : Trunk) (e : BitVec 64 × BitVec 64) (must : Nat) : Bool :=
  let r := drainRegion e.1 e.2
  e.1.extractLsb' 52 3 ≠ 0 || e.1.setWidth 16 ≠ 0 || e.2.extractLsb' 24 40 ≠ 0 || r.bytes = 0 ||
  !t.ownsRange r.part r.base r.bytes || decide (Config.mustCap.toNat < must + mustUnits e)
/-- A write of drainent0: it installs the staged drainent1 with it; a refused entry has VALID 0. -/
def State.writeDrainent0 (s : State) (v : BitVec 64) : State :=
  s.onTrunk fun t =>
    let must := t.mustsum.toNat - mustUnits t.drainEntry
    let e := (v, t.drainent1)
    let ok := v.getLsbD 63 && !t.drainRefused e must
    let w := (v &&& 0x7F8FFFFFFFFF0000) ||| (if ok then 1#64 <<< 63 else 0)
    { t with
      drain := smSet (0, 0) t.drainsel.toNat (w, t.drainent1 &&& 0xFFFFFF) t.drain
      mustsum := BitVec.ofNat 24 (must + (if ok then mustUnits e else 0)) }

/-! ## The warning (R467-R469) -/

/-- The ports without KEEP, or all of them, go off. -/
def Trunk.portsOff (t : Trunk) (all : Bool) : Trunk :=
  { t with fabports := Vector.ofFn fun (i : Fin 36) =>
      let r := t.fabports[i]
      if all || !r.getLsbD 28 then r &&& 0x7FFFFFFF else r }
/-- A failed or ended cut (R488, R490): RESULT, and record 0x67. -/
def State.cutFails (s : State) (p : PartNum) (step : BitVec 32) (result : BitVec 4) : State :=
  (s.onTrunk fun t => { t with
    cut := none, cutstat := (t.cutstat &&& 0xF0FFFFFFFFFFFFFF) ||| (result.setWidth 64 <<< 56) }).errRecord (some p)
    { type := 0x67, code := result.toNat, value := step.toNat }
/-- A warning ends the cut that runs (R490). -/
def State.cutInterrupted (s : State) : State :=
  match s.trunk.cut with
  | some r => s.cutFails r.part r.step 5
  | none => s
/-- Stop every context (R469). -/
def State.stopAll (s : State) : State :=
  (s.cores.filter fun e => e.2.busy && !e.2.ctx.boot).foldl (fun s e => s.stop (BitVec.ofNat 8 e.1) .ready) s
/-- A warning (R467): it counts only where dormancy is announced (R1), with EN, once the reserve is charged (R505), and outside
dormancy. The dormancy trap stops the contexts. -/
def State.warn (s : State) (cause : BitVec 8) : State :=
  if !s.trunk.announces 0x007 || !s.trunk.dormctl.getLsbD 63 || !s.trunk.charged || s.trunk.phase ≠ 0 then s
  else
    let (t, s) := s.stamp
    let s := s.onTrunk fun x => { x with phase := 1, warnCause := cause, warnTime := t }
    s.cutInterrupted.stopAll
/-- POWER_FAIL_WARNING (R467, R468). -/
def execPowerFailWarning (shelf : Bool) (s : State) : Out :=
  .next (if s.trunk.dormctl.getLsbD (if shelf then 62 else 61) then s.warn (if shelf then 1 else 0) else s)
/-- A write of dormctl (R468): its fields, then TEST and DISCARD. A module that does not announce dormancy has none (R1). -/
def State.writeDormctl (s : State) (v : BitVec 64) : State :=
  if !s.trunk.announces 0x007 then s else
  let s := s.onTrunk fun t => { t with dormctl := v &&& 0xE000FFFFFFFFFFFF }
  let s := if v.getLsbD 59 && s.trunk.phase = 0 then
      s.onTrunk fun t => { t with manifests := Vector.ofFn fun i => t.manifests[i].map fun m => { m with state := 0 } }
    else s
  if v.getLsbD 60 then s.warn 2 else s
/-- DORMCTL_TEST (R468). -/
def execDormctlTest (by_ : Writer) (v : BitVec 64) (s : State) : Out :=
  .next (s.written by_ (writerFull by_ && v.getLsbD 60) (s.writeDormctl v))
/-- DORMCTL_DISCARD (R468). -/
def execDormctlDiscard (by_ : Writer) (v : BitVec 64) (s : State) : Out :=
  .next (s.written by_ (writerFull by_ && v.getLsbD 59) (s.writeDormctl v))

/-! ## Phases 1 and 2 -/

/-- Set PHASE. -/
def State.toPhase (s : State) (n : BitVec 4) : State := s.onTrunk fun t => { t with phase := n }
/-- STOP_PHASE_END (R469, R471): a context that has not stopped is lost; its task stays marked as running. -/
def execStopPhaseEnd (s : State) : Out :=
  .next (if s.trunk.phase ≠ 1 then s
  else
    let left := s.cores.filter fun e => e.2.busy && !e.2.ctx.boot
    (left.foldl (fun s e => s.onCore (BitVec.ofNat 8 e.1) Core.free) s).toPhase 2)
/-- Whether a manifest of a slot is sealed, and its SEQ. -/
def Trunk.sealedSeq (t : Trunk) (i : Fin 2) : Option (BitVec 64) :=
  match t.manifests[i] with
  | some m => if m.state = 2 then some m.seq else none
  | none => none
/-- The slot that a new dormancy writes (R480): the one that does not hold the newest sealed manifest. -/
def Trunk.drainSlot (t : Trunk) : Fin 2 :=
  match t.sealedSeq 0, t.sealedSeq 1 with
  | some a, some b => if a.toNat ≤ b.toNat then 0 else 1
  | some _, none => 1
  | _, _ => 0
/-- SEQ of the newest sealed manifest. -/
def Trunk.newestSeq (t : Trunk) : BitVec 64 :=
  match t.sealedSeq 0, t.sealedSeq 1 with
  | some a, some b => if a.toNat ≤ b.toNat then b else a
  | some a, none => a
  | none, some b => b
  | none, none => 0
/-- A manifest as phase 1 of the manifest opens it (R476, R478). -/
def Trunk.openManifest (t : Trunk) : Manifest where
  state := 1
  modnum := t.modid.setWidth 18
  seq := t.newestSeq + 1
  time := t.warnTime
  cause := t.warnCause
  parts := []
  memown := []
  elide := []
  phasers := []
  regions := []
  tasks := []
  launches := []
  lost := []
  checkpoints := []
  undo := []
  data := []
  marks := []
  shed := 0
/-- Dirty pool lines reach their devices, or quarantine where their entry is severed (R314, R469). -/
def State.flushPool (s : State) : State :=
  s.mem.dirty.foldl (fun s e =>
    if s.trunk.route (regionOf (e.1 * 64)) |>.any fun r => rteSevered r.2 then
      s.onMem fun m => { m with dirty := smDel e.1 m.dirty, quarantine := smPut e.1 e.2 m.quarantine }
    else s.onMem fun m => m.writeBack e.1) s
/-- WRITE_BACK_DONE (R469, R478): ports without KEEP go off, and the manifest is opened before the first byte is drained. -/
def execWriteBackDone (s : State) : Out :=
  .next (if s.trunk.phase ≠ 2 then s
  else
    let s := s.flushPool
    s.onTrunk fun t => { t.portsOff false with
      phase := 3
      manifests := t.manifests.set t.drainSlot (some t.openManifest)
      hot := if s.groves.toList.any fun g => g.therm = 3 then some 0 else none })

/-! ## The drain (R474, R475, R479) -/

/-- 64 KiB units of a region; a launch range counts the leaves that it touches. -/
def Region.units (r : Region) : Nat := if r.bytes = 0 then 0 else (r.base + r.bytes - 1) / 65536 - r.base / 65536 + 1
/-- The frames and the constant copy of a launch (R351). -/
def Launch.regions (l : Launch) : List Region :=
  let one (base bytes : Nat) : Region := ⟨l.part, 0, false, false, false, 0, l.lid, base, bytes, 0, 2⟩
  (List.range l.frames).map (fun i => one (l.base + i * l.frameSize) l.frameSize) ++
    [one (l.base + l.frames * l.frameSize) 65536]
/-- The ranges of a launch (R473): RED holds where a level is reduced along (R340). -/
def Launch.rangeRegions (l : Launch) : List Region :=
  l.kern.ranges.map fun r =>
    ⟨l.part, l.kern.drain, l.kern.must, false, l.kern.levels.any (·.red), 2, l.lid, r.base.toNat, r.bytes.toNat, 0, 2⟩
/-- The log region of a partition (R457). -/
def State.logRegion (s : State) (p : PartNum) : List Region :=
  let r := regionOfWord (s.part p).ckptlog
  if (s.part p).en && 0 < r.2 then [⟨p, 0, false, false, false, 0, 0, r.1, r.2, 0, 2⟩] else []
/-- The regions in the order of R474. -/
def State.drainPlan (s : State) : List Region :=
  let parts := (List.range 8).map (BitVec.ofNat 3)
  let frames := parts.flatMap fun p => ((s.launches.filter fun l => l.part = p).flatMap Launch.regions) ++ s.logRegion p
  let rest := s.trunk.drainEntries.map (fun e => drainRegion e.2.1 e.2.2) ++ s.launches.flatMap Launch.rangeRegions
  let byClass (m : Bool) : List Region :=
    (List.range 8).flatMap fun c => rest.filter fun r => r.must = m && r.cls = BitVec.ofNat 3 c
  (frames ++ byClass true ++ byClass false).map fun r => if (s.part r.part).locked then { r with status := 3 } else r
/-- A region of which so many units were copied. -/
def Region.drained (r : Region) (n : Nat) : Region :=
  if n = r.units then { r with done := r.bytes, status := 0 }
  else if n = 0 then r
  else { r with done := Nat.min r.bytes (n * 65536 - r.base % 65536), status := 1 }
/-- Copy `pre` units in order, then `post` units of must-drain regions alone (R479). -/
def drainMark : Nat → Nat → List Region → List Region
  | _, _, [] => []
  | pre, post, r :: t =>
    if r.status = 3 then r :: drainMark pre post t
    else
      let a := Nat.min r.units pre
      let b := if r.must then Nat.min (r.units - a) post else 0
      r.drained (a + b) :: drainMark (pre - a) (post - b) t
/-- All the units of a plan. -/
def planUnits (l : List Region) : Nat := (l.map Region.units).sum
/-- The physical ranges of a leaf's 64 KiB, if the page is present, plain HBM of this module (R475). -/
def State.leafRanges (s : State) (p : PartNum) (lid : BitVec 32) (va : Nat) : List (Nat × Nat) :=
  let a : Agent := ⟨p, some lid, false, false, false, true, false⟩
  let at_ (v : Nat) : Option Xlat := match (s.xlate a .read (BitVec.ofNat 64 v)).1 with
    | .ok x => if x.remote.isNone && target x.pa = .hbm then some x else none
    | .error _ => none
  match at_ va with
  | none => []
  | some x =>
    if x.slab then (List.range 1024).filterMap fun i => (at_ (va + 64 * i)).map fun y => (y.pa, 64)
    else [(x.pa, 65536)]
/-- The physical ranges that a region's drained bytes lie in. -/
def State.regionRanges (s : State) (r : Region) : List (Nat × Nat) :=
  if r.kind = 2 then
    (List.range ((r.base % 65536 + r.done + 65535) / 65536)).flatMap fun i =>
      s.leafRanges r.part r.lid ((r.base / 65536 + i) * 65536)
  else if r.done = 0 then [] else [(r.base, r.done)]
/-- A launch range of which every part that is not drained would have been skipped (R475) counts as full (R481). -/
def State.skipRest (s : State) (r : Region) : Region :=
  let from_ := if r.done = 0 then 0 else (r.base % 65536 + r.done + 65535) / 65536
  if r.kind = 2 && (r.status = 1 || r.status = 2) && ((List.range r.units).drop from_).all fun i =>
      (s.leafRanges r.part r.lid ((r.base / 65536 + i) * 65536)).isEmpty
  then { r with done := r.bytes, status := 0 } else r
/-- Fill the open manifest with its tables and with what was drained (R477): nothing of a locked partition's contexts or keys
leaves the trunk die (R475). -/
def State.fillManifest (s : State) (regions : List Region) : State :=
  let c := s.capture (regions.flatMap s.regionRanges)
  let parts := ((List.range 8).map (BitVec.ofNat 3)).filter fun p => (s.part p).en
  let kept (p : PartNum) : Bool := !(s.part p).locked
  let bare (q : Part) : Part := { q with keys := Vector.replicate 16 none, ranges := Vector.replicate 16 none }
  s.onTrunk fun t =>
    let m := (t.manifests[t.drainSlot]).getD t.openManifest
    let m := { m with
      parts := parts.map fun p => (p, bare (s.part p))
      memown := t.memown
      elide := t.elide
      phasers := s.phasers
      regions := regions
      tasks := s.tasks.filter fun x => kept x.part && match x.status with | .running _ => false | _ => true
      launches := s.launches
      lost := (s.tasks.filter fun x => match x.status with | .running _ => true | _ => false).map fun x => (x.part, x.lid, x.sidx)
      checkpoints := s.checkpoints.filter fun x => kept x.part
      undo := s.undo.filter fun x => kept x.part
      data := c.1
      marks := c.2
      shed := t.pollctl.setWidth 4 }
    { t with manifests := t.manifests.set t.drainSlot (some m) }
/-- The drain ends after so many units (R479): a seal is attempted only if every must-drain region is full. -/
def State.drainEnds (s : State) (units : Nat) : State :=
  let plan := s.drainPlan
  let pre := match s.trunk.hot with | some n => Nat.min n units | none => units
  let regions := (drainMark pre (units - pre) plan).map s.skipRest
  let ok := regions.all fun r => !r.must || r.status = 0 || r.status = 3
  (s.fillManifest regions).toPhase (if ok then 4 else 5)
/-- DRAIN_DONE (R479): every region that may drain is done. -/
def execDrainDone (s : State) : Out :=
  .next (if s.trunk.phase = 3 then s.drainEnds (planUnits s.drainPlan) else s)
/-- RESERVE_AT_SEALRES (R479). -/
def execReserveAtSealres (units : Nat) (s : State) : Out := .next (if s.trunk.phase = 3 then s.drainEnds units else s)
/-- SEAL_WRITTEN (R478). -/
def execSealWritten (s : State) : Out :=
  .next (if s.trunk.phase ≠ 4 then s
  else (s.onTrunk fun t => { t with
    manifests := t.manifests.set t.drainSlot ((t.manifests[t.drainSlot]).map fun m => { m with state := 2 }) }).toPhase 5)
/-- RESERVE_SPENT (R470): in phase 5 the KEEP ports go dark. -/
def execReserveSpent (s : State) : Out :=
  .next (if s.trunk.phase = 5 then s.onTrunk fun t => { t.portsOff true with charged := false } else s)
/-- RESERVE_CHARGED (R505): the reserve charges outside phases 1 to 5. -/
def execReserveCharged (s : State) : Out :=
  .next (if s.trunk.powered && (s.trunk.phase = 0 || s.trunk.phase = 6) then s.onTrunk fun t => { t with charged := true } else s)

end Sys2Proof.Machine
end

