-- ==== Sys2Proof/Machine/Cuts.lean ====
section
/-!
DEFINITION. The cambium engine (R488-R492): taking, writing, restoring and aborting cuts.
-/

namespace Sys2Proof.Machine

/-! ## Registers (R488) -/

/-- A write of cutctl's fields. -/
def State.writeCutFields (s : State) (v : BitVec 64) : State := s.onTrunk fun t => { t with cutctl := v &&& 0x1F0003FFFFFFFFFF }
/-- What cutstat reads. -/
def Trunk.cutstatWord (t : Trunk) : BitVec 64 :=
  BitVec.ofBool t.cut.isSome ++ BitVec.ofBool (t.cut.any (·.armed)) ++ t.cutstat.setWidth 62
/-- PART of cutctl. -/
def cutPart (v : BitVec 64) : PartNum := v.extractLsb' 56 3
/-- GROUP of cutctl. -/
def cutGroup (v : BitVec 64) : BitVec 10 := v.extractLsb' 32 10
/-- STEP of cutctl. -/
def cutStep (v : BitVec 64) : BitVec 32 := v.setWidth 32
/-- Whether phase STEP of a group's phaser has completed. -/
def State.stepPast (s : State) (p : PartNum) (g : BitVec 10) (step : BitVec 32) : Bool :=
  let e := smGet 0 g.toNat (s.part p).groups
  (s.phaser? (e.extractLsb' 64 32)).any fun x => x.part = p && phaseDone x.phase step
/-- OP 1: arm the cut, or end late. -/
def State.cutArm (s : State) (v : BitVec 64) : State :=
  if s.stepPast (cutPart v) (cutGroup v) (cutStep v) then s.cutFails (cutPart v) (cutStep v) 1
  else s.onTrunk fun t => { t with cut := some ⟨cutPart v, cutGroup v, cutStep v, true, none⟩ }
/-- OP 3: end the armed or running cut. -/
def State.cutStop (s : State) : State :=
  match s.trunk.cut with
  | some r => s.cutFails r.part r.step 2
  | none => s

/-! ## Writing a cut (R490) -/

/-- The cut granules of a partition, in ascending order. -/
def Trunk.cutGrans (t : Trunk) (p : PartNum) : List Nat :=
  ((List.range 2046).map (· + 1538)).filter fun g => t.owner g = p.setWidth 4
/-- Whether the next cut goes to the upper half: the half that does not hold the last one. -/
def Part.nextHalf (q : Part) : Bool := match q.lastCut with | some (_, _, _, h) => !h | none => false
/-- The granules that hold a half of so many granules. -/
def halfGrans (l : List Nat) (upper : Bool) : List Nat :=
  if upper then l.drop (l.length / 2) else l.take ((l.length + 1) / 2)
/-- The bytes of a cut: the manifest's header page, module record, one partition record, region table and the regions' data
(R476, R477, R490). -/
def Cut.size (c : Cut) : Nat :=
  0x1000 + 0x2000 + 0x28000 + 0x2000 + (64 * c.regions.length + 4095) / 4096 * 4096 + (c.regions.map (·.bytes)).sum
/-- Whether a cut fits a half of a partition's cut granules. -/
def Trunk.cutFits (t : Trunk) (c : Cut) : Bool := decide (2 * c.size ≤ (t.cutGrans c.part).length * 0x40000000)
/-- SEQ of the newest cut of a partition. -/
def Trunk.cutSeq (t : Trunk) (p : PartNum) : Nat := ((t.cuts.filter fun c => c.part = p).map (·.seq.toNat)).foldl Nat.max 0
/-- A cut is complete: it is stored if HW, sent if NET, and recorded (R490). -/
def State.cutCompletes (s : State) (c : Cut) : State :=
  let ctl := s.trunk.cutctl
  let hw := ctl.getLsbD 60
  let half := if hw then (s.part c.part).nextHalf else s.trunk.cutstat.getLsbD 32
  let seq := BitVec.ofNat 64 (s.trunk.cutSeq c.part + 1)
  let full : Cut := { c with half := half, seq := seq, grans := halfGrans (s.trunk.cutGrans c.part) half }
  let s := if ctl.getLsbD 59 then s.send (.cutBytes seq) else s
  let s := if hw then (s.onTrunk fun t => { t with
        cuts := (t.cuts.filter fun x => !(x.part = c.part && x.half = half)) ++ [full] }).onPart c.part fun q =>
      { q with lastCut := some (seq, c.group, c.step, half) }
    else s
  (s.onTrunk fun t => { t with
    cut := none
    cutstat := (0 : BitVec 31) ++ BitVec.ofBool half ++ c.step }).errRecord (some c.part)
    { type := 0x66, code := if half then 1 else 0, value := c.step.toNat }
/-- CUT_DONE (R490): the copy is finished, or its target is not reachable, or it does not fit. -/
def execCutDone (reachable : Bool) (s : State) : Out :=
  .next (match s.trunk.cut with
  | some r =>
    (match r.snap with
    | some c =>
      if s.trunk.cutctl.getLsbD 59 && !reachable then s.cutFails c.part c.step 3
      else if s.trunk.cutctl.getLsbD 60 && !s.trunk.cutFits c then s.cutFails c.part c.step 4
      else s.cutCompletes c
    | none => s)
  | none => s)

/-! ## Restoring a cut (R491) -/

/-- Put a cut's regions back into HBM, where the partition still owns them. -/
def State.putCut (s : State) (c : Cut) : State :=
  let mine (a : Nat) : Bool := target a = .hbm && s.trunk.owns c.part a
  let s := c.regions.foldl (fun s r => if s.trunk.ownsRange c.part r.base r.bytes then
      (List.range ((r.base + r.bytes) / 0x1000000 - r.base / 0x1000000 + 1)).foldl
        (fun s i => if mine (r.base + i * 0x1000000) then s.unelide (r.base + i * 0x1000000) else s)
        (s.onMem fun m => m.zero r.base r.bytes)
    else s) s
  s.onMem fun m => { m with
    bytes := (c.data.filter fun e => mine e.1).foldl (fun b e => smSet 0 e.1 e.2 b) m.bytes
    check := (c.marks.filter fun b => mine (b * 64)).foldl (fun l b => smSet 0 b markPattern l) m.check }
/-- OP 2: the sealed cut of the half that HALF names. It needs a partition without a live launch. -/
def State.cutPutBack (s : State) (p : PartNum) (step : BitVec 32) : State :=
  if !(s.liveLids p).isEmpty then s
  else
    match s.trunk.cuts.find? fun c => c.part = p && c.half = s.trunk.cutstat.getLsbD 32 with
    | some c => (s.putCut c).onTrunk fun t => { t with cutstat := t.cutstat &&& 0xF0FFFFFFFFFFFFFF }
    | none => s.cutFails p step 6

/-- A write of cutctl (R488): the fields, then the OP that GO starts; while an OP runs only an abort counts. A module that does not
announce the cambium engine has none (R1). -/
def State.writeCutctl (s : State) (v : BitVec 64) : State :=
  if !s.trunk.announces 0x006 then s else
  let busy := s.trunk.cut.isSome
  let s := s.writeCutFields v
  let op := v.extractLsb' 61 2
  if !v.getLsbD 63 then s
  else if op = 3 then s.cutStop
  else if busy then s
  else if op = 1 then s.cutArm v
  else if op = 2 then s.cutPutBack (cutPart v) (cutStep v)
  else s
/-- Whether a write of cutctl is a GO with an OP. -/
def isGo (by_ : Writer) (v : BitVec 64) (op : BitVec 2) : Bool := writerFull by_ && v.getLsbD 63 && v.extractLsb' 61 2 = op
/-- CUT_TAKE (R488). -/
def execCutTake (by_ : Writer) (v : BitVec 64) (s : State) : Out := .next (s.written by_ (isGo by_ v 1) (s.writeCutctl v))
/-- CUT_RESTORE (R491). -/
def execCutRestore (by_ : Writer) (v : BitVec 64) (s : State) : Out := .next (s.written by_ (isGo by_ v 2) (s.writeCutctl v))
/-- CUT_ABORT (R488). -/
def execCutAbort (by_ : Writer) (v : BitVec 64) (s : State) : Out := .next (s.written by_ (isGo by_ v 3) (s.writeCutctl v))

end Sys2Proof.Machine
end

