-- ==== Sys2Proof/Machine/Errors.lean ====
section
/-!
DEFINITION. Refresh elision (R454, R455), checkpoint registers and boundaries (R457-R460), rollback (R461, R462, R446).
-/

namespace Sys2Proof.Machine

/-! ## Refresh elision -/

/-- A write of elidesel. -/
def State.writeElidesel (s : State) (v : BitVec 64) : State := s.onTrunk fun t => { t with elidesel := v.setWidth 9 }
/-- What elidemap reads of the selected granule. -/
def Trunk.elidemap (t : Trunk) : BitVec 64 := smGet 0 t.elidesel.toNat t.elide
/-- Drop the undo entries of a unit of 16 MiB. -/
def State.dropUnit (s : State) (u : Nat) : State := { s with undo := s.undo.filter fun x => x.block * 64 / 0x1000000 ≠ u }
/-- A write of elidemap (R455): a bit that it clears zeroes its unit; a bit that it sets discards what the caches hold of the unit, whose
bytes read zero from then on, and drops the unit's undo-log entries. A module that does not announce refresh elision has none (R1). -/
def State.writeElidemap (s : State) (v : BitVec 64) : State :=
  if !s.trunk.announces 0x00A then s else
  let g := s.trunk.elidesel.toNat
  let old := s.trunk.elidemap
  let units (m : BitVec 64) : List Nat := ((List.range 64).filter fun u => m.getLsbD u).map fun u => g * 64 + u
  let s := (units (old &&& ~~~v)).foldl (fun s u => s.unelide (u * 0x1000000)) s
  let s := (units (v &&& ~~~old)).foldl State.dropUnit s
  s.onTrunk fun t => { t with elide := smSet 0 g v t.elide }
/-- ELIDE_SET (R455): a write that sets bits. -/
def execElideSet (by_ : Writer) (v : BitVec 64) (s : State) : Out :=
  .next (s.written by_ (writerFull by_ && v &&& ~~~s.trunk.elidemap ≠ 0) (s.writeElidemap v))
/-- ELIDE_CLEAR (R455): a write that clears bits. -/
def execElideClear (by_ : Writer) (v : BitVec 64) (s : State) : Out :=
  .next (s.written by_ (writerFull by_ && s.trunk.elidemap &&& ~~~v ≠ 0) (s.writeElidemap v))

/-! ## Checkpoint registers (R457) -/

/-- A write of ckptctl: PERIOD is held between 1 and 10,000; clearing EN ends the intervals, with their checkpoints and log
entries. -/
def State.writeCkptctl (s : State) (p : PartNum) (v : BitVec 64) : State :=
  let period := BitVec.ofNat 16 (Nat.min 10000 (Nat.max 1 (v.setWidth 16).toNat))
  let s := s.onPart p fun q => { q with ckptctl := BitVec.ofBool (v.getLsbD 63) ++ (0 : BitVec 47) ++ period }
  if v.getLsbD 63 then s
  else { s with checkpoints := s.checkpoints.filter fun c => c.part ≠ p, undo := s.undo.filter fun u => u.part ≠ p }
/-- A write of ckptlog: ignored while EN is 1, or where the region would leave the partition's HBM granules. -/
def State.writeCkptlog (s : State) (p : PartNum) (v : BitVec 64) : State :=
  let v := v &&& 0x0FFFFFFFFFFFFFFF
  let r := regionOfWord v
  s.unlessLocked p (
    if (s.part p).ckptctl.getLsbD 63 || !s.trunk.ownsRange p r.1 r.2 then s else s.onPart p fun q => { q with ckptlog := v })
/-- USED: 64 KiB units of the log region in use. -/
def State.ckptUsed (s : State) (p : PartNum) : Nat := (s.logUsed p + 65535) / 65536
/-- What ckptstat reads. -/
def State.ckptstat (s : State) (p : PartNum) : BitVec 64 :=
  (s.part p).ckptseq ++ (0 : BitVec 8) ++ BitVec.ofNat 24 (s.ckptUsed p)

/-! ## Boundaries (R458) -/

/-- Whether a context takes a new checkpoint: its launch has slots, and it is not suspect. -/
def State.takesCheckpoint (s : State) (x : Ctx) : Bool :=
  !x.csr.suspect && (match s.launch? x.part x.lid with | some l => l.slots | none => false)
/-- A context at the start of an interval: neither irrevocable nor released (R460, R462). -/
def Ctx.newInterval (c : Ctx) : Ctx := { c with irrevocable := false, released := false }
/-- Replace a context's checkpoint and discard its log entries. -/
def State.putCheckpoint (s : State) (x : Ctx) (spad : SMap Byte) (mark : List Nat) : State :=
  let mine (p : PartNum) (l : BitVec 32) (i : Nat) : Bool := p = x.part && l = x.lid && i = x.sidx
  { s with
    checkpoints := (s.checkpoints.filter fun c => !mine c.part c.lid c.sidx) ++ [s.checkpointOf x.newInterval spad mark]
    undo := s.undo.filter fun u => !mine u.part u.lid u.sidx }
/-- A resident context's boundary: it stops, its image is copied, and it goes on. -/
def State.boundaryCore (s : State) (c : CoreNum) : State :=
  if !s.takesCheckpoint (s.core c).ctx then s
  else
    let s := s.asCore c fun s => s.rowsArrive.drainLoads
    let k := s.core c
    let (mark, s) := s.saveMarks c
    (s.putCheckpoint k.ctx.image k.spad mark).onCore c fun k => { k with ctx := k.ctx.newInterval }
/-- A saved context's boundary; one that waits for a rollback keeps its checkpoint. -/
def State.boundaryTask (s : State) (t : Task) : State :=
  let rolls : Bool := match t.status with | .rollback _ => true | _ => false
  if rolls || !s.takesCheckpoint t.ctx then s
  else (s.putCheckpoint t.ctx t.spad t.spadMark).onTask t.id fun t => { t with ctx := t.ctx.newInterval }
/-- Whether a task is on a core: running, or being saved there. -/
def Task.runs (t : Task) : Bool := t.saving.isSome || (match t.status with | .running _ => true | _ => false)
/-- CHECKPOINT_BOUNDARY (R458). -/
def execCheckpointBoundary (part : PartNum) (full : Bool) (s : State) : Out :=
  .next (if !(s.part part).ckptctl.getLsbD 63 then s
  else
    let s := if full then s.errRecord (some part) { type := 0x3D, value := s.ckptUsed part } else s
    let cores := (s.cores.filter fun e => e.2.busy && !e.2.ctx.boot && e.2.ctx.part = part).map fun e => BitVec.ofNat 8 e.1
    let saved := s.tasks.filter fun t => t.part = part && !t.runs
    let s := cores.foldl State.boundaryCore s
    let s := saved.foldl State.boundaryTask s
    s.onPart part fun q => { q with ckptseq := q.ckptseq + 1 })

/-! ## Rollback (R461) -/

/-- Restore a block's old bytes under an entry's mask, at the home: a whole block by one write. -/
def State.undoBlock (s : State) (u : Undo) : State :=
  if u.mask = BitVec.allOnes 64 then s.writePhys none (u.block * 64) ((List.range 64).map fun i => (u.old[i]?).getD 0)
  else (List.range 64).foldl (fun s i =>
    if u.mask.getLsbD i then s.writePhys none (u.block * 64 + i) [(u.old[i]?).getD 0] else s) s
/-- The log entries of a context. -/
def State.undoOf (s : State) (t : TaskId) : List Undo := s.undo.filter fun u => u.part = t.part && u.lid = t.lid && u.sidx = t.sidx
/-- The checkpoint of a context. -/
def State.checkpoint? (s : State) (t : TaskId) : Option Checkpoint :=
  s.checkpoints.find? fun c => c.part = t.part && c.lid = t.lid && c.sidx = t.sidx
/-- A block of the log region reads with an error. -/
def State.logBroken (s : State) (p : PartNum) : Bool :=
  let r := regionOfWord (s.part p).ckptlog
  (smSlice (r.1 / 64) (r.2 / 64) s.mem.check).any fun e => (finding e.2).bad
/-- Why a rollback is refused (record 0x39), or 0. -/
def State.rollbackCode (s : State) (t : Task) : Nat :=
  if (s.checkpoint? t.id).isNone then 1
  else if t.ctx.irrevocable then 2
  else if s.logBroken t.part && !(s.undoOf t.id).isEmpty then 3
  else 0
/-- SREPLAY and WREPLAY of each membership (R461). -/
def State.replaysOf (s : State) (t : TaskId) (c : Checkpoint) : List (BitVec 32 × BitVec 32 × BitVec 32) :=
  s.phasers.filterMap fun p =>
    if p.part = t.part then
      (p.member? t).bind fun m => (c.phases.find? fun x => x.1 = p.handle).map fun x => (p.handle, m.sph - x.2.1, m.wph - x.2.2)
    else none
/-- Restore a checkpoint into a task: the count of segment checks in a row stays (R201). -/
def Task.restored (t : Task) (c : Checkpoint) (replays : List (BitVec 32 × BitVec 32 × BitVec 32)) (now : Nat) : Task :=
  { t with
    ctx := { c.ctx with segTraps := t.ctx.segTraps, replays := replays }
    spad := c.spad
    spadMark := c.spadMark
    status := .ready
    ready := now
    aging := 0 }
/-- Roll a waiting context back, for a segment check, or for a save-area failure, after which the task is lost all the same
(R446). -/
def State.rollBack (s : State) (t : Task) (cause : BitVec 8) : State :=
  let id := t.id
  let code := s.rollbackCode t
  let rec_ (type code value : Nat) : ErrRec :=
    { type, code, lid := t.lid.toNat, sidx := t.sidx, value }
  match s.checkpoint? id with
  | some c =>
    if code ≠ 0 then (s.errRecord (some t.part) (rec_ 0x39 code cause.toNat)).endSaved id true
    else
      let log := s.undoOf id
      let replays := s.replaysOf id c
      let s := log.foldl State.undoBlock s
      let s := { s with undo := s.undo.filter fun u => !(u.part = t.part && u.lid = t.lid && u.sidx = t.sidx) }
      let v := (log.countP fun u => u.mask ≠ 0) % 2 ^ 31 + (if t.ctx.released then 2 ^ 31 else 0)
      let s := s.errRecord (some t.part) (rec_ 0x38 (if cause = 0x15 then 0 else 1) v)
      if cause = 0x15 then
        let s := s.saveFrame c.ctx false c.spad c.spadMark
        { s.onTask id fun t => t.restored c replays s.seqno with seqno := s.seqno + 1 }
      else s.endSaved id true
  | none => (s.errRecord (some t.part) (rec_ 0x39 code cause.toNat)).endSaved id true
/-- ROLLBACK (R461): of a context that waits for one. -/
def execRollback (part : PartNum) (lid : BitVec 32) (sidx : Nat) (s : State) : Out :=
  .next (match s.tasks.find? fun t => t.id = ⟨part, lid, sidx⟩ with
  | some t =>
    (match t.status with
    | .rollback cause => if t.saving.isSome then s else s.rollBack t cause
    | _ => s)
  | none => s)

end Sys2Proof.Machine
end

