-- ==== Sys2Proof/Machine/Restore.lean ====
section
/-!
DEFINITION. Step 7 of a start: the manifest slots, restoring a sealed manifest (R480-R483, R487), and the cuts that outlive an
unusable one (R492).
-/

namespace Sys2Proof.Machine

/-! ## Choosing a slot (R480) -/

/-- The sealed manifest with the higher SEQ, and its slot. What it holds in heartwood is what was written: its tag, chain and
digests verify, and it is this module's (log 7). -/
def Trunk.usable (t : Trunk) : Option (Nat × Manifest) :=
  let at_ (i : Fin 2) : Option (Nat × Manifest) :=
    match t.manifests[i] with
    | some m => if m.state = 2 then some (i.val, m) else none
    | none => none
  match at_ 0, at_ 1 with
  | some a, some b => some (if a.2.seq.toNat < b.2.seq.toNat then b else a)
  | some a, none => some a
  | none, b => b
/-- Record 0x62 for each slot that holds an unsealed manifest (R483). -/
def State.discardSlots (s : State) : State :=
  (List.finRange 2).foldl (fun s i => match s.trunk.manifests[i] with
    | some m => if m.state = 2 then s else
        s.errRecord none { type := 0x62, code := 1, addr := i.val, value := (m.seq.setWidth 32).toNat }
    | none => s) s

/-! ## Restoring (R481) -/

/-- A partition as its record restores it: nothing that was in progress goes on. -/
def Part.resumed (q : Part) : Part :=
  { q with
    busy := false, removing := 0, teardown := false, inval := none, staged := [], migbusy := none, contribs := []
    session := false, chosen := none, headWait := none, headNeeds := none }
/-- A saved task after restore: ready, or waiting for its die (R487). -/
def Task.resumed (t : Task) (shed : BitVec 4) (now : Nat) : Task :=
  { t with status := if shed.getLsbD (dieOf t.home).toNat then .die else .ready, ready := now, aging := 0, saving := none }
/-- Whether a launch is restored: none of its frames and ranges fell short, and none of its contexts is lost. -/
def Manifest.launchWhole (m : Manifest) (l : Launch) : Bool :=
  (m.regions.all fun r => !(r.part = l.part && r.lid = l.lid && r.kind ≠ 1) || r.status = 0 || r.status = 3) &&
  m.lost.all fun x => !(x.1 = l.part && x.2.1 = l.lid)
/-- The 64 KiB units drained for a partition. -/
def Manifest.unitsOf (m : Manifest) (p : PartNum) : Nat :=
  ((m.regions.filter fun r => r.part = p).map fun r => (r.done + 65535) / 65536).sum
/-- The groves of a set of dies. -/
def grovesOfDies (d : BitVec 4) : BitVec 16 :=
  (List.range 16).foldl (fun m g => if d.getLsbD (g / 4) then m ||| (1 <<< g) else m) 0
/-- What the newest of the partitions' last cuts shows in cutstat. -/
def Manifest.cutstat (m : Manifest) : BitVec 64 :=
  (m.parts.foldl (fun (b : Nat × BitVec 64) x => match x.2.lastCut with
    | some (seq, _, step, half) =>
      if b.1 ≤ seq.toNat then (seq.toNat, (0 : BitVec 31) ++ BitVec.ofBool half ++ step) else b
    | none => b) (0, 0)).2
/-- The registers and the memory of a manifest. -/
def State.putManifest (s : State) (m : Manifest) : State :=
  let s := m.parts.foldl (fun s x => s.setPart x.1 x.2.resumed) s
  let keep (a : Nat) : Bool := decide (0x8000000000 ≤ a)
  let now := s.seqno
  { s with
    seqno := now + 1
    mem := { s.mem with
      bytes := m.data.foldl (fun b e => smSet 0 e.1 e.2 b) (s.mem.bytes.filter fun c => keep c.1)
      check := m.marks.foldl (fun l b => smSet 0 b markPattern l) (s.mem.check.filter fun e => keep (e.1 * 64)) }
    phasers := m.phasers
    gens := m.phasers.foldl (fun g p => smSet 0 (p.eng.toNat * 4096 + p.idx.toNat) p.gen g) s.gens
    launches := m.launches
    tasks := m.tasks.map fun t => t.resumed m.shed now
    checkpoints := m.checkpoints
    undo := m.undo
    trunk := { s.trunk with
      modid := 0x80000000 ||| m.modnum.setWidth 32
      memown := m.memown
      elide := m.elide
      pollctl := regMerge s.trunk.pollctl (m.shed.setWidth 64) 0xF
      shedOrder := ((List.range 4).filter fun d => m.shed.getLsbD d).map (BitVec.ofNat 2)
      dieslive := s.trunk.dieslive &&& ~~~m.shed
      groveslive := s.trunk.groveslive &&& ~~~grovesOfDies m.shed
      mustsum := BitVec.ofNat 24 ((m.launches.map (·.mustUnits)).sum)
      cutstat := m.cutstat } }
/-- The records of a restored partition (R483). -/
def State.restoreRecords (s : State) (slot : Nat) (m : Manifest) (p : PartNum) : State :=
  (s.errRecord (some p) { type := 0x60, code := m.cause.toNat, value := m.unitsOf p }).errRecord (some p)
    { type := 0x61, code := slot, value := (m.seq.setWidth 32).toNat }
/-- A list entry that was not wholly drained is reported. -/
def State.shortRecords (s : State) (m : Manifest) : State :=
  (m.regions.filter fun r => r.kind = 1 && (r.status = 1 || r.status = 2)).foldl (fun s r =>
    s.errRecord (some r.part) { type := 0x63, code := r.status.toNat, addr := r.base, value := (r.done + 65535) / 65536 }) s
/-- A partition that was locked is torn down (R475). -/
def State.discardPart (s : State) (p : PartNum) (tdi : BitVec 3) : State :=
  (s.errRecord (some p) { type := 0x68, value := tdi.toNat }).teardown p
/-- Restore a manifest of a slot (R481, R482). -/
def State.restoreManifest (s : State) (slot : Nat) (m : Manifest) : State :=
  let s := s.putManifest m
  let (gone, kept) := m.parts.partition fun x => x.2.locked
  let s := kept.foldl (fun s x => s.restoreRecords slot m x.1) s
  let s := s.shortRecords m
  let s := (m.launches.filter fun l => !m.launchWhole l).foldl (fun s l => s.killLaunch l.part l.lid 0x22) s
  let s := gone.foldl (fun s x => s.discardPart x.1 x.2.tdi) s
  (s.phasers.filter fun p => p.scope = 4).foldl (fun s p =>
    (s.onPhaser p.eng p.idx fun p => { p with announced := p.localReady }).send (.announce p.handle p.phase p.localReady)) s

/-! ## Cuts without a manifest (R492) -/

/-- The newest cut of a partition. -/
def Trunk.newestCut (t : Trunk) (p : PartNum) : Option Cut :=
  (t.cuts.filter fun c => c.part = p).foldl (fun b c => match b with
    | some x => if x.seq.toNat < c.seq.toNat then some c else b
    | none => some c) none
/-- Each partition's newest cut keeps its granules, the other half's are zeroed with the same owner, and every other cut
granule is free. -/
def Trunk.keepCuts (t : Trunk) : Trunk :=
  let ps := (List.range 8).map (BitVec.ofNat 3)
  let newest := ps.filterMap t.newestCut
  let own (t : Trunk) (p : PartNum) (l : List Nat) : Trunk := l.foldl (fun t g => t.setOwn g (p.setWidth 8)) t
  let old := t.cuts
  let t := ((List.range 2046).map (· + 1538)).foldl (fun t g => t.setOwn g 0x0F) t
  let t := old.foldl (fun t c => own t c.part c.grans) t
  let last := newest.foldl (fun (b : Option Cut) c => match b with
    | some x => if x.seq.toNat < c.seq.toNat then some c else b
    | none => some c) none
  { t with
    cuts := newest
    cutstat := match last with
      | some c => (0 : BitVec 31) ++ BitVec.ofBool c.half ++ c.step
      | none => 0 }
/-- Step 7 (R498): the slots are examined, and a sealed manifest or the cuts are restored. -/
def State.restoreStep (s : State) : State :=
  let s := s.discardSlots
  match s.trunk.usable with
  | some (slot, m) => s.restoreManifest slot m
  | none =>
    let newest := ((List.range 8).map (BitVec.ofNat 3)).filterMap s.trunk.newestCut
    let s := s.onTrunk Trunk.keepCuts
    newest.foldl (fun s c => s.onPart c.part fun q => { q with lastCut := some (c.seq, c.group, c.step, c.half) }) s

end Sys2Proof.Machine
end

