-- ==== Sys2Proof/Machine/Start.lean ====
section
/-!
DEFINITION. Supplies and starts: power-on, resets, the steps of a start, its failures and ends (R498-R500, R503, R504).
-/

namespace Sys2Proof.Machine

/-! ## Resets -/

/-- The trunk die after every domain but Glidin's is reset: what heartwood, the sealed configuration, Glidin's domain and the
supplies hold stays. -/
def Trunk.reset (t : Trunk) : Trunk :=
  { Trunk.zero with
    reason := t.reason
    fails := t.fails
    manifests := t.manifests
    cuts := t.cuts
    repair := t.repair
    glidin := t.glidin
    glidinSeq := t.glidinSeq
    powered := t.powered
    charged := t.charged }
/-- Every domain but Glidin's is reset: only the pool devices keep their contents. -/
def State.resetDomains (s : State) : State :=
  let pool (a : Nat) : Bool := target a = .pool
  { State.reset with
    cur := s.cur
    agenda := s.agenda
    tick := s.tick
    clock := s.clock
    seqno := s.seqno
    out := s.out
    mem := ⟨s.mem.bytes.filter fun c => pool c.1, s.mem.check.filter fun e => pool (e.1 * 64), [], []⟩
    trunk := s.trunk.reset }
/-- A start begins (R498, R504): a seedling start while FAILS is 3. PHASE stays 5 through the start that ends dormancy (R470). -/
def State.beginStart (s : State) : State :=
  let phase : BitVec 4 := if 5 ≤ s.trunk.phase.toNat then 5 else 0
  let (n, s) := s.resetDomains.fresh
  s.onTrunk fun t => { t with
    step := 1
    phase := phase
    powered := true
    seedling := t.fails = 3
    capPick := n
    caps := if t.fails = 3 then [0x001] else Config.caps }
/-- Power is lost in every domain but Glidin's. -/
def State.loseState (s : State) : State := s.resetDomains.onTrunk fun t => { t with powered := false }
/-- Whether the module is dormant: in phases 1 to 5, with no start under way (R470). -/
def Trunk.dormant (t : Trunk) : Bool := t.done && decide (1 ≤ t.phase.toNat) && decide (t.phase.toNat ≤ 5)
/-- Whether a start is under way. -/
def Trunk.starting (t : Trunk) : Bool := t.powered && !t.done && t.step ≠ 0

/-- POWER_ON (R470, R498): at the end of phase 5, after a loss of power, or at first. -/
def execPowerOn (s : State) : Out :=
  let t := s.trunk
  .next (if !t.powered || (t.dormant && t.phase = 5) || (t.step = 0 && !t.done) then s.beginStart else s)
/-- FUNDAMENTAL_RESET (R498, R499): it interrupts a start that runs; it does not end dormancy (R470). -/
def execFundamentalReset (s : State) : Out :=
  .next (if s.trunk.powered && !s.trunk.dormant then s.beginStart else s)
/-- A write of startctl (R500). -/
def State.writeStartctl (s : State) (v : BitVec 64) : State :=
  if v.getLsbD 63 && s.trunk.done then (s.onTrunk fun t => { t with fails := 0 }).beginStart else s
/-- FULL_START (R500). -/
def execFullStart (by_ : Writer) (v : BitVec 64) (s : State) : Out := .next (s.written by_ (writerFull by_) (s.writeStartctl v))
/-- SUPPLY_LOSS (R499): state is lost, or a start is interrupted; in dormancy the reserve carries the module. -/
def execSupplyLoss (s : State) : Out := .next (if s.trunk.powered && !s.trunk.dormant then s.loseState else s)
/-- HARD_THERMAL_TRIP (R479): nothing is saved. -/
def execHardThermalTrip (s : State) : Out := .next (if s.trunk.powered then s.loseState else s)
/-- AUXILIARY_SUPPLY_LOSS (R500, R505): Glidin's domain loses FAILS, REASON, its records and the clock. -/
def execAuxiliarySupplyLoss (s : State) : Out :=
  .next (({ s with clock := 0 } : State).onTrunk fun t => { t with fails := 0, reason := 0, glidin := [], glidinSeq := 0 })

/-! ## Steps (R498, R499) -/

/-- A start fails (R499): FAILS rises, holding at 3, REASON is recorded, and the next start begins. -/
def State.startFails (s : State) (reason : BitVec 8) : State :=
  (s.onTrunk fun t => { t with fails := if t.fails = 3 then 3 else t.fails + 1, reason := reason }).beginStart
/-- Enter step 7: PHASE reads 6 while a manifest is restored (R470). -/
def State.enterRestore (s : State) : State :=
  s.onTrunk fun t => { t with step := 7, phase := if !t.seedling && t.usable.isSome then 6 else t.phase }
/-- The lowest grove of a set. -/
def lowestGrove (m : BitVec 16) : BitVec 16 := m &&& (0 - m)
/-- The dies that hold a grove of a set. -/
def diesOf (m : BitVec 16) : BitVec 4 :=
  (List.range 4).foldl (fun d i => if m.extractLsb' (4 * i) 4 = 0 then d else d ||| (1 <<< i)) 0
/-- Step 6 ends (R502, R504, R508), unless a boot context still runs or repaired cores run the test again. -/
def State.marchStep (s : State) (groves : BitVec 16) : State :=
  if s.booting then s
  else
    let (s, live, again) := s.marchResult groves
    let s := s.onTrunk fun t => { t with groveok := live }
    if live = 0 then s.startFails 0x06
    else if !again.isEmpty then (s.onTrunk fun t => { t with retest := again }).bootCores again
    else
      let run := if s.trunk.seedling then lowestGrove live else live
      (s.onTrunk fun t => { t with groveslive := run, dieslive := diesOf run, retest := [] }).enterRestore
/-- Step 8 (R498): the start is complete; a full start clears FAILS. -/
def State.startDone (s : State) : State :=
  s.onTrunk fun t => { t with step := 8, done := true, phase := 0, fails := if t.seedling then t.fails else 0 }
/-- Whether a step of the start can fail with a reason (R498, R503). In a seedling start after reason 0x03 or 0x04 steps 3 and 4 use
ROM's defaults (R504). Reason 0x06 comes of step 6's results, 0x09 of the timeout. Whether the sealed area authenticates under the
seal key is what step 3 reports: the area has no layout (log 7). -/
def Trunk.mayFail (t : Trunk) (reason : BitVec 8) : Bool :=
  let rom := t.seedling && (t.reason = 0x03 || t.reason = 0x04)
  match t.step.toNat with
  | 2 => reason = 0x01 || reason = 0x02
  | 3 => reason = 0x03 && !rom
  | 4 => reason = 0x04 && !rom
  | 5 => reason = 0x05 || reason = 0x0A
  | 6 => (reason = 0x07 && !t.seedling) || reason = 0x0A
  | 7 => reason = 0x08 && !t.seedling
  | _ => false
/-- A step that ends without other work: step 2 derives the key unit's keys (R413). -/
def Trunk.nextStep (t : Trunk) : Trunk :=
  { t with step := t.step + 1, unitKeys := if t.step = 2 then keyUnit Config.rootSecret else t.unitKeys }
/-- START_STEP (R498): the step in progress ends well, or fails with a reason. -/
def execStartStep (res : StartResult) (s : State) : Out :=
  .next (if !s.trunk.starting then s
  else
    match res with
    | .failed reason => if s.trunk.mayFail reason then s.startFails reason else s
    | .ok groves =>
      if s.trunk.step = 5 then s.enterMarch
      else if s.trunk.step = 6 then s.marchStep groves
      else if s.trunk.step = 7 then (if s.trunk.seedling then s else s.restoreStep).startDone
      else s.onTrunk Trunk.nextStep)
/-- START_TIMEOUT (R498): counted from step 2. -/
def execStartTimeout (s : State) : Out :=
  .next (if s.trunk.starting && decide (2 ≤ s.trunk.step.toNat) then s.startFails 0x09 else s)

end Sys2Proof.Machine
end

