-- ==== Sys2Proof/Machine/ConfigSpace.lean ====
section
/-!
DEFINITION. The trunk configuration space by offset (R22, R8-R10, R409): what every word reads, what a write does, the fields
that a read clears, and the capability list (R24-R28).
-/

namespace Sys2Proof.Machine

/-! ## The capability list (R24-R28) -/

/-- The body of a capability's entry (R28, R407, R454). -/
def capBody (id : BitVec 12) : List (BitVec 32) :=
  match id.toNat with
  | 1 => [0x000000F8]
  | 2 => [0x01000003, 96]
  | 3 => [36, 256]
  | 4 => [0x0000010F]
  | 5 => [0x00401010]
  | 6 => [0x00000003]
  | 7 => [0x00020578]
  | 8 => [3]
  | 9 => [16]
  | 10 => [24]
  | _ => []
/-- The words of the list from byte offset `off` on: a header, its body, the next entry. -/
def capWords : Nat → List (BitVec 12) → List (BitVec 32)
  | _, [] => []
  | off, id :: t =>
    let b := capBody id
    let next := off + 4 + 4 * b.length
    ((if t.isEmpty then (0 : BitVec 16) else BitVec.ofNat 16 next) ++ (1 : BitVec 4) ++ id) :: b ++ capWords next t
/-- The first byte of the list of a start: within 0x0100 to 0x0FFC, where no register stands (R24, log 12). -/
def Trunk.capBase (t : Trunk) : Nat := 0x100 + 4 * (Config.capOffset t.capPick % 928)
/-- The order of a list that a number names: every order has one. -/
def ordered : Nat → List (BitVec 12) → List (BitVec 12)
  | _, [] => []
  | k, x :: t =>
    let r := ordered (k / (t.length + 1)) t
    r.take (k % (t.length + 1)) ++ x :: r.drop (k % (t.length + 1))
/-- The list's words, once the start is complete; the order of the entries is free (R24, log 12). -/
def Trunk.capList (t : Trunk) : List (BitVec 32) :=
  if t.done then capWords t.capBase (ordered (Config.capOrder t.capPick) t.caps) else []
/-- CAPPTR. -/
def Trunk.capptr (t : Trunk) : BitVec 32 := if t.capList.isEmpty then 0 else BitVec.ofNat 32 t.capBase
/-- The word of the list at a byte offset; 0 outside it. -/
def Trunk.capWord (t : Trunk) (off : Nat) : BitVec 32 :=
  if t.capBase ≤ off then (t.capList[(off - t.capBase) / 4]?).getD 0 else 0
/-- TOPO (R22). -/
def Trunk.topo (t : Trunk) : BitVec 32 := (0 : BitVec 4) ++ t.dieslive ++ t.groveslive ++ (0x80 : BitVec 8)

/-! ## What each word reads -/

/-- startstat (R500). -/
def Trunk.startstat (t : Trunk) : BitVec 64 :=
  t.reason ++ t.fails ++ BitVec.ofBool t.seedling ++ BitVec.ofBool t.done ++ t.step ++ (0 : BitVec 32) ++ t.groveok
/-- dormstat (R468): RESERVE is measured (R505). -/
def State.dormstat (s : State) : BitVec 64 :=
  s.trunk.phase ++ (0 : BitVec 12) ++ Config.reserveNow s.tick ++ (0 : BitVec 32)
/-- The block of the scheduler and the event queue (R350, R385, R429): schedkill and pfdone are WO. -/
def Part.schedWord (q : Part) (k : Nat) : BitVec 64 :=
  match k with
  | 0 => q.schedctl
  | 1 => q.framectl
  | 4 => q.evqbase
  | 5 => q.evqhead.setWidth 64
  | 6 => q.evqlost ++ q.evqtail
  | 7 => q.trapvec
  | _ => 0
/-- The translation block (R393, R401, R403, R405): invctl is WO. -/
def Part.transWord (q : Part) (k : Nat) : BitVec 64 :=
  match k with
  | 0 => q.ptroot
  | 1 => q.invva
  | 3 => q.invstat
  | 4 => q.migva
  | 5 => q.migdst
  | 6 => q.migctl
  | 7 => q.hotctl
  | _ => 0
/-- The partition block (R407, R410, R457). -/
def State.partWord (s : State) (p : PartNum) (k : Nat) : BitVec 64 :=
  let q := s.part p
  match k with
  | 0 => q.partctl
  | 1 => s.partstat p
  | 2 => q.cfgsel
  | 3 => q.cfgdata
  | 4 => q.keystat
  | 5 => q.ckptctl
  | 6 => q.ckptlog
  | _ => s.ckptstat p
/-- The registers of ownership and refresh elision (R411, R454). -/
def Trunk.ownerWord (t : Trunk) (k : Nat) : BitVec 64 :=
  match k with
  | 0 => t.memsel.setWidth 64
  | 1 => t.memownWord
  | 2 => t.elidesel.setWidth 64
  | 3 => t.elidemap
  | _ => 0
/-- The registers of dormancy, pollard mode and the cambium engine (R468, R473, R484, R488). -/
def State.dormWord (s : State) (k : Nat) : BitVec 64 :=
  let t := s.trunk
  match k with
  | 0 => t.dormctl
  | 1 => s.dormstat
  | 2 => t.drainsel.setWidth 64
  | 3 => t.drainEntry.1
  | 4 => t.drainent1 &&& 0xFFFFFF
  | 5 => Config.mustCap.setWidth 64
  | 6 => t.mustsum.setWidth 64
  | 8 => t.pollctl
  | 9 => t.pollstat
  | 32 => t.cutctl
  | 33 => t.cutstatWord
  | 34 => t.cuttgt
  | _ => 0
/-- The start registers (R500, R501): startctl is WO. -/
def Trunk.startWord (t : Trunk) (k : Nat) : BitVec 64 :=
  match k with
  | 0 => t.startstat
  | 2 => t.repsel.setWidth 64
  | 3 => smGet 0 t.repsel.toNat t.repair
  | _ => 0
/-- A block index and word index of 0x40-byte blocks. -/
def blockWord (off : Nat) : PartNum × Nat := (BitVec.ofNat 3 (off % 0x200 / 0x40), off % 0x40 / 8)
/-- What the aligned 8-byte word at an offset reads. Where no register stands, it reads zero. -/
def State.cfgWord (s : State) (off : Nat) : BitVec 64 :=
  let t := s.trunk
  let p := (blockWord off).1
  let k := (blockWord off).2
  let n := off % 0x1000
  match off / 0x1000 with
  | 0 =>
    if off = 0 then t.modid ++ (0x0E024E58 : BitVec 32)
    else if off = 8 then t.capptr ++ t.topo
    else t.capWord (off + 4) ++ t.capWord off
  | 1 => if n < 0x240 && n % 16 = 0 then (t.fabport (n / 16)).setWidth 64 else 0
  | 2 => if n < 0x800 then smGet 0 (n / 8) t.poolrte else 0
  | 3 => if n = 0 then t.poolq else 0
  | 4 => if n < 0x200 then (s.part p).schedWord k else 0
  | 5 => if n < 0x100 then
      (let y := s.grove (BitVec.ofNat 4 (n / 16)); if n % 16 = 0 then y.readPwr else y.ramp) else 0
  | 6 => if n < 0x200 then (s.part p).transWord k else 0
  | 7 => if n < 0x200 then s.partWord p k else if 0x400 ≤ n then t.ownerWord ((n - 0x400) / 8) else 0
  | 8 => s.dormWord (n / 8)
  | 9 => t.startWord (n / 8)
  | 10 => if n < 0x400 then
      (let e := smGet 0 (n / 16) t.routes; if n % 16 = 0 then e.setWidth 64 else e.extractLsb' 64 64) else 0
  | _ => 0

/-! ## What a write does -/

/-- Write a word of the scheduler's block. -/
def State.putSched (s : State) (p : PartNum) (k : Nat) (v : BitVec 64) : State :=
  match k with
  | 0 => s.onPart p fun q => q.writeSchedctl v
  | 1 => s.writeFramectl p v
  | 2 => s.kill p (v.setWidth 32)
  | 3 => s.pfdone p v
  | 4 => s.writeEvqbase p v
  | 5 => s.writeEvqhead p v
  | 7 => s.onPart p fun q => q.writeTrapvec v
  | _ => s
/-- Write a word of the translation block. -/
def State.putTrans (s : State) (p : PartNum) (k : Nat) (v : BitVec 64) : State :=
  match k with
  | 0 => s.writePtroot p v
  | 1 => s.writeInvva p v
  | 2 => s.writeInvctl p v
  | 4 => s.writeMigva p v
  | 5 => s.writeMigdst p v
  | 6 => s.writeMigctl p v
  | 7 => s.writeHotctl p v
  | _ => s
/-- Write a word of the partition block; partctl is for the host's physical function and Glidin (R408). -/
def State.putPart (s : State) (w : Writer) (p : PartNum) (k : Nat) (v : BitVec 64) : State :=
  match k with
  | 0 => if writerFull w then s.writePartctl w p v else s
  | 2 => s.onPart p fun q => q.writeCfgsel v
  | 3 => s.writeCfgdata p v
  | 5 => s.writeCkptctl p v
  | 6 => s.writeCkptlog p v
  | _ => s
/-- Write a register of ownership or refresh elision. -/
def State.putOwner (s : State) (k : Nat) (v : BitVec 64) : State :=
  match k with
  | 0 => s.writeMemsel v
  | 1 => s.writeMemown v
  | 2 => s.writeElidesel v
  | 3 => s.writeElidemap v
  | _ => s
/-- Write a register of dormancy, pollard mode or the cambium engine. -/
def State.putDorm (s : State) (k : Nat) (v : BitVec 64) : State :=
  match k with
  | 0 => s.writeDormctl v
  | 2 => s.writeDrainsel v
  | 3 => s.writeDrainent0 v
  | 4 => s.writeDrainent1 v
  | 8 => s.writePollctl v
  | 32 => s.writeCutctl v
  | 34 => s.onTrunk fun t => { t with cuttgt := v }
  | _ => s
/-- Write a start register. -/
def State.putStart (s : State) (k : Nat) (v : BitVec 64) : State :=
  match k with
  | 1 => s.writeStartctl v
  | 2 => s.onTrunk fun t => { t with repsel := v.setWidth 12 }
  | _ => s
/-- A write of the aligned 8-byte word at an offset; `hi` and `lo` tell which halves hold written bytes. -/
def State.cfgPut (s : State) (w : Writer) (off : Nat) (v : BitVec 64) (lo hi : Bool) : State :=
  let p := (blockWord off).1
  let k := (blockWord off).2
  let n := off % 0x1000
  match off / 0x1000 with
  | 0 => if off = 0 && hi then s.writeModid (v.extractLsb' 32 32) else s
  | 1 => if n < 0x240 && n % 16 = 0 && lo then s.writeFabport (n / 16) (v.setWidth 32) else s
  | 2 => if n < 0x800 then s.writePoolrte (n / 8) v else s
  | 3 => if n = 0 then s.writePoolq v else s
  | 4 => if n < 0x200 then s.putSched p k v else s
  | 5 => if n < 0x100 then
      (if n % 16 = 0 then s.writeGrovepwr (BitVec.ofNat 4 (n / 16)) v else s.writeSlewramp (BitVec.ofNat 4 (n / 16)) v) else s
  | 6 => if n < 0x200 then s.putTrans p k v else s
  | 7 => if n < 0x200 then s.putPart w p k v else if 0x400 ≤ n then s.putOwner ((n - 0x400) / 8) v else s
  | 8 => s.putDorm (n / 8) v
  | 9 => s.putStart (n / 8) v
  | 10 => if n < 0x400 then s.writeRoute (n / 16) (n % 16 = 8) v else s
  | _ => s

/-! ## Rights (R409) -/

/-- Whether bytes lie in a range. -/
def within (lo n off len : Nat) : Bool := decide (lo ≤ off) && decide (off + len ≤ lo + n)
/-- Whether a supervisor of a partition reaches bytes: its blocks, except that partctl is read-only to it; IDENT, MODID, TOPO,
CAPPTR and the capability list, read only. -/
def State.superReaches (s : State) (p : PartNum) (off len : Nat) (write : Bool) : Bool :=
  let b := 0x40 * p.toNat
  within (0x4000 + b) 0x40 off len || within (0x6000 + b) 0x40 off len ||
  within (if write then 0x7008 + b else 0x7000 + b) (if write then 0x38 else 0x40) off len ||
  (!write && (within 0 0x10 off len || within s.trunk.capBase (4 * s.trunk.capList.length) off len))
/-- Whether a writer reaches bytes of configuration space. -/
def State.cfgReaches (s : State) (w : Writer) (off len : Nat) (write : Bool) : Bool :=
  match w with
  | .supervisor p => s.superReaches p off len write
  | _ => true

/-! ## Accesses -/

/-- A word with bytes replaced from a place on. -/
def patchBytes (w : BitVec 64) (at_ : Nat) (data : List Byte) : BitVec 64 :=
  let l := leBytes 8 w.toNat
  BitVec.ofNat 64 (leNat (l.take at_ ++ data ++ l.drop (at_ + data.length)))
/-- A write of bytes within one aligned word. Bytes that it leaves out keep what the word reads; a WO field that it leaves out
is written as zero. -/
def State.cfgWrite8 (s : State) (w : Writer) (off : Nat) (data : List Byte) : State :=
  let at_ := off % 8
  let base := off - at_
  s.cfgPut w base (patchBytes (s.cfgWord base) at_ data) (decide (at_ < 4)) (decide (4 < at_ + data.length))
/-- A write of bytes, word by word in ascending order. -/
def State.cfgWrites : Nat → Writer → Nat → List Byte → State → State
  | 0, _, _, _, s => s
  | fuel + 1, w, off, data, s =>
    let n := 8 - off % 8
    if data.isEmpty then s
    else State.cfgWrites fuel w (off + n) (data.drop n) (s.cfgWrite8 w off (data.take n))
/-- Write bytes of the configuration space. -/
def State.configWrite (s : State) (w : Writer) (off : Nat) (data : List Byte) : State :=
  if s.cfgReaches w off data.length true then State.cfgWrites (data.length + 1) w off data s else s

/-- Whether a read of bytes meets a field. -/
def meets (lo n off len : Nat) : Bool := decide (off < lo + n) && decide (lo < off + len)
/-- The RC fields that a read meets are cleared (R8): RETRIES of fabric ports, LOST of event queues. -/
def State.clearRead (s : State) (off len : Nat) : State :=
  let s := ((List.range 36).filter fun p => meets (0x1000 + 16 * p) 2 off len).foldl
    (fun s p => s.onFabport p fun r => r &&& 0xFFFF0000) s
  ((List.range 8).filter fun p => meets (0x4034 + 0x40 * p) 4 off len).foldl
    (fun s p => (s.readEvqtail (BitVec.ofNat 3 p)).2) s
/-- Read bytes of the configuration space: the values, then what the read clears; a free value is used up. -/
def State.configRead (s : State) (w : Writer) (off n : Nat) : List Byte × State :=
  if s.cfgReaches w off n false then
    let first := off / 8
    let words := (List.range ((off + n + 7) / 8 - first)).flatMap fun i => leBytes 8 (s.cfgWord ((first + i) * 8)).toNat
    ((words.drop (off % 8)).take n, ((s.clearRead off n).fresh).2)
  else (leBytes n 0, s)

/-! ## The steps -/

/-- REGISTER_WRITE (R8, R10): a write of 4 or 8 bytes to any register. -/
def execRegisterWrite (by_ : Writer) (off : BitVec 16) (wide : Bool) (v : BitVec 64) (s : State) : Out :=
  .next (s.written by_ true (s.configWrite by_ off.toNat (leBytes (if wide then 8 else 4) v.toNat)))
/-- The bytes that a read from an offset takes: 8 at a multiple of 8, else 4. -/
def readLen (off : BitVec 16) : Nat := if off.toNat % 8 = 0 then 8 else 4
/-- A read of a queue slot's port status (R343); other bytes of BAR 2 read zero. -/
def State.readPort (s : State) (off : BitVec 16) : List Byte × State :=
  let p := off.extractLsb' 12 3
  let q := off.extractLsb' 8 4
  let a := (off.extractLsb' 0 8).toNat
  if off.getLsbD 15 || a / 8 ≠ 8 then (leBytes (readLen off) 0, s)
  else (((leBytes 8 (s.portStatus p q).toNat).drop (a % 8)).take (readLen off), s.clearPort p q)
/-- READ_CLEAR (R8): a read returns the value, then its RC fields are cleared. The host's answer leaves over the host link. -/
def execReadClear (by_ : Writer) (bar2 : Bool) (off : BitVec 16) (s : State) : Out :=
  let r := if bar2 then s.readPort off else s.configRead by_ off.toNat (readLen off)
  let ok := if bar2 then decide (by_ = .host) else true
  .next (s.written by_ ok (if by_ = .host then r.2.send (.hostData r.1 false) else r.2))

end Sys2Proof.Machine
end

