-- ==== Sys2Proof/Machine/MemAccess.lean ====
section
/-!
DEFINITION. The shared text of slot B's loads, stores and atomics (R258-R268): addresses, checks in the order of R260, and the
places where each access is performed.
-/

namespace Sys2Proof.Machine

/-! ## Global accesses of a context -/

/-- The writer of configuration space that a context is (R409). -/
def Ctx.writer (c : Ctx) : Writer := .supervisor c.part
/-- Whether translated pieces reach configuration space. -/
def inConfig (xs : List (Xlat × Nat)) : Bool := xs.any fun x => x.1.remote.isNone && target x.1.pa = .config
/-- Whether translated pieces reach another module. -/
def isRemote (xs : List (Xlat × Nat)) : Bool := xs.any fun x => x.1.remote.isSome
/-- The one module that translated pieces lie in, if they lie in one other module (R220, R309). -/
def homeOf (xs : List (Xlat × Nat)) : Option (BitVec 18) :=
  match xs with
  | (x, _) :: t => if t.all fun y => y.1.remote = x.remote then x.remote else none
  | [] => none
/-- Whether a piece lies in configuration space. -/
def pieceConfig (x : Xlat × Nat) : Bool := inConfig [x]
/-- The offset of a piece in configuration space. -/
def cfgOffset (x : Xlat × Nat) : Nat := x.1.pa - configBase
/-- The address of the first piece in configuration space that the context's rights leave out (R409). -/
def State.cfgRefused (s : State) (write : Bool) : BitVec 64 → List (Xlat × Nat) → Option (BitVec 64)
  | _, [] => none
  | v, x :: t =>
    if pieceConfig x && !s.cfgReaches s.ctx.writer (cfgOffset x) x.2 write then some v
    else s.cfgRefused write (v + BitVec.ofNat 64 x.2) t
/-- Read pieces some of which lie in configuration space. -/
def State.readMixed (s : State) : List (Xlat × Nat) → List Byte × Bool × State
  | [] => ([], false, s)
  | x :: t =>
    let (l, bad, s) := if pieceConfig x then (let r := s.configRead s.ctx.writer (cfgOffset x) x.2; (r.1, false, r.2))
      else s.readPieces s.ctx.part [x]
    let (m, worse, s) := s.readMixed t
    (l ++ m, bad || worse, s)
/-- Write pieces some of which lie in configuration space. -/
def State.writeMixed (s : State) (poison g : Bool) : List (Xlat × Nat) → List Byte → State
  | [], _ => s
  | x :: t, data =>
    let l := data.take x.2
    let s := if pieceConfig x then s.configWrite s.ctx.writer (cfgOffset x) l
      else s.writePieces (some s.ctx.id) poison g [x] l
    s.writeMixed poison g t (data.drop x.2)
/-- Read translated pieces for a context, configuration space included. -/
def State.readAccess (s : State) (xs : List (Xlat × Nat)) : List Byte × Bool × State :=
  if inConfig xs then s.readMixed xs else s.readPieces s.ctx.part xs
/-- Write translated pieces for a context, configuration space included; an external write is noted (R460). -/
def State.writeAccess (s : State) (xs : List (Xlat × Nat)) (data : List Byte) (poison g : Bool) : State :=
  if inConfig xs then s.writeMixed poison g xs data
  else
    let s := s.writePieces (some s.ctx.id) poison g xs data
    if externalWrite xs then s.irrevocable else s
/-- Read the pieces of a load that lie in this module; those of another module stay open (R224). -/
def State.readHere (s : State) : List (Xlat × Nat) → List (Option Byte) × Bool × State
  | [] => ([], false, s)
  | x :: t =>
    let (l, bad, s) := if x.1.remote.isSome then (List.replicate x.2 none, false, s)
      else (let r := s.readAccess [x]; (r.1.map some, r.2.1, r.2.2))
    let (m, worse, s) := s.readHere t
    (l ++ m, bad || worse, s)

/-- The site of a core's scratchpad: its die. -/
def coreSite (c : CoreNum) : Option (BitVec 3) := some ((dieOf c).setWidth 3)
/-- The way of an access to a core's scratchpad. -/
def coreWay (c : CoreNum) (cls : BitVec 3) : Way := { Way.none with site := coreSite c, cls := cls }

/-! ## Loads -/

/-- LDS and LDSX (R262): L = 4. -/
def State.loadLocal (s : State) (d b : Reg) (cls : BitVec 3) (z : BitVec 2) (o : BitVec 10) (signed : Bool) : SlotOut :=
  let x := s.thr.readB b
  let n := 2 ^ z.toNat
  let a := ((x.val + s.thr.offB o z).extractLsb' 0 32).toNat
  s.needs [(b, x)]
    (if x.poison then s.putB 4 d .bad
    else s.checkLocal a n n
      (s.inOrder cls none (match s.localRead a n with
      | (.error e, s) => e.slot s
      | (.ok (l, bad), s) => s.putB 4 d (loadVal signed bad l))))

/-- LDR and LDRX (R262): scoreboarded. One to a shed die waits for it (R486). -/
def State.loadRemote (s : State) (d b : Reg) (cls : BitVec 3) (z : BitVec 2) (o : BitVec 10) (signed : Bool) : SlotOut :=
  let x := s.thr.readB b
  let n := 2 ^ z.toNat
  let v := x.val + s.thr.offB o z
  s.needs [(b, x)]
    (if x.poison then .done (s.await (pdestB d) (.scalar .bad) 0)
    else if v.toNat % n ≠ 0 then .trap s 0x07 (addrDetail v)
    else
      match s.remoteOf v with
      | none => .trap s 0x09 (addrDetail v)
      | some (c, a) =>
        s.inOrder cls none
          (if s.shedCore c then
            .done (s.await (pdestB d) (.later (.spad c a n) (.load signed)) (v.setWidth 56) false false (coreWay c cls))
          else
            let (l, bad, s) := s.readSpad c a n
            .done (s.await (pdestB d) (.scalar (loadVal signed bad l)) (v.setWidth 56) false false (coreWay c cls))))

/-- The request of a load whose pieces are translated (R262, R263): what lies in this module is read now, unless a shed die holds
it; another module's answer comes with LOAD_COMPLETE. -/
def State.requestLoad (s : State) (d : Reg) (v : BitVec 64) (n : Nat) (signed : Bool) (cls : BitVec 3) (xs : List (Xlat × Nat)) :
    State :=
  let addr := v.setWidth 56
  let way := s.wayOf xs (readsOf xs) cls
  if s.shedPieces xs then s.await (pdestB d) (.later (.memory xs) (.load signed)) addr false false way
  else
    let (here, bad, s) := s.readHere xs
    if isRemote xs then (s.sendAll (readsOf xs)).await (pdestB d) (.remote addr n signed here bad) addr false false way
    else s.await (pdestB d) (.scalar (loadVal signed bad (here.map (·.getD 0)))) addr false false way

/-- LDG and LDGX (R262). -/
def State.loadGlobal (s : State) (d b : Reg) (cls : BitVec 3) (z : BitVec 2) (o : BitVec 10) (signed : Bool) : SlotOut :=
  let x := s.thr.readB b
  let n := 2 ^ z.toNat
  let v := x.val + s.thr.offB o z
  s.needs [(b, x)]
    (if x.poison then .done (s.await (pdestB d) (.scalar .bad) 0)
    else
      match s.xlateRange s.ctx.agent .read v n with
      | (.error e, t) => e.slot t
      | (.ok xs, t) =>
        match t.cfgRefused false v xs with
        | some a => .trap t 0x09 (addrDetail a)
        | none => s.inOrder cls (homeOf xs) (.done (t.requestLoad d v n signed cls xs)))

/-- LDGS and LDGSX (R264): a failing check, a page to wait for, and a UC or WC page give a deferred result. -/
def State.loadSpec (s : State) (d b : Reg) (cls : BitVec 3) (z : BitVec 2) (o : BitVec 10) (signed : Bool) : SlotOut :=
  let x := s.thr.readB b
  let n := 2 ^ z.toNat
  let v := x.val + s.thr.offB o z
  let give (s : State) (r : TVal) : SlotOut := .done (s.await (pdestB d) (.scalar r) 0)
  if x.deferred then give s ⟨0, 1⟩
  else if x.poison then give s .bad
  else
    match s.xlateRange s.ctx.agent .read v n with
    | (.error .granule, t) => .stall t .granule
    | (.error _, t) => give t ⟨0, 1⟩
    | (.ok xs, t) =>
      if xs.any (fun x => !x.1.cached) then give t ⟨0, 1⟩
      else s.inOrder cls (homeOf xs) (.done (t.requestLoad d v n signed cls xs))

/-- LDK (R265): L = 3. -/
def State.loadConst (s : State) (d b : Reg) (z : BitVec 2) (o : BitVec 10) : SlotOut :=
  let x := s.thr.readB b
  let n := 2 ^ z.toNat
  let v := x.val + s.thr.offB o z
  s.needs [(b, x)]
    (if x.poison then s.putB 3 d .bad
    else if v.toNat % n ≠ 0 then .trap s 0x07 (addrDetail v)
    else if 0x10000 ≤ v.toNat then .trap s 0x09 (addrDetail v)
    else
      let k := s.core s.cur
      s.putB 3 d (loadVal false (k.constMark.contains (blockOf v.toNat)) (readBytes k.const v.toNat n)))

/-! ## Stores -/

/-- STS (R262). Its acknowledgement is immediate: the bank is the core's own (log 18). -/
def State.storeLocal (s : State) (d b : Reg) (cls : BitVec 3) (z : BitVec 2) (o : BitVec 10) : SlotOut :=
  let x := s.thr.readB b
  let y := s.thr.readB d
  let n := 2 ^ z.toNat
  let a := ((x.val + s.thr.offB o z).extractLsb' 0 32).toNat
  s.needs [(b, x), (d, y)]
    (if x.poison then .trap s 0x05 (specDetail b)
    else s.checkLocal a n n
      (s.inOrder cls none (match s.localWrite a (leBytes n y.val.toNat) y.poison with
      | (.error e, s) => e.slot s
      | (.ok _, s) => .done s)))

/-- A .g write of one piece to a core's scratchpad waits for its acknowledgement (R229). -/
def State.ackSpad (s : State) (g : Bool) (addr : BitVec 56) (c : CoreNum) (cls : BitVec 3) : State :=
  if g then s.onCtx fun x => x.addAcks [⟨x.nextId, addr, coreWay c cls⟩] else s
/-- STR (R262). -/
def State.storeRemote (s : State) (d b : Reg) (g : BitVec 1) (cls : BitVec 3) (z : BitVec 2) (o : BitVec 10) : SlotOut :=
  let x := s.thr.readB b
  let y := s.thr.readB d
  let n := 2 ^ z.toNat
  let v := x.val + s.thr.offB o z
  s.needs [(b, x), (d, y)]
    (if x.poison then .trap s 0x05 (specDetail b)
    else if v.toNat % n ≠ 0 then .trap s 0x07 (addrDetail v)
    else
      match s.remoteOf v with
      | none => .trap s 0x09 (addrDetail v)
      | some (c, a) =>
        s.inOrder cls none
          (let s := s.writeSpad c a (leBytes n y.val.toNat) y.poison
          let s := if c = s.cur then s else s.irrevocable
          .done (s.ackSpad (g = 1) (v.setWidth 56) c cls)))

/-- STG (R262). An .e write to a module without a path waits at its slot for one (R309, log 111). -/
def State.storeGlobal (s : State) (d b : Reg) (g : BitVec 1) (cls : BitVec 3) (z : BitVec 2) (o : BitVec 10) : SlotOut :=
  let x := s.thr.readB b
  let y := s.thr.readB d
  let n := 2 ^ z.toNat
  let v := x.val + s.thr.offB o z
  let data := leBytes n y.val.toNat
  s.needs [(b, x), (d, y)]
    (if x.poison then .trap s 0x05 (specDetail b)
    else
      match s.xlateRange s.ctx.agent .write v n with
      | (.error e, t) => e.slot t
      | (.ok xs, t) =>
        match t.cfgRefused true v xs with
        | some a => .trap t 0x09 (addrDetail a)
        | none =>
          s.inOrder cls (homeOf xs)
            (if g = 0 && t.stuck (writesOf y.poison false xs data) then .stall s .order
            else .done ((t.writeAccess xs data y.poison (g = 1)).addAcks (g = 1) cls y.poison v xs data)))

/-! ## Atomics -/

/-- The bytes of an atomic: 4 or 8 (R73). -/
def atomBytes (z : BitVec 1) : Nat := if z = 0 then 4 else 8
/-- The operands of an atomic: data, base and, for CAS, index; its G and alias class. -/
structure AtomArgs where
  op : AtomOp
  d : Reg
  b : Reg
  i : Option Reg
  g : Bool
  cls : BitVec 3
  n : Nat

/-- The sources of an atomic with their specifiers. -/
def State.atomSources (s : State) (r : AtomArgs) : List (Reg × TVal) :=
  [s.srcB r.b, s.srcB r.d] ++ (match r.i with | some i => [s.srcB i] | none => [])
/-- Whether the data or the compare value is poison (R268). -/
def State.atomPoison (s : State) (r : AtomArgs) : Bool :=
  (s.thr.readB r.d).poison || (match r.i with | some i => (s.thr.readB i).poison | none => false)
/-- The compare value. -/
def State.atomCmp (s : State) (r : AtomArgs) : BitVec 64 := match r.i with | some i => (s.thr.readB i).val | none => 0
/-- Put the request of an atomic on the scoreboard; a write of it with .g waits for its acknowledgement under the request's number
(R229, R268). -/
def State.awaitAcked (s : State) (dest : PDest) (val : PVal) (addr : BitVec 56) (way : Way) (ack : Bool) : SlotOut :=
  let s := if ack then s.onCtx fun c => { c with acks := c.acks ++ [⟨c.nextId, addr, way⟩] } else s
  .done (s.await dest val addr true false way)
/-- The same for a scalar atomic, which writes or not. -/
def State.atomAwait (s : State) (r : AtomArgs) (val : PVal) (addr : BitVec 56) (way : Way) (writes : Bool) : SlotOut :=
  s.awaitAcked (pdestB r.d) val addr way (writes && r.g)
/-- An atomic that makes no access answers poison (R268). -/
def State.atomBad (s : State) (r : AtomArgs) : SlotOut := s.atomAwait r (.scalar .bad) 0 .none false
/-- What an atomic does to a word, as an access that is performed later. -/
def State.atomWhat (s : State) (r : AtomArgs) : Access := .atomic r.op (s.thr.readB r.d).val (s.atomCmp r)
/-- An atomic's new value from the old one, in the state in which its operands are read. -/
def State.atomNew (s : State) (r : AtomArgs) (old : BitVec 64) : Option (BitVec 64) :=
  atomApply r.op r.n old (s.thr.readB r.d).val (s.atomCmp r)
/-- Whether an atomic that has read these bytes writes. -/
def State.atomWrites (s : State) (r : AtomArgs) (l : List Byte) (bad : Bool) : Bool :=
  !bad && (s.atomNew r (BitVec.ofNat 64 (leNat l))).isSome

/-- ATS (R266, R267): in the bank's atomic unit. Only one that writes needs a writable block, and makes it dirty (R400, R210). -/
def State.atomLocal (s : State) (r : AtomArgs) : SlotOut :=
  let x := s.thr.readB r.b
  let a := (x.val.extractLsb' 0 32).toNat
  s.needs (s.atomSources r)
    (if x.poison then .trap s 0x05 (specDetail r.b)
    else s.checkLocal a r.n r.n
      (if s.atomPoison r then s.atomBad r
      else s.inOrder r.cls none
        (match s.localRead a r.n with
        | (.error e, t) => e.slot t
        | (.ok (l, bad), t) =>
          let v := PVal.scalar (loadVal true bad l)
          match (if bad then none else s.atomNew r (BitVec.ofNat 64 (leNat l))) with
          | none => t.atomAwait r v 0 .none false
          | some w =>
            match t.readyWrite a r.n with
            | (.error e, t) => e.slot t
            | (.ok _, t) => (t.ownWrite a (leBytes r.n w.toNat)).atomAwait r v 0 .none false)))

/-- ATR (R266, R267): in the target bank's unit. -/
def State.atomRemote (s : State) (r : AtomArgs) : SlotOut :=
  let x := s.thr.readB r.b
  let addr := x.val.setWidth 56
  s.needs (s.atomSources r)
    (if x.poison then .trap s 0x05 (specDetail r.b)
    else if x.val.toNat % r.n ≠ 0 then .trap s 0x07 (addrDetail x.val)
    else
      match s.remoteOf x.val with
      | none => .trap s 0x09 (addrDetail x.val)
      | some (c, a) =>
        if s.atomPoison r then s.atomBad r
        else s.inOrder r.cls none
          (if s.shedCore c then s.atomAwait r (.later (.spad c a r.n) (s.atomWhat r)) addr (coreWay c r.cls) true
          else
            let (l, bad, t) := s.atomSpad c a r.n (s.atomNew r)
            t.atomAwait r (.scalar (loadVal true bad l)) addr (coreWay c r.cls) (s.atomWrites r l bad)))

/-- An atomic on translated pieces (R267): at the home slice, in the memory-side cache, or a request to another module. -/
def State.atomPieces (s : State) (r : AtomArgs) (v : BitVec 64) (xs : List (Xlat × Nat)) : SlotOut :=
  let addr := v.setWidth 56
  match xs with
  | [(x, n)] =>
    match x.remote with
    | some m =>
      let req := [⟨m, BitVec.ofNat 52 x.pa, .atomic r.op (r.n = 8) (s.thr.readB r.d).val (s.atomCmp r)⟩]
      (s.sendAll req).irrevocable.atomAwait r (.remote addr n true (List.replicate n none) false) addr (s.wayOf xs req r.cls) true
    | none =>
      let way := s.wayOf xs [] r.cls
      if s.shedPieces xs then s.atomAwait r (.later (.memory xs) (s.atomWhat r)) addr way true
      else
        let (l, bad, t) := s.atomAt (some s.ctx.id) s.ctx.part x n (s.atomNew r)
        let w := s.atomWrites r l bad
        (if w && externalWrite xs then t.irrevocable else t).atomAwait r (.scalar (loadVal true bad l)) addr way w
  | _ => .trap s 0x09 (addrDetail v)

/-- ATG (R266). Configuration space is an address fault of its translation (R260 step 5, R267). -/
def State.atomGlobal (s : State) (r : AtomArgs) : SlotOut :=
  let x := s.thr.readB r.b
  s.needs (s.atomSources r)
    (if x.poison then .trap s 0x05 (specDetail r.b)
    else if x.val.toNat % r.n ≠ 0 then .trap s 0x07 (addrDetail x.val)
    else
      match s.xlateRange s.ctx.agent .atomic x.val r.n with
      | (.error e, t) => e.slot t
      | (.ok xs, t) => if s.atomPoison r then t.atomBad r else s.inOrder r.cls (homeOf xs) (t.atomPieces r x.val xs))

/-! ## Long forms (R148, R168) -/

/-- The next lane of a VGATH or VSCAT is performed: its word is read into its lane, or written from it (R168). -/
def State.longLane (s : State) (data : Option VReg) (lane a : Nat) (got : VReg) : VReg × State :=
  match data with
  | some v => (got, s.ownWrite a (leBytes 4 (v.lane lane).toNat) (v.side.getLsbD lane))
  | none =>
    let (l, bad, s) := s.readSpad s.cur a 4
    (⟨Vector.ofFn fun i => if i.val = lane then (if bad then 0 else BitVec.ofNat 32 (leNat l)) else got.lanes[i],
      if bad then got.side ||| (1#64 <<< lane) else got.side, got.spec⟩, s)
/-- One step of a long form (R46, R148): the lowest lane that it has still to do. The last one fixes its result. -/
def State.longStep (s : State) (hand : Bool) (p : Pend) : State :=
  match p.val with
  | .long data ((lane, a) :: todo) got mask prog =>
    let (got, s) := s.longLane data lane a got
    if todo.isEmpty then
      s.onCtx fun c => c.completeWith hand p (.vec (match p.dest with | .c r => (c.vec.c[r]).merge got mask | _ => got) mask)
    else s.onCtx fun c => c.onRequest p.id fun q => { q with val := .long data todo got mask (prog + 1) }
  | _ => s

end Sys2Proof.Machine
end

