-- ==== Sys2Proof/Machine/Requests.lean ====
section
/-!
DEFINITION. The answers to requests: arrivals, acknowledgements, timeouts, NACKs, dormant-retry and refusals (R42, R229, R230,
R263, R268, R290, R309, R486, R511), and the requests that other modules make here (R471, R511).
-/

namespace Sys2Proof.Machine

/-! ## Answers -/

/-- An answer to a request of the context whose turn it is: an access that a shed die had not performed is performed, a long form
performs its next lane (R148, R261). A ring read whose row has not arrived goes on waiting. -/
def State.answer (s : State) (hand : Bool) (p : Pend) (data : BitVec 64) (poison : Bool) : State :=
  match p.val with
  | .remote _ _ signed here bad =>
    s.onCtx fun c => c.completeWith hand p (.scalar (remoteVal signed here data (bad || poison)))
  | .vremote _ add m =>
    s.onCtx fun c => c.completeWith hand p (.vec (c.atomLanes p.dest add m (if poison then none else some (data.setWidth 32))) m)
  | .later place what =>
    let (v, s) := s.performAt p place what
    s.onCtx fun c => c.completeWith hand p v
  | .long .. => s.longStep hand p
  | v => if v.fixed then s.onCtx fun c => c.completeWith hand p v else s
/-- LOAD_COMPLETE (R42). A request whose die is shed, or that waits to be sent again, goes on waiting (R309, R486). -/
def execLoadComplete (core : CoreNum) (id : Nat) (data : BitVec 64) (poison : Bool) (s : State) : Out :=
  .next (s.asCore core fun s =>
    match s.ctx.request? id with
    | some (hand, p) =>
      if !(s.core s.cur).busy || p.way.waiting || s.siteShed p.way.site then s else s.answer hand p data poison
    | none => s)

/-- WRITE_ACKNOWLEDGED (R229). -/
def execWriteAcknowledged (core : CoreNum) (i : Nat) (s : State) : Out :=
  .next (s.asCore core fun s =>
    match s.ctx.acks[i]? with
    | some a => if a.way.waiting || s.siteShed a.way.site then s else s.onCtx fun c => { c with acks := c.acks.eraseIdx i }
    | none => s)

/-- The record of a request that ends without a result (R388). -/
def State.endRecord (s : State) (code : Nat) (addr : BitVec 56) : State :=
  let x := s.ctx
  s.power x.part { type := 0x27, code, grove := (groveOf s.cur).toNat, core := s.cur.toNat, value := addr.toNat,
                   lid := x.lid.toNat } x.boot
/-- A load or atomic ends without a result, with record 0x27 and its code (R263, R268, R511). -/
def State.endRequest (s : State) (hand : Bool) (p : Pend) (code : Nat) : State :=
  let s := s.onCtx fun c => c.completeWith hand p (c.noResult p)
  let s := s.endRecord code p.addr
  if p.atomic then s.onCtx fun c => c.loseWrite p.id p.addr else s
/-- The write of the `i`-th outstanding acknowledgement is indeterminate from now on (R230). -/
def State.loseAck (s : State) (i : Nat) : State :=
  match s.ctx.acks[i]? with
  | some a => s.onCtx fun c => c.loseWrite a.id a.addr
  | none => s

/-! ## The answers of a waiting ACQ -/

/-- The poison-address trap of an ACQ whose read or CAS returned poison (R270). -/
def State.lockBad (s : State) (va : BitVec 64) : SlotOut := .trap s 0x05 (0x8000000000000000 ||| addrDetail va)
/-- The ACQ has had its answer late: record 0x27, and a CAS whose write is indeterminate (R230, R263, R268). -/
def State.lockLate (s : State) (va : BitVec 56) (cas : Bool) : State :=
  let s := s.endRecord (if cas then 1 else 0) va
  if cas then s.onCtx fun c => { c.loseWrite c.nextId va with nextId := c.nextId + 1 } else s
/-- Act on the ACQ that waits on the current core, with its lock word. -/
def State.onLock (s : State) (f : BitVec 56 → State → State) : State :=
  match s.ctx.wait with
  | .lock va => if (s.core s.cur).busy && s.thr.issue.isSome then f va s else s
  | _ => s
/-- The read or the CAS of a waiting ACQ has no answer within TMO (R268, R270). Waiting on a shed die is no timeout (R486). -/
def State.lockTimeout (s : State) (cas : Bool) : State :=
  s.onLock fun va s =>
    match s.xlateRange s.ctx.agent .atomic (va.setWidth 64) 8 with
    | (.ok xs, _) => if s.shedPieces xs then s else ((s.lockLate va cas).lockBad (va.setWidth 64)).fin
    | _ => s

/-- A queue's unit goes on, and with the last one a save that waited for it ends (R297). -/
def State.onUnit (s : State) (q : BitVec 4) (f : Fin 16 → State → State) : State := (f (fin4 q) s).saveDone s.cur
/-- REQUEST_TIMEOUT (R230, R263, R268, R290). Waiting on a shed die is no timeout (R486). -/
def execRequestTimeout (core : CoreNum) (req : ReqRef) (s : State) : Out :=
  .next (s.asCore core fun s =>
    if !(s.core s.cur).busy then s
    else
      match req with
      | .load id =>
        (match s.ctx.request? id with
        | some (hand, p) =>
          if p.way.site.isNone || s.siteShed p.way.site then s else s.endRequest hand p (if p.atomic then 1 else 0)
        | none => s)
      | .write i =>
        (match s.ctx.acks[i]? with
        | some a => if s.siteShed a.way.site then s else s.loseAck i
        | none => s)
      | .unit q => s.onUnit q fun i s => s.unitTimeout i
      | .lock cas => s.lockTimeout cas
      | .posted _ | .report _ => s)

/-- A request that was sent is sent again, if it waits for that and now has a path (R309). -/
def State.sendAgain (s : State) (w : Way) : Way × State :=
  if s.stuck w.sent then (w, s) else ({ w with waiting := false }, s.sendAll w.sent)
/-- A NACK answers a request to another module, or its delay is over and the request is sent again (R309, log 112): the way, and
whether it is a flit that is resent. -/
def State.nackWay (s : State) (w : Way) : Way × State :=
  if w.site ≠ some 6 then (w, s) else if w.waiting then s.sendAgain w else ({ w with waiting := true }, s)
/-- Change an outstanding request or acknowledgement that a reference names by its way. -/
def State.onWay (s : State) (req : ReqRef) (f : Way → State → Way × State) : State :=
  match req with
  | .load id =>
    (match s.ctx.request? id with
    | some (_, p) =>
      let (w, s) := f p.way s
      s.onCtx fun c => c.onRequest id fun q => { q with way := w }
    | none => s)
  | .write i =>
    (match s.ctx.acks[i]? with
    | some a =>
      let (w, s) := f a.way s
      s.onCtx fun c => { c with acks := c.acks.set i { a with way := w } }
    | none => s)
  | _ => s
/-- The same for a queue's unit: a NACK holds it, and it is sent again when it is no longer held (R290, R309). -/
def State.nackUnit (s : State) (i : Fin 16) : State :=
  match s.sentHead i with
  | none => s
  | some e =>
    let (r, w, _, t) := s.headAccess e
    if (s.ctx.queues[i]).nacked then s.unhold i
    else if r.any (·.remote) || w.any (·.remote) then t.onQueue i fun q => { q with held := true, nacked := true }
    else s
/-- A report message that was NACKed with FULL or NOTREADY is sent again; with NOROUTE it is dropped (R345). -/
def State.resendReport (s : State) (i : Nat) (code : BitVec 4) : State :=
  match s.out[i]? with
  | some (.report _ m bytes) => if code = 1 || code = 2 then s.sendReport m bytes else s
  | _ => s
/-- Note that a request's last answer was a dormant-retry (R261). -/
def State.noteDormant (s : State) (req : ReqRef) : State :=
  match req with
  | .load id => s.onCtx fun c => c.onRequest id fun q => if q.way.site.isSome then { q with dormant := true } else q
  | _ => s
/-- NACK_RESEND (R309): RETRIES of the port counts the flit; the port is a free value (R308, log 2). -/
def execNackResend (core : CoreNum) (req : ReqRef) (code : BitVec 4) (s : State) : Out :=
  let (k, s) := s.fresh
  .next ((s.countRetry (Config.retryPort k)).asCore core fun s =>
    match req with
    | .unit q => s.nackUnit (fin4 q)
    | .report i => s.resendReport i code
    | _ => (if code = 3 then s.noteDormant req else s).onWay req fun w s => s.nackWay w)
/-- DORMANT_RETRY (R263, R486): the request is sent again; what a shed die has not performed goes on waiting there. -/
def execDormantRetry (core : CoreNum) (req : ReqRef) (s : State) : Out :=
  .next (s.asCore core fun s =>
    match req with
    | .unit q => (match s.sentHead (fin4 q) with
      | some _ => s.onQueue (fin4 q) fun x => { x with held := true }
      | none => s)
    | _ => (s.noteDormant req).onWay req fun w s => if w.site = some 6 then s.sendAgain w else (w, s))

/-- REFUSED_RESPONSE (R511): another module's answer to a request that went there. -/
def execRefusedResponse (core : CoreNum) (req : ReqRef) (s : State) : Out :=
  .next (s.asCore core fun s =>
    if !(s.core s.cur).busy then s
    else
      match req with
      | .load id =>
        (match s.ctx.request? id with
        | some (hand, p) => if p.way.site = some 6 && !p.way.waiting then s.endRequest hand p 3 else s
        | none => s)
      | .write i =>
        (match s.ctx.acks[i]? with
        | some a => if a.way.site = some 6 && !a.way.waiting then s.loseAck i else s
        | none => s)
      | .unit q => s.onUnit q fun i s => s.unitRefused i
      | .posted a => s.endRecord 3 a
      | .lock _ | .report _ => s)

/-- PAGE_WAIT_RETRY (R208, R290). -/
def execPageWaitRetry (core : CoreNum) (held : HeldRef) (s : State) : Out :=
  .next (if s.runsTask core then
    s.asCore core fun s =>
      match held with
      | .window h => s.retryWindow h
      | .queue q =>
        s.onUnit q fun i s =>
          if (s.ctx.queues[i]).held && !(s.ctx.queues[i]).nacked then (s.unhold i).queueUnit i [] else s
  else s)

/-! ## Requests of other modules -/

/-- The bytes that a request of another module touches. -/
def fabricBytes (r : FabricReq) : Nat :=
  match r.kind with
  | .read n => n.toNat
  | .write l _ _ => l.length
  | .atomic _ wide _ _ => if wide then 8 else 4
/-- Whether R511 serves a request: its bytes lie in HBM granules that memown serves, or in the pool of the receiver's routes,
in no severed region. -/
def State.serves (s : State) (r : FabricReq) : Bool :=
  let pa := r.pa.toNat
  let top := pa + (fabricBytes r - 1)
  target pa = target top &&
  match target pa with
  | .hbm => [pa, top].all fun a => s.trunk.fabric (a / 0x40000000) && s.trunk.owner (a / 0x40000000) ≠ 0xF
  | .pool => [pa, top].all fun a => (s.trunk.route (regionOf a)).any fun e => !rteSevered e.2
  | _ => false
/-- Perform a served request at its home, as a local access (R511, R310), and answer it. -/
def State.serve (s : State) (r : FabricReq) : State :=
  let pa := r.pa.toNat
  match r.kind with
  | .read n =>
    let (l, bad, s) := s.readPhys (s.ownerPart pa) pa n.toNat
    s.send (.fabricData l bad)
  | .write l poison g =>
    let s := s.writePhys none pa l poison
    if g then s.send .ack else s
  | .atomic op wide x cmp =>
    let n := if wide then 8 else 4
    let (l, bad, s) := s.readPhys (s.ownerPart pa) pa n
    let s := match (if bad then none else atomApply op n (BitVec.ofNat 64 (leNat l)) x cmp) with
      | some v => s.writePhys none pa (leBytes n v.toNat)
      | none => s
    s.send (.fabricData l bad)
/-- FABRIC_REQUEST (R511): a module without MODNUM answers NOTREADY (R23, R309), a dormant one DORMANT with HINT (R471), a full
buffer FULL (R309), a shed die's home DORMANT with pollctl's HINT (R486). -/
def execFabricRequest (r : FabricReq) (s : State) : Out :=
  .next (match s.unready with
  | some t => t
  | none =>
    if r.full then s.send (.nack 1 0)
    else if !s.serves r then s.send .refused
    else if target r.pa.toNat = .hbm && s.siteShed (some (BitVec.ofNat 3 (siteOf r.pa.toNat))) then
      s.send (.nack 3 (s.trunk.pollctl.extractLsb' 4 32))
    else s.serve r)

end Sys2Proof.Machine
end

