-- ==== Sys2Proof/Machine/Fences.lean ====
section
/-!
DEFINITION. Fences, locks, instruction fence (R269-R272), cache lines (R287), multicast fill (R285, R286).
-/

namespace Sys2Proof.Machine

/-! ## Ordering points at pool scope -/

/-- Whether a dirty line holds a write of a context (R241). -/
def Line.mine (l : Line) (t : TaskId) : Bool := l.who.contains (t.part, t.lid, t.sidx)
/-- The region of a line whose route is severed, or gone. -/
def Trunk.lineSevered (t : Trunk) (blk : Nat) : Bool :=
  match t.route (regionOf (blk * 64)) with
  | some e => rteSevered e.2
  | none => true
/-- Write back every dirty line that the running context wrote, or name the region of one that cannot be (R241). -/
def State.poolFlush (s : State) : Except Nat State :=
  let t := s.ctx.id
  match (s.mem.quarantine.filter fun e => e.2.mine t).head?, (s.mem.dirty.filter fun e => e.2.mine t && s.trunk.lineSevered e.1).head? with
  | some e, _ => .error (regionOf (e.1 * 64))
  | none, some e => .error (regionOf (e.1 * 64))
  | none, none =>
    .ok (s.onMem fun m => (m.dirty.filter fun e => e.2.mine t).foldl (fun m e => m.writeBack e.1) m)
/-- Wait as an ordering point at a scope, then go on (R229): at pool scope a dirty line of a severed region faults before a lost
acknowledgement does (R427), and the write-backs come when all else is performed (R241). -/
def State.ordered (s : State) (sc : BitVec 3) (k : State → SlotOut) : SlotOut :=
  if sc = 5 then
    match s.poolFlush with
    | .error r => .trap s 0x0B (BitVec.ofNat 64 r)
    | .ok t => (s.orderWait).getD (k t)
  else (s.orderWait).getD (k s)
/-- Note a release at grove scope or wider (R462). -/
def State.noteRelease (s : State) (wide : Bool) : State := if wide then s.onCtx fun c => { c with released := true } else s

/-- FENCE (R269). -/
def execFence (x : BitVec 3) (s : State) : Out :=
  (s.ordered x fun s => .done (s.noteRelease (decide (1 ≤ x.toNat)))).out

/-- Whether a write of the context may not be performed yet on its core's die: an atomic without its value, a VSCAT with steps
left (R272). -/
def Ctx.writesOpen (c : Ctx) : Bool :=
  (c.task.board ++ c.hand.board).any fun p => match p.val with
    | .long data .. => data.isSome
    | v => p.atomic && !v.fixed
/-- IFENCE (R272): it stalls until every earlier write is performed, then discards what the core has fetched. -/
def execIfence (s : State) : Out :=
  (if s.ctx.writesOpen then SlotOut.stall s .order else .done { s with fetched := smDel s.cur.toNat s.fetched }).out

/-! ## Locks -/

/-- A read or CAS of an ACQ that another module answered with poison: whether no answer came is a free value (log 45). -/
def State.lockPoison (s : State) (va : BitVec 64) (cas : Bool) : SlotOut :=
  let (k, s) := s.fresh
  (if Config.writeLost k then s.lockLate (va.setWidth 56) cas else s).lockBad va
/-- One try at a lock word of another module: the read, and where it is free the CAS; both answers are free values (log 45). -/
def State.lockAway (s : State) (va : BitVec 64) (xs : List (Xlat × Nat)) (m : BitVec 18) (pa : Nat) : SlotOut :=
  let wait (s : State) : SlotOut := .stall s (.lock (va.setWidth 56))
  let refused (s : State) : SlotOut := (s.endRecord 3 (va.setWidth 56)).lockBad va
  let cas : List Sent := [⟨m, BitVec.ofNat 52 pa, .atomic .cas true 1 0⟩]
  if s.stuck cas then wait s
  else
    let (no, s) := s.refuses xs
    if no then refused s else
    let (l, bad, s) := s.readPieces s.ctx.part xs
    if bad then s.lockPoison va false
    else if leNat l ≠ 0 then wait s
    else
      let (no, s) := (s.sendAll cas).irrevocable.refuses xs
      if no then refused (s.onCtx fun c => { c.loseWrite c.nextId (va.setWidth 56) with nextId := c.nextId + 1 }) else
      let (l, bad, s) := s.remoteBytes 8
      if bad then s.lockPoison va true
      else if leNat l ≠ 0 then wait s
      else .done (s.onCtx fun c => c.addAcks [⟨c.nextId, va.setWidth 56, s.wayOf xs cas⟩])
/-- One try at a translated lock word (R270): the read, and where it is free the obtaining atomic with G = 1. A shed die is waited
for (R486). -/
def State.lockTry (s : State) (va : BitVec 64) (xs : List (Xlat × Nat)) : SlotOut :=
  match xs with
  | (x, _) :: _ =>
    (match x.remote with
    | some m => s.lockAway va xs m x.pa
    | none =>
      if s.shedPieces xs then .stall s (.lock (va.setWidth 56))
      else
        let (l, bad, t) := s.atomAt (some s.ctx.id) s.ctx.part x 8 fun old => if old = 0 then some 1 else none
        if bad then t.lockBad va
        else if leNat l ≠ 0 then .stall t (.lock (va.setWidth 56))
        else
          let t := if externalWrite xs then t.irrevocable else t
          .done (t.onCtx fun c => c.addAcks [⟨c.nextId, va.setWidth 56, t.wayOf xs []⟩]))
  | [] => .trap s 0x09 (addrDetail va)
/-- A try at obtaining a lock word. -/
def State.acquire (s : State) (va : BitVec 64) : SlotOut :=
  match s.xlateRange s.ctx.agent .atomic va 8 with
  | (.error e, t) => e.slot t
  | (.ok xs, t) => s.inOrder 0 (homeOf xs) (t.lockTry va xs)
/-- A lock word's operand: clean, and aligned to 8 (R260). -/
def State.lockWord (s : State) (b : Reg) (k : BitVec 64 → SlotOut) : SlotOut :=
  let x := s.thr.readB b
  s.needsClean 0x05 [(b, x)] (if x.val.toNat % 8 ≠ 0 then .trap s 0x07 (addrDetail x.val) else k x.val)

/-- ACQ (R270): it waits until it has obtained the lock. -/
def execAcq (b : Reg) (_x : BitVec 3) (s : State) : Out := (s.lockWord b s.acquire).out
/-- REL's write of 0 to its lock word (R271). -/
def State.releaseLock (s : State) (g : BitVec 1) (x : BitVec 3) (va : BitVec 64) (xs : List (Xlat × Nat)) : SlotOut :=
  let zero := leBytes 8 0
  if g = 0 && s.stuck (writesOf false false xs zero) then .stall s .order
  else .done (((s.writeAccess xs zero false (g = 1)).addAcks (g = 1) 0 false va xs zero).noteRelease (decide (1 ≤ x.toNat)))
/-- REL (R271): an ordering point, then a write of 0 to the lock word. -/
def execRel (b : Reg) (g : BitVec 1) (x : BitVec 3) (s : State) : Out :=
  (s.lockWord b fun va =>
    match s.xlateRange s.ctx.agent .atomic va 8 with
    | (.error e, t) => e.slot t
    | (.ok xs, t) => t.ordered x fun t => t.releaseLock g x va xs).out
/-- ACQ_POLL (R270): the waiting ACQ of a core reads its lock word again. -/
def execAcqPoll (core : CoreNum) (s : State) : Out :=
  .next (s.asCore core fun s => s.onLock fun va s => (s.acquire (va.setWidth 64)).fin)

/-! ## Cache lines -/

/-- The line forms (R287): the line that holds the address is written back where it is dirty and its page is WB; clean
copies change no value. The write-back is a .g write of class AC. -/
def State.lineForm (s : State) (b : Reg) (cls : BitVec 3) (writes : Bool) : SlotOut :=
  let x := s.thr.readB b
  s.needsClean 0x05 [(b, x)]
    (match s.xlateRange s.ctx.agent .read x.val 1 with
    | (.error e, t) => e.slot t
    | (.ok xs, t) =>
      match xs with
      | (y, _) :: _ =>
        if writes && y.remote.isNone && y.cached && target y.pa = .pool && (t.mem.line? (blockOf y.pa)).isSome then
          s.inOrder cls none (.done ((t.onMem fun m => m.writeBack (blockOf y.pa)).onCtx fun c =>
            c.addAcks [⟨c.nextId, x.val.setWidth 56, t.wayOf xs [] cls⟩]))
        else .done t
      | [] => .done t)
/-- WBL. -/
def execWbl (b : Reg) (c : BitVec 3) (s : State) : Out := (s.lineForm b c true).out
/-- INVL: a dirty copy is kept. -/
def execInvl (b : Reg) (c : BitVec 3) (s : State) : Out := (s.lineForm b c false).out
/-- WBINVL. -/
def execWbinvl (b : Reg) (c : BitVec 3) (s : State) : Out := (s.lineForm b c true).out

/-! ## Multicast fill -/

/-- Whether a grove receives a context's deliveries (R212, R506): one that runs, in its partition. -/
def State.multicastTo (s : State) (g : GroveNum) : Bool := s.groveRuns g && s.reaches s.ctx (g ++ (0 : BitVec 4))
/-- Deliver two 64-byte blocks to every core of a grove. -/
def State.deliverTo (s : State) (g : GroveNum) (off : Nat) (b0 b1 : List Byte × Bool) : State :=
  (coresOf g).foldl (fun s c => (s.writeSpad c off b0.1 b0.2).writeSpad c (off + 64) b1.1 b1.2) s
/-- The groves of a mask. -/
def groveList (m : BitVec 16) : List GroveNum :=
  ((List.range 16).filter fun i => m.getLsbD i).map fun i => BitVec.ofNat 4 i
/-- mcstat after a fill (R286). -/
def Csrs.noteMc (r : Csrs) (left : BitVec 16) : Csrs := { r with mcLast := left, mcAny := r.mcAny || left ≠ 0 }

/-- The groves of a mask that receive, and those that are left out (R212, R286). -/
def State.mcGroves (s : State) (mask : BitVec 16) : List GroveNum × BitVec 16 :=
  (groveList mask).foldl
    (fun (p : List GroveNum × BitVec 16) g => if s.multicastTo g then (p.1 ++ [g], p.2) else (p.1, p.2 ||| (1 <<< g.toNat)))
    ([], 0)
/-- MCFILL's read of one line and its deliveries (R285): what another module refuses is poison, with record 0x27 (R511). -/
def State.mcDeliver (s : State) (va : BitVec 64) (off : Nat) (get : List GroveNum) (xs : List (Xlat × Nat)) : State :=
  let (no, s) := s.refuses xs
  let s := if no then s.endRecord 3 (va.setWidth 56) else s
  let (l, s) := if no then (List.replicate 128 (0, true), s) else s.readMarked s.ctx.part xs
  let half (l : List (Byte × Bool)) : List Byte × Bool := (l.map (·.1), l.any (·.2))
  let s := get.foldl (fun s g => s.deliverTo g off (half (l.take 64)) (half (l.drop 64))) s
  if get.isEmpty then s else s.irrevocable
/-- MCFILL once its operands are checked (R285, R286): it waits for a shed die and for a path to another module. -/
def State.multicast (s : State) (va : BitVec 64) (off : Nat) (mask : BitVec 16) (cls : BitVec 3) : SlotOut :=
  let (get, left) := s.mcGroves mask
  let note (s : State) : State := s.onCtx fun c => { c with csr := c.csr.noteMc left }
  if mask = 0 then .done (note s)
  else
    match s.xlateSpan s.ctx.agent .read va 128 with
    | (.error e, t) => e.slot t
    | (.ok xs, t) =>
      if t.shedPieces xs || t.stuck (readsOf xs) then .stall s .order
      else s.inOrder cls (homeOf xs) (.done (note (t.mcDeliver va off get xs)))
/-- MCFILL (R285): it may not stand in a handler (R430). -/
def execMcfill (d b i : Reg) (c : BitVec 3) (s : State) : Out :=
  let y := s.thr.readB d
  let x := s.thr.readB b
  let m := s.thr.readB i
  let off := (y.val.extractLsb' 0 32).toNat
  s.taskOnly (s.needsClean 0x05 [(b, x), (d, y), (i, m)]
    (if x.val.toNat % 128 ≠ 0 then .trap s 0x07 (addrDetail x.val)
    else if off % 128 ≠ 0 then .trap s 0x07 (BitVec.ofNat 64 off)
    else if 0x180000 < off + 128 then .trap s 0x09 (BitVec.ofNat 64 off)
    else s.multicast x.val off (m.val.setWidth 16) c))

end Sys2Proof.Machine
end

