-- ==== Sys2Proof/Machine/Issue.lean ====
section
/-!
DEFINITION. The issue of a bundle (R66): the entry of a run (R376), fetching (R427), decoding (R62, R63), scoreboard stalls (R42),
waits for the matrix engine (R176), the reads of the ports with their bank replays (R35, R37).
-/

namespace Sys2Proof.Machine

/-! ## Runs and schedules -/

/-- A schedule of an image. -/
def Kernel.sched? (k : Kernel) (i : BitVec 2) : Option Sched :=
  if i = 0 then k.sched0 else if i = 1 then k.sched1 else if i = 2 then k.sched2 else none
/-- Sched(g) (R375): schedule g, else the highest-numbered present one below. -/
def Kernel.schedFor (k : Kernel) (g : BitVec 2) : BitVec 2 :=
  if g = 2 && k.sched2.isSome then 2 else if 1 ≤ g.toNat && k.sched1.isSome then 1 else 0
/-- The bundle index of a run's entry point: 1 prologue, 2 body, 3 epilogue. -/
def Sched.point (c : Sched) (run : BitVec 2) : BitVec 32 := if run = 1 then c.pro else if run = 2 then c.body else c.epi
/-- The entry bundle of a run in a schedule (R328, R334). A schedule without the entry point uses the dense one's (log 16). -/
def Kernel.entryOf (k : Kernel) (i run : BitVec 2) : BitVec 52 :=
  let c := (k.sched? i).getD ⟨0, 0, 0, 0, 0⟩
  if c.point run = 0xFFFFFFFF then
    let d := k.sched0.getD ⟨0, 0, 0, 0, 0⟩
    d.code + (d.point run).setWidth 52
  else c.code + (c.point run).setWidth 52

/-- Take the schedule that the granted level gives at the entry bundle of a run (R376). -/
def Ctx.enterRun (c : Ctx) (g : BitVec 2) : Ctx :=
  let i := c.kern.schedFor g
  { c with sched := i, entry := false, task := { c.task with pc := c.kern.entryOf i c.walk.run } }

/-! ## Stalls at issue -/

/-- Whether an instruction of slot B or C must wait for a scoreboarded write to a register it reads or writes, or a PHQRY for one of
phqres (R42, R369). -/
def Thread.slotWaits (t : Thread) (s : Slot) (i : Instr) : Bool :=
  match s with
  | .b => i.operands.any fun p => t.boardB p.2
  | .c => i.operands.any fun p => match p.1 with
    | .srcC | .dstC | .varC | .rwC | .sclC | .dstK => t.boardC p.2
    | _ => false
  | .d => match i with
    | .phqry d _ _ => d = 16 && t.board.any fun p => p.dest = .phqres
    | _ => false
  | .a => false
/-- The scoreboard stall of a bundle entered at a slot. -/
def Thread.boardWaits (t : Thread) (b : Bundle) (from_ : BitVec 2) : Bool :=
  (decide (from_.toNat ≤ 1) && t.slotWaits .b b.b) || (decide (from_.toNat ≤ 2) && t.slotWaits .c b.c) || t.slotWaits .d b.d

/-- RAMP[i] + 1 (R383), with RAMP as the last step boundary took it (R378). -/
def Grove.cap (g : Grove) : Nat := (g.rampNow >>> (4 * g.step.toNat) &&& 0xF).toNat + 1
/-- The active set of a grove (R383): cores that deliver or run filler. -/
def State.activeCores (s : State) (g : GroveNum) : List CoreNum :=
  (coresOf g).filter fun c => (s.core c).stripes ≠ .idle
/-- Cores of a grove that are not active and whose bundle in issue holds a start that was granted. -/
def State.reservedCores (s : State) (g : GroveNum) : List CoreNum :=
  (coresOf g).filter fun c =>
    (s.core c).stripes = .idle && (s.core c).granted && c ≠ s.cur && (s.core c).ctx.thr.issue.isSome
/-- Lower-numbered cores of the grove whose start waits: they are granted first (R383). -/
def State.slewBefore (s : State) : List CoreNum :=
  (coresOf (groveOf s.cur)).filter fun c =>
    decide (c.toNat < s.cur.toNat) && (s.core c).busy && (s.core c).ctx.wait = .slew
/-- What a start of matrix work waits for: the stripes' last delivery, room for a second macro-instruction, then the slew limiter's
grant (R46, R176, R383). -/
def State.matrixWait (s : State) : Wait :=
  let k := s.core s.cur
  let n := groveOf s.cur
  let g := s.grove n
  if k.stripes = .delivering || decide (2 ≤ k.macros.length) then .busy
  else if k.stripes = .filler || !g.slewOn then .none
  else if (s.activeCores n).length + (s.reservedCores n).length + s.slewBefore.length < g.cap then .none else .slew
/-- Whether a delivery in progress reads a weight slot (R178). -/
def Core.deliversFrom (k : Core) (w : BitVec 2) : Bool :=
  k.stripes = .delivering && k.macros.any fun m => m.prog < m.steps && m.slot = fin2 w
/-- What slot D's instruction waits for at issue: MMA and MMAB a start, BLOAD and BCLR the end of a delivery that reads their slot
(R176, R178, R179). -/
def State.engineWait (s : State) (i : Instr) : Wait :=
  match i with
  | .mma .. | .mmab .. => s.matrixWait
  | .bload _ w => if (s.core s.cur).deliversFrom w then .busy else .none
  | .bclr w => if (s.core s.cur).deliversFrom w then .busy else .none
  | _ => .none
/-- While a start waits and the stripes deliver nothing, the engine ends the combination of its oldest macro-instruction (R46, R176). -/
def Core.combine (k : Core) : Core := if k.stripes = .delivering then k else { k with macros := k.macros.drop 1 }
/-- Whether an instruction starts a delivery, for which the limiter's grant is reserved until its slot is reached (R383). -/
def startsDelivery (i : Instr) : Bool :=
  match i with
  | .mma .. | .mmab .. => true
  | _ => false
/-- Whether an instruction is a long form (R148). -/
def isLong (i : Instr) : Bool :=
  match i with
  | .vgath .. | .vscat .. => true
  | _ => false
/-- Stall at issue: a wait for a grant is noted by the grove (R383). -/
def State.issueStall (s : State) (w : Wait) : State :=
  let s := s.onCtx fun c => { c with wait := w }
  if w = .slew then s.onGrove (groveOf s.cur) fun g => { g with waited := true } else s

/-! ## Ports -/

/-- The different registers that the allotted ports read in a bank (R34, R35). -/
def bankReads (ports : List (BitVec 2 × BitVec 6)) (bank : Nat) : List (BitVec 6) :=
  ((ports.filter fun p => p.1 ≠ 0 && p.2.toNat % 4 == bank).map (·.2)).eraseDups
/-- Count the replay cycles of a bundle in the loss counters (R37, R38). -/
def Core.replay (k : Core) (ports : List (BitVec 2 × BitVec 6)) : Core :=
  { k with bankloss := Vector.ofFn fun b =>
    let n := (k.bankloss[b]).toNat + ((bankReads ports b.val).length - 1)
    BitVec.ofNat 32 (Nat.min n 0xFFFFFFFF) }
/-- What the ports read (R35). -/
def Thread.readPorts (t : Thread) (ports : List (BitVec 2 × BitVec 6)) : List (BitVec 2 × TVal) :=
  ports.map fun p => (p.1, t.m[(⟨p.2.toNat, p.2.isLt⟩ : Fin 64)])

/-! ## Issue -/

/-- The bundle's virtual address (R52). -/
def bundleVa (pc : BitVec 52) : BitVec 64 := (pc ++ (0 : BitVec 4)).setWidth 64

/-- Decode the fetched bundle, stall, or read its ports and put it in issue from the slot to resume at. -/
def State.issueWords (s : State) (wa wb wc wd : BitVec 32) : State :=
  let t := s.thr
  match decodeBundle s.trunk.caps wa wb wc wd with
  | .error (slot, n) => s.takeTrap t.resume 0x01 ((BitVec.ofNat 4 n).setWidth 64 <<< 60 ||| slot.num.setWidth 64)
  | .ok b =>
    if t.boardWaits b t.resume then s.issueStall .board
    else if decide (t.resume.toNat ≤ 2) && isLong b.c && s.ctx.longBusy then s.issueStall .busy
    else if s.engineWait b.d ≠ .none then (s.issueStall (s.engineWait b.d)).onCore s.cur Core.combine
    else
      let ports := headerPorts wa
      let s := s.onCore s.cur fun k => { k.replay ports with granted := startsDelivery b.d }
      s.onCtx fun c => { c.onThr fun t =>
        { t with issue := some ⟨wa, wb, wc, wd, t.readPorts ports, t.resume, none⟩ } with wait := .none }

/-- The bundle at a physical address as the core's fetch gives it (R65, R272): what memory holds, or, until an IFENCE, what the core
fetched there before; it holds what it fetched (log 104). -/
def State.fetchWords (s : State) (pa : Nat) (now : BitVec 128) : BitVec 128 × State :=
  let c := s.cur.toNat
  let held := smGet [] c s.fetched
  let take (s : State) : State := { s with fetched := smSet [] c (smSet none pa (some now) held) s.fetched }
  match smGet none pa held with
  | none => (now, take s)
  | some old =>
    if old = now then (now, s)
    else
      let (k, s) := s.fresh
      if Config.fetchOld k then (old, s) else (now, take s)
/-- The same for a bundle that was translated; none of another module is held. -/
def State.fetchPieces (s : State) (xs : List (Xlat × Nat)) (now : BitVec 128) : BitVec 128 × State :=
  match xs with
  | (x, _) :: _ => if x.remote.isSome then (now, s) else s.fetchWords x.pa now
  | [] => (now, s)
/-- Fetch the bundle at the program counter (R427): one of another module that refuses it is an address fault (R511), one whose home
is shed or has no path is waited for (R486, R309). -/
def State.fetch (s : State) : State :=
  let x := s.ctx
  let va := bundleVa x.thr.pc
  match s.xlateSpan x.agent .fetch va 16 with
  | (.error (.trap c d), s) => s.takeTrap 0 c d
  | (.error (.page v k l), s) => s.pageStop v k l
  | (.error .granule, s) => s.issueStall .granule
  | (.error .order, s) => s.issueStall .order
  | (.ok xs, s) =>
    if s.shedPieces xs || s.stuck (readsOf xs) then s.issueStall .order else
    let (no, s) := s.refuses xs
    if no then s.takeTrap 0 0x09 va else
    let (l, bad, s) := s.readPieces x.part xs
    if bad then s.takeTrap 0 0x04 (va ||| 0x8000000000000000)
    else
      let (w, s) := s.fetchPieces xs (BitVec.ofNat 128 (leNat l))
      s.issueWords (w.extractLsb' 0 32) (w.extractLsb' 32 32) (w.extractLsb' 64 32) (w.extractLsb' 96 32)

/-- Whether a stop of the current context is due: it is pre-empted, or dormancy stops every context (R354, R469). -/
def State.stopDue (s : State) : Bool :=
  !s.ctx.boot && (s.preempted s.cur || decide (s.trunk.phase ≠ 0))

/-- The issue of the current core's next bundle: a due stop first, then a trap that a pfdone write ordered (R356), then the entry of a
run, then the fetch. A context that is being saved issues nothing (R297). -/
def State.issueNext (s : State) : State :=
  let k := s.core s.cur
  let x := k.ctx
  if !k.busy || x.thr.issue.isSome || k.saving then s
  else if s.stopDue then s.stop s.cur .ready
  else
    let s := s.onCore s.cur fun k => { k with granted := false }
    match x.pendTrap with
    | some (c, d) => (s.onCtx fun c => { c with pendTrap := none }).takeTrap x.thr.resume c d
    | none =>
      if x.entry && !x.inHandler then
        let g := s.granted s.cur
        if g = 3 then s.issueStall .level3 else (s.onCtx fun c => c.enterRun g).fetch
      else s.fetch

/-- BUNDLE_ISSUE (R66): the named core's turn comes, and it fetches, decodes and reads the operands of its next bundle. -/
def execBundleIssue (core : CoreNum) (s : State) : Out := .next (s.asCore core State.issueNext)

end Sys2Proof.Machine
end

