-- ==== Sys2Proof/Machine/Tasks.lean ====
section
/-!
DEFINITION. The ends of runs and tasks (R370, R371), LAUNCH (R372), switch points (R373), leases (R374, R380, R381), and the
steps of a grove's slew limiter and of the stripes (R383, R384).
-/

namespace Sys2Proof.Machine

/-! ## TEND, TASKEND -/

/-- The segment checks of TEND and TASKEND (R196): UNCLOSED and DROOP. -/
def Csrs.endReason (r : Csrs) : BitVec 7 := (if r.segOpen then 0x20 else 0) ||| (if r.suspect then 0x10 else 0)
/-- A form that ends a run or the task, after those checks. -/
def State.endForm (s : State) (k : SlotOut) : SlotOut :=
  let r := s.ctx.csr
  if r.endReason = 0 then k
  else .trap s 0x15 (r.segnum ++ (0 : BitVec 9) ++ r.endReason ++ r.segCount)
/-- The task end (R371): an ordering point, every queue entry complete, every map written back; then what the outstanding requests
have read is in its registers, and the task ends. -/
def State.taskEnd (s : State) : SlotOut :=
  match s.orderWait with
  | some o => o
  | none =>
    if (List.finRange 16).any fun i => !((s.ctx.queues[i]).entries.isEmpty) then .stall s .order
    else
      match s.writeBackMaps (List.finRange 16) with
      | (.error e, s) => e.slot s
      | (.ok _, s) => if s.ctx.acks ≠ [] then .stall s .order else .done (s.drainLoads.endTask s.cur false)
/-- TASKEND (R371). -/
def execTaskend (s : State) : Out := s.taskOnly (s.endForm s.taskEnd)
/-- TEND (R370): the next run's entry bundle is next, or the task ends. -/
def execTend (s : State) : Out :=
  s.taskOnly (s.endForm
    (match s.ctx.kern.nextRun s.ctx.walk (Config.walkPick s.tick) with
    | none => s.taskEnd
    | some w =>
      let (_, s) := s.fresh
      .done (s.onCtx fun c =>
        let c := c.beginRun w
        let t := { c.task with
          redirects := [], taken := none
          issue := c.task.issue.map fun i => { i with jump := some (c.kern.entryOf c.sched w.run) } }
        { c with task := t, csr := { c.csr with srPend := some (mixSeed c.csr.srseed c.sidx w.mixP) } })))

/-! ## LAUNCH -/

/-- LAUNCH (R372): the packet, a local read of class 0 (R219), enters queue 0 of the partition. -/
def execLaunch (a : Reg) (s : State) : Out :=
  let x := s.thr.readD a
  let p := (x.val.extractLsb' 0 32).toNat
  s.taskOnly (s.needsClean 0x04 [(a, x)] (s.checkLocal p 64 64
    (match s.localRead p 64 with
    | (.error e, s) => e.slot s
    | (.ok (l, _), s) =>
      s.inOrder 0 none
        (if 256 ≤ s.queueFill s.ctx.part 0 then .stall s .launchFull
        else .done (s.acceptPacket s.ctx.part 0 l .launch).irrevocable))))

/-! ## SWPT -/

/-- The target of a switch row for a schedule. -/
def SwitchRow.target (r : SwitchRow) (g : BitVec 2) : BitVec 32 :=
  if g = 0 then r.dense else if g = 1 then r.medium else r.relaxed
/-- Whether a fixed-latency result is in flight past the next bundle (R373). -/
def Thread.inFlight (t : Thread) : Bool := t.landing.any fun l => decide (2 ≤ l.dist)
/-- SWPT (R373). It stands in slot D, the last to commit. -/
def execSwpt (n : BitVec 12) (s : State) : Out :=
  let c := s.ctx
  let g := s.granted s.cur
  s.taskOnly
    (if g = 3 then .stall s .level3
    else
      match c.kern.switches.find? fun r => r.point.toNat == n.toNat with
      | none => .done s
      | some r =>
        if g = c.sched || c.task.inFlight || c.task.redirects ≠ [] || c.task.taken.isSome then .done s
        else
          let pc := ((c.kern.sched? g).getD ⟨0, 0, 0, 0, 0⟩).code + (r.target g).setWidth 52
          .done (s.onCtx fun c => { c with
            sched := g, task := { c.task with issue := c.task.issue.map fun i => { i with jump := some pc } } }))

/-! ## Leases -/

/-- Withdraw a pending request (R380). -/
def State.withdrawLease (s : State) : State := s.onCtx fun c => { c with lease := { c.lease with request := none } }
/-- LEASE (R374): the held lease is returned, and the request is pending. -/
def execLease (a : Reg) (s : State) : Out :=
  let x := s.thr.readD a
  s.taskOnly (s.needsClean 0x04 [(a, x)]
    (if x.val.extractLsb' 32 32 = 0 || x.val.extractLsb' 1 31 ≠ 0 then .trap s 0x13 x.val
    else .done ((s.endLease s.cur 2).onCtx fun c => { c with
      lease := { c.lease with request := some (x.val.extractLsb' 32 32, x.val.setWidth 2) } })))
/-- LEASEREL (R374). -/
def execLeaserel (s : State) : Out := s.taskOnly (.done (s.endLease s.cur 1).withdrawLease)

/-- The refusal code of a request, or 0 (R380). -/
def State.leaseCode (s : State) (g : GroveNum) (level : BitVec 2) : BitVec 3 :=
  let x := s.grove g
  if x.level = 3 || x.therm = 3 then 4
  else if level.toNat < x.leaseFloor.toNat then 1
  else if x.leaseMax ≤ s.activeLeases g then 2
  else if x.level.toNat ≤ level.toNat then 3
  else 0
/-- LEASE_DECISION (R380): the grove grants or refuses the pending request. -/
def execLeaseDecision (core : CoreNum) (s : State) : Out :=
  let k := s.core core
  let g := groveOf core
  .next (match (if k.busy && !k.ctx.boot then k.ctx.lease.request else none) with
  | none => s
  | some (n, level) =>
    let set (f : Lease → Lease) : State := s.onCore core fun k => { k with ctx := { k.ctx with lease := f k.ctx.lease } }
    let old := s.granted core
    let code := s.leaseCode g level
    let granted := Nat.min n.toNat (2 ^ (s.grove g).leaseLen)
    if code = 0 then
      let s := set fun _ => ⟨BitVec.ofNat 32 granted, true, false, level, 0, none⟩
      s.power k.ctx.part { type := 0x22, grove := g.toNat, old := old.toNat, new := (s.granted core).toNat, core := core.toNat,
                           value := granted, lid := k.ctx.lid.toNat }
    else
      (set fun l => { l with refused := code, request := none }).power k.ctx.part
        { type := 0x23, code := code.toNat, grove := g.toNat, old := old.toNat, new := old.toNat, core := core.toNat,
          value := n.toNat, lid := k.ctx.lid.toNat })
/-- LEASE_EXPIRY (R381): a lease whose budget is spent ends. -/
def execLeaseExpiry (core : CoreNum) (s : State) : Out := .next (s.expireLease core)

/-! ## Stripes and the slew limiter -/

/-- Set what a core's stripes do. -/
def State.setStripes (s : State) (c : CoreNum) (x : Stripes) : State := s.onCore c fun k => { k with stripes := x }
/-- The macro-instruction that is delivered has all its steps performed; combination of an older one, which takes 8 cycles, ended
within a delivery of at least as many (R46, R176). -/
def deliveredMacros (l : List Macro) : List Macro :=
  match l.getLast? with
  | some m => (if 8 ≤ m.steps then [] else l.dropLast) ++ [{ m with prog := m.steps }]
  | none => []
/-- MMA_DELIVERY_END (R384): the stripes run filler while the slew limiter is active, else they are idle. -/
def execMmaDeliveryEnd (core : CoreNum) (s : State) : Out :=
  let g := groveOf core
  .next (if (s.core core).stripes = .delivering then
      let s := s.onCore core fun k => { k with macros := deliveredMacros k.macros }
      (if (s.grove g).slewOn then
        (s.setStripes core .filler).onGrove g fun x => { x with
          fillers := x.fillers.filter (· ≠ core) ++ [core] }
      else s.setStripes core .idle)
    else s)
/-- The smallest step whose cap reaches a size (R383). -/
def rampFloor (ramp : BitVec 64) (a : Nat) : Nat :=
  ((List.range 16).find? fun j => decide (a ≤ (ramp >>> (4 * j) &&& 0xF).toNat + 1)).getD 15
/-- A step boundary takes SLEWEN and RAMP as they stand, and the sample of FREQ (R378). -/
def Grove.boundary (x : Grove) (freq : BitVec 16) : Grove := { x with slewOn := x.slewEn, rampNow := x.ramp, freq := freq }
/-- SLEW_STEP (R383): the boundary takes the registers, one filler core leaves, then the step index moves, up when a start waited in
the step or still waits; with SLEWEN 0 no core runs filler. -/
def execSlewStep (grove : GroveNum) (s : State) : Out :=
  let (n, s) := s.fresh
  let s := s.onGrove grove fun y => y.boundary (Config.freq n)
  let x := s.grove grove
  let waits := x.waited || (coresOf grove).any fun c => (s.core c).busy && (s.core c).ctx.wait = .slew
  if !x.slewOn then
    .next (((coresOf grove).filter fun c => (s.core c).stripes = .filler).foldl (fun s c => s.setStripes c .idle)
      (s.onGrove grove fun y => { y with fillers := [], waited := false }))
  else
    let list := x.fillers.filter fun c => (s.core c).stripes = .filler
    let s := match list with
      | c :: _ => s.setStripes c .idle
      | [] => s
    let a := (s.activeCores grove).length
    let i := x.step.toNat
    let next := if waits then Nat.min 15 (i + 1) else Nat.max (rampFloor x.rampNow a) (i - 1)
    .next (s.onGrove grove fun y => { y with fillers := list.drop 1, step := BitVec.ofNat 4 next, waited := false })

end Sys2Proof.Machine
end

