-- ==== Sys2Proof/Machine/Agents.lean ====
section
/-!
DEFINITION. The steps that the module's own agents owe: which are due in a state (log 10). Each is performed like any other step;
what is due and never chosen for a while is a delay. What only the outside decides stands in no list: requests of other modules and
of the host, link changes, supplies, sensors, errors, timeouts.
-/

namespace Sys2Proof.Machine

/-- A step of an agent: the meaning of its instruction. -/
abbrev Due := State → Out
/-- A list of one step, if a condition holds. -/
def dueIf (c : Bool) (i : Due) : List Due := if c then [i] else []

/-- What a context owes: answers to its requests, arriving rows, queue units, held fetches, its lease, its stripes, waits. -/
def Core.due (k : Core) (c : CoreNum) (tick : Nat) : List Due :=
  let x := k.ctx
  ((x.task.board ++ x.hand.board).map fun p =>
    if p.way.waiting then execNackResend c (.load p.id) 1 else execLoadComplete c p.id (Config.remoteData tick) false) ++
  (x.acks.zipIdx.map fun a => if a.1.way.waiting then execNackResend c (.write a.2) 1 else execWriteAcknowledged c a.2) ++
  ((List.finRange 16).flatMap fun h => match (x.h[h]).win with
    | some w => dueIf (!w.arriving.isEmpty) (execWindowRowArrival c (BitVec.ofNat 4 h.val)) ++
        dueIf w.held (execPageWaitRetry c (.window (BitVec.ofNat 4 h.val)))
    | none => []) ++
  ((List.finRange 16).flatMap fun q =>
    let n := BitVec.ofNat 4 q.val
    if (x.queues[q]).entries.isEmpty then []
    else
      (if (x.queues[q]).nacked then [execNackResend c (.unit n) 1]
        else if (x.queues[q]).held then [execPageWaitRetry c (.queue n)] else [execQueueUnitDone c n []]) ++
      [execQueueEntryComplete c n]) ++
  dueIf x.lease.request.isSome (execLeaseDecision c) ++
  dueIf (x.lease.held && !x.lease.suspended && x.lease.remain = 0) (execLeaseExpiry c) ++
  (match x.wait with
    | .lock _ => [execAcqPoll c, execLongWaitSwap c]
    | .ring _ | .phase _ _ => [execLongWaitSwap c]
    | _ => []) ++
  dueIf (!x.boot && k.expired.isNone) (execQuantumExpiry c)
/-- What the cores owe. -/
def State.coresDue (s : State) : List Due :=
  s.cores.flatMap fun e =>
    let c := BitVec.ofNat 8 e.1
    (if e.2.busy then e.2.due c s.tick else []) ++ dueIf (e.2.stripes = .delivering) (execMmaDeliveryEnd c)
/-- What the groves owe: a step of the slew limiter, the end of a droop window. -/
def State.grovesDue (s : State) : List Due :=
  (List.finRange 16).flatMap fun g =>
    let y := s.groves[g]
    let n := BitVec.ofNat 4 g.val
    execSlewStep n :: dueIf y.window.isSome (execDroopWindowEnd n)
/-- What a partition owes: an admission, what its registers started, its tasks' aging, a checkpoint boundary. -/
def Part.due (q : Part) (p : PartNum) : List Due :=
  dueIf (q.queues.toList.any fun l => !l.isEmpty) (execAdmission p) ++
  dueIf q.inval.isSome (execInvalidationComplete p) ++
  (match q.migbusy with
    | some m => [if m.switched then execMigrationDone p else execMigrationSwitch p]
    | none => []) ++
  dueIf q.busy (execGroveChangeDone p) ++
  dueIf (q.ckptctl.getLsbD 63) (execCheckpointBoundary p false)
/-- What the partitions, the scheduler and the crown controller's rollbacks owe. -/
def State.partsDue (s : State) : List Due :=
  ((List.finRange 8).flatMap fun p => (s.parts[p]).due (BitVec.ofNat 3 p.val)) ++
  (s.launches.flatMap fun l => (l.lookups.map fun r => (execHotnessWindow l.part l.lid (BitVec.ofNat 6 r.1) (Config.misses s.tick))) ++
    dueIf (decide (l.nextTask < l.total)) (execAgingStep l.part l.lid l.nextTask)) ++
  (s.tasks.flatMap fun t => match t.status with
    | .ready => [execAgingStep t.part t.lid t.sidx]
    | .rollback _ => [execRollback t.part t.lid t.sidx]
    | _ => []) ++
  (if s.launches.isEmpty then [] else
    (List.range 256).flatMap fun c =>
      let n := BitVec.ofNat 8 c
      match s.grovePart (groveOf n) with
      | some p => dueIf (!(s.core n).busy) (execDispatch p n)
      | none => [])
/-- What the phaser engines owe. -/
def State.phasersDue (s : State) : List Due :=
  (s.phasers.filter fun p => p.pending = 0).map fun p => execPhaseComplete p.eng p.idx
/-- What a dormant module owes, by phase (R469). -/
def dormancyDue (phase : BitVec 4) : List Due :=
  match phase.toNat with
  | 1 => [execStopPhaseEnd]
  | 2 => [execWriteBackDone]
  | 3 => [execDrainDone]
  | 4 => [execSealWritten]
  | _ => []
/-- What the trunk die owes: ownership, the capacity tier, cuts, dormancy, pollard mode, the start. -/
def State.trunkDue (s : State) : List Due :=
  let t := s.trunk
  dueIf (!t.ownBusy.isEmpty) execOwnerChangeDone ++ dueIf t.poolOp.isSome execPoolqDone ++
  dueIf (t.cut.any fun r => r.snap.isSome) (execCutDone true) ++
  (if t.done then dormancyDue t.phase else []) ++
  dueIf (t.powered && !t.charged) execReserveCharged ++
  ((List.range 4).flatMap fun d =>
    let n := BitVec.ofNat 2 d
    dueIf (t.pollctl.getLsbD d && !t.shedOrder.contains n) (execDieShed n) ++
    dueIf (!t.pollctl.getLsbD d && t.shedOrder.contains n) (execDieRestore n)) ++
  dueIf (t.step = 0 && !t.done) execPowerOn ++
  dueIf (t.powered && !t.done && t.step ≠ 0) (execStartStep (.ok (Config.passed s.tick)))
/-- Every step that an agent of the module owes. -/
def State.due (s : State) : List Due := s.coresDue ++ s.grovesDue ++ s.partsDue ++ s.phasersDue ++ s.trunkDue

/-- The state after a step of an agent; the state itself where the step answers none, which no step does. -/
def State.after (s : State) (d : Due) : State :=
  match d s with
  | .next t => t
  | _ => s
/-- A turn ends: the next core's comes, perhaps after a step that an agent owes; both choices are free values (log 10). The tasks
whose waits the turn, or that step, ended become ready as each ends (R353). -/
def State.pass (s : State) : State :=
  let (k, s) := s.wake.fresh
  let l := s.due
  let s := match l[Config.nextAgent k % (l.length + 1)]? with
    | some d => (s.after d).wake
    | none => s
  { s with cur := Config.nextCore k }

end Sys2Proof.Machine
end

