-- ==== Sys2Proof/Machine/Control.lean ====
section
/-!
DEFINITION. Slot A's control transfers, the check on deferred tags, and its moves through the main file (R135-R141); NOP (R54).
-/

namespace Sys2Proof.Machine

/-- Commit a taken transfer: it is pending from the end of its bundle (R135). -/
def State.transfer (s : State) (target : BitVec 52) : State := s.onThr fun t => { t with taken := some target }
/-- The target of a PC-relative transfer (R136). -/
def State.relTarget (s : State) (o : BitVec 21) : BitVec 52 := s.thr.pc + o.signExtend 52
/-- The link: the bundle after the third delay slot (R138). -/
def State.link (s : State) : TVal := .clean ((s.thr.pc + 4).setWidth 64)

/-- NOP (R54): no effect beyond taking its place. -/
def execNop (s : State) : Out := (SlotOut.done s).out

/-- BR (R136). -/
def execBr (o : BitVec 21) (s : State) : Out := (SlotOut.done (s.transfer (s.relTarget o))).out
/-- BRZ: taken when all 64 bits are 0. -/
def execBrz (t : Reg) (o : BitVec 21) (s : State) : Out :=
  (s.needsClean 0x04 [s.srcA t] (.done (if (s.thr.readA t).val = 0 then s.transfer (s.relTarget o) else s))).out
/-- BRNZ: taken when a bit is 1. -/
def execBrnz (t : Reg) (o : BitVec 21) (s : State) : Out :=
  (s.needsClean 0x04 [s.srcA t] (.done (if (s.thr.readA t).val ≠ 0 then s.transfer (s.relTarget o) else s))).out
/-- CALL: test receives the link. -/
def execCall (t : Reg) (o : BitVec 21) (s : State) : Out :=
  ((s.transfer (s.relTarget o)).putA 1 t s.link).out
/-- CHK (R139): taken when the operand's tag is deferred; it never traps. -/
def execChk (t : Reg) (o : BitVec 21) (s : State) : Out :=
  (SlotOut.done (if (s.thr.readA t).deferred then s.transfer (s.relTarget o) else s)).out

/-- A transfer to srcA, with the traps of R138. -/
def State.jump (s : State) (a : Reg) (k : State → SlotOut) : SlotOut :=
  let x := s.thr.readA a
  s.needsClean 0x04 [(a, x)]
    (if x.val.extractLsb' 52 12 ≠ 0 then .trap s 0x06 x.val else k (s.transfer (x.val.setWidth 52)))
/-- JR (R137). -/
def execJr (a : Reg) (s : State) : Out := (s.jump a .done).out
/-- RET: as JR; the return-address predictor changes timing only. -/
def execRet (a : Reg) (s : State) : Out := (s.jump a .done).out
/-- CALLR: dst receives the link. -/
def execCallr (d a : Reg) (s : State) : Out := (s.jump a fun t => t.putA 1 d s.link).out

/-- MOVM write form of slot A (R140): the value with its tag, visible two bundles on; deferred and poison pass. -/
def execMovmWriteA (r : Reg) (n : BitVec 6) (s : State) : Out :=
  (SlotOut.done (s.land 2 (.m ⟨n.toNat, n.isLt⟩) (.scalar (s.thr.readA r)))).out
/-- MOVM read form (R141). -/
def execMovmRead (d : Reg) (n : BitVec 6) (s : State) : Out :=
  (s.putA 1 d (s.thr.m[(⟨n.toNat, n.isLt⟩ : Fin 64)])).out

end Sys2Proof.Machine
end

