-- ==== Sys2Proof/Machine/LoadStore.lean ====
section
/-!
DEFINITION. Slot B's loads, stores and atomics (R262-R268): one definition per instruction over the shared text of MemAccess.lean.
An access waits at its slot for the earlier ones that R220 keeps before it.
-/

namespace Sys2Proof.Machine

/-- LDS. -/
def execLds (d b : Reg) (c : BitVec 3) (z : BitVec 2) (o : BitVec 10) (s : State) : Out := (s.loadLocal d b c z o false).out
/-- LDSX. -/
def execLdsx (d b : Reg) (c : BitVec 3) (z : BitVec 2) (o : BitVec 10) (s : State) : Out := (s.loadLocal d b c z o true).out
/-- LDR. -/
def execLdr (d b : Reg) (c : BitVec 3) (z : BitVec 2) (o : BitVec 10) (s : State) : Out := (s.loadRemote d b c z o false).out
/-- LDRX. -/
def execLdrx (d b : Reg) (c : BitVec 3) (z : BitVec 2) (o : BitVec 10) (s : State) : Out := (s.loadRemote d b c z o true).out
/-- LDG. -/
def execLdg (d b : Reg) (c : BitVec 3) (z : BitVec 2) (o : BitVec 10) (s : State) : Out := (s.loadGlobal d b c z o false).out
/-- LDGX. -/
def execLdgx (d b : Reg) (c : BitVec 3) (z : BitVec 2) (o : BitVec 10) (s : State) : Out := (s.loadGlobal d b c z o true).out
/-- LDGS. -/
def execLdgs (d b : Reg) (c : BitVec 3) (z : BitVec 2) (o : BitVec 10) (s : State) : Out := (s.loadSpec d b c z o false).out
/-- LDGSX. -/
def execLdgsx (d b : Reg) (c : BitVec 3) (z : BitVec 2) (o : BitVec 10) (s : State) : Out := (s.loadSpec d b c z o true).out
/-- LDK. -/
def execLdk (d b : Reg) (z : BitVec 2) (o : BitVec 10) (s : State) : Out := (s.loadConst d b z o).out
/-- STS. -/
def execSts (d b : Reg) (_g : BitVec 1) (c : BitVec 3) (z : BitVec 2) (o : BitVec 10) (s : State) : Out :=
  (s.storeLocal d b c z o).out
/-- STR. -/
def execStr (d b : Reg) (g : BitVec 1) (c : BitVec 3) (z : BitVec 2) (o : BitVec 10) (s : State) : Out :=
  (s.storeRemote d b g c z o).out
/-- STG. -/
def execStg (d b : Reg) (g : BitVec 1) (c : BitVec 3) (z : BitVec 2) (o : BitVec 10) (s : State) : Out :=
  (s.storeGlobal d b g c z o).out
/-- MOVM write form of slot B (R71, R36). -/
def execMovmWriteB (r : Reg) (n : BitVec 6) (s : State) : Out :=
  (SlotOut.done (s.land 2 (.m ⟨n.toNat, n.isLt⟩) (.scalar (s.thr.readB r)))).out

/-- ATS.ADD: local scratchpad. -/
def execAtsAdd (d b : Reg) (g : BitVec 1) (c : BitVec 3) (z : BitVec 1) (s : State) : Out :=
  (s.atomLocal ⟨.add, d, b, none, g = 1, c, atomBytes z⟩).out
/-- ATS.SWAP: local scratchpad. -/
def execAtsSwap (d b : Reg) (g : BitVec 1) (c : BitVec 3) (z : BitVec 1) (s : State) : Out :=
  (s.atomLocal ⟨.swap, d, b, none, g = 1, c, atomBytes z⟩).out
/-- ATS.CAS: local scratchpad. -/
def execAtsCas (d b i : Reg) (g : BitVec 1) (c : BitVec 3) (z : BitVec 1) (s : State) : Out :=
  (s.atomLocal ⟨.cas, d, b, some i, g = 1, c, atomBytes z⟩).out
/-- ATS.AND: local scratchpad. -/
def execAtsAnd (d b : Reg) (g : BitVec 1) (c : BitVec 3) (z : BitVec 1) (s : State) : Out :=
  (s.atomLocal ⟨.and, d, b, none, g = 1, c, atomBytes z⟩).out
/-- ATS.OR: local scratchpad. -/
def execAtsOr (d b : Reg) (g : BitVec 1) (c : BitVec 3) (z : BitVec 1) (s : State) : Out :=
  (s.atomLocal ⟨.or, d, b, none, g = 1, c, atomBytes z⟩).out
/-- ATS.XOR: local scratchpad. -/
def execAtsXor (d b : Reg) (g : BitVec 1) (c : BitVec 3) (z : BitVec 1) (s : State) : Out :=
  (s.atomLocal ⟨.xor, d, b, none, g = 1, c, atomBytes z⟩).out
/-- ATS.SMIN: local scratchpad. -/
def execAtsSmin (d b : Reg) (g : BitVec 1) (c : BitVec 3) (z : BitVec 1) (s : State) : Out :=
  (s.atomLocal ⟨.smin, d, b, none, g = 1, c, atomBytes z⟩).out
/-- ATS.SMAX: local scratchpad. -/
def execAtsSmax (d b : Reg) (g : BitVec 1) (c : BitVec 3) (z : BitVec 1) (s : State) : Out :=
  (s.atomLocal ⟨.smax, d, b, none, g = 1, c, atomBytes z⟩).out
/-- ATR.ADD: remote scratchpad. -/
def execAtrAdd (d b : Reg) (g : BitVec 1) (c : BitVec 3) (z : BitVec 1) (s : State) : Out :=
  (s.atomRemote ⟨.add, d, b, none, g = 1, c, atomBytes z⟩).out
/-- ATR.SWAP: remote scratchpad. -/
def execAtrSwap (d b : Reg) (g : BitVec 1) (c : BitVec 3) (z : BitVec 1) (s : State) : Out :=
  (s.atomRemote ⟨.swap, d, b, none, g = 1, c, atomBytes z⟩).out
/-- ATR.CAS: remote scratchpad. -/
def execAtrCas (d b i : Reg) (g : BitVec 1) (c : BitVec 3) (z : BitVec 1) (s : State) : Out :=
  (s.atomRemote ⟨.cas, d, b, some i, g = 1, c, atomBytes z⟩).out
/-- ATR.AND: remote scratchpad. -/
def execAtrAnd (d b : Reg) (g : BitVec 1) (c : BitVec 3) (z : BitVec 1) (s : State) : Out :=
  (s.atomRemote ⟨.and, d, b, none, g = 1, c, atomBytes z⟩).out
/-- ATR.OR: remote scratchpad. -/
def execAtrOr (d b : Reg) (g : BitVec 1) (c : BitVec 3) (z : BitVec 1) (s : State) : Out :=
  (s.atomRemote ⟨.or, d, b, none, g = 1, c, atomBytes z⟩).out
/-- ATR.XOR: remote scratchpad. -/
def execAtrXor (d b : Reg) (g : BitVec 1) (c : BitVec 3) (z : BitVec 1) (s : State) : Out :=
  (s.atomRemote ⟨.xor, d, b, none, g = 1, c, atomBytes z⟩).out
/-- ATR.SMIN: remote scratchpad. -/
def execAtrSmin (d b : Reg) (g : BitVec 1) (c : BitVec 3) (z : BitVec 1) (s : State) : Out :=
  (s.atomRemote ⟨.smin, d, b, none, g = 1, c, atomBytes z⟩).out
/-- ATR.SMAX: remote scratchpad. -/
def execAtrSmax (d b : Reg) (g : BitVec 1) (c : BitVec 3) (z : BitVec 1) (s : State) : Out :=
  (s.atomRemote ⟨.smax, d, b, none, g = 1, c, atomBytes z⟩).out
/-- ATG.ADD: global memory. -/
def execAtgAdd (d b : Reg) (g : BitVec 1) (c : BitVec 3) (z : BitVec 1) (s : State) : Out :=
  (s.atomGlobal ⟨.add, d, b, none, g = 1, c, atomBytes z⟩).out
/-- ATG.SWAP: global memory. -/
def execAtgSwap (d b : Reg) (g : BitVec 1) (c : BitVec 3) (z : BitVec 1) (s : State) : Out :=
  (s.atomGlobal ⟨.swap, d, b, none, g = 1, c, atomBytes z⟩).out
/-- ATG.CAS: global memory. -/
def execAtgCas (d b i : Reg) (g : BitVec 1) (c : BitVec 3) (z : BitVec 1) (s : State) : Out :=
  (s.atomGlobal ⟨.cas, d, b, some i, g = 1, c, atomBytes z⟩).out
/-- ATG.AND: global memory. -/
def execAtgAnd (d b : Reg) (g : BitVec 1) (c : BitVec 3) (z : BitVec 1) (s : State) : Out :=
  (s.atomGlobal ⟨.and, d, b, none, g = 1, c, atomBytes z⟩).out
/-- ATG.OR: global memory. -/
def execAtgOr (d b : Reg) (g : BitVec 1) (c : BitVec 3) (z : BitVec 1) (s : State) : Out :=
  (s.atomGlobal ⟨.or, d, b, none, g = 1, c, atomBytes z⟩).out
/-- ATG.XOR: global memory. -/
def execAtgXor (d b : Reg) (g : BitVec 1) (c : BitVec 3) (z : BitVec 1) (s : State) : Out :=
  (s.atomGlobal ⟨.xor, d, b, none, g = 1, c, atomBytes z⟩).out
/-- ATG.SMIN: global memory. -/
def execAtgSmin (d b : Reg) (g : BitVec 1) (c : BitVec 3) (z : BitVec 1) (s : State) : Out :=
  (s.atomGlobal ⟨.smin, d, b, none, g = 1, c, atomBytes z⟩).out
/-- ATG.SMAX: global memory. -/
def execAtgSmax (d b : Reg) (g : BitVec 1) (c : BitVec 3) (z : BitVec 1) (s : State) : Out :=
  (s.atomGlobal ⟨.smax, d, b, none, g = 1, c, atomBytes z⟩).out

end Sys2Proof.Machine
end

