-- ==== Sys2Proof/Machine/MatrixOps.lean ====
section
/-!
DEFINITION. Slot D's matrix instructions (R177-R188): one definition per instruction over Matrix.lean. A result is computed when
its instruction is accepted and lands at its distance; the stripes deliver until MMA_DELIVERY_END.
-/

namespace Sys2Proof.Machine

/-! ## FMTW, BLOAD, BCLR -/

/-- FMTW (R177). -/
def execFmtw (b a : BitVec 4) (s : State) : Out := s.taskOnly (SlotOut.done (s.land 4 .latch (.latch a b)))

/-- The weight slot that an image gives (R178). -/
def weightOf (c : BitVec 4) (l : List (Byte × Bool)) : WSlot :=
  let t := matTy c
  let elems := codesOf t.w (l.take (512 * t.w))
  let scales := l.drop (512 * t.w)
  let bad (p : (Nat × Bool) × Nat) : Bool := p.1.2 || t.bad p.1.1 || ((scales[p.2 / 32]?).map (·.2)).getD false
  ⟨l.zipIdx.filterMap fun p => if p.1.1 = 0 then none else some (p.2, p.1.1),
   BitVec.ofNat 4096 (elems.zipIdx.foldr (fun p n => (if bad p then 1 else 0) + 2 * n) 0), some c⟩
/-- Whether a BLOAD is in flight (R441 reason 6). -/
def Thread.bloadFlying (t : Thread) : Bool :=
  t.landing.any fun l => match l.val with
    | .wslot w => w.fmt.isSome
    | _ => false
/-- BLOAD (R178). -/
def execBload (a : Reg) (w : BitVec 2) (s : State) : Out :=
  let c := s.ctx.mat.latchB
  let check (s : State) (k : SlotOut) : SlotOut :=
    s.matLimits [] [w] (if s.ctx.task.bloadFlying then s.matTrap 6 0 else k)
  s.taskOnly (s.withImage a (matBytes c) check fun s l =>
    let v := match l with
      | some l => weightOf c l
      | none => ⟨[], BitVec.allOnes 4096, some c⟩
    .done (s.land 20 (.wslot (fin2 w)) (.wslot v)))
/-- BCLR (R179). -/
def execBclr (w : BitVec 2) (s : State) : Out :=
  s.taskOnly (s.matLimits [] [w] (.done (s.land 2 (.wslot (fin2 w)) (.wslot .zero))))

/-! ## MMA and MMAB -/

/-- The elements of a weight slot with their side bits, and its scales. -/
def WSlot.elems (w : WSlot) (c : BitVec 4) : List (Nat × Bool) × List (Byte × Bool) :=
  let t := matTy c
  let bytes := (smDense 0 (matBytes c) 0 w.image).map fun b => (b, false)
  ((codesOf t.w (bytes.take (512 * t.w))).zipIdx.map fun p => (p.1.1, w.side.getLsbD p.2), bytes.drop (512 * t.w))

/-- The mode's tile format of an MMA (R180). -/
def mmaFmt (c : BitVec 4) (fx : Bool) : TileFmt := if fx then .fx96 else if (matTy c).isFp then .fp32 else .int32

/-- The FP32 element: acc + V[0] + V[1], exact and then rounded once (R181). -/
def mmaFp32 (acc u v : FVal) : FRes :=
  let l := [acc, u, v]
  if l.any (·.isNan) then fp32.quiet
  else
    let infs := l.filterMap fun x => match x with | .inf a => some a | _ => none
    match infs with
    | a :: t => if t.any (· ≠ a) then fp32.invalid else (fp32.sign a fp32.infCode, 0)
    | [] =>
      let part (x : FVal) : Int × Int := match x with | .fin a m e => (signed a m, e) | _ => (0, 0)
      let (i, e) := dyAdd (part u).1 (part u).2 (part v).1 (part v).2
      let (i, e) := dyAdd (part acc).1 (part acc).2 i e
      fp32.roundInt .rn false i e
/-- One element of an MMA's result from its two block pairs (R181, R182); `none` for a pair of an empty slot, whose products
are zero. -/
def mmaElem (f : TileFmt) (scale : Int) (acc : Elem) (p : Option ((MBlock × MBlock) × (MBlock × MBlock)))
    (rowBad : Bool) : Elem × BitVec 7 :=
  if rowBad || f.elemBad acc then (f.bad, 0)
  else
    let (u, fu) := match p with | some (a, b) => blockSum a.1 b.1 | none => (.fin false 0 0, 0)
    let (v, fv) := match p with | some (a, b) => blockSum a.2 b.2 | none => (.fin false 0 0, 0)
    match f with
    | .fx96 =>
      let (e, g) := fxAdd scale acc u
      let (e, h) := fxAdd scale e v
      (e, g ||| h)
    | .int32 =>
      let t (x : FVal) : Int := match x with | .fin a m _ => signed a m | _ => 0
      (codeElem ((acc.bits.toNat + t u + t v : Int) % 2 ^ 32).toNat, 0)
    | _ =>
      let r := mmaFp32 (fp32.unpack acc.bits.toNat) u v
      (codeElem r.1, r.2 ||| fu ||| fv)
/-- The elements of an MMA's result. -/
def mmaElems (f : TileFmt) (scale : Int) (acc : List Elem) (rows : List (MBlock × MBlock))
    (cols : Option (List (MBlock × MBlock))) : List (Elem × BitVec 7) :=
  let bad (x : MBlock × MBlock) : Bool := x.1.bad || x.2.bad
  let pairs := rows.flatMap fun a => match cols with
    | some l => l.map fun b => (some (a, b), bad a || bad b)
    | none => List.replicate 64 (none, bad a)
  (acc.zip pairs).map fun p => mmaElem f scale p.1 p.2.1 p.2.2

/-- The accumulator of matrix work: the chained tile, or zero with `new` (R181). -/
def accOf (t : Tile) (new : Bool) : List Elem := if new then List.replicate 4096 Elem.zero else t.dense
/-- Accept matrix work that reads a weight slot and delivers some planes: the stripes begin its delivery, and its progress index is 0
(R46, R176). -/
def State.deliver (s : State) (w : BitVec 2) (planes : Nat) : State :=
  s.onCore s.cur fun k => { k with
    stripes := .delivering, granted := false, macros := k.macros ++ [⟨fin2 w, 4 * planes, 0⟩] }
/-- The checks that MMA and MMAB share once their class is right: the chained format, then room (R180, R183, R441). -/
def State.mmaChecks (s : State) (d : Reg) (new : Bool) (f : TileFmt) (k : SlotOut) : SlotOut :=
  if !new && (s.ctx.chained (tileIx d)).fmt ≠ f then s.matTrap 2 d else s.matRoom d k
/-- Every element poison in a format (R182). -/
def badTile (f : TileFmt) (scale : BitVec 8) : LVal := .tile (Tile.ofDense f scale (List.replicate 4096 f.bad))

/-- MMA (R180-R182). -/
def execMma (d a : Reg) (n f : BitVec 1) (w : BitVec 2) (s : State) : Out :=
  let c := s.ctx.mat.latchA
  let slot := s.ctx.mat.w[fin2 w]
  let fmt := mmaFmt c (f = 1)
  let new := n = 1
  let t := s.ctx.chained (tileIx d)
  let lat := 4 * matPlanes c + 8
  let check (s : State) (k : SlotOut) : SlotOut :=
    s.matLimits [d] [w]
      (if slot.fmt.any fun b => (matTy b).isFp != (matTy c).isFp then s.matTrap 1 d else s.mmaChecks d new fmt k)
  s.taskOnly (s.withImage a (matBytes c) check fun s l =>
    let s := s.deliver w (matPlanes c)
    match l with
    | none => s.putTile lat d (badTile (if new then fmt else t.fmt) t.scale) 0 true
    | some l =>
      let ty := matTy c
      let rows := pairBlocks (alignImage c (codesOf ty.w (l.take (512 * ty.w))) (l.drop (512 * ty.w)))
      let cols := slot.fmt.map fun b => let e := slot.elems b; pairBlocks (alignImage b e.1 e.2)
      let r := mmaElems fmt t.exp (accOf t new) rows cols
      s.putTile lat d (.tile (Tile.ofDense fmt t.scale (r.map (·.1)))) (orFlags r) true)

/-- The number of 1 bits among the low `n` bits. -/
def popcount : Nat → Nat → Nat
  | 0, _ => 0
  | n + 1, x => x % 2 + popcount n (x / 2)
/-- The rows of a binary image: 64 bits each, with whether a byte is bad. -/
def bitRows (l : List (Byte × Bool)) : List (Nat × Bool) :=
  (chunks 8 64 l).map fun r => (leNat (r.map (·.1)), r.any (·.2))
/-- The columns of a weight slot read as bits (R183): a bit is poison when the element that contains it is. -/
def WSlot.bitCols (w : WSlot) : List (Nat × Bool) :=
  let bytes := smDense 0 512 0 w.image
  (chunks 8 64 bytes).zipIdx.map fun p =>
    let bad := match w.fmt with
      | some c =>
        let lo := 64 * p.2 / (matTy c).w
        (List.range ((64 * p.2 + 63) / (matTy c).w - lo + 1)).any fun i => w.side.getLsbD (lo + i)
      | none => false
    (leNat p.1, bad)
/-- The elements of an MMAB's result. -/
def mmabElems (and_ : Bool) (acc : List Elem) (rows cols : List (Nat × Bool)) : List Elem :=
  let pairs := rows.flatMap fun a => cols.map fun b => (a, b)
  (acc.zip pairs).map fun p =>
    let (e, a, b) := p
    if TileFmt.int32.elemBad e || a.2 || b.2 then TileFmt.int32.bad
    else codeElem ((e.bits.toNat + popcount 64 (if and_ then Nat.land a.1 b.1 else Nat.xor a.1 b.1)) % 2 ^ 32)
/-- MMAB (R183). -/
def execMmab (d a : Reg) (n f : BitVec 1) (w : BitVec 2) (s : State) : Out :=
  let new := n = 1
  let t := s.ctx.chained (tileIx d)
  let check (s : State) (k : SlotOut) : SlotOut := s.matLimits [d] [w] (s.mmaChecks d new .int32 k)
  s.taskOnly (s.withImage a 512 check fun s l =>
    let s := s.deliver w 1
    match l with
    | none => s.putTile 12 d (badTile .int32 t.scale) 0 true
    | some l =>
      s.putTile 12 d (.tile (Tile.ofDense .int32 t.scale
        (mmabElems (f = 1) (accOf t new) (bitRows l) (s.ctx.mat.w[fin2 w]).bitCols))) 0 true)

/-! ## Tile moves -/

/-- DZERO (R184): format and scale are kept as they stand when it lands. -/
def execDzero (d : Reg) (s : State) : Out := s.taskOnly (s.matLimits [d] [] (s.matRoom d (s.putTile 2 d .tileZero)))
/-- DMOV (R184). -/
def execDmov (d a : Reg) (s : State) : Out :=
  s.taskOnly (s.matLimits [d, a] [] (s.matSource a fun t => s.matRoom d (s.putTile 4 d (.tile t))))
/-- An element of DADD. -/
def daddElem (f : TileFmt) (x y : Elem) : Elem × BitVec 7 :=
  if f.elemBad x || f.elemBad y then (f.bad, 0)
  else
    match f.fp? with
    | some g => let r := g.addV .rn (g.unpack x.bits.toNat) (g.unpack y.bits.toNat); (codeElem r.1, r.2)
    | none =>
      if f = .fx96 then (fxElem (x.pair + y.pair) (x.nan || y.nan), 0)
      else (codeElem ((x.bits.toNat + y.bits.toNat) % 2 ^ 32), 0)
/-- DADD (R184). -/
def execDadd (d a b : Reg) (s : State) : Out :=
  s.taskOnly (s.matLimits [d, a, b] [] (s.matSource a fun t => s.matSource b fun u =>
    if t.fmt ≠ u.fmt || (t.fmt = .fx96 && t.scale ≠ u.scale) then s.matTrap 3 d
    else s.matRoom d
      (let r := (t.dense.zip u.dense).map fun p => daddElem t.fmt p.1 p.2
       s.putTile 6 d (.tile (Tile.ofDense t.fmt t.scale (r.map (·.1)))) (orFlags r))))
/-- DSCL (R185): it rescales an FX96 tile; of any other it changes the scale field alone. -/
def execDscl (d : Reg) (i : BitVec 8) (s : State) : Out :=
  let t := s.ctx.chained (tileIx d)
  s.taskOnly (s.matLimits [d] [] (s.matRoom d
    (if t.fmt = .fx96 then
      let r := t.dense.map fun e => if e.side then (e, 0) else fxRescale t.exp i.toInt e
      s.putTile 2 d (.tile (Tile.ofDense .fx96 i (r.map (·.1)))) (orFlags r)
    else s.putTile 2 d (.tileScale i))))

/-- The destination format of DCVT. -/
def dcvtFmt (f : BitVec 4) : TileFmt := if f = 0 then .fp32 else if f = 1 then .fx96 else if f = 2 then .bf16 else .fp16
/-- An element of DCVT from a tile to a format at a scale (R186). -/
def dcvtElem (src : Tile) (dst : TileFmt) (scale : Int) (mode : RMode) (e : Elem) : Elem × BitVec 7 :=
  if src.fmt.elemBad e then (dst.bad, 0)
  else
    let int : FVal := .fin ((BitVec.ofNat 32 e.bits.toNat).toInt < 0) (BitVec.ofNat 32 e.bits.toNat).toInt.natAbs 0
    match src.fmt.fp?, dst.fp? with
    | some f, some g =>
      if src.fmt = dst then (e, 0) else let r := g.ofVal mode (f.unpack e.bits.toNat); (codeElem r.1, r.2)
    | some f, none => fxAdd scale Elem.zero (f.unpack e.bits.toNat)
    | none, some g =>
      let r := if src.fmt = .fx96 then fxOut g mode src.exp e else g.ofVal mode int
      (codeElem r.1, r.2)
    | none, none => if src.fmt = .fx96 then fxRescale src.exp scale e else fxAdd scale Elem.zero int
/-- DCVT (R186). -/
def execDcvt (d a : Reg) (r : BitVec 2) (f : BitVec 4) (s : State) : Out :=
  let c := s.ctx.chained (tileIx d)
  s.taskOnly (s.matLimits [d, a] [] (s.matSource a fun t => s.matRoom d
    (let l := t.dense.map (dcvtElem t (dcvtFmt f) c.exp (rmode r))
     s.putTile 8 d (.tile (Tile.ofDense (dcvtFmt f) c.scale (l.map (·.1)))) (orFlags l))))

/-! ## DRD, DWR, MSTAT, MOVM -/

/-- The value that DRD returns of an element (R187). -/
def drdVal (f : TileFmt) (part : BitVec 2) (e : Elem) : BitVec 64 :=
  match f with
  | .fx96 =>
    if part = 0 then e.bits.extractLsb' 0 64
    else if part = 1 then (e.bits.extractLsb' 96 16).signExtend 32 ++ e.bits.extractLsb' 64 32
    else if part = 2 then (BitVec.ofBool e.nan).setWidth 64
    else 0
  | .int32 => (e.bits.setWidth 32).signExtend 64
  | _ => e.bits.setWidth 64
/-- DRD (R187). -/
def execDrd (d a b : Reg) (s : State) : Out :=
  let x := s.thr.readD b
  s.taskOnly (s.needs [(b, x)] (s.matLimits [a] [] (s.matSource a fun t =>
    let e := smGet Elem.zero (x.val.extractLsb' 0 12).toNat t.elems
    s.putD 4 d (if x.poison then .bad
      else ⟨drdVal t.fmt (x.val.extractLsb' 12 2) e, if e.side then 2 else 0⟩))))
/-- The element that DWR leaves of an old one (R187). -/
def dwrElem (f : TileFmt) (part : BitVec 2) (v : BitVec 64) (e : Elem) : Elem :=
  match f with
  | .fx96 =>
    if part = 0 then { e with bits := e.bits.extractLsb' 64 48 ++ v, side := false }
    else if part = 1 then { e with bits := v.extractLsb' 0 48 ++ e.bits.extractLsb' 0 64, side := false }
    else if part = 2 then { e with nan := v.getLsbD 0, side := false }
    else e
  | .fp32 | .int32 => ⟨(v.setWidth 32).setWidth 112, false, false⟩
  | _ => ⟨(v.setWidth 16).setWidth 112, false, false⟩
/-- DWR (R187). Part 3 of an FX96 element changes nothing, a poison value included (log 24). -/
def execDwr (d a b : Reg) (s : State) : Out :=
  let x := s.thr.readD a
  let v := s.thr.readD b
  s.taskOnly (s.needs [(a, x), (b, v)] (s.matLimits [d] [] (s.matRoom d
    (let t := s.ctx.chained (tileIx d)
     let i := (x.val.extractLsb' 0 12).toNat
     let part := x.val.extractLsb' 12 2
     let e := smGet Elem.zero i t.elems
     if x.poison then s.putTile 4 d .tileBad
     else
      s.putTile 4 d (.tilePart
        [(i, if v.poison && !(t.fmt = .fx96 && part = 3) then t.fmt.bad else dwrElem t.fmt part v.val e)])))))

/-- The status words of MSTAT (R188). -/
def Ctx.matStatus (c : Ctx) (n : BitVec 4) : BitVec 64 :=
  let join (w k : Nat) (f : Nat → Nat) : BitVec 64 :=
    BitVec.ofNat 64 ((List.range k).foldr (fun i acc => f i + 2 ^ w * acc) 0)
  if n = 0 then
    (BitVec.ofNat 3 (c.task.landing.filter (·.matrix)).length ++ c.mat.latchB ++ c.mat.latchA).setWidth 64
  else if n = 1 then join 4 8 fun i => (c.mat.d[(fin3 (BitVec.ofNat 3 i))]).fmt.num.toNat
  else if n = 2 then join 8 8 fun i => (c.mat.d[(fin3 (BitVec.ofNat 3 i))]).scale.toNat
  else join 4 4 fun i => (((c.mat.w[(fin2 (BitVec.ofNat 2 i))]).fmt).getD 0xF).toNat
/-- MSTAT (R188). -/
def execMstat (d : Reg) (n : BitVec 4) (s : State) : Out := s.taskOnly (s.putD 2 d (.clean (s.ctx.matStatus n)))
/-- MOVM write form of slot D (R71, R36). -/
def execMovmWriteD (r : Reg) (n : BitVec 6) (s : State) : Out :=
  s.taskOnly (SlotOut.done (s.land 2 (.m ⟨n.toNat, n.isLt⟩) (.scalar (s.thr.readD r))))

end Sys2Proof.Machine
end

