-- ==== Sys2Proof/Machine/ScalarAlu.lean ====
section
/-!
DEFINITION. Slot A's integer, logic, shift, bitfield, compare, select and tag instructions (R125-R132). One definition per
instruction.
-/

namespace Sys2Proof.Machine

/-- ADD (R125). -/
def execAdd (d a b : Reg) (s : State) : Out := (s.intA2 1 d a b fun x y => x + y).out
/-- SUB (R125). -/
def execSub (d a b : Reg) (s : State) : Out := (s.intA2 1 d a b fun x y => x - y).out
/-- AND (R125). -/
def execAnd (d a b : Reg) (s : State) : Out := (s.intA2 1 d a b fun x y => x &&& y).out
/-- OR (R125). -/
def execOr (d a b : Reg) (s : State) : Out := (s.intA2 1 d a b fun x y => x ||| y).out
/-- XOR (R125). -/
def execXor (d a b : Reg) (s : State) : Out := (s.intA2 1 d a b fun x y => x ^^^ y).out
/-- ANDN (R125). -/
def execAndn (d a b : Reg) (s : State) : Out := (s.intA2 1 d a b fun x y => x &&& ~~~y).out

/-- A shift amount: bits 5:0 (R125). -/
def shAmt (y : BitVec 64) : Nat := (y.extractLsb' 0 6).toNat
/-- SHL (R125). -/
def execShl (d a b : Reg) (s : State) : Out := (s.intA2 1 d a b fun x y => x <<< shAmt y).out
/-- SHR (R125). -/
def execShr (d a b : Reg) (s : State) : Out := (s.intA2 1 d a b fun x y => x >>> shAmt y).out
/-- SRA (R125). -/
def execSra (d a b : Reg) (s : State) : Out := (s.intA2 1 d a b fun x y => x.sshiftRight (shAmt y)).out
/-- ROTR (R125). -/
def execRotr (d a b : Reg) (s : State) : Out := (s.intA2 1 d a b fun x y => x.rotateRight (shAmt y)).out
/-- MIN (R125). -/
def execMin (d a b : Reg) (s : State) : Out := (s.intA2 1 d a b fun x y => if x.sle y then x else y).out
/-- MAX (R125). -/
def execMax (d a b : Reg) (s : State) : Out := (s.intA2 1 d a b fun x y => if x.sle y then y else x).out
/-- MINU (R125). -/
def execMinu (d a b : Reg) (s : State) : Out := (s.intA2 1 d a b fun x y => if x.ule y then x else y).out
/-- MAXU (R125). -/
def execMaxu (d a b : Reg) (s : State) : Out := (s.intA2 1 d a b fun x y => if x.ule y then y else x).out

/-- MUL (R126). -/
def execMul (d a b : Reg) (s : State) : Out := (s.intA2 3 d a b fun x y => x * y).out
/-- Bits 127:64 of a product. -/
def highHalf (p : BitVec 128) : BitVec 64 := p.extractLsb' 64 64
/-- MULH (R126). -/
def execMulh (d a b : Reg) (s : State) : Out :=
  (s.intA2 3 d a b fun x y => highHalf (x.signExtend 128 * y.signExtend 128)).out
/-- MULHU (R126). -/
def execMulhu (d a b : Reg) (s : State) : Out :=
  (s.intA2 3 d a b fun x y => highHalf (x.setWidth 128 * y.setWidth 128)).out

/-! ## Immediates (R127) -/

/-- ADDI. -/
def execAddi (d r : Reg) (i : BitVec 16) (s : State) : Out := (s.intA1 1 d r fun x => x + i.signExtend 64).out
/-- ANDI. -/
def execAndi (d r : Reg) (i : BitVec 16) (s : State) : Out := (s.intA1 1 d r fun x => x &&& i.setWidth 64).out
/-- ORI. -/
def execOri (d r : Reg) (i : BitVec 16) (s : State) : Out := (s.intA1 1 d r fun x => x ||| i.setWidth 64).out
/-- XORI. -/
def execXori (d r : Reg) (i : BitVec 16) (s : State) : Out := (s.intA1 1 d r fun x => x ^^^ i.setWidth 64).out
/-- SHLI. -/
def execShli (d r : Reg) (n : BitVec 6) (s : State) : Out := (s.intA1 1 d r fun x => x <<< n.toNat).out
/-- SHRI. -/
def execShri (d r : Reg) (n : BitVec 6) (s : State) : Out := (s.intA1 1 d r fun x => x >>> n.toNat).out
/-- SRAI. -/
def execSrai (d r : Reg) (n : BitVec 6) (s : State) : Out := (s.intA1 1 d r fun x => x.sshiftRight n.toNat).out
/-- ROTRI. -/
def execRotri (d r : Reg) (n : BitVec 6) (s : State) : Out := (s.intA1 1 d r fun x => x.rotateRight n.toNat).out
/-- LI. -/
def execLi (d : Reg) (i : BitVec 16) (s : State) : Out := (s.putA 1 d (.clean (i.signExtend 64))).out
/-- LIU. -/
def execLiu (d r : Reg) (i : BitVec 16) (s : State) : Out := (s.intA1 1 d r fun x => x.extractLsb' 0 48 ++ i).out

/-! ## Bitfields (R128, R129) -/

/-- A mask of the `n` low bits. -/
def lowMask (n : Nat) : BitVec 64 := BitVec.ofNat 64 (2 ^ n - 1)
/-- The field of `w1 + 1` bits at `pos`; bits above 63 read as 0. -/
def extField (x : BitVec 64) (w1 pos : Nat) : BitVec 64 := (x >>> pos) &&& lowMask (w1 + 1)
/-- The field, sign-extended from its bit `w1`. -/
def extSigned (x : BitVec 64) (w1 pos : Nat) : BitVec 64 :=
  let f := extField x w1 pos
  if f.getLsbD w1 then f ||| ~~~(lowMask (w1 + 1)) else f
/-- Insert the `w1 + 1` low bits of `x` into `z` at `pos`. -/
def insField (x z : BitVec 64) (w1 pos : Nat) : BitVec 64 :=
  let m := lowMask (w1 + 1) <<< pos
  (z &&& ~~~m) ||| ((x <<< pos) &&& m)
/-- The width minus 1 in srcB (R128). -/
def fieldW (y : BitVec 64) : Nat := (y.extractLsb' 8 6).toNat

/-- EXT. -/
def execExt (d a b : Reg) (s : State) : Out := (s.intA2 1 d a b fun x y => extSigned x (fieldW y) (shAmt y)).out
/-- EXTU. -/
def execExtu (d a b : Reg) (s : State) : Out := (s.intA2 1 d a b fun x y => extField x (fieldW y) (shAmt y)).out
/-- INS. -/
def execIns (d a b : Reg) (s : State) : Out := (s.intA3 1 d a b fun x y z => insField x z (fieldW y) (shAmt y)).out
/-- EXTI. -/
def execExti (d r : Reg) (w p : BitVec 6) (s : State) : Out := (s.intA1 1 d r fun x => extSigned x w.toNat p.toNat).out
/-- EXTUI. -/
def execExtui (d r : Reg) (w p : BitVec 6) (s : State) : Out := (s.intA1 1 d r fun x => extField x w.toNat p.toNat).out
/-- INSI: its dst is read as a source. -/
def execInsi (d r : Reg) (w p : BitVec 6) (s : State) : Out :=
  (s.intA2 1 d r d fun x z => insField x z w.toNat p.toNat).out

/-- The number of zero bits above the highest one; 64 for zero. -/
def clz64 (x : BitVec 64) : Nat := if x = 0 then 64 else 63 - x.toNat.log2
/-- The number of zero bits below the lowest one; 64 for zero. -/
def ctz64 (x : BitVec 64) : Nat := (lowLane x).getD 64
/-- The number of bits that are one. -/
def popc64 (x : BitVec 64) : Nat := ((List.range 64).filter fun i => x.getLsbD i).length
/-- Bit i moves to bit 63 − i. -/
def brev64 (x : BitVec 64) : BitVec 64 :=
  (List.range 64).foldl (fun r i => if x.getLsbD i then r ||| (1#64 <<< (63 - i)) else r) 0

/-- CLZ. -/
def execClz (d a : Reg) (s : State) : Out := (s.intA1 1 d a fun x => BitVec.ofNat 64 (clz64 x)).out
/-- CTZ. -/
def execCtz (d a : Reg) (s : State) : Out := (s.intA1 1 d a fun x => BitVec.ofNat 64 (ctz64 x)).out
/-- POPC. -/
def execPopc (d a : Reg) (s : State) : Out := (s.intA1 1 d a fun x => BitVec.ofNat 64 (popc64 x)).out
/-- BREV. -/
def execBrev (d a : Reg) (s : State) : Out := (s.intA1 1 d a brev64).out

/-! ## Compare, select, tags (R130-R132) -/

/-- 1 or 0. -/
def bit (p : Bool) : BitVec 64 := if p then 1 else 0
/-- CMPEQ. -/
def execCmpeq (d a b : Reg) (s : State) : Out := (s.intA2 1 d a b fun x y => bit (x == y)).out
/-- CMPNE. -/
def execCmpne (d a b : Reg) (s : State) : Out := (s.intA2 1 d a b fun x y => bit (x != y)).out
/-- CMPLT. -/
def execCmplt (d a b : Reg) (s : State) : Out := (s.intA2 1 d a b fun x y => bit (x.slt y)).out
/-- CMPLE. -/
def execCmple (d a b : Reg) (s : State) : Out := (s.intA2 1 d a b fun x y => bit (x.sle y)).out
/-- CMPLTU. -/
def execCmpltu (d a b : Reg) (s : State) : Out := (s.intA2 1 d a b fun x y => bit (x.ult y)).out
/-- CMPLEU. -/
def execCmpleu (d a b : Reg) (s : State) : Out := (s.intA2 1 d a b fun x y => bit (x.ule y)).out

/-- SEL (R131): the chosen source's value and tag; a poison condition makes the result poison; poison in the source not
chosen has no effect. -/
def execSel (d a b : Reg) (s : State) : Out :=
  let c := s.thr.readA d
  let v := if c.val ≠ 0 then s.thr.readA a else s.thr.readA b
  (s.needs [s.srcA a, s.srcA b, (d, c)] (s.putA 1 d (if c.poison then .bad else v))).out

/-- TAGP (R132). -/
def execTagp (d a : Reg) (s : State) : Out :=
  (s.needs [s.srcA a] (s.putA 1 d (.clean ((s.thr.readA a).tag.setWidth 64)))).out
/-- TAGC (R132). -/
def execTagc (d a : Reg) (s : State) : Out :=
  (s.needs [s.srcA a] (s.putA 1 d (.clean (s.thr.readA a).val))).out

end Sys2Proof.Machine
end

