-- ==== Sys2Proof/Machine/ScalarFloat.lean ====
section
/-!
DEFINITION. Slot A's FP32 and FP64 arithmetic and conversions (R133, R134). One definition per instruction; each names its
format and calls the form's shared text.
-/

namespace Sys2Proof.Machine

/-- FADD, FSUB, FMUL, FMA of a format under a rounding mode (R133). -/
def fAdd (f : FFmt) (d a b : Reg) (r : BitVec 2) (s : State) : Out := (s.fpA2 f d a b (f.addV (rmode r))).out
/-- x − y. -/
def fSub (f : FFmt) (d a b : Reg) (r : BitVec 2) (s : State) : Out :=
  (s.fpA2 f d a b fun x y => f.addV (rmode r) x y.neg).out
/-- x × y. -/
def fMul (f : FFmt) (d a b : Reg) (r : BitVec 2) (s : State) : Out := (s.fpA2 f d a b (f.mulV (rmode r))).out
/-- dst + x × y. -/
def fFma (f : FFmt) (d a b : Reg) (r : BitVec 2) (s : State) : Out :=
  (s.fpA3 f d a b fun x y z => f.fmaV (rmode r) z x y).out

/-- The code of a source. -/
def FFmt.code (f : FFmt) (v : TVal) : Nat := v.val.toNat % 2 ^ f.width
/-- FMIN and FMAX: no flags. -/
def fMinMax (f : FFmt) (greater : Bool) (d a b : Reg) (s : State) : Out :=
  (s.fpA2 f d a b fun _ _ => (f.minmax greater (f.code (s.thr.readA a)) (f.code (s.thr.readA b)), 0)).out
/-- FABS: the sign bit cleared. -/
def fAbs (f : FFmt) (d a : Reg) (s : State) : Out := (s.fpA1 f d a fun x => (x % 2 ^ (f.width - 1), 0)).out
/-- FNEG: the sign bit inverted. -/
def fNeg (f : FFmt) (d a : Reg) (s : State) : Out :=
  (s.fpA1 f d a fun x => (if f.signBit x then x - 2 ^ (f.width - 1) else x + 2 ^ (f.width - 1), 0)).out

/-- FADD.S. -/
def execFaddS (d a b : Reg) (r : BitVec 2) (s : State) : Out := fAdd fp32 d a b r s
/-- FSUB.S. -/
def execFsubS (d a b : Reg) (r : BitVec 2) (s : State) : Out := fSub fp32 d a b r s
/-- FMUL.S. -/
def execFmulS (d a b : Reg) (r : BitVec 2) (s : State) : Out := fMul fp32 d a b r s
/-- FMA.S. -/
def execFmaS (d a b : Reg) (r : BitVec 2) (s : State) : Out := fFma fp32 d a b r s
/-- FMIN.S. -/
def execFminS (d a b : Reg) (s : State) : Out := fMinMax fp32 false d a b s
/-- FMAX.S. -/
def execFmaxS (d a b : Reg) (s : State) : Out := fMinMax fp32 true d a b s
/-- FABS.S. -/
def execFabsS (d a : Reg) (s : State) : Out := fAbs fp32 d a s
/-- FNEG.S. -/
def execFnegS (d a : Reg) (s : State) : Out := fNeg fp32 d a s

/-- x = y; a NaN equals nothing. -/
def relEq (x y : FVal) : Bool := !x.isNan && !y.isNan && x.eq y
/-- x < y. -/
def relLt (x y : FVal) : Bool := !x.isNan && !y.isNan && x.lt y
/-- x ≤ y. -/
def relLe (x y : FVal) : Bool := !x.isNan && !y.isNan && (x.lt y || x.eq y)
/-- Either is a NaN. -/
def relUn (x y : FVal) : Bool := x.isNan || y.isNan

/-- FCMPEQ.S. -/
def execFcmpeqS (d a b : Reg) (s : State) : Out := (s.fpCmp fp32 d a b false relEq).out
/-- FCMPLT.S. -/
def execFcmpltS (d a b : Reg) (s : State) : Out := (s.fpCmp fp32 d a b true relLt).out
/-- FCMPLE.S. -/
def execFcmpleS (d a b : Reg) (s : State) : Out := (s.fpCmp fp32 d a b true relLe).out
/-- FCMPUN.S. -/
def execFcmpunS (d a b : Reg) (s : State) : Out := (s.fpCmp fp32 d a b false relUn).out

/-- FADD.D. -/
def execFaddD (d a b : Reg) (r : BitVec 2) (s : State) : Out := fAdd fp64 d a b r s
/-- FSUB.D. -/
def execFsubD (d a b : Reg) (r : BitVec 2) (s : State) : Out := fSub fp64 d a b r s
/-- FMUL.D. -/
def execFmulD (d a b : Reg) (r : BitVec 2) (s : State) : Out := fMul fp64 d a b r s
/-- FMA.D. -/
def execFmaD (d a b : Reg) (r : BitVec 2) (s : State) : Out := fFma fp64 d a b r s
/-- FMIN.D. -/
def execFminD (d a b : Reg) (s : State) : Out := fMinMax fp64 false d a b s
/-- FMAX.D. -/
def execFmaxD (d a b : Reg) (s : State) : Out := fMinMax fp64 true d a b s
/-- FABS.D. -/
def execFabsD (d a : Reg) (s : State) : Out := fAbs fp64 d a s
/-- FNEG.D. -/
def execFnegD (d a : Reg) (s : State) : Out := fNeg fp64 d a s
/-- FCMPEQ.D. -/
def execFcmpeqD (d a b : Reg) (s : State) : Out := (s.fpCmp fp64 d a b false relEq).out
/-- FCMPLT.D. -/
def execFcmpltD (d a b : Reg) (s : State) : Out := (s.fpCmp fp64 d a b true relLt).out
/-- FCMPLE.D. -/
def execFcmpleD (d a b : Reg) (s : State) : Out := (s.fpCmp fp64 d a b true relLe).out
/-- FCMPUN.D. -/
def execFcmpunD (d a b : Reg) (s : State) : Out := (s.fpCmp fp64 d a b false relUn).out

/-! ## FCVT (R134) -/

/-- The float format of an FCVT code 4 to 7. -/
def cvtFloat (c : BitVec 4) : FFmt := if c = 4 then fp32 else if c = 5 then fp64 else if c = 6 then fp16 else bf16
/-- Whether a code names an integer format: 0 INT32, 1 UINT32, 2 INT64, 3 UINT64. -/
def cvtInt (c : BitVec 4) : Bool := decide (c.toNat < 4)
/-- The width of an integer code. -/
def cvtWidth (c : BitVec 4) : Nat := if c.toNat < 2 then 32 else 64
/-- Whether an integer code is signed. -/
def cvtSigned (c : BitVec 4) : Bool := c = 0 || c = 2
/-- The integer that a source register holds in an integer code. -/
def cvtRead (c : BitVec 4) (x : BitVec 64) : Int :=
  if c = 0 then (x.setWidth 32).toInt else if c = 1 then (x.setWidth 32).toNat else if c = 2 then x.toInt else x.toNat

/-- The result of FCVT with destination code `t`, source code `c`, mode `r` (R123, R134). -/
def cvtResult (t c : BitVec 4) (r : BitVec 2) (x : TVal) : TVal × BitVec 7 :=
  if cvtInt t then
    let v := (cvtFloat c).source x
    if v.isPoison then (.bad, 0)
    else
      let i := toInteger (cvtWidth t) (cvtSigned t) (rmode r) v
      (.clean (BitVec.ofInt 64 i.1), i.2)
  else
    let f := cvtFloat t
    if cvtInt c then f.result x.poison (f.ofInt (rmode r) (cvtRead c x.val))
    else
      let v := (cvtFloat c).source x
      f.result v.isPoison (f.ofVal (rmode r) v)
/-- FCVT: L is 6 where either format is FP64, else 4 (R124). -/
def execFcvt (d a : Reg) (r : BitVec 2) (t c : BitVec 4) (s : State) : Out :=
  let x := s.thr.readA a
  let v := cvtResult t c r x
  (s.needs [(a, x)] (s.putA (if t = 5 || c = 5 then 6 else 4) d v.1 v.2)).out

end Sys2Proof.Machine
end

