-- ==== Sys2Proof/Machine/System.lean ====
section
/-!
DEFINITION. Slot A's system instructions: TRAP and SVC (R433), RFT and HALT (R434), the CSR forms with every register of R436,
SEGBEG and SEGEND (R195, R196).
-/

namespace Sys2Proof.Machine

/-! ## TRAP, SVC, RFT, HALT -/

/-- TRAP (R433): its slot commits, then cause 0x16 is raised with SRES naming slot B. -/
def execTrap (i : BitVec 16) (s : State) : Out := .next (s.trapAt 1 0x16 (i.setWidth 64))
/-- SVC (R433): as TRAP with cause 0x17. -/
def execSvc (i : BitVec 16) (s : State) : Out := .next (s.trapAt 1 0x17 (i.setWidth 64))

/-- The privilege trap: its detail is the slot word (R426). -/
def State.privilege (s : State) : SlotOut := .trap s 0x02 (s.thr.wordNow.setWidth 64)
/-- Note how the handler ends once its bundle has committed (R434). -/
def State.leave (s : State) (how : BitVec 2) : State :=
  s.onThr fun t => { t with leave := how }
/-- RFT (R434): legal only in the handler, which ends when its bundle has committed. -/
def execRft (s : State) : Out := (if s.ctx.inHandler then SlotOut.done (s.leave 1) else s.privilege).out
/-- HALT (R434): the handler ends and the task is lost. -/
def execHalt (s : State) : Out := (if s.ctx.inHandler then SlotOut.done (s.leave 2) else s.privilege).out

/-! ## CSR forms (R435, R436) -/

/-- The task register that regsel selects, if its file and index exist (R432). -/
def Ctx.selected (c : Ctx) : Option (LDest × TVal) :=
  let ix := (c.csr.regsel.extractLsb' 0 6).toNat
  let file := c.csr.regsel.extractLsb' 8 2
  if file = 2 then (if h : ix < 64 then some (.m ⟨ix, h⟩, c.task.m[ix]) else none)
  else if h : ix < 16 then
    (if file = 0 then some (.a ⟨ix, h⟩, c.task.a[ix]) else if file = 1 then some (.b ⟨ix, h⟩, c.task.b[ix]) else none)
  else none
/-- Write the selected task register; it enters no last-result file. -/
def Ctx.setSelected (c : Ctx) (v : TVal) : Ctx :=
  match c.selected with
  | some (.a r, _) => { c with task := { c.task with a := c.task.a.set r v } }
  | some (.b r, _) => { c with task := { c.task with b := c.task.b.set r v } }
  | some (.m r, _) => { c with task := { c.task with m := c.task.m.set r v } }
  | _ => c
/-- Whether the selected register has a scoreboarded write outstanding (R432, R42). -/
def Ctx.selectedBusy (c : Ctx) : Bool :=
  match c.selected with
  | some (.b r, _) => c.task.board.any fun p => p.dest = .b r
  | _ => false

/-- R(n): the value of a register of R436. -/
def State.csrRead (s : State) (n : BitVec 12) : BitVec 64 :=
  let c := s.ctx
  let k := s.core s.cur
  let g := groveOf s.cur
  match n.toNat with
  | 0x000 => c.tsw
  | 0x001 => c.csr.tpc.setWidth 64
  | 0x002 => c.csr.tdet
  | 0x003 => c.csr.regsel
  | 0x004 => ((c.selected.map fun p => p.2.val)).getD 0
  | 0x005 => ((c.selected.map fun p => p.2.tag.setWidth 64)).getD 0
  | 0x010 => c.task.btime
  | 0x011 => c.csr.arflags.setWidth 64
  | 0x012 => c.csr.srseed.setWidth 64
  | 0x013 => c.csr.srstate.setWidth 64
  | 0x014 => c.csr.segstat
  | 0x015 => c.csr.segCrc.setWidth 64
  | 0x016 => c.csr.mcstat
  | 0x017 => c.csr.phqres
  | 0x018 => c.lease.stat
  | 0x100 => (k.bankloss[(0 : Fin 4)]).setWidth 64
  | 0x101 => (k.bankloss[(1 : Fin 4)]).setWidth 64
  | 0x102 => (k.bankloss[(2 : Fin 4)]).setWidth 64
  | 0x103 => (k.bankloss[(3 : Fin 4)]).setWidth 64
  | 0x104 => s.cur.setWidth 64 ||| (c.part.setWidth 64 <<< 8)
  | 0x200 => (s.grove g).droopctl.setWidth 64
  | 0x300 => (s.die (dieOf s.cur)).memrowa.setWidth 64
  | 0x301 => (s.die (dieOf s.cur)).memrowb.setWidth 64
  | 0x302 => (s.die (dieOf s.cur)).acktmo.setWidth 64
  | _ => 0

/-- An access that the columns of R436 mark "—" at the level of the running context. -/
def State.csrForbidden (s : State) (n : BitVec 12) : Bool :=
  !s.ctx.inHandler && (decide (n.toNat ≤ 5) || decide (0x200 ≤ n.toNat))

/-- Whether a partition holds every grove of a die (R436). -/
def State.holdsDie (s : State) (p : PartNum) (d : BitVec 2) : Bool :=
  (List.range 4).all fun i => s.grovePart (d ++ BitVec.ofNat 2 i) = some p

/-- How a CSR form writes (R435). -/
inductive CsrOp where
  | wr | set | clr
  deriving DecidableEq, Repr

/-- The new value of an RW field. -/
def CsrOp.rw (op : CsrOp) (old x : BitVec 64) : BitVec 64 :=
  match op with
  | .wr => x
  | .set => old ||| x
  | .clr => old &&& ~~~x
/-- The bits of a W1C field that the form clears: those that are 1 in src, none under CSRSET. -/
def CsrOp.clears (op : CsrOp) (x : BitVec 64) : BitVec 64 :=
  match op with
  | .set => 0
  | _ => x

/-- Write a loss counter, at supervisor level (R38). -/
def State.setBankloss (s : State) (i : Fin 4) (v : BitVec 64) : State :=
  if s.ctx.inHandler then s.onCore s.cur fun k => { k with bankloss := k.bankloss.set i (v.setWidth 32) } else s
/-- Write a register of the die, ignored unless the partition holds the whole die (R436). -/
def State.onOwnDie (s : State) (f : Die → Die) : State :=
  if s.holdsDie s.ctx.part (dieOf s.cur) then s.onDie (dieOf s.cur) f else s
/-- acktmo.TMO: a write of 0 stores 1 (R230). -/
def tmoOf (v : BitVec 64) : BitVec 32 := if v.extractLsb' 0 20 = 0 then 1 else (v.extractLsb' 0 20).setWidth 32
/-- srstate: a write of 0 stores 1 (R113). -/
def stateOf (v : BitVec 64) : BitVec 32 := if v.setWidth 32 = 0#32 then 1 else v.setWidth 32
/-- Write srstate: the task's own write acts for later bundles, the handler's at once (R113, R436). -/
def Csrs.writeSr (r : Csrs) (handler : Bool) (v : BitVec 32) : Csrs :=
  if handler then { r with srstate := v, srPend := none } else { r with srPend := some v }

/-- W(n, x) under a form: each field by its access code (R8, R435, R436). -/
def State.csrWrite (s : State) (op : CsrOp) (n : BitVec 12) (x : BitVec 64) : State :=
  let v := op.rw (s.csrRead n) x
  let z := op.clears x
  let onCsr (f : Csrs → Csrs) : State := s.onCtx fun c => { c with csr := f c.csr }
  match n.toNat with
  | 0x000 => onCsr fun r => { r with sres := v.extractLsb' 54 2 }
  | 0x001 => s.onCtx fun c => { c with
      csr := { c.csr with tpc := v.extractLsb' 0 52, sres := 0 }
      task := { c.task with redirects := [], taken := none } }
  | 0x003 => onCsr fun r => { r with regsel := v &&& 0x33F }
  | 0x004 => s.onCtx fun c => c.setSelected (.clean v)
  | 0x005 => s.onCtx fun c => c.setSelected ⟨((c.selected.map fun p => p.2.val)).getD 0, v.extractLsb' 0 2⟩
  | 0x011 => onCsr fun r => { r with arflags := r.arflags &&& (~~~(z.setWidth 7) ||| r.fresh) }
  | 0x012 => onCsr fun r => { r with srseed := v.setWidth 32 }
  | 0x013 => onCsr fun r => r.writeSr s.ctx.inHandler (stateOf v)
  | 0x016 => onCsr fun r => { r with mcAny := r.mcAny && !z.getLsbD 16 }
  | 0x100 => s.setBankloss 0 v
  | 0x101 => s.setBankloss 1 v
  | 0x102 => s.setBankloss 2 v
  | 0x103 => s.setBankloss 3 v
  | 0x200 => s.onGrove (groveOf s.cur) fun g => { g with droopctl := v.setWidth 32 &&& 0x80FF0FFF }
  | 0x300 => s.onOwnDie fun d => { d with memrowa := v.setWidth 32 &&& 0x8000FFFF }
  | 0x301 => s.onOwnDie fun d => { d with memrowb := v.setWidth 32 &&& 0x8000FFFF }
  | 0x302 => s.onOwnDie fun d => { d with acktmo := tmoOf v }
  | _ => s

/-- Whether the form reaches a register that a scoreboarded write still owns: a selected task register (R432), phqres
(R369). -/
def State.csrWaits (s : State) (n : BitVec 12) : Bool :=
  ((n = 0x004 || n = 0x005) && s.ctx.selectedBusy) || (n = 0x017 && s.ctx.task.board.any fun p => p.dest = .phqres)

/-- The forms that write: dst receives R(n), L = 1 with a clean tag, then W acts. -/
def State.csrForm (s : State) (op : CsrOp) (d r : Reg) (n : BitVec 12) : SlotOut :=
  s.needsClean 0x04 [s.srcA r]
    (if s.csrForbidden n then s.privilege
    else if s.csrWaits n then .stall s .board
    else (s.csrWrite op n (s.thr.readA r).val).putA 1 d (.clean (s.csrRead n)))

/-- CSRRD (R435). -/
def execCsrrd (d : Reg) (n : BitVec 12) (s : State) : Out :=
  (if s.csrForbidden n then s.privilege
    else if s.csrWaits n then SlotOut.stall s .board
    else s.putA 1 d (.clean (s.csrRead n))).out
/-- CSRWR (R435). -/
def execCsrwr (d r : Reg) (n : BitVec 12) (s : State) : Out := (s.csrForm .wr d r n).out
/-- CSRSET (R435). -/
def execCsrset (d r : Reg) (n : BitVec 12) (s : State) : Out := (s.csrForm .set d r n).out
/-- CSRCLR (R435). -/
def execCsrclr (d r : Reg) (n : BitVec 12) (s : State) : Out := (s.csrForm .clr d r n).out

/-! ## Segment signatures -/

/-- The segment-check trap's detail word (R197). -/
def Csrs.segDetail (r : Csrs) (reason : BitVec 7) : BitVec 64 := r.segnum ++ (0 : BitVec 9) ++ reason ++ r.segCount

/-- SEGBEG (R195). -/
def execSegbeg (i : BitVec 16) (s : State) : Out :=
  let r := s.ctx.csr
  s.taskOnly
    (if r.segOpen then .trap s 0x15 (r.segDetail 0x40)
    else .done (s.onCtx fun c => { c with csr := { c.csr with
      segOpen := true, segnum := i, segId := c.nextId, segCount := 0, segCrc := 0xFFFFFFFF } }))

/-- The reason mask of SEGEND (R196). -/
def Csrs.segReason (r : Csrs) (x y : TVal) : BitVec 7 :=
  (if r.segOpen then 0 else 0x01) |||
  (if x.poison || y.poison then 0x02 else 0) |||
  (if r.segOpen && (x.val ≠ r.segCount.setWidth 64 || r.segCount = 0xFFFFFFFF) then 0x04 else 0) |||
  (if r.segOpen && y.val ≠ (r.segCrc ^^^ 0xFFFFFFFF).setWidth 64 then 0x08 else 0) |||
  (if r.suspect then 0x10 else 0)

/-- SEGEND (R196): an ordering point (R218, R229, R230); it also waits for the segment's outstanding scoreboarded results and for the
stripes' delivery; then it closes the segment or traps. A success ends the row of consecutive traps (R201). -/
def execSegend (a b : Reg) (s : State) : Out :=
  let x := s.thr.readA a
  let y := s.thr.readA b
  let r := s.ctx.csr
  s.taskOnly (s.needs [(a, x), (b, y)] (s.orderWait.getD
    (if s.thr.board.any (fun p => r.segOpen && decide (r.segId ≤ p.id)) then .stall s .board
    else if (s.core s.cur).stripes = .delivering then .stall s .busy
    else if r.segReason x y = 0 then
      .done (s.onCtx fun c => { c with csr := { c.csr with segOpen := false }, segTraps := 0 })
    else .trap s 0x15 (r.segDetail (r.segReason x y)))))

end Sys2Proof.Machine
end

