-- ==== Sys2Proof/Machine/VecAlu.lean ====
section
/-!
DEFINITION. Slot C's arithmetic, compares, select, logic, shifts, permutes, scans, reductions and mask instructions (R149-R163).
-/

namespace Sys2Proof.Machine

/-! ## Typed arithmetic -/

/-- The first, second and third of a list of element codes. -/
def arg (l : List Nat) (i : Nat) : Nat := (l[i]?).getD 0
/-- The exposed latency of a typed form: `int` for integer types, 4 for floating-point (R147). -/
def VTy.latency (t : VTy) (int : Nat) : Nat := if t.isFp then 4 else int
/-- An integer form's element result under MODE (R150), or the floating-point one's. -/
def VTy.arith (t : VTy) (m : BitVec 2) (int : List Int → Int) (fp : FFmt → List Nat → FRes) (l : List Nat) : FRes :=
  match t with
  | .int w sgn => intResult w sgn (m = 1) (int (l.map t.toInt))
  | .fp f => fp f l
/-- An integer of a list. -/
def iarg (l : List Int) (i : Nat) : Int := (l[i]?).getD 0
/-- The value of an element code of a list. -/
def farg (f : FFmt) (l : List Nat) (i : Nat) : FVal := f.unpack (arg l i)

/-- VADD (R149). -/
def execVadd (d a b : Reg) (k : BitVec 3) (t : BitVec 4) (m : BitVec 2) (s : State) : Out :=
  let ty := VTy.of t
  s.taskOnly (s.elemForm ty (ty.latency 2) d k [a, b]
    (ty.arith m (fun l => iarg l 0 + iarg l 1) fun f l => f.addV (rmode m) (farg f l 0) (farg f l 1)))
/-- VSUB. -/
def execVsub (d a b : Reg) (k : BitVec 3) (t : BitVec 4) (m : BitVec 2) (s : State) : Out :=
  let ty := VTy.of t
  s.taskOnly (s.elemForm ty (ty.latency 2) d k [a, b]
    (ty.arith m (fun l => iarg l 0 - iarg l 1) fun f l => f.addV (rmode m) (farg f l 0) (farg f l 1).neg))
/-- VMUL. -/
def execVmul (d a b : Reg) (k : BitVec 3) (t : BitVec 4) (m : BitVec 2) (s : State) : Out :=
  let ty := VTy.of t
  s.taskOnly (s.elemForm ty 4 d k [a, b]
    (ty.arith m (fun l => iarg l 0 * iarg l 1) fun f l => f.mulV (rmode m) (farg f l 0) (farg f l 1)))
/-- VFMA: dst is read as the addend. -/
def execVfma (d a b : Reg) (k : BitVec 3) (t : BitVec 4) (m : BitVec 2) (s : State) : Out :=
  let ty := VTy.of t
  s.taskOnly (s.elemForm ty 4 d k [a, b, d]
    (ty.arith m (fun l => iarg l 2 + iarg l 0 * iarg l 1)
      fun f l => f.fmaV (rmode m) (farg f l 2) (farg f l 0) (farg f l 1)))

/-- The lesser or greater of two element codes; an integer tie gives either, they are the same code. -/
def VTy.pick (t : VTy) (greater : Bool) (x y : Nat) : Nat :=
  match t with
  | .int .. => if greater then (if t.toInt x < t.toInt y then y else x) else (if t.toInt y < t.toInt x then y else x)
  | .fp f => f.minmax greater x y
/-- VMIN. -/
def execVmin (d a b : Reg) (k : BitVec 3) (t : BitVec 4) (s : State) : Out :=
  let ty := VTy.of t
  s.taskOnly (s.elemForm ty (ty.latency 2) d k [a, b] fun l => (ty.pick false (arg l 0) (arg l 1), 0))
/-- VMAX. -/
def execVmax (d a b : Reg) (k : BitVec 3) (t : BitVec 4) (s : State) : Out :=
  let ty := VTy.of t
  s.taskOnly (s.elemForm ty (ty.latency 2) d k [a, b] fun l => (ty.pick true (arg l 0) (arg l 1), 0))
/-- VABS: an FP element's sign bit is cleared. -/
def execVabs (d a : Reg) (k : BitVec 3) (t : BitVec 4) (m : BitVec 2) (s : State) : Out :=
  let ty := VTy.of t
  s.taskOnly (s.elemForm ty (ty.latency 2) d k [a]
    (ty.arith m (fun l => (iarg l 0).natAbs) fun f l => (arg l 0 % 2 ^ (f.width - 1), 0)))
/-- VNEG: an FP element's sign bit is inverted. -/
def execVneg (d a : Reg) (k : BitVec 3) (t : BitVec 4) (m : BitVec 2) (s : State) : Out :=
  let ty := VTy.of t
  s.taskOnly (s.elemForm ty (ty.latency 2) d k [a]
    (ty.arith m (fun l => -(iarg l 0)) fun f l =>
      ((arg l 0 + 2 ^ (f.width - 1)) % 2 ^ f.width, 0)))

/-! ## Compares and select -/

/-- A relation of the compares (R151). -/
inductive VRel where
  | eq | ne | lt | le
  deriving DecidableEq, Repr

/-- The relation of two elements of a type, with its flags: a NaN makes EQ, LT and LE false and NE true, and LT and LE set
NV (R133, R151). -/
def VTy.rel (t : VTy) (r : VRel) (x y : Nat) : Bool × BitVec 7 :=
  match t with
  | .int .. =>
    let i := t.toInt x
    let j := t.toInt y
    (match r with | .eq => i = j | .ne => i ≠ j | .lt => i < j | .le => i ≤ j, 0)
  | .fp f =>
    let u := f.unpack x
    let v := f.unpack y
    let nan := u.isNan || v.isNan
    match r with
    | .eq => (!nan && u.eq v, 0)
    | .ne => (nan || !u.eq v, 0)
    | .lt => (!nan && u.lt v, if nan then flNV else 0)
    | .le => (!nan && (u.lt v || u.eq v), if nan then flNV else 0)
/-- A lane's bit of a compare: the relation holds for every element; a poison element makes it 0. -/
def VTy.laneRel (t : VTy) (r : VRel) (x y : VReg) (i : Nat) : Bool × BitVec 7 :=
  if x.poisonSide.getLsbD i || y.poisonSide.getLsbD i then (false, 0) else
  (List.range t.epl).foldl (fun acc j =>
    match t.read x i j, t.read y i j with
    | some u, some v => let q := t.rel r u v; (acc.1 && q.1, acc.2 ||| q.2)
    | _, _ => (false, acc.2)) (true, 0)
/-- The compares: the whole mask register is written (R151). -/
def State.vcmp (s : State) (r : VRel) (d a b : Reg) (k : BitVec 3) (t : BitVec 4) : SlotOut :=
  let ty := VTy.of t
  let act := s.ctx.vec.active k
  let x := s.vsrc a act
  let y := s.vsrc b act
  s.needsLanes [x, y]
    (let l := (List.range 64).map fun i => if act.getLsbD i then ty.laneRel r x.val y.val i else (false, 0)
     s.putK (ty.latency 2) d (laneMask fun i => ((l[i]?).map (·.1)).getD false) (l.foldl (fun f p => f ||| p.2) 0))
/-- VCMPEQ. -/
def execVcmpeq (d a b : Reg) (k : BitVec 3) (t : BitVec 4) (s : State) : Out := s.taskOnly (s.vcmp .eq d a b k t)
/-- VCMPNE. -/
def execVcmpne (d a b : Reg) (k : BitVec 3) (t : BitVec 4) (s : State) : Out := s.taskOnly (s.vcmp .ne d a b k t)
/-- VCMPLT. -/
def execVcmplt (d a b : Reg) (k : BitVec 3) (t : BitVec 4) (s : State) : Out := s.taskOnly (s.vcmp .lt d a b k t)
/-- VCMPLE. -/
def execVcmple (d a b : Reg) (k : BitVec 3) (t : BitVec 4) (s : State) : Out := s.taskOnly (s.vcmp .le d a b k t)

/-- VSEL (R152): the whole register; a source's lane that is not chosen has no effect. -/
def execVsel (d a b : Reg) (k : BitVec 3) (s : State) : Out :=
  let act := s.ctx.vec.active k
  let x := s.vsrc a act
  let y := s.vsrc b (~~~act)
  s.taskOnly (s.vecOut 2 d (BitVec.allOnes 64) [x, y] fun i => if act.getLsbD i then x.val.move i else y.val.move i)

/-! ## Logic and shifts -/

/-- Bitwise forms on whole lanes (R154): a poison source lane makes the lane poison. -/
def State.vlogic (s : State) (d : Reg) (k : BitVec 3) (rs : List Reg) (f : Nat → Nat → Nat) : SlotOut :=
  s.elemForm (.int 32 false) 2 d k rs fun l => (f (arg l 0) (arg l 1) % 2 ^ 32, 0)
/-- VAND. -/
def execVand (d a b : Reg) (k : BitVec 3) (s : State) : Out := s.taskOnly (s.vlogic d k [a, b] Nat.land)
/-- VOR. -/
def execVor (d a b : Reg) (k : BitVec 3) (s : State) : Out := s.taskOnly (s.vlogic d k [a, b] Nat.lor)
/-- VXOR. -/
def execVxor (d a b : Reg) (k : BitVec 3) (s : State) : Out := s.taskOnly (s.vlogic d k [a, b] Nat.xor)
/-- VANDN: x AND NOT y. -/
def execVandn (d a b : Reg) (k : BitVec 3) (s : State) : Out :=
  s.taskOnly (s.vlogic d k [a, b] fun x y => Nat.land x (2 ^ 32 - 1 - y))
/-- VNOT. -/
def execVnot (d a : Reg) (k : BitVec 3) (s : State) : Out := s.taskOnly (s.vlogic d k [a] fun x _ => 2 ^ 32 - 1 - x)

/-- The shifts (R155): each element by the low log2 w bits of the other's. -/
def State.vshift (s : State) (d a b : Reg) (k : BitVec 3) (t : BitVec 4) (f : Nat → Nat → Nat → Nat) : SlotOut :=
  let ty := VTy.of t
  s.elemForm ty 2 d k [a, b] fun l => (f ty.w (arg l 0) (arg l 1 % ty.w) % 2 ^ ty.w, 0)
/-- VSHL. -/
def execVshl (d a b : Reg) (k : BitVec 3) (t : BitVec 4) (s : State) : Out :=
  s.taskOnly (s.vshift d a b k t fun _ x n => x * 2 ^ n)
/-- VSHR: logical, whatever TY's signedness. -/
def execVshr (d a b : Reg) (k : BitVec 3) (t : BitVec 4) (s : State) : Out :=
  s.taskOnly (s.vshift d a b k t fun _ x n => x / 2 ^ n)
/-- VSRA: arithmetic, whatever TY's signedness. -/
def execVsra (d a b : Reg) (k : BitVec 3) (t : BitVec 4) (s : State) : Out :=
  s.taskOnly (s.vshift d a b k t fun w x n =>
    if x < 2 ^ (w - 1) then x / 2 ^ n else x / 2 ^ n + (2 ^ w - 2 ^ (w - n)))
/-- VROTL. -/
def execVrotl (d a b : Reg) (k : BitVec 3) (t : BitVec 4) (s : State) : Out :=
  s.taskOnly (s.vshift d a b k t fun w x n => x * 2 ^ n + x / 2 ^ (w - n))

/-! ## Permutes -/

/-- The lanes of a source that active result lanes read. -/
def readLanesOf (act : BitVec 64) (src : Nat → Option Nat) : BitVec 64 :=
  laneMask fun j => (List.range 64).any fun i => act.getLsbD i && src i == some j
/-- A permute (R159): lane `i` of the result is lane `src i` of srcA, or 0; an index lane that is poison makes it poison. -/
def State.permute (s : State) (d a : Reg) (act : BitVec 64) (ix : List VSrc) (badIx : Nat → Bool)
    (src : Nat → Option Nat) : SlotOut :=
  let src' (i : Nat) : Option Nat := if badIx i then none else src i
  let x := s.vsrc a (readLanesOf act src')
  s.needsLanes ix (s.vecOut 3 d act [x] fun i =>
    if badIx i then LaneRes.bad else match src' i with | some j => x.val.move j | none => LaneRes.of 0)
/-- A permute whose one index is lane 0 of srcB, read when a lane is active. -/
def State.permuteBy (s : State) (d a b : Reg) (k : BitVec 3) (src : Nat → Nat → Option Nat) : SlotOut :=
  let act := s.ctx.vec.active k
  let y := s.vsrc b (if act = 0 then 0 else 1)
  s.permute d a act [y] (fun _ => y.val.poisonSide.getLsbD 0) (src (y.val.lane 0).toNat)
/-- VPERM. -/
def execVperm (d a b : Reg) (k : BitVec 3) (s : State) : Out :=
  let act := s.ctx.vec.active k
  let y := s.vsrc b act
  s.taskOnly (s.permute d a act [y] (fun i => y.val.poisonSide.getLsbD i) fun i => some ((y.val.lane i).toNat % 64))
/-- VBCAST. -/
def execVbcast (d a b : Reg) (k : BitVec 3) (s : State) : Out := s.taskOnly (s.permuteBy d a b k fun v _ => some (v % 64))
/-- VSLIDEUP. -/
def execVslideup (d a b : Reg) (k : BitVec 3) (s : State) : Out :=
  s.taskOnly (s.permuteBy d a b k fun v i => if v % 128 ≤ i then some (i - v % 128) else none)
/-- VSLIDEDN. -/
def execVslidedn (d a b : Reg) (k : BitVec 3) (s : State) : Out :=
  s.taskOnly (s.permuteBy d a b k fun v i => if i + v % 128 < 64 then some (i + v % 128) else none)
/-- VREV. -/
def execVrev (d a : Reg) (k : BitVec 3) (s : State) : Out :=
  s.taskOnly (s.permute d a (s.ctx.vec.active k) [] (fun _ => false) fun i => some (63 - i))
/-- VSPLAT: a scalar position's value in every active lane. -/
def execVsplat (d a : Reg) (k : BitVec 3) (s : State) : Out :=
  s.taskOnly (s.needsScalar a false fun v =>
    s.vecOut 3 d (s.ctx.vec.active k) [] fun _ =>
      if v.poison then LaneRes.bad else LaneRes.of (v.val.setWidth 32))

/-! ## Scans and reductions -/

/-- The operation of a scan or reduction. -/
inductive VFold where
  | add | max | min | and | or | xor
  deriving DecidableEq, Repr

/-- Op on two elements (R160, R161): integer sums wrap, FP sums round to nearest. -/
def VTy.fold (t : VTy) (o : VFold) (x y : Nat) : FRes :=
  match o with
  | .add => match t with
    | .int w _ => ((x + y) % 2 ^ w, 0)
    | .fp f => f.addV .rn (f.unpack x) (f.unpack y)
  | .max => (t.pick true x y, 0)
  | .min => (t.pick false x y, 0)
  | .and => (Nat.land x y, 0)
  | .or => (Nat.lor x y, 0)
  | .xor => (Nat.xor x y, 0)
/-- The identity Id (R160, R161). -/
def VTy.ident (t : VTy) (o : VFold) : Nat :=
  match t, o with
  | .int .., .add => 0
  | .int w true, .max => 2 ^ (w - 1)
  | .int _ false, .max => 0
  | .int w true, .min => 2 ^ (w - 1) - 1
  | .int w false, .min => 2 ^ w - 1
  | .fp f, .add => f.sign true 0
  | .fp f, .max => f.sign true f.infCode
  | .fp f, .min => f.infCode
  | t, .and => 2 ^ t.w - 1
  | _, _ => 0
/-- Combine two partial results with the flags of both; poison takes part in nothing but itself (R51). -/
def VTy.comb (t : VTy) (o : VFold) (x y : Option FRes) : Option FRes :=
  match x, y with
  | some u, some v => let r := t.fold o u.1 v.1; some (r.1, u.2 ||| v.2 ||| r.2)
  | _, _ => none
/-- The element sequence of a source, with Id in inactive lanes. -/
def VTy.seq (t : VTy) (o : VFold) (v : VReg) (act : BitVec 64) : List (Option FRes) :=
  (List.range 64).flatMap fun i => (List.range t.epl).map fun j =>
    if act.getLsbD i then (t.read v i j).map fun x => (x, 0) else some (t.ident o, 0)
/-- The number of doublings over the elements of a register. -/
def VTy.levels (t : VTy) : Nat := (64 * t.epl).log2
/-- One step of a scan. -/
def VTy.scanStep (t : VTy) (o : VFold) (l : List (Option FRes)) (d : Nat) : List (Option FRes) :=
  l.take d ++ List.zipWith (t.comb o) l (l.drop d)
/-- The inclusive scan. -/
def VTy.scan (t : VTy) (o : VFold) (l : List (Option FRes)) : List (Option FRes) :=
  (List.range t.levels).foldl (fun l i => t.scanStep o l (2 ^ i)) l
/-- The elements of lane `i` of a sequence. -/
def VTy.laneOf (t : VTy) (l : List (Option FRes)) (i : Nat) : LaneRes := t.result ((l.drop (i * t.epl)).take t.epl)
/-- The lanes that active results of a scan read (R146, R160): VSCANX's elements depend on those below them only, so in a type with
one element a lane its highest active lane is read by none. -/
def VTy.scanNeed (t : VTy) (exclusive : Bool) (act : BitVec 64) : BitVec 64 :=
  if exclusive && t.epl == 1 then laneMask fun i => act.getLsbD i && act >>> (i + 1) != 0 else act
/-- The scans (R160). -/
def State.vscan (s : State) (o : VFold) (exclusive : Bool) (d a : Reg) (k : BitVec 3) (t : BitVec 4) : SlotOut :=
  let ty := VTy.of t
  let act := s.ctx.vec.active k
  let x := s.vsrc a (ty.scanNeed exclusive act)
  let l := ty.scan o (ty.seq o x.val act)
  let l := if exclusive then some (ty.ident o, 0) :: l.dropLast else l
  s.vecOut 6 d act [x] (ty.laneOf l)
/-- VSCANI. -/
def execVscani (d a : Reg) (k : BitVec 3) (t : BitVec 4) (s : State) : Out := s.taskOnly (s.vscan .add false d a k t)
/-- VSCANX. -/
def execVscanx (d a : Reg) (k : BitVec 3) (t : BitVec 4) (s : State) : Out := s.taskOnly (s.vscan .add true d a k t)
/-- VSCANMAX. -/
def execVscanmax (d a : Reg) (k : BitVec 3) (t : BitVec 4) (s : State) : Out := s.taskOnly (s.vscan .max false d a k t)
/-- VSCANMIN. -/
def execVscanmin (d a : Reg) (k : BitVec 3) (t : BitVec 4) (s : State) : Out := s.taskOnly (s.vscan .min false d a k t)

/-- One level of the reduction's tree (R161). -/
def VTy.pairs (t : VTy) (o : VFold) : List (Option FRes) → List (Option FRes)
  | x :: y :: l => t.comb o x y :: t.pairs o l
  | l => l
/-- The fixed tree's result. -/
def VTy.reduce (t : VTy) (o : VFold) (l : List (Option FRes)) : Option FRes :=
  (((List.range t.levels).foldl (fun l _ => t.pairs o l) l).head?).getD none
/-- The reductions (R161): element 0 of lane 0, every other element 0; the whole register is written. -/
def State.vred (s : State) (o : VFold) (d a : Reg) (k : BitVec 3) (t : BitVec 4) : SlotOut :=
  let ty := VTy.of t
  let act := s.ctx.vec.active k
  let x := s.vsrc a act
  let r := ty.result [ty.reduce o (ty.seq o x.val act)]
  s.vecOut 6 d (BitVec.allOnes 64) [x] fun i => if i = 0 then r else LaneRes.of 0
/-- VREDADD. -/
def execVredadd (d a : Reg) (k : BitVec 3) (t : BitVec 4) (s : State) : Out := s.taskOnly (s.vred .add d a k t)
/-- VREDMIN. -/
def execVredmin (d a : Reg) (k : BitVec 3) (t : BitVec 4) (s : State) : Out := s.taskOnly (s.vred .min d a k t)
/-- VREDMAX. -/
def execVredmax (d a : Reg) (k : BitVec 3) (t : BitVec 4) (s : State) : Out := s.taskOnly (s.vred .max d a k t)
/-- VREDAND. -/
def execVredand (d a : Reg) (k : BitVec 3) (t : BitVec 4) (s : State) : Out := s.taskOnly (s.vred .and d a k t)
/-- VREDOR. -/
def execVredor (d a : Reg) (k : BitVec 3) (t : BitVec 4) (s : State) : Out := s.taskOnly (s.vred .or d a k t)
/-- VREDXOR. -/
def execVredxor (d a : Reg) (k : BitVec 3) (t : BitVec 4) (s : State) : Out := s.taskOnly (s.vred .xor d a k t)

/-! ## Masks -/

/-- A mask register by specifier. -/
def State.maskOf (s : State) (r : Reg) : BitVec 64 := s.ctx.vec.mask (r.setWidth 3)
/-- Every lane of a c register receives a value (R162). -/
def State.fillC (s : State) (d : Reg) (f : Nat → BitVec 32) : SlotOut :=
  s.vecOut 2 d (BitVec.allOnes 64) [] fun i => LaneRes.of (f i)
/-- KAND. -/
def execKand (d a b : Reg) (s : State) : Out := s.taskOnly (s.putK 2 d (s.maskOf a &&& s.maskOf b))
/-- KOR. -/
def execKor (d a b : Reg) (s : State) : Out := s.taskOnly (s.putK 2 d (s.maskOf a ||| s.maskOf b))
/-- KXOR. -/
def execKxor (d a b : Reg) (s : State) : Out := s.taskOnly (s.putK 2 d (s.maskOf a ^^^ s.maskOf b))
/-- KANDN: kA AND NOT kB. -/
def execKandn (d a b : Reg) (s : State) : Out := s.taskOnly (s.putK 2 d (s.maskOf a &&& ~~~(s.maskOf b)))
/-- KNOT. -/
def execKnot (d a : Reg) (s : State) : Out := s.taskOnly (s.putK 2 d (~~~(s.maskOf a)))
/-- KPOP. -/
def execKpop (d a : Reg) (s : State) : Out :=
  let n := ((List.range 64).filter fun i => (s.maskOf a).getLsbD i).length
  s.taskOnly (s.fillC d fun _ => BitVec.ofNat 32 n)
/-- KFIRST: 64 when no bit is set. -/
def execKfirst (d a : Reg) (s : State) : Out := s.taskOnly (s.fillC d fun _ => BitVec.ofNat 32 ((lowLane (s.maskOf a)).getD 64))
/-- KFROMV (R163): side bits whatever the flag; it never traps. -/
def execKfromv (d a : Reg) (s : State) : Out := s.taskOnly (s.putK 2 d (s.ctx.vec.read a).side)
/-- KTOV: lanes 1:0 receive the mask, even lane low. -/
def execKtov (d a : Reg) (s : State) : Out :=
  let m := s.maskOf a
  s.taskOnly (s.fillC d fun i => if i = 0 then m.extractLsb' 0 32 else if i = 1 then m.extractLsb' 32 32 else 0)

end Sys2Proof.Machine
end

