-- ==== Sys2Proof/Machine/Transcend.lean ====
section
/-!
DEFINITION. The transcendental functions of R153. Each is enclosed in fixed-point arithmetic of 800 fraction bits between two
cells of 600, and both are rounded once; two cells that round differently leave the result a free value (log 11). Values that a
dyadic number states exactly are rounded from it.
-/

namespace Sys2Proof.Machine

/-- The functions of R153. -/
inductive VFun where
  | exp2 | log2 | rcp | rsq | sin | cos | tanh | sigm
  deriving DecidableEq, Repr

/-- Fraction bits of the working fixed-point numbers. -/
def wBits : Nat := 800
/-- Fraction bits of the floor from which a result is rounded. -/
def pBits : Nat := 600
/-- One in working fixed point. -/
def wOne : Nat := 2 ^ wBits
/-- The product of two working numbers. -/
def wMul (x y : Nat) : Nat := x * y / wOne

/-- The enclosed magnitude of a nonzero irrational value: (−1)^neg × 2^scale × a number that lies in one of the open cells
`lo` to `hi` of 600 fraction bits. -/
structure Encl where
  neg : Bool
  lo : Nat
  hi : Nat
  scale : Int
  deriving DecidableEq, Repr

/-- Enclose a value known in working fixed point to within 2^140 units. -/
def enclose (neg : Bool) (v : Nat) (scale : Int) : Encl :=
  ⟨neg, (v - 2 ^ 140) / 2 ^ (wBits - pBits), (v + 2 ^ 140) / 2 ^ (wBits - pBits), scale⟩

/-- Sum a series: `n` terms, each made from the one before and its index. -/
def series (next : Nat → Nat → Nat) : Nat → Nat → Nat → Nat → Nat
  | 0, _, _, acc => acc
  | n + 1, i, t, acc => series next n (i + 1) (next i t) (acc + t)
/-- e^x for 0 ≤ x < 1. -/
def wExp (x : Nat) : Nat := series (fun i t => wMul t x / (i + 1)) 160 0 wOne 0
/-- The sum of x^(2i+1) / (2i+1): artanh x for 0 ≤ x ≤ 1/3. -/
def wArtanh (x : Nat) : Nat :=
  let x2 := wMul x x
  let rec go : Nat → Nat → Nat → Nat → Nat
    | 0, _, _, acc => acc
    | n + 1, i, p, acc => go n (i + 1) (wMul p x2) (acc + p / (2 * i + 1))
  go 270 0 x 0
/-- ln 2 = 2 artanh (1/3). -/
def wLn2 : Nat := 2 * wArtanh (wOne / 3)
/-- arctan (1/k), by its alternating series. -/
def wAtanInv (k : Nat) : Nat :=
  let rec go : Nat → Nat → Nat → Int → Int
    | 0, _, _, acc => acc
    | n + 1, i, p, acc =>
      go n (i + 1) (p / (k * k)) (if i % 2 = 0 then acc + (p / (2 * i + 1) : Nat) else acc - (p / (2 * i + 1) : Nat))
  (go 200 0 (wOne / k) 0).toNat
/-- π, by Machin's formula. -/
def wPi : Nat := 16 * wAtanInv 5 - 4 * wAtanInv 239

/-- A nonnegative dyadic number in working fixed point, rounded down. -/
def wOf (m : Nat) (e : Int) : Nat :=
  let s := e + wBits
  if 0 ≤ s then m * 2 ^ s.toNat else m / 2 ^ (-s).toNat
/-- e^(−x) for 0 ≤ x < 256. -/
def wExpNeg (x : Nat) : Nat :=
  let n := x / wLn2
  wMul wOne (wOne * wOne / wExp (x % wLn2)) / 2 ^ n

/-- Alternating series of sine (from index 1) and cosine (from index 0) for 0 ≤ x < 2. -/
def wTrig (x start : Nat) : Nat :=
  let x2 := wMul x x
  let rec go : Nat → Nat → Nat → Int → Int
    | 0, _, _, acc => acc
    | n + 1, i, p, acc =>
      let p' := wMul p x2 / ((2 * i + start + 1) * (2 * i + start + 2))
      go n (i + 1) p' (if i % 2 = 0 then acc + (p : Int) else acc - (p : Int))
  (go 110 0 (if start = 1 then x else wOne) 0).toNat
/-- The sine, or the cosine, of a positive number: quadrant and remainder of π/2. -/
def trigOf (cosine : Bool) (m : Nat) (e : Int) : Bool × Nat :=
  let x := wOf m e
  let half := wPi / 2
  let q := x * 2 / wPi % 4
  let r := x - (x * 2 / wPi) * wPi / 2
  let r := if half < r then half else r
  let odd := (q % 2 = 1) != cosine
  let v := if odd then wTrig r 0 else wTrig r 1
  let neg := if cosine then q = 1 || q = 2 else 2 ≤ q
  (neg, v)

/-- The largest integer whose square is at most `x`, by bits. -/
def isqrt (x : Nat) : Nat → Nat → Nat
  | 0, r => r
  | n + 1, r => let c := r + 2 ^ n; isqrt x n (if c * c ≤ x then c else r)

/-- The value of a function at a positive or negative finite nonzero number: an exact dyadic value, or an enclosure. -/
inductive FunRes where
  | exact (neg : Bool) (m : Nat) (e : Int)
  | encl (x : Encl)
  deriving DecidableEq, Repr

/-- A value strictly between two neighbouring multiples of 2^e: the middle rounds as it does. -/
def between (neg : Bool) (q : Nat) (e : Int) : FunRes := .exact neg (2 * q + 1) (e - 1)

/-- 2^x: an integer power exactly; a huge exponent overflows or vanishes whatever its size. -/
def exp2Of (neg : Bool) (m : Nat) (e : Int) : FunRes :=
  if (m.log2 : Int) + e ≥ 9 then .exact false 1 (if neg then -1000 else 1000)
  else
    let i := if 0 ≤ e then m * 2 ^ e.toNat else m / 2 ^ (-e).toNat
    if i * 2 ^ (-e).toNat = m * 2 ^ e.toNat then .exact false 1 (if neg then -(i : Int) else i)
    else
      let f := wOf m e % wOne
      let f := if neg then wOne - f else f
      .encl (enclose false (wExp (wMul f wLn2)) (if neg then -(i : Int) - 1 else i))
/-- log2 x of a positive x that is not a power of two, or the exponent of one that is. -/
def log2Of (m : Nat) (e : Int) : FunRes :=
  let k := m.log2
  let n : Int := (k : Int) + e
  if m = 2 ^ k then .exact (n < 0) n.natAbs 0
  else
    let z := wOf m (-(k : Int))
    let t := (z - wOne) * wOne / (z + wOne)
    let frac := 2 * wArtanh t * wOne / wLn2
    let v : Int := n * wOne + frac
    .encl (enclose (v < 0) v.natAbs 0)
/-- 1/x by a quotient of 64 spare bits, its remainder sticky. -/
def rcpOf (neg : Bool) (m : Nat) (e : Int) : FunRes :=
  let s := 2 * m.log2 + 64
  let q := 2 ^ s / m
  let x : Int := -(s : Int) - e
  if q * m = 2 ^ s then .exact neg q x else between neg q x
/-- 1/√x. -/
def rsqOf (m : Nat) (e : Int) : FunRes :=
  let (m, e) := if e % 2 = 0 then (m, e) else (2 * m, e - 1)
  let q := isqrt (2 ^ 256 / m) 129 0
  let x : Int := -128 - e / 2
  if q * q * m = 2 ^ 256 then .exact false q x else between false q x
/-- tanh of a magnitude: near 1 from 2^6 on. -/
def tanhOf (neg : Bool) (m : Nat) (e : Int) : FunRes :=
  if (m.log2 : Int) + e ≥ 6 then between neg (2 ^ 100 - 1) (-100)
  else
    let y := wExpNeg (2 * wOf m e)
    .encl (enclose neg ((wOne - y) * wOne / (wOne + y)) 0)
/-- The logistic function: near 1 or near 0 from 2^8 on. -/
def sigmOf (neg : Bool) (m : Nat) (e : Int) : FunRes :=
  if (m.log2 : Int) + e ≥ 7 then (if neg then between false 0 (-300) else between false (2 ^ 100 - 1) (-100))
  else
    let y := wExpNeg (wOf m e)
    .encl (enclose false ((if neg then y else wOne) * wOne / (wOne + y)) 0)

/-- The function of a finite nonzero operand that its table entry calls a value. -/
def VFun.at_ (g : VFun) (neg : Bool) (m : Nat) (e : Int) : FunRes :=
  match g with
  | .exp2 => exp2Of neg m e
  | .log2 => log2Of m e
  | .rcp => rcpOf neg m e
  | .rsq => rsqOf m e
  | .sin => let (n, v) := trigOf false m e; .encl (enclose (n ^^ neg) v 0)
  | .cos => let (n, v) := trigOf true m e; .encl (enclose n v 0)
  | .tanh => tanhOf neg m e
  | .sigm => sigmOf neg m e

/-- The code of a function, for the free value. -/
def VFun.num : VFun → Nat
  | .exp2 => 0 | .log2 => 1 | .rcp => 2 | .rsq => 3 | .sin => 4 | .cos => 5 | .tanh => 6 | .sigm => 7

/-- The middle of a cell of an enclosure, rounded: every value of the open cell rounds so. -/
def FFmt.cell (f : FFmt) (v : Encl) (n : Nat) : FRes := f.round .rn v.neg (2 * n + 1) (v.scale - (pBits + 1 : Nat))
/-- A result: rounded to nearest, ties to even, in the format (R153). Rounding is monotone, so cells that round alike settle
it. -/
def FFmt.funRes (f : FFmt) (g : VFun) (x : Nat) (r : FunRes) : FRes :=
  match r with
  | .exact neg m e => f.round .rn neg m e
  | .encl v =>
    if f.cell v v.lo = f.cell v v.hi then f.cell v v.lo
    else ((Config.transcendental g.num f.width (BitVec.ofNat 32 x)).toNat % 2 ^ f.width, flNX)

/-- A function at an operand's code: the special operands of R153, an ordinary NaN, or the value. -/
def FFmt.apply (f : FFmt) (g : VFun) (x : Nat) : FRes :=
  let one : FRes := f.round .rn false 1 0
  let inf (neg : Bool) : Nat := f.sign neg f.infCode
  match f.unpack x with
  | .poison => (f.poisonCode, 0)
  | .nan => f.quiet
  | .inf a =>
    match g, a with
    | .exp2, true | .sigm, true => (0, 0)
    | .exp2, false | .log2, false => (inf false, 0)
    | .rcp, a => (f.sign a 0, 0)
    | .rsq, false => (0, 0)
    | .tanh, a => (f.sign a one.1, 0)
    | .sigm, false => one
    | _, _ => f.invalid
  | .fin a m e =>
    if m = 0 then
      match g with
      | .exp2 | .cos => one
      | .log2 => (inf true, flDZ)
      | .rcp | .rsq => (inf a, flDZ)
      | .sin | .tanh => (f.sign a 0, 0)
      | .sigm => f.round .rn false 1 (-1)
    else if a && (g = .log2 || g = .rsq) then f.invalid
    else f.funRes g x (g.at_ a m e)

end Sys2Proof.Machine
end

