-- ==== Sys2Proof/Machine/VecConvert.lean ====
section
/-!
DEFINITION. Slot C's transcendentals (R153), VCVT with its MX and stochastic forms (R156, R157, R103, R110), packing (R158).
-/

namespace Sys2Proof.Machine

/-! ## Transcendentals -/

/-- A function of each active element; other types have no such form. -/
def State.vfun (s : State) (g : VFun) (d a : Reg) (k : BitVec 3) (t : BitVec 4) : SlotOut :=
  let ty := VTy.of t
  s.elemForm ty 12 d k [a] fun l => match ty with
    | .fp f => f.apply g ((l[0]?).getD 0)
    | .int .. => (0, 0)
/-- VEXP2. -/
def execVexp2 (d a : Reg) (k : BitVec 3) (t : BitVec 4) (s : State) : Out := s.taskOnly (s.vfun .exp2 d a k t)
/-- VLOG2. -/
def execVlog2 (d a : Reg) (k : BitVec 3) (t : BitVec 4) (s : State) : Out := s.taskOnly (s.vfun .log2 d a k t)
/-- VRCP. -/
def execVrcp (d a : Reg) (k : BitVec 3) (t : BitVec 4) (s : State) : Out := s.taskOnly (s.vfun .rcp d a k t)
/-- VRSQ. -/
def execVrsq (d a : Reg) (k : BitVec 3) (t : BitVec 4) (s : State) : Out := s.taskOnly (s.vfun .rsq d a k t)
/-- VSIN. -/
def execVsin (d a : Reg) (k : BitVec 3) (t : BitVec 4) (s : State) : Out := s.taskOnly (s.vfun .sin d a k t)
/-- VCOS. -/
def execVcos (d a : Reg) (k : BitVec 3) (t : BitVec 4) (s : State) : Out := s.taskOnly (s.vfun .cos d a k t)
/-- VTANH. -/
def execVtanh (d a : Reg) (k : BitVec 3) (t : BitVec 4) (s : State) : Out := s.taskOnly (s.vfun .tanh d a k t)
/-- VSIGM. -/
def execVsigm (d a : Reg) (k : BitVec 3) (t : BitVec 4) (s : State) : Out := s.taskOnly (s.vfun .sigm d a k t)

/-! ## The stochastic generator -/

/-- One step of srstate (R110). -/
def srStep (x : BitVec 32) : BitVec 32 := if x.getLsbD 0 then (x >>> 1) ^^^ 0x80200003 else x >>> 1
/-- The states after each of `n` steps. -/
def srStates : Nat → BitVec 32 → List (BitVec 32)
  | 0, _ => []
  | n + 1, x => srStep x :: srStates n (srStep x)

/-! ## VCVT -/

/-- The value of an element code. -/
def VTy.value (t : VTy) (x : Nat) : FVal :=
  match t with
  | .int .. => let i := t.toInt x; .fin (i < 0) i.natAbs 0
  | .fp f => f.unpack x
/-- Convert a value into an element type (R107, R108); an integer source saturates with SAT (R156). A value out of the
range of an integer destination that is not narrower saturates as well (log 22). -/
def VTy.ofVal (t : VTy) (fromInt : Bool) (mode : RMode) (v : FVal) : FRes :=
  match t with
  | .int w sgn =>
    match fromInt, v with
    | true, .fin a m _ => intResult w sgn true (signed a m)
    | _, v =>
      let r := toInteger w sgn mode v
      ((r.1 % (2 ^ w : Nat)).toNat, r.2)
  | .fp f => f.ofVal mode v
/-- Whether a VCVT code names an MX format. -/
def isMx (t : BitVec 4) : Bool := t = 0xD || t = 0xE
/-- EMaxElem (R103). -/
def VTy.emax : VTy → Int
  | .fp f => if f = e4m3 then 8 else if f = e5m2 then 15 else 2
  | _ => 0

/-- Floor(log2) of the greatest magnitude of a block's finite values, if one is nonzero. -/
def blockLog (l : List (Option FVal)) : Option Int :=
  l.foldl (fun a x => match x with
    | some (.fin _ m e) =>
      if m = 0 then a else
      let n := (m.log2 : Int) + e
      match a with
      | some b => some (if b < n then n else b)
      | none => some n
    | _ => a) none
/-- The E8M0 scale of a block (R103). -/
def blockScale (t : VTy) (l : List (Option FVal)) : Nat :=
  if l.any (fun x => match x with | some .nan => true | some (.inf _) => true | _ => false) then 255
  else
    match blockLog l with
    | none => 127
    | some n =>
      let x := n - t.emax + 127
      if x < 0 then 0 else if 254 < x then 254 else x.toNat
/-- Divide a value by a power of two. -/
def FVal.scaleBy (v : FVal) (e : Int) : FVal :=
  match v with
  | .fin a m x => .fin a m (x + e)
  | v => v
/-- The elements of a block: under scale 0xFF the canonical NaN, where an infinity sets NV; else the scaled values (R103). -/
def blockElems (t : VTy) (scale : Nat) (l : List (Option FVal × RMode)) : List (Option FRes) :=
  l.map fun p => p.1.map fun v =>
    if scale = 255 then (match t with | .fp f => f.nanCode | _ => 0, match v with | .inf _ => flNV | _ => 0)
    else t.ofVal false p.2 (v.scaleBy (127 - scale))

/-- The value of element `n` of VCVT's source: its own, or in an MX format times its block's scale; `none` is poison (R102,
R157). -/
def cvtSource (t : VTy) (mx : Bool) (lanes : Nat) (v : VReg) (n : Nat) : Option FVal :=
  let x := (t.read v (n / t.epl) (n % t.epl)).map t.value
  if mx then
    let at_ := lanes + n / 32 / 4
    let scale := (v.lane at_).toNat / 2 ^ (8 * (n / 32 % 4)) % 256
    if v.poisonSide.getLsbD at_ then none
    else x.map fun u => if scale = 255 then .nan else u.scaleBy ((scale : Int) - 127)
  else x

/-- The conversions of VCVT's N elements: results by element, and the MX scales (R156, R103). -/
def cvtElems (dst src : BitVec 4) (vals : List (Option FVal)) (modes : List RMode) : List (Option FRes) × List Nat :=
  let t := VTy.of dst
  let l := vals.zip modes
  if isMx dst then
    let blocks := (List.range (vals.length / 32)).map fun b => (l.drop (32 * b)).take 32
    let scales := blocks.map fun b => blockScale t (b.map (·.1))
    ((blocks.zip scales).flatMap fun p => blockElems t p.2 p.1, scales)
  else (l.map fun p => p.1.map fun v => t.ofVal (!(VTy.of src).isFp) p.2 v, [])

/-- VCVT (R156): the whole register. -/
def execVcvt (d r : Reg) (t u : BitVec 4) (m : BitVec 3) (s : State) : Out :=
  let dt := VTy.of t
  let st := VTy.of u
  let n := 64 * Nat.min st.epl dt.epl
  let lanes := n / st.epl
  let scaleLanes := if isMx u then (n / 32 + 3) / 4 else 0
  let x := s.vsrc r (laneMask fun i => i < lanes + scaleLanes)
  let states := srStates n s.ctx.csr.srstate
  let modes : List RMode := if m = 4 then states.map fun y => .rs (y.toNat % 65536) else List.replicate n (rmode (m.setWidth 2))
  let vals := (List.range n).map fun i => cvtSource st (isMx u) lanes x.val i
  let (es, scales) := cvtElems t u vals modes
  let used := n / dt.epl
  let lane (i : Nat) : LaneRes :=
    if i < used then dt.result ((es.drop (i * dt.epl)).take dt.epl)
    else LaneRes.of (BitVec.ofNat 32 (leNat (((scales.drop (4 * (i - used))).take 4).map fun z => BitVec.ofNat 8 z)))
  let next := (states.getLast?).getD s.ctx.csr.srstate
  let s' := if m = 4 then s.onCtx fun c => { c with csr := { c.csr with srstate := next } } else s
  s.taskOnly (s.needsLanes [x] (s'.vecOut 3 d (BitVec.allOnes 64) [] lane))

/-! ## Packing -/

/-- The element type of a packing form's source, under the result type (R158). -/
def packSource (t : BitVec 4) (unpack : Bool) : VTy :=
  match (VTy.of t), unpack with
  | .int w sgn, false => .int (2 * w) sgn
  | .int w sgn, true => .int (w / 2) sgn
  | .fp _, false => .fp fp32
  | .fp _, true => .fp fp16
/-- A packing form: result element `n` is converted from element `ix n` of one of two sources. -/
def State.vpackForm (s : State) (d : Reg) (k : BitVec 3) (t : BitVec 4) (st : VTy) (rs : List Reg) (ix : Nat → Nat × Nat) :
    SlotOut :=
  let dt := VTy.of t
  let act := s.ctx.vec.active k
  let picks := (List.range 64).flatMap fun i =>
    if act.getLsbD i then (List.range dt.epl).map fun j => ix (i * dt.epl + j) else []
  let need (q : Nat) : BitVec 64 :=
    (picks.filter fun p => p.1 = q).foldl (fun m p => m ||| (1#64 <<< (p.2 / st.epl))) 0
  let srcs := rs.zipIdx.map fun p => s.vsrc p.1 (need p.2)
  s.vecOut 3 d act srcs fun i =>
    dt.result ((List.range dt.epl).map fun j =>
      let p := ix (i * dt.epl + j)
      match srcs[p.1]? with
      | some x => (st.read x.val (p.2 / st.epl) (p.2 % st.epl)).map fun c => dt.ofVal (!st.isFp) .rn (st.value c)
      | none => none)
/-- VPACK: the lower half from srcA, the upper from srcB. -/
def execVpack (d a b : Reg) (k : BitVec 3) (t : BitVec 4) (s : State) : Out :=
  let half := 64 * (VTy.of t).epl / 2
  s.taskOnly (s.vpackForm d k t (packSource t false) [a, b] fun n => if n < half then (0, n) else (1, n - half))
/-- VUNPKL: the source's lower half. -/
def execVunpkl (d a : Reg) (k : BitVec 3) (t : BitVec 4) (s : State) : Out :=
  s.taskOnly (s.vpackForm d k t (packSource t true) [a] fun n => (0, n))
/-- VUNPKH: the source's upper half. -/
def execVunpkh (d a : Reg) (k : BitVec 3) (t : BitVec 4) (s : State) : Out :=
  s.taskOnly (s.vpackForm d k t (packSource t true) [a] fun n => (0, n + 64 * (VTy.of t).epl))

end Sys2Proof.Machine
end

