-- ==== Sys2Proof/Machine/VecMem.lean ====
section
/-!
DEFINITION. Slot C's memory forms: scratchpad loads and stores (R164-R168), ring reads (R169), the aggregated atomic (R170), and
the MOVM write form (R71, R163).
-/

namespace Sys2Proof.Machine

/-! ## Words of the scratchpad -/

/-- The checks of R164 on word addresses: alignment of every word, then the range of every word. -/
def State.checkWords (s : State) (l : List Nat) (k : SlotOut) : SlotOut :=
  match l.find? fun a => a % 4 ≠ 0 with
  | some a => .trap s 0x07 (BitVec.ofNat 64 a)
  | none =>
    match l.find? fun a => s.ctx.kern.spad < a + 4 with
    | some a => .trap s 0x08 (BitVec.ofNat 64 a)
    | none => k
/-- Fill what a list of words touches. -/
def State.touchWords (s : State) (l : List Nat) : Except Stop Unit × State := s.touchAll (l.map fun a => a / 4096 * 4096)
/-- Make every word ready for a write: filled, in blocks that had W (R400). -/
def State.readyWords (s : State) (l : List Nat) : Except Stop Unit × State :=
  match s.touchWords l with
  | (.error e, s) => (.error e, s)
  | (.ok _, s) =>
    match l.findSome? fun a => s.ctx.unwritable a 4 with
    | some va => let (e, s) := s.mapProt va; (.error e, s)
    | none => (.ok (), s)
/-- The 4-byte address of a lane: base plus an offset, modulo 2^32. -/
def laneAddr (base : BitVec 64) (off : Nat) : Nat := (base.toNat + off) % 2 ^ 32
/-- The active lanes in ascending order. -/
def lanesIn (m : BitVec 64) : List Nat := (List.range 64).filter fun i => m.getLsbD i

/-- A word to store with its poison mark. -/
structure WordW where
  addr : Nat
  val : BitVec 32
  bad : Bool
/-- Store the words of one block: as one write of 64 bytes where they cover it clean, which clears its mark (R191). -/
def State.storeBlock (s : State) (blk : Nat) (ws : List WordW) : State :=
  let last (i : Nat) : Option WordW := ((ws.filter fun w => w.addr = blk * 64 + 4 * i).getLast?)
  if (List.range 16).all (fun i => (last i).isSome) && !(ws.any (·.bad)) then
    s.ownWrite (blk * 64) ((List.range 16).flatMap fun i => wordBytes (((last i).map (·.val)).getD 0)) false
  else ws.foldl (fun s w => s.ownWrite w.addr (wordBytes w.val) w.bad) s
/-- Store words in order. -/
def State.storeWords (s : State) (ws : List WordW) : State :=
  ((ws.map fun w => w.addr / 64).eraseDups).foldl (fun s b => s.storeBlock b (ws.filter fun w => w.addr / 64 = b)) s

/-! ## VLDS, VLDSP, VSTS -/

/-- The address of VLDS and VLDSP (R166). -/
def State.vldsAddr (s : State) (v : TVal) (i : BitVec 16) : Nat :=
  laneAddr v.val ((s.thr.immS .c i <<< 2).toNat)
/-- Poison lanes in every lane, flag 0: what a poison address gives (R166, R190). -/
def VReg.allBad : VReg := ⟨Vector.replicate 64 0, BitVec.allOnes 64, false⟩
/-- The addresses of the 64 words. -/
def wordsAt (a : Nat) : List Nat := (List.range 64).map fun i => (a + 4 * i) % 2 ^ 32
/-- VLDS (R166): L = 5. -/
def execVlds (d r : Reg) (i : BitVec 16) (s : State) : Out :=
  let all := BitVec.allOnes 64
  s.taskOnly (s.needsScalar r false fun v =>
    if v.poison then s.putC 5 d .allBad all
    else
      let a := s.vldsAddr v i
      s.checkWords (wordsAt a)
        (s.inOrder 0 none (match s.touch a 256 with
        | (.error e, s) => e.slot s
        | (.ok _, s) => let (x, s) := s.readLanes a; s.putC 5 d x all)))
/-- Whether a check of R164 fails for the 64 words. -/
def State.wordsFail (s : State) (l : List Nat) : Bool := l.any fun a => a % 4 ≠ 0 || decide (s.ctx.kern.spad < a + 4)
/-- VLDSP (R166): it never traps on R164's checks; a failed check, a deferred address included, gives deferred lanes, and its
flag is 1. A mapped granule that it touches is filled, and a fill that faults raises its fault (R284). -/
def execVldsp (d r : Reg) (i : BitVec 16) (s : State) : Out :=
  let all := BitVec.allOnes 64
  let v := s.scalar r false
  let a := s.vldsAddr v i
  let deferred : VReg := { VReg.allBad with spec := true }
  s.taskOnly (if v.poison then s.putC 5 d .allBad all
    else if v.deferred || s.wordsFail (wordsAt a) then s.putC 5 d deferred all
    else
      s.inOrder 0 none (match s.touch a 256 with
      | (.error e, s) => e.slot s
      | (.ok _, s) => let (x, s) := s.readLanes a; s.putC 5 d { x with spec := true } all))

/-- Check the words of a store and make them ready, then perform it (R164, R165, R400). -/
def State.storing (s : State) (as_ : List Nat) (k : State → SlotOut) : SlotOut :=
  s.checkWords as_
    (s.inOrder 0 none (match s.readyWords as_ with
    | (.error e, s) => e.slot s
    | (.ok _, s) => k s))
/-- VSTS (R167). -/
def execVsts (a b : Reg) (k : BitVec 3) (s : State) : Out :=
  let act := s.ctx.vec.active k
  let x := s.vsrc a act
  s.taskOnly (s.needsLanes [x] (s.needsScalar b false fun v =>
    if v.poison then .trap s 0x05 (specDetail b)
    else
      let addr (i : Nat) : Nat := laneAddr v.val (4 * i)
      s.storing ((lanesIn act).map addr) fun s =>
        .done (s.storeWords ((lanesIn act).map fun i => ⟨addr i, x.val.lane i, x.val.poisonSide.getLsbD i⟩))))

/-! ## VGATH, VSCAT -/

/-- The lanes of a long form that make an access: active, with a clean index (R168). -/
def gatherLanes (act : BitVec 64) (ix : VReg) : List Nat := lanesIn (act &&& ~~~ix.poisonSide)
/-- The address of a lane (R168). -/
def gatherAddr (base : BitVec 64) (ix : VReg) (i : Nat) : Nat := laneAddr base ((ix.lane i).toNat * 4)
/-- What a gather delivers before its first step: a lane without an access is poison (R168). -/
def gatherStart (l : List Nat) : VReg := ⟨Vector.replicate 64 0, laneMask fun i => !l.contains i, false⟩
/-- Put a vector result that is known on the scoreboard; the lanes outside the mask keep what the destination holds (R143). -/
def State.awaitVec (s : State) (d : Reg) (v : VReg) (act : BitVec 64) (gather atomic : Bool) (way : Way := .none) : SlotOut :=
  let x := match pdestC d with
    | .c r => (s.ctx.vec.c[r]).merge v act
    | _ => v
  .done (s.await (pdestC d) (.vec x act) 0 atomic gather way)
/-- VGATH (R168): its checks and the fills that it needs are made at issue; each lane is a step of its own (R148). -/
def execVgath (d a b : Reg) (k : BitVec 3) (s : State) : Out :=
  let act := s.ctx.vec.active k
  let y := s.vsrc b act
  s.taskOnly (s.needsLanes [y] (s.needsScalar a false fun v =>
    if v.poison then s.awaitVec d (gatherStart []) act true false
    else
      let l := gatherLanes act y.val
      let as_ := l.map (gatherAddr v.val y.val)
      if l.isEmpty then s.awaitVec d (gatherStart []) act true false
      else s.checkWords as_
        (s.inOrder 0 none (match s.touchWords as_ with
        | (.error e, s) => e.slot s
        | (.ok _, s) => .done (s.await (pdestC d) (.long none (l.zip as_) (gatherStart l) act 0) 0 false true)))))
/-- VSCAT (R168): dst is the data; each lane is a step of its own in ascending order, so that a higher lane's value remains. -/
def execVscat (d a b : Reg) (k : BitVec 3) (s : State) : Out :=
  let act := s.ctx.vec.active k
  let y := s.vsrc b act
  let x := s.vsrc d act
  s.taskOnly (s.needsLanes [y, x] (s.needsScalar a false fun v =>
    if v.poison then .trap s 0x05 (specDetail a)
    else
      let l := gatherLanes act y.val
      let as_ := l.map (gatherAddr v.val y.val)
      let data : VReg := { x.val with side := x.val.poisonSide }
      if l.isEmpty then .done s
      else s.storing as_ fun s => .done (s.await .discard (.long (some data) (l.zip as_) .zero act 0) 0 false true)))

/-! ## VRRD, VATOMADD, MOVM -/

/-- VRRD (R169, R273). -/
def execVrrd (d : Reg) (k : BitVec 3) (h : BitVec 4) (s : State) : Out :=
  let r := s.ctx.h[fin4 h]
  let act := s.ctx.vec.active k
  s.taskOnly (if r.rowb = 0 || decide (r.rb % 256 ≠ 0) || decide (r.cursor.toNat % 256 ≠ 0) then s.ringFormat h
    else s.ringRead h 256 (pdestC d) fun n a => .vring (fin4 h) n a act)

/-- VATOMADD's access to translated pieces: one atomic add of the lanes' sum (R170, R266, R267). -/
def State.vatomPieces (s : State) (d : Reg) (v : BitVec 64) (add : VReg) (act : BitVec 64) (xs : List (Xlat × Nat)) :
    SlotOut :=
  let addr := v.setWidth 56
  let sum := addSum add act
  match xs with
  | [(x, n)] =>
    match x.remote with
    | some m =>
      let req := [⟨m, BitVec.ofNat 52 x.pa, .atomic .add false (sum.setWidth 64) 0⟩]
      (s.sendAll req).irrevocable.awaitAcked (pdestC d) (.vremote addr add act) addr (s.wayOf xs req) true
    | none =>
      let way := s.wayOf xs []
      if s.shedPieces xs then s.awaitAcked (pdestC d) (.later (.memory xs) (.lanes add act)) addr way true
      else
        let (l, bad, t) := s.atomAt (some s.ctx.id) s.ctx.part x n fun old => some (old + sum.setWidth 64)
        let r := t.ctx.atomLanes (pdestC d) add act (if bad then none else some (BitVec.ofNat 32 (leNat l)))
        (if !bad && externalWrite xs then t.irrevocable else t).awaitAcked (pdestC d) (.vec r act) addr way (!bad)
  | _ => .trap s 0x09 (addrDetail v)
/-- VATOMADD (R170). A poison or misaligned address traps even when no lane is active (log 23). -/
def execVatomadd (d a b : Reg) (k : BitVec 3) (s : State) : Out :=
  let act := s.ctx.vec.active k
  let y := s.vsrc b act
  s.taskOnly (s.needsLanes [y] (s.needsScalar a true fun v =>
    if v.poison then .trap s 0x05 (specDetail a)
    else if v.val.toNat % 4 ≠ 0 then .trap s 0x07 (addrDetail v.val)
    else if act = 0 then .done s
    else
      match s.xlateRange s.ctx.agent .atomic v.val 4 with
      | (.error e, t) => e.slot t
      | (.ok xs, t) =>
        if y.val.poisonSide &&& act ≠ 0 then t.awaitVec d (atomSums y.val act none) act false true
        else s.inOrder 0 (homeOf xs) (t.vatomPieces d v.val y.val act xs)))

/-- MOVM write form of slot C (R71, R163): lane pair `j`, even lane low, with the tag of R145 over the two lanes. -/
def execMovmWriteC (r : Reg) (j : BitVec 5) (n : BitVec 6) (s : State) : Out :=
  let v := s.ctx.vec.read r
  let lo := 2 * j.toNat
  let side := v.side.getLsbD lo || v.side.getLsbD (lo + 1)
  let tag : BitVec 2 := if side then (if v.spec then 1 else 2) else 0
  s.taskOnly (SlotOut.done (s.land 2 (.m ⟨n.toNat, n.isLt⟩) (.scalar ⟨v.lane (lo + 1) ++ v.lane lo, tag⟩)))

end Sys2Proof.Machine
end

