-- ==== Sys2Proof/Machine/Dispatch.lean ====
section
/-!
DEFINITION. One arm per instruction of the table: a direct call of its meaning.
-/

namespace Sys2Proof.Machine

/-- The effect of one instruction, or of one step of another agent. -/
def exec (i : Instr) (s : State) : Host.Outcome State Fault Refusal :=
  match i with
  | .add d a b => Sys2Proof.Machine.execAdd d a b s
  | .sub d a b => Sys2Proof.Machine.execSub d a b s
  | .and d a b => Sys2Proof.Machine.execAnd d a b s
  | .or d a b => Sys2Proof.Machine.execOr d a b s
  | .xor d a b => Sys2Proof.Machine.execXor d a b s
  | .andn d a b => Sys2Proof.Machine.execAndn d a b s
  | .shl d a b => Sys2Proof.Machine.execShl d a b s
  | .shr d a b => Sys2Proof.Machine.execShr d a b s
  | .sra d a b => Sys2Proof.Machine.execSra d a b s
  | .rotr d a b => Sys2Proof.Machine.execRotr d a b s
  | .min d a b => Sys2Proof.Machine.execMin d a b s
  | .max d a b => Sys2Proof.Machine.execMax d a b s
  | .minu d a b => Sys2Proof.Machine.execMinu d a b s
  | .maxu d a b => Sys2Proof.Machine.execMaxu d a b s
  | .mul d a b => Sys2Proof.Machine.execMul d a b s
  | .mulh d a b => Sys2Proof.Machine.execMulh d a b s
  | .mulhu d a b => Sys2Proof.Machine.execMulhu d a b s
  | .ext d a b => Sys2Proof.Machine.execExt d a b s
  | .extu d a b => Sys2Proof.Machine.execExtu d a b s
  | .ins d a b => Sys2Proof.Machine.execIns d a b s
  | .clz d a => Sys2Proof.Machine.execClz d a s
  | .ctz d a => Sys2Proof.Machine.execCtz d a s
  | .popc d a => Sys2Proof.Machine.execPopc d a s
  | .brev d a => Sys2Proof.Machine.execBrev d a s
  | .exti d x w p => Sys2Proof.Machine.execExti d x w p s
  | .extui d x w p => Sys2Proof.Machine.execExtui d x w p s
  | .insi d x w p => Sys2Proof.Machine.execInsi d x w p s
  | .cmpeq d a b => Sys2Proof.Machine.execCmpeq d a b s
  | .cmpne d a b => Sys2Proof.Machine.execCmpne d a b s
  | .cmplt d a b => Sys2Proof.Machine.execCmplt d a b s
  | .cmple d a b => Sys2Proof.Machine.execCmple d a b s
  | .cmpltu d a b => Sys2Proof.Machine.execCmpltu d a b s
  | .cmpleu d a b => Sys2Proof.Machine.execCmpleu d a b s
  | .sel d a b => Sys2Proof.Machine.execSel d a b s
  | .addi d x v => Sys2Proof.Machine.execAddi d x v s
  | .andi d x v => Sys2Proof.Machine.execAndi d x v s
  | .ori d x v => Sys2Proof.Machine.execOri d x v s
  | .xori d x v => Sys2Proof.Machine.execXori d x v s
  | .shli d x n => Sys2Proof.Machine.execShli d x n s
  | .shri d x n => Sys2Proof.Machine.execShri d x n s
  | .srai d x n => Sys2Proof.Machine.execSrai d x n s
  | .rotri d x n => Sys2Proof.Machine.execRotri d x n s
  | .li d v => Sys2Proof.Machine.execLi d v s
  | .liu d x v => Sys2Proof.Machine.execLiu d x v s
  | .tagp d a => Sys2Proof.Machine.execTagp d a s
  | .tagc d a => Sys2Proof.Machine.execTagc d a s
  | .faddS d a b r => Sys2Proof.Machine.execFaddS d a b r s
  | .fsubS d a b r => Sys2Proof.Machine.execFsubS d a b r s
  | .fmulS d a b r => Sys2Proof.Machine.execFmulS d a b r s
  | .fmaS d a b r => Sys2Proof.Machine.execFmaS d a b r s
  | .fminS d a b => Sys2Proof.Machine.execFminS d a b s
  | .fmaxS d a b => Sys2Proof.Machine.execFmaxS d a b s
  | .fabsS d a => Sys2Proof.Machine.execFabsS d a s
  | .fnegS d a => Sys2Proof.Machine.execFnegS d a s
  | .fcmpeqS d a b => Sys2Proof.Machine.execFcmpeqS d a b s
  | .fcmpltS d a b => Sys2Proof.Machine.execFcmpltS d a b s
  | .fcmpleS d a b => Sys2Proof.Machine.execFcmpleS d a b s
  | .fcmpunS d a b => Sys2Proof.Machine.execFcmpunS d a b s
  | .faddD d a b r => Sys2Proof.Machine.execFaddD d a b r s
  | .fsubD d a b r => Sys2Proof.Machine.execFsubD d a b r s
  | .fmulD d a b r => Sys2Proof.Machine.execFmulD d a b r s
  | .fmaD d a b r => Sys2Proof.Machine.execFmaD d a b r s
  | .fminD d a b => Sys2Proof.Machine.execFminD d a b s
  | .fmaxD d a b => Sys2Proof.Machine.execFmaxD d a b s
  | .fabsD d a => Sys2Proof.Machine.execFabsD d a s
  | .fnegD d a => Sys2Proof.Machine.execFnegD d a s
  | .fcmpeqD d a b => Sys2Proof.Machine.execFcmpeqD d a b s
  | .fcmpltD d a b => Sys2Proof.Machine.execFcmpltD d a b s
  | .fcmpleD d a b => Sys2Proof.Machine.execFcmpleD d a b s
  | .fcmpunD d a b => Sys2Proof.Machine.execFcmpunD d a b s
  | .fcvt d a r t x => Sys2Proof.Machine.execFcvt d a r t x s
  | .br o => Sys2Proof.Machine.execBr o s
  | .brz t o => Sys2Proof.Machine.execBrz t o s
  | .brnz t o => Sys2Proof.Machine.execBrnz t o s
  | .call t o => Sys2Proof.Machine.execCall t o s
  | .chk t o => Sys2Proof.Machine.execChk t o s
  | .jr a => Sys2Proof.Machine.execJr a s
  | .ret a => Sys2Proof.Machine.execRet a s
  | .callr d a => Sys2Proof.Machine.execCallr d a s
  | .movmWriteA x n => Sys2Proof.Machine.execMovmWriteA x n s
  | .movmRead d n => Sys2Proof.Machine.execMovmRead d n s
  | .trap v => Sys2Proof.Machine.execTrap v s
  | .svc v => Sys2Proof.Machine.execSvc v s
  | .csrrd d n => Sys2Proof.Machine.execCsrrd d n s
  | .csrwr d x n => Sys2Proof.Machine.execCsrwr d x n s
  | .csrset d x n => Sys2Proof.Machine.execCsrset d x n s
  | .csrclr d x n => Sys2Proof.Machine.execCsrclr d x n s
  | .segbeg v => Sys2Proof.Machine.execSegbeg v s
  | .segend a b => Sys2Proof.Machine.execSegend a b s
  | .lds d b c z o => Sys2Proof.Machine.execLds d b c z o s
  | .ldsx d b c z o => Sys2Proof.Machine.execLdsx d b c z o s
  | .sts d b g c z o => Sys2Proof.Machine.execSts d b g c z o s
  | .ldr d b c z o => Sys2Proof.Machine.execLdr d b c z o s
  | .ldrx d b c z o => Sys2Proof.Machine.execLdrx d b c z o s
  | .str d b g c z o => Sys2Proof.Machine.execStr d b g c z o s
  | .ldg d b c z o => Sys2Proof.Machine.execLdg d b c z o s
  | .ldgx d b c z o => Sys2Proof.Machine.execLdgx d b c z o s
  | .stg d b g c z o => Sys2Proof.Machine.execStg d b g c z o s
  | .ldgs d b c z o => Sys2Proof.Machine.execLdgs d b c z o s
  | .ldgsx d b c z o => Sys2Proof.Machine.execLdgsx d b c z o s
  | .ldk d b z o => Sys2Proof.Machine.execLdk d b z o s
  | .atsAdd d b g c z => Sys2Proof.Machine.execAtsAdd d b g c z s
  | .atsSwap d b g c z => Sys2Proof.Machine.execAtsSwap d b g c z s
  | .atsCas d b v g c z => Sys2Proof.Machine.execAtsCas d b v g c z s
  | .atsAnd d b g c z => Sys2Proof.Machine.execAtsAnd d b g c z s
  | .atsOr d b g c z => Sys2Proof.Machine.execAtsOr d b g c z s
  | .atsXor d b g c z => Sys2Proof.Machine.execAtsXor d b g c z s
  | .atsSmin d b g c z => Sys2Proof.Machine.execAtsSmin d b g c z s
  | .atsSmax d b g c z => Sys2Proof.Machine.execAtsSmax d b g c z s
  | .atrAdd d b g c z => Sys2Proof.Machine.execAtrAdd d b g c z s
  | .atrSwap d b g c z => Sys2Proof.Machine.execAtrSwap d b g c z s
  | .atrCas d b v g c z => Sys2Proof.Machine.execAtrCas d b v g c z s
  | .atrAnd d b g c z => Sys2Proof.Machine.execAtrAnd d b g c z s
  | .atrOr d b g c z => Sys2Proof.Machine.execAtrOr d b g c z s
  | .atrXor d b g c z => Sys2Proof.Machine.execAtrXor d b g c z s
  | .atrSmin d b g c z => Sys2Proof.Machine.execAtrSmin d b g c z s
  | .atrSmax d b g c z => Sys2Proof.Machine.execAtrSmax d b g c z s
  | .atgAdd d b g c z => Sys2Proof.Machine.execAtgAdd d b g c z s
  | .atgSwap d b g c z => Sys2Proof.Machine.execAtgSwap d b g c z s
  | .atgCas d b v g c z => Sys2Proof.Machine.execAtgCas d b v g c z s
  | .atgAnd d b g c z => Sys2Proof.Machine.execAtgAnd d b g c z s
  | .atgOr d b g c z => Sys2Proof.Machine.execAtgOr d b g c z s
  | .atgXor d b g c z => Sys2Proof.Machine.execAtgXor d b g c z s
  | .atgSmin d b g c z => Sys2Proof.Machine.execAtgSmin d b g c z s
  | .atgSmax d b g c z => Sys2Proof.Machine.execAtgSmax d b g c z s
  | .fence x => Sys2Proof.Machine.execFence x s
  | .acq b x => Sys2Proof.Machine.execAcq b x s
  | .rel b g x => Sys2Proof.Machine.execRel b g x s
  | .ringset a h => Sys2Proof.Machine.execRingset a h s
  | .rneed a h => Sys2Proof.Machine.execRneed a h s
  | .rfree a h => Sys2Proof.Machine.execRfree a h s
  | .radv a h => Sys2Proof.Machine.execRadv a h s
  | .rpub a h => Sys2Proof.Machine.execRpub a h s
  | .rrd d h => Sys2Proof.Machine.execRrd d h s
  | .winset a h => Sys2Proof.Machine.execWinset a h s
  | .winadv a h => Sys2Proof.Machine.execWinadv a h s
  | .mapset a m => Sys2Proof.Machine.execMapset a m s
  | .mapflush m => Sys2Proof.Machine.execMapflush m s
  | .mapinv m => Sys2Proof.Machine.execMapinv m s
  | .mcfill d b v c => Sys2Proof.Machine.execMcfill d b v c s
  | .wbl b c => Sys2Proof.Machine.execWbl b c s
  | .invl b c => Sys2Proof.Machine.execInvl b c s
  | .wbinvl b c => Sys2Proof.Machine.execWbinvl b c s
  | .qcopy q a c x => Sys2Proof.Machine.execQcopy q a c x s
  | .qgath q a b c x => Sys2Proof.Machine.execQgath q a b c x s
  | .qscat q a b c x => Sys2Proof.Machine.execQscat q a b c x s
  | .qfill q a c x => Sys2Proof.Machine.execQfill q a c x s
  | .qdec q a c x => Sys2Proof.Machine.execQdec q a c x s
  | .qenc q a c x => Sys2Proof.Machine.execQenc q a c x s
  | .qcoll q a c x => Sys2Proof.Machine.execQcoll q a c x s
  | .qjoin q a c x => Sys2Proof.Machine.execQjoin q a c x s
  | .qsig q c => Sys2Proof.Machine.execQsig q c s
  | .qstat q d b => Sys2Proof.Machine.execQstat q d b s
  | .movmWriteB x n => Sys2Proof.Machine.execMovmWriteB x n s
  | .vadd d a b k t m => Sys2Proof.Machine.execVadd d a b k t m s
  | .vsub d a b k t m => Sys2Proof.Machine.execVsub d a b k t m s
  | .vmul d a b k t m => Sys2Proof.Machine.execVmul d a b k t m s
  | .vfma d a b k t m => Sys2Proof.Machine.execVfma d a b k t m s
  | .vmin d a b k t => Sys2Proof.Machine.execVmin d a b k t s
  | .vmax d a b k t => Sys2Proof.Machine.execVmax d a b k t s
  | .vabs d a k t m => Sys2Proof.Machine.execVabs d a k t m s
  | .vneg d a k t m => Sys2Proof.Machine.execVneg d a k t m s
  | .vcmpeq d a b k t => Sys2Proof.Machine.execVcmpeq d a b k t s
  | .vcmpne d a b k t => Sys2Proof.Machine.execVcmpne d a b k t s
  | .vcmplt d a b k t => Sys2Proof.Machine.execVcmplt d a b k t s
  | .vcmple d a b k t => Sys2Proof.Machine.execVcmple d a b k t s
  | .vsel d a b k => Sys2Proof.Machine.execVsel d a b k s
  | .vexp2 d a k t => Sys2Proof.Machine.execVexp2 d a k t s
  | .vlog2 d a k t => Sys2Proof.Machine.execVlog2 d a k t s
  | .vrcp d a k t => Sys2Proof.Machine.execVrcp d a k t s
  | .vrsq d a k t => Sys2Proof.Machine.execVrsq d a k t s
  | .vsin d a k t => Sys2Proof.Machine.execVsin d a k t s
  | .vcos d a k t => Sys2Proof.Machine.execVcos d a k t s
  | .vtanh d a k t => Sys2Proof.Machine.execVtanh d a k t s
  | .vsigm d a k t => Sys2Proof.Machine.execVsigm d a k t s
  | .vand d a b k => Sys2Proof.Machine.execVand d a b k s
  | .vor d a b k => Sys2Proof.Machine.execVor d a b k s
  | .vxor d a b k => Sys2Proof.Machine.execVxor d a b k s
  | .vandn d a b k => Sys2Proof.Machine.execVandn d a b k s
  | .vnot d a k => Sys2Proof.Machine.execVnot d a k s
  | .vshl d a b k t => Sys2Proof.Machine.execVshl d a b k t s
  | .vshr d a b k t => Sys2Proof.Machine.execVshr d a b k t s
  | .vsra d a b k t => Sys2Proof.Machine.execVsra d a b k t s
  | .vrotl d a b k t => Sys2Proof.Machine.execVrotl d a b k t s
  | .vcvt d x t u r => Sys2Proof.Machine.execVcvt d x t u r s
  | .vpack d a b k t => Sys2Proof.Machine.execVpack d a b k t s
  | .vunpkl d a k t => Sys2Proof.Machine.execVunpkl d a k t s
  | .vunpkh d a k t => Sys2Proof.Machine.execVunpkh d a k t s
  | .vperm d a b k => Sys2Proof.Machine.execVperm d a b k s
  | .vbcast d a b k => Sys2Proof.Machine.execVbcast d a b k s
  | .vslideup d a b k => Sys2Proof.Machine.execVslideup d a b k s
  | .vslidedn d a b k => Sys2Proof.Machine.execVslidedn d a b k s
  | .vrev d a k => Sys2Proof.Machine.execVrev d a k s
  | .vsplat d a k => Sys2Proof.Machine.execVsplat d a k s
  | .vscani d a k t => Sys2Proof.Machine.execVscani d a k t s
  | .vscanx d a k t => Sys2Proof.Machine.execVscanx d a k t s
  | .vscanmax d a k t => Sys2Proof.Machine.execVscanmax d a k t s
  | .vscanmin d a k t => Sys2Proof.Machine.execVscanmin d a k t s
  | .vredadd d a k t => Sys2Proof.Machine.execVredadd d a k t s
  | .vredmin d a k t => Sys2Proof.Machine.execVredmin d a k t s
  | .vredmax d a k t => Sys2Proof.Machine.execVredmax d a k t s
  | .vredand d a k t => Sys2Proof.Machine.execVredand d a k t s
  | .vredor d a k t => Sys2Proof.Machine.execVredor d a k t s
  | .vredxor d a k t => Sys2Proof.Machine.execVredxor d a k t s
  | .kand d a b => Sys2Proof.Machine.execKand d a b s
  | .kor d a b => Sys2Proof.Machine.execKor d a b s
  | .kxor d a b => Sys2Proof.Machine.execKxor d a b s
  | .kandn d a b => Sys2Proof.Machine.execKandn d a b s
  | .knot d a => Sys2Proof.Machine.execKnot d a s
  | .kpop d a => Sys2Proof.Machine.execKpop d a s
  | .kfirst d a => Sys2Proof.Machine.execKfirst d a s
  | .kfromv d a => Sys2Proof.Machine.execKfromv d a s
  | .ktov d a => Sys2Proof.Machine.execKtov d a s
  | .vlds d x v => Sys2Proof.Machine.execVlds d x v s
  | .vldsp d x v => Sys2Proof.Machine.execVldsp d x v s
  | .vsts a b k => Sys2Proof.Machine.execVsts a b k s
  | .vgath d a b k => Sys2Proof.Machine.execVgath d a b k s
  | .vscat d a b k => Sys2Proof.Machine.execVscat d a b k s
  | .vrrd d k h => Sys2Proof.Machine.execVrrd d k h s
  | .vatomadd d a b k => Sys2Proof.Machine.execVatomadd d a b k s
  | .movmWriteC x j n => Sys2Proof.Machine.execMovmWriteC x j n s
  | .mma d a n f w => Sys2Proof.Machine.execMma d a n f w s
  | .mmab d a n f w => Sys2Proof.Machine.execMmab d a n f w s
  | .bload a w => Sys2Proof.Machine.execBload a w s
  | .bclr w => Sys2Proof.Machine.execBclr w s
  | .fmtw b a => Sys2Proof.Machine.execFmtw b a s
  | .dzero d => Sys2Proof.Machine.execDzero d s
  | .dmov d a => Sys2Proof.Machine.execDmov d a s
  | .dadd d a b => Sys2Proof.Machine.execDadd d a b s
  | .dscl d x => Sys2Proof.Machine.execDscl d x s
  | .dcvt d a r f => Sys2Proof.Machine.execDcvt d a r f s
  | .drd d a b => Sys2Proof.Machine.execDrd d a b s
  | .dwr d a b => Sys2Proof.Machine.execDwr d a b s
  | .mstat d x => Sys2Proof.Machine.execMstat d x s
  | .phnew d a b => Sys2Proof.Machine.execPhnew d a b s
  | .phreg a m => Sys2Proof.Machine.execPhreg a m s
  | .phdrop a => Sys2Proof.Machine.execPhdrop a s
  | .phsig a => Sys2Proof.Machine.execPhsig a s
  | .phwait a => Sys2Proof.Machine.execPhwait a s
  | .phsw a => Sys2Proof.Machine.execPhsw a s
  | .phqry d a b => Sys2Proof.Machine.execPhqry d a b s
  | .launch a => Sys2Proof.Machine.execLaunch a s
  | .lease a => Sys2Proof.Machine.execLease a s
  | .movmWriteD x n => Sys2Proof.Machine.execMovmWriteD x n s
  | .swpt n => Sys2Proof.Machine.execSwpt n s
  | .nop => Sys2Proof.Machine.execNop s
  | .rft => Sys2Proof.Machine.execRft s
  | .halt => Sys2Proof.Machine.execHalt s
  | .ifence => Sys2Proof.Machine.execIfence s
  | .tend => Sys2Proof.Machine.execTend s
  | .taskend => Sys2Proof.Machine.execTaskend s
  | .leaserel => Sys2Proof.Machine.execLeaserel s
  | .bundleIssue core => Sys2Proof.Machine.execBundleIssue core s
  | .acqPoll core => Sys2Proof.Machine.execAcqPoll core s
  | .windowRowArrival core h => Sys2Proof.Machine.execWindowRowArrival core h s
  | .mapFill core map granule => Sys2Proof.Machine.execMapFill core map granule s
  | .queueUnitDone core q remote => Sys2Proof.Machine.execQueueUnitDone core q remote s
  | .queueEntryComplete core q => Sys2Proof.Machine.execQueueEntryComplete core q s
  | .collectiveContribution part group step rank elems => Sys2Proof.Machine.execCollectiveContribution part group step rank elems s
  | .groupTimeout core q => Sys2Proof.Machine.execGroupTimeout core q s
  | .mmaDeliveryEnd core => Sys2Proof.Machine.execMmaDeliveryEnd core s
  | .phaseComplete eng idx => Sys2Proof.Machine.execPhaseComplete eng idx s
  | .phaseAnnounce eng idx rank phase ready => Sys2Proof.Machine.execPhaseAnnounce eng idx rank phase ready s
  | .leaseDecision core => Sys2Proof.Machine.execLeaseDecision core s
  | .leaseExpiry core => Sys2Proof.Machine.execLeaseExpiry core s
  | .slewStep grove => Sys2Proof.Machine.execSlewStep grove s
  | .loadComplete core id data poison => Sys2Proof.Machine.execLoadComplete core id data poison s
  | .writeAcknowledged core v => Sys2Proof.Machine.execWriteAcknowledged core v s
  | .requestTimeout core req => Sys2Proof.Machine.execRequestTimeout core req s
  | .nackResend core req code => Sys2Proof.Machine.execNackResend core req code s
  | .dormantRetry core req => Sys2Proof.Machine.execDormantRetry core req s
  | .fabricRequest r => Sys2Proof.Machine.execFabricRequest r s
  | .refusedResponse core req => Sys2Proof.Machine.execRefusedResponse core req s
  | .fabricLinkTrained port => Sys2Proof.Machine.execFabricLinkTrained port s
  | .fabportWrite by_ port v => Sys2Proof.Machine.execFabportWrite by_ port v s
  | .modidWrite by_ v => Sys2Proof.Machine.execModidWrite by_ v s
  | .cxlLinkLoss port => Sys2Proof.Machine.execCxlLinkLoss port s
  | .backInvalidationSnoop line => Sys2Proof.Machine.execBackInvalidationSnoop line s
  | .poolqWriteBack by_ v => Sys2Proof.Machine.execPoolqWriteBack by_ v s
  | .poolqDiscard by_ v => Sys2Proof.Machine.execPoolqDiscard by_ v s
  | .poolqDone => Sys2Proof.Machine.execPoolqDone s
  | .hostWindowAccess part off acc tbit => Sys2Proof.Machine.execHostWindowAccess part off acc tbit s
  | .untaggedTlp part write => Sys2Proof.Machine.execUntaggedTlp part write s
  | .launchPortWrite off bytes => Sys2Proof.Machine.execLaunchPortWrite off bytes s
  | .launchMessage env pkt => Sys2Proof.Machine.execLaunchMessage env pkt s
  | .launchReportMessage msg => Sys2Proof.Machine.execLaunchReportMessage msg s
  | .admission part => Sys2Proof.Machine.execAdmission part s
  | .dispatch part core => Sys2Proof.Machine.execDispatch part core s
  | .quantumExpiry core => Sys2Proof.Machine.execQuantumExpiry core s
  | .agingStep part lid sidx => Sys2Proof.Machine.execAgingStep part lid sidx s
  | .longWaitSwap core => Sys2Proof.Machine.execLongWaitSwap core s
  | .pfdoneRetry by_ part v => Sys2Proof.Machine.execPfdoneRetry by_ part v s
  | .pfdoneTrap by_ part v => Sys2Proof.Machine.execPfdoneTrap by_ part v s
  | .schedkill by_ part v => Sys2Proof.Machine.execSchedkill by_ part v s
  | .evqbaseWrite by_ part v => Sys2Proof.Machine.execEvqbaseWrite by_ part v s
  | .grovepwrWrite by_ grove v => Sys2Proof.Machine.execGrovepwrWrite by_ grove v s
  | .thermChange grove level reading => Sys2Proof.Machine.execThermChange grove level reading s
  | .droopTrip grove cycles => Sys2Proof.Machine.execDroopTrip grove cycles s
  | .droopWindowEnd grove => Sys2Proof.Machine.execDroopWindowEnd grove s
  | .rowIdleTimer stack bank hitQueued => Sys2Proof.Machine.execRowIdleTimer stack bank hitQueued s
  | .invalidate by_ part v => Sys2Proof.Machine.execInvalidate by_ part v s
  | .invalidateAll by_ part v => Sys2Proof.Machine.execInvalidateAll by_ part v s
  | .invalidateFlush by_ part v => Sys2Proof.Machine.execInvalidateFlush by_ part v s
  | .invalidationComplete part => Sys2Proof.Machine.execInvalidationComplete part s
  | .hotnessWindow part lid range misses => Sys2Proof.Machine.execHotnessWindow part lid range misses s
  | .migrationGo by_ part v => Sys2Proof.Machine.execMigrationGo by_ part v s
  | .migrationSwitch part => Sys2Proof.Machine.execMigrationSwitch part s
  | .migrationDone part => Sys2Proof.Machine.execMigrationDone part s
  | .migrationAborted part lost => Sys2Proof.Machine.execMigrationAborted part lost s
  | .partctlWrite by_ part v => Sys2Proof.Machine.execPartctlWrite by_ part v s
  | .partitionTeardown by_ part v => Sys2Proof.Machine.execPartitionTeardown by_ part v s
  | .groveChangeDone part => Sys2Proof.Machine.execGroveChangeDone part s
  | .cfgselWrite by_ part v => Sys2Proof.Machine.execCfgselWrite by_ part v s
  | .cfgdataWrite by_ part v => Sys2Proof.Machine.execCfgdataWrite by_ part v s
  | .ownerChange by_ v => Sys2Proof.Machine.execOwnerChange by_ v s
  | .ownerChangeDone => Sys2Proof.Machine.execOwnerChangeDone s
  | .lockInterface part => Sys2Proof.Machine.execLockInterface part s
  | .getDeviceInterfaceReport part => Sys2Proof.Machine.execGetDeviceInterfaceReport part s
  | .startInterface part => Sys2Proof.Machine.execStartInterface part s
  | .stopInterface part => Sys2Proof.Machine.execStopInterface part s
  | .keyset part slot lid digest key => Sys2Proof.Machine.execKeyset part slot lid digest key s
  | .ownset part entry base units lid => Sys2Proof.Machine.execOwnset part entry base units lid s
  | .keyclr part range index => Sys2Proof.Machine.execKeyclr part range index s
  | .spdmRequest code payload => Sys2Proof.Machine.execSpdmRequest code payload s
  | .ideKm stream key => Sys2Proof.Machine.execIdeKm stream key s
  | .elideSet by_ v => Sys2Proof.Machine.execElideSet by_ v s
  | .elideClear by_ v => Sys2Proof.Machine.execElideClear by_ v s
  | .checkpointBoundary part full => Sys2Proof.Machine.execCheckpointBoundary part full s
  | .rollback part lid sidx => Sys2Proof.Machine.execRollback part lid sidx s
  | .powerFailWarning shelf => Sys2Proof.Machine.execPowerFailWarning shelf s
  | .dormctlTest by_ v => Sys2Proof.Machine.execDormctlTest by_ v s
  | .dormctlDiscard by_ v => Sys2Proof.Machine.execDormctlDiscard by_ v s
  | .stopPhaseEnd => Sys2Proof.Machine.execStopPhaseEnd s
  | .writeBackDone => Sys2Proof.Machine.execWriteBackDone s
  | .drainDone => Sys2Proof.Machine.execDrainDone s
  | .reserveAtSealres units => Sys2Proof.Machine.execReserveAtSealres units s
  | .sealWritten => Sys2Proof.Machine.execSealWritten s
  | .reserveSpent => Sys2Proof.Machine.execReserveSpent s
  | .hardThermalTrip => Sys2Proof.Machine.execHardThermalTrip s
  | .supplyLoss => Sys2Proof.Machine.execSupplyLoss s
  | .reserveCharged => Sys2Proof.Machine.execReserveCharged s
  | .brownOutChange level => Sys2Proof.Machine.execBrownOutChange level s
  | .brownFallHeld => Sys2Proof.Machine.execBrownFallHeld s
  | .dieShed die => Sys2Proof.Machine.execDieShed die s
  | .dieRestore die => Sys2Proof.Machine.execDieRestore die s
  | .cutTake by_ v => Sys2Proof.Machine.execCutTake by_ v s
  | .cutRestore by_ v => Sys2Proof.Machine.execCutRestore by_ v s
  | .cutAbort by_ v => Sys2Proof.Machine.execCutAbort by_ v s
  | .cutDone reachable => Sys2Proof.Machine.execCutDone reachable s
  | .powerOn => Sys2Proof.Machine.execPowerOn s
  | .fundamentalReset => Sys2Proof.Machine.execFundamentalReset s
  | .fullStart by_ v => Sys2Proof.Machine.execFullStart by_ v s
  | .startStep res => Sys2Proof.Machine.execStartStep res s
  | .startTimeout => Sys2Proof.Machine.execStartTimeout s
  | .registerWrite by_ off wide v => Sys2Proof.Machine.execRegisterWrite by_ off wide v s
  | .readClear by_ bar2 off => Sys2Proof.Machine.execReadClear by_ bar2 off s
  | .cxlLinkTrained port => Sys2Proof.Machine.execCxlLinkTrained port s
  | .pageWaitRetry core held => Sys2Proof.Machine.execPageWaitRetry core held s
  | .portModuleLosesValid port => Sys2Proof.Machine.execPortModuleLosesValid port s
  | .auxiliarySupplyLoss => Sys2Proof.Machine.execAuxiliarySupplyLoss s

end Sys2Proof.Machine
end

