-- ==== Sys2Proof/Machine/Run.lean ====
section
/-!
DEFINITION. How the machine takes its turns: running the slots of the bundle in issue, the order in which the module's own
agents take theirs when nothing else is due (log 10), and the placing of a word for the host.
-/

namespace Sys2Proof.Machine

/-! ## Running a bundle's slots -/

/-- The slot that a number names. -/
def slotOf (n : BitVec 2) : Slot := if n = 0 then .a else if n = 1 then .b else if n = 2 then .c else .d

/-- Run the next slot of the bundle in issue: the instruction of its word; a header in slot A is no instruction (R29). -/
def State.runSlot (s : State) : Out :=
  let n := s.thr.slotNow
  let w := s.thr.wordNow
  if n = 0 && isHeader w then exec .nop s
  else
    match raw (slotOf n) w with
    | .ok i _ => exec i s
    | .swpt k _ => Sys2Proof.Machine.execSwpt k s
    | .bad _ => exec .nop s

/-- Run slots while each commits. -/
def runSlots : Nat → State → Out
  | 0, s => .next s
  | n + 1, s =>
    match s.thr.issue with
    | none => .next s
    | some i =>
      match s.runSlot with
      | .next t =>
        match t.thr.issue with
        | some j => if j.slot = i.slot then .next t else runSlots n t
        | none => .next t
      | o => o

/-! ## Turns -/

/-- A context that waits in its slot stops there when a stop is due (R437). -/
def State.stalledStop (s : State) : Bool := s.ctx.wait ≠ .none && s.stopDue
/-- A turn of the current core: the slots of the bundle in issue run, or its next bundle issues and runs. Then the turn
passes. A core whose context is being saved runs nothing (R297). -/
def State.turn (s : State) : Out :=
  if !(s.core s.cur).busy || (s.core s.cur).saving then .next s.pass
  else if s.thr.issue.isSome && s.stalledStop then .next (s.stop s.cur .ready).pass
  else
    match runSlots 4 (if s.thr.issue.isSome then s else s.issueNext) with
    | .next t => .next t.pass
    | o => o

/-- A step of the agenda ends: the tasks whose waits it ended become ready (R353). -/
def woken : Out → Out
  | .next s => .next s.wake
  | o => o

/-! ## The host's placing of a word -/

/-- The four words of a bundle that holds one word in a slot and NOP in the others. -/
def bundleWith (sl : Slot) (w : BitVec 32) : List Byte :=
  let at_ (t : Slot) : List Byte := if sl = t then wordBytes w else wordBytes 0
  at_ .a ++ at_ .b ++ at_ .c ++ at_ .d

/-- The byte address of the bundle that the host's word is placed in. -/
def placeVa : Nat := 0x100000

/-- A loaded program in place on the current core (log 17): partition 0 holds the core's grove and HBM granule 0, whose
first GiB its page tables map one to one; the core runs a task that declares every resource, and its next bundle holds the
word, at whose slot it resumes. -/
def State.placeWord (s : State) (w : BitVec 32) : State :=
  let sl := (tableSlot w).getD .a
  let bytes := writeBytes (writeBytes (writeBytes s.mem.bytes
    0 (leBytes 8 0x8000000000020000 ++ leBytes 8 0))
    0x20000 (leBytes 8 0xA700000000000000 ++ leBytes 8 0))
    placeVa (bundleWith sl w)
  let kern : Kernel := { Kernel.zero with
    spad := 0x180000, rings := 16, tiles := 8, wslots := 4, phasers := 64,
    sched0 := some ⟨0x10000, 1, 0xFFFFFFFF, 0, 0xFFFFFFFF⟩ }
  let ctx : Ctx := { Ctx.zero with
    lid := 1, kern := kern, task := { Thread.zero with pc := 0x10000, resume := sl.num }
    walk := { Ctx.zero.walk with run := 2, proDone := true } }
  let s := { s with
    agenda := []
    mem := { s.mem with bytes := bytes }
    trunk := { (s.trunk.setOwn 0 0) with groveslive := s.trunk.groveslive ||| (1 <<< (groveOf s.cur).toNat) } }
  let s := s.onPart 0 fun p => { p with
    partctl := 0x8000000000000000 ||| (1 <<< (groveOf s.cur).toNat)
    ptroot := 0x8000000000000000 }
  s.onCore s.cur fun k => { k with busy := true, ctx := ctx }

end Sys2Proof.Machine
end

