-- ==== Sys2Proof/Machine/Step.lean ====
section
/-!
DEFINITION. One step of the module, and the host's placing of a word. What both do stands in Run.lean and Dispatch.lean.
-/

namespace Sys2Proof.Machine

/-- One step: the agenda's head (log 1), else a turn of the current core. -/
def step (s : State) : Host.Outcome State Fault Refusal :=
  match s.agenda with
  | i :: t => woken (exec i { s with agenda := t })
  | [] => s.turn

/-- `s` with a table word where the next step fetches (log 17). -/
def State.withFetchWord (s : State) (nbits w : Nat) : State :=
  if nbits ≤ 32 then s.placeWord (BitVec.ofNat 32 w) else s.placeWord 0xFFFFFFFF

end Sys2Proof.Machine
end

