-- ==== Sys2Proof/Safety.lean ====
section
/-!
DEFINITION. What counts as a safe run: every step answers a next state. The spec gives every step an effect, so no trap of
the hardware is a stop of the model (R426); a fault or a refusal would be one.
-/

namespace Sys2Proof.Safety

open Sys2Proof.Machine

/-- A step's outcome is a next state that a property holds of. -/
def Next (o : Host.Outcome State Fault Refusal) (p : State → Prop) : Prop :=
  match o with
  | .next s => p s
  | _ => False

/-- The module runs `n` steps from a state without a stop. -/
def Runs : Nat → State → Prop
  | 0, _ => True
  | n + 1, s => Next (step s) (Runs n)

end Sys2Proof.Safety
end

