-- ==== Sys2Proof/WellFormed.lean ====
section
/-!
DEFINITION. Which instructions are well-formed: a slot instruction that its map can hold and that breaks no case of R62, and
a step of another agent whose arguments the spec admits.
-/

namespace Sys2Proof

/-- A slot instruction that has a word and breaks no case of R62 by itself. -/
def Instr.wfSlot (caps : List (BitVec 12)) (i : Instr) : Bool := (encode i).isSome && (i.illegal caps).isEmpty

/-- A transaction of a host: 1 to 64 bytes (R317, R421). -/
def HostAcc.wf : HostAcc → Bool
  | .read n => decide (1 ≤ n.toNat) && decide (n.toNat ≤ 64)
  | .write d => decide (1 ≤ d.length) && decide (d.length ≤ 64)

/-- A request of another module: 1 to 256 bytes within a 256-byte block of the source's making (R309, R511); an atomic is
naturally aligned. -/
def FabricReq.wf (r : FabricReq) : Bool :=
  match r.kind with
  | .read n => decide (1 ≤ n.toNat) && decide (n.toNat ≤ 256)
  | .write d _ _ => decide (1 ≤ d.length) && decide (d.length ≤ 256)
  | .atomic _ wide _ _ => decide (r.pa.toNat % (if wide then 8 else 4) = 0)

/-- A step of another agent whose arguments the spec admits: ports 0 to 35 (R308), messages of their lengths (R344, R345),
a pool sharer's write within its line (R313), aligned register offsets (R8); every other step. -/
def Instr.wfStep : Instr → Bool
  | .fabricLinkTrained p => decide (p.toNat < 36)
  | .fabportWrite _ p _ => decide (p.toNat < 36)
  | .portModuleLosesValid p => decide (p.toNat < 36)
  | .launchMessage env pkt => decide (env.length = 16) && decide (pkt.length = 64)
  | .launchReportMessage msg => decide (msg.length = 48)
  | .hostWindowAccess _ _ acc _ => acc.wf
  | .fabricRequest r => r.wf
  | .backInvalidationSnoop ⟨_, some (o, d)⟩ => decide (o.toNat + d.length ≤ 64)
  | .registerWrite _ off wide _ => decide (off.toNat % (if wide then 8 else 4) = 0)
  | .readClear _ _ off => decide (off.toNat % 4 = 0)
  | _ => true

/-- A well-formed instruction under the capabilities of the Eofold E2 (R28). -/
def Instr.wf (i : Instr) : Bool :=
  if (encode i).isSome then i.wfSlot Config.caps else i.wfStep

end Sys2Proof
end

