-- ==== Sys2Proof/Certificates/Slice0/Obligations.lean ====
section
/-!
DEFINITION. The statements for the provers, from the spec's numbered rules. `Sys2Proof.Claims` holds the words the statements
share; every statement about one instruction names the state it ends in, so that it also says what it leaves alone.
-/

namespace Sys2Proof.Claims

open Sys2Proof.Machine

/-! ## What a committed instruction leaves -/

/-- A tag that makes a source poison (R48, R122). -/
def bad (v : TVal) : Bool := v.tag = 2 || v.tag = 3
/-- A result of R122: 0 with tag 0b10 when a source is poison, else the value with a clean tag. -/
def result (poison : Bool) (r : BitVec 64) : TVal := if poison then ⟨0, 2⟩ else ⟨r, 0⟩
/-- Where specifier `d` of a slot A destination sends a result: a0-a15, the last-result file alone (16), nowhere (R32). -/
def destinationA (d : Reg) : LDest :=
  if h : d.toNat < 16 then .a ⟨d.toNat, h⟩ else if d = 16 then .aLast else .discard
/-- The same for slot B. -/
def destinationB (d : Reg) : LDest :=
  if h : d.toNat < 16 then .b ⟨d.toNat, h⟩ else if d = 16 then .bLast else .discard
/-- The same for slot D: 16 alone keeps the result (R77). -/
def destinationD (d : Reg) : LDest := if d = 16 then .dLast else .discard
/-- One more result in the landing buffer of the program that runs (R40); nothing else changes. -/
def withResult (s : State) (lat : Nat) (dest : LDest) (v : LVal) (fl : BitVec 7 := 0) (matrix : Bool := false) : State :=
  s.onThr fun t => { t with landing := t.landing ++ [⟨lat, dest, v, fl, matrix⟩] }
/-- The instruction of slot A commits with one scalar result of latency `lat` for specifier `d`. -/
def commitsA (s : State) (lat : Nat) (d : Reg) (v : TVal) (fl : BitVec 7 := 0) : State :=
  (withResult s lat (destinationA d) (.scalar v) fl).slotDone

/-- A form of two slot A sources: unless one is deferred it commits with a result that `R` relates to the sources, poison
where one of them is poison. -/
def IntegerA2 (mk : Reg → Reg → Reg → Instr) (lat : Nat) (R : BitVec 64 → BitVec 64 → BitVec 64 → Prop) : Prop :=
  ∀ (s : State) (d a b : Reg), (s.thr.readA a).tag ≠ 1 → (s.thr.readA b).tag ≠ 1 →
    ∃ r, R (s.thr.readA a).val (s.thr.readA b).val r ∧
      exec (mk d a b) s = .next (commitsA s lat d (result (bad (s.thr.readA a) || bad (s.thr.readA b)) r))
/-- The same for a form of one source. -/
def IntegerA1 (mk : Reg → Reg → Instr) (lat : Nat) (R : BitVec 64 → BitVec 64 → Prop) : Prop :=
  ∀ (s : State) (d a : Reg), (s.thr.readA a).tag ≠ 1 →
    ∃ r, R (s.thr.readA a).val r ∧ exec (mk d a) s = .next (commitsA s lat d (result (bad (s.thr.readA a)) r))

/-! ## Bitfields -/

/-- The field of `wd` bits at `pos`; bits above 63 read as 0. -/
def field (x : BitVec 64) (pos wd : Nat) : Nat := x.toNat / 2 ^ pos % 2 ^ wd
/-- The signed number that `wd` bits spell. -/
def signedField (wd n : Nat) : Int := if n < 2 ^ (wd - 1) then n else (n : Int) - 2 ^ wd
/-- `r` is `z` with its bits `pos` to `pos + wd − 1` replaced by the low bits of `x`. -/
def Inserted (x z r : BitVec 64) (pos wd : Nat) : Prop :=
  ∀ j < 64, r.getLsbD j = if pos ≤ j ∧ j < pos + wd then x.getLsbD (j - pos) else z.getLsbD j

/-! ## Floating point -/

/-- The rational number (−1)^neg × m × 2^e. -/
def rat (neg : Bool) (m : Nat) (e : Int) : ℚ := (if neg then -1 else 1) * m * 2 ^ e
/-- The number that a finite value is. -/
def number : FVal → Option ℚ
  | .fin neg m e => some (rat neg m e)
  | _ => none
/-- A source of a format: poison by its tag or by its pattern (R122, R99); the bits above the format are ignored (R123). -/
def source (f : FFmt) (v : TVal) : FVal := if bad v then .poison else f.unpack (v.val.toNat % 2 ^ f.width)
/-- The exact number `q`, which is not 0, rounded once: `q` written as (−1)^neg × m × 2^e goes through the format's rounding. -/
def RoundsTo (f : FFmt) (mode : RMode) (q : ℚ) (r : FRes) : Prop :=
  ∃ neg m e, m ≠ 0 ∧ rat neg m e = q ∧ f.round mode neg m e = r
/-- An infinity's code with its sign. -/
def infinity (f : FFmt) (neg : Bool) : Nat := (if neg then 2 ^ (f.width - 1) else 0) + (2 ^ f.eb - 1) * 2 ^ f.mb
/-- A zero's code with its sign. -/
def zero (f : FFmt) (neg : Bool) : Nat := if neg then 2 ^ (f.width - 1) else 0

/-- The sum of two values that are not poison, as IEEE 754 forms it (R105). -/
def Sum (f : FFmt) (mode : RMode) (x y : FVal) (r : FRes) : Prop :=
  match x, y with
  | .poison, _ | _, .poison => True
  | .nan, _ | _, .nan => r = (f.nanCode, 0)
  | .inf a, .inf b => r = if a = b then (infinity f a, 0) else (f.nanCode, flNV)
  | .inf a, .fin .. => r = (infinity f a, 0)
  | .fin .., .inf a => r = (infinity f a, 0)
  | .fin a m e, .fin b n d =>
    if rat a m e + rat b n d = 0 then
      r = (zero f (if m = 0 ∧ n = 0 ∧ a = b then a else mode == .rm), 0)
    else RoundsTo f mode (rat a m e + rat b n d) r
/-- The product of two values that are not poison. -/
def Product (f : FFmt) (mode : RMode) (x y : FVal) (r : FRes) : Prop :=
  match x, y with
  | .poison, _ | _, .poison => True
  | .nan, _ | _, .nan => r = (f.nanCode, 0)
  | .inf a, .inf b => r = (infinity f (a != b), 0)
  | .inf a, .fin b n _ | .fin b n _, .inf a => r = if n = 0 then (f.nanCode, flNV) else (infinity f (a != b), 0)
  | .fin a m e, .fin b n d =>
    if m = 0 ∨ n = 0 then r = (zero f (a != b), 0) else RoundsTo f mode (rat a m e * rat b n d) r
/-- The exact product of two values that are not NaN, before any rounding. -/
def exactProduct : FVal → FVal → FVal
  | .fin a m e, .fin b n d => .fin (a != b) (m * n) (e + d)
  | .inf a, .inf b | .inf a, .fin b _ _ | .fin b _ _, .inf a => .inf (a != b)
  | _, _ => .nan
/-- An infinity times a zero. -/
def InvalidProduct : FVal → FVal → Prop
  | .inf _, .fin _ m _ | .fin _ m _, .inf _ => m = 0
  | _, _ => False
/-- z + x × y of values that are not poison, rounded once: a NaN in any place gives the canonical NaN, an infinity times a zero is
invalid, and else the exact product is added as IEEE 754 adds it (R105). -/
def Fused (f : FFmt) (mode : RMode) (z x y : FVal) (r : FRes) : Prop :=
  z ≠ .poison → x ≠ .poison → y ≠ .poison →
    (x = .nan ∨ y = .nan → r = (f.nanCode, 0)) ∧
    (z = .nan → r.1 = f.nanCode ∧ (¬InvalidProduct x y → r.2 = 0)) ∧
    (z ≠ .nan → InvalidProduct x y → r = (f.nanCode, flNV)) ∧
    (z ≠ .nan → x ≠ .nan → y ≠ .nan → ¬InvalidProduct x y → Sum f mode z (exactProduct x y) r)

/-- x < y of values that are not NaN: −∞ below, +∞ above, numbers as numbers. -/
def Below : FVal → FVal → Prop
  | .inf a, .inf b => a = true ∧ b = false
  | .inf a, .fin .. => a = true
  | .fin .., .inf b => b = false
  | .fin a m e, .fin b n d => rat a m e < rat b n d
  | _, _ => False
/-- x = y of values that are not NaN. -/
def Same : FVal → FVal → Prop
  | .inf a, .inf b => a = b
  | .fin a m e, .fin b n d => rat a m e = rat b n d
  | _, _ => False

/-- A result of a floating-point form: the poison pattern with tag 0b10 and no flag, or the code with a clean tag (R122). -/
def commitsFloat (s : State) (f : FFmt) (lat : Nat) (d : Reg) (poison : Bool) (r : FRes) : State :=
  if poison then commitsA s lat d ⟨BitVec.ofNat 64 f.poisonCode, 2⟩ 0
  else commitsA s lat d ⟨BitVec.ofNat 64 r.1, 0⟩ r.2
/-- The form of two sources in a format that no source stops: `R` relates the two values to code and flags. -/
def FloatA2 (mk : Reg → Reg → Reg → Instr) (f : FFmt) (lat : Nat) (R : FVal → FVal → FRes → Prop) : Prop :=
  ∀ (s : State) (d a b : Reg), (s.thr.readA a).tag ≠ 1 → (s.thr.readA b).tag ≠ 1 →
    ∃ r, R (source f (s.thr.readA a)) (source f (s.thr.readA b)) r ∧
      exec (mk d a b) s = .next (commitsFloat s f lat d
        ((source f (s.thr.readA a)).isPoison || (source f (s.thr.readA b)).isPoison) r)
/-- FADD, FSUB, FMUL and FMA of a format under each rounding mode (R133). -/
def FloatArithmetic (f : FFmt) (lat : Nat) (add sub mul fma : Reg → Reg → Reg → BitVec 2 → Instr) : Prop :=
  ∀ r : BitVec 2,
    FloatA2 (fun d a b => add d a b r) f lat (Sum f (rmode r)) ∧
    FloatA2 (fun d a b => sub d a b r) f lat (fun x y => Sum f (rmode r) x y.neg) ∧
    FloatA2 (fun d a b => mul d a b r) f lat (Product f (rmode r)) ∧
    ∀ (s : State) (d a b : Reg), (s.thr.readA a).tag ≠ 1 → (s.thr.readA b).tag ≠ 1 → (s.thr.readA d).tag ≠ 1 →
      ∃ c, Fused f (rmode r) (source f (s.thr.readA d)) (source f (s.thr.readA a)) (source f (s.thr.readA b)) c ∧
        exec (fma d a b r) s = .next (commitsFloat s f lat d
          ((source f (s.thr.readA a)).isPoison || (source f (s.thr.readA b)).isPoison ||
            (source f (s.thr.readA d)).isPoison) c)

/-- A form of two sources that looks at their codes as well. -/
def FloatCodes2 (mk : Reg → Reg → Reg → Instr) (f : FFmt) (lat : Nat) (R : Nat → Nat → FRes → Prop) : Prop :=
  ∀ (s : State) (d a b : Reg), (s.thr.readA a).tag ≠ 1 → (s.thr.readA b).tag ≠ 1 →
    ∃ r, R ((s.thr.readA a).val.toNat % 2 ^ f.width) ((s.thr.readA b).val.toNat % 2 ^ f.width) r ∧
      exec (mk d a b) s = .next (commitsFloat s f lat d
        ((source f (s.thr.readA a)).isPoison || (source f (s.thr.readA b)).isPoison) r)
/-- The lesser (or greater) of two codes without flags: one NaN gives the other, two the canonical NaN, and −0 is below +0. -/
def Extreme (f : FFmt) (greater : Bool) (x y : Nat) (r : FRes) : Prop :=
  r.2 = 0 ∧ ((f.unpack x).isNan → (f.unpack y).isNan → r.1 = f.nanCode) ∧
  ((f.unpack x).isNan → ¬(f.unpack y).isNan → r.1 = y) ∧ (¬(f.unpack x).isNan → (f.unpack y).isNan → r.1 = x) ∧
  (Below (f.unpack x) (f.unpack y) → r.1 = if greater then y else x) ∧
  (Below (f.unpack y) (f.unpack x) → r.1 = if greater then x else y) ∧
  (x = zero f true → y = zero f false → r.1 = if greater then y else x) ∧
  (x = zero f false → y = zero f true → r.1 = if greater then x else y)
/-- A form of one source that changes the sign bit of its code alone. -/
def FloatSign (mk : Reg → Reg → Instr) (f : FFmt) (lat : Nat) (sign : Bool → Bool) : Prop :=
  ∀ (s : State) (d a : Reg), (s.thr.readA a).tag ≠ 1 →
    ∃ c, c < 2 ^ f.width ∧ c % 2 ^ (f.width - 1) = (s.thr.readA a).val.toNat % 2 ^ (f.width - 1) ∧
      f.signBit c = sign ((s.thr.readA a).val.getLsbD (f.width - 1)) ∧
      exec (mk d a) s = .next (commitsFloat s f lat d (source f (s.thr.readA a)).isPoison (c, 0))
/-- A compare: an integer result 1 or 0, poison where a source is, and NV where it signals on a NaN. -/
def FloatCompare (mk : Reg → Reg → Reg → Instr) (f : FFmt) (lat : Nat) (signals : Bool) (rel : FVal → FVal → Prop) : Prop :=
  ∀ (s : State) (d a b : Reg), (s.thr.readA a).tag ≠ 1 → (s.thr.readA b).tag ≠ 1 →
    let x := source f (s.thr.readA a)
    let y := source f (s.thr.readA b)
    let poison := x.isPoison || y.isPoison
    ∃ r : BitVec 64, (rel x y → r = 1) ∧ (¬rel x y → r = 0) ∧
      exec (mk d a b) s = .next (commitsA s lat d (result poison r)
        (if signals = true ∧ poison = false ∧ (x.isNan || y.isNan) = true then flNV else 0))
/-- The forms of R133 that do not round, in a format. -/
def FloatCompares (f : FFmt) (lat : Nat) (min max eq lt le un : Reg → Reg → Reg → Instr) (abs neg : Reg → Reg → Instr) : Prop :=
  FloatCodes2 min f lat (Extreme f false) ∧ FloatCodes2 max f lat (Extreme f true) ∧
  FloatSign abs f lat (fun _ => false) ∧ FloatSign neg f lat (fun b => !b) ∧
  FloatCompare eq f lat false Same ∧ FloatCompare lt f lat true Below ∧
  FloatCompare le f lat true (fun x y => Below x y ∨ Same x y) ∧
  FloatCompare un f lat false (fun x y => x = .nan ∨ y = .nan)

/-- An integer that `q` rounds to under a mode (R104): toward a side, or nearest with ties to even. -/
def RoundsToInt (mode : RMode) (q : ℚ) (i : Int) : Prop :=
  match mode with
  | .rn => |q - i| ≤ 1 / 2 ∧ (|q - i| = 1 / 2 → i % 2 = 0)
  | .rz => |(i : ℚ)| ≤ |q| ∧ |q - i| < 1 ∧ 0 ≤ q * i
  | .rp => q ≤ i ∧ i < q + 1
  | .rm => (i : ℚ) ≤ q ∧ q < i + 1
  | .rs _ => True
/-- Bounds of an integer format of FCVT: 0 INT32, 1 UINT32, 2 INT64, 3 UINT64. -/
def intLow (t : BitVec 4) : Int := if t = 0 then -2 ^ 31 else if t = 2 then -2 ^ 63 else 0
/-- The upper bound. -/
def intHigh (t : BitVec 4) : Int :=
  if t = 0 then 2 ^ 31 - 1 else if t = 1 then 2 ^ 32 - 1 else if t = 2 then 2 ^ 63 - 1 else 2 ^ 64 - 1
/-- The float format of an FCVT code: 4 FP32, 5 FP64, 6 FP16, 7 BF16. -/
def floatOf (t : BitVec 4) : FFmt := if t = 4 then ⟨8, 23, .ieee⟩ else if t = 5 then ⟨11, 52, .ieee⟩
  else if t = 6 then ⟨5, 10, .ieee⟩ else ⟨8, 7, .ieee⟩
/-- A value becomes an integer (R107): the nearest bound with NV out of range, 0 with NV for a NaN, NX where it is inexact. -/
def ToInteger (t : BitVec 4) (mode : RMode) (v : FVal) (r : BitVec 64) (fl : BitVec 7) : Prop :=
  match v with
  | .poison => True
  | .nan => r = 0 ∧ fl = flNV
  | .inf neg => r = BitVec.ofInt 64 (if neg then intLow t else intHigh t) ∧ fl = flNV
  | .fin neg m e => ∃ i, RoundsToInt mode (rat neg m e) i ∧
    (i < intLow t → r = BitVec.ofInt 64 (intLow t) ∧ fl = flNV) ∧
    (intHigh t < i → r = BitVec.ofInt 64 (intHigh t) ∧ fl = flNV) ∧
    (intLow t ≤ i → i ≤ intHigh t → r = BitVec.ofInt 64 i ∧ fl = if rat neg m e = i then 0 else flNX)
/-- The integer that a register holds in a format. -/
def intIn (t : BitVec 4) (x : BitVec 64) : Int :=
  if t = 0 then (x.setWidth 32).toInt else if t = 1 then (x.setWidth 32).toNat else if t = 2 then x.toInt else x.toNat

/-! ## Control and system -/

/-- A taken transfer of the bundle in issue (R135): it joins the pending list when the bundle completes. -/
def redirected (s : State) (target : BitVec 52) : State := s.onThr fun t => { t with taken := some target }
/-- (PC + SignExtend(off21)) mod 2^52 (R136). -/
def relative (s : State) (o : BitVec 21) : BitVec 52 := BitVec.ofInt 52 (s.thr.pc.toNat + o.toInt)
/-- PC + 4, the link of CALL and CALLR (R138). -/
def linkOf (s : State) : TVal := ⟨BitVec.ofNat 64 ((s.thr.pc.toNat + 4) % 2 ^ 52), 0⟩
/-- The state after a slot's trap (R429): a killed task ends there instead (R358). -/
def traps (s : State) (cause : BitVec 8) (detail : BitVec 64) : State := s.trapAt s.thr.slotNow cause detail
/-- The state in which a slot waits. -/
def waits (s : State) (w : Wait) : State := s.onCtx fun c => { c with wait := w }

/-- The fields of tsw (R428). -/
def TswFields (c : Ctx) (r : BitVec 64) : Prop :=
  r.toNat = c.csr.cause.toNat * 2 ^ 56 + c.csr.sres.toNat * 2 ^ 54 + c.sched.toNat * 2 ^ 52 +
    c.task.redirects.length % 4 * 2 ^ 50
/-- The task register that regsel names (R432): bits 9:8 the file, bits 5:0 the index. -/
def Selected (c : Ctx) (v : Option TVal) : Prop :=
  let ix := c.csr.regsel.toNat % 64
  let file := c.csr.regsel.toNat / 256 % 4
  (file = 0 → ix < 16 → v = c.task.a[ix]?) ∧ (file = 1 → ix < 16 → v = c.task.b[ix]?) ∧ (file = 2 → v = c.task.m[ix]?) ∧
  (file < 2 → 16 ≤ ix → v = none) ∧ (file = 3 → v = none)
/-- What register `n` reads (R436). -/
def CsrValue (s : State) (n : BitVec 12) (r : BitVec 64) : Prop :=
  let c := s.ctx
  let k := s.core s.cur
  match n.toNat with
  | 0x000 => TswFields c r
  | 0x001 => r.toNat = c.csr.tpc.toNat
  | 0x002 => r = c.csr.tdet
  | 0x003 => r = c.csr.regsel
  | 0x004 => ∃ v, Selected c v ∧ r = ((v.map (·.val)).getD 0)
  | 0x005 => ∃ v, Selected c v ∧ r.toNat = ((v.map (·.tag.toNat)).getD 0)
  | 0x010 => r = c.task.btime
  | 0x011 => r.toNat = c.csr.arflags.toNat
  | 0x012 => r.toNat = c.csr.srseed.toNat
  | 0x013 => r.toNat = c.csr.srstate.toNat
  | 0x014 => r.toNat = c.csr.segnum.toNat * 2 ^ 48 + c.csr.suspect.toNat * 2 ^ 33 + c.csr.segOpen.toNat * 2 ^ 32 +
      c.csr.segCount.toNat
  | 0x015 => r.toNat = c.csr.segCrc.toNat
  | 0x016 => r.toNat = c.csr.mcAny.toNat * 2 ^ 16 + c.csr.mcLast.toNat
  | 0x017 => r = c.csr.phqres
  | 0x018 => r.toNat = (if c.lease.held then c.lease.remain.toNat * 2 ^ 32 + c.lease.level.toNat * 2 ^ 3 else 0) +
      c.lease.held.toNat * 2 ^ 7 + c.lease.request.isSome.toNat * 2 ^ 6 + c.lease.suspended.toNat * 2 ^ 5 +
      c.lease.refused.toNat
  | 0x100 => some r.toNat = k.bankloss[0]?.map (·.toNat)
  | 0x101 => some r.toNat = k.bankloss[1]?.map (·.toNat)
  | 0x102 => some r.toNat = k.bankloss[2]?.map (·.toNat)
  | 0x103 => some r.toNat = k.bankloss[3]?.map (·.toNat)
  | 0x104 => r.toNat = c.part.toNat * 2 ^ 8 + s.cur.toNat
  | 0x200 => r.toNat = (s.grove (groveOf s.cur)).droopctl.toNat
  | 0x300 => r.toNat = (s.die (dieOf s.cur)).memrowa.toNat
  | 0x301 => r.toNat = (s.die (dieOf s.cur)).memrowb.toNat
  | 0x302 => r.toNat = (s.die (dieOf s.cur)).acktmo.toNat
  | _ => True
/-- The registers that R436 lists. -/
def csrList : List Nat :=
  [0x000, 0x001, 0x002, 0x003, 0x004, 0x005, 0x010, 0x011, 0x012, 0x013, 0x014, 0x015, 0x016, 0x017, 0x018,
   0x100, 0x101, 0x102, 0x103, 0x104, 0x200, 0x300, 0x301, 0x302]
/-- An access that R436 marks "—": a task's, to the trap, handler, grove and die registers. -/
def csrBarred (s : State) (n : BitVec 12) : Prop := s.ctx.inHandler = false ∧ (n.toNat < 0x10 ∨ 0x200 ≤ n.toNat)
/-- The detail word of lost acknowledgements (R230): in bits 63:56 how many writes are lost, at most 255, and below the address of the
oldest, by the numbers that order them. -/
def lostDetail (l : List (Nat × BitVec 56)) : Nat :=
  min (l.map (·.1)).dedup.length 255 * 2 ^ 56 + ((l.argmin (·.1)).map fun a => a.2.toNat).getD 0
/-- A segment's detail word (R197): SEGNUM, a reason, the count. -/
def segmentDetail (r : Csrs) (reason : Nat) : BitVec 64 :=
  BitVec.ofNat 64 (r.segnum.toNat * 2 ^ 48 + reason * 2 ^ 32 + r.segCount.toNat)

/-! ## Memory -/

/-- The number that bytes `f 0` to `f (n − 1)` spell, lowest first (R5). -/
def spelled (n : Nat) (f : Nat → Byte) : Nat := ∑ i ∈ Finset.range n, (f i).toNat * 256 ^ i
/-- A loaded value (R262): poison, or the bytes zero- or sign-extended with a clean tag. -/
def Loaded (signed poison : Bool) (n : Nat) (f : Nat → Byte) (v : TVal) : Prop :=
  (poison = true → v = ⟨0, 2⟩) ∧
  (poison = false → v.tag = 0 ∧
    if signed = true then v.val.toInt = if 2 * spelled n f < 256 ^ n then (spelled n f : Int) else spelled n f - 256 ^ n
    else v.val.toNat = spelled n f)
/-- A byte of a core's scratchpad. -/
def spadByte (s : State) (c : CoreNum) (a : Nat) : Byte := smGet 0 a (s.core c).spad
/-- OffValue (R61): off10, extended by HDR.X's byte, counted in units of the access. -/
def offset (s : State) (z : BitVec 2) (o : BitVec 10) : Int :=
  (match s.thr.issue with
    | some i => if isHdrX i.wa then (headerByte i.wa .b ++ o).toInt else o.toInt
    | none => o.toInt) * 2 ^ z.toNat
/-- The address that base and offset form, modulo 2^64. -/
def address (s : State) (b : Reg) (z : BitVec 2) (o : BitVec 10) : BitVec 64 :=
  BitVec.ofInt 64 ((s.thr.readB b).val.toNat + offset s z o)
/-- A local address: its low 32 bits. -/
def localAddress (s : State) (b : Reg) (z : BitVec 2) (o : BitVec 10) : Nat := (address s b z o).toNat % 2 ^ 32
/-- The instruction of slot B commits with one scalar result. -/
def commitsB (s : State) (lat : Nat) (d : Reg) (v : TVal) : State := (withResult s lat (destinationB d) (.scalar v)).slotDone
/-- The destination of a scoreboarded result of slot B: b0-b15, or nowhere (R42, R33). -/
def boardB (d : Reg) : PDest := if h : d.toNat < 16 then .b ⟨d.toNat, h⟩ else .discard
/-- Memory that reads without reports: no block with an error, marked blocks apart, and no elided unit. -/
def Quiet (s : State) : Prop :=
  (∀ e ∈ s.mem.check, e.2 = 0x9696969696969696#64) ∧
  (∀ e ∈ s.mem.dirty, e.2.check = 0 ∨ e.2.check = 0x9696969696969696#64) ∧ s.trunk.elide = []
/-- The addresses of the pieces of an access from `va` on, as their acknowledgements name them (R229). -/
def pieceAddresses : BitVec 64 → List (Xlat × Nat) → List (BitVec 56)
  | _, [] => []
  | va, x :: t => va.setWidth 56 :: pieceAddresses (va + BitVec.ofNat 64 x.2) t
/-- The acknowledgements that a context awaits are those of an earlier one, then some more, by address. -/
def Awaits (c d : Ctx) (l : List (BitVec 56)) : Prop := d.acks.map (·.addr) = c.acks.map (·.addr) ++ l
/-- No earlier access of the running context is kept before one of alias class `ac` (R220), which goes to a module if one is
given. -/
def Free (s : State) (ac : BitVec 3) (home : Option (BitVec 18) := none) : Prop := s.ctx.kept ac home = false
/-- Memory as an atomic or an access past the caches finds it at its home: a pool line that the cache holds dirty is at its device
(R225, R243). -/
def homeState (s : State) (x : Xlat) : State :=
  if target x.pa = .pool ∧ x.pol ≠ 0 then s.onMem fun m => m.writeBack (x.pa / 64) else s
/-- The bytes that translated pieces of this module name, with how they are seen. -/
def pieceBytes (xs : List (Xlat × Nat)) : List (Nat × Bool) :=
  xs.flatMap fun p => (List.range p.2).map fun j => (p.1.pa + j, p.1.cached)
/-- What an access leaves alone: everything but the running core, memory, the event queues, the clock and the counters of free
values. -/
def SameRest (s t : State) : Prop :=
  t.cur = s.cur ∧ t.agenda = s.agenda ∧ t.groves = s.groves ∧ t.dies = s.dies ∧ t.launches = s.launches ∧
  t.tasks = s.tasks ∧ t.checkpoints = s.checkpoints ∧ t.phasers = s.phasers ∧ t.gens = s.gens

/-- What runs keep of memory and scratchpads, so that equal contents are equal data: memory in canonical form, dirty lines of the pool
alone, and every scratchpad's table in canonical form, those of saved tasks, checkpoints and manifests included. -/
def Canonical (s : State) : Prop :=
  Memory.wf s.mem = true ∧ (∀ e ∈ s.mem.dirty, target (e.1 * 64) = .pool) ∧
  (∀ e ∈ s.cores, smWf 0 e.2.spad = true) ∧ (∀ t ∈ s.tasks, smWf 0 t.spad = true) ∧
  (∀ c ∈ s.checkpoints, smWf 0 c.spad = true) ∧
  ∀ m ∈ s.trunk.manifests.toList, ∀ x, m = some x →
    (∀ t ∈ x.tasks, smWf 0 t.spad = true) ∧ ∀ c ∈ x.checkpoints, smWf 0 c.spad = true


/-- New contents of an atomic (R266) on numbers below 2^w: none where CAS compares unequal. -/
def atomNew (op : AtomOp) (w old x cmp : Nat) : Option Nat :=
  let sx (v : Nat) : Int := if 2 * v < 2 ^ w then v else (v : Int) - 2 ^ w
  match op with
  | .add => some ((old + x) % 2 ^ w)
  | .swap => some x
  | .cas => if old = cmp then some x else none
  | .and => some (Nat.land old x)
  | .or => some (Nat.lor old x)
  | .xor => some (Nat.xor old x)
  | .smin => some (if sx x < sx old then x else old)
  | .smax => some (if sx old < sx x then x else old)
/-- The bytes of an atomic. -/
def atomSize (z : BitVec 1) : Nat := if z = 0 then 4 else 8
/-- An atomic on a scratchpad whose operands are clean and whose word is whole: the new contents are written at once with
the read, the other bytes stay, and data receives the old word, sign-extended, over the scoreboard. -/
def ScratchAtomic (mk : Reg → Reg → Reg → BitVec 1 → BitVec 3 → BitVec 1 → Instr) (op : AtomOp) (remote : Bool) : Prop :=
  ∀ (s : State) (d b i : Reg) (g : BitVec 1) (ac : BitVec 3) (z : BitVec 1),
    (s.thr.readB d).tag = 0 → (s.thr.readB b).tag = 0 → (s.thr.readB i).tag = 0 →
    let n := atomSize z
    ∀ (c : CoreNum) (a : Nat) (s1 s2 : State),
      (if remote then (s.thr.readB b).val.toNat % n = 0 ∧ s.remoteOf (s.thr.readB b).val = some (c, a) ∧
          s.shedCore c = false ∧ s1 = s ∧ s2 = s
        else c = s.cur ∧ a = (s.thr.readB b).val.toNat % 2 ^ 32 ∧ a % n = 0 ∧ a + n ≤ s.ctx.kern.spad ∧
          s.touch a n = (.ok (), s1) ∧ s1.readyWrite a n = (.ok (), s2)) →
      Free s ac → Canonical s1 → Canonical s2 → (s1.core c).spadErr = [] → (s1.core c).spadBad a n = false →
      let new := atomNew op (8 * n) (spelled n fun j => spadByte s1 c (a + j)) ((s.thr.readB d).val.toNat % 256 ^ n)
        ((s.thr.readB i).val.toNat % 256 ^ n)
      let t := if new.isSome then s2 else s1
      ∃ (u : State) (v : TVal) (addr : BitVec 56) (way : Way),
        exec (mk d b i g ac z) s = .next (u.await (boardB d) (.scalar v) addr true false way).slotDone ∧
        Loaded true false n (fun j => spadByte s1 c (a + j)) v ∧
        (∀ k, spadByte u c k =
          match new with
          | some w => if a ≤ k ∧ k < a + n then BitVec.ofNat 8 (w / 256 ^ (k - a)) else spadByte t c k
          | none => spadByte t c k) ∧
        (∀ e, e ≠ c → (u.core e).spad = (t.core e).spad) ∧ u.mem = t.mem ∧ u.parts = t.parts ∧
        Awaits t.ctx u.ctx (if remote ∧ g = 1 ∧ new.isSome then [(s.thr.readB b).val.setWidth 56] else []) ∧
        u.thr = t.thr ∧ SameRest t u
/-- An atomic on a word of this module's memory, at its home: old and new contents and result as for a scratchpad; with G = 1
its acknowledgement is awaited where it wrote. -/
def MemoryAtomic (mk : Reg → Reg → Reg → BitVec 1 → BitVec 3 → BitVec 1 → Instr) (op : AtomOp) : Prop :=
  ∀ (s : State) (d b i : Reg) (g : BitVec 1) (ac : BitVec 3) (z : BitVec 1),
    (s.thr.readB d).tag = 0 → (s.thr.readB b).tag = 0 → (s.thr.readB i).tag = 0 →
    let n := atomSize z
    ∀ (x : Xlat) (s1 : State) (l : List Byte) (s2 : State), (s.thr.readB b).val.toNat % n = 0 →
      s.xlateRange s.ctx.agent .atomic (s.thr.readB b).val n = (.ok [(x, n)], s1) → x.remote = none →
      s1.shedPieces [(x, n)] = false → Free s ac →
      (homeState s1 x).readPhys (some s1.ctx.part) x.pa n (x.pol = 0) = (l, false, s2) →
      let new := atomNew op (8 * n) (spelled n fun j => l.getD j 0) ((s.thr.readB d).val.toNat % 256 ^ n)
        ((s.thr.readB i).val.toNat % 256 ^ n)
      ∃ (u : State) (v : TVal) (addr : BitVec 56) (way : Way),
        Loaded true false n (fun j => l.getD j 0) v ∧
        exec (mk d b i g ac z) s = .next (u.await (boardB d) (.scalar v) addr true false way).slotDone ∧
        u.mem = (match new with
          | some w => (s2.writePhys (some s1.ctx.id) x.pa (leBytes n w) false (x.pol = 0)).mem
          | none => s2.mem) ∧
        Awaits s1.ctx u.ctx (if g = 1 ∧ new.isSome then [(s.thr.readB b).val.setWidth 56] else []) ∧
        u.thr = s1.thr ∧ (∀ c, (u.core c).spad = (s1.core c).spad) ∧ SameRest s1 u

/-! ## Rings -/

/-- The ring instruction commits with the handle `r` in place of the old one, and nothing else changed. -/
def setsHandle (s : State) (h : BitVec 4) (r : Handle) : State := (s.onHandle h fun _ => r).slotDone
/-- Address of row `t` of a window (R207): signed strides, modulo 2^56. -/
def windowRow (d : WinDesc) (t : Nat) : Int :=
  (d.tbase.toNat + (t % d.e0.toNat : Nat) * d.s0.toInt + (t / d.e0.toNat % d.e1.toNat : Nat) * d.s1.toInt +
    (t / (d.e0.toNat * d.e1.toNat) : Nat) * d.s2.toInt) % 2 ^ 56

end Sys2Proof.Claims

open Sys2Proof Sys2Proof.Machine Sys2Proof.Claims

/-! ## Slot A: integers -/

/-- R125: sums and differences modulo 2^64, logic bit by bit, shifts and rotates by the low six bits of y, lesser and greater. -/
def Sys2Proof.Claims.AluForms : Prop :=
  IntegerA2 .add 1 (fun x y r => r.toNat = (x.toNat + y.toNat) % 2 ^ 64) ∧
  IntegerA2 .sub 1 (fun x y r => (r.toNat + y.toNat) % 2 ^ 64 = x.toNat) ∧
  IntegerA2 .and 1 (fun x y r => ∀ i < 64, r.getLsbD i = (x.getLsbD i && y.getLsbD i)) ∧
  IntegerA2 .or 1 (fun x y r => ∀ i < 64, r.getLsbD i = (x.getLsbD i || y.getLsbD i)) ∧
  IntegerA2 .xor 1 (fun x y r => ∀ i < 64, r.getLsbD i = (x.getLsbD i != y.getLsbD i)) ∧
  IntegerA2 .andn 1 (fun x y r => ∀ i < 64, r.getLsbD i = (x.getLsbD i && !y.getLsbD i)) ∧
  IntegerA2 .shl 1 (fun x y r => r.toNat = x.toNat * 2 ^ (y.toNat % 64) % 2 ^ 64) ∧
  IntegerA2 .shr 1 (fun x y r => r.toNat = x.toNat / 2 ^ (y.toNat % 64)) ∧
  IntegerA2 .sra 1 (fun x y r => r.toInt = x.toInt / 2 ^ (y.toNat % 64)) ∧
  IntegerA2 .rotr 1 (fun x y r => ∀ i < 64, r.getLsbD i = x.getLsbD ((i + y.toNat % 64) % 64)) ∧
  IntegerA2 .min 1 (fun x y r => r.toInt = Min.min x.toInt y.toInt) ∧
  IntegerA2 .max 1 (fun x y r => r.toInt = Max.max x.toInt y.toInt) ∧
  IntegerA2 .minu 1 (fun x y r => r.toNat = Min.min x.toNat y.toNat) ∧
  IntegerA2 .maxu 1 (fun x y r => r.toNat = Max.max x.toNat y.toNat)

/-- R126: the low half of the product, and the high half of the signed and of the unsigned one, three bundles later. -/
def Obligations.Products : Prop :=
  (∀ d a b : Reg, raw .a (0x02#6 ++ d ++ a ++ b ++ 0x000#11) = .ok (.mul d a b) [] ∧
    raw .a (0x02#6 ++ d ++ a ++ b ++ 0x001#11) = .ok (.mulh d a b) [] ∧
    raw .a (0x02#6 ++ d ++ a ++ b ++ 0x002#11) = .ok (.mulhu d a b) []) ∧
  IntegerA2 .mul 3 (fun x y r => r.toNat = x.toNat * y.toNat % 2 ^ 64) ∧
  IntegerA2 .mulh 3 (fun x y r => r.toInt = x.toInt * y.toInt / 2 ^ 64) ∧
  IntegerA2 .mulhu 3 (fun x y r => r.toNat = x.toNat * y.toNat / 2 ^ 64)

/-- R127: the immediate forms: signed for ADDI and LI, zero-extended for the logic forms, six bits for the shifts, and LIU
shifts sixteen bits in. -/
def Sys2Proof.Claims.ImmediateForms : Prop :=
  (∀ v : BitVec 16, IntegerA1 (fun d a => .addi d a v) 1 (fun x r => r.toInt = (x.toInt + v.toInt).bmod (2 ^ 64)) ∧
    IntegerA1 (fun d a => .andi d a v) 1 (fun x r => ∀ i < 64, r.getLsbD i = (x.getLsbD i && v.getLsbD i)) ∧
    IntegerA1 (fun d a => .ori d a v) 1 (fun x r => ∀ i < 64, r.getLsbD i = (x.getLsbD i || v.getLsbD i)) ∧
    IntegerA1 (fun d a => .xori d a v) 1 (fun x r => ∀ i < 64, r.getLsbD i = (x.getLsbD i != v.getLsbD i)) ∧
    IntegerA1 (fun d a => .liu d a v) 1 (fun x r => r.toNat = x.toNat % 2 ^ 48 * 2 ^ 16 + v.toNat) ∧
    ∀ (s : State) (d : Reg), ∃ r : BitVec 64, r.toInt = v.toInt ∧ exec (.li d v) s = .next (commitsA s 1 d ⟨r, 0⟩)) ∧
  (∀ n : BitVec 6, IntegerA1 (fun d a => .shli d a n) 1 (fun x r => r.toNat = x.toNat * 2 ^ n.toNat % 2 ^ 64) ∧
    IntegerA1 (fun d a => .shri d a n) 1 (fun x r => r.toNat = x.toNat / 2 ^ n.toNat) ∧
    IntegerA1 (fun d a => .srai d a n) 1 (fun x r => r.toInt = x.toInt / 2 ^ n.toNat) ∧
    IntegerA1 (fun d a => .rotri d a n) 1 (fun x r => ∀ i < 64, r.getLsbD i = x.getLsbD ((i + n.toNat) % 64)))

/-- The integer forms, register and immediate (R125, R127). -/
def Obligations.IntegerForms : Prop := Sys2Proof.Claims.AluForms ∧ Sys2Proof.Claims.ImmediateForms

/-- R128: position and width from srcB or from the immediate; a field is extracted signed or unsigned, or inserted into dst,
which is read and acts as a source. -/
def Sys2Proof.Claims.Bitfields : Prop :=
  IntegerA2 .ext 1 (fun x y r =>
    r.toInt = signedField (y.toNat / 256 % 64 + 1) (field x (y.toNat % 64) (y.toNat / 256 % 64 + 1))) ∧
  IntegerA2 .extu 1 (fun x y r => r.toNat = field x (y.toNat % 64) (y.toNat / 256 % 64 + 1)) ∧
  (∀ (s : State) (d a b : Reg), (s.thr.readA a).tag ≠ 1 → (s.thr.readA b).tag ≠ 1 → (s.thr.readA d).tag ≠ 1 →
    ∃ r, Inserted (s.thr.readA a).val (s.thr.readA d).val r ((s.thr.readA b).val.toNat % 64)
        ((s.thr.readA b).val.toNat / 256 % 64 + 1) ∧
      exec (.ins d a b) s = .next (commitsA s 1 d
        (result (bad (s.thr.readA a) || bad (s.thr.readA b) || bad (s.thr.readA d)) r))) ∧
  (∀ w p : BitVec 6,
    IntegerA1 (fun d a => .exti d a w p) 1 (fun x r => r.toInt = signedField (w.toNat + 1) (field x p.toNat (w.toNat + 1))) ∧
    IntegerA1 (fun d a => .extui d a w p) 1 (fun x r => r.toNat = field x p.toNat (w.toNat + 1)) ∧
    ∀ (s : State) (d a : Reg), (s.thr.readA a).tag ≠ 1 → (s.thr.readA d).tag ≠ 1 →
      ∃ r, Inserted (s.thr.readA a).val (s.thr.readA d).val r p.toNat (w.toNat + 1) ∧
        exec (.insi d a w p) s = .next (commitsA s 1 d (result (bad (s.thr.readA a) || bad (s.thr.readA d)) r)))

/-- R129: counts of zero bits above the highest one and below the lowest one (64 for zero), of ones, and the bits reversed. -/
def Obligations.BitCounts : Prop :=
  (∀ d a : Reg, raw .a (0x03#6 ++ d ++ a ++ 23#5 ++ 0x003#11) = .ok (.clz d a) [] ∧
    raw .a (0x03#6 ++ d ++ a ++ 23#5 ++ 0x004#11) = .ok (.ctz d a) [] ∧
    raw .a (0x03#6 ++ d ++ a ++ 23#5 ++ 0x005#11) = .ok (.popc d a) [] ∧
    raw .a (0x03#6 ++ d ++ a ++ 23#5 ++ 0x006#11) = .ok (.brev d a) []) ∧
  IntegerA1 .clz 1 (fun x r => (x = 0 → r.toNat = 64) ∧
    (x ≠ 0 → r.toNat < 64 ∧ 2 ^ (63 - r.toNat) ≤ x.toNat ∧ x.toNat < 2 ^ (64 - r.toNat))) ∧
  IntegerA1 .ctz 1 (fun x r => (x = 0 → r.toNat = 64) ∧
    (x ≠ 0 → 2 ^ r.toNat ∣ x.toNat ∧ ¬ 2 ^ (r.toNat + 1) ∣ x.toNat)) ∧
  IntegerA1 .popc 1 (fun x r => r.toNat = ∑ i ∈ Finset.range 64, (x.getLsbD i).toNat) ∧
  IntegerA1 .brev 1 (fun x r => ∀ i < 64, r.getLsbD (63 - i) = x.getLsbD i)

/-- R130: 1 when the relation holds and 0 when it does not; signed for CMPLT and CMPLE. -/
def Obligations.IntegerCompares : Prop :=
  (∀ d a b : Reg, raw .a (0x05#6 ++ d ++ a ++ b ++ 0x000#11) = .ok (.cmpeq d a b) [] ∧
    raw .a (0x05#6 ++ d ++ a ++ b ++ 0x001#11) = .ok (.cmpne d a b) [] ∧
    raw .a (0x05#6 ++ d ++ a ++ b ++ 0x002#11) = .ok (.cmplt d a b) [] ∧
    raw .a (0x05#6 ++ d ++ a ++ b ++ 0x003#11) = .ok (.cmple d a b) [] ∧
    raw .a (0x05#6 ++ d ++ a ++ b ++ 0x004#11) = .ok (.cmpltu d a b) [] ∧
    raw .a (0x05#6 ++ d ++ a ++ b ++ 0x005#11) = .ok (.cmpleu d a b) []) ∧
  IntegerA2 .cmpeq 1 (fun x y r => (x = y → r = 1) ∧ (x ≠ y → r = 0)) ∧
  IntegerA2 .cmpne 1 (fun x y r => (x ≠ y → r = 1) ∧ (x = y → r = 0)) ∧
  IntegerA2 .cmplt 1 (fun x y r => (x.toInt < y.toInt → r = 1) ∧ (y.toInt ≤ x.toInt → r = 0)) ∧
  IntegerA2 .cmple 1 (fun x y r => (x.toInt ≤ y.toInt → r = 1) ∧ (y.toInt < x.toInt → r = 0)) ∧
  IntegerA2 .cmpltu 1 (fun x y r => (x.toNat < y.toNat → r = 1) ∧ (y.toNat ≤ x.toNat → r = 0)) ∧
  IntegerA2 .cmpleu 1 (fun x y r => (x.toNat ≤ y.toNat → r = 1) ∧ (y.toNat < x.toNat → r = 0))

/-- R131, R132: SEL takes value and tag of the chosen source, and only a poison condition makes the result poison; TAGP reads a tag, TAGC
clears it. -/
def Sys2Proof.Claims.SelectAndTags : Prop :=
  (∀ (s : State) (d a b : Reg), (s.thr.readA a).tag ≠ 1 → (s.thr.readA b).tag ≠ 1 → (s.thr.readA d).tag ≠ 1 →
    exec (.sel d a b) s = .next (commitsA s 1 d
      (if bad (s.thr.readA d) then ⟨0, 2⟩ else if (s.thr.readA d).val ≠ 0 then s.thr.readA a else s.thr.readA b))) ∧
  (∀ (s : State) (d a : Reg), (s.thr.readA a).tag ≠ 1 →
    exec (.tagp d a) s = .next (commitsA s 1 d ⟨(s.thr.readA a).tag.setWidth 64, 0⟩) ∧
    exec (.tagc d a) s = .next (commitsA s 1 d ⟨(s.thr.readA a).val, 0⟩))

/-- Bit fields, selection and tags (R128, R131, R132). -/
def Obligations.FieldAndTagForms : Prop := Sys2Proof.Claims.Bitfields ∧ Sys2Proof.Claims.SelectAndTags

/-! ## Slot A: floating point -/

/-- R104, R105, R109: a nonzero number that does not overflow an IEEE format becomes the finite value that the mode asks for, with the
number's sign, and NX tells whether it differs: toward a side no finite value lies closer on that side, and to nearest none
lies closer at all, a tie going to the even code. -/
def Obligations.CorrectRounding : Prop :=
  ∀ f ∈ [fp64, fp32, fp16, bf16], ∀ (r : BitVec 2) (neg : Bool) (m : Nat) (e : Int), m ≠ 0 →
    (f.round (rmode r) neg m e).2.getLsbD 2 = false →
    ∃ k g, f.unpack (f.round (rmode r) neg m e).1 = .fin neg k g ∧
      ((f.round (rmode r) neg m e).2.getLsbD 0 = true ↔ rat neg k g ≠ rat neg m e) ∧
      ∀ c < 2 ^ f.width, ∀ n j h, f.unpack c = .fin n j h →
        (r = 0 → |rat neg k g - rat neg m e| ≤ |rat n j h - rat neg m e| ∧
          (|rat neg k g - rat neg m e| = |rat n j h - rat neg m e| → rat n j h ≠ rat neg k g →
            (f.round (rmode r) neg m e).1 % 2 = 0)) ∧
        (r = 1 → |rat neg k g| ≤ |rat neg m e| ∧ (|rat n j h| ≤ |rat neg m e| → |rat n j h| ≤ |rat neg k g|)) ∧
        (r = 2 → rat neg m e ≤ rat neg k g ∧ (rat neg m e ≤ rat n j h → rat neg k g ≤ rat n j h)) ∧
        (r = 3 → rat neg k g ≤ rat neg m e ∧ (rat n j h ≤ rat neg m e → rat n j h ≤ rat neg k g))

/-- R133, R105, R99: FADD, FSUB, FMUL and FMA of both formats round the exact result once; NaNs, infinities and zeros as
IEEE 754 gives them; poison gives the poison pattern. -/
def Sys2Proof.Claims.FloatArithmeticForms : Prop :=
  FloatArithmetic fp32 4 .faddS .fsubS .fmulS .fmaS ∧ FloatArithmetic fp64 6 .faddD .fsubD .fmulD .fmaD ∧
  fp32.nanCode = 0x7FC00000 ∧ fp32.poisonCode = 0x7FE00000 ∧
  fp64.nanCode = 0x7FF8000000000000 ∧ fp64.poisonCode = 0x7FFC000000000000

/-- R108, R109: where the rounded magnitude lies beyond the largest finite one, OF and NX stand and the result is an infinity or
that largest magnitude, as mode and sign ask; UF stands where the result differs and lies below the smallest normal. -/
def Sys2Proof.Claims.RangeFlags : Prop :=
  ∀ f ∈ [fp64, fp32, fp16, bf16], ∀ (r : BitVec 2) (neg : Bool) (m : Nat) (e : Int), m ≠ 0 →
    let x := f.round (rmode r) neg m e
    let away : Bool := r = 0 || (if neg then r = 3 else r = 2)
    let emax : Int := 2 ^ (f.eb - 1) - 1
    let largest : ℚ := (2 ^ (f.mb + 1) - 1) * 2 ^ (emax - f.mb)
    (x.2.getLsbD 2 = true ↔
      if r = 0 then largest + 2 ^ (emax - f.mb - 1) ≤ rat false m e
      else if away then largest < rat false m e else (2 : ℚ) ^ (emax + 1) ≤ rat false m e) ∧
    (x.2.getLsbD 2 = true → x = (if away then infinity f neg else infinity f neg - 1, flOF ||| flNX)) ∧
    (x.2.getLsbD 2 = false → ∀ y, number (f.unpack x.1) = some y →
      x.2 = (if y = rat neg m e then 0 else if |y| < 2 ^ (1 - emax) then flUF ||| flNX else flNX))

/-- R133: FMIN, FMAX, FABS, FNEG and the compares of both formats. -/
def Sys2Proof.Claims.FloatCompareForms : Prop :=
  FloatCompares fp32 4 .fminS .fmaxS .fcmpeqS .fcmpltS .fcmpleS .fcmpunS .fabsS .fnegS ∧
  FloatCompares fp64 6 .fminD .fmaxD .fcmpeqD .fcmpltD .fcmpleD .fcmpunD .fabsD .fnegD

/-- R134, R107: FCVT from a format to another, each of its legal pairs, with the latency of R124. -/
def Sys2Proof.Claims.Conversions : Prop :=
  ∀ (s : State) (d a : Reg) (r : BitVec 2) (t c : BitVec 4), t.toNat < 8 → c.toNat < 8 → (s.thr.readA a).tag ≠ 1 →
    let x := s.thr.readA a
    let lat := if t = 5 ∨ c = 5 then 6 else 4
    (t.toNat < 4 → 4 ≤ c.toNat → ∃ i fl, ToInteger t (rmode r) (source (floatOf c) x) i fl ∧
      exec (.fcvt d a r t c) s = .next (if (source (floatOf c) x).isPoison then commitsA s lat d ⟨0, 2⟩
        else commitsA s lat d ⟨i, 0⟩ fl)) ∧
    (4 ≤ t.toNat → c.toNat < 4 → ∃ k, (intIn c x.val = 0 → k = (0, 0)) ∧
      (intIn c x.val ≠ 0 → RoundsTo (floatOf t) (rmode r) (intIn c x.val) k) ∧
      exec (.fcvt d a r t c) s = .next (commitsFloat s (floatOf t) lat d (bad x) k)) ∧
    (4 ≤ t.toNat → 4 ≤ c.toNat → ∃ k,
      (source (floatOf c) x = .nan → k = ((floatOf t).nanCode, 0)) ∧
      (∀ neg, source (floatOf c) x = .inf neg → k = (infinity (floatOf t) neg, 0)) ∧
      (∀ neg m e, source (floatOf c) x = .fin neg m e →
        if m = 0 then k = (zero (floatOf t) neg, 0) else RoundsTo (floatOf t) (rmode r) (rat neg m e) k) ∧
      exec (.fcvt d a r t c) s = .next (commitsFloat s (floatOf t) lat d (source (floatOf c) x).isPoison k))

/-- The scalar floating-point forms (R99, R105, R107, R108, R109, R124, R133, R134). -/
def Obligations.FloatForms : Prop :=
  Sys2Proof.Claims.FloatArithmeticForms ∧ Sys2Proof.Claims.RangeFlags ∧ Sys2Proof.Claims.FloatCompareForms ∧
  Sys2Proof.Claims.Conversions

/-! ## Control transfers -/

/-- R136, R137, R138, R139: a taken transfer is pending from the end of its bundle and nothing else changes but the link; BRZ
and BRNZ test all 64 bits, CHK the tag alone; JR, RET and CALLR go where bits 51:0 of srcA say. -/
def Sys2Proof.Claims.Transfers : Prop :=
  ∀ (s : State) (o : BitVec 21) (t d a : Reg),
    exec (.br o) s = .next (redirected s (relative s o)).slotDone ∧
    ((s.thr.readA t).tag = 0 →
      exec (.brz t o) s = .next (if (s.thr.readA t).val = 0 then redirected s (relative s o) else s).slotDone ∧
      exec (.brnz t o) s = .next (if (s.thr.readA t).val = 0 then s else redirected s (relative s o)).slotDone) ∧
    exec (.call t o) s = .next (commitsA (redirected s (relative s o)) 1 t (linkOf s)) ∧
    exec (.chk t o) s = .next (if (s.thr.readA t).tag = 1 then redirected s (relative s o) else s).slotDone ∧
    ((s.thr.readA a).tag = 0 → (s.thr.readA a).val.toNat < 2 ^ 52 →
      exec (.jr a) s = .next (redirected s ((s.thr.readA a).val.setWidth 52)).slotDone ∧
      exec (.ret a) s = .next (redirected s ((s.thr.readA a).val.setWidth 52)).slotDone ∧
      exec (.callr d a) s =
        .next (commitsA (redirected s ((s.thr.readA a).val.setWidth 52)) 1 d (linkOf s))) ∧
    exec .nop s = .next s.slotDone

/-- R138: the traps of the transfers, each with its detail word: deferred and poison operands, and a target above 52 bits. -/
def Sys2Proof.Claims.TransferTraps : Prop :=
  ∀ (s : State) (o : BitVec 21) (t d a : Reg),
    ((s.thr.readA t).tag = 1 →
      exec (.brz t o) s = .next (traps s 0x03 (t.setWidth 64)) ∧ exec (.brnz t o) s = .next (traps s 0x03 (t.setWidth 64)) ∧
      exec (.jr t) s = .next (traps s 0x03 (t.setWidth 64)) ∧ exec (.ret t) s = .next (traps s 0x03 (t.setWidth 64)) ∧
      exec (.callr d t) s = .next (traps s 0x03 (t.setWidth 64))) ∧
    (bad (s.thr.readA t) = true →
      exec (.brz t o) s = .next (traps s 0x04 (t.setWidth 64)) ∧ exec (.brnz t o) s = .next (traps s 0x04 (t.setWidth 64)) ∧
      exec (.jr t) s = .next (traps s 0x04 (t.setWidth 64)) ∧ exec (.ret t) s = .next (traps s 0x04 (t.setWidth 64)) ∧
      exec (.callr d t) s = .next (traps s 0x04 (t.setWidth 64))) ∧
    ((s.thr.readA a).tag = 0 → 2 ^ 52 ≤ (s.thr.readA a).val.toNat →
      exec (.jr a) s = .next (traps s 0x06 (s.thr.readA a).val) ∧ exec (.ret a) s = .next (traps s 0x06 (s.thr.readA a).val) ∧
      exec (.callr d a) s = .next (traps s 0x06 (s.thr.readA a).val))

/-- Control transfers: their targets, links and traps (R136, R137, R138, R139). -/
def Obligations.ControlTransfers : Prop := Sys2Proof.Claims.Transfers ∧ Sys2Proof.Claims.TransferTraps

/-! ## Traps, the handler, control registers -/

/-- R433: TRAP and SVC raise causes 0x16 and 0x17 with their immediate as the detail, and the task resumes at slot B. -/
def Obligations.TrapAndSvc : Prop :=
  (∀ n : BitVec 16, raw .a (BitVec.ofNat 32 (0xC2F70000 + n.toNat)) = .ok (.trap n) [] ∧
    raw .a (BitVec.ofNat 32 (0xC6F70000 + n.toNat)) = .ok (.svc n) []) ∧
  ∀ (s : State) (n : BitVec 16),
    exec (.trap n) s = .next (s.trapAt 1 0x16 (n.setWidth 64)) ∧ exec (.svc n) s = .next (s.trapAt 1 0x17 (n.setWidth 64))

/-- R429, R358: a trap is taken where its task was not killed; a killed task ends there. What taking a trap of a task writes: the trap registers, the parked task with its landing results, redirects and
outstanding requests kept, and a handler context that starts at trapvec.PC with every register zero and clean; nothing else
of the module changes. -/
def Sys2Proof.Claims.TrapEntry : Prop :=
  (∀ (s : State) (slot : BitVec 2) (cause : BitVec 8) (detail : BitVec 64),
    s.trapAt slot cause detail = if s.dying s.cur then s.endTask s.cur false else s.takeTrap slot cause detail) ∧
  ∀ (s : State) (slot : BitVec 2) (cause : BitVec 8) (detail : BitVec 64),
    s.ctx.inHandler = false → s.ctx.boot = false → cause ≠ 0x15 → (s.part s.ctx.part).trapvec.getLsbD 63 = true →
    ∃ hand : Thread,
      s.takeTrap slot cause detail = s.setCtx { s.ctx with
        csr := { s.ctx.csr with cause := cause, sres := slot, tpc := s.ctx.task.pc, tdet := detail, fresh := 0 }
        task := { s.ctx.task with issue := none, resume := slot }
        hand := hand, inHandler := true, wait := .none, pendTrap := none } ∧
      hand.pc = (s.part s.ctx.part).trapvec.setWidth 52 ∧ hand.btime = 0 ∧ hand.redirects = [] ∧ hand.landing = [] ∧
      hand.board = [] ∧ hand.issue = none ∧ hand.resume = 0 ∧
      (∀ i : Fin 16, hand.a[i] = ⟨0, 0⟩ ∧ hand.b[i] = ⟨0, 0⟩) ∧ (∀ i : Fin 64, hand.m[i] = ⟨0, 0⟩) ∧
      (∀ i : Fin 4, hand.ya[i] = ⟨0, 0⟩ ∧ hand.yb[i] = ⟨0, 0⟩)

/-- R429, R430: a trap of the handler, and a trap of a task while trapvec.EN is 0, end the task as lost, with a record that
names the causes; nothing is written to the handler. -/
def Sys2Proof.Claims.LostByTrap : Prop :=
  ∀ (s : State) (slot : BitVec 2) (cause : BitVec 8) (detail : BitVec 64),
    (s.ctx.inHandler = true →
      s.takeTrap slot cause detail = s.loseTask s.cur 2 (s.ctx.csr.cause.toNat * 256 + cause.toNat)) ∧
    (s.ctx.inHandler = false → s.ctx.boot = false → cause ≠ 0x15 →
      (s.part s.ctx.part).trapvec.getLsbD 63 = false →
      ∃ u : State, s.takeTrap slot cause detail = u.loseTask s.cur 1 cause.toNat ∧
        u.ctx.csr.cause = cause ∧ u.ctx.csr.tpc = s.ctx.task.pc ∧ u.ctx.csr.tdet = detail ∧ u.ctx.csr.sres = slot ∧
        u.mem = s.mem ∧ u.parts = s.parts ∧ u.tasks = s.tasks)

/-- What taking a trap saves and where it goes (R429, R430). -/
def Obligations.Traps : Prop := Sys2Proof.Claims.TrapEntry ∧ Sys2Proof.Claims.LostByTrap

/-- R434: in the handler RFT and HALT commit, and the handler ends when its bundle has: after RFT the task goes on at tpc from
slot SRES with everything else as it stands. At task level both raise the privilege trap with their word. -/
def Obligations.HandlerEnds : Prop :=
  ∀ s : State,
    (s.ctx.inHandler = true →
      exec .rft s = .next (s.onThr fun t => { t with leave := 1 }).slotDone ∧
      exec .halt s = .next (s.onThr fun t => { t with leave := 2 }).slotDone) ∧
    (s.ctx.inHandler = false → exec .rft s = .next (traps s 0x02 (s.thr.wordNow.setWidth 64)) ∧
      exec .halt s = .next (traps s 0x02 (s.thr.wordNow.setWidth 64))) ∧
    (∀ i, s.ctx.inHandler = true → s.thr.issue = some i → i.slot = 3 → s.thr.leave = 1 → s.dying s.cur = false →
      s.slotDone.ctx.inHandler = false ∧ s.slotDone.ctx.task =
        { s.ctx.task with pc := s.ctx.csr.tpc, resume := s.ctx.csr.sres, issue := none })

/-- R435, R436: the CSR forms: dst receives the register's value with a clean tag, CSRWR, CSRSET and CSRCLR then write; where
R436 bars the access they raise the privilege trap. -/
def Sys2Proof.Claims.CsrForms : Prop :=
  ∀ (s : State) (d a : Reg) (n : BitVec 12), n.toNat ∈ csrList → s.csrWaits n = false →
    (¬csrBarred s n → ∃ r, CsrValue s n r ∧ exec (.csrrd d n) s = .next (commitsA s 1 d ⟨r, 0⟩) ∧
      ((s.thr.readA a).tag = 0 →
        exec (.csrwr d a n) s = .next (commitsA (s.csrWrite .wr n (s.thr.readA a).val) 1 d ⟨r, 0⟩) ∧
        exec (.csrset d a n) s = .next (commitsA (s.csrWrite .set n (s.thr.readA a).val) 1 d ⟨r, 0⟩) ∧
        exec (.csrclr d a n) s = .next (commitsA (s.csrWrite .clr n (s.thr.readA a).val) 1 d ⟨r, 0⟩))) ∧
    (csrBarred s n → exec (.csrrd d n) s = .next (traps s 0x02 (s.thr.wordNow.setWidth 64)) ∧
      ((s.thr.readA a).tag = 0 → exec (.csrwr d a n) s = .next (traps s 0x02 (s.thr.wordNow.setWidth 64)) ∧
        exec (.csrset d a n) s = .next (traps s 0x02 (s.thr.wordNow.setWidth 64)) ∧
        exec (.csrclr d a n) s = .next (traps s 0x02 (s.thr.wordNow.setWidth 64))))

/-- R8, R113, R119, R217, R230, R286, R428, R432: what a write of each register does: RW fields take the value (or'ed for CSRSET,
cleared for CSRCLR), W1C bits are cleared by ones under CSRWR and CSRCLR unless set in the same bundle (R9), RO registers
ignore it. -/
def Sys2Proof.Claims.CsrWrites : Prop :=
  ∀ (s : State) (op : CsrOp) (x : BitVec 64),
    let mixed (old : BitVec 64) : BitVec 64 := match op with | .wr => x | .set => old ||| x | .clr => old &&& ~~~x
    (∀ n ∈ [0x002#12, 0x010#12, 0x014#12, 0x015#12, 0x017#12, 0x018#12, 0x104#12], s.csrWrite op n x = s) ∧
    ((s.csrWrite op 0x001 x).ctx.csr.tpc = (mixed (s.ctx.csr.tpc.setWidth 64)).setWidth 52 ∧
      (s.csrWrite op 0x001 x).ctx.csr.sres = 0 ∧ (s.csrWrite op 0x001 x).ctx.task.redirects = []) ∧
    (∀ i < 7, (s.csrWrite op 0x011 x).ctx.csr.arflags.getLsbD i =
      (s.ctx.csr.arflags.getLsbD i && (!x.getLsbD i || op = .set || s.ctx.csr.fresh.getLsbD i))) ∧
    ((s.csrWrite op 0x012 x).ctx.csr.srseed = (mixed (s.ctx.csr.srseed.setWidth 64)).setWidth 32) ∧
    (let v := (mixed (s.ctx.csr.srstate.setWidth 64)).setWidth 32
     let w : BitVec 32 := if v = 0 then 1 else v
     if s.ctx.inHandler then (s.csrWrite op 0x013 x).ctx.csr.srstate = w
     else (s.csrWrite op 0x013 x).ctx.csr.srPend = some w ∧ (s.csrWrite op 0x013 x).ctx.csr.srstate = s.ctx.csr.srstate) ∧
    ((s.csrWrite op 0x016 x).ctx.csr.mcAny = (s.ctx.csr.mcAny && (!x.getLsbD 16 || op = .set))) ∧
    (s.ctx.inHandler = false → ∀ n ∈ [0x100#12, 0x101#12, 0x102#12, 0x103#12], s.csrWrite op n x = s) ∧
    (∀ i : Fin 4, s.ctx.inHandler = true →
      ((s.csrWrite op (BitVec.ofNat 12 (0x100 + i.val)) x).core s.cur).bankloss[i] =
        (mixed (((s.core s.cur).bankloss[i]).setWidth 64)).setWidth 32) ∧
    (((s.csrWrite op 0x200 x).grove (groveOf s.cur)).droopctl =
      (mixed ((s.grove (groveOf s.cur)).droopctl.setWidth 64)).setWidth 32 &&& 0x80FF0FFF#32) ∧
    (s.holdsDie s.ctx.part (dieOf s.cur) = false → ∀ n ∈ [0x300#12, 0x301#12, 0x302#12], s.csrWrite op n x = s) ∧
    (s.holdsDie s.ctx.part (dieOf s.cur) = true →
      ((s.csrWrite op 0x300 x).die (dieOf s.cur)).memrowa =
        (mixed ((s.die (dieOf s.cur)).memrowa.setWidth 64)).setWidth 32 &&& 0x8000FFFF#32 ∧
      (let v := mixed ((s.die (dieOf s.cur)).acktmo.setWidth 64)
       ((s.csrWrite op 0x302 x).die (dieOf s.cur)).acktmo.toNat = if v.toNat % 2 ^ 20 = 0 then 1 else v.toNat % 2 ^ 20)) ∧
    ((s.csrWrite op 0x003 x).ctx.csr.regsel = mixed s.ctx.csr.regsel &&& 0x33F#64) ∧
    (∀ i : Fin 16, s.ctx.csr.regsel = BitVec.ofNat 64 i.val →
      (s.csrWrite op 0x004 x).ctx.task.a[i] = ⟨mixed (s.ctx.task.a[i]).val, 0⟩ ∧
      (s.csrWrite op 0x005 x).ctx.task.a[i] =
        ⟨(s.ctx.task.a[i]).val, (mixed ((s.ctx.task.a[i]).tag.setWidth 64)).setWidth 2⟩)

/-- Reads and writes of the control and status registers (R8, R9, R113, R119, R217, R230, R286, R428, R432, R435, R436). -/
def Obligations.ControlRegisters : Prop := Sys2Proof.Claims.CsrForms ∧ Sys2Proof.Claims.CsrWrites

/-- R195, R196, R197: SEGBEG opens a segment with count 0 and a fresh CRC, or traps when one is open; SEGEND of an unbroken
segment with the right count and CRC closes it, and any breach traps with its reasons. SEGEND is an ordering point (R218): lost
acknowledgements fault there, and it waits for those that are still outstanding (R229, R230). -/
def Obligations.Segments : Prop :=
  ∀ (s : State) (n : BitVec 16) (a b : Reg), s.ctx.inHandler = false →
    (s.ctx.csr.segOpen = false → exec (.segbeg n) s = .next (s.onCtx fun c => { c with csr := { c.csr with
      segOpen := true, segnum := n, segId := c.nextId, segCount := 0, segCrc := 0xFFFFFFFF } }).slotDone) ∧
    (s.ctx.csr.segOpen = true → exec (.segbeg n) s = .next (traps s 0x15 (segmentDetail s.ctx.csr 0x40))) ∧
    ((s.thr.readA a).tag = 0 → (s.thr.readA b).tag = 0 → s.ctx.owedTrap = none →
      (s.ctx.lost ≠ [] → exec (.segend a b) s = .next (traps (s.onCtx fun c => { c with lost := [] }) 0x14
        (BitVec.ofNat 64 (lostDetail s.ctx.lost)))) ∧
      (s.ctx.lost = [] → s.ctx.acks ≠ [] → exec (.segend a b) s = .next (waits s .order))) ∧
    (s.orderWait = none → s.thr.board = [] → (s.core s.cur).stripes ≠ .delivering →
      ((s.thr.readA a).tag = 0 → (s.thr.readA b).tag = 0 → s.ctx.csr.segOpen = true → s.ctx.csr.suspect = false →
        s.ctx.csr.segCount.toNat < 2 ^ 32 - 1 → (s.thr.readA a).val.toNat = s.ctx.csr.segCount.toNat →
        (s.thr.readA b).val.toNat = 2 ^ 32 - 1 - s.ctx.csr.segCrc.toNat →
        exec (.segend a b) s =
          .next (s.onCtx fun c => { c with csr := { c.csr with segOpen := false }, segTraps := 0 }).slotDone) ∧
      ((s.thr.readA a).tag = 0 → (s.thr.readA b).tag = 0 → s.ctx.csr.segOpen = false → s.ctx.csr.suspect = false →
        exec (.segend a b) s = .next (traps s 0x15 (segmentDetail s.ctx.csr 0x01))))

/-! ## Slot B: scratchpads and memory -/

/-- R262, R61, R220, R486: LDS, LDSX, LDR and LDRX give the bytes of the scratchpad at base + offset, zero- or sign-extended, or poison
where a block is; LDS and LDSX land after four bundles, the others over the scoreboard; one that an earlier access is kept before
waits in its slot, and one to a shed die is not performed yet. -/
def Sys2Proof.Claims.ScratchpadLoads : Prop :=
  ∀ (s : State) (d b : Reg) (ac : BitVec 3) (z : BitVec 2) (o : BitVec 10), (s.thr.readB b).tag = 0 →
    let n := 2 ^ z.toNat
    (localAddress s b z o % n = 0 → localAddress s b z o + n ≤ s.ctx.kern.spad → ¬Free s ac →
      exec (.lds d b ac z o) s = .next (waits s .order) ∧ exec (.ldsx d b ac z o) s = .next (waits s .order)) ∧
    (∀ s1, localAddress s b z o % n = 0 → localAddress s b z o + n ≤ s.ctx.kern.spad → Free s ac →
      s.touch (localAddress s b z o) n = (.ok (), s1) → (s1.core s1.cur).spadErr = [] →
      let poison := (s1.core s1.cur).spadBad (localAddress s b z o) n
      let f := fun i => spadByte s1 s1.cur (localAddress s b z o + i)
      (∃ v, Loaded false poison n f v ∧ exec (.lds d b ac z o) s = .next (commitsB s1 4 d v)) ∧
      (∃ v, Loaded true poison n f v ∧ exec (.ldsx d b ac z o) s = .next (commitsB s1 4 d v))) ∧
    (∀ c a, (address s b z o).toNat % n = 0 → s.remoteOf (address s b z o) = some (c, a) → Free s ac →
      (s.shedCore c = true → ∃ addr way,
        exec (.ldr d b ac z o) s =
          .next (s.await (boardB d) (.later (.spad c a n) (.load false)) addr false false way).slotDone ∧
        exec (.ldrx d b ac z o) s =
          .next (s.await (boardB d) (.later (.spad c a n) (.load true)) addr false false way).slotDone) ∧
      (s.shedCore c = false → (s.core c).spadErr = [] →
        let poison := (s.core c).spadBad a n
        let f := fun i => spadByte s c (a + i)
        (∃ v addr way, Loaded false poison n f v ∧
          exec (.ldr d b ac z o) s = .next (s.await (boardB d) (.scalar v) addr false false way).slotDone) ∧
        (∃ v addr way, Loaded true poison n f v ∧
          exec (.ldrx d b ac z o) s = .next (s.await (boardB d) (.scalar v) addr false false way).slotDone)))

/-- R262, R191: STS and STR write the low bytes of data at base + offset and no other byte; poison data marks their block, and
clean data that does not fill a block leaves its mark. STR with .g awaits its acknowledgement (R229). -/
def Sys2Proof.Claims.ScratchpadStores : Prop :=
  ∀ (s : State) (d b : Reg) (g : BitVec 1) (ac : BitVec 3) (z : BitVec 2) (o : BitVec 10),
    (s.thr.readB b).tag = 0 → (s.thr.readB d).tag ≠ 1 →
    let n := 2 ^ z.toNat
    let stored (u s1 : State) (c : CoreNum) (a : Nat) : Prop :=
      (∀ k, spadByte u c k = if a ≤ k ∧ k < a + n then BitVec.ofNat 8 ((s.thr.readB d).val.toNat / 256 ^ (k - a))
        else spadByte s1 c k) ∧
      (∀ k, k ∈ (u.core c).spadMark ↔ k ∈ (s1.core c).spadMark ∨ (bad (s.thr.readB d) = true ∧ k = a / 64)) ∧
      (∀ e, e ≠ c → (u.core e).spad = (s1.core e).spad) ∧ u.mem = s1.mem ∧ u.parts = s1.parts ∧ SameRest s1 u
    (∀ s1, localAddress s b z o % n = 0 → localAddress s b z o + n ≤ s.ctx.kern.spad → Free s ac →
      s.readyWrite (localAddress s b z o) n = (.ok (), s1) → Canonical s1 →
      ∃ u : State, exec (.sts d b g ac z o) s = .next u.slotDone ∧ stored u s1 s1.cur (localAddress s b z o) ∧
        u.ctx = s1.ctx.markDirty (localAddress s b z o) n) ∧
    (∀ c a, (address s b z o).toNat % n = 0 → s.remoteOf (address s b z o) = some (c, a) → Free s ac → Canonical s →
      ∃ u : State, exec (.str d b g ac z o) s = .next u.slotDone ∧ stored u s c a ∧
        Awaits s.ctx u.ctx (if g = 1 then [(address s b z o).setWidth 56] else []) ∧
        u.thr = s.thr)

/-- Loads from and stores to scratchpads (R61, R191, R229, R262). -/
def Obligations.ScratchpadAccess : Prop := Sys2Proof.Claims.ScratchpadLoads ∧ Sys2Proof.Claims.ScratchpadStores

/-- R262, R264, R265: LDG and LDGX request the bytes of memory at base + offset, which come over the scoreboard; LDGS and LDGSX do
the same on write-back pages and give a deferred value on others and where translation stops them; LDK reads the constant cache. -/
def Sys2Proof.Claims.GlobalLoads : Prop :=
  ∀ (s : State) (d b : Reg) (ac : BitVec 3) (z : BitVec 2) (o : BitVec 10), (s.thr.readB b).tag = 0 →
    let n := 2 ^ z.toNat
    let va := address s b z o
    (∀ xs s1, s.xlateRange s.ctx.agent .read va n = (.ok xs, s1) → inConfig xs = false → isRemote xs = false → Free s ac →
      s1.shedPieces xs = false → ∀ l poison s2, s1.readPieces s1.ctx.part xs = (l, poison, s2) → l.length = n →
      (∃ v addr way, Loaded false poison n (fun i => l.getD i 0) v ∧
        exec (.ldg d b ac z o) s = .next (s2.await (boardB d) (.scalar v) addr false false way).slotDone ∧
        (xs.all (fun x => x.1.cached) = true →
          exec (.ldgs d b ac z o) s = .next (s2.await (boardB d) (.scalar v) addr false false way).slotDone)) ∧
      (∃ v addr way, Loaded true poison n (fun i => l.getD i 0) v ∧
        exec (.ldgx d b ac z o) s = .next (s2.await (boardB d) (.scalar v) addr false false way).slotDone ∧
        (xs.all (fun x => x.1.cached) = true →
          exec (.ldgsx d b ac z o) s = .next (s2.await (boardB d) (.scalar v) addr false false way).slotDone))) ∧
    (∀ xs s1, s.xlateRange s.ctx.agent .read va n = (.ok xs, s1) → (xs.any fun x => !x.1.cached) = true →
      exec (.ldgs d b ac z o) s = .next (s1.await (boardB d) (.scalar ⟨0, 1⟩) 0).slotDone ∧
      exec (.ldgsx d b ac z o) s = .next (s1.await (boardB d) (.scalar ⟨0, 1⟩) 0).slotDone) ∧
    (∀ e s1, s.xlateRange s.ctx.agent .read va n = (.error e, s1) → e ≠ .granule →
      exec (.ldgs d b ac z o) s = .next (s1.await (boardB d) (.scalar ⟨0, 1⟩) 0).slotDone ∧
      exec (.ldgsx d b ac z o) s = .next (s1.await (boardB d) (.scalar ⟨0, 1⟩) 0).slotDone) ∧
    (va.toNat % n = 0 → va.toNat < 0x10000 →
      ∃ v, Loaded false ((s.core s.cur).constMark.contains (va.toNat / 64)) n
          (fun i => smGet 0 (va.toNat + i) (s.core s.cur).const) v ∧
        exec (.ldk d b z o) s = .next (commitsB s 3 d v))

/-- R262, R229: STG writes the low bytes of data to the translated pieces of base + offset, those of another module by requests that
leave the module, and with .g awaits the acknowledgement of each piece. -/
def Sys2Proof.Claims.GlobalStores : Prop :=
  ∀ (s : State) (d b : Reg) (g : BitVec 1) (ac : BitVec 3) (z : BitVec 2) (o : BitVec 10),
    (s.thr.readB b).tag = 0 → (s.thr.readB d).tag ≠ 1 →
    ∀ xs s1, s.xlateRange s.ctx.agent .write (address s b z o) (2 ^ z.toNat) = (.ok xs, s1) → inConfig xs = false →
      Free s ac (homeOf xs) →
      let data := leBytes (2 ^ z.toNat) (s.thr.readB d).val.toNat
      (g = 1 ∨ s1.stuck (writesOf (bad (s.thr.readB d)) false xs data) = false) →
      ∃ u : State, exec (.stg d b g ac z o) s = .next u.slotDone ∧
        u.mem = (s1.writePieces (some s1.ctx.id) (bad (s.thr.readB d)) (g = 1) xs data).mem ∧
        u.out = (s1.writePieces (some s1.ctx.id) (bad (s.thr.readB d)) (g = 1) xs data).out ∧
        Awaits s1.ctx u.ctx (if g = 1 then pieceAddresses (address s b z o) xs else []) ∧
        u.thr = s1.thr ∧ (∀ c, (u.core c).spad = (s1.core c).spad) ∧ SameRest s1 u

/-- Global loads and stores (R262, R264, R265). -/
def Obligations.GlobalAccess : Prop := Sys2Proof.Claims.GlobalLoads ∧ Sys2Proof.Claims.GlobalStores

/-- R218, R224, R191: bytes of translated pieces of this module: in memory without latent errors and elided units a read gives
the bytes that stand there and changes nothing, and a write of pieces that do not overlap, while no migration runs, changes
the bytes of the pieces, as one observer at their home sees them, and no other byte (a write past the cache also brings a dirty
pool line to its device, so that there only the cached view of the line's other bytes stays). -/
def Obligations.MemoryBytes : Prop :=
  ∀ (s : State) (xs : List (Xlat × Nat)), Quiet s → (∀ p ∈ xs, p.1.remote = none) →
    (∀ part, (s.readPieces part xs).1 = (pieceBytes xs).map (fun a => s.byteAt a.1 a.2) ∧ (s.readPieces part xs).2.2 = s) ∧
    (Canonical s → (∀ q : PartNum, (s.part q).migbusy = none) →
      ((pieceBytes xs).map (·.1)).Nodup →
      ∀ (who : Option TaskId) (poison g : Bool) (data : List Byte), data.length = (pieceBytes xs).length →
        (∀ i, i < data.length → ∀ a, (pieceBytes xs)[i]? = some a →
          (s.writePieces who poison g xs data).byteAt a.1 a.2 = data.getD i 0) ∧
        (∀ a cached, a ∉ (pieceBytes xs).map (·.1) → (cached = true ∨ s.mem.line? (a / 64) = none) →
          (s.writePieces who poison g xs data).byteAt a cached = s.byteAt a cached))

/-- R266, R267, R268: the atomics on the core's own scratchpad and on another core's. -/
def Sys2Proof.Claims.ScratchpadAtomics : Prop :=
  ScratchAtomic (fun d b _ => .atsAdd d b) .add false ∧ ScratchAtomic (fun d b _ => .atsSwap d b) .swap false ∧
  ScratchAtomic .atsCas .cas false ∧ ScratchAtomic (fun d b _ => .atsAnd d b) .and false ∧
  ScratchAtomic (fun d b _ => .atsOr d b) .or false ∧ ScratchAtomic (fun d b _ => .atsXor d b) .xor false ∧
  ScratchAtomic (fun d b _ => .atsSmin d b) .smin false ∧ ScratchAtomic (fun d b _ => .atsSmax d b) .smax false ∧
  ScratchAtomic (fun d b _ => .atrAdd d b) .add true ∧ ScratchAtomic (fun d b _ => .atrSwap d b) .swap true ∧
  ScratchAtomic .atrCas .cas true ∧ ScratchAtomic (fun d b _ => .atrAnd d b) .and true ∧
  ScratchAtomic (fun d b _ => .atrOr d b) .or true ∧ ScratchAtomic (fun d b _ => .atrXor d b) .xor true ∧
  ScratchAtomic (fun d b _ => .atrSmin d b) .smin true ∧ ScratchAtomic (fun d b _ => .atrSmax d b) .smax true

/-- R266, R267: the atomics on memory of this module. -/
def Sys2Proof.Claims.MemoryAtomics : Prop :=
  MemoryAtomic (fun d b _ => .atgAdd d b) .add ∧ MemoryAtomic (fun d b _ => .atgSwap d b) .swap ∧
  MemoryAtomic .atgCas .cas ∧ MemoryAtomic (fun d b _ => .atgAnd d b) .and ∧ MemoryAtomic (fun d b _ => .atgOr d b) .or ∧
  MemoryAtomic (fun d b _ => .atgXor d b) .xor ∧ MemoryAtomic (fun d b _ => .atgSmin d b) .smin ∧
  MemoryAtomic (fun d b _ => .atgSmax d b) .smax

/-- The atomics on scratchpads and on memory (R266, R267, R268). -/
def Obligations.Atomics : Prop := Sys2Proof.Claims.ScratchpadAtomics ∧ Sys2Proof.Claims.MemoryAtomics

/-- R260, R190, R192, R426: the checks of slot B in their order, each with its trap: a deferred source, a poison address of a
store or an atomic, a misaligned address, a local address beyond the declared scratchpad, a remote address that R204 refuses. A
load with a poison address writes poison instead. -/
def Sys2Proof.Claims.AccessChecks : Prop :=
  ∀ (s : State) (d b : Reg) (g : BitVec 1) (ac : BitVec 3) (z : BitVec 2) (w : BitVec 1) (o : BitVec 10),
    ((s.thr.readB b).tag = 1 →
      exec (.lds d b ac z o) s = .next (traps s 0x03 (b.setWidth 64)) ∧
      exec (.sts d b g ac z o) s = .next (traps s 0x03 (b.setWidth 64)) ∧
      exec (.ldg d b ac z o) s = .next (traps s 0x03 (b.setWidth 64)) ∧
      exec (.stg d b g ac z o) s = .next (traps s 0x03 (b.setWidth 64)) ∧
      exec (.atgAdd d b g ac w) s = .next (traps s 0x03 (b.setWidth 64)) ∧
      exec (.ldgs d b ac z o) s = .next (s.await (boardB d) (.scalar ⟨0, 1⟩) 0).slotDone) ∧
    ((s.thr.readB d).tag = 1 → (s.thr.readB b).tag = 0 →
      exec (.sts d b g ac z o) s = .next (traps s 0x03 (d.setWidth 64)) ∧
      exec (.stg d b g ac z o) s = .next (traps s 0x03 (d.setWidth 64)) ∧
      exec (.atsAdd d b g ac w) s = .next (traps s 0x03 (d.setWidth 64))) ∧
    (bad (s.thr.readB b) = true → (s.thr.readB d).tag = 0 →
      exec (.lds d b ac z o) s = .next (commitsB s 4 d ⟨0, 2⟩) ∧
      exec (.ldr d b ac z o) s = .next (s.await (boardB d) (.scalar ⟨0, 2⟩) 0).slotDone ∧
      exec (.ldg d b ac z o) s = .next (s.await (boardB d) (.scalar ⟨0, 2⟩) 0).slotDone ∧
      exec (.ldk d b z o) s = .next (commitsB s 3 d ⟨0, 2⟩) ∧
      exec (.sts d b g ac z o) s = .next (traps s 0x05 (b.setWidth 64)) ∧
      exec (.str d b g ac z o) s = .next (traps s 0x05 (b.setWidth 64)) ∧
      exec (.stg d b g ac z o) s = .next (traps s 0x05 (b.setWidth 64)) ∧
      exec (.atsAdd d b g ac w) s = .next (traps s 0x05 (b.setWidth 64))) ∧
    ((s.thr.readB b).tag = 0 → (s.thr.readB d).tag = 0 →
      (localAddress s b z o % 2 ^ z.toNat ≠ 0 →
        exec (.lds d b ac z o) s = .next (traps s 0x07 (BitVec.ofNat 64 (localAddress s b z o))) ∧
        exec (.sts d b g ac z o) s = .next (traps s 0x07 (BitVec.ofNat 64 (localAddress s b z o)))) ∧
      (localAddress s b z o % 2 ^ z.toNat = 0 → s.ctx.kern.spad < localAddress s b z o + 2 ^ z.toNat →
        exec (.lds d b ac z o) s = .next (traps s 0x08 (BitVec.ofNat 64 (localAddress s b z o))) ∧
        exec (.sts d b g ac z o) s = .next (traps s 0x08 (BitVec.ofNat 64 (localAddress s b z o)))) ∧
      ((address s b z o).toNat % 2 ^ z.toNat ≠ 0 →
        exec (.ldr d b ac z o) s = .next (traps s 0x07 (((address s b z o).setWidth 56).setWidth 64)) ∧
        exec (.str d b g ac z o) s = .next (traps s 0x07 (((address s b z o).setWidth 56).setWidth 64)) ∧
        exec (.ldk d b z o) s = .next (traps s 0x07 (((address s b z o).setWidth 56).setWidth 64))) ∧
      ((address s b z o).toNat % 2 ^ z.toNat = 0 → s.remoteOf (address s b z o) = none →
        exec (.ldr d b ac z o) s = .next (traps s 0x09 (((address s b z o).setWidth 56).setWidth 64)) ∧
        exec (.str d b g ac z o) s = .next (traps s 0x09 (((address s b z o).setWidth 56).setWidth 64))) ∧
      ((address s b z o).toNat % 2 ^ z.toNat = 0 → 0x10000 ≤ (address s b z o).toNat →
        exec (.ldk d b z o) s = .next (traps s 0x09 (((address s b z o).setWidth 56).setWidth 64))))

/-- R71, R36, R140, R141, R163: MOVM copies a value with its tag to a main-file register, visible two bundles on, from each slot; slot
C's source is a lane pair. The read form brings one to slot A. None of them traps on a tag. -/
def Obligations.MainFileMoves : Prop :=
  ∀ (s : State) (r d : Reg) (j : BitVec 5) (n : BitVec 6),
    exec (.movmWriteA r n) s = .next (withResult s 2 (.m ⟨n.toNat, n.isLt⟩) (.scalar (s.thr.readA r))).slotDone ∧
    exec (.movmWriteB r n) s = .next (withResult s 2 (.m ⟨n.toNat, n.isLt⟩) (.scalar (s.thr.readB r))).slotDone ∧
    (∀ v, s.thr.m[n.toNat]? = some v → exec (.movmRead d n) s = .next (commitsA s 1 d v)) ∧
    (s.ctx.inHandler = false →
      exec (.movmWriteD r n) s = .next (withResult s 2 (.m ⟨n.toNat, n.isLt⟩) (.scalar (s.thr.readD r))).slotDone ∧
      ∃ v : TVal, exec (.movmWriteC r j n) s = .next (withResult s 2 (.m ⟨n.toNat, n.isLt⟩) (.scalar v)).slotDone ∧
        (let x := s.ctx.vec.read r
         let i := 2 * j.toNat
         some v.val.toNat = (do return (← x.lanes[i]?).toNat + 2 ^ 32 * (← x.lanes[i + 1]?).toNat) ∧
         (x.side.getLsbD i = false → x.side.getLsbD (i + 1) = false → v.tag = 0) ∧
         ((x.side.getLsbD i || x.side.getLsbD (i + 1)) = true → v.tag = if x.spec then 1 else 2)))

/-! ## Slot B: fences, locks, lines -/

/-- R269, R271, R229, R241: FENCE and REL wait while an ordering point must. At scopes below the pool they commit where it need not;
at pool scope the context's dirty pool lines are written back, and a severed region raises its cause before any wait. REL then
writes 0 to its lock word. -/
def Sys2Proof.Claims.FenceAndRelease : Prop :=
  ∀ (s : State) (b : Reg) (g : BitVec 1) (x : BitVec 3),
    let released (u : State) : State := if x = 0 then u else u.onCtx fun c => { c with released := true }
    (s.orderWait = none → x ≠ 5 → exec (.fence x) s = .next (released s).slotDone) ∧
    (∀ u, s.poolFlush = .ok u → s.orderWait = none → exec (.fence 5) s =
      .next (u.onCtx fun c => { c with released := true }).slotDone) ∧
    (∀ r, s.poolFlush = .error r → exec (.fence 5) s = .next (traps s 0x0B (BitVec.ofNat 64 r))) ∧
    (s.ctx.owedTrap = none → s.ctx.lost = [] → s.ctx.acks ≠ [] → (x = 5 → ∃ u, s.poolFlush = .ok u) →
      exec (.fence x) s = .next (waits s .order)) ∧
    ((s.thr.readB b).tag = 0 → (s.thr.readB b).val.toNat % 8 = 0 →
      ∀ xs s1, s.xlateRange s.ctx.agent .atomic (s.thr.readB b).val 8 = (.ok xs, s1) →
        let wrote (u v : State) : Prop :=
          v.mem = (u.writeAccess xs [0, 0, 0, 0, 0, 0, 0, 0] false (g = 1)).mem ∧
          Awaits s1.ctx v.ctx (if g = 1 then pieceAddresses (s.thr.readB b).val xs else []) ∧
          (x ≠ 0 → v.ctx.released = true) ∧ v.thr = s1.thr
        s1.orderWait = none → (g = 1 ∨ s1.stuck (writesOf false false xs [0, 0, 0, 0, 0, 0, 0, 0]) = false) →
          (x ≠ 5 → ∃ v : State, exec (.rel b g x) s = .next v.slotDone ∧ wrote s1 v) ∧
          (x = 5 → ∀ u, s1.poolFlush = .ok u → ∃ v : State, exec (.rel b g x) s = .next v.slotDone ∧ wrote u v))

/-- R270, R263, R268: ACQ writes 1 to a free lock word of this module's memory at once, with its read, and awaits the acknowledgement;
it waits at a held word, which ACQ_POLL tries again, and a poison word raises the poison-address cause with bit 63. -/
def Sys2Proof.Claims.Acquire : Prop :=
  ∀ (s : State) (b : Reg) (x : BitVec 3), (s.thr.readB b).tag = 0 → (s.thr.readB b).val.toNat % 8 = 0 →
    ∀ (w : Xlat) s1, s.xlateRange s.ctx.agent .atomic (s.thr.readB b).val 8 = (.ok [(w, 8)], s1) → w.remote = none →
      s1.shedPieces [(w, 8)] = false → Free s 0 →
      ∀ l poison s2, (homeState s1 w).readPhys (some s1.ctx.part) w.pa 8 (w.pol = 0) = (l, poison, s2) → l.length = 8 →
        let va := (s.thr.readB b).val.setWidth 56
        (poison = false → leNat l = 0 → ∃ u : State, exec (.acq b x) s = .next u.slotDone ∧
          u.mem = (s2.writePhys (some s1.ctx.id) w.pa [1, 0, 0, 0, 0, 0, 0, 0] false (w.pol = 0)).mem ∧
          Awaits s1.ctx u.ctx [va] ∧ u.thr = s1.thr ∧
          (s.ctx.wait = .lock va → va.setWidth 64 = (s.thr.readB b).val → (s.core s.cur).busy = true →
            s.thr.issue.isSome = true → exec (.acqPoll s.cur) s = .next { u.slotDone with cur := s.cur })) ∧
        (poison = false → leNat l ≠ 0 → exec (.acq b x) s = .next (waits s2 (.lock va))) ∧
        (poison = true → exec (.acq b x) s = .next (traps s2 0x05 (0x8000000000000000 ||| va.setWidth 64)))

/-- R272: IFENCE waits while a write of the context is not performed, and then discards what its core has fetched. -/
def Sys2Proof.Claims.InstructionFence : Prop :=
  ∀ s : State,
    (s.ctx.writesOpen = false →
      exec .ifence s = .next { s with fetched := smDel s.cur.toNat s.fetched }.slotDone) ∧
    (s.ctx.writesOpen = true → exec .ifence s = .next (waits s .order))

/-- Fences, releases, locks and the instruction fence (R229, R241, R263, R268, R269, R270, R271, R272). -/
def Obligations.OrderingForms : Prop :=
  Sys2Proof.Claims.FenceAndRelease ∧ Sys2Proof.Claims.Acquire ∧ Sys2Proof.Claims.InstructionFence

/-- R287, R285, R286: a line form commits when its address translates: WBL and WBINVL write a dirty pool line back and await it, INVL
changes nothing. MCFILL delivers the 128 bytes at its line address to every core of the groves it reaches and notes the others
in mcstat. -/
def Obligations.LineForms : Prop :=
  ∀ (s : State) (b d i : Reg) (ac : BitVec 3), (s.thr.readB b).tag = 0 →
    (∀ xs s1, s.xlateRange s.ctx.agent .read (s.thr.readB b).val 1 = (.ok xs, s1) →
      exec (.invl b ac) s = .next s1.slotDone ∧
      (s1.mem.dirty = [] → exec (.wbl b ac) s = .next s1.slotDone ∧ exec (.wbinvl b ac) s = .next s1.slotDone) ∧
      (∀ x, xs = [x] → x.1.remote = none → x.1.pol = 0 → target x.1.pa = .pool →
        (s1.mem.line? (x.1.pa / 64)).isSome = true → Free s ac → ∃ u : State, exec (.wbl b ac) s = .next u.slotDone ∧
          exec (.wbinvl b ac) s = .next u.slotDone ∧ u.mem = s1.mem.writeBack (x.1.pa / 64) ∧
          Awaits s1.ctx u.ctx [(s.thr.readB b).val.setWidth 56])) ∧
    (s.ctx.inHandler = false → (s.thr.readB d).tag = 0 → (s.thr.readB i).tag = 0 → (s.thr.readB b).val.toNat % 128 = 0 →
      (s.thr.readB d).val.toNat % 2 ^ 32 % 128 = 0 → (s.thr.readB d).val.toNat % 2 ^ 32 + 128 ≤ 0x180000 →
      ((s.thr.readB i).val.setWidth 16 = 0#16 → exec (.mcfill d b i ac) s =
        .next (s.onCtx fun c => { c with csr := { c.csr with mcLast := 0 } }).slotDone) ∧
      (∀ xs s1 l s2, (s.thr.readB i).val.setWidth 16 ≠ 0#16 →
        s.xlateSpan s.ctx.agent .read (s.thr.readB b).val 128 = (.ok xs, s1) → isRemote xs = false →
        s1.shedPieces xs = false → Free s ac → s1.readMarked s1.ctx.part xs = (l, s2) → l.length = 128 → Canonical s2 →
        ∃ u : State, exec (.mcfill d b i ac) s = .next u.slotDone ∧
          (∀ c : CoreNum, ∀ k < 128, (s.thr.readB i).val.getLsbD (groveOf c).toNat = true → s.multicastTo (groveOf c) = true →
            spadByte u c ((s.thr.readB d).val.toNat % 2 ^ 32 + k) = (l.getD k (0, false)).1) ∧
          (∀ c : CoreNum, ((s.thr.readB i).val.getLsbD (groveOf c).toNat = false ∨ s.multicastTo (groveOf c) = false) →
            (u.core c).spad = (s2.core c).spad) ∧
          (∀ g : GroveNum, u.ctx.csr.mcLast.getLsbD g.toNat =
            ((s.thr.readB i).val.getLsbD g.toNat && !s.multicastTo g))))

/-! ## Slot B: rings, windows, maps -/

/-- R273 to R277: on a handle with a ring and a clean count within its limit, RNEED and RFREE commit once their rows are there and
else wait, RADV retires rows and RPUB publishes them without a window, each with no other field of the handle changed; a count
beyond the limit, a handle without a ring and a form that the window excludes trap with the handle unchanged. -/
def Obligations.RingForms : Prop :=
  ∀ (s : State) (a : Reg) (h : BitVec 4) (r : Handle), s.ctx.inHandler = false → s.ctx.h[h.toNat]? = some r →
    (s.thr.readB a).tag = 0 →
    let n := (s.thr.readB a).val.toNat
    let rows := r.rowsM1.toNat + 1
    (r.rowb = 0 → exec (.rneed a h) s = .next (traps s 0x0C (h.setWidth 64)) ∧
      exec (.rfree a h) s = .next (traps s 0x0C (h.setWidth 64)) ∧ exec (.radv a h) s = .next (traps s 0x0C (h.setWidth 64)) ∧
      exec (.rpub a h) s = .next (traps s 0x0C (h.setWidth 64)) ∧ exec (.winadv a h) s = .next (traps s 0x0C (h.setWidth 64)) ∧
      exec (.rrd a h) s = .next (traps s 0x0C (h.setWidth 64))) ∧
    (r.rowb ≠ 0 →
      (rows < n → exec (.rneed a h) s = .next (traps s 0x0D (h.setWidth 64))) ∧
      (n ≤ rows → exec (.rneed a h) s = .next (if n ≤ r.fill.toNat then s.slotDone
        else s.onCtx fun c => { c with wait := .ring ⟨h.toNat, h.isLt⟩ })) ∧
      (r.win.isSome = true → exec (.rfree a h) s = .next (traps s 0x0C (h.setWidth 64)) ∧
        exec (.radv a h) s = .next (traps s 0x0C (h.setWidth 64)) ∧ exec (.rpub a h) s = .next (traps s 0x0C (h.setWidth 64))) ∧
      (r.win = none →
        (rows < n → exec (.rfree a h) s = .next (traps s 0x0D (h.setWidth 64))) ∧
        (n ≤ rows → exec (.rfree a h) s = .next (if n + r.fill.toNat ≤ rows ∨ n = 0 then s.slotDone
          else s.onCtx fun c => { c with wait := .ring ⟨h.toNat, h.isLt⟩ })) ∧
        (r.fill.toNat < n → exec (.radv a h) s = .next (traps s 0x0D (h.setWidth 64))) ∧
        (n ≤ r.fill.toNat → s.thr.board = [] → ∃ r', exec (.radv a h) s = .next (setsHandle s h r') ∧
          r'.head.toNat = (r.head.toNat + n) % rows ∧ r'.fill.toNat = r.fill.toNat - n ∧
          r'.cursor.toNat = r.cursor.toNat - n * (r.rowb.toNat * 16) ∧
          r'.tail = r.tail ∧ r'.base = r.base ∧ r'.rowsM1 = r.rowsM1 ∧ r'.rowb = r.rowb ∧ r'.win = none) ∧
        (rows - r.fill.toNat < n → exec (.rpub a h) s = .next (traps s 0x0D (h.setWidth 64))) ∧
        (n + r.fill.toNat ≤ rows → s.thr.board = [] → ∃ r', exec (.rpub a h) s = .next (setsHandle s h r') ∧
          r'.tail.toNat = (r.tail.toNat + n) % rows ∧ r'.fill.toNat = r.fill.toNat + n ∧
          r'.head = r.head ∧ r'.cursor = r.cursor ∧ r'.base = r.base ∧ r'.rowsM1 = r.rowsM1 ∧ r'.rowb = r.rowb ∧
          r'.win = none)))

/-- R274, R205: RINGSET loads the record at its scratchpad address and unbinds the window, or rejects it. -/
def Sys2Proof.Claims.RingSet : Prop :=
  ∀ (s : State) (a : Reg) (h : BitVec 4) (s1 : State) (l : List Byte), s.ctx.inHandler = false → (s.thr.readB a).tag = 0 →
    let p := (s.thr.readB a).val.toNat % 2 ^ 32
    p % 16 = 0 → p + 16 ≤ s.ctx.kern.spad → s.localRead p 16 = (.ok (l, false), s1) → l.length = 16 → s1.thr.board = [] →
    let w0 := leNat (l.take 8)
    let w1 := leNat (l.drop 8)
    let rows := w0 / 2 ^ 44 % 2 ^ 12 + 1
    let rb := w0 / 2 ^ 32 % 2 ^ 12 * 16
    let base := w0 / 2 ^ 6 % 2 ^ 15 * 64
    let fill := w1 / 2 ^ 45 % 2 ^ 13
    let head := w1 / 2 ^ 33 % 2 ^ 12
    let tail := w1 / 2 ^ 21 % 2 ^ 12
    let cursor := w1 % 2 ^ 21
    let reserved := w0 / 2 ^ 56 % 2 ^ 7 = 0 ∧ w0 / 2 ^ 21 % 2 ^ 11 = 0 ∧ w0 % 2 ^ 6 = 0 ∧ w1 / 2 ^ 58 = 0
    let fits := rb = 0 ∨ (head < rows ∧ tail < rows ∧ fill ≤ rows ∧ cursor < rb * rows ∧ tail = (head + fill) % rows ∧
      base + rows * rb ≤ s1.ctx.kern.spad)
    (reserved → fits → ∃ r : Handle, exec (.ringset a h) s = .next (setsHandle s1 h r) ∧
      r.rowsM1.toNat + 1 = rows ∧ r.rowb.toNat * 16 = rb ∧ r.base.toNat * 64 = base ∧ r.fill.toNat = fill ∧
      r.head.toNat = head ∧ r.tail.toNat = tail ∧ r.cursor.toNat = cursor ∧ r.win = none) ∧
    (¬(reserved ∧ fits) → exec (.ringset a h) s = .next (traps s1 0x0C (h.setWidth 64)))

/-- R277, R206: RRD takes the row and byte that CURSOR names, moves CURSOR by 8 and goes to the scoreboard; when the row has arrived
its value is the ring's 8 bytes. A row that a window fetched arrives at TAIL: its bytes stand there, and FILL and TAIL
advance. -/
def Sys2Proof.Claims.RingRowsAndReads : Prop :=
  ∀ (s : State) (d : Reg) (h : BitVec 4) (r : Handle), s.ctx.inHandler = false → s.ctx.h[h.toNat]? = some r → r.rowb ≠ 0 →
    let rows := r.rowsM1.toNat + 1
    let rb := r.rowb.toNat * 16
    let k := r.cursor.toNat / rb
    let a := r.base.toNat * 64 + (r.head.toNat + k) % rows * rb + r.cursor.toNat % rb
    (rows ≤ k → exec (.rrd d h) s = .next (traps s 0x0D (h.setWidth 64))) ∧
    (k < rows → s.thr.board = [] → s.touch a 8 = (.ok (), s) → (s.core s.cur).spadErr = [] → Canonical s →
      let u := s.onHandle h fun r => { r with cursor := r.cursor + 8 }
      (r.fill.toNat ≤ k → exec (.rrd d h) s = .next (u.await (boardB d) (.ring ⟨h.toNat, h.isLt⟩ k a) 0).slotDone) ∧
      (k < r.fill.toNat → ∃ v, Loaded false ((s.core s.cur).spadBad a 8) 8 (fun i => spadByte s s.cur (a + i)) v ∧
        exec (.rrd d h) s = .next (u.await (boardB d) (.scalar v) 0).slotDone)) ∧
    (∀ (w : Window) (row : Row) (t : List Row), r.win = some w → w.arriving = row :: t → s.thr.board = [] →
      (s.core s.cur).busy = true → Canonical s →
      ∃ (u : State) (r' : Handle), exec (.windowRowArrival s.cur h) s = .next u ∧ u.ctx.h[h.toNat]? = some r' ∧
        r'.fill = r.fill + 1 ∧ r'.tail.toNat = (r.tail.toNat + 1) % rows ∧ r'.head = r.head ∧ r'.cursor = r.cursor ∧
        r'.win = some { w with arriving := t } ∧
        (∀ i < row.bytes.length, spadByte u s.cur (r.base.toNat * 64 + r.tail.toNat * rb + i) = row.bytes.getD i 0) ∧
        (∀ i, (i < r.base.toNat * 64 + r.tail.toNat * rb ∨ r.base.toNat * 64 + r.tail.toNat * rb + row.bytes.length ≤ i) →
          spadByte u s.cur i = spadByte s s.cur i) ∧ u.mem = s.mem ∧ u.thr = s.thr ∧ SameRest s u)

/-- RINGSET, the movement of rows and the reads of a ring (R205, R206, R274, R277). -/
def Obligations.Rings : Prop := Sys2Proof.Claims.RingSet ∧ Sys2Proof.Claims.RingRowsAndReads

/-- R279, R280, R207: WINSET empties the ring, binds the window at row 0 and enables fetches; WINADV retires rows as RADV does and
enables fetches into them; row t of a window stands where its extents and strides say. -/
def Sys2Proof.Claims.Windows : Prop :=
  (∀ (d : WinDesc) (t : Nat), ((d.rowVa t).toNat : Int) = windowRow d t) ∧
  ∀ (s : State) (a : Reg) (h : BitVec 4) (r : Handle), s.ctx.inHandler = false → s.ctx.h[h.toNat]? = some r → r.rowb ≠ 0 →
    (s.thr.readB a).tag = 0 → s.thr.board = [] →
    let p := (s.thr.readB a).val.toNat % 2 ^ 32
    let n := (s.thr.readB a).val.toNat
    (p % 16 = 0 → p + 48 ≤ s.ctx.kern.spad → ∀ l s1, s.localRead p 48 = (.ok (l, false), s1) → winBytesOk l = true →
      s1.ctx.h[h.toNat]? = some r → s1.thr.board = [] →
      exec (.winset a h) s = .next ((s1.onHandle h fun r => { r with
        tail := r.head, fill := 0, cursor := 0, win := some ⟨WinDesc.ofBytes l, 0, [], false⟩ }).enableRows h).slotDone) ∧
    (r.win.isSome = true → n ≤ r.fill.toNat → ∃ r', exec (.winadv a h) s =
        .next ((s.onHandle h fun _ => r').enableRows h).slotDone ∧
      r'.head.toNat = (r.head.toNat + n) % (r.rowsM1.toNat + 1) ∧ r'.fill.toNat = r.fill.toNat - n ∧
      r'.cursor.toNat = r.cursor.toNat - n * (r.rowb.toNat * 16) ∧ r'.tail = r.tail ∧ r'.win = r.win) ∧
    (r.win = none → exec (.winadv a h) s = .next (traps s 0x0C (h.setWidth 64)))

/-- R281 to R284, R210: MAPSET of a legal region binds it empty once the old dirty blocks are written back, MAPINV empties a map, MAPFLUSH
writes its dirty blocks back and leaves them clean, and MAP_FILL fills an empty granule of a bound map. -/
def Sys2Proof.Claims.MapForms : Prop :=
  ∀ (s : State) (a : Reg) (m : BitVec 4), s.ctx.inHandler = false →
    let i : Fin 16 := ⟨m.toNat, m.isLt⟩
    exec (.mapinv m) s = .next (s.onMap i fun u => { u with grans := [] }).slotDone ∧
    ((s.ctx.maps[i]).desc = none → exec (.mapflush m) s = .next s.slotDone) ∧
    (∀ u, s.writeBackMap i = (.ok (), u) → exec (.mapflush m) s = .next u.slotDone) ∧
    ((s.thr.readB a).tag = 0 → (s.thr.readB a).val.toNat % 2 ^ 32 % 16 = 0 →
      (s.thr.readB a).val.toNat % 2 ^ 32 + 48 ≤ s.ctx.kern.spad →
      ∀ l s1 s2, s.localRead ((s.thr.readB a).val.toNat % 2 ^ 32) 48 = (.ok (l, false), s1) →
        mapBytesOk l = true → s1.ctx.mapFits i (MapDesc.ofBytes l) = true → s1.writeBackMap i = (.ok (), s2) →
        ∃ u : MapUnit, exec (.mapset a m) s = .next (s2.onMap i fun _ => u).slotDone ∧ u.grans = [] ∧
          ((MapDesc.ofBytes l).len = 0 → u.desc = none) ∧ ((MapDesc.ofBytes l).len ≠ 0 → u.desc = some (MapDesc.ofBytes l))) ∧
    (∀ (d : MapDesc) (g : BitVec 9) (u : State), (s.ctx.maps[i]).desc = some d → g.toNat * 4096 < d.len.toNat →
      ((s.ctx.maps[i]).gran? g.toNat) = none → s.fillGranule i d g.toNat = (.ok (), u) →
      exec (.mapFill s.cur m g) s = .next { u with cur := s.cur } ∧
        ∃ gr, ((u.ctx.maps[i]).gran? g.toNat) = some gr ∧ gr.dirty = 0)

/-- Tile windows and maps of mapped global memory (R207, R210, R279, R280, R281, R284). -/
def Obligations.WindowsAndMaps : Prop := Sys2Proof.Claims.Windows ∧ Sys2Proof.Claims.MapForms

/-! ## Slot C: elements -/

namespace Sys2Proof.Claims

/-- Where specifier `d` of a slot C vector destination sends a result (R144). -/
def destinationC (d : Reg) : LDest :=
  if h : d.toNat < 16 then .c ⟨d.toNat, h⟩ else if d = 16 then .cLast else .discard
/-- The instruction of slot C commits with the lanes `act` of a vector result. -/
def commitsC (s : State) (lat : Nat) (d : Reg) (v : VReg) (act : BitVec 64) (fl : BitVec 7 := 0) : State :=
  (withResult s lat (destinationC d) (.vec v act) fl).slotDone
/-- It commits with a mask result. -/
def commitsK (s : State) (lat : Nat) (d : Reg) (m : BitVec 64) (fl : BitVec 7 := 0) : State :=
  (withResult s lat (.k ⟨d.toNat % 8, Nat.mod_lt _ (by decide)⟩) (.mask m) fl).slotDone
/-- Lane `i` of a register. -/
def lane (v : VReg) (i : Nat) : BitVec 32 := (v.lanes[i]?).getD 0
/-- A lane is poison: its side bit is set while the flag is 0 (R146). -/
def badLane (v : VReg) (i : Nat) : Bool := !v.spec && v.side.getLsbD i
/-- No lane of a mask is deferred (R49): the flag is 0, or their side bits are clear. -/
def Undeferred (v : VReg) (act : BitVec 64) : Prop := v.spec = true → v.side &&& act = 0
/-- Width of the elements of a TY code or a VCVT code (R74, R76). -/
def tyWidth (t : BitVec 4) : Nat :=
  if t.toNat < 2 ∨ t = 6 then 32 else if t = 4 ∨ t = 5 ∨ t = 9 ∨ t = 10 ∨ t = 13 then 8
  else if t = 11 ∨ t = 12 ∨ t = 14 then 4 else 16
/-- The format of a floating-point code: FP32, FP16, BF16, E4M3, E5M2, E2M1; 13 and 14 are E4M3 and E2M1 in MX blocks. -/
def tyFormat (t : BitVec 4) : FFmt :=
  if t = 6 then ⟨8, 23, .ieee⟩ else if t = 7 then ⟨5, 10, .ieee⟩ else if t = 8 then ⟨8, 7, .ieee⟩
  else if t = 9 ∨ t = 13 then ⟨4, 3, .e4m3⟩ else if t = 10 then ⟨5, 2, .ieee⟩ else ⟨2, 1, .plain⟩
/-- A code names a floating-point format. -/
def tyFloat (t : BitVec 4) : Bool := decide (6 ≤ t.toNat) && t ≠ 12
/-- The poison pattern of a code, in a format that has one (R99). -/
def tyPattern (t : BitVec 4) : Option Nat :=
  if t = 6 ∨ t = 7 ∨ t = 8 ∨ t = 10 then some (tyFormat t).poisonCode else none
/-- Bounds of an integer TY: even codes are signed. -/
def tyLow (t : BitVec 4) : Int := if t.toNat % 2 = 0 then -2 ^ (tyWidth t - 1) else 0
/-- The upper bound. -/
def tyHigh (t : BitVec 4) : Int := if t.toNat % 2 = 0 then 2 ^ (tyWidth t - 1) - 1 else 2 ^ tyWidth t - 1
/-- The integer that an element spells. -/
def tyInt (t : BitVec 4) (x : Nat) : Int := if t.toNat % 2 = 0 then signedField (tyWidth t) x else x
/-- Element `j` of lane `i` in elements of `w` bits (R95, R143). -/
def elem (w : Nat) (v : VReg) (i j : Nat) : Nat := (lane v i).toNat / 2 ^ (j * w) % 2 ^ w
/-- A source element is poison: its lane is, or it is its format's poison NaN (R146). -/
def badElem (t : BitVec 4) (v : VReg) (i j : Nat) : Bool :=
  badLane v i || (tyFloat t && ((tyFormat t).unpack (elem (tyWidth t) v i j)).isPoison)

/-- The lanes `act` of `v` hold the elements `g`, poison where `bad` says: a floating-point element takes the poison pattern, an
integer one makes its whole lane zero with the side bit set (R100, R146); `fl` joins the flags of the elements that are not
poison (R51). -/
def Elements (t : BitVec 4) (act : BitVec 64) (bad : Nat → Nat → Bool) (g : Nat → Nat → FRes) (v : VReg) (fl : BitVec 7) :
    Prop :=
  let w := tyWidth t
  v.spec = false ∧
  (∀ i < 64, act.getLsbD i = true →
    match tyPattern t with
    | some p => v.side.getLsbD i = false ∧ ∀ j < 32 / w, elem w v i j = if bad i j then p else (g i j).1
    | none => if ∃ j < 32 / w, bad i j = true then v.side.getLsbD i = true ∧ lane v i = 0
      else v.side.getLsbD i = false ∧ ∀ j < 32 / w, elem w v i j = (g i j).1) ∧
  ∀ b < 7, fl.getLsbD b = true ↔
    ∃ i < 64, ∃ j < 32 / w, act.getLsbD i = true ∧ bad i j = false ∧ (g i j).2.getLsbD b = true

/-- An element-wise form of a type: each element of an active lane is what `R` makes of the elements of the sources that `reads`
names. -/
def Elementwise (mk : Reg → Reg → Reg → BitVec 3 → Instr) (reads : Reg → Reg → Reg → List Reg) (t : BitVec 4) (lat : Nat)
    (R : (Nat → Nat) → FRes → Prop) : Prop :=
  ∀ (s : State) (d a b : Reg) (k : BitVec 3), s.ctx.inHandler = false →
    let act := s.ctx.vec.active k
    let xs := (reads d a b).map s.ctx.vec.read
    let bad (i j : Nat) : Bool := xs.any fun x => badElem t x i j
    (∀ x ∈ xs, Undeferred x act) →
    ∃ (v : VReg) (fl : BitVec 7) (g : Nat → Nat → FRes),
      exec (mk d a b k) s = .next (commitsC s lat d v act fl) ∧ Elements t act bad g v fl ∧
      ∀ i < 64, ∀ j < 32 / tyWidth t, act.getLsbD i = true → bad i j = false →
        R (fun n => elem (tyWidth t) (xs.getD n VReg.zero) i j) (g i j)

/-- An integer result (R94, R150): the low bits of the exact one, or the nearest value in range with SAT where it differs. -/
def IntResult (t : BitVec 4) (sat : Prop) [Decidable sat] (q : Int) (r : FRes) : Prop :=
  r.1 < 2 ^ tyWidth t ∧
  if sat then tyInt t r.1 = max (tyLow t) (min (tyHigh t) q) ∧ r.2 = if tyInt t r.1 = q then 0 else flSAT
  else (2 ^ tyWidth t : Int) ∣ r.1 - q ∧ r.2 = 0
/-- A typed form of R149 with MODE. -/
def Typed (mk : Reg → Reg → Reg → BitVec 3 → BitVec 4 → BitVec 2 → Instr) (reads : Reg → Reg → Reg → List Reg) (lat : Nat)
    (int : (Nat → Int) → Int) (fp : FFmt → RMode → (Nat → FVal) → FRes → Prop) : Prop :=
  (∀ (t : BitVec 4) (m : BitVec 2), t.toNat < 6 → m.toNat < 2 → Elementwise (fun d a b k => mk d a b k t m) reads t lat
    fun e r => IntResult t (m = 1) (int fun n => tyInt t (e n)) r) ∧
  ∀ (t : BitVec 4) (m : BitVec 2), t = 6 ∨ t = 7 ∨ t = 8 → Elementwise (fun d a b k => mk d a b k t m) reads t 4
    fun e r => fp (tyFormat t) (rmode m) (fun n => (tyFormat t).unpack (e n)) r
/-- A form that takes the lesser or the greater. -/
def VecExtreme (mk : Reg → Reg → Reg → BitVec 3 → BitVec 4 → Instr) (greater : Bool) : Prop :=
  (∀ t : BitVec 4, t.toNat < 6 → Elementwise (fun d a b k => mk d a b k t) (fun _ a b => [a, b]) t 2 fun e r =>
    r.1 < 2 ^ tyWidth t ∧ r.2 = 0 ∧
    tyInt t r.1 = if greater then max (tyInt t (e 0)) (tyInt t (e 1)) else min (tyInt t (e 0)) (tyInt t (e 1))) ∧
  ∀ t : BitVec 4, t = 6 ∨ t = 7 ∨ t = 8 → Elementwise (fun d a b k => mk d a b k t) (fun _ a b => [a, b]) t 4
    fun e r => Extreme (tyFormat t) greater (e 0) (e 1) r
/-- A form of one source that only changes the sign bit of a floating-point element. -/
def VecSign (mk : Reg → Reg → BitVec 3 → BitVec 4 → BitVec 2 → Instr) (int : Int → Int) (sign : Bool → Bool) : Prop :=
  (∀ (t : BitVec 4) (m : BitVec 2), t.toNat < 6 → m.toNat < 2 → Elementwise (fun d a _ k => mk d a k t m) (fun _ a _ => [a]) t 2
    fun e r => IntResult t (m = 1) (int (tyInt t (e 0))) r) ∧
  ∀ t : BitVec 4, t = 6 ∨ t = 7 ∨ t = 8 → Elementwise (fun d a _ k => mk d a k t 0) (fun _ a _ => [a]) t 4 fun e r =>
    r.1 < 2 ^ tyWidth t ∧ r.2 = 0 ∧ r.1 % 2 ^ (tyWidth t - 1) = e 0 % 2 ^ (tyWidth t - 1) ∧
    (tyFormat t).signBit r.1 = sign ((tyFormat t).signBit (e 0))

/-- A compare (R151): the mask bit of an active lane is 1 where no element is poison and the relation holds for every one; NV where
the form signals and an element compared is a NaN. -/
def VecCompare (mk : Reg → Reg → Reg → BitVec 3 → BitVec 4 → Instr) (int : Int → Int → Prop) (fp : FVal → FVal → Prop)
    (signals : Bool) : Prop :=
  ∀ (s : State) (d a b : Reg) (k : BitVec 3) (t : BitVec 4), s.ctx.inHandler = false → t.toNat < 9 →
    let act := s.ctx.vec.active k
    let x := s.ctx.vec.read a
    let y := s.ctx.vec.read b
    let w := tyWidth t
    let fx (i j : Nat) : FVal := (tyFormat t).unpack (elem w x i j)
    let fy (i j : Nat) : FVal := (tyFormat t).unpack (elem w y i j)
    let bad (i j : Nat) : Bool := badElem t x i j || badElem t y i j
    Undeferred x act → Undeferred y act →
    ∃ (m : BitVec 64) (fl : BitVec 7),
      exec (mk d a b k t) s = .next (commitsK s (if t.toNat < 6 then 2 else 4) d m fl) ∧
      (∀ i < 64, m.getLsbD i = true ↔ act.getLsbD i = true ∧ ∀ j < 32 / w, bad i j = false ∧
        (t.toNat < 6 → int (tyInt t (elem w x i j)) (tyInt t (elem w y i j))) ∧ (6 ≤ t.toNat → fp (fx i j) (fy i j))) ∧
      (fl = 0 ∨ fl = flNV) ∧
      (fl = flNV ↔ signals = true ∧ 6 ≤ t.toNat ∧ ∃ i < 64, ∃ j < 32 / w, act.getLsbD i = true ∧ bad i j = false ∧
        (fx i j = .nan ∨ fy i j = .nan))

/-- A bitwise form (R154) of the bits of two sources. -/
def VecLogic (mk : Reg → Reg → Reg → BitVec 3 → Instr) (reads : Reg → Reg → Reg → List Reg) (f : Bool → Bool → Bool) : Prop :=
  Elementwise mk reads 1 2 fun e r => r.1 < 2 ^ 32 ∧ r.2 = 0 ∧
    ∀ n < 32, r.1.testBit n = f ((e 0).testBit n) ((e 1).testBit n)
/-- A shift (R155) of a width: `R` relates element, amount and result. -/
def VecShift (mk : Reg → Reg → Reg → BitVec 3 → BitVec 4 → Instr) (R : Nat → Nat → Nat → Nat → Prop) : Prop :=
  ∀ t : BitVec 4, t.toNat < 6 → Elementwise (fun d a b k => mk d a b k t) (fun _ a b => [a, b]) t 2 fun e r =>
    r.1 < 2 ^ tyWidth t ∧ r.2 = 0 ∧ R (tyWidth t) (e 0) (e 1 % tyWidth t) r.1

/-- A permute (R159): the index of lane `i` stands in lane `ix i` of the index register; lane `i` takes lane `src v i` of srcA with its
side bit, or 0; a poison index makes it poison. -/
def Permutes (mk : Reg → Reg → Reg → BitVec 3 → Instr) (index : VReg → VReg) (ix : Nat → Nat) (src : Nat → Nat → Option Nat) :
    Prop :=
  ∀ (s : State) (d a b : Reg) (k : BitVec 3), s.ctx.inHandler = false →
    let act := s.ctx.vec.active k
    let x := s.ctx.vec.read a
    let y := index (s.ctx.vec.read b)
    (∀ i < 64, act.getLsbD i = true → y.spec = true → y.side.getLsbD (ix i) = false) →
    (∀ i < 64, act.getLsbD i = true → badLane y (ix i) = false → ∀ j, src (lane y (ix i)).toNat i = some j →
      x.spec = true → x.side.getLsbD j = false) →
    ∃ v : VReg, exec (mk d a b k) s = .next (commitsC s 3 d v act) ∧ v.spec = false ∧
      ∀ i < 64, act.getLsbD i = true →
        if badLane y (ix i) then lane v i = 0 ∧ v.side.getLsbD i = true
        else match src (lane y (ix i)).toNat i with
          | some j => lane v i = lane x j ∧ v.side.getLsbD i = x.side.getLsbD j
          | none => lane v i = 0 ∧ v.side.getLsbD i = false

/-- Op of two partial results: none is poison, and the flags join. -/
def Joined (R : Nat → Nat → FRes → Prop) (x y z : Option FRes) : Prop :=
  match x, y with
  | some u, some v => ∃ r, R u.1 v.1 r ∧ z = some (r.1, u.2 ||| v.2 ||| r.2)
  | _, _ => z = none
/-- Element `n` of the sequence that scans and reductions start from: Id in an inactive lane. -/
def start (t : BitVec 4) (x : VReg) (act : BitVec 64) (ident : Nat) (n : Nat) : Option FRes :=
  let e := 32 / tyWidth t
  if act.getLsbD (n / e) then
    if badElem t x (n / e) (n % e) then none else some (elem (tyWidth t) x (n / e) (n % e), 0)
  else some (ident, 0)
/-- The doublings over the elements of a register. -/
def doublings (t : BitVec 4) : Nat := Nat.log2 (2048 / tyWidth t)
/-- Op and Id of sums, maxima and minima (R160). -/
structure Folding where
  op : BitVec 4 → Nat → Nat → FRes → Prop
  ident : BitVec 4 → Nat
/-- Sums: integers wrap, floating point rounds to nearest. -/
def summing : Folding where
  op t x y r := if t.toNat < 6 then r = ((x + y) % 2 ^ tyWidth t, 0)
    else Sum (tyFormat t) .rn ((tyFormat t).unpack x) ((tyFormat t).unpack y) r
  ident t := if t.toNat < 6 then 0 else 2 ^ (tyWidth t - 1)
/-- The greater value, or the lesser. -/
def extreme (greater : Bool) : Folding where
  op t x y r := if t.toNat < 6 then r.2 = 0 ∧ r.1 < 2 ^ tyWidth t ∧
      tyInt t r.1 = (if greater then max (tyInt t x) (tyInt t y) else min (tyInt t x) (tyInt t y))
    else Extreme (tyFormat t) greater x y r
  ident t := if t.toNat < 6 then ((if greater then tyLow t else tyHigh t) % 2 ^ tyWidth t).toNat
    else infinity (tyFormat t) greater
/-- A bitwise operation. -/
def bitwise (f : Bool → Bool → Bool) (ones : Bool) : Folding where
  op t x y r := r.2 = 0 ∧ r.1 < 2 ^ tyWidth t ∧ ∀ n < tyWidth t, r.1.testBit n = f (x.testBit n) (y.testBit n)
  ident t := if ones then 2 ^ tyWidth t - 1 else 0

/-- A scan (R160): `T k` is the sequence after k doublings, and the result is the last one, one place later where it is exclusive. -/
def Scan (mk : Reg → Reg → BitVec 3 → BitVec 4 → Instr) (f : Folding) (exclusive : Bool) : Prop :=
  ∀ (s : State) (d a : Reg) (k : BitVec 3) (t : BitVec 4), s.ctx.inHandler = false → t.toNat < 9 →
    let act := s.ctx.vec.active k
    let x := s.ctx.vec.read a
    let e := 32 / tyWidth t
    Undeferred x act →
    ∃ (v : VReg) (fl : BitVec 7) (T : Nat → Nat → Option FRes),
      exec (mk d a k t) s = .next (commitsC s 6 d v act fl) ∧
      (∀ n < 64 * e, T 0 n = start t x act (f.ident t) n) ∧
      (∀ j < doublings t, ∀ n < 64 * e, (n < 2 ^ j → T (j + 1) n = T j n) ∧
        (2 ^ j ≤ n → Joined (f.op t) (T j (n - 2 ^ j)) (T j n) (T (j + 1) n))) ∧
      let G (n : Nat) : Option FRes := if exclusive then (if n = 0 then some (f.ident t, 0) else T (doublings t) (n - 1))
        else T (doublings t) n
      Elements t act (fun i j => (G (i * e + j)).isNone) (fun i j => (G (i * e + j)).getD (0, 0)) v fl
/-- A reduction (R161): the tree's root in element 0 of lane 0, and 0 everywhere else. -/
def Reduction (mk : Reg → Reg → BitVec 3 → BitVec 4 → Instr) (f : Folding) (types : Nat) : Prop :=
  ∀ (s : State) (d a : Reg) (k : BitVec 3) (t : BitVec 4), s.ctx.inHandler = false → t.toNat < types →
    let act := s.ctx.vec.active k
    let x := s.ctx.vec.read a
    let e := 32 / tyWidth t
    Undeferred x act →
    ∃ (v : VReg) (fl : BitVec 7) (T : Nat → Nat → Option FRes),
      exec (mk d a k t) s = .next (commitsC s 6 d v (BitVec.allOnes 64) fl) ∧
      (∀ n < 64 * e, T 0 n = start t x act (f.ident t) n) ∧
      (∀ j < doublings t, ∀ n < 64 * e / 2 ^ (j + 1), Joined (f.op t) (T j (2 * n)) (T j (2 * n + 1)) (T (j + 1) n)) ∧
      v.spec = false ∧ (∀ i < 64, 1 ≤ i → lane v i = 0 ∧ v.side.getLsbD i = false) ∧
      match T (doublings t) 0 with
      | some r => (lane v 0).toNat = r.1 ∧ v.side.getLsbD 0 = false ∧ fl = r.2
      | none => fl = 0 ∧ if t.toNat < 6 then lane v 0 = 0 ∧ v.side.getLsbD 0 = true
        else (lane v 0).toNat = (tyFormat t).poisonCode ∧ v.side.getLsbD 0 = false

/-- The value of a scalar position (R145): a port's value, or lane 0 (lanes 0 and 1 where it is wide) with the tag of those lanes. -/
def ScalarC (s : State) (r : Reg) (wide : Bool) (t : TVal) : Prop :=
  let x := s.ctx.vec.read r
  let used := x.side.getLsbD 0 || (wide && x.side.getLsbD 1)
  (r.toNat < 20 → t.val.toNat = (lane x 0).toNat + (if wide then (lane x 1).toNat * 2 ^ 32 else 0) ∧
    t.tag = if used then (if x.spec then 1 else 2) else 0) ∧
  (20 ≤ r.toNat → r.toNat ≤ 22 → t = s.thr.port (r.toNat - 20)) ∧ (23 ≤ r.toNat → t = ⟨0, 0⟩)
/-- A mask register. -/
def maskReg (s : State) (r : Reg) : BitVec 64 := s.ctx.vec.k[(⟨r.toNat % 8, Nat.mod_lt _ (by decide)⟩ : Fin 8)]
/-- A mask form of two masks. -/
def MaskLogic (mk : Reg → Reg → Reg → Instr) (f : Bool → Bool → Bool) : Prop :=
  ∀ (s : State) (d a b : Reg), s.ctx.inHandler = false → ∃ m : BitVec 64, exec (mk d a b) s = .next (commitsK s 2 d m) ∧
    ∀ i < 64, m.getLsbD i = f ((maskReg s a).getLsbD i) ((maskReg s b).getLsbD i)

end Sys2Proof.Claims

/-! ## Slot C: arithmetic -/

/-- R149, R150, R147: the typed forms on integers, wrapped or saturated, and on floating point, rounded once. -/
def Sys2Proof.Claims.VectorArithmetic : Prop :=
  Typed .vadd (fun _ a b => [a, b]) 2 (fun e => e 0 + e 1) (fun f m v => Sum f m (v 0) (v 1)) ∧
  Typed .vsub (fun _ a b => [a, b]) 2 (fun e => e 0 - e 1) (fun f m v => Sum f m (v 0) (v 1).neg) ∧
  Typed .vmul (fun _ a b => [a, b]) 4 (fun e => e 0 * e 1) (fun f m v => Product f m (v 0) (v 1)) ∧
  Typed .vfma (fun d a b => [a, b, d]) 4 (fun e => e 2 + e 0 * e 1) (fun f m v => Fused f m (v 2) (v 0) (v 1)) ∧
  VecExtreme .vmin false ∧ VecExtreme .vmax true ∧
  VecSign .vabs (fun x => |x|) (fun _ => false) ∧ VecSign .vneg (fun x => -x) (fun b => !b)

/-- R151, R152, R154, R155: compares write a whole mask, VSEL a whole register; logic acts on whole lanes, shifts on elements by
the low bits of the other source's. -/
def Sys2Proof.Claims.VectorComparesAndLogic : Prop :=
  VecCompare .vcmpeq (fun x y => x = y) Same false ∧
  VecCompare .vcmpne (fun x y => x ≠ y) (fun x y => x = .nan ∨ y = .nan ∨ ¬Same x y) false ∧
  VecCompare .vcmplt (fun x y => x < y) Below true ∧
  VecCompare .vcmple (fun x y => x ≤ y) (fun x y => Below x y ∨ Same x y) true ∧
  (∀ (s : State) (d a b : Reg) (k : BitVec 3), s.ctx.inHandler = false →
    let act := s.ctx.vec.active k
    let x := s.ctx.vec.read a
    let y := s.ctx.vec.read b
    Undeferred x act → Undeferred y (~~~act) →
    ∃ v : VReg, exec (.vsel d a b k) s = .next (commitsC s 2 d v (BitVec.allOnes 64)) ∧ v.spec = false ∧
      ∀ i < 64, lane v i = (if act.getLsbD i then lane x i else lane y i) ∧
        v.side.getLsbD i = if act.getLsbD i then x.side.getLsbD i else y.side.getLsbD i) ∧
  VecLogic .vand (fun _ a b => [a, b]) (fun x y => x && y) ∧ VecLogic .vor (fun _ a b => [a, b]) (fun x y => x || y) ∧
  VecLogic .vxor (fun _ a b => [a, b]) (fun x y => x != y) ∧ VecLogic .vandn (fun _ a b => [a, b]) (fun x y => x && !y) ∧
  VecLogic (fun d a _ k => .vnot d a k) (fun _ a _ => [a]) (fun x _ => !x) ∧
  VecShift .vshl (fun w x n r => r = x * 2 ^ n % 2 ^ w) ∧ VecShift .vshr (fun _ x n r => r = x / 2 ^ n) ∧
  VecShift .vsra (fun w x n r => signedField w r = signedField w x / 2 ^ n) ∧
  VecShift .vrotl (fun w x n r => ∀ i < w, r.testBit ((i + n) % w) = x.testBit i)

/-- Vector arithmetic, compares and logic (R147, R149, R150, R151, R152, R154, R155). -/
def Obligations.VectorForms : Prop := Sys2Proof.Claims.VectorArithmetic ∧ Sys2Proof.Claims.VectorComparesAndLogic

/-- R159, R145, R162, R163: permutes move whole lanes with their side bits, VSPLAT copies a scalar; mask instructions. -/
def Sys2Proof.Claims.PermutesAndMasks : Prop :=
  Permutes .vperm id id (fun v _ => some (v % 64)) ∧ Permutes .vbcast id (fun _ => 0) (fun v _ => some (v % 64)) ∧
  Permutes .vslideup id (fun _ => 0) (fun v i => if v % 128 ≤ i then some (i - v % 128) else none) ∧
  Permutes .vslidedn id (fun _ => 0) (fun v i => if i + v % 128 < 64 then some (i + v % 128) else none) ∧
  Permutes (fun d a _ k => .vrev d a k) (fun _ => VReg.zero) id (fun _ i => some (63 - i)) ∧
  MaskLogic .kand (fun x y => x && y) ∧ MaskLogic .kor (fun x y => x || y) ∧ MaskLogic .kxor (fun x y => x != y) ∧
  MaskLogic .kandn (fun x y => x && !y) ∧ MaskLogic (fun d a _ => .knot d a) (fun x _ => !x) ∧
  ∀ (s : State) (d a : Reg) (k : BitVec 3), s.ctx.inHandler = false →
    (∀ t : TVal, ScalarC s a false t → t.tag ≠ 1 →
      ∃ v : VReg, exec (.vsplat d a k) s = .next (commitsC s 3 d v (s.ctx.vec.active k)) ∧ v.spec = false ∧
        ∀ i < 64, (s.ctx.vec.active k).getLsbD i = true →
          lane v i = (if bad t then 0 else t.val.setWidth 32) ∧ v.side.getLsbD i = bad t) ∧
    (∃ v : VReg, exec (.kpop d a) s = .next (commitsC s 2 d v (BitVec.allOnes 64)) ∧ v.spec = false ∧ v.side = 0 ∧
      ∀ i < 64, (lane v i).toNat = ∑ n ∈ Finset.range 64, ((maskReg s a).getLsbD n).toNat) ∧
    (∃ (v : VReg) (n : Nat), exec (.kfirst d a) s = .next (commitsC s 2 d v (BitVec.allOnes 64)) ∧ v.spec = false ∧ v.side = 0 ∧
      (∀ i < 64, (lane v i).toNat = n) ∧ (maskReg s a = 0 → n = 64) ∧
      (maskReg s a ≠ 0 → (maskReg s a).getLsbD n = true ∧ ∀ j < n, (maskReg s a).getLsbD j = false)) ∧
    exec (.kfromv d a) s = .next (commitsK s 2 d (s.ctx.vec.read a).side) ∧
    ∃ v : VReg, exec (.ktov d a) s = .next (commitsC s 2 d v (BitVec.allOnes 64)) ∧ v.spec = false ∧ v.side = 0 ∧
      ∀ i < 64, lane v i = if i = 0 then (maskReg s a).setWidth 32 else if i = 1 then (maskReg s a >>> 32).setWidth 32 else 0

/-- R160, R161: scans double their reach over the elements, reductions pair neighbours, both in the one order that the spec fixes. -/
def Sys2Proof.Claims.ScansAndReductions : Prop :=
  Scan .vscani summing false ∧ Scan .vscanx summing true ∧ Scan .vscanmax (extreme true) false ∧
  Scan .vscanmin (extreme false) false ∧
  Reduction .vredadd summing 9 ∧ Reduction .vredmin (extreme false) 9 ∧ Reduction .vredmax (extreme true) 9 ∧
  Reduction .vredand (bitwise (fun x y => x && y) true) 6 ∧ Reduction .vredor (bitwise (fun x y => x || y) false) 6 ∧
  Reduction .vredxor (bitwise (fun x y => x != y) false) 6

/-- Permutes, masks, scans and reductions (R145, R159, R160, R161, R162, R163). -/
def Obligations.PermutesAndReductions : Prop := Sys2Proof.Claims.PermutesAndMasks ∧ Sys2Proof.Claims.ScansAndReductions

namespace Sys2Proof.Claims

/-- A value becomes an element of a floating-point format, rounded once (R105, R107, R108): a NaN is canonical, and in E2M1 a zero with
NV; an infinity stays one, or becomes the largest magnitude with NV where the format has none. -/
def FromValue (t : BitVec 4) (mode : RMode) (v : FVal) (r : FRes) : Prop :=
  let f := tyFormat t
  match v with
  | .poison => True
  | .nan => r = if t = 11 ∨ t = 14 then (0, flNV) else (f.nanCode, 0)
  | .inf neg => r = if t = 9 ∨ t = 13 then ((if neg then 0xFE else 0x7E), flNV)
      else if t = 11 ∨ t = 14 then ((if neg then 0xF else 0x7), flNV) else (infinity f neg, 0)
  | .fin neg m e => if m = 0 then r = (zero f neg, 0) else RoundsTo f mode (rat neg m e) r
/-- A value becomes an element of an integer type (R107). -/
def ToElement (t : BitVec 4) (mode : RMode) (v : FVal) (r : FRes) : Prop :=
  match v with
  | .poison => True
  | .nan => tyInt t r.1 = 0 ∧ r.2 = flNV
  | .inf neg => tyInt t r.1 = (if neg then tyLow t else tyHigh t) ∧ r.2 = flNV
  | .fin neg m e => ∃ i, RoundsToInt mode (rat neg m e) i ∧
    (i < tyLow t → tyInt t r.1 = tyLow t ∧ r.2 = flNV) ∧ (tyHigh t < i → tyInt t r.1 = tyHigh t ∧ r.2 = flNV) ∧
    (tyLow t ≤ i → i ≤ tyHigh t → tyInt t r.1 = i ∧ r.2 = if rat neg m e = i then 0 else flNX)

/-- 1 and 1/2 in a format of IEEE style. -/
def oneOf (f : FFmt) : Nat := (2 ^ (f.eb - 1) - 1) * 2 ^ f.mb
/-- 1/2. -/
def halfOf (f : FFmt) : Nat := (2 ^ (f.eb - 1) - 2) * 2 ^ f.mb
/-- A result that no finite code is closer to, with NX where it differs. -/
def Nearest (f : FFmt) (q : ℚ) (r : FRes) : Prop :=
  r.2.getLsbD 2 = false → ∃ y, number (f.unpack r.1) = some y ∧ (r.2.getLsbD 0 = true ↔ y ≠ q) ∧
    ∀ c < 2 ^ f.width, ∀ z, number (f.unpack c) = some z → |y - q| ≤ |z - q|
/-- A function of R153 in its three formats: an ordinary NaN gives the canonical one without a flag, and `R` says the rest. -/
def Transcendental (mk : Reg → Reg → BitVec 3 → BitVec 4 → Instr) (R : FFmt → FVal → FRes → Prop) : Prop :=
  ∀ t : BitVec 4, t = 6 ∨ t = 7 ∨ t = 8 → Elementwise (fun d a _ k => mk d a k t) (fun _ a _ => [a]) t 12 fun e r =>
    let f := tyFormat t
    (f.unpack (e 0) = .nan → r = (f.nanCode, 0)) ∧ R f (f.unpack (e 0)) r
/-- The special operands of R153: at a zero with its sign, at +∞, at −∞, and at a negative number. -/
def Specials (x : FVal) (r : FRes) (atZero : Bool → FRes) (atInf atMinusInf : FRes) (negative : Option FRes) : Prop :=
  (∀ neg e, x = .fin neg 0 e → r = atZero neg) ∧ (x = .inf false → r = atInf) ∧ (x = .inf true → r = atMinusInf) ∧
  ∀ q v, number x = some q → q < 0 → negative = some v → r = v

/-- The step of srstate (R110). -/
def galois (x : BitVec 32) : BitVec 32 := if x.getLsbD 0 then (x >>> 1) ^^^ 0x80200003#32 else x >>> 1
/-- A code names an MX format. -/
def isMX (t : BitVec 4) : Bool := t = 13 || t = 14
/-- A finite value times a power of two. -/
def scaled (v : FVal) (e : Int) : FVal :=
  match v with
  | .fin neg m x => .fin neg m (x + e)
  | v => v
/-- Elements that VCVT converts (R156). -/
def cvtCount (t u : BitVec 4) : Nat := 64 * min (32 / tyWidth u) (32 / tyWidth t)
/-- The lane with the scale of the block of source element `n` (R157). -/
def scaleLane (t u : BitVec 4) (n : Nat) : Nat := cvtCount t u / (32 / tyWidth u) + n / 32 / 4
/-- The value of source element `n` (R102, R157). -/
def cvtValue (t u : BitVec 4) (x : VReg) (n : Nat) : FVal :=
  let e := 32 / tyWidth u
  let c := elem (tyWidth u) x (n / e) (n % e)
  if tyFloat u then
    if isMX u then
      let z := elem 8 x (scaleLane t u n) (n / 32 % 4)
      if z = 255 then .nan else scaled ((tyFormat u).unpack c) (z - 127)
    else (tyFormat u).unpack c
  else .fin (decide (tyInt u c < 0)) (tyInt u c).natAbs 0
/-- Source element `n` is poison. -/
def cvtBad (t u : BitVec 4) (x : VReg) (n : Nat) : Bool :=
  let e := 32 / tyWidth u
  badElem u x (n / e) (n % e) || (isMX u && badLane x (scaleLane t u n))
/-- The scale of a block of 32 values, those that are not poison (R103). -/
def BlockScale (t : BitVec 4) (vals : List FVal) (z : Nat) : Prop :=
  ((∃ v ∈ vals, v = .nan ∨ ∃ neg, v = .inf neg) → z = 255) ∧
  ((∀ v ∈ vals, ∃ q, number v = some q) →
    ((∀ v ∈ vals, number v = some 0) → z = 127) ∧
    ∀ k : Int, (∀ v ∈ vals, ∀ q, number v = some q → |q| < 2 ^ (k + 1)) → (∃ v ∈ vals, ∃ q, number v = some q ∧ 2 ^ k ≤ |q|) →
      (z : Int) = max 0 (min 254 (k - (if t = 13 then 8 else 2) + 127)))
/-- A packing form (R158) of a result type and a source type: `pick n` says which source and which of its elements. -/
def Packs (mk : Reg → Reg → Reg → BitVec 3 → BitVec 4 → Instr) (t u : BitVec 4) (pick : Nat → Bool × Nat) : Prop :=
  ∀ (s : State) (d a b : Reg) (k : BitVec 3), s.ctx.inHandler = false →
    let act := s.ctx.vec.active k
    let e := 32 / tyWidth t
    let eu := 32 / tyWidth u
    let src (i j : Nat) : VReg := s.ctx.vec.read (if (pick (i * e + j)).1 then b else a)
    let at_ (i j : Nat) : Nat := (pick (i * e + j)).2
    let bad (i j : Nat) : Bool := badElem u (src i j) (at_ i j / eu) (at_ i j % eu)
    (∀ i < 64, act.getLsbD i = true → ∀ j < e, (src i j).spec = true → (src i j).side.getLsbD (at_ i j / eu) = false) →
    ∃ (v : VReg) (fl : BitVec 7) (g : Nat → Nat → FRes),
      exec (mk d a b k t) s = .next (commitsC s 3 d v act fl) ∧ Elements t act bad g v fl ∧
      ∀ i < 64, ∀ j < e, act.getLsbD i = true → bad i j = false →
        let c := elem (tyWidth u) (src i j) (at_ i j / eu) (at_ i j % eu)
        if t.toNat < 6 then IntResult t True (tyInt u c) (g i j)
        else FromValue t .rn ((tyFormat u).unpack c) (g i j)

end Sys2Proof.Claims

/-- R153: the transcendentals: special operands with their flags, the reciprocal of a number and integer powers and logarithms of 2
rounded to nearest. Elsewhere the statement says that the form commits with some element. -/
def Obligations.Transcendentals : Prop :=
  Transcendental .vexp2 (fun f x r =>
    Specials x r (fun _ => (oneOf f, 0)) (infinity f false, 0) (0, 0) none ∧
    ∀ n : Int, number x = some (n : ℚ) → RoundsTo f .rn (2 ^ n) r) ∧
  Transcendental .vlog2 (fun f x r =>
    Specials x r (fun _ => (infinity f true, flDZ)) (infinity f false, 0) (f.nanCode, flNV) (some (f.nanCode, flNV)) ∧
    ∀ n : Int, number x = some (2 ^ n) → if n = 0 then r = (0, 0) else RoundsTo f .rn n r) ∧
  Transcendental .vrcp (fun f x r =>
    Specials x r (fun neg => (infinity f neg, flDZ)) (0, 0) (zero f true, 0) none ∧
    ∀ q, number x = some q → q ≠ 0 → Nearest f q⁻¹ r) ∧
  Transcendental .vrsq (fun f x r =>
    Specials x r (fun neg => (infinity f neg, flDZ)) (0, 0) (f.nanCode, flNV) (some (f.nanCode, flNV)) ∧
    ∀ q z : ℚ, number x = some q → 0 < z → z * z * q = 1 → Nearest f z r) ∧
  Transcendental .vsin (fun f x r => Specials x r (fun neg => (zero f neg, 0)) (f.nanCode, flNV) (f.nanCode, flNV) none) ∧
  Transcendental .vcos (fun f x r => Specials x r (fun _ => (oneOf f, 0)) (f.nanCode, flNV) (f.nanCode, flNV) none) ∧
  Transcendental .vtanh (fun f x r =>
    Specials x r (fun neg => (zero f neg, 0)) (oneOf f, 0) (zero f true + oneOf f, 0) none) ∧
  Transcendental .vsigm (fun f x r => Specials x r (fun _ => (halfOf f, 0)) (oneOf f, 0) (0, 0) none)

/-- R156, R157, R103, R110, R158: VCVT converts the elements that both types hold, writes zeros and MX scales behind them, and steps the
generator once for each element when it rounds stochastically; the packing forms narrow with saturation and widen exactly. -/
def Obligations.VectorConversions : Prop :=
  (∀ (s : State) (d a : Reg) (t u : BitVec 4) (m : BitVec 3), s.ctx.inHandler = false → t.toNat < 15 → u.toNat < 15 → m.toNat ≤ 4 →
    let x := s.ctx.vec.read a
    let n := cvtCount t u
    let e := 32 / tyWidth t
    let eu := 32 / tyWidth u
    let mode (i : Nat) : RMode := if m = 4 then .rs ((galois^[i + 1] s.ctx.csr.srstate).toNat % 65536) else rmode (m.setWidth 2)
    let s' := if m = 4 then s.onCtx fun c => { c with csr := { c.csr with srstate := galois^[n] s.ctx.csr.srstate } } else s
    (x.spec = true → ∀ i < n / eu + (if isMX u then (n / 32 + 3) / 4 else 0), x.side.getLsbD i = false) →
    ∃ (v : VReg) (fl : BitVec 7) (g : Nat → Nat → FRes) (z : Nat → Nat),
      exec (.vcvt d a t u m) s = .next (commitsC s' 3 d v (BitVec.allOnes 64) fl) ∧
      Elements t (BitVec.ofNat 64 (2 ^ (n / e) - 1)) (fun i j => cvtBad t u x (i * e + j)) g v fl ∧
      (∀ i < n / e, ∀ j < e, cvtBad t u x (i * e + j) = false →
        let y := cvtValue t u x (i * e + j)
        (isMX t = false → tyFloat t = true → FromValue t (mode (i * e + j)) y (g i j)) ∧
        (tyFloat t = false → tyFloat u = true → ToElement t (mode (i * e + j)) y (g i j)) ∧
        (tyFloat t = false → tyFloat u = false → ∀ q : Int, number y = some (q : ℚ) → IntResult t True q (g i j)) ∧
        (isMX t = true → if z ((i * e + j) / 32) = 255 then
            g i j = (if t = 13 then 0x7F else 0, if y = .inf false ∨ y = .inf true then flNV else 0)
          else FromValue t (mode (i * e + j)) (scaled y (127 - z ((i * e + j) / 32))) (g i j))) ∧
      (isMX t = true → ∀ b < n / 32, BlockScale t
        (((List.range 32).filter fun i => !cvtBad t u x (32 * b + i)).map fun i => cvtValue t u x (32 * b + i)) (z b)) ∧
      ∀ i < 64, n / e ≤ i → v.side.getLsbD i = false ∧ ∀ j < 4,
        elem 8 v i j = if isMX t = true ∧ 4 * (i - n / e) + j < n / 32 then z (4 * (i - n / e) + j) else 0) ∧
  (∀ t : BitVec 4, t = 2 ∨ t = 3 ∨ t = 4 ∨ t = 5 ∨ t = 7 ∨ t = 8 →
    let half := 32 * (32 / tyWidth t)
    Packs .vpack t (if t.toNat < 6 then t - 2 else 6) fun n => if n < half then (false, n) else (true, n - half)) ∧
  ∀ t : BitVec 4, t.toNat < 4 ∨ t = 6 →
    Packs (fun d a _ k t => .vunpkl d a k t) t (if t.toNat < 4 then t + 2 else 7) (fun n => (false, n)) ∧
    Packs (fun d a _ k t => .vunpkh d a k t) t (if t.toNat < 4 then t + 2 else 7)
      (fun n => (false, n + 64 * (32 / tyWidth t)))

namespace Sys2Proof.Claims

/-- ImmValue of slot C (R61): imm16, extended by HDR.X's byte. -/
def immediateC (s : State) (i : BitVec 16) : Int :=
  match s.thr.issue with
  | some j => if isHdrX j.wa then (headerByte j.wa .c ++ i).toInt else i.toInt
  | none => i.toInt
/-- The address of VLDS and VLDSP (R166). -/
def loadAddress (s : State) (t : TVal) (i : BitVec 16) : Nat := ((t.val.toNat + immediateC s i * 4) % 2 ^ 32).toNat
/-- The lanes of 256 bytes of a scratchpad: a lane with an erroneous block is zero and its side bit set (R100, R166). -/
def LoadedLanes (s : State) (a : Nat) (act : BitVec 64) (v : VReg) : Prop :=
  ∀ i < 64, act.getLsbD i = true → v.side.getLsbD i = (s.core s.cur).spadBad (a + 4 * i) 4 ∧
    (lane v i).toNat = if (s.core s.cur).spadBad (a + 4 * i) 4 then 0 else spelled 4 fun j => spadByte s s.cur (a + 4 * i + j)
/-- Every lane zero with its side bit set. -/
def blank (spec : Bool) : VReg := ⟨Vector.replicate 64 0, BitVec.allOnes 64, spec⟩
/-- The destination of a scoreboarded result of slot C (R33). -/
def boardC (d : Reg) : PDest := if h : d.toNat < 16 then .c ⟨d.toNat, h⟩ else .discard
/-- The lanes outside a mask keep what the destination holds (R143). -/
def Keeps (s : State) (d : Reg) (act : BitVec 64) (v : VReg) : Prop :=
  ∀ h : d.toNat < 16, ∀ i < 64, act.getLsbD i = false →
    lane v i = lane (s.ctx.vec.c[(⟨d.toNat, h⟩ : Fin 16)]) i ∧
    v.side.getLsbD i = (s.ctx.vec.c[(⟨d.toNat, h⟩ : Fin 16)]).side.getLsbD i
/-- The blocks of filled granules that hold an active word are dirty afterwards, and nothing else of a context changes (R210). -/
def Dirtied (c d : Ctx) (lanes : BitVec 64) (addr : Nat → Nat) : Prop :=
  d = { c with maps := d.maps } ∧
  ∀ m : Fin 16, (d.maps[m]).desc = (c.maps[m]).desc ∧ ∀ g : Nat,
    match (c.maps[m]).gran? g, (d.maps[m]).gran? g with
    | some x, some y => y = { x with dirty := y.dirty } ∧ ∀ n < 64, y.dirty.getLsbD n = true ↔ x.dirty.getLsbD n = true ∨
        ∃ i < 64, lanes.getLsbD i = true ∧ ∃ e, c.mapAt (addr i / 64 * 64) = some (m, e) ∧
          e.granOf (addr i / 64 * 64) = g ∧ e.blockIn (addr i / 64 * 64) = n
    | none, none => True
    | _, _ => False
/-- What a store of lanes leaves: lane `i` of `x` stands in the four bytes at `addr i`, the highest lane's where lanes name one
word; no other byte changes, a poison lane marks its block and no block is marked besides (R167, R168, R191). -/
def StoredLanes (s u : State) (x : VReg) (lanes : BitVec 64) (addr : Nat → Nat) : Prop :=
  let covers (i k : Nat) : Prop := lanes.getLsbD i = true ∧ addr i ≤ k ∧ k < addr i + 4
  (∀ k, (∀ i < 64, ¬covers i k) → spadByte u s.cur k = spadByte s s.cur k) ∧
  (∀ k, ∀ i < 64, covers i k → (∀ j < 64, i < j → ¬covers j k) →
    spadByte u s.cur k = BitVec.ofNat 8 ((lane x i).toNat / 256 ^ (k - addr i))) ∧
  (∀ i < 64, lanes.getLsbD i = true → badLane x i = true → addr i / 64 ∈ (u.core s.cur).spadMark) ∧
  (∀ b ∈ (u.core s.cur).spadMark, b ∈ (s.core s.cur).spadMark ∨
    ∃ i < 64, lanes.getLsbD i = true ∧ badLane x i = true ∧ b = addr i / 64) ∧
  (∀ e, e ≠ s.cur → (u.core e).spad = (s.core e).spad) ∧ u.mem = s.mem ∧ u.parts = s.parts ∧ Dirtied s.ctx u.ctx lanes addr ∧
  SameRest s u
/-- Every word of some lanes is whole and within the declared scratchpad (R164). -/
def WordsFit (s : State) (lanes : BitVec 64) (addr : Nat → Nat) : Prop :=
  ∀ i < 64, lanes.getLsbD i = true → addr i % 4 = 0 ∧ addr i + 4 ≤ s.ctx.kern.spad

end Sys2Proof.Claims

/-- R164, R166, R167: VLDS and VLDSP read 64 words, VLDSP turns a failed check into deferred lanes and sets its flag; VSTS stores the
active lanes. -/
def Sys2Proof.Claims.VectorScratchpad : Prop :=
  ∀ (s : State) (d a b : Reg) (k : BitVec 3) (i : BitVec 16) (t : TVal), s.ctx.inHandler = false →
    let act := s.ctx.vec.active k
    let p := loadAddress s t i
    (ScalarC s a false t →
      (t.tag = 0 → p % 4 = 0 → p + 256 ≤ s.ctx.kern.spad → p + 256 ≤ 2 ^ 32 → Free s 0 → ∀ s1, s.touch p 256 = (.ok (), s1) →
        (s1.core s1.cur).spadErr = [] → ∃ v : VReg, LoadedLanes s1 p (BitVec.allOnes 64) v ∧ v.spec = false ∧
          exec (.vlds d a i) s = .next (commitsC s1 5 d v (BitVec.allOnes 64)) ∧
          exec (.vldsp d a i) s = .next (commitsC s1 5 d { v with spec := true } (BitVec.allOnes 64))) ∧
      (t.tag = 0 → (p % 4 ≠ 0 ∨ s.ctx.kern.spad < p + 4) →
        exec (.vldsp d a i) s = .next (commitsC s 5 d (blank true) (BitVec.allOnes 64)) ∧
        exec (.vlds d a i) s = .next (traps s (if p % 4 ≠ 0 then 0x07 else 0x08) (BitVec.ofNat 64 p))) ∧
      (t.tag = 1 → exec (.vldsp d a i) s = .next (commitsC s 5 d (blank true) (BitVec.allOnes 64))) ∧
      (bad t = true → exec (.vlds d a i) s = .next (commitsC s 5 d (blank false) (BitVec.allOnes 64)) ∧
        exec (.vldsp d a i) s = .next (commitsC s 5 d (blank false) (BitVec.allOnes 64)))) ∧
    (ScalarC s b false t → t.tag = 0 → Undeferred (s.ctx.vec.read a) act →
      let addr (i : Nat) : Nat := (t.val.toNat + 4 * i) % 2 ^ 32
      WordsFit s act addr → Free s 0 → ∀ s1, s.readyWords ((lanesIn act).map addr) = (.ok (), s1) → Canonical s1 →
        s1.cur = s.cur → ∃ u : State, exec (.vsts a b k) s = .next u.slotDone ∧ StoredLanes s1 u (s.ctx.vec.read a) act addr)

/-- R168, R46, R148: VGATH and VSCAT take their lanes in ascending order, those that are active with a clean index: at issue the
words are checked and made ready, and the request holds the lanes that are still to do, with what a gather has so far; a lane
without an access is poison. Without any such lane VGATH answers at once and VSCAT only commits. -/
def Sys2Proof.Claims.LongForms : Prop :=
  ∀ (s : State) (d a b : Reg) (k : BitVec 3) (t : TVal), s.ctx.inHandler = false → ScalarC s a false t → t.tag = 0 →
    let act := s.ctx.vec.active k
    let y := s.ctx.vec.read b
    let x := s.ctx.vec.read d
    let addr (i : Nat) : Nat := (t.val.toNat + (lane y i).toNat * 4) % 2 ^ 32
    let lanes := act &&& (if y.spec then BitVec.allOnes 64 else ~~~y.side)
    let todo := (lanesIn lanes).map fun i => (i, addr i)
    Undeferred y act →
    (lanes = 0 → (∃ v : VReg, exec (.vgath d a b k) s = .next (s.await (boardC d) (.vec v act) 0 false true).slotDone ∧
        v.spec = false ∧ Keeps s d act v ∧ ∀ i < 64, act.getLsbD i = true → v.side.getLsbD i = true ∧ lane v i = 0) ∧
      (Undeferred x act → exec (.vscat d a b k) s = .next s.slotDone)) ∧
    (lanes ≠ 0 → WordsFit s lanes addr → Free s 0 →
      (∀ s1, s.touchWords ((lanesIn lanes).map addr) = (.ok (), s1) → ∃ v : VReg, v.spec = false ∧
        (∀ i < 64, lane v i = 0 ∧ v.side.getLsbD i = !lanes.getLsbD i) ∧
        exec (.vgath d a b k) s = .next (s1.await (boardC d) (.long none todo v act 0) 0 false true).slotDone) ∧
      (∀ s1, s.readyWords ((lanesIn lanes).map addr) = (.ok (), s1) → Undeferred x act → ∃ v : VReg,
        (∀ i < 64, lane v i = lane x i ∧ v.side.getLsbD i = badLane x i) ∧
        exec (.vscat d a b k) s = .next (s1.await .discard (.long (some v) todo .zero act 0) 0 false true).slotDone))

/-- R168, R46, R148: one step of such a form: the lowest lane that is still to do is read into its lane, poison where its block is,
or stored, and the progress index counts on; with the last step the result goes to its lanes and the request is done. -/
def Sys2Proof.Claims.LongSteps : Prop :=
  ∀ (s : State) (p : Pend) (i n : Nat) (act : BitVec 64) (ad : Nat) (rest : List (Nat × Nat)) (got : VReg) (data : BitVec 64)
    (poison : Bool), i < 64 → s.ctx.request? p.id = some (false, p) → (s.core s.cur).busy = true → p.way.waiting = false →
    p.way.site = none → got.spec = false →
    (p.val = .long none ((i, ad) :: rest) got act n → (s.core s.cur).spadErr = [] →
      ∃ v : VReg, v.spec = false ∧ (∀ j < 64, j ≠ i → lane v j = lane got j ∧ v.side.getLsbD j = got.side.getLsbD j) ∧
        ((s.core s.cur).spadBad ad 4 = true → lane v i = 0 ∧ v.side.getLsbD i = true) ∧
        ((s.core s.cur).spadBad ad 4 = false → (lane v i).toNat = (spelled 4 fun j => spadByte s s.cur (ad + j)) ∧
          v.side.getLsbD i = got.side.getLsbD i) ∧
        (rest ≠ [] → exec (.loadComplete s.cur p.id data poison) s = .next (s.onCtx fun c =>
          c.onRequest p.id fun q => { q with val := .long none rest v act (n + 1) })) ∧
        (rest = [] → ∀ r, p.dest = .c r → ∃ u : State, exec (.loadComplete s.cur p.id data poison) s = .next u ∧
          u.ctx.task.board = s.ctx.task.board.filter (fun q => q.id ≠ p.id) ∧ u.mem = s.mem ∧
          (∀ e, e ≠ r → u.ctx.vec.c[e] = s.ctx.vec.c[e]) ∧
          ∀ j < 64, lane u.ctx.vec.c[r] j = (if act.getLsbD j then lane v j else lane s.ctx.vec.c[r] j) ∧
            (u.ctx.vec.c[r]).side.getLsbD j = if act.getLsbD j then v.side.getLsbD j else (s.ctx.vec.c[r]).side.getLsbD j)) ∧
    (∀ x : VReg, p.val = .long (some x) ((i, ad) :: rest) got act n → Canonical s →
      ∃ u : State, exec (.loadComplete s.cur p.id data poison) s = .next u ∧
        (∀ j, spadByte u s.cur j = if ad ≤ j ∧ j < ad + 4 then BitVec.ofNat 8 ((lane x i).toNat / 256 ^ (j - ad))
          else spadByte s s.cur j) ∧
        (x.side.getLsbD i = true → ad / 64 ∈ (u.core s.cur).spadMark) ∧ u.mem = s.mem ∧
        (∀ e, e ≠ s.cur → (u.core e).spad = (s.core e).spad) ∧
        (rest ≠ [] → u.ctx.task.board = s.ctx.task.board.map fun q =>
          if q.id = p.id then { q with val := .long (some x) rest got act (n + 1) } else q) ∧
        (rest = [] → u.ctx.task.board = s.ctx.task.board.filter fun q => q.id ≠ p.id))

/-- R169, R170: VRRD takes the ring's next 256 bytes and moves CURSOR by 256; VATOMADD adds the sum of the active lanes to one word of
memory, waits for its acknowledgement, and gives each active lane the word with the lanes below it added, poison where a lane or the word
is. -/
def Sys2Proof.Claims.VectorRingAndAtomic : Prop :=
  ∀ (s : State) (d a b : Reg) (k : BitVec 3) (h : BitVec 4), s.ctx.inHandler = false →
    let act := s.ctx.vec.active k
    (∀ r : Handle, s.ctx.h[h.toNat]? = some r → r.rowb ≠ 0 → r.rowb.toNat % 16 = 0 → r.cursor.toNat % 256 = 0 →
      let rows := r.rowsM1.toNat + 1
      let rb := r.rowb.toNat * 16
      let n := r.cursor.toNat / rb
      let p := r.base.toNat * 64 + (r.head.toNat + n) % rows * rb + r.cursor.toNat % rb
      let u := s.onHandle h fun r => { r with cursor := r.cursor + 256 }
      (rows ≤ n → exec (.vrrd d k h) s = .next (traps s 0x0D (h.setWidth 64))) ∧
      (n < rows → s.thr.board = [] → s.touch p 256 = (.ok (), s) → (s.core s.cur).spadErr = [] →
        (r.fill.toNat ≤ n →
          exec (.vrrd d k h) s = .next (u.await (boardC d) (.vring ⟨h.toNat, h.isLt⟩ n p act) 0).slotDone) ∧
        (n < r.fill.toNat → ∃ v : VReg, exec (.vrrd d k h) s = .next (u.await (boardC d) (.vec v act) 0).slotDone ∧
          v.spec = false ∧ Keeps s d act v ∧ LoadedLanes s p act v))) ∧
    (∀ t : TVal, ScalarC s a true t → t.tag = 0 → t.val.toNat % 4 = 0 →
      let y := s.ctx.vec.read b
      let sum (i : Nat) : Nat := ∑ j ∈ Finset.range i, if act.getLsbD j = true then (lane y j).toNat else 0
      let poisoned (v : VReg) : Prop := v.spec = false ∧ ∀ i < 64, act.getLsbD i = true → lane v i = 0 ∧ v.side.getLsbD i = true
      Undeferred y act →
      (act = 0 → exec (.vatomadd d a b k) s = .next s.slotDone) ∧
      (act ≠ 0 → ∀ (x : Xlat) (s1 : State), s.xlateRange s.ctx.agent .atomic t.val 4 = (.ok [(x, 4)], s1) →
        x.remote = none →
        ((∃ i < 64, act.getLsbD i = true ∧ badLane y i = true) → ∃ v : VReg,
          exec (.vatomadd d a b k) s = .next (s1.await (boardC d) (.vec v act) 0 true).slotDone ∧ Keeps s1 d act v ∧
          poisoned v) ∧
        ((∀ i < 64, act.getLsbD i = true → badLane y i = false) → Free s 0 → s1.shedPieces [(x, 4)] = false →
          ∀ l poison s2, (homeState s1 x).readPhys (some s1.ctx.part) x.pa 4 (x.pol = 0) = (l, poison, s2) → l.length = 4 →
          ∃ (u : State) (v : VReg) (addr : BitVec 56) (way : Way),
            exec (.vatomadd d a b k) s = .next (u.await (boardC d) (.vec v act) addr true false way).slotDone ∧
            Keeps s1 d act v ∧ u.thr = s1.thr ∧ (∀ c, (u.core c).spad = (s1.core c).spad) ∧
            (poison = true → u.mem = s2.mem ∧ Awaits s1.ctx u.ctx [] ∧ poisoned v) ∧
            (poison = false → v.spec = false ∧ Awaits s1.ctx u.ctx [t.val.setWidth 56] ∧
              u.mem = (s2.writePhys (some s1.ctx.id) x.pa (leBytes 4 ((spelled 4 (fun j => l.getD j 0) + sum 64) % 2 ^ 32))
                false (x.pol = 0)).mem ∧
              ∀ i < 64, act.getLsbD i = true → v.side.getLsbD i = false ∧
                (lane v i).toNat = (spelled 4 (fun j => l.getD j 0) + sum i) % 2 ^ 32))))

/-- Vector memory: scratchpad, long, ring and atomic forms (R46, R148, R164, R166, R167, R168, R169, R170). -/
def Obligations.VectorMemory : Prop :=
  Sys2Proof.Claims.VectorScratchpad ∧ Sys2Proof.Claims.LongForms ∧ Sys2Proof.Claims.LongSteps ∧
  Sys2Proof.Claims.VectorRingAndAtomic

/-! ## Slot B: asynchronous queues -/

namespace Sys2Proof.Claims

/-- A queue of a core's context. -/
def queueOf (s : State) (c : CoreNum) (q : BitVec 4) : Queue := (s.core c).ctx.queues[(⟨q.toNat, q.isLt⟩ : Fin 16)]
/-- What the key slot that an entry names holds for its context (R419). -/
def heldKey (s : State) (c : CoreNum) (e : QEntry) : Option (BitVec 256) :=
  ((s.part (s.core c).ctx.part).keys[(⟨e.blk.arg0.toNat % 16, Nat.mod_lt _ (by decide)⟩ : Fin 16)]).bind fun k =>
    if k.lid = (s.core c).ctx.lid then some k.key else none
/-- Entries of a queue whose head, where it is a QDEC or QENC, has read its key; it does so once, on becoming the head of a queue that
is not halted (R420). -/
def keyedHead (s : State) (c : CoreNum) (halt : Bool) : List QEntry → List QEntry
  | [] => []
  | h :: t => if (h.kind = .dec ∨ h.kind = .enc) ∧ h.keyed = false ∧ halt = false then
      { h with keyed := true, key := heldKey s c h } :: t
    else h :: t
/-- A queue takes one more entry (R288); nothing else changes, but that a new head reads its key. -/
def accepts (s : State) (q : BitVec 4) (e : QEntry) : State :=
  s.onQueue ⟨q.toNat, q.isLt⟩ fun x =>
    { x with entries := keyedHead s s.cur x.halt (x.entries ++ [e]), accepted := x.accepted + 1 }
/-- An entry that has not begun, of a kind, with the handle of its completion signal where SIG is set; it follows every request of
the context so far (R242). -/
def FreshEntry (s u : State) (e : QEntry) (k : QKind) (c : Reg) (g : BitVec 1) : Prop :=
  e.kind = k ∧ e.sig = (if g = 1 then some ((s.thr.readB c).val.setWidth 32) else none) ∧ e.resume = 0 ∧ e.prog = 0 ∧
  e.started = false ∧ e.finished = false ∧ e.worded = false ∧ e.keyed = false ∧ e.key = none ∧ e.got = [] ∧ e.out = none ∧
  e.bad = [] ∧ e.after = u.ctx.nextId
/-- The fields of a command block (R293). -/
def BlockFields (l : List Byte) (b : Block) : Prop :=
  let at_ (i n : Nat) : Nat := spelled n fun j => l.getD (i + j) 0
  b.dst.toNat = at_ 0 8 ∧ b.src.toNat = at_ 8 8 ∧ b.len.toNat = at_ 16 4 ∧ b.dspace.toNat = at_ 20 1 % 16 ∧
  b.sspace.toNat = at_ 20 1 / 16 ∧ b.arg0.toNat = at_ 21 1 ∧ b.arg1.toNat = at_ 22 2 ∧ b.arg2.toNat = at_ 32 8 ∧
  b.arg3.toNat = at_ 40 8 ∧ b.arg4.toNat = at_ 48 8 ∧ b.arg5.toNat = at_ 56 8
/-- A command with a block (R292, R293): read whole at issue from aligned scratchpad, and accepted when its queue is not halted and not
full and the block keeps its form's rules; a halted queue and a block that breaks them trap. `index` is the index list where
the form has one. -/
def BlockForm (exec' : State → Out) (s : State) (k : QKind) (q : BitVec 4) (a : Reg) (index : Option Reg) (c : Reg)
    (g : BitVec 1) (marks : Bool) : Prop :=
  let p := (s.thr.readB a).val.toNat % 2 ^ 32
  let ix := match index with | some b => (s.thr.readB b).val.toNat % 2 ^ 32 | none => 0
  ∀ l bad s1, p % 64 = 0 → ix % 4 = 0 → p + 64 ≤ s.ctx.kern.spad → Free s 0 → s.localRead p 64 = (.ok (l, bad), s1) →
    l.length = 64 → ∀ blk : Block, BlockFields l blk →
    let keeps : Prop := s1.blockOk k blk = true ∧ (index.isSome = true → ix + 4 * blk.len.toNat ≤ s1.ctx.kern.spad)
    (s1.ctx.queues[(⟨q.toNat, q.isLt⟩ : Fin 16)].halt = true →
      exec' s = .next (traps s1 0x11 s1.ctx.queues[(⟨q.toNat, q.isLt⟩ : Fin 16)].fault)) ∧
    (s1.ctx.queues[(⟨q.toNat, q.isLt⟩ : Fin 16)].halt = false →
      (¬keeps → exec' s = .next (traps s1 0x10 (BitVec.ofNat 64 (q.toNat * 2 ^ 60)))) ∧
      (keeps → s1.ctx.queues[(⟨q.toNat, q.isLt⟩ : Fin 16)].entries.length < 32 →
        ∃ e : QEntry, FreshEntry s s1 e k c g ∧ e.blk = blk ∧ e.blkAddr.toNat = p ∧ e.idx.toNat = ix ∧
          exec' s = .next (if marks then (accepts s1 q e).irrevocable else accepts s1 q e).slotDone))
/-- A queue's head that may run a unit: neither halted nor held nor finished, with no save under way and the accesses before its command
performed (R242, R289, R290, R297). -/
def Runnable (s : State) (c : CoreNum) (q : BitVec 4) (e : QEntry) (t : List QEntry) : Prop :=
  (s.core c).busy = true ∧ (s.core c).saving = false ∧ (queueOf s c q).entries = e :: t ∧ (queueOf s c q).halt = false ∧
  (queueOf s c q).held = false ∧ e.finished = false ∧ (s.core c).ctx.commandWaits e = false
/-- Statuses that halt a queue (R289): FAULT, ADDRESS, SEVERED, ACKLOST. -/
def halting (st : BitVec 4) : Bool := st = 3 || st = 4 || st = 5 || st = 9

end Sys2Proof.Claims

/-- R288, R292, R293, R305, R306, R289, R420: the commands enter their queue, QJOIN (an ordering point) and QSIG without a block; QSTAT reads
the status word and clears HALT where sB's bit 0 is set. -/
def Obligations.QueueForms : Prop :=
  ∀ (s : State) (q : BitVec 4) (a b c d : Reg) (g : BitVec 1), s.ctx.inHandler = false → (s.thr.readB a).tag = 0 →
    (s.thr.readB b).tag = 0 → (s.thr.readB c).tag = 0 →
    let old := s.ctx.queues[(⟨q.toNat, q.isLt⟩ : Fin 16)]
    BlockForm (exec (.qcopy q a c g)) s .copy q a none c g false ∧ BlockForm (exec (.qfill q a c g)) s .fill q a none c g false ∧
    BlockForm (exec (.qgath q a b c g)) s .gath q a (some b) c g false ∧
    BlockForm (exec (.qscat q a b c g)) s .scat q a (some b) c g false ∧
    BlockForm (exec (.qdec q a c g)) s .dec q a none c g true ∧ BlockForm (exec (.qenc q a c g)) s .enc q a none c g true ∧
    BlockForm (exec (.qcoll q a c g)) s .coll q a none c g true ∧
    (old.halt = false → old.entries.length < 32 →
      (∃ e : QEntry, FreshEntry s s e .sig c 1 ∧ exec (.qsig q c) s = .next (accepts s q e).slotDone) ∧
      (s.orderWait = none → ∃ e : QEntry, FreshEntry s s e .join c g ∧ exec (.qjoin q a c g) s = .next (accepts s q e).slotDone ∧
        ∀ j n, (j, n) ∈ e.joins ↔ (s.thr.readB a).val.getLsbD j.toNat = true ∧ j ≠ q ∧
          n = (s.ctx.queues[(⟨j.toNat, j.isLt⟩ : Fin 16)]).accepted)) ∧
    ∃ w : BitVec 64, exec (.qstat q d b) s = .next (commitsB
        (if (s.thr.readB b).val.getLsbD 0 then s.onQueue ⟨q.toNat, q.isLt⟩ fun x =>
          { x with halt := false, entries := keyedHead s s.cur false x.entries } else s) 2 d ⟨w, 0⟩) ∧
      w.toNat = old.completed % 2 ^ 16 * 2 ^ 48 + old.entries.length % 2 ^ 8 * 2 ^ 40 + old.halt.toNat * 2 ^ 39 +
        old.last.toNat * 2 ^ 32 + min ((old.entries.head?.map (·.resume)).getD 0) (2 ^ 32 - 1)

/-- R296, R299, R297: a step of a head that moves bytes within the scratchpad copies, or fills, the part of its range that lies in the
next 64-byte block of the destination, and counts it; the last one finishes the entry with status OK. -/
def Sys2Proof.Claims.QueueUnits : Prop :=
  ∀ (s : State) (c : CoreNum) (q : BitVec 4) (remote : List (BitVec 8 × Bool)) (e : QEntry) (t : List QEntry), Runnable s c q e t →
    e.kind = .copy ∨ e.kind = .fill → e.blk.dspace = 0 → e.blk.sspace = 0 → (s.core c).spadErr = [] →
    smWf 0 (s.core c).spad = true → (s.core c).ctx.kern.spad ≤ 0x180000 →
    let len := e.blk.len.toNat
    let dst := e.blk.dst.toNat + e.resume
    let src := e.blk.src.toNat + e.resume
    let n := min (len - e.resume) (64 - dst % 64)
    e.resume < len → e.blk.dst.toNat + len ≤ (s.core c).ctx.kern.spad →
    (e.kind = .copy → e.blk.src.toNat + len ≤ (s.core c).ctx.kern.spad) →
    ∃ (u : State) (e' : QEntry), exec (.queueUnitDone c q remote) s = .next u ∧
      (∀ k, spadByte u c k = if dst ≤ k ∧ k < dst + n then
          (if e.kind = .copy then spadByte s c (src + (k - dst)) else BitVec.ofNat 8 (e.blk.arg2.toNat / 256 ^ (k % 8)))
        else spadByte s c k) ∧
      (queueOf u c q).entries = e' :: t ∧ e'.resume = e.resume + n ∧ e'.prog = e.prog + 1 ∧ e'.blk = e.blk ∧ e'.kind = e.kind ∧
      e'.sig = e.sig ∧ (e'.finished = true ↔ len ≤ e.resume + n) ∧ (e'.finished = true → e'.status = 0) ∧
      (queueOf u c q).halt = false ∧ (queueOf u c q).completed = (queueOf s c q).completed ∧
      (∀ j, j ≠ q → queueOf u c j = queueOf s c j) ∧ (∀ x, x ≠ c → u.core x = s.core x) ∧ u.mem = s.mem ∧ SameRest s u

/-- R288, R289, R293, R302, R303, R304, R309: the end of an entry: its completion word, its leaving, and the halt of the queue with the trap that it
owes where the status halts. A contribution to a collective's step counts once, a module that takes no traffic answers it as R309 gives;
at the group's timeout a head that has not started is checked first and ends as a duplicate or at another step, and else a
reduction that lacks a contribution has an all-poison result with PARTIAL, which is then written block by block. -/
def Sys2Proof.Claims.QueueEntries : Prop :=
  (∀ (s : State) (c : CoreNum) (q : BitVec 4) (e : QEntry) (t : List QEntry), (s.core c).busy = true →
    (s.core c).saving = false → (queueOf s c q).entries = e :: t → (queueOf s c q).halt = false → e.finished = true → e.worded = false → e.sig = none →
    e.kind ≠ .join → e.kind ≠ .sig → smWf 0 (s.core c).spad = true →
    ∃ u : State, exec (.queueEntryComplete c q) s = .next u ∧
      (∀ k, spadByte u c k = if e.blkAddr.toNat + 24 ≤ k ∧ k < e.blkAddr.toNat + 32 then
          BitVec.ofNat 8 ((e.step.toNat * 2 ^ 32 + e.status.toNat) / 256 ^ (k - (e.blkAddr.toNat + 24))) else spadByte s c k) ∧
      queueOf u c q = { queueOf s c q with
        entries := keyedHead s c (halting e.status) t, completed := (queueOf s c q).completed + 1, last := e.status, halt := halting e.status
        owed := (queueOf s c q).owed ++ (if halting e.status then
          [BitVec.ofNat 64 (q.toNat * 2 ^ 60 + e.status.toNat * 2 ^ 56 + e.failAddr.toNat)] else [])
        fault := if halting e.status then BitVec.ofNat 64 (q.toNat * 2 ^ 60 + e.status.toNat * 2 ^ 56 + e.failAddr.toNat)
          else (queueOf s c q).fault } ∧
      (∀ j, j ≠ q → queueOf u c j = queueOf s c j) ∧ (∀ x, x ≠ c → u.core x = s.core x) ∧ u.mem = s.mem ∧ SameRest s u) ∧
  (∀ (s : State) (p : PartNum) (g : BitVec 10) (step : BitVec 32) (rank : BitVec 16) (l : List (BitVec 128 × Bool)),
    (∀ u, s.unready = some u → exec (.collectiveContribution p g step rank l) s = .next u) ∧
    (s.unready = none → (∃ x ∈ (s.part p).contribs, x.group = g ∧ x.step = step ∧ x.rank = rank) →
      exec (.collectiveContribution p g step rank l) s = .next (s.onPart p id)) ∧
    (s.unready = none → (∀ x ∈ (s.part p).contribs, ¬(x.group = g ∧ x.step = step ∧ x.rank = rank)) →
      exec (.collectiveContribution p g step rank l) s =
        .next (s.onPart p fun y => { y with contribs := y.contribs ++ [⟨g, step, rank, l⟩] }))) ∧
  ∀ (s : State) (c : CoreNum) (q : BitVec 4) (e : QEntry) (t : List QEntry) (i : CollInfo), (s.core c).busy = true →
    (s.core c).saving = false → (queueOf s c q).entries = e :: t → (queueOf s c q).halt = false → e.finished = false →
    e.kind = .coll → e.coll = some i →
    let part := s.part (s.core c).ctx.part
    let group : BitVec 10 := e.blk.arg1.setWidth 10
    let step : BitVec 32 := e.blk.arg2.setWidth 32
    let again : Prop := ∃ x ∈ part.groupStep, x = (group.toNat, step)
    let phase : Option (BitVec 32) :=
      (s.phaser? i.phaser).bind fun p => if p.part = (s.core c).ctx.part then some p.phase else none
    let mine (x : Contribution) : Prop := x.group = group ∧ x.step = step
    let ends (st : BitVec 4) : Prop := ∃ (u : State) (e' : QEntry), exec (.groupTimeout c q) s = .next u ∧
      (queueOf u c q).entries = e' :: t ∧ e'.finished = true ∧ e'.status = st ∧ (u.core c).spad = (s.core c).spad ∧
      u.mem = s.mem ∧ (u.part (s.core c).ctx.part).contribs = part.contribs
    (e.out = none → e.started = false → again → ends 10) ∧
    (e.out = none → e.started = false → ¬again → phase ≠ some step → ends 7) ∧
    (e.out = none → (e.started = true ∨ (¬again ∧ phase = some step)) → e.blk.arg0 = 0 →
      (∀ x ∈ part.contribs, mine x → x.elems.length = e.blk.len.toNat / 4) →
      (∃ r ≤ i.nm1.toNat, ∀ x ∈ part.contribs, mine x → x.rank.toNat ≠ r) →
      ∃ (u : State) (e' : QEntry), exec (.groupTimeout c q) s = .next u ∧ (queueOf u c q).entries = e' :: t ∧
        e'.finished = false ∧ e'.status = 8 ∧ e'.out = some (List.replicate (e.blk.len.toNat / 4 * 4) (0, true)) ∧
        ∀ x, x ∈ (u.part (s.core c).ctx.part).contribs ↔ x ∈ part.contribs ∧ ¬mine x) ∧
    (∀ (l : List (Byte × Bool)) (remote : List (BitVec 8 × Bool)), Runnable s c q e t → e.out = some l →
      e.blk.dspace = 0 → e.blk.sspace ≠ 3 → e.blk.arg0 = 0 → smWf 0 (s.core c).spad = true →
      let len := e.blk.len.toNat
      let dst := e.blk.dst.toNat + e.resume
      let n := min (len - e.resume) (64 - dst % 64)
      l.length = len → e.resume < len → e.blk.dst.toNat + len ≤ (s.core c).ctx.kern.spad →
      (s.core c).ctx.kern.spad ≤ 0x180000 →
      ∃ (u : State) (e' : QEntry), exec (.queueUnitDone c q remote) s = .next u ∧ (queueOf u c q).entries = e' :: t ∧
        e'.resume = e.resume + n ∧ e'.status = e.status ∧ (e'.finished = true ↔ len ≤ e.resume + n) ∧
        (∀ k, spadByte u c k = if dst ≤ k ∧ k < dst + n then (l.getD (k - e.blk.dst.toNat) (0, false)).1
          else spadByte s c k) ∧
        ((∃ k, e.resume ≤ k ∧ k < e.resume + n ∧ (l.getD k (0, false)).2 = true) → dst / 64 ∈ (u.core c).spadMark))

/-- What the queues do with their units and entries (R288, R289, R293, R296, R297, R299, R302, R303, R304, R309, R420). -/
def Obligations.QueueWork : Prop := Sys2Proof.Claims.QueueUnits ∧ Sys2Proof.Claims.QueueEntries

/-! ## Slot D: the matrix engine -/

namespace Sys2Proof.Claims

/-- A tile by its field. -/
def tileNo (r : Reg) : Fin 8 := ⟨r.toNat % 8, Nat.mod_lt _ (by decide)⟩
/-- Element `i` of a tile. -/
def element (t : Tile) (i : Nat) : Elem := (t.dense[i]?).getD Elem.zero
/-- The limits that a tile field of matrix work keeps (R441 reason 7, R295): declared, and named by no incomplete queue entry. -/
def TileUsable (s : State) (r : Reg) : Prop :=
  r.toNat < 8 ∧ r.toNat < s.ctx.kern.tiles ∧ s.ctx.tileQueued (tileNo r) = false
/-- Fewer than two results of slot D are in flight to a tile (R441 reason 5). -/
def TileRoom (s : State) (r : Reg) : Prop := (s.ctx.task.tileFlight (tileNo r)).length < 2
/-- A source tile that has no result in flight where FX96 is concerned (R441 reason 4). -/
def SourceReady (s : State) (r : Reg) : Prop :=
  s.ctx.task.tileFlight (tileNo r) = [] ∨ ((s.ctx.mat.d[tileNo r]).fmt ≠ .fx96 ∧
    ∀ l ∈ s.ctx.task.tileFlight (tileNo r), ∀ x, l.val = .tile x → x.fmt ≠ .fx96)
/-- A slot D result for a tile. -/
def tileResult (s : State) (lat : Nat) (d : Reg) (v : LVal) (fl : BitVec 7 := 0) (matrix : Bool := false) : State :=
  (withResult s lat (.tile (tileNo d)) v fl matrix).slotDone
/-- The bits of an element of an FMTW code (R173). -/
def matWidth (c : BitVec 4) : Nat :=
  if c.toNat < 2 then 16 else if c = 2 ∨ c = 3 ∨ c = 5 ∨ c = 7 ∨ c = 9 ∨ c = 10 then 8 else 4
/-- The bytes of an operand image: 4,096 elements, and in an MX format 128 scales. -/
def imageSize (c : BitVec 4) : Nat := 512 * matWidth c + if 9 ≤ c.toNat then 128 else 0
/-- The planes of an A code. -/
def planes (c : BitVec 4) : Nat :=
  if c = 0 then 10 else if c = 1 then 13 else if c = 2 ∨ c = 9 then 6 else if c = 3 ∨ c = 10 then 5
  else if c = 5 ∨ c = 7 then 8 else 4
/-- A code names an integer format. -/
def matInteger (c : BitVec 4) : Bool := c = 5 || c = 6 || c = 7 || c = 8
/-- An image whose address operand is clean stands whole in the scratchpad, which reads without an error, and no earlier access is kept
before its read (R165, R174, R219). -/
def ImageAt (s s1 : State) (r : Reg) (n p : Nat) : Prop :=
  Free s 0 ∧ s.ctx.longBusy = false ∧
  (s.thr.readD r).tag = 0 ∧ p = (s.thr.readD r).val.toNat % 2 ^ 32 ∧ p % 256 = 0 ∧ p + n ≤ s.ctx.kern.spad ∧
  s.touch p n = (.ok (), s1) ∧ (s1.core s1.cur).spadErr = [] ∧ ∀ j < n, (s1.core s1.cur).spadBad (p + j) 1 = false
/-- The integer of a byte in INT8 (5) or UINT8 (7). -/
def byteInt (c : BitVec 4) (x : Byte) : Int := if c = 5 then signedField 8 x.toNat else x.toNat
/-- A byte of a weight slot. -/
def slotByte (w : WSlot) (j : Nat) : Byte := ((smDense 0 4096 0 w.image)[j]?).getD 0
/-- The state with the stripes at the delivery of new matrix work of some planes that reads a weight slot: four steps each, none of
them done (R46, R176). -/
def delivering (s : State) (w : BitVec 2) (planes : Nat) : State :=
  s.onCore s.cur fun k => { k with
    stripes := .delivering, granted := false, macros := k.macros ++ [⟨⟨w.toNat, w.isLt⟩, 4 * planes, 0⟩] }
/-- The format of a floating-point tile. -/
def tileFloat (f : TileFmt) : Option FFmt :=
  match f with
  | .fp32 => some ⟨8, 23, .ieee⟩ | .bf16 => some ⟨8, 7, .ieee⟩ | .fp16 => some ⟨5, 10, .ieee⟩ | _ => none
/-- An element is poison: by its side bit or by its pattern (R172). -/
def poisonElem (f : TileFmt) (e : Elem) : Bool :=
  e.side || (match tileFloat f with | some g => (g.unpack e.bits.toNat).isPoison | none => false)
/-- The joined flags of 4,096 results. -/
def JoinsFlags (fl : BitVec 7) (g : Nat → BitVec 7) : Prop :=
  ∀ b < 7, fl.getLsbD b = true ↔ ∃ i < 4096, (g i).getLsbD b = true
/-- An FX96 element of an exact number in units of 2^scale, floored (R117): NX where something is lost. -/
def Floored (scale : Int) (q : ℚ) (r : Elem) (fl : BitVec 7) : Prop :=
  r.bits = BitVec.ofInt 112 ⌊q / 2 ^ scale⌋ ∧ fl = if ((⌊q / 2 ^ scale⌋ : Int) : ℚ) = q / 2 ^ scale then 0 else flNX
/-- What an FP operand of a type code becomes in FX96. -/
def FloatToFx (scale : Int) (v : FVal) (r : Elem) (fl : BitVec 7) : Prop :=
  match v with
  | .fin neg m e => Floored scale (rat neg m e) r fl ∧ r.nan = false
  | _ => r.bits = 0 ∧ r.nan = true ∧ fl = flNV
/-- DCVT of an element that is not poison (R186): from format and scale to format and chained scale. -/
def Dconverted (f : TileFmt) (u : Int) (g : TileFmt) (scale : Int) (mode : RMode) (e r : Elem) (fl : BitVec 7) : Prop :=
  let i : Int := (e.bits.setWidth 32).toInt
  let n : Int := (e.bits.setWidth 96).toInt
  r.side = false ∧
  match tileFloat f, tileFloat g with
  | some x, some y =>
    if f = g then r = e ∧ fl = 0
    else r.nan = false ∧ match x.unpack e.bits.toNat with
      | .nan => (r.bits.toNat, fl) = (y.nanCode, 0)
      | .inf neg => (r.bits.toNat, fl) = (infinity y neg, 0)
      | .fin neg m k => if m = 0 then (r.bits.toNat, fl) = (zero y neg, 0) else RoundsTo y mode (rat neg m k) (r.bits.toNat, fl)
      | .poison => True
  | some x, none => FloatToFx scale (x.unpack e.bits.toNat) r fl
  | none, some y => r.nan = false ∧
    if f = .fx96 then
      if e.nan then (r.bits.toNat, fl) = (y.nanCode, flNV)
      else ∃ k : FRes, (n = 0 → k = (0, 0)) ∧ (n ≠ 0 → RoundsTo y mode (n * 2 ^ u) k) ∧ r.bits.toNat = k.1 ∧
        fl = k.2 ||| if n = e.bits.toInt then 0 else flFXOV
    else (i = 0 → (r.bits.toNat, fl) = (0, 0)) ∧ (i ≠ 0 → RoundsTo y mode i (r.bits.toNat, fl))
  | none, none => if f = .fx96 then Floored scale (e.bits.toInt * 2 ^ u) r fl ∧ r.nan = e.nan
    else Floored scale i r fl ∧ r.nan = false

end Sys2Proof.Claims

/-- R177, R178, R179, R180, R183: FMTW, BLOAD and BCLR write latch and weight slots at their distances; MMA and MMAB start a delivery and land
a whole tile in the mode's format, with the exact integer sums where both formats are 8-bit integers or bits. -/
def Sys2Proof.Claims.MatrixForms : Prop :=
  ∀ (s : State) (d a : Reg) (x y : BitVec 4) (n f : BitVec 1) (w : BitVec 2), s.ctx.inHandler = false →
    let wi : Fin 4 := ⟨w.toNat, w.isLt⟩
    let c := s.ctx.mat.latchA
    let slot := s.ctx.mat.w[wi]
    let t := s.ctx.chained (tileNo d)
    let acc (i : Nat) : Nat := if n = 1 then 0 else (element t i).bits.toNat
    exec (.fmtw x y) s = .next (withResult s 4 .latch (.latch y x)).slotDone ∧
    (s.ctx.kern.wslots ≤ w.toNat → exec (.bclr w) s = .next (traps s 0x0F 7)) ∧
    (w.toNat < s.ctx.kern.wslots →
      exec (.bclr w) s = .next (withResult s 2 (.wslot wi) (.wslot ⟨[], 0, none⟩)).slotDone ∧
      (∀ s1 p, (∀ l ∈ s.ctx.task.landing, ∀ v, l.val = .wslot v → v.fmt = none) →
        ImageAt s s1 a (imageSize s.ctx.mat.latchB) p → ∃ v : WSlot,
          exec (.bload a w) s = .next (withResult s1 20 (.wslot wi) (.wslot v)).slotDone ∧ v.fmt = some s.ctx.mat.latchB ∧
          (∀ j < imageSize s.ctx.mat.latchB, smGet 0 j v.image = spadByte s1 s1.cur (p + j)) ∧
          (matInteger s.ctx.mat.latchB = true → v.side = 0)) ∧
      (TileUsable s d → TileRoom s d →
        (let fmt := if f = 1 then TileFmt.fx96 else if matInteger c then .int32 else .fp32
         ∀ s1 p, c.toNat < 12 → (∀ b, slot.fmt = some b → b.toNat < 12 ∧ matInteger b = matInteger c) →
          (n = 1 ∨ t.fmt = fmt) → ImageAt s s1 a (imageSize c) p → ∃ (v : Tile) (fl : BitVec 7),
            exec (.mma d a n f w) s = .next (tileResult (delivering s1 w (planes c)) (4 * planes c + 8) d (.tile v) fl true) ∧
            v.fmt = fmt ∧ v.scale = t.scale ∧
            (∀ b, f = 0 → c = 5 ∨ c = 7 → slot.fmt = some b → b = 5 ∨ b = 7 → slot.side = 0 →
              (n = 1 ∨ ∀ i < 4096, (element t i).side = false) → fl = 0 ∧ ∀ i < 64, ∀ j < 64,
                (element v (64 * i + j)).side = false ∧ ((element v (64 * i + j)).bits.toNat : Int) =
                  (acc (64 * i + j) + ∑ k ∈ Finset.range 64, byteInt c (spadByte s1 s1.cur (p + 64 * i + k)) *
                    byteInt b (slotByte slot (64 * j + k))) % 2 ^ 32)) ∧
        (∀ s1 p, (n = 1 ∨ t.fmt = .int32) → ImageAt s s1 a 512 p → ∃ v : Tile,
            exec (.mmab d a n f w) s = .next (tileResult (delivering s1 w 1) 12 d (.tile v) 0 true) ∧
            v.fmt = .int32 ∧ v.scale = t.scale ∧
            (slot.side = 0 → (n = 1 ∨ ∀ i < 4096, (element t i).side = false) → ∀ i < 64, ∀ j < 64,
              (element v (64 * i + j)).side = false ∧ (element v (64 * i + j)).bits.toNat =
                (acc (64 * i + j) + ∑ k ∈ Finset.range 64,
                  (let u := (spadByte s1 s1.cur (p + 8 * i + k / 8)).getLsbD (k % 8)
                   let z := (slotByte slot (8 * j + k / 8)).getLsbD (k % 8)
                   (if f = 1 then u && z else u != z).toNat)) % 2 ^ 32))))

/-- R184, R185, R186, R187, R188: the tile moves, rescaling, conversion, single elements and the status words. -/
def Sys2Proof.Claims.TileForms : Prop :=
  ∀ (s : State) (d a b : Reg) (z : BitVec 8) (r : BitVec 2) (g : BitVec 4) (n : BitVec 4), s.ctx.inHandler = false →
    let t := s.ctx.mat.d[tileNo a]
    let u := s.ctx.mat.d[tileNo b]
    let old := s.ctx.chained (tileNo d)
    (TileUsable s d → TileRoom s d →
      exec (.dzero d) s = .next (tileResult s 2 d .tileZero) ∧
      (TileUsable s a → SourceReady s a →
        exec (.dmov d a) s = .next (tileResult s 4 d (.tile t)) ∧
        (TileUsable s b → SourceReady s b → t.fmt = u.fmt → (t.fmt = .fx96 → t.scale = u.scale) →
          ∃ (v : Tile) (fl : BitVec 7) (e : Nat → BitVec 7), exec (.dadd d a b) s = .next (tileResult s 6 d (.tile v) fl) ∧
            v.fmt = t.fmt ∧ v.scale = t.scale ∧ JoinsFlags fl e ∧ ∀ i < 4096,
              let x := element t i
              let y := element u i
              let v := element v i
              if poisonElem t.fmt x || poisonElem t.fmt y then v.side = true ∧ e i = 0
              else v.side = false ∧ match tileFloat t.fmt with
                | some f => v.nan = false ∧
                    Sum f .rn (f.unpack x.bits.toNat) (f.unpack y.bits.toNat) (v.bits.toNat, e i)
                | none => e i = 0 ∧ if t.fmt = .fx96 then v.bits = x.bits + y.bits ∧ v.nan = (x.nan || y.nan)
                    else v.nan = false ∧ v.bits.toNat = (x.bits.toNat + y.bits.toNat) % 2 ^ 32) ∧
        (g.toNat < 4 → let f := if g = 0 then TileFmt.fp32 else if g = 1 then .fx96 else if g = 2 then .bf16 else .fp16
          ∃ (v : Tile) (fl : BitVec 7) (e : Nat → BitVec 7), exec (.dcvt d a r g) s = .next (tileResult s 8 d (.tile v) fl) ∧
            v.fmt = f ∧ v.scale = old.scale ∧ JoinsFlags fl e ∧ ∀ i < 4096,
              if poisonElem t.fmt (element t i) then (element v i).side = true ∧ e i = 0
              else Dconverted t.fmt t.scale.toInt f old.scale.toInt (rmode r) (element t i) (element v i) (e i))) ∧
      (old.fmt ≠ .fx96 → exec (.dscl d z) s = .next (tileResult s 2 d (.tileScale z))) ∧
      (old.fmt = .fx96 → ∃ (v : Tile) (fl : BitVec 7) (e : Nat → BitVec 7),
        exec (.dscl d z) s = .next (tileResult s 2 d (.tile v) fl) ∧ v.fmt = .fx96 ∧ v.scale = z ∧ JoinsFlags fl e ∧
        ∀ i < 4096, let x := element old i
          if x.side then element v i = x ∧ e i = 0
          else (element v i).side = false ∧ (element v i).nan = x.nan ∧
            Floored z.toInt (x.bits.toInt * 2 ^ old.scale.toInt) (element v i) (e i)) ∧
      ((s.thr.readD a).tag ≠ 1 → (s.thr.readD b).tag ≠ 1 →
        let i := (s.thr.readD a).val.toNat % 4096
        let part := (s.thr.readD a).val.toNat / 4096 % 4
        let x := s.thr.readD b
        let e := smGet Elem.zero i old.elems
        (bad (s.thr.readD a) = true → exec (.dwr d a b) s = .next (tileResult s 4 d .tileBad)) ∧
        (bad (s.thr.readD a) = false → ∃ v : Elem, exec (.dwr d a b) s = .next (tileResult s 4 d (.tilePart [(i, v)])) ∧
          (bad x = true → ¬(old.fmt = .fx96 ∧ part = 3) → v.side = true) ∧
          (bad x = false → old.fmt ≠ .fx96 → v = ⟨BitVec.ofNat 112
            (x.val.toNat % if old.fmt = .fp32 ∨ old.fmt = .int32 then 2 ^ 32 else 2 ^ 16), false, false⟩) ∧
          (old.fmt = .fx96 → part = 3 → v = e) ∧
          (bad x = false → old.fmt = .fx96 → part < 3 → v.side = false ∧ v.nan = (if part = 2 then x.val.getLsbD 0 else e.nan) ∧
            ∀ k < 112, v.bits.getLsbD k = if part = 0 ∧ k < 64 then x.val.getLsbD k
              else if part = 1 ∧ 64 ≤ k then x.val.getLsbD (k - 64) else e.bits.getLsbD k)))) ∧
    (TileUsable s a → SourceReady s a → (s.thr.readD b).tag ≠ 1 →
      let i := (s.thr.readD b).val.toNat % 4096
      let part := (s.thr.readD b).val.toNat / 4096 % 4
      let e := smGet Elem.zero i t.elems
      (bad (s.thr.readD b) = true → exec (.drd d a b) s = .next (withResult s 4 (destinationD d) (.scalar ⟨0, 2⟩)).slotDone) ∧
      (bad (s.thr.readD b) = false → ∃ v : BitVec 64,
        exec (.drd d a b) s = .next (withResult s 4 (destinationD d) (.scalar ⟨v, if e.side then 2 else 0⟩)).slotDone ∧
        (t.fmt = .int32 → v.toInt = (e.bits.setWidth 32).toInt) ∧
        ((tileFloat t.fmt).isSome = true → v.toNat = e.bits.toNat % 2 ^ 64) ∧
        (t.fmt = .fx96 → (part = 0 → v.toNat = e.bits.toNat % 2 ^ 64) ∧
          (part = 1 → v.toInt = (e.bits.toInt / 2 ^ 96) * 2 ^ 32 + (e.bits.toNat / 2 ^ 64 % 2 ^ 32 : Nat)) ∧
          (part = 2 → v.toNat = e.nan.toNat) ∧ (part = 3 → v = 0)))) ∧
    (n.toNat < 4 → ∃ v : BitVec 64, exec (.mstat d n) s = .next (withResult s 2 (destinationD d) (.scalar ⟨v, 0⟩)).slotDone ∧
      (n = 0 → v.toNat = (s.ctx.task.landing.filter (·.matrix)).length % 8 * 2 ^ 8 + s.ctx.mat.latchB.toNat * 2 ^ 4 +
        s.ctx.mat.latchA.toNat) ∧
      (n = 1 → ∀ i : Fin 8, v.toNat / 16 ^ i.val % 16 = match (s.ctx.mat.d[i]).fmt with
        | .fp32 => 0 | .fx96 => 1 | .bf16 => 2 | .fp16 => 3 | .int32 => 4) ∧
      (n = 2 → ∀ i : Fin 8, v.toNat / 256 ^ i.val % 256 = (s.ctx.mat.d[i]).scale.toNat) ∧
      (n = 3 → ∀ i : Fin 4, v.toNat / 16 ^ i.val % 16 = match (s.ctx.mat.w[i]).fmt with | some c => c.toNat | none => 15))

/-- The matrix forms and the tile forms (R46, R176, R177, R178, R179, R180, R183, R184, R185, R186, R187, R188). -/
def Obligations.MatrixAndTiles : Prop := Sys2Proof.Claims.MatrixForms ∧ Sys2Proof.Claims.TileForms

/-! ## Slot D: phasers, tasks, leases -/

namespace Sys2Proof.Claims

/-- No two phasers stand at one index of an engine (R359). -/
def OneEach (l : List Phaser) : Prop := (l.map fun p => (p.eng, p.idx)).Nodup
/-- The members that have to signal the open phase have done so, and none is pending (R361). -/
def PhaseReady (p : Phaser) : Prop := p.pending = 0 ∧ ∀ m ∈ p.members, m.mode = 0 ∨ m.mode = 2 → m.sph ≠ p.phase
/-- The phaser with its open phase completed; what was told of that phase no longer stands. -/
def completed (p : Phaser) : Phaser := { p with phase := p.phase + 1, announced := false }
/-- What the engine makes of a phaser that an operation left as `p`, below fabric scope: its open phase completes at this point of the
engine's order where the condition holds (R361). -/
def Settled (p q : Phaser) : Prop := (PhaseReady p → q = completed p) ∧ (¬PhaseReady p → q = p)
/-- A member of a phaser. -/
def IsMember (s : State) (p : Phaser) (m : Member) : Prop :=
  m ∈ p.members ∧ m.lid = s.ctx.lid ∧ m.sidx = s.ctx.sidx ∧
  ∀ x ∈ p.members, x.lid = s.ctx.lid → x.sidx = s.ctx.sidx → x = m
/-- The phaser with one membership changed. -/
def withMember (p : Phaser) (m m' : Member) : Phaser := { p with members := p.members.map fun x => if x = m then m' else x }
/-- A handle operand names a phaser of the partition whose instance the core belongs to. -/
def Names (s : State) (a : Reg) (p : Phaser) : Prop :=
  (s.thr.readD a).tag = 0 ∧ p ∈ s.phasers ∧ p.handle = (s.thr.readD a).val.setWidth 32 ∧ p.part = s.ctx.part ∧
  (p.scope = 0 → p.home = s.cur) ∧ (p.scope = 1 → groveOf p.home = groveOf s.cur) ∧ (p.scope = 2 → dieOf p.home = dieOf s.cur)
/-- Among the phasers of `u`, `q` stands for `p`, and the others are as in `s`. -/
def Becomes (s u : State) (p q : Phaser) : Prop :=
  u.phasers = s.phasers.map fun x => if x = p then q else x

end Sys2Proof.Claims

/-- R359, R365 to R369, R361: the phaser forms on a live phaser of the partition below fabric scope: what they change of the phaser, and the
phase that completes at once where its condition comes to hold. -/
def Sys2Proof.Claims.PhaserForms : Prop :=
  ∀ (s : State) (d a b : Reg) (mode : BitVec 2), s.ctx.inHandler = false → OneEach s.phasers →
    (let cfg := (s.thr.readD a).val
     let pend := (s.thr.readD b).val
     let eng : BitVec 4 := if cfg.toNat % 8 ≤ 2 then (dieOf s.cur).setWidth 4 else 4
     let used (i : Nat) : Prop := ∃ q ∈ s.phasers, q.eng = eng ∧ q.idx.toNat = i
     let limit := if eng = 4 then 4096 else 2048
     (s.thr.readD a).tag = 0 → (s.thr.readD b).tag = 0 → cfg &&& 0xFC00FFC8#64 = 0 → cfg.toNat % 8 < 4 →
     cfg.toNat / 2 ^ 16 % 1024 = 0 → pend.toNat < 2 ^ 16 →
     (cfg.toNat / 16 % 4 = 3 ∨ s.memberships s.ctx.id < s.ctx.kern.phasers) →
     ((∀ i < limit, used i) → ∃ u : State, exec (.phnew d a b) s = .next (withResult u 2 (destinationD d) (.scalar ⟨0, 0⟩)).slotDone ∧
       u.phasers = s.phasers ∧ u.thr = s.thr) ∧
     ((∃ i < limit, ¬used i) → (∀ q ∈ s.phasers, q.members ≠ [] ∨ q.pending ≠ 0) → (cfg.toNat / 16 % 4 ≠ 3 ∨ pend ≠ 0) →
       ∃ (u : State) (p q : Phaser),
         exec (.phnew d a b) s = .next (withResult u 2 (destinationD d) (.scalar ⟨p.handle.setWidth 64, 0⟩)).slotDone ∧
         u.phasers = s.phasers ++ [q] ∧ Settled p q ∧ u.thr = s.thr ∧ p.eng = eng ∧ p.idx.toNat < limit ∧ ¬used p.idx.toNat ∧
         p.scope.toNat = cfg.toNat % 8 ∧ p.phase.toNat = cfg.toNat / 2 ^ 32 ∧ p.pending.toNat = pend.toNat ∧ p.part = s.ctx.part ∧
         p.home = s.cur ∧
         (let old := smGet 0 (p.eng.toNat * 4096 + p.idx.toNat) s.gens
          p.gen.toNat = if old.toNat = 8191 then 1 else old.toNat + 1) ∧
         p.members = if cfg.toNat / 16 % 4 = 3 then []
           else [⟨s.ctx.lid, s.ctx.sidx, BitVec.ofNat 2 (cfg.toNat / 16), p.phase, p.phase⟩])) ∧
    ∀ p : Phaser, Names s a p → p.scope.toNat < 4 → p.members ≠ [] ∨ p.pending ≠ 0 →
      (∀ q ∈ s.phasers, q.members ≠ [] ∨ q.pending ≠ 0) →
      ((∀ m ∈ p.members, ¬(m.lid = s.ctx.lid ∧ m.sidx = s.ctx.sidx)) → s.memberships s.ctx.id < s.ctx.kern.phasers →
        p.members.length < 65535 → ∃ (u : State) (q : Phaser), exec (.phreg a mode) s = .next u.slotDone ∧ Becomes s u p q ∧
          Settled { p with
            members := p.members ++ [⟨s.ctx.lid, s.ctx.sidx, mode, p.phase, p.phase⟩]
            pending := BitVec.ofNat 16 (p.pending.toNat - 1) } q) ∧
      ∀ m : Member, IsMember s p m →
        (∃ (u : State) (q : Phaser), exec (.phdrop a) s = .next u.slotDone ∧
          Settled { p with members := p.members.filter (· ≠ m) } q ∧
          if q.members = [] ∧ q.pending = 0 then u.phasers = s.phasers.filter (· ≠ p) else Becomes s u p q) ∧
        (s.orderWait = none → s.ctx.replays = [] →
          (m.mode = 0 ∨ m.mode = 2 → m.sph = p.phase → ∃ (u : State) (q : Phaser), exec (.phsig a) s = .next u.slotDone ∧
            Becomes s u p q ∧ Settled (withMember p m { m with sph := m.sph + 1 }) q) ∧
          (m.mode = 1 ∨ (m.mode = 2 ∧ m.sph ≠ m.wph) →
            (1 ≤ (p.phase - m.wph).toNat → (p.phase - m.wph).toNat < 2 ^ 31 → ∃ u : State,
              exec (.phwait a) s = .next u.slotDone ∧ Becomes s u p (withMember p m { m with wph := m.wph + 1 })) ∧
            (p.phase = m.wph → exec (.phwait a) s = .next (s.onCtx fun c => { c with wait := .phase p.handle m.wph }))) ∧
          (m.mode = 2 → m.sph = p.phase → m.wph = p.phase → (∀ h n, s.ctx.wait ≠ .phase h n) →
            let p1 := withMember p m { m with sph := m.sph + 1 }
            (PhaseReady p1 → ∃ u : State, exec (.phsw a) s = .next u.slotDone ∧
              Becomes s u p (completed (withMember p m { m with sph := m.sph + 1, wph := m.wph + 1 }))) ∧
            (¬PhaseReady p1 → ∃ u : State,
              exec (.phsw a) s = .next (u.onCtx fun c => { c with wait := .phase p.handle m.wph }) ∧ Becomes s u p p1))) ∧
        ((s.thr.readD b).tag = 0 → (s.thr.readD b).val.toNat < 3 →
          let signal := p.members.filter fun x => x.mode = 0 || x.mode = 2
          ∃ w : BitVec 64, exec (.phqry d a b) s =
              .next (s.await (if d = 16 then .phqres else .discard) (.scalar ⟨w, 0⟩) 0).slotDone ∧
            ((s.thr.readD b).val = 0 → w.toNat = (signal.filter fun x => x.sph ≠ p.phase).length % 2 ^ 16 * 2 ^ 48 +
              signal.length % 2 ^ 16 * 2 ^ 32 + p.phase.toNat) ∧
            ((s.thr.readD b).val = 1 → w.toNat = m.wph.toNat * 2 ^ 32 + m.sph.toNat) ∧
            ((s.thr.readD b).val = 2 → w.toNat = p.pending.toNat * 2 ^ 32 + m.mode.toNat * 2 + 1))

/-- R361, R362, R23: the completion of an open phase, and what another instance of a fabric-scope phaser announces: the phase completes when
the group's entry is valid and this instance and as many others as the group has are ready; this one tells its peers where it
has become ready, or is so no longer. A module that takes no traffic answers as R309 gives. -/
def Sys2Proof.Claims.PhaseCompletion : Prop :=
  ∀ (s : State) (p : Phaser), OneEach s.phasers → p ∈ s.phasers → s.trunk.cut = none →
    (p.scope ≠ 4 →
      (PhaseReady p → exec (.phaseComplete p.eng p.idx) s =
        .next (s.onPhaser p.eng p.idx completed)) ∧
      (¬PhaseReady p → exec (.phaseComplete p.eng p.idx) s = .next s)) ∧
    (p.scope = 4 → ∀ (rank : BitVec 16) (phase : BitVec 32) (ready : Bool),
      (∀ u, s.unready = some u → exec (.phaseAnnounce p.eng p.idx rank phase ready) s = .next u) ∧
      (s.unready = none →
        let heard := p.remote.filter (fun r => r.1 ≠ rank) ++ [(rank, phase, ready)]
        let group := smGet 0 p.group.toNat (s.part p.part).groups
        let count := (heard.filter fun r => (r.2.1 = p.phase && r.2.2) ||
          (decide (1 ≤ (r.2.1 - p.phase).toNat) && decide ((r.2.1 - p.phase).toNat < 2 ^ 31))).length
        ∀ stands : Bool, (stands = true ↔ PhaseReady p ∧ group.getLsbD 127 = true) →
        let tells : Bool := stands != p.announced && s.trunk.exchanges
        ∃ (u : State) (q : Phaser), exec (.phaseAnnounce p.eng p.idx rank phase ready) s = .next u ∧ Becomes s u p q ∧
          (stands = true → group.toNat / 2 ^ 16 % 2 ^ 16 ≤ count → q = completed { p with remote := heard }) ∧
          (stands = false ∨ count < group.toNat / 2 ^ 16 % 2 ^ 16 →
            q = { p with remote := heard, announced := if tells then stands else p.announced }) ∧
          u.out = s.out ++ if tells then [OutMsg.announce p.handle p.phase stands] else []))

/-- Phasers: their forms and the completion of phases (R23, R359, R361, R362, R365, R369). -/
def Obligations.Phasers : Prop := Sys2Proof.Claims.PhaserForms ∧ Sys2Proof.Claims.PhaseCompletion

/-- R359: an index of an engine never holds two phasers, and no step changes that; the phasers of a manifest keep it too. -/
def Obligations.PhaserIndicesKept : Prop :=
  ∀ s t : State,
    (OneEach s.phasers ∧ ∀ m ∈ s.trunk.manifests.toList, ∀ x, m = some x → OneEach x.phasers) → step s = .next t →
    OneEach t.phasers ∧ ∀ m ∈ t.trunk.manifests.toList, ∀ x, m = some x → OneEach x.phasers

namespace Sys2Proof.Claims

/-- The product of the extents of some levels. -/
def extents (l : List Level) : Nat := (l.map fun x => x.extm1.toNat + 1).prod
/-- The induction value of level `i` (R331): the digit of the level in the index of its own kind, levels behind it varying faster, times
the level's step. -/
def inductionValue (l : List Level) (sidx p i : Nat) : BitVec 64 :=
  match l[i]? with
  | some x =>
    let same := (l.drop (i + 1)).filter fun y => decide (y.kind = 0) == decide (x.kind = 0)
    BitVec.ofInt 64 (((if x.kind = 0 then p else sidx) / extents same % (x.extm1.toNat + 1) : Nat) * x.step.toInt)
  | none => 0
/-- A point of a task has run, or its run is the one that ends (R334, R442). -/
def HasRun (w : Walk) (p : Nat) : Prop := p < w.basep ∨ (w.basep ≤ p ∧ w.map.getLsbD (p - w.basep) = true) ∨ p = w.p
/-- A part of grovepwr (R378). -/
def pwrField (s : State) (g : GroveNum) (lo n : Nat) : Nat := (s.grove g).pwr.toNat / 2 ^ lo % 2 ^ n
/-- The cores of a grove whose lease is active. -/
def leaseholders (s : State) (g : GroveNum) : Nat :=
  ((List.range 16).filter fun i => let c := s.core (g ++ BitVec.ofNat 4 i)
    c.busy && c.ctx.lease.held && !c.ctx.lease.suspended).length

end Sys2Proof.Claims

/-- R334, R335, R370, R371, R372, R373: the end of a body run begins the next one at the lowest point not yet run, with the induction values
on their way to a10 and on; TASKEND, and TEND behind the last run, end the task and free its core; LAUNCH hands a packet to queue 0 of
the partition; SWPT goes to the granted level's schedule at a switch point. -/
def Obligations.TaskForms : Prop :=
  ∀ s : State, s.ctx.inHandler = false →
    (s.ctx.csr.segOpen = false → s.ctx.csr.suspect = false →
      (s.ctx.walk.run = 2 → s.ctx.kern.order = true → s.ctx.kern.levels.length ≤ 6 → s.ctx.walk.basep ≤ s.ctx.walk.p →
        s.ctx.walk.p < s.ctx.walk.basep + 4096 →
        ∀ q, q < extents (s.ctx.kern.levels.filter fun l => l.kind = 0) → ¬HasRun s.ctx.walk q → (∀ j < q, HasRun s.ctx.walk j) →
        ∃ u : State, exec .tend s = .next u.slotDone ∧ u.ctx.walk.run = 2 ∧ u.ctx.walk.p = q ∧ u.ctx.entry = true ∧
          u.ctx.task.redirects = [] ∧ u.ctx.task.taken = none ∧
          u.ctx.task.issue.map (·.jump) = s.ctx.task.issue.map (fun _ => some (s.ctx.kern.entryOf s.ctx.sched 2)) ∧
          u.ctx.task.landing = s.ctx.task.landing ++ (List.range s.ctx.kern.levels.length).map fun i =>
            ⟨1, .aQuiet ⟨(10 + i) % 16, Nat.mod_lt _ (by decide)⟩,
              .scalar ⟨inductionValue s.ctx.kern.levels s.ctx.sidx q i, 0⟩, 0, false⟩) ∧
      (s.orderWait = none → s.ctx.boot = false → (∀ i : Fin 16, (s.ctx.queues[i]).entries = [] ∧ (s.ctx.maps[i]).desc = none) →
        s.ctx.acks = [] → ∃ u : State, exec .taskend s = .next u.slotDone ∧ (s.ctx.walk.run = 3 → exec .tend s = .next u.slotDone) ∧
          (u.core s.cur).busy = false ∧ (u.core s.cur).spad = (s.core s.cur).spad ∧
          ∀ t, t ∈ u.tasks → t ∈ s.tasks ∧ ¬(t.part = s.ctx.part ∧ t.lid = s.ctx.lid ∧ t.sidx = s.ctx.sidx))) ∧
    (∀ (a : Reg) (l : List Byte) (s1 : State), (s.thr.readD a).tag = 0 →
      let p := (s.thr.readD a).val.toNat % 2 ^ 32
      p % 64 = 0 → p + 64 ≤ s.ctx.kern.spad → s.localRead p 64 = (.ok (l, false), s1) → l.length = 64 → Free s1 0 →
      ((s1.part s1.ctx.part).queues[(0 : Fin 16)]).length < 256 → (s1.part s1.ctx.part).queues[(0 : Fin 16)] ≠ [] →
      ((s1.part s1.ctx.part).queues[(0 : Fin 16)]).all (·.headed) = true →
      leNat ((l.drop 40).take 4) = 0 → leNat ((l.drop 44).take 4) = 0 →
      ∃ u : State, exec (.launch a) s = .next u.slotDone ∧
        (u.part s1.ctx.part).queues[(0 : Fin 16)] = (s1.part s1.ctx.part).queues[(0 : Fin 16)] ++
          [⟨l, s1.seqno, .launch, [], false⟩]) ∧
    (∀ n : BitVec 12, s.granted s.cur ≠ 3 →
      ((∀ r ∈ s.ctx.kern.switches, r.point.toNat ≠ n.toNat) → exec (.swpt n) s = .next s.slotDone) ∧
      (∀ r c, s.ctx.kern.switches = [r] → r.point.toNat = n.toNat → s.granted s.cur ≠ s.ctx.sched →
        (∀ l ∈ s.ctx.task.landing, l.dist < 2) → s.ctx.task.redirects = [] → s.ctx.task.taken = none →
        s.ctx.kern.sched? (s.granted s.cur) = some c →
        exec (.swpt n) s = .next (s.onCtx fun x => { x with
          sched := s.granted s.cur
          task := { x.task with issue := x.task.issue.map fun i => { i with jump := some (c.code +
            (if s.granted s.cur = 0 then r.dense else if s.granted s.cur = 1 then r.medium else r.relaxed).setWidth 52) } } }
          ).slotDone))

/-- R374, R378, R380, R381: LEASE leaves a request and LEASEREL none, and neither leaves a lease held; the grove grants or refuses the
request by the first code that applies; a lease whose budget is spent ends. -/
def Sys2Proof.Claims.Leases : Prop :=
  (∀ (s : State) (a : Reg), s.ctx.inHandler = false →
    (∃ u : State, exec .leaserel s = .next u.slotDone ∧ u.ctx.lease.held = false ∧ u.ctx.lease.request = none ∧ u.thr = s.thr) ∧
    ((s.thr.readD a).tag = 0 →
      let v := (s.thr.readD a).val
      (v.toNat / 2 ^ 32 = 0 ∨ v.toNat % 2 ^ 32 / 2 ≠ 0 → exec (.lease a) s = .next (traps s 0x13 v)) ∧
      (v.toNat / 2 ^ 32 ≠ 0 → v.toNat % 2 ^ 32 < 2 → ∃ u : State, exec (.lease a) s = .next u.slotDone ∧
        u.ctx.lease.held = false ∧ u.ctx.lease.request = some (BitVec.ofNat 32 (v.toNat / 2 ^ 32), BitVec.ofNat 2 v.toNat) ∧
        u.thr = s.thr))) ∧
  (∀ (s : State) (c : CoreNum) (n : BitVec 32) (level : BitVec 2), (s.core c).busy = true → (s.core c).ctx.boot = false →
    (s.core c).ctx.lease.request = some (n, level) →
    let g := groveOf c
    let code : Nat := if pwrField s g 0 2 = 3 ∨ pwrField s g 2 2 = 3 then 4
      else if level.toNat < pwrField s g 36 2 then 1
      else if pwrField s g 38 5 ≤ leaseholders s g then 2
      else if pwrField s g 0 2 ≤ level.toNat then 3 else 0
    ∃ u : State, exec (.leaseDecision c) s = .next u ∧
      (code = 0 → (u.core c).ctx.lease = ⟨BitVec.ofNat 32 (min n.toNat (2 ^ pwrField s g 43 5)), true, false, level, 0, none⟩) ∧
      (code ≠ 0 → (u.core c).ctx.lease = { (s.core c).ctx.lease with refused := BitVec.ofNat 3 code, request := none }) ∧
      (u.core c).ctx.task = (s.core c).ctx.task) ∧
  ∀ (s : State) (c : CoreNum), (s.core c).busy = true → (s.core c).ctx.lease.held = true →
    ((s.core c).ctx.lease.suspended = false → (s.core c).ctx.lease.remain = 0 → ∃ u : State, exec (.leaseExpiry c) s = .next u ∧
      (u.core c).ctx.lease.held = false ∧ (u.core c).ctx.task = (s.core c).ctx.task) ∧
    ((s.core c).ctx.lease.remain ≠ 0 → exec (.leaseExpiry c) s = .next s)

/-- R378, R383, R384: at the end of a delivery its last macro-instruction has done its steps, and the stripes run filler while the slew
limiter is on, and else they are idle; a slew step takes SLEWEN and RAMP as they stand, the first
filler core leaves, and the step index rises by one where a start waited or still waits and else falls by one, not below the
smallest step whose cap reaches the active cores. -/
def Sys2Proof.Claims.SlewLimiter : Prop :=
  (∀ (s : State) (c : CoreNum), (s.core c).stripes = .delivering → ∃ u : State, exec (.mmaDeliveryEnd c) s = .next u ∧
    u.core c = { s.core c with
      stripes := if (s.grove (groveOf c)).slewOn then .filler else .idle, macros := (u.core c).macros } ∧
    (∀ l m, (s.core c).macros = l ++ [m] →
      (u.core c).macros = (if 8 ≤ m.steps then [] else l) ++ [{ m with prog := m.steps }]) ∧
    (∀ e, e ≠ c → u.core e = s.core e) ∧ u.mem = s.mem ∧ u.parts = s.parts) ∧
  ∀ (s : State) (g : GroveNum),
    (∃ u : State, exec (.slewStep g) s = .next u ∧ (u.grove g).slewOn = (s.grove g).pwr.getLsbD 15 ∧
      (u.grove g).rampNow = (s.grove g).ramp ∧ (u.grove g).pwr = (s.grove g).pwr) ∧
    ((s.grove g).pwr.getLsbD 15 = false → ∃ u : State, exec (.slewStep g) s = .next u ∧
      ∀ c : CoreNum, u.core c = { s.core c with
        stripes := if groveOf c = g ∧ (s.core c).stripes = .filler then .idle else (s.core c).stripes }) ∧
    ((s.grove g).pwr.getLsbD 15 = true → ∀ c t, (s.grove g).fillers = c :: t →
      (∀ x ∈ c :: t, (s.core x).stripes = .filler ∧ groveOf x = g) →
      ∃ u : State, exec (.slewStep g) s = .next u ∧ (u.grove g).fillers = t ∧
        (u.core c).stripes = .idle ∧ (∀ e, e ≠ c → u.core e = s.core e) ∧ (u.grove g).waited = false ∧
        let busy := ((List.range 16).filter fun i => (u.core (g ++ BitVec.ofNat 4 i)).stripes ≠ .idle).length
        let cap (j : Nat) : Nat := (s.grove g).ramp.toNat / 16 ^ j % 16 + 1
        let waiting : Prop := ∃ i < 16,
          (s.core (g ++ BitVec.ofNat 4 i)).busy = true ∧ (s.core (g ++ BitVec.ofNat 4 i)).ctx.wait = .slew
        ((s.grove g).waited = true ∨ waiting → (u.grove g).step.toNat = min 15 ((s.grove g).step.toNat + 1)) ∧
        ((s.grove g).waited = false → ¬waiting → ∀ j < 16, busy ≤ cap j → (∀ i < j, cap i < busy) →
          (u.grove g).step.toNat = max j ((s.grove g).step.toNat - 1)))

/-- Leases and the slew limiter (R374, R378, R380, R381, R383, R384). -/
def Obligations.LeasesAndSlew : Prop := Sys2Proof.Claims.Leases ∧ Sys2Proof.Claims.SlewLimiter

/-! ## Issue, answers and requests -/

namespace Sys2Proof.Claims

/-- A request of the task that is outstanding on a core and to be delivered to b`r`: its number, and what serves it, which is not a die
in pollard mode; it does not wait to be sent again. -/
def Outstanding (s : State) (c : CoreNum) (id : Nat) (p : Pend) (r : Fin 16) : Prop :=
  (s.core c).busy = true ∧ (s.core c).ctx.request? id = some (false, p) ∧ p.dest = .b r ∧ s.siteShed p.way.site = false ∧
  p.way.waiting = false
/-- One request of a core changes; nothing else does. -/
def onRequestOf (s : State) (c : CoreNum) (id : Nat) (f : Pend → Pend) : State :=
  s.onCore c fun k => { k with ctx := k.ctx.onRequest id f }
/-- What a request to other modules sends, where they have a path (R319). -/
def sends (s : State) (l : List Sent) : List OutMsg := l.filterMap fun r => (s.path r.module).map fun x => .request x r
/-- The task's register b`r` has received a value, and the request is off the scoreboard (R42). -/
def delivered (t : Thread) (r : Fin 16) (v : TVal) (p : Pend) : Thread :=
  { t with b := t.b.set r v, board := t.board.filter fun q => !(q.id == p.id) }
/-- A change of the task on a core; nothing else changes. -/
def onTaskOf (s : State) (c : CoreNum) (f : Thread → Thread) : State :=
  s.onCore c fun k => { k with ctx := { k.ctx with task := f k.ctx.task } }
/-- A core after the replays of a bundle (R38): each bank counts the registers that its ports read beyond the first, holding at the top. -/
def Replayed (k k' : Core) (ports : List (BitVec 2 × BitVec 6)) : Prop :=
  ∀ b : Fin 4, (k'.bankloss[b]).toNat = min (2 ^ 32 - 1) ((k.bankloss[b]).toNat +
    (((ports.filter fun p => p.1 ≠ 0 ∧ p.2.toNat % 4 = b.val).map (·.2)).toFinset.card - 1))
/-- A bundle of 16 clean bytes of this module is fetched at the program counter of a core that may issue (R66, R427), and the core holds
no other bytes that it fetched there before (R65). -/
def Fetched (s : State) (l : List Byte) (u : State) : Prop :=
  let s0 := s.onCore s.cur fun k => { k with granted := false }
  (s.core s.cur).busy = true ∧ (s.core s.cur).saving = false ∧ s.thr.issue = none ∧ s.stopDue = false ∧ s.ctx.pendTrap = none ∧
  s.ctx.entry = false ∧
  ∃ x n xs s1, s0.xlateSpan s.ctx.agent .fetch (BitVec.ofNat 64 (s.thr.pc.toNat * 16)) 16 = (.ok ((x, n) :: xs), s1) ∧
    isRemote ((x, n) :: xs) = false ∧ s1.shedPieces ((x, n) :: xs) = false ∧
    s1.readPieces s.ctx.part ((x, n) :: xs) = (l, false, u) ∧ l.length = 16 ∧
    ∀ old, smGet none x.pa (smGet [] s.cur.toNat u.fetched) = some old → old.toNat = spelled 16 fun j => l.getD j 0
/-- Word `i` of a bundle's bytes (R52). -/
def wordAt (l : List Byte) (i : Nat) : BitVec 32 := BitVec.ofNat 32 (spelled 4 fun j => l.getD (4 * i + j) 0)

end Sys2Proof.Claims

/-- R66, R35, R38, R62, R426: BUNDLE_ISSUE on the core whose turn it is puts the fetched bundle into issue with what its ports read, from the slot
to resume at, and counts its bank replays; a bundle that does not decode raises the illegal-instruction trap with its slot and
case; an occupied core with a bundle in issue keeps it, and one whose context is being saved issues none. -/
def Obligations.BundleIssue : Prop :=
  (∀ (s : State) (l : List Byte) (u : State), Fetched s l u → u.cur = s.cur →
    let wa := wordAt l 0
    (∀ b, decodeBundle u.trunk.caps wa (wordAt l 1) (wordAt l 2) (wordAt l 3) = .ok b →
      u.thr.boardWaits b u.thr.resume = false → (u.ctx.longBusy = false ∨ isLong b.c = false) → u.engineWait b.d = .none →
      ∃ v : State, exec (.bundleIssue s.cur) s = .next v ∧ v.cur = s.cur ∧
        v.thr = { u.thr with issue := some ⟨wa, wordAt l 1, wordAt l 2, wordAt l 3,
          (headerPorts wa).map fun p => (p.1, u.thr.m[(⟨p.2.toNat, p.2.isLt⟩ : Fin 64)]), u.thr.resume, none⟩ } ∧
        Replayed (u.core s.cur) (v.core s.cur) (headerPorts wa) ∧ (v.core s.cur).spad = (u.core s.cur).spad ∧
        v.ctx.csr = u.ctx.csr ∧ v.mem = u.mem ∧ v.parts = u.parts ∧ SameRest u v) ∧
    (∀ sl n, decodeBundle u.trunk.caps wa (wordAt l 1) (wordAt l 2) (wordAt l 3) = .error (sl, n) → n < 16 →
      ∃ f, exec (.bundleIssue s.cur) s = .next { { u with fetched := f }.takeTrap u.thr.resume 0x01
        (BitVec.ofNat 64 (n * 2 ^ 60 + (match sl with | .a => 0 | .b => 1 | .c => 2 | .d => 3))) with cur := s.cur })) ∧
  ∀ (s : State) (c : CoreNum), ((s.core c).busy = false ∨ (s.core c).ctx.thr.issue.isSome = true ∨ (s.core c).saving = true) →
    exec (.bundleIssue c) s = .next s

/-- R42, R224, R229, R230, R263, R268, R486, R511: what an outstanding request comes to: its value reaches its register, with the bytes that
were read here beside those of another module; one that a shed die had not performed is performed then; an
acknowledgement retires its write, a timeout and a refusal end it with poison or, for a write, as lost. -/
def Sys2Proof.Claims.Answers : Prop :=
  ∀ (s : State) (c : CoreNum),
    (∀ id p r, Outstanding s c id p r →
      (∀ v data bad, p.val = .scalar v →
        exec (.loadComplete c id data bad) s = .next (onTaskOf s c fun t => delivered t r v p)) ∧
      (∀ a n signed here worse data bad, p.val = .remote a n signed here worse → here.length = n → n ≤ 8 → ∃ v,
        Loaded signed (worse || bad) n (fun i => ((here[i]?).join).getD (BitVec.ofNat 8 (data.toNat / 256 ^ i))) v ∧
        exec (.loadComplete c id data bad) s = .next (onTaskOf s c fun t => delivered t r v p)) ∧
      (∀ e a n signed data bad, p.val = .later (.spad e a n) (.load signed) → (s.core e).spadErr = [] → ∃ v,
        Loaded signed ((s.core e).spadBad a n) n (fun i => spadByte s e (a + i)) v ∧
        exec (.loadComplete c id data bad) s = .next (onTaskOf s c fun t => delivered t r v p)) ∧
      ((∃ v, p.val = .scalar v) ∨ (∃ a n g h w, p.val = .remote a n g h w) → p.atomic = false →
        (p.way.site.isSome = true → ∃ u : State, exec (.requestTimeout c (.load id)) s = .next u ∧ u.cur = s.cur ∧
          (u.core c).ctx.task = delivered (s.core c).ctx.task r ⟨0, 2⟩ p ∧ (u.core c).ctx.lost = (s.core c).ctx.lost ∧
          (u.core c).spad = (s.core c).spad) ∧
        (p.way.site = some 6 → ∃ u : State, exec (.refusedResponse c (.load id)) s = .next u ∧ u.cur = s.cur ∧
          (u.core c).ctx.task = delivered (s.core c).ctx.task r ⟨0, 2⟩ p ∧ (u.core c).spad = (s.core c).spad))) ∧
    ∀ i a, (s.core c).busy = true → (s.core c).ctx.acks[i]? = some a → s.siteShed a.way.site = false → a.way.waiting = false →
      let lost : State := s.onCore c fun k => { k with ctx := { k.ctx with
        acks := k.ctx.acks.filter (fun x => x.id ≠ a.id), lost := k.ctx.lost ++ [(a.id, a.addr)] } }
      exec (.writeAcknowledged c i) s =
        .next (s.onCore c fun k => { k with ctx := { k.ctx with acks := k.ctx.acks.eraseIdx i } }) ∧
      exec (.requestTimeout c (.write i)) s = .next lost ∧
      (a.way.site = some 6 → exec (.refusedResponse c (.write i)) s = .next lost)

/-- R261, R263, R309, R486, R290, R308: a NACK and a dormant-retry leave a request outstanding: after a NACK it waits, RETRIES of a port counts
the flit, and it is sent again when its delay is over, if it has a path; a dormant-retry has it sent again at once. A queue unit held for a page is tried
again. -/
def Sys2Proof.Claims.Resends : Prop :=
  ∀ (s : State) (c : CoreNum),
    (∀ id hand p, (s.core c).ctx.request? id = some (hand, p) →
      (∀ q ∈ (s.core c).ctx.task.board ++ (s.core c).ctx.hand.board, q.id = id → q = p) →
      (p.way.site ≠ some 6 → exec (.dormantRetry c (.load id)) s =
        .next (onRequestOf s c id fun q => { q with dormant := q.dormant || q.way.site.isSome })) ∧
      (p.way.site = some 6 → s.stuck p.way.sent = false → exec (.dormantRetry c (.load id)) s =
        .next { onRequestOf s c id (fun q => { q with dormant := true, way := { q.way with waiting := false } }) with
          out := s.out ++ sends s p.way.sent }) ∧
      ∀ code : BitVec 4, ∃ u : State, exec (.nackResend c (.load id) code) s = .next u ∧
        (p.way.site = some 6 → p.way.waiting = false → u.core c = (onRequestOf s c id fun q => { q with
          dormant := q.dormant || code = 3, way := { q.way with waiting := true } }).core c ∧ u.out = s.out) ∧
        (p.way.site = some 6 → p.way.waiting = true → s.stuck p.way.sent = false → u.core c =
          (onRequestOf s c id fun q => { q with dormant := q.dormant || code = 3, way := { q.way with waiting := false } }).core c ∧
          u.out = s.out ++ sends s p.way.sent) ∧
        (∀ e, e ≠ c → u.core e = s.core e) ∧ u.mem = s.mem ∧ u.parts = s.parts ∧ SameRest s u ∧
        ∀ p : Fin 36, (u.trunk.fabports[p]).toNat = if p.val = Config.retryPort s.tick ∧
          (s.trunk.fabports[p]).toNat % 2 ^ 16 ≠ 2 ^ 16 - 1 then (s.trunk.fabports[p]).toNat + 1 else (s.trunk.fabports[p]).toNat) ∧
    ∀ q : BitVec 4, (s.core c).busy = true → (s.core c).saving = false →
      ((queueOf s c q).held = false ∨ (queueOf s c q).nacked = true → exec (.pageWaitRetry c (.queue q)) s = .next s) ∧
      ((queueOf s c q).held = true → (queueOf s c q).nacked = false → ∃ u v : State,
        exec (.pageWaitRetry c (.queue q)) s = .next v ∧ exec (.queueUnitDone c q []) u = .next v ∧
        queueOf u c q = { queueOf s c q with held := false } ∧
        u.cur = s.cur ∧ u.mem = s.mem ∧ u.parts = s.parts ∧ SameRest s u)

/-- R23, R309, R471, R511: a request of another module: NOTREADY while MODID.VALID is 0, DORMANT from the write-back phase on, FULL for a full buffer; else a read of HBM
granules that memown serves to an owner gives their bytes and changes nothing, a write puts its bytes there, and bytes that reach neither
HBM nor the pool, or a granule that is not served, are refused. -/
def Sys2Proof.Claims.FabricRequests : Prop :=
  ∀ (s : State) (m : BitVec 18) (pa : BitVec 52) (n : BitVec 9) (data : List Byte) (poison g full : Bool),
    let read : FabricReq := ⟨m, pa, .read n, full⟩
    let write : FabricReq := ⟨m, pa, .write data poison g, full⟩
    let answers (r : FabricReq) (x : OutMsg) : Prop := exec (.fabricRequest r) s = .next { s with out := s.out ++ [x] }
    let served (a : Nat) : Prop := s.trunk.fabric (a / 2 ^ 30) = true ∧ s.trunk.owner (a / 2 ^ 30) ≠ 0xF
    (s.trunk.modid.getLsbD 31 = false → answers read (.nack 2 0) ∧ answers write (.nack 2 0)) ∧
    (s.trunk.modid.getLsbD 31 = true → 2 ≤ s.trunk.phase.toNat →
      answers read (.nack 3 (s.trunk.dormctl.setWidth 32)) ∧ answers write (.nack 3 (s.trunk.dormctl.setWidth 32))) ∧
    (s.trunk.modid.getLsbD 31 = true → s.trunk.phase.toNat < 2 →
      (full = true → answers read (.nack 1 0) ∧ answers write (.nack 1 0)) ∧
      (full = false →
        (∀ k : Nat, 1 ≤ k → (k = n.toNat ∨ k = data.length) → pa.toNat + k ≤ 2 ^ 39 →
          ((∃ i < k, ¬served (pa.toNat + i)) → k ≤ 2 ^ 30 →
            (k = n.toNat → answers read .refused) ∧ (k = data.length → answers write .refused)) ∧
          ((∀ i < k, served (pa.toNat + i)) →
            s.siteShed (some (BitVec.ofNat 3 (siteOf pa.toNat))) = false →
            (k = n.toNat → Quiet s → ∃ bad : Bool,
              (bad = true ↔ ∃ i < k, s.mem.marked ((pa.toNat + i) / 64) true = true) ∧
              answers read (.fabricData ((List.range k).map fun i => s.byteAt (pa.toNat + i)) bad)) ∧
            (k = data.length → ∃ u : State, exec (.fabricRequest write) s = .next u ∧
              u.mem = (s.writePhys none pa.toNat data poison).mem ∧ u.cores = s.cores ∧ u.parts = s.parts ∧
              u.out = s.out ++ if g = true then [.ack] else []))) ∧
        (2 ^ 39 ≤ pa.toNat → pa.toNat + n.toNat ≤ 2 ^ 51 → 1 ≤ n.toNat → answers read .refused)))

/-- Answers to requests, and requests of other modules (R23, R42, R224, R229, R230, R261, R263, R290, R309, R471, R486, R511). -/
def Obligations.Requests : Prop :=
  Sys2Proof.Claims.Answers ∧ Sys2Proof.Claims.Resends ∧ Sys2Proof.Claims.FabricRequests

/-! ## Links, the capacity tier, what comes from outside -/

namespace Sys2Proof.Claims

/-- A register write of the host's physical function or Glidin: performed, or answered Unsupported Request where it comes over the host link
while the module is dormant; a supervisor's has no effect (R409, R471). -/
def Writes (s : State) (w : Writer) (i : Instr) (t : State) : Prop :=
  (∀ p, w = .supervisor p → exec i s = .next s) ∧
  (w = .glidin ∨ (w = .host ∧ s.trunk.phase.toNat < 2) → exec i s = .next t) ∧
  (w = .host → 2 ≤ s.trunk.phase.toNat → exec i s = .next { s with out := s.out ++ [.unsupported] })
/-- The same for a register of a partition's blocks, which that partition's supervisor may write too. -/
def PartWrites (s : State) (w : Writer) (p : PartNum) (i : Instr) (t : State) : Prop :=
  (∀ q, w = .supervisor q → q ≠ p → exec i s = .next s) ∧
  (w = .supervisor p ∨ w = .glidin ∨ (w = .host ∧ s.trunk.phase.toNat < 2) → exec i s = .next t) ∧
  (w = .host → 2 ≤ s.trunk.phase.toNat → exec i s = .next { s with out := s.out ++ [.unsupported] })
/-- A change of the trunk die's registers; nothing else changes. -/
def trunkTo (s : State) (t : Trunk) : State := { s with trunk := t }
/-- KEEP of port `i`. -/
def keepOf (s : State) (i : Nat) : Bool := (s.trunk.fabports[i]?).any fun r => r.getLsbD 28
/-- Other ports than `i` with KEEP. -/
def keepers (s : State) (i : Nat) : Nat := ((List.range 36).filter fun j => j ≠ i && keepOf s j).length
/-- A line lies in the regions of a pool route entry (R312). -/
def InRegions (e : BitVec 64) (blk : Nat) : Prop :=
  e.toNat % 2 ^ 21 ≤ regionOf (blk * 64) ∧ regionOf (blk * 64) ≤ e.toNat % 2 ^ 21 + e.toNat / 2 ^ 32 % 2 ^ 21
/-- A feature is on the capability list (R1, R24). -/
abbrev Announced (s : State) (id : BitVec 12) : Prop := id ∈ s.trunk.caps

end Sys2Proof.Claims

/-- R308, R512, R470, R311, R23, R315, R313, R1: a fabric port is up once it has trained, from step 8 of the start on and while it is not dark; fabport
takes MODE, which UALink needs announced, KEEP and its other fields, keeps RETRIES, and goes down where MODE changes; MODID is written once; a CXL port of an
announced capacity tier trains; a snoop returns the dirty line to its device, and the sharer's write lands there; poolq starts an operation on a severed entry,
refuses one by its code, and its end writes back or drops every quarantined line of the entry's regions and clears SEVERED. -/
def Sys2Proof.Claims.LinkRegisters : Prop :=
  ∀ (s : State) (w : Writer) (v : BitVec 32) (q : BitVec 64) (port : BitVec 6),
    (∀ p : Fin 36, port.toNat = p.val →
      ((8 ≤ s.trunk.step.toNat ∨ s.trunk.done = true) → s.trunk.seedling = false →
        (s.trunk.phase.toNat < 2 ∨ keepOf s p.val = true) → (s.trunk.phase = 5 → s.trunk.charged = true) →
          exec (.fabricLinkTrained port) s =
          .next (trunkTo s { s.trunk with fabports := s.trunk.fabports.set p (s.trunk.fabports[p] ||| 0x80000000) })) ∧
      (s.trunk.phase.toNat = 5 → s.trunk.charged = false → exec (.fabricLinkTrained port) s = .next s) ∧
      ∃ r : BitVec 32, Writes s w (.fabportWrite w port v) (trunkTo s { s.trunk with fabports := s.trunk.fabports.set p r }) ∧
        (∀ i < 16, r.getLsbD i = (s.trunk.fabports[p]).getLsbD i) ∧ (∀ i, 16 ≤ i → i < 24 → r.getLsbD i = v.getLsbD i) ∧
        (∀ i, 24 ≤ i → i < 28 → r.getLsbD i = false) ∧
        (r.getLsbD 28 = if v.getLsbD 28 = true ∧ 4 ≤ keepers s p.val then keepOf s p.val else v.getLsbD 28) ∧
        (∀ i, i = 29 ∨ i = 30 → r.getLsbD i = if v.getLsbD 30 = true ∨ (v.getLsbD 29 = true ∧ ¬Announced s 0x003) then (s.trunk.fabports[p]).getLsbD i else v.getLsbD i) ∧
        (r.getLsbD 31 = true ↔ (s.trunk.fabports[p]).getLsbD 31 = true ∧
          ∀ i, i = 29 ∨ i = 30 → r.getLsbD i = (s.trunk.fabports[p]).getLsbD i)) ∧
    (s.trunk.seedling = true → exec (.fabricLinkTrained port) s = .next s) ∧
    exec (.portModuleLosesValid port) s = .next s ∧
    (s.trunk.modid.getLsbD 31 = false → ∃ r : BitVec 32, (∀ i < 32, r.getLsbD i = (v.getLsbD i && (i < 18 || i = 31))) ∧
      Writes s w (.modidWrite w v) (trunkTo s { s.trunk with modid := r })) ∧
    (s.trunk.modid.getLsbD 31 = true → Writes s w (.modidWrite w v) s) ∧
    (∀ c : BitVec 1, (¬Announced s 0x002 → exec (.cxlLinkTrained c) s = .next s) ∧ (Announced s 0x002 → exec (.cxlLinkTrained c) s =
      .next (trunkTo s { s.trunk with cxlUp := s.trunk.cxlUp ||| (if c = 0 then 1 else 2) }))) ∧
    (∀ (line : BitVec 52) (write : Option (BitVec 6 × List Byte)),
      let blk := line.toNat / 64
      let away : Prop := line.toNat < 2 ^ 51 ∨ ∃ n e, s.trunk.route (regionOf (blk * 64)) = some (n, e) ∧ e.getLsbD 61 = true
      (away → exec (.backInvalidationSnoop ⟨line, write⟩) s = .next s) ∧
      (¬away → ∃ u : State, exec (.backInvalidationSnoop ⟨line, write⟩) s = .next u ∧
        (s.mem.line? blk = none → u.out = s.out) ∧
        (∀ l, s.mem.line? blk = some l → u.out = s.out ++ [.fabricData l.data (finding l.check).bad]) ∧
        u.cores = s.cores ∧ u.parts = s.parts ∧ u.trunk = s.trunk ∧
        (Memory.wf s.mem = true → (∀ l, s.mem.line? blk = some l → l.data.length = 64) → u.mem.line? blk = none ∧
          (∀ a, a / 64 ≠ blk → smGet 0 a u.mem.bytes = smGet 0 a s.mem.bytes) ∧
          ∀ i < 64, smGet 0 (blk * 64 + i) u.mem.bytes =
            if (write.any fun x => x.1.toNat ≤ i && i < x.1.toNat + x.2.length) = true
            then (write.getD (0, [])).2.getD (i - (write.getD (0, [])).1.toNat) 0 else s.mem.byte (blk * 64 + i) true))) ∧
    (∀ op : BitVec 2, op = 1 ∨ op = 2 → Announced s 0x002 → s.trunk.poolOp = none → q.toNat / 2 ^ 62 = op.toNat →
      let n := q.toNat % 256
      let e := smGet 0 n s.trunk.poolrte
      let up := s.trunk.cxlUp.getLsbD (if e.getLsbD 62 then 1 else 0)
      let code : Nat := if e.getLsbD 61 = false then 2 else if op = 1 ∧ up = false then 1 else 0
      let t := trunkTo s { s.trunk with
        poolq := BitVec.ofNat 64 ((if code = 0 then 2 ^ 55 else 0) + code * 2 ^ 48 + n)
        poolOp := if code = 0 then some op else none }
      if op = 1 then Writes s w (.poolqWriteBack w q) t else Writes s w (.poolqDiscard w q) t) ∧
    (s.trunk.poolOp = none → exec .poolqDone s = .next s) ∧
    ∀ op : BitVec 2, op = 1 ∨ op = 2 → s.trunk.poolOp = some op →
      let n := s.trunk.poolq.toNat % 256
      let e := smGet 0 n s.trunk.poolrte
      e.getLsbD 61 = true → (op = 1 → s.trunk.cxlUp.getLsbD (if e.getLsbD 62 then 1 else 0) = true) →
      ∃ u : State, exec .poolqDone s = .next u ∧ u.trunk.poolOp = none ∧ u.trunk.poolq.toNat = n ∧
        (smWf 0 s.trunk.poolrte = true → ∀ k, smGet 0 k u.trunk.poolrte = if k = n then e &&& ~~~(1#64 <<< 61)
          else smGet 0 k s.trunk.poolrte) ∧
        (∀ x, x ∈ u.mem.quarantine ↔ x ∈ s.mem.quarantine ∧ ¬InRegions e x.1) ∧
        (op = 2 → u.mem.bytes = s.mem.bytes ∧ u.mem.check = s.mem.check) ∧
        (op = 1 → Memory.wf s.mem = true → (∀ x ∈ s.mem.quarantine, x.2.data.length = 64) →
          ∀ x ∈ s.mem.quarantine, InRegions e x.1 → smGet 0 x.1 u.mem.check = x.2.check ∧
            ∀ i < 64, smGet 0 (x.1 * 64 + i) u.mem.bytes = x.2.data.getD i 0) ∧ u.cores = s.cores ∧ u.parts = s.parts

/-- R314: the loss of a CXL link takes the port down and severs every valid entry of it: their dirty lines go to quarantine, no other
entry changes, and a write of a saved task is acknowledged no more only as a lost one. A port that is down loses nothing. -/
def Sys2Proof.Claims.LinkLoss : Prop :=
  ∀ (s : State) (c : BitVec 1),
    (s.trunk.cxlUp.getLsbD c.toNat = false → exec (.cxlLinkLoss c) s = .next s) ∧
    (s.trunk.cxlUp.getLsbD c.toNat = true → ∃ u : State, exec (.cxlLinkLoss c) s = .next u ∧
      (∀ i < 2, u.trunk.cxlUp.getLsbD i = (s.trunk.cxlUp.getLsbD i && i ≠ c.toNat)) ∧
      u.trunk.poolrte = (s.trunk.poolrte.map fun e => (e.1,
        if e.2.getLsbD 63 = true ∧ e.2.getLsbD 62 = decide (c = 1) then e.2 ||| (1#64 <<< 61) else e.2)) ∧
      (smSorted none s.mem.dirty = true → ∀ x ∈ s.mem.dirty, ∀ n e, u.trunk.route (regionOf (x.1 * 64)) = some (n, e) →
        e.getLsbD 61 = true → x ∈ u.mem.quarantine) ∧
      (∃ f : Ctx → List Nat, ∀ (i : Nat) (t : Task), s.tasks[i]? = some t → ∃ t' : Task, u.tasks[i]? = some t' ∧ t'.spad = t.spad ∧ t'.ctx.task = t.ctx.task ∧
        t'.ctx.acks = t.ctx.acks.filter (fun a => !(f t.ctx).contains a.id) ∧
        ∃ l, t'.ctx.lost = t.ctx.lost ++ l ∧ (∀ x ∈ l, x.1 ∈ f t.ctx) ∧ ∀ n ∈ f t.ctx, ∃ x ∈ l, x.1 = n) ∧
      u.tasks.length = s.tasks.length ∧ u.groves = s.groves ∧ u.launches = s.launches ∧ u.cur = s.cur)

/-- The links: their registers and their loss (R23, R308, R311, R313, R314, R315, R512). -/
def Obligations.Links : Prop := Sys2Proof.Claims.LinkRegisters ∧ Sys2Proof.Claims.LinkLoss

/-- R342, R343, R344, R345, R317, R417, R471: what reaches a partition from outside: a launch port takes 64-byte packets for an enabled partition,
counts other sizes, and ignores writes to its status; a launch message for another module or a broken envelope is answered with
NACK 4 and one for a full queue with NACK 1; a report message joins the event queue; the host window gives the bytes that
its partition's tables map, or Unsupported Request, and a plain access in RUN has no effect on it (a write moves the interface to ERROR). -/
def Obligations.OutsideRoutes : Prop :=
  ∀ (s : State) (off : BitVec 15) (bytes env pkt : List Byte),
    let p : PartNum := off.extractLsb' 12 3
    let q : Fin 16 := ⟨off.toNat / 256 % 16, Nat.mod_lt _ (by decide)⟩
    let a := off.toNat % 256
    let on : Bool := (s.part p).partctl.getLsbD 63
    let unsupported : State := { s with out := s.out ++ [.unsupported] }
    (2 ≤ s.trunk.phase.toNat → exec (.launchPortWrite off bytes) s = .next unsupported) ∧
    (s.trunk.phase.toNat < 2 →
      (on = false → exec (.launchPortWrite off bytes) s = .next s) ∧
      (on = true → ¬(a = 0 ∧ bytes.length = 64) →
        (0x40 ≤ a → a + bytes.length ≤ 0x48 → exec (.launchPortWrite off bytes) s = .next s) ∧
        (¬(0x40 ≤ a ∧ a + bytes.length ≤ 0x48) → ∃ n : BitVec 16,
          n.toNat = min 65535 (((s.part p).partial_[q]).toNat + 1) ∧
          exec (.launchPortWrite off bytes) s = .next (s.onPart p fun x => { x with partial_ := x.partial_.set q n }))) ∧
      (on = true → a = 0 → bytes.length = 64 → ((s.part p).queues[q]).length < 256 → (s.part p).queues[q] ≠ [] →
        ((s.part p).queues[q]).all (·.headed) = true → leNat ((bytes.drop 40).take 4) = 0 → leNat ((bytes.drop 44).take 4) = 0 →
        ∃ u : State, exec (.launchPortWrite off bytes) s = .next u ∧ u.cores = s.cores ∧ u.mem = s.mem ∧
          (u.part p).queues[q] = (s.part p).queues[q] ++ [⟨bytes, s.seqno, .port, [], false⟩])) ∧
    (s.trunk.modid.getLsbD 31 = false →
      exec (.launchMessage env pkt) s = .next { s with out := s.out ++ [.nack 2 0] } ∧
      exec (.launchReportMessage env) s = .next { s with out := s.out ++ [.nack 2 0] }) ∧
    (s.trunk.modid.getLsbD 31 = true → s.trunk.phase.toNat < 2 →
      (leNat (env.take 4) ≠ s.modnum.toNat →
        exec (.launchMessage env pkt) s = .next { s with out := s.out ++ [.nack 4 0] } ∧
        exec (.launchReportMessage env) s = .next s) ∧
      (∀ sender : BitVec 18, env = leBytes 4 s.modnum.toNat ++ [BitVec.ofNat 8 p.toNat, BitVec.ofNat 8 q.val, 0, 0] ++
          leBytes 4 sender.toNat ++ [0, 0, 0, 0] → on = true → (s.part p).schedctl.getLsbD 63 = true →
        (256 ≤ ((s.part p).queues[q]).length →
          exec (.launchMessage env pkt) s = .next { s with out := s.out ++ [.nack 1 0] }) ∧
        (((s.part p).queues[q]).length < 256 → (s.part p).queues[q] ≠ [] →
          ((s.part p).queues[q]).all (·.headed) = true → leNat ((pkt.drop 40).take 4) = 0 → leNat ((pkt.drop 44).take 4) = 0 →
          ∃ u : State, exec (.launchMessage env pkt) s = .next u ∧ u.cores = s.cores ∧ u.mem = s.mem ∧
            (u.part p).queues[q] = (s.part p).queues[q] ++ [⟨pkt, s.seqno, .message sender, [], false⟩])) ∧
      (∀ (sender : BitVec 18) (n : Nat), 8 ≤ n → n < 256 →
        env = leBytes 4 s.modnum.toNat ++ [BitVec.ofNat 8 n, BitVec.ofNat 8 q.val, 0, 0] ++ leBytes 4 sender.toNat ++ [0, 0, 0, 0] →
        ∃ u : State, exec (.launchMessage env pkt) s = .next u ∧ u.parts = s.parts ∧ u.mem = s.mem ∧ u.cores = s.cores ∧
          (∀ x, s.path sender true = some x → ∃ msg : List Byte, u.out = s.out ++ [.report x sender msg] ∧ msg.length = 48)) ∧
      (∀ rec_ : List Byte, rec_.length = 32 → on = true → (s.part p).schedctl.getLsbD 63 = true →
        env = leBytes 4 s.modnum.toNat ++ [BitVec.ofNat 8 p.toNat] ++ List.replicate 11 0 ++ rec_ →
        (s.part p).evqbase.getLsbD 0 = true → (s.part p).evqdrops = 0 →
        ((s.part p).evqtail - (s.part p).evqhead).toNat < 2 ^ (((s.part p).evqbase.extractLsb' 56 4).toNat + 6) →
        ∃ u : State, exec (.launchReportMessage env) s = .next u ∧ (u.part p).evqtail = (s.part p).evqtail + 1 ∧
          u.cores = s.cores ∧
          u.mem = (s.writePhys none ((((s.part p).evqbase.extractLsb' 12 40).toNat) * 4096 +
            32 * ((s.part p).evqtail.toNat % 2 ^ (((s.part p).evqbase.extractLsb' 56 4).toNat + 6))) rec_).mem)) ∧
    ∀ (va : BitVec 36) (n : BitVec 7) (tbit : Bool) (t : State),
      ((2 ≤ s.trunk.phase.toNat ∨ on = false) →
        exec (.hostWindowAccess p va (.read n) tbit) s = .next unsupported ∧
        exec (.hostWindowAccess p va (.write bytes) tbit) s = .next unsupported) ∧
      (s.trunk.phase.toNat < 2 → on = true →
        ((s.part p).partctl.toNat / 2 ^ 60 % 8 = 2 → tbit = false →
          exec (.hostWindowAccess p va (.read n) tbit) s = .next unsupported ∧
          ∃ u : State, exec (.hostWindowAccess p va (.write bytes) tbit) s = .next u ∧ (u.part p).keys = Vector.replicate 16 none) ∧
        (((s.part p).partctl.toNat / 2 ^ 60 % 8 ≠ 2 ∨ tbit = true) →
          (∀ l bad, s.readVirt ⟨p, none, false, false, false, false, false⟩ (va.setWidth 64) n.toNat = (.ok (l, bad), t) →
            exec (.hostWindowAccess p va (.read n) tbit) s = .next { t with out := t.out ++ [.hostData l bad] }) ∧
          (∀ e, s.xlateSpan ⟨p, none, false, false, false, false, false⟩ .write (va.setWidth 64) bytes.length = (.error e, t) →
            exec (.hostWindowAccess p va (.write bytes) tbit) s = .next { t with out := t.out ++ [.unsupported] }) ∧
          (∀ xs, s.xlateSpan ⟨p, none, false, false, false, false, false⟩ .write (va.setWidth 64) bytes.length = (.ok xs, t) →
            exec (.hostWindowAccess p va (.write bytes) tbit) s = .next (t.writePieces none false true xs bytes))))

/-! ## Partitions -/

namespace Sys2Proof.Claims

/-- TDI of a partition (R407): 0 unlocked, 1 locked, 2 run, 3 error. -/
def tdiOf (s : State) (p : PartNum) : Nat := (s.part p).partctl.toNat / 2 ^ 60 % 8
/-- partctl with TDI set. -/
def withTdi (s : State) (p : PartNum) (n : Nat) (u : State) : Prop :=
  tdiOf u p = n ∧ ∀ i < 64, i < 60 ∨ i = 63 → (u.part p).partctl.getLsbD i = (s.part p).partctl.getLsbD i
/-- A partition's queues are empty, its keys cleared, and its launches gone, but for those killed whose last contexts have not reached
the end of their bundle (R358): these start no further task. -/
def Ended (u : State) (p : PartNum) : Prop :=
  (∀ i : Fin 16, (u.part p).queues[i] = [] ∧ (u.part p).keys[i] = none) ∧
  ∀ l ∈ u.launches, l.part = p → l.killed.isSome = true ∧ l.nextTask = l.total ∧ l.skipped = []
/-- A message leaves the module, and nothing else changes. -/
def emits (s : State) (m : OutMsg) : State := { s with out := s.out ++ [m] }

end Sys2Proof.Claims

/-- R407, R408, R416: a write of partctl takes EN and GROVES; a grove that another partition holds, or that still holds a context, refuses
it with its LASTERR; removed groves are busy until GROVE_CHANGE_DONE zeroes their cores; clearing EN tears the partition down; a change of
GROVES of a locked partition moves TDI to ERROR. -/
def Obligations.PartitionControl : Prop :=
  (∀ (s : State) (w : Writer) (p : PartNum) (v : BitVec 64), ¬((s.part p).busy = true ∧ w = .host) →
    let q := s.part p
    let old : BitVec 16 := q.partctl.setWidth 16
    let new : BitVec 16 := v.setWidth 16
    let held : Prop := ∃ g < 16, new.getLsbD g = true ∧ old.getLsbD g = false ∧
      ((q.removing).getLsbD g = true ∨ ∃ p' : PartNum, p' ≠ p ∧ (s.part p').holds g = true)
    let inUse : Prop := ∃ g < 16, old.getLsbD g = true ∧ new.getLsbD g = false ∧
      ∃ e ∈ s.cores, e.2.busy = true ∧ e.2.ctx.part = p ∧ (groveOf (BitVec.ofNat 8 e.1)).toNat = g
    (¬(q.partctl.getLsbD 63 = true ∧ v.getLsbD 63 = false) →
      (¬(tdiOf s p = 1 ∨ tdiOf s p = 2) →
        (held → Writes s w (.partctlWrite w p v) (s.setPart p { q with lasterr := 1 })) ∧
        (¬held → inUse → Writes s w (.partctlWrite w p v) (s.setPart p { q with lasterr := 2 })) ∧
        (¬held → ¬inUse → ∃ r : BitVec 64,
          (∀ i < 64, r.getLsbD i = if i = 63 ∨ i < 16 then v.getLsbD i else q.partctl.getLsbD i) ∧
          Writes s w (.partctlWrite w p v) (s.setPart p { q with
            partctl := r, removing := q.removing ||| (old &&& ~~~new), busy := q.busy || decide (old &&& ~~~new ≠ 0) }))) ∧
      (tdiOf s p = 1 ∨ tdiOf s p = 2 → new ≠ old → ∃ u : State, Writes s w (.partctlWrite w p v) u ∧ withTdi s p 3 u ∧
        (u.part p).lasterr = 3 ∧ Ended u p)) ∧
    (q.partctl.getLsbD 63 = true → v.getLsbD 63 = false → ∃ u : State, Writes s w (.partitionTeardown w p v) u ∧
      Writes s w (.partctlWrite w p v) u ∧ (u.part p).partctl = 0 ∧ (u.part p).busy = true ∧ (u.part p).teardown = true ∧
      (u.part p).removing = q.removing ||| old ∧ Ended u p ∧ ∀ i : Fin 16, (u.part p).ranges[i] = none)) ∧
  ∀ (s : State) (p : PartNum),
    ((s.part p).busy = false → exec (.groveChangeDone p) s = .next s) ∧
    ((s.part p).busy = true → ∃ u : State, exec (.groveChangeDone p) s = .next u ∧
      u.part p = { s.part p with busy := false, teardown := false, removing := 0 } ∧
      (∀ c : CoreNum, (s.part p).removing.getLsbD (groveOf c).toNat = true →
        (u.core c).ctx = Ctx.zero ∧ (u.core c).spad = [] ∧ (u.core c).const = []) ∧
      (∀ c : CoreNum, (s.part p).removing.getLsbD (groveOf c).toNat = false → u.core c = s.core c) ∧
      ((s.part p).teardown = false → u.mem = s.mem ∧ u.trunk = s.trunk) ∧
      ((s.part p).teardown = true → smWf 0 s.trunk.memown = true →
        (∀ g < 3584, u.trunk.owner g = if s.trunk.owner g = p.setWidth 4 then 0xF else s.trunk.owner g) ∧
        ∀ a < 2 ^ 39, smGet 0 a u.mem.bytes = if s.trunk.owner (a / 2 ^ 30) = p.setWidth 4 then 0 else smGet 0 a s.mem.bytes))

/-- R410, R232, R316: cfgsel selects an entry and a word, and a new entry discards what was staged; cfgdata stages a word, and the word that holds
VALID installs the entry: a group with its reserved bits cleared, a binding with VALID 0 where R233 refuses it. -/
def Sys2Proof.Claims.ConfigurationWindow : Prop :=
  ∀ (s : State) (w : Writer) (p : PartNum) (v : BitVec 64),
    let q := s.part p
    (∃ x : BitVec 64, (∀ i < 64, x.getLsbD i = (v.getLsbD i && (i < 14 || 62 ≤ i))) ∧
      PartWrites s w p (.cfgselWrite w p v) (s.setPart p { q with
        cfgsel := x
        staged := if x.toNat / 2 ^ 62 = q.cfgsel.toNat / 2 ^ 62 ∧ x.toNat % 4096 = q.cfgsel.toNat % 4096 then q.staged else [] })) ∧
    let table := q.cfgsel.toNat / 2 ^ 62
    let ix := q.cfgsel.toNat % 4096
    let word := q.cfgsel.toNat / 2 ^ 12 % 4
    (2 ≤ table ∨ (table = 1 ∧ (1024 ≤ ix ∨ 2 ≤ word)) → PartWrites s w p (.cfgdataWrite w p v) s) ∧
    ((table = 0 ∧ word ≠ 0) ∨ (table = 1 ∧ ix < 1024 ∧ word = 0) →
      PartWrites s w p (.cfgdataWrite w p v) (s.setPart p { q with staged := smPut word v q.staged })) ∧
    (table = 1 → ix < 1024 → word = 1 → smWf 0 q.groups = true → ∀ x, q.staged = [(0, x)] → ∃ u : State,
      PartWrites s w p (.cfgdataWrite w p v) u ∧ (u.part p).staged = [] ∧ (u.part p).bind = q.bind ∧
      ∀ j, smGet 0 j (u.part p).groups = if j = ix then (v &&& 0x80000000FFFFFFFF) ++ (x &&& 0xFFFFFFFFFFFF0000)
        else smGet 0 j q.groups) ∧
    (table = 0 → word = 0 → smWf (0, 0, 0) q.bind = true → ∀ x y, q.staged = [(1, x), (2, y), (3, 0)] → ∃ u : State,
      PartWrites s w p (.cfgdataWrite w p v) u ∧ (u.part p).staged = [] ∧ (u.part p).groups = q.groups ∧
      (∀ j, j ≠ ix → smGet (0, 0, 0) j (u.part p).bind = smGet (0, 0, 0) j q.bind) ∧
      let e := smGet (0, 0, 0) ix (u.part p).bind
      let base := v.toNat / 2 ^ 7 % 2 ^ 49 * 128
      let lines := x.toNat % 2 ^ 49
      let scope := v.toNat / 2 ^ 56 % 8
      (e.1.getLsbD 63 = true ↔ v.getLsbD 63 = true ∧ lines ≠ 0 ∧ base + lines * 128 ≤ 2 ^ 56 ∧ scope < 6 ∧
        (scope = 5 → 2#12 ∈ s.trunk.caps) ∧ (y.getLsbD 63 = true → y.toNat % 8 = 0) ∧
        (y.getLsbD 63 = false → y.toNat / 2 ^ 32 % 2 ^ 24 = 0) ∧ v.toNat % 2 ^ 7 = 0 ∧ v.toNat / 2 ^ 59 % 16 = 0 ∧
        x.toNat / 2 ^ 49 = 0 ∧ y.toNat / 2 ^ 56 % 128 = 0))

/-- R411, R412: memown gives the granule that memsel names a new owner where R411 lets it: FABRIC and OWNER are set and BUSY holds until
OWNER_CHANGE_DONE has zeroed it; where it does not, OWNER keeps its value and FABRIC alone is written. -/
def Sys2Proof.Claims.MemoryOwnership : Prop :=
  (∀ (s : State) (w : Writer) (v : BitVec 64), smWf 0 s.trunk.memown = true →
    let g := s.trunk.memsel.toNat
    let old := s.trunk.owner g
    let new := v.toNat % 16
    let barred (o : Nat) : Prop := ∃ p : PartNum, p.toNat = o ∧ (tdiOf s p = 1 ∨ tdiOf s p = 2)
    let live : Prop := ∃ p : PartNum, p.toNat = old.toNat ∧ s.liveLids p ≠ []
    let free : Prop := new ≠ old.toNat ∧ (new < 8 ∨ new = 15) ∧ ¬(512 ≤ g ∧ g < 1538) ∧ s.trunk.ownBusy = [] ∧ ¬live ∧ ¬barred new
    (3584 ≤ g → Writes s w (.ownerChange w v) s) ∧
    (g < 3584 → ¬barred old.toNat → ∃ u : State, Writes s w (.ownerChange w v) u ∧ u.mem = s.mem ∧ u.parts = s.parts ∧
      u.cores = s.cores ∧ u.trunk.fabric g = v.getLsbD 5 ∧
      (∀ j, j ≠ g → u.trunk.ownByte j = s.trunk.ownByte j) ∧
      (free → (u.trunk.owner g).toNat = new ∧ u.trunk.ownBusy = [(g, BitVec.ofNat 4 new)]) ∧
      (¬free → u.trunk.owner g = old ∧ u.trunk.ownBusy = s.trunk.ownBusy)) ∧
    (g < 3584 → barred old.toNat → ∃ (u : State) (p : PartNum), Writes s w (.ownerChange w v) u ∧ p.toNat = old.toNat ∧
      withTdi s p 3 u ∧ Ended u p)) ∧
  ∀ s : State, ∃ u : State, exec .ownerChangeDone s = .next u ∧ u.trunk.ownBusy = [] ∧ u.trunk.memown = s.trunk.memown ∧
    u.cores = s.cores ∧ u.parts = s.parts ∧
    ∀ a < 2 ^ 39, smGet 0 a u.mem.bytes = if (s.trunk.ownBusy.map (·.1)).contains (a / 2 ^ 30) then 0 else smGet 0 a s.mem.bytes

/-- The configuration window, and who owns memory (R232, R233, R316, R410, R411, R412). -/
def Obligations.Ownership : Prop := Sys2Proof.Claims.ConfigurationWindow ∧ Sys2Proof.Claims.MemoryOwnership

/-- R414, R415, R416, R417, R418, R419, R422: the TDISP requests and what state they need, untagged packets in RUN, the key
slots and owner ranges with their refusal codes in order within a session that is held with the partition's interface, SPDM codes with the
session they open and end and the measurement of an interface report, and stream keys within a secured session. -/
def Obligations.TrustedInterface : Prop :=
  ∀ (s : State) (p : PartNum),
    (tdiOf s p = 0 ∧ (s.part p).partctl.getLsbD 63 = true → ∃ u : State, exec (.lockInterface p) s = .next (emits u (.tdisp true [])) ∧
      withTdi s p 1 u ∧ u.cores = s.cores ∧ u.mem = s.mem ∧ u.trunk = s.trunk) ∧
    (¬(tdiOf s p = 0 ∧ (s.part p).partctl.getLsbD 63 = true) → exec (.lockInterface p) s = .next (emits s (.tdisp false []))) ∧
    (tdiOf s p = 1 → ∃ u : State, exec (.startInterface p) s = .next (emits u (.tdisp true [])) ∧ withTdi s p 2 u ∧
      u.cores = s.cores ∧ u.mem = s.mem ∧ u.trunk = s.trunk) ∧
    (tdiOf s p ≠ 1 → exec (.startInterface p) s = .next (emits s (.tdisp false []))) ∧
    (tdiOf s p = 1 ∨ tdiOf s p = 2 → ∃ l, exec (.getDeviceInterfaceReport p) s = .next (emits s (.tdisp true l))) ∧
    (¬(tdiOf s p = 1 ∨ tdiOf s p = 2) → exec (.getDeviceInterfaceReport p) s = .next (emits s (.tdisp false []))) ∧
    (∃ u : State, exec (.stopInterface p) s = .next (emits u (.tdisp true [])) ∧ withTdi s p 0 u ∧ Ended u p ∧
      (∀ i : Fin 16, (u.part p).ranges[i] = none) ∧ u.trunk.memown = s.trunk.memown ∧
      ∀ a < 2 ^ 39, s.trunk.owner (a / 2 ^ 30) = p.setWidth 4 → smGet 0 a u.mem.bytes = 0) ∧
    (tdiOf s p ≠ 2 → ∀ b, exec (.untaggedTlp p b) s = .next s) ∧
    (tdiOf s p = 2 → exec (.untaggedTlp p false) s = .next (emits s .unsupported) ∧
      ∃ u : State, exec (.untaggedTlp p true) s = .next u ∧ withTdi s p 3 u ∧ Ended u p) ∧
    (∀ (slot : BitVec 8) (lid : BitVec 32) (digest key : BitVec 256) (base : BitVec 52) (units : BitVec 32) (range : Bool),
      (s.trunk.secured = false ∨ (s.part p).session = false → exec (.keyset p slot lid digest key) s = .next s ∧
        exec (.ownset p slot base units lid) s = .next s ∧ exec (.keyclr p range slot) s = .next s) ∧
      (s.trunk.secured = false → ∀ (i : BitVec 4), exec (.ideKm i key) s = .next s) ∧
      (s.trunk.secured = true → (s.part p).session = true →
        (tdiOf s p ≠ 2 → exec (.keyset p slot lid digest key) s = .next (emits s (.vendor 1)) ∧
          exec (.ownset p slot base units lid) s = .next (emits s (.vendor 1)) ∧
          exec (.keyclr p range slot) s = .next (emits s (.vendor 1))) ∧
        (tdiOf s p = 2 → 16 ≤ slot.toNat → exec (.keyset p slot lid digest key) s = .next (emits s (.vendor 6)) ∧
          exec (.ownset p slot base units lid) s = .next (emits s (.vendor 6)) ∧
          exec (.keyclr p range slot) s = .next (emits s (.vendor 6))) ∧
        (∀ i : Fin 16, tdiOf s p = 2 → slot.toNat = i.val →
          (s.launch? p lid = none → exec (.keyset p slot lid digest key) s = .next (emits s (.vendor 2))) ∧
          (∀ l, s.launch? p lid = some l →
            (l.digest ≠ digest → exec (.keyset p slot lid digest key) s = .next (emits s (.vendor 3))) ∧
            (l.digest = digest → (s.part p).keys[i] ≠ none → exec (.keyset p slot lid digest key) s = .next (emits s (.vendor 4))) ∧
            (l.digest = digest → (s.part p).keys[i] = none → exec (.keyset p slot lid digest key) s = .next (emits
              (s.setPart p { s.part p with keys := (s.part p).keys.set i (some ⟨key, lid⟩) }) (.vendor 0)))) ∧
          exec (.keyclr p false slot) s = .next (emits (s.setPart p { s.part p with keys := (s.part p).keys.set i none }) (.vendor 0)) ∧
          ((s.part p).ranges[i] = none → exec (.keyclr p true slot) s = .next (emits s (.vendor 0))) ∧
          (∀ r, (s.part p).ranges[i] = some r → ∃ u : State, exec (.keyclr p true slot) s = .next (emits u (.vendor 0)) ∧
            u.part p = { s.part p with ranges := (s.part p).ranges.set i none } ∧
            ∀ a, smGet 0 a u.mem.bytes = if r.base.toNat ≤ a ∧ a < r.base.toNat + r.units.toNat * 2 ^ 16 then 0
              else smGet 0 a s.mem.bytes) ∧
          (base.toNat % 2 ^ 16 ≠ 0 ∨ units = 0 ∨ 2 ^ 24 ≤ units.toNat →
            exec (.ownset p slot base units lid) s = .next (emits s (.vendor 6))) ∧
          (base.toNat % 2 ^ 16 = 0 → units ≠ 0 → units.toNat < 2 ^ 24 →
            (s.launch? p lid = none → exec (.ownset p slot base units lid) s = .next (emits s (.vendor 2))) ∧
            ((s.launch? p lid).isSome = true →
              let owned : Prop := base.toNat + units.toNat * 2 ^ 16 ≤ 2 ^ 39 ∧
                ∀ a, base.toNat ≤ a → a < base.toNat + units.toNat * 2 ^ 16 → s.trunk.owner (a / 2 ^ 30) = p.setWidth 4
              let meets : Prop := ∃ (j : Fin 16) (r : OwnRange), (s.part p).ranges[j] = some r ∧
                base.toNat < r.base.toNat + r.units.toNat * 2 ^ 16 ∧ r.base.toNat < base.toNat + units.toNat * 2 ^ 16
              (¬owned ∨ meets → exec (.ownset p slot base units lid) s = .next (emits s (.vendor 5))) ∧
              (owned → ¬meets → (s.part p).ranges[i] ≠ none →
                exec (.ownset p slot base units lid) s = .next (emits s (.vendor 4))) ∧
              (owned → ¬meets → (s.part p).ranges[i] = none → ∃ u : State,
                exec (.ownset p slot base units lid) s = .next (emits u (.vendor 0)) ∧
                u.part p = { s.part p with ranges := (s.part p).ranges.set i (some ⟨base, units, lid⟩) } ∧
                ∀ a, smGet 0 a u.mem.bytes = if base.toNat ≤ a ∧ a < base.toNat + units.toNat * 2 ^ 16 then 0
                  else smGet 0 a s.mem.bytes))))) ∧
      (s.trunk.secured = true →
        (∀ i : BitVec 4, i.toNat < 10 → ∃ u : State, exec (.ideKm i key) s = .next u ∧ (i, key) ∈ u.trunk.ideKeys ∧
          u.parts = s.parts ∧ u.mem = s.mem ∧ u.cores = s.cores))) ∧
    ∀ (payload : List Byte) (code : BitVec 8),
      let no : Prop := code ∉ spdmCodes ∨ (code = 0xE5 ∧ s.trunk.exchanged = false) ∨
        ((code = 0xE8 ∨ code = 0xEC) ∧ s.trunk.secured = false)
      (no → exec (.spdmRequest code payload) s = .next (emits s (.spdm 0x7F []))) ∧
      (¬no → ∃ (u : State) (l : List Byte), exec (.spdmRequest code payload) s = .next (emits u (.spdm (code - 0x80) l)) ∧
        u.trunk = { s.trunk with
          exchanged := if code = 0xE4 then true else if code = 0xE5 then false else s.trunk.exchanged
          secured := if code = 0xE5 then true else if code = 0xEC then false else s.trunk.secured } ∧
        (code ≠ 0xEC → u = trunkTo s u.trunk) ∧
        (code = 0xEC → ∀ q, u.part q = { s.part q with session := false }) ∧
        (∀ r, code = 0xE0 → payload.head? = some (0x10 + p.setWidth 8) → tdiOf s p = 1 ∨ tdiOf s p = 2 →
          exec (.getDeviceInterfaceReport p) s = .next (emits s (.tdisp true r)) → l = leBytes 32 (sha256 r).toNat))

/-! ## The scheduler -/

namespace Sys2Proof.Claims

/-- The state after a task of a partition waits for a page under a token has been answered (R356): it is ready, and with TRAP its
fault is raised at the faulting slot. -/
def answered (s : State) (p : PartNum) (token : BitVec 32) (trap : Bool) : State :=
  { s with
    seqno := s.seqno + 1
    tasks := s.tasks.map fun t => match t.status with
      | .page k va kind level =>
        if t.part = p ∧ k = token then { t with
          status := .ready, ready := s.seqno, aging := 0
          ctx := if trap then { t.ctx with pendTrap := some (0x0A, 1#4 ++ level ++ kind ++ va) } else t.ctx }
        else t
      | _ => t }
/-- A task of a partition waits for a page under a token. -/
def AwaitsPage (s : State) (p : PartNum) (token : BitVec 32) : Prop :=
  ∃ t ∈ s.tasks, t.part = p ∧ ∃ va kind level, t.status = .page token va kind level
/-- The head of a queue has left it without a launch: no core, task or launch changed. -/
def HeadGone (s u : State) (p : PartNum) (q : BitVec 4) : Prop :=
  ((u.part p).queues[(⟨q.toNat, q.isLt⟩ : Fin 16)]).length < ((s.part p).queues[(⟨q.toNat, q.isLt⟩ : Fin 16)]).length ∧
  (u.part p).chosen = none ∧ (u.part p).headWait = none ∧ u.launches = s.launches ∧ u.tasks = s.tasks ∧ u.cores = s.cores
/-- A saved task. -/
def TheTask (s : State) (i : TaskId) (t : Task) : Prop := t ∈ s.tasks ∧ ∀ x ∈ s.tasks, x.id = i ↔ x = t
/-- A core is idle after its context has been saved with a status, and the task's record holds what ran. -/
def SavedAs (s u : State) (c : CoreNum) (st : TStatus) : Prop :=
  (u.core c).busy = false ∧ (u.core c).spad = (s.core c).spad ∧
  ∀ t ∈ u.tasks, t.part = (s.core c).ctx.part → t.lid = (s.core c).ctx.lid → t.sidx = (s.core c).ctx.sidx →
    (t.status = st ∨ t.status = .rollback 0x3A) ∧ t.spad = (s.core c).spad ∧ t.home = c
/-- No launch of the context on a core is killed: killed contexts end, and are not saved (R358). -/
def NotKilled (s : State) (c : CoreNum) : Prop :=
  ∀ l, s.launch? (s.core c).ctx.part (s.core c).ctx.lid = some l → l.killed = none
/-- A core's context stands between the slots of a bundle, of which some have committed. -/
def BetweenSlots (k : Core) : Prop := match k.ctx.thr.issue with
  | some i => i.slot ≠ 0
  | none => k.ctx.thr.resume ≠ 0
/-- Every core has one entry in the table of cores. -/
def CoresListed (s : State) : Prop := smSorted none s.cores = true ∧ ∀ e ∈ s.cores, e.1 < 256

end Sys2Proof.Claims

/-- R347, R348, R351, R332: ADMISSION does nothing while the partition is off, dormancy runs, a head waits for a page or 64 launches run; it refuses
a malformed head, waits where its frames find no room, and else admits it: a launch with its tasks, grove set, frames and bindings,
its frames zeroed, where the event queue writes no record into them. -/
def Sys2Proof.Claims.Admissions : Prop :=
  ∀ (s : State) (p : PartNum),
    let idle : Prop := (s.part p).partctl.getLsbD 63 = false ∨ s.trunk.phase ≠ 0 ∨ (s.part p).headWait.isSome = true ∨
      64 ≤ (s.launches.filter fun l => l.part = p).length
    (idle ∨ s.pickHead p = none → exec (.admission p) s = .next s) ∧
    (¬idle → ∀ (q : BitVec 4) (k : Packet), s.pickHead p = some (q, k) →
      ((s.part p).queues[(⟨q.toNat, q.isLt⟩ : Fin 16)]).head? = some k →
      (k.bad = true → ∃ u : State, exec (.admission p) s = .next u ∧ HeadGone s u p q) ∧
      (k.bad = false → ∀ kern binds s1 digest s0 ranges s2, s.readKernel p k = (.ok (kern, binds), s1) →
        s1.imageDigest p k kern.imageEnd = (.ok digest, s0) → s0.readRanges p k kern.ranges = (.ok ranges, s2) →
        let groves := s2.groveSet p k
        let cores := 16 * ∑ i ∈ Finset.range 16, (groves.getLsbD i).toNat
        let tasks := ((kern.levels.filter fun l => l.kind ≠ 0).map fun l => l.extm1.toNat + 1).prod
        let frames := min tasks (2 * cores)
        let size := (65536 + kern.spad + 65536 * kern.tiles + 8192 * kern.wslots + 65535) / 65536 * 65536
        let need := frames * size + 65536
        let room := (s2.part p).framectl.toNat / 2 ^ 36 % 2 ^ 24 * 65536
        (groves = 0 ∨ (groves ≠ 0 ∧ s2.bindingsOk p binds = true ∧ room < need) →
          ∃ u : State, exec (.admission p) s = .next u ∧ HeadGone s2 u p q) ∧
        (groves ≠ 0 → s2.bindingsOk p binds = true → need ≤ room →
          s2.trunk.ownsRange p ((s2.part p).framectl.toNat % 2 ^ 36 * 65536) room = true → k.depPh = 0 →
          (s2.frameRoom p need = none → exec (.admission p) s = .next (s2.setPart p { s2.part p with chosen := some q })) ∧
          ∀ base, s2.frameRoom p need = some base → ∃ (u : State) (l : Launch), exec (.admission p) s = .next u ∧
            u.launches = s2.launches ++ [l] ∧ l.lid = k.lid ∧ l.part = p ∧ l.queue = q ∧ l.groves = groves ∧ l.total = tasks ∧
            l.open_ = tasks ∧ l.nextTask = 0 ∧ l.frames = frames ∧ l.freeFrames = List.range frames ∧ l.frameSize = size ∧
            l.base = base ∧ l.digest = digest ∧ l.killed = none ∧ l.kern.levels = kern.levels ∧ l.bindings.length = kern.binds.length ∧
            u.cores = s2.cores ∧ u.tasks = s2.tasks ∧
            ((s2.part p).evqbase.getLsbD 0 = false → (∀ p' : PartNum, (s2.part p').migbusy = none) →
              ∀ a, base ≤ a → a < base + frames * size → smGet 0 a u.mem.bytes = 0))))

/-- R356, R348, R358, R350: a pfdone write answers the task that waits under its token, with TRAP by the translation fault at its slot, or a head
that waits; SCHEDKILL ends a launch with its tasks wherever they are, those between the slots of a bundle at the end of that bundle, and takes
a packet out of its queue. -/
def Sys2Proof.Claims.PageAnswersAndKills : Prop :=
  ∀ (s : State) (w : Writer) (p : PartNum) (v : BitVec 64),
    let token : BitVec 32 := v.setWidth 32
    (v.getLsbD 63 = false →
      (AwaitsPage s p token → PartWrites s w p (.pfdoneRetry w p v) (answered s p token false)) ∧
      (¬AwaitsPage s p token → (s.part p).headWait = none → PartWrites s w p (.pfdoneRetry w p v) s) ∧
      (¬AwaitsPage s p token → ∀ va q k, (s.part p).headWait = some (token, va) → s.pickHead p = some (q, k) →
        PartWrites s w p (.pfdoneRetry w p v) (s.setPart p { s.part p with headWait := none, headNeeds := none }))) ∧
    (v.getLsbD 63 = true →
      (AwaitsPage s p token → PartWrites s w p (.pfdoneTrap w p v) (answered s p token true)) ∧
      (¬AwaitsPage s p token → ∀ va q k, (s.part p).headWait = some (token, va) → s.pickHead p = some (q, k) →
        ((s.part p).queues[(⟨q.toNat, q.isLt⟩ : Fin 16)]).head? = some k →
        ∃ u : State, PartWrites s w p (.pfdoneTrap w p v) u ∧ HeadGone s u p q)) ∧
    ((s.launch? p token = none → (∀ i : Fin 16, ∀ k ∈ (s.part p).queues[i], k.lid ≠ token) →
        PartWrites s w p (.schedkill w p v) s) ∧
      ((s.launch? p token).isSome = true → ∃ u : State, PartWrites s w p (.schedkill w p v) u ∧
        (∀ l ∈ u.launches, l.part = p → l.lid = token → l.killed.isSome = true ∧ l.nextTask = l.total ∧ l.skipped = []) ∧
        (CoresListed s →
          let runs (c : CoreNum) : Prop := (s.core c).busy = true ∧ (s.core c).ctx.boot = false ∧ (s.core c).ctx.part = p ∧
            (s.core c).ctx.lid = token ∧ BetweenSlots (s.core c) ∧ (s.core c).saving = false
          (∀ t ∈ u.tasks, t.part = p → t.lid = token → ∃ c, runs c ∧ t.sidx = (s.core c).ctx.sidx) ∧
          ((∀ c, ¬runs c) → ∀ l ∈ u.launches, ¬(l.part = p ∧ l.lid = token))) ∧
        (∀ l ∈ s.launches, ¬(l.part = p ∧ l.lid = token) → l ∈ u.launches) ∧
        (∀ t ∈ s.tasks, ¬(t.part = p ∧ t.lid = token) → t ∈ u.tasks)) ∧
      ∀ (i : Fin 16) (k : Packet), s.launch? p token = none → k ∈ (s.part p).queues[i] → k.lid = token →
        (∀ j : Fin 16, ∀ x ∈ (s.part p).queues[j], x.lid = token → j = i ∧ x = k) → ∃ u : State,
          PartWrites s w p (.schedkill w p v) u ∧ (∀ j : Fin 16, ∀ x ∈ (u.part p).queues[j], x.lid ≠ token) ∧
          u.launches = s.launches ∧ u.tasks = s.tasks ∧ u.cores = s.cores)

/-- Admissions, answers to page waits, and kills (R332, R347, R348, R350, R351, R356, R358). -/
def Obligations.AdmissionsAndKills : Prop := Sys2Proof.Claims.Admissions ∧ Sys2Proof.Claims.PageAnswersAndKills

/-- R332, R333, R351, R352, R353, R354, R355, R439: DISPATCH gives an idle core of the partition the first ready task in order: a fresh one starts with zeroed registers and scratchpad, ARG in a9 and its first run; a saved one goes on as its image
says. A quantum expires once, an interval ages one task, started or not, and only a context that others wait for is saved. -/
def Obligations.Dispatching : Prop :=
  (∀ (s : State) (p : PartNum) (c : CoreNum),
    ((s.core c).busy = true ∨ s.trunk.phase ≠ 0 ∨ s.grovePart (groveOf c) ≠ some p → exec (.dispatch p c) s = .next s) ∧
    ((s.core c).busy = false → s.trunk.phase = 0 → s.grovePart (groveOf c) = some p →
      (bestCand (s.candidates p c) = none → exec (.dispatch p c) s = .next s) ∧
      ∀ a l, bestCand (s.candidates p c) = some a → s.launch? p a.lid = some l →
        (a.saved = false → l.kern.wins0 = [] → l.kern.levels.length ≤ 6 → ∃ u : State, exec (.dispatch p c) s = .next u ∧
          u.cur = s.cur ∧ (u.core c).busy = true ∧ (u.core c).spad = [] ∧ (u.core c).spadMark = [] ∧
          (∀ e, e ≠ c → u.core e = s.core e) ∧
          let x := (u.core c).ctx
          x.part = p ∧ x.lid = l.lid ∧ x.sidx = a.sidx ∧ x.boot = false ∧ x.kern = l.kern ∧ x.inHandler = false ∧
          x.vec = Ctx.zero.vec ∧ x.mat = Ctx.zero.mat ∧ x.entry = true ∧ x.lease.held = false ∧ x.csr.srseed = 1 ∧
          x.csr.suspect = (s.grove (groveOf c)).window.isSome ∧ x.task.a[(9 : Fin 16)] = ⟨l.kern.arg, 0⟩ ∧
          (∀ i : Fin 16, x.task.b[i] = ⟨0, 0⟩ ∧ (i.val < 9 → x.task.a[i] = ⟨0, 0⟩)) ∧ (∀ i : Fin 64, x.task.m[i] = ⟨0, 0⟩) ∧
          x.task.btime = 0 ∧ x.task.issue = none ∧ x.task.board = [] ∧ (l.kern.hasPro = true → x.walk.run = 1) ∧
          ∃ t ∈ u.tasks, t.id = x.id ∧ t.status = .running c) ∧
        (a.saved = true → ∀ t, s.tasks.find? (fun t => t.id = ⟨p, a.lid, a.sidx⟩) = some t →
          s.frameBad l t = false → ∃ u : State, exec (.dispatch p c) s = .next u ∧ u.cur = s.cur ∧ (u.core c).busy = true ∧
            (u.core c).spad = t.spad.filter (fun b => b.1 < t.ctx.kern.spad) ∧
            (u.core c).spadMark = t.spadMark.filter (fun b => b * 64 < t.ctx.kern.spad) ∧ (u.core c).ctx.task = t.ctx.task ∧
            (u.core c).ctx.hand = t.ctx.hand ∧ (u.core c).ctx.vec = t.ctx.vec ∧ (u.core c).ctx.mat = t.ctx.mat ∧
            (u.core c).ctx.walk = t.ctx.walk ∧ (u.core c).ctx.inHandler = t.ctx.inHandler))) ∧
  (∀ (s : State) (c : CoreNum),
    ((s.core c).busy = false ∨ (s.core c).ctx.boot = true ∨ (s.core c).expired.isSome = true →
      exec (.quantumExpiry c) s = .next s) ∧
    ((s.core c).busy = true → (s.core c).ctx.boot = false → (s.core c).expired = none →
      let expired : State := { s.setCore c { s.core c with expired := some s.seqno } with seqno := s.seqno + 1 }
      (s.wanted c (s.runPrio c) = false ∨ (s.core c).ctx.collBusy = true → exec (.quantumExpiry c) s = .next expired) ∧
      (expired.preempted c = true → NotKilled s c → (s.core c).ctx.task.board = [] →
        (s.core c).ctx.hand.board = [] → (∀ i : Fin 16, (s.core c).ctx.queues[i].entries = []) →
        (∀ i : Fin 16, ((s.core c).ctx.h[i]).win = none) → ∃ u : State, exec (.quantumExpiry c) s = .next u ∧ u.cur = s.cur ∧
          SavedAs s u c .ready)) ∧
    (((s.core c).busy = false ∨ (s.core c).ctx.boot = true ∨ (s.core c).saving = true ∨ s.wanted c 0 = false ∨
      (s.core c).ctx.longWait = none) → exec (.longWaitSwap c) s = .next s) ∧
    ∀ st, (s.core c).busy = true → (s.core c).ctx.boot = false → (s.core c).saving = false → s.wanted c 0 = true →
      (s.core c).ctx.longWait = some st → NotKilled s c → (s.core c).ctx.task.board = [] → (s.core c).ctx.hand.board = [] →
      (∀ i : Fin 16, (s.core c).ctx.queues[i].entries = [] ∧ ((s.core c).ctx.h[i]).win = none) →
      ∃ u : State, exec (.longWaitSwap c) s = .next u ∧ SavedAs s u c st) ∧
  ∀ (s : State) (p : PartNum) (lid : BitVec 32) (sidx : Nat),
    (∀ t, TheTask s ⟨p, lid, sidx⟩ t →
      (t.status ≠ .ready → exec (.agingStep p lid sidx) s = .next s) ∧
      (t.status = .ready → exec (.agingStep p lid sidx) s = .next { s with
        tasks := s.tasks.map fun x => if x = t then { t with aging := t.aging + 1 } else x })) ∧
    ((∀ t ∈ s.tasks, t.id ≠ ⟨p, lid, sidx⟩) → exec (.agingStep p lid sidx) s = .next { s with
      launches := s.launches.map fun l =>
        if l.part = p ∧ l.lid = lid ∧ (sidx ∈ l.skipped ∨ (l.nextTask ≤ sidx ∧ sidx < l.total))
        then { l with ages := smSet 0 sidx (smGet 0 sidx l.ages + 1) l.ages } else l })

/-! ## Power, translation registers, errors -/

namespace Sys2Proof.Claims

/-- A partition's event queue is off: records are counted and not written (R386). -/
def EventsOff (s : State) (p : PartNum) : Prop := (s.part p).evqbase.getLsbD 0 = false
/-- No migration runs. -/
def NoMigration (s : State) : Prop := ∀ p : PartNum, (s.part p).migbusy = none
/-- A grove's power register after a write (R378). -/
def GrovepwrTakes (old v r : BitVec 64) : Prop :=
  let f (x : BitVec 64) (lo n : Nat) : Nat := x.toNat / 2 ^ lo % 2 ^ n
  f r 0 2 = f v 0 2 ∧ f r 2 2 = f old 2 2 ∧ f r 4 11 = 0 ∧ f r 15 1 = f v 15 1 ∧ f r 16 20 = 0 ∧ f r 36 2 = f v 36 2 ∧
  f r 38 5 = min 16 (f v 38 5) ∧ f r 43 5 = max 10 (f v 43 5) ∧ f r 48 16 = 0
/-- Two ranges of `n` bytes share no byte. -/
def Apart (a b n : Nat) : Prop := a + n ≤ b ∨ b + n ≤ a

end Sys2Proof.Claims

/-- R378, R388, R199, R198, R217: grovepwr takes its fields within their bounds; a thermal change moves THERM; a droop trip under EN makes the contexts
suspect that are on the grove or left it in the 16 cycles before, saved ones in their images, and opens the window, which ends; a row timer changes nothing. -/
def Sys2Proof.Claims.GrovePower : Prop :=
  ∀ (s : State) (g : GroveNum) (w : Writer) (v : BitVec 64) (level : BitVec 2) (before : List (PartNum × BitVec 32 × Nat)),
    (∃ (r : BitVec 64) (u : State), GrovepwrTakes (s.grove g).pwr v r ∧ Writes s w (.grovepwrWrite w g v) u ∧ (u.grove g).pwr = r ∧
      (∀ h, h ≠ g → u.grove h = s.grove h) ∧ ∀ c, (u.core c).ctx.task = (s.core c).ctx.task ∧ (u.core c).spad = (s.core c).spad) ∧
    (level.toNat = pwrField s g 2 2 → exec (.thermChange g level v) s = .next s) ∧
    (level.toNat ≠ pwrField s g 2 2 → ∃ u : State, exec (.thermChange g level v) s = .next u ∧ u.cores = s.cores ∧
      (∀ h, h ≠ g → u.grove h = s.grove h) ∧ pwrField u g 2 2 = level.toNat ∧
      (∀ i < 64, i ≠ 2 → i ≠ 3 → (u.grove g).pwr.getLsbD i = (s.grove g).pwr.getLsbD i) ∧
      (s.trunk.phase ≠ 3 ∨ level ≠ 3 → u.trunk.hot = s.trunk.hot) ∧
      (s.trunk.phase = 3 → level = 3 → u.trunk.hot.isSome = true)) ∧
    ((s.grove g).droopctl.getLsbD 31 = false → ∃ u : State, exec (.droopTrip g ⟨v, before⟩) s = .next u ∧
      u.cores = s.cores ∧ u.tasks = s.tasks ∧ u.groves = s.groves) ∧
    ((s.grove g).droopctl.getLsbD 31 = true → ∃ u : State, exec (.droopTrip g ⟨v, before⟩) s = .next u ∧
      let left (t : Task) : Prop := groveOf t.home = g ∧ (t.part, t.lid, t.sidx) ∈ before
      u.grove g = { s.grove g with window := some ((s.grove g).window.getD ((s.grove g).droopctl.extractLsb' 16 8)) } ∧
      (∀ h, h ≠ g → u.grove h = s.grove h) ∧
      (∀ c, let hit : Prop := (groveOf c = g ∧ (s.core c).busy = true) ∨ ∃ t ∈ s.tasks, left t ∧ t.status = .running c
        (hit → u.core c = { s.core c with ctx := { (s.core c).ctx with csr := { (s.core c).ctx.csr with suspect := true } } }) ∧
        (¬hit → u.core c = s.core c)) ∧
      ((s.tasks.map Task.id).Nodup → ∀ (i : Nat) (t : Task), s.tasks[i]? = some t →
        let saved : Prop := left t ∧ ∀ c, t.status ≠ .running c
        (saved → u.tasks[i]? = some { t with ctx := { t.ctx with csr := { t.ctx.csr with suspect := true } } }) ∧
        (¬saved → u.tasks[i]? = some t))) ∧
    exec (.droopWindowEnd g) s = .next (s.onGrove g fun x => { x with window := none }) ∧
    ∀ (a : BitVec 3) (n : Nat) (b : Bool), exec (.rowIdleTimer a n b) s = .next s

/-- R385, R416: evqbase of an unlocked partition: while EN is 1 a write changes EN alone; else it takes its fields, and one that sets EN needs a
ring in HBM and sets TAIL to HEAD. A locked partition goes to ERROR. -/
def Sys2Proof.Claims.EventQueueBase : Prop :=
  ∀ (s : State) (w : Writer) (p : PartNum) (v : BitVec 64),
    let q := s.part p
    let base := v.toNat / 2 ^ 12 % 2 ^ 40 * 4096
    let size := 2 ^ (v.toNat / 2 ^ 56 % 16 + 6)
    (tdiOf s p = 1 ∨ tdiOf s p = 2 → ∃ u : State, PartWrites s w p (.evqbaseWrite w p v) u ∧ withTdi s p 3 u ∧ Ended u p) ∧
    (¬(tdiOf s p = 1 ∨ tdiOf s p = 2) →
      (q.evqbase.getLsbD 0 = true → ∃ r : BitVec 64,
        (∀ i < 64, r.getLsbD i = if i = 0 then v.getLsbD 0 else q.evqbase.getLsbD i) ∧
        PartWrites s w p (.evqbaseWrite w p v) (s.setPart p { q with evqbase := r })) ∧
      (q.evqbase.getLsbD 0 = false → ∃ r : BitVec 64,
        (∀ i < 64, r.getLsbD i = (v.getLsbD i && (i = 0 || (12 ≤ i && i < 52) || (56 ≤ i && i < 60)))) ∧
        (v.getLsbD 0 = false → PartWrites s w p (.evqbaseWrite w p v) (s.setPart p { q with evqbase := r })) ∧
        (v.getLsbD 0 = true → base + 32 * size ≤ 2 ^ 39 →
          PartWrites s w p (.evqbaseWrite w p v) (s.setPart p { q with evqbase := r, evqtail := q.evqhead })) ∧
        (v.getLsbD 0 = true → 2 ^ 39 < base + 32 * size → PartWrites s w p (.evqbaseWrite w p v) s)))

/-- Grove power and the event queue (R198, R199, R217, R378, R385, R388, R416). -/
def Obligations.PowerAndEventQueue : Prop := Sys2Proof.Claims.GrovePower ∧ Sys2Proof.Claims.EventQueueBase

/-- R401, R402: GO starts an invalidation of COUNT leaves from invva, of everything with ALL, with FLUSH as well, unless one or a migration runs; it is
complete once no access through a covered entry is outstanding and every .g write through one is acknowledged: then BUSY is clear and SEQ one more, no TLB
holds a covered entry, on every core of the partition the granules filled through a covered entry are empty, and with FLUSH no dirty line is left that can be
written back. -/
def Sys2Proof.Claims.Invalidations : Prop :=
  (∀ (s : State) (w : Writer) (p : PartNum) (v : BitVec 64), v.getLsbD 63 = true →
    let q := s.part p
    let n := v.toNat % 2 ^ 24
    let t (x : Inval) : State := s.setPart p { q with inval := some x }
    (q.inval.isSome = true ∨ q.migbusy.isSome = true → PartWrites s w p (.invalidate w p v) s ∧
      PartWrites s w p (.invalidateAll w p v) s ∧ PartWrites s w p (.invalidateFlush w p v) s) ∧
    (q.inval = none → q.migbusy = none →
      (v.getLsbD 62 = false → n = 0 → PartWrites s w p (.invalidate w p v) s) ∧
      (v.getLsbD 62 = false → v.getLsbD 61 = false → n ≠ 0 →
        PartWrites s w p (.invalidate w p v) (t ⟨q.invva.toNat, n * 65536, false, false⟩)) ∧
      (v.getLsbD 62 = false → v.getLsbD 61 = true → n ≠ 0 →
        PartWrites s w p (.invalidateFlush w p v) (t ⟨q.invva.toNat, n * 65536, true, false⟩)) ∧
      (v.getLsbD 62 = true → PartWrites s w p (.invalidateAll w p v) (t ⟨0, 2 ^ 56, v.getLsbD 61, false⟩)))) ∧
  ∀ (s : State) (p : PartNum),
    ((s.part p).inval = none → exec (.invalidationComplete p) s = .next s) ∧
    ∀ x, (s.part p).inval = some x →
      let crosses (w : Way) : Prop := ∃ e ∈ w.via, e.1 < x.base + x.bytes ∧ x.base < e.1 + 2 ^ e.2
      let waits (k : Ctx) : Prop := (∃ a ∈ k.acks, crosses a.way) ∨
        ∃ q ∈ k.task.board ++ k.hand.board, q.val.fixed = false ∧ crosses q.way
      let waiting : Prop := (∃ e ∈ s.cores, e.2.busy = true ∧ e.2.ctx.part = p ∧ e.2.ctx.boot = false ∧ waits e.2.ctx) ∨
        ∃ t ∈ s.tasks, t.part = p ∧ (∀ c, t.status ≠ .running c) ∧ waits t.ctx
      (waiting → exec (.invalidationComplete p) s = .next s) ∧
      (¬waiting → ∃ u : State, exec (.invalidationComplete p) s = .next u ∧ u.cur = s.cur ∧
      (u.part p).inval = none ∧ (u.part p).invseq = (s.part p).invseq + 1 ∧
      (∀ l ∈ u.tlb1 ++ u.tlb2, ∀ e ∈ l.2, ¬(e.part = p ∧ e.page < x.base + x.bytes ∧ x.base < e.page + 2 ^ e.log)) ∧
      (x.flush = true → Memory.wf s.mem = true → ∀ d ∈ u.mem.dirty, ∀ n e,
        s.trunk.route (regionOf (d.1 * 64)) = some (n, e) → e.getLsbD 61 = true) ∧
      ∀ c : CoreNum, (s.core c).busy = true → (s.core c).ctx.part = p → (s.core c).ctx.boot = false →
        (u.core c).spad = (s.core c).spad ∧ (u.core c).ctx.task = (s.core c).ctx.task ∧
        (u.core c).ctx.acks = (s.core c).ctx.acks ∧
        ∀ i : Fin 16, ((u.core c).ctx.maps[i]).desc = ((s.core c).ctx.maps[i]).desc ∧
          ((u.core c).ctx.maps[i]).grans = ((s.core c).ctx.maps[i]).grans.filter fun e =>
            ¬∃ h ∈ e.2.homes, ∃ y ∈ h.2, y.1.page < x.base + x.bytes ∧ x.base < y.1.page + 2 ^ y.1.log)

/-- R403, R404: a window of lookups in a range of a launch is taken off its count once it is full, with a record where its misses contradict
the hint, and nothing else of the launches changes. -/
def Sys2Proof.Claims.HotnessWindows : Prop :=
  ∀ (s : State) (p : PartNum) (lid : BitVec 32) (r : BitVec 6) (m : BitVec 32),
    let n := 2 ^ ((s.part p).hotctl.toNat % 32)
    (s.launch? p lid = none → exec (.hotnessWindow p lid r m) s = .next s) ∧
    ∀ l x, s.launch? p lid = some l → l.kern.ranges[r.toNat]? = some x →
      (smGet 0 r.toNat l.lookups < n → exec (.hotnessWindow p lid r m) s = .next s) ∧
      (n ≤ smGet 0 r.toNat l.lookups → ∃ u : State, exec (.hotnessWindow p lid r m) s = .next u ∧
        u.launches = (s.launches.map fun y => if y.part = p ∧ y.lid = lid then
          { y with lookups := smSet 0 r.toNat (smGet 0 r.toNat y.lookups - n) y.lookups } else y) ∧
        u.cores = s.cores ∧ u.tasks = s.tasks ∧
        let broken : Prop := (x.reuse = 0 ∧ 4 * m.toNat < n) ∨ (x.reuse = 1 ∧ (16 * m.toNat < n ∨ 3 * n < 4 * m.toNat)) ∨
          (x.reuse = 2 ∧ n < 4 * m.toNat) ∨ (x.reuse = 3 ∧ n < 16 * m.toNat)
        (broken → EventsOff s p → (u.part p).evqdrops = (s.part p).evqdrops + 1) ∧ (¬broken → u.parts = s.parts ∧ u.mem = s.mem))

/-- Invalidations and hotness windows (R401, R402, R403, R404). -/
def Obligations.InvalidationsAndHotness : Prop := Sys2Proof.Claims.Invalidations ∧ Sys2Proof.Claims.HotnessWindows

/-- R405, R406, R459: GO of a migration walks to a local leaf, checks the destination frame and starts; the switch copies the frame and rewrites the
leaf's address under an invalidation; at the end the source is zeroed and, with RETIRE, entered in the repair table; before the
switch a destination that is severed or has no route aborts it with RESULT 3, a duplicate that could not be performed with RESULT 4. -/
def Obligations.Migrations : Prop :=
  (∀ (s : State) (w : Writer) (p : PartNum) (v : BitVec 64), v.getLsbD 63 = true →
    let s0 := s.setPart p { s.part p with retire := v.getLsbD 62 }
    ((s.part p).migbusy.isSome = true ∨ (s.part p).inval.isSome = true → PartWrites s w p (.migrationGo w p v) s0) ∧
    ((s.part p).migbusy = none → (s.part p).inval = none → ∀ o s1, s0.migLeaf p = (o, s1) →
      let dst := (s.part p).migdst.toNat
      (o = none → PartWrites s w p (.migrationGo w p v) (s1.setPart p { s1.part p with migresult := 1 })) ∧
      ∀ x, o = some x →
        (dst % x.pageBytes ≠ 0 ∨ ¬Apart x.pagePa dst x.pageBytes →
          PartWrites s w p (.migrationGo w p v) (s1.setPart p { s1.part p with migresult := 2 })) ∧
        (dst % x.pageBytes = 0 → Apart x.pagePa dst x.pageBytes → x.ownk = false → 0 < x.pageBytes → dst + x.pageBytes ≤ 2 ^ 39 →
          PartWrites s w p (.migrationGo w p v) (s1.setPart p { s1.part p with
            migbusy := some ⟨(s.part p).migva, v.getLsbD 62, x.page, x.entry, x.pagePa, dst, x.pageBytes, false, false⟩ })))) ∧
  ∀ (s : State) (p : PartNum),
    ((s.part p).migbusy = none → exec (.migrationSwitch p) s = .next s ∧ exec (.migrationDone p) s = .next s ∧
      ∀ b, exec (.migrationAborted p b) s = .next s) ∧
    ∀ m, (s.part p).migbusy = some m →
      (m.switched = true → exec (.migrationSwitch p) s = .next s ∧ ∀ b, exec (.migrationAborted p b) s = .next s) ∧
      (m.switched = false → exec (.migrationDone p) s = .next s ∧
        (let cut : Prop := ∃ i < m.bytes, 2 ^ 51 ≤ m.dst ∧ ∀ n e,
            s.trunk.route (regionOf (m.dst + i)) = some (n, e) → e.getLsbD 61 = true
          let aborts (i : Instr) (n : BitVec 4) : Prop := ∃ u : State, exec i s = .next u ∧ (u.part p).migbusy = none ∧
            (u.part p).migresult = n ∧ u.cores = s.cores ∧ u.tasks = s.tasks
          0 < m.bytes → m.dst < 2 ^ 52 →
          (m.lost = true → aborts (.migrationAborted p true) 4 ∧ aborts (.migrationSwitch p) 4) ∧
          (m.lost = false → exec (.migrationAborted p true) s = .next s ∧ (cut → aborts (.migrationSwitch p) 3)) ∧
          (cut → aborts (.migrationAborted p false) 3) ∧ (¬cut → exec (.migrationAborted p false) s = .next s)) ∧
        (m.lost = false → Quiet s → Canonical s → (∀ q, q ≠ p → (s.part q).migbusy = none) → Apart m.src m.dst m.bytes → m.bytes % 64 = 0 →
          m.src % 64 = 0 → m.dst % 64 = 0 → m.src + m.bytes ≤ 2 ^ 39 → m.dst + m.bytes ≤ 2 ^ 39 → m.entry % 8 = 0 →
          m.entry + 8 ≤ 2 ^ 39 → (∀ a ∈ [m.src, m.dst], m.entry + 8 ≤ a ∨ a + m.bytes ≤ m.entry) →
          ∃ u : State, exec (.migrationSwitch p) s = .next u ∧
            u.part p = { s.part p with migbusy := some { m with switched := true }, inval := some ⟨m.page, m.bytes, true, true⟩ } ∧
            u.cores = s.cores ∧ (∀ i < m.bytes, smGet 0 (m.dst + i) u.mem.bytes = smGet 0 (m.src + i) s.mem.bytes) ∧
            (∀ i, i < m.dst ∨ m.dst + m.bytes ≤ i → i < m.entry ∨ m.entry + 8 ≤ i →
              smGet 0 i u.mem.bytes = smGet 0 i s.mem.bytes) ∧
            let old := spelled 8 fun i => smGet 0 (m.entry + i) s.mem.bytes
            spelled 8 (fun i => smGet 0 (m.entry + i) u.mem.bytes) = old / 2 ^ 52 * 2 ^ 52 + m.dst)) ∧
      (m.switched = true → (s.part p).inval.isSome = true → exec (.migrationDone p) s = .next s) ∧
      (m.switched = true → (s.part p).inval = none → ∃ u : State, exec (.migrationDone p) s = .next u ∧
        (u.part p).migbusy = none ∧ (u.part p).migresult = 0 ∧ u.cores = s.cores ∧
        (EventsOff s p → ∀ a, smGet 0 a u.mem.bytes = if m.src ≤ a ∧ a < m.src + m.bytes then 0 else smGet 0 a s.mem.bytes) ∧
        (m.retire = false ∨ s.trunk.seedling = true → u.trunk.repair = s.trunk.repair) ∧
        (m.retire = true → s.trunk.seedling = false → EventsOff s p → smWf 0 s.trunk.repair = true → ∀ i < 4096,
          (smGet 0 i s.trunk.repair).getLsbD 63 = false → (∀ j < i, (smGet 0 j s.trunk.repair).getLsbD 63 = true) →
          (smGet 0 i u.trunk.repair).getLsbD 63 = true ∧
          (smGet 0 i u.trunk.repair).toNat / 2 ^ 16 % 2 ^ 36 = m.src / 2 ^ 16 % 2 ^ 36))

/-- R454, R455, R456: elidemap takes what is written for the granule that elidesel names: a unit whose bit is cleared holds zeros, no other byte of
memory changes, and a unit whose bit is set leaves the undo log. A module that does not announce refresh elision ignores the write (R1). -/
def Sys2Proof.Claims.RefreshElision : Prop :=
  ∀ (s : State) (w : Writer) (v : BitVec 64), smWf 0 s.trunk.elide = true →
    let g := s.trunk.elidesel.toNat
    let old := smGet 0 g s.trunk.elide
    (¬Announced s 0x00A → Writes s w (.elideSet w v) s ∧ Writes s w (.elideClear w v) s) ∧
    (v &&& ~~~old = 0 → Writes s w (.elideSet w v) s) ∧ (old &&& ~~~v = 0 → Writes s w (.elideClear w v) s) ∧
    (Announced s 0x00A → ∃ u : State, (v &&& ~~~old ≠ 0 → Writes s w (.elideSet w v) u) ∧ (old &&& ~~~v ≠ 0 → Writes s w (.elideClear w v) u) ∧
      (∀ j, smGet 0 j u.trunk.elide = if j = g then v else smGet 0 j s.trunk.elide) ∧ u.cores = s.cores ∧ u.parts = s.parts ∧
      (∀ a, smGet 0 a u.mem.bytes = if a / 2 ^ 30 = g ∧ old.getLsbD (a / 2 ^ 24 % 64) = true ∧ v.getLsbD (a / 2 ^ 24 % 64) = false
        then 0 else smGet 0 a s.mem.bytes) ∧
      ∀ e, e ∈ u.undo ↔ e ∈ s.undo ∧ ¬(e.block * 64 / 2 ^ 30 = g ∧ v.getLsbD (e.block * 64 / 2 ^ 24 % 64) = true ∧
        old.getLsbD (e.block * 64 / 2 ^ 24 % 64) = false))

/-- R458, R459, R461, R462, R201: a checkpoint boundary counts in SEQ and keeps the image of a context that has slots and is not suspect, whose loads
are complete; a rollback for a segment check restores the context, its scratchpad and the bytes of its undo log and makes it ready;
without a checkpoint, or where the context is irrevocable, the task is lost. -/
def Sys2Proof.Claims.Checkpoints : Prop :=
  (∀ (s : State) (p : PartNum) (full : Bool),
    ((s.part p).ckptctl.getLsbD 63 = false → exec (.checkpointBoundary p full) s = .next s) ∧
    ((s.part p).ckptctl.getLsbD 63 = true → ∃ u : State, exec (.checkpointBoundary p full) s = .next u ∧ u.cur = s.cur ∧
      (u.part p).ckptseq = (s.part p).ckptseq + 1 ∧
      ∀ (c : CoreNum) (l : Launch), (s.core c).busy = true → (s.core c).ctx.boot = false → (s.core c).ctx.part = p →
        (s.core c).ctx.csr.suspect = false → s.launch? p (s.core c).ctx.lid = some l → l.slots = true →
        (s.core c).ctx.task.board = [] → (s.core c).ctx.hand.board = [] → (∀ i : Fin 16, ((s.core c).ctx.h[i]).win = none) →
        (s.core c).spadErr = [] →
        (∀ e, e ≠ c → (s.core e).ctx.id ≠ (s.core c).ctx.id) → (∀ t ∈ s.tasks, t.id = (s.core c).ctx.id → t.runs = true) →
        ∃ k ∈ u.checkpoints, k.part = p ∧ k.lid = (s.core c).ctx.lid ∧ k.sidx = (s.core c).ctx.sidx ∧
          k.spad = (s.core c).spad ∧ k.spadMark = (s.core c).spadMark ∧ k.ctx.task.a = (s.core c).ctx.task.a ∧
          k.ctx.task.b = (s.core c).ctx.task.b ∧ k.ctx.task.m = (s.core c).ctx.task.m ∧ k.ctx.task.pc = (s.core c).ctx.task.pc ∧
          k.ctx.vec = (s.core c).ctx.vec ∧ k.ctx.mat = (s.core c).ctx.mat ∧ k.ctx.irrevocable = false ∧ k.ctx.released = false ∧
          ∀ x ∈ u.undo, ¬(x.part = p ∧ x.lid = k.lid ∧ x.sidx = k.sidx))) ∧
  ∀ (s : State) (i : TaskId) (t : Task), TheTask s i t →
    ((∀ c, t.status ≠ .rollback c) ∨ t.saving.isSome = true → exec (.rollback i.part i.lid i.sidx) s = .next s) ∧
    (t.status = .rollback 0x15 → t.saving = none →
      (s.checkpoint? i = none ∨ t.ctx.irrevocable = true → ∃ u : State, exec (.rollback i.part i.lid i.sidx) s = .next u ∧
        ∀ x ∈ u.tasks, x.id ≠ i) ∧
      ∀ k, s.checkpoint? i = some k → t.ctx.irrevocable = false → Quiet s → Canonical s → EventsOff s i.part → NoMigration s →
        let log := s.undo.filter fun u => u.part = i.part ∧ u.lid = i.lid ∧ u.sidx = i.sidx
        let framed (a : Nat) : Prop := ∃ l, s.launch? i.part i.lid = some l ∧ l.base + t.frame * l.frameSize ≤ a ∧
          a < l.base + (t.frame + 1) * l.frameSize
        let area := (s.part i.part).ckptlog.toNat
        (∀ e ∈ s.mem.check, ¬(area % 2 ^ 36 * 65536 ≤ e.1 * 64 ∧ e.1 * 64 < (area % 2 ^ 36 + area / 2 ^ 36 % 2 ^ 24) * 65536)) →
        (log.map (·.block)).Nodup → (∀ e ∈ log, e.block * 64 < 2 ^ 39 ∧ ∀ a < 64, ¬framed (e.block * 64 + a)) →
        ∃ u : State, exec (.rollback i.part i.lid i.sidx) s = .next u ∧ u.cores = s.cores ∧
          (∀ x ∈ u.tasks, x.id = i → x.status = .ready ∧ x.spad = k.spad ∧ x.spadMark = k.spadMark ∧ x.ctx.task = k.ctx.task ∧
            x.ctx.vec = k.ctx.vec ∧ x.ctx.mat = k.ctx.mat ∧ x.ctx.walk = k.ctx.walk ∧ x.ctx.segTraps = t.ctx.segTraps) ∧
          (∃ x ∈ u.tasks, x.id = i) ∧ (∀ x ∈ u.undo, ¬(x.part = i.part ∧ x.lid = i.lid ∧ x.sidx = i.sidx)) ∧
          (∀ e ∈ log, ∀ j < 64, e.mask.getLsbD j = true → smGet 0 (e.block * 64 + j) u.mem.bytes = e.old.getD j 0) ∧
          ∀ a, ¬framed a → (∀ e ∈ log, ¬(a / 64 = e.block ∧ e.mask.getLsbD (a % 64) = true)) → smGet 0 a u.mem.bytes = smGet 0 a s.mem.bytes)

/-- Refresh elision, checkpoints and rollbacks (R201, R454, R455, R456, R458, R459, R461, R462). -/
def Obligations.ElisionAndCheckpoints : Prop := Sys2Proof.Claims.RefreshElision ∧ Sys2Proof.Claims.Checkpoints

/-! ## Dormancy and start -/

namespace Sys2Proof.Claims

/-- A warning takes effect (R467, R1): dormancy is announced and enabled, the reserve is charged, and the module is not dormant. -/
def WarningCounts (s : State) : Prop := Announced s 0x007 ∧ s.trunk.dormctl.getLsbD 63 = true ∧ s.trunk.charged = true ∧ s.trunk.phase = 0
/-- The dormancy trap (R467, R469, R490): phase 1 with its cause, every task context off its core, the running cut ended; what a core's
scratchpad holds stays. -/
def Warned (s u : State) (cause : BitVec 8) : Prop :=
  u.trunk.phase = 1 ∧ u.trunk.warnCause = cause ∧ u.trunk.cut = none ∧ u.trunk.manifests = s.trunk.manifests ∧ u.cur = s.cur ∧
  ∀ c : CoreNum, (s.core c).busy = true → (s.core c).ctx.boot = false → (u.core c).busy = false ∧
    ((∀ e : CoreNum, (s.core e).busy = true → (s.core e).ctx.task.board = [] ∧ (s.core e).ctx.hand.board = [] ∧
      ∀ i : Fin 16, ((s.core e).ctx.h[i]).win = none ∧ (s.core e).ctx.queues[i].entries = []) → (u.core c).spad = (s.core c).spad)
/-- A sealed manifest stands in a slot with a sequence number (R480). -/
def SealedIn (s : State) (i : Fin 2) (n : Nat) : Prop := ∃ m, s.trunk.manifests[i] = some m ∧ m.state = 2 ∧ m.seq.toNat = n
/-- The slot that a dormancy writes: not the newest sealed one's. -/
def WritesSlot (s : State) (i : Fin 2) : Prop :=
  ∀ j n, SealedIn s j n → (∀ k m, SealedIn s k m → m < n ∨ (m = n ∧ k = j)) → i ≠ j
/-- A start has begun (R498, R499): step 1, every domain but Glidin's reset, memory empty but for the pool devices; what heartwood, the sealed
configuration and Glidin's domain hold stays. -/
def Began (s u : State) : Prop :=
  u.trunk.step = 1 ∧ u.trunk.done = false ∧ u.trunk.powered = true ∧ u.trunk.seedling = decide (s.trunk.fails = 3) ∧
  u.trunk.fails = s.trunk.fails ∧ u.trunk.reason = s.trunk.reason ∧ u.trunk.manifests = s.trunk.manifests ∧
  u.trunk.repair = s.trunk.repair ∧ u.trunk.cuts = s.trunk.cuts ∧ u.trunk.glidin = s.trunk.glidin ∧ u.trunk.brown = 0 ∧
  u.trunk.modid = 0 ∧ u.trunk.groveslive = 0 ∧ u.trunk.memown = [] ∧ u.trunk.elide = [] ∧ u.trunk.routes = [] ∧
  u.trunk.phase = (if 5 ≤ s.trunk.phase.toNat then 5 else 0) ∧ u.clock = s.clock ∧
  u.cores = [] ∧ u.tasks = [] ∧ u.launches = [] ∧ u.phasers = [] ∧ (∀ p, u.part p = Part.zero) ∧ (∀ g, u.grove g = Grove.zero) ∧
  u.mem.dirty = [] ∧ u.mem.bytes = s.mem.bytes.filter fun c => target c.1 = .pool
/-- A start has failed with a reason, and the next has begun (R499). -/
def Failed (s u : State) (reason : BitVec 8) : Prop :=
  Began { s with trunk := { s.trunk with fails := if s.trunk.fails = 3 then 3 else s.trunk.fails + 1, reason := reason } } u
/-- Power is lost (R499): every domain but Glidin's. -/
def PowerLost (s u : State) : Prop :=
  u.trunk.powered = false ∧ u.trunk.step = 0 ∧ u.trunk.done = false ∧ u.trunk.fails = s.trunk.fails ∧ u.cores = [] ∧ u.tasks = [] ∧
  u.launches = [] ∧ (∀ p, u.part p = Part.zero) ∧ u.trunk.manifests = s.trunk.manifests ∧ u.trunk.glidin = s.trunk.glidin ∧
  u.mem.bytes = s.mem.bytes.filter fun c => target c.1 = .pool
/-- The module is in phases 1 to 5 of dormancy, with no start under way (R470). -/
def Dormant (s : State) : Prop := s.trunk.done = true ∧ 1 ≤ s.trunk.phase.toNat ∧ s.trunk.phase.toNat ≤ 5

end Sys2Proof.Claims

/-- R467, R468, R505, R1: a warning from an enabled input, or TEST, stops the module; one that does not count, or on a module that does not
announce dormancy, changes nothing. DISCARD unseals both
manifests outside dormancy. The reserve charges outside phases 1 to 5, and once it is spent the last ports go dark. -/
def Sys2Proof.Claims.DormancyWarnings : Prop :=
  (∀ (s : State) (shelf : Bool),
    (s.trunk.dormctl.getLsbD (if shelf then 62 else 61) = false ∨ ¬WarningCounts s →
      exec (.powerFailWarning shelf) s = .next s) ∧
    (s.trunk.dormctl.getLsbD (if shelf then 62 else 61) = true → WarningCounts s → ∃ u : State,
      exec (.powerFailWarning shelf) s = .next u ∧ Warned s u (if shelf then 1 else 0))) ∧
  (∀ (s : State) (w : Writer) (v : BitVec 64),
    let t := trunkTo s { s.trunk with dormctl := v &&& 0xE000FFFFFFFFFFFF }
    (¬Announced s 0x007 → Writes s w (.dormctlTest w v) s ∧ Writes s w (.dormctlDiscard w v) s) ∧
    (Announced s 0x007 → v.getLsbD 60 = true → v.getLsbD 59 = false →
      (¬WarningCounts t → Writes s w (.dormctlTest w v) t) ∧
      (WarningCounts t → ∃ u : State, Writes s w (.dormctlTest w v) u ∧ Warned t u 2)) ∧
    (Announced s 0x007 → v.getLsbD 59 = true → v.getLsbD 60 = false →
      (s.trunk.phase ≠ 0 → Writes s w (.dormctlDiscard w v) t) ∧
      (s.trunk.phase = 0 → ∃ u : State, Writes s w (.dormctlDiscard w v) u ∧
        u = trunkTo t { t.trunk with manifests := u.trunk.manifests } ∧
        ∀ i : Fin 2, u.trunk.manifests[i] = (s.trunk.manifests[i]).map fun m => { m with state := 0 }))) ∧
  ∀ s : State,
    exec .reserveCharged s = .next (if s.trunk.powered = true ∧ (s.trunk.phase = 0 ∨ s.trunk.phase = 6) then
      trunkTo s { s.trunk with charged := true } else s) ∧
    (s.trunk.phase ≠ 5 → exec .reserveSpent s = .next s) ∧
    (s.trunk.phase = 5 → ∃ u : State, exec .reserveSpent s = .next u ∧
      u = trunkTo s { s.trunk with charged := false, fabports := u.trunk.fabports } ∧
      ∀ i : Fin 36, u.trunk.fabports[i] = s.trunk.fabports[i] &&& 0x7FFFFFFF)

/-- R469, R471, R474, R475, R476, R478, R479, R480: the phases of dormancy: contexts that have not stopped are lost; dirty pool lines are written
back, ports without KEEP go off and the manifest is opened in the slot that does not hold the newest sealed one; the drain fills
it, nothing of a locked partition in it, and seals it if every must-drain region is full; each step acts in its phase alone. -/
def Sys2Proof.Claims.DormancyPhases : Prop :=
  ∀ s : State,
    (s.trunk.phase ≠ 1 → exec .stopPhaseEnd s = .next s) ∧
    (s.trunk.phase = 1 → ∃ u : State, exec .stopPhaseEnd s = .next u ∧ u.trunk = { s.trunk with phase := 2 } ∧ u.mem = s.mem ∧
      u.tasks = s.tasks ∧ ∀ c : CoreNum, (s.core c).busy = true → (s.core c).ctx.boot = false → (u.core c).busy = false) ∧
    (s.trunk.phase ≠ 2 → exec .writeBackDone s = .next s) ∧
    (s.trunk.phase = 2 → smSorted none s.mem.dirty = true → ∃ (u : State) (i : Fin 2) (m : Manifest),
      exec .writeBackDone s = .next u ∧ u.trunk.phase = 3 ∧ u.mem.dirty = [] ∧ u.cores = s.cores ∧ u.parts = s.parts ∧
      WritesSlot s i ∧ u.trunk.manifests[i] = some m ∧ (∀ j, j ≠ i → u.trunk.manifests[j] = s.trunk.manifests[j]) ∧
      m.state = 1 ∧ m.modnum = s.trunk.modid.setWidth 18 ∧ m.cause = s.trunk.warnCause ∧ m.time = s.trunk.warnTime ∧
      (∀ j n, SealedIn s j n → n < 2 ^ 64 - 1 → n < m.seq.toNat ∨ ∃ k x, SealedIn s k x ∧ 2 ^ 64 - 1 ≤ x) ∧
      (∀ j : Fin 36, u.trunk.fabports[j] = if (s.trunk.fabports[j]).getLsbD 28 = true then s.trunk.fabports[j]
        else s.trunk.fabports[j] &&& 0x7FFFFFFF) ∧
      (u.trunk.hot.isSome = true ↔ ∃ g : GroveNum, pwrField s g 2 2 = 3)) ∧
    (s.trunk.phase ≠ 3 → exec .drainDone s = .next s ∧ ∀ n, exec (.reserveAtSealres n) s = .next s) ∧
    (s.trunk.phase = 3 → ∀ n : Nat, ∀ i : Fin 2, i = s.trunk.drainSlot → ∃ (u v : State) (m x : Manifest),
      exec .drainDone s = .next u ∧ exec (.reserveAtSealres n) s = .next v ∧ u.trunk.manifests[i] = some m ∧
      v.trunk.manifests[i] = some x ∧ (s.trunk.hot = none → u.trunk.phase = 4 ∧ ∀ r ∈ m.regions, r.status = 0 ∨ r.status = 3) ∧
      (v.trunk.phase = 4 ↔ ∀ r ∈ x.regions, r.must = true → r.status = 0 ∨ r.status = 3) ∧
      (v.trunk.phase = 4 ∨ v.trunk.phase = 5) ∧ v.mem = s.mem ∧ v.cores = s.cores ∧
      (∀ t ∈ x.tasks, t ∈ s.tasks ∧ ¬(tdiOf s t.part = 1 ∨ tdiOf s t.part = 2)) ∧
      (∀ r ∈ x.regions, (tdiOf s r.part = 1 ∨ tdiOf s r.part = 2) ↔ r.status = 3) ∧
      (∀ e ∈ x.parts, ∀ j : Fin 16, e.2.keys[j] = none ∧ e.2.ranges[j] = none) ∧ x.launches = s.launches ∧
      x.memown = s.trunk.memown) ∧
    (s.trunk.phase ≠ 4 → exec .sealWritten s = .next s) ∧
    (s.trunk.phase = 4 → ∀ m, s.trunk.manifests[s.trunk.drainSlot] = some m → exec .sealWritten s = .next (trunkTo s { s.trunk with
      phase := 5, manifests := s.trunk.manifests.set s.trunk.drainSlot (some { m with state := 2 }) }))

/-- Dormancy: its warnings and its phases (R467, R468, R469, R471, R474, R475, R476, R478, R479, R480, R505). -/
def Obligations.Dormancy : Prop := Sys2Proof.Claims.DormancyWarnings ∧ Sys2Proof.Claims.DormancyPhases

/-- R470, R479, R498, R499, R500, R504: what begins a start and what loses power: power-on, a fundamental reset outside dormancy, startctl.FULL once a
start is complete, which clears FAILS, a loss of the main supply outside dormancy, a hard thermal trip in every state, the loss of the
auxiliary supply, which clears Glidin's domain. -/
def Sys2Proof.Claims.PowerAndResets : Prop :=
  ∀ (s : State) (w : Writer) (v : BitVec 64),
    (s.trunk.powered = false ∨ (Dormant s ∧ s.trunk.phase = 5) ∨ (s.trunk.step = 0 ∧ s.trunk.done = false) →
      ∃ u : State, exec .powerOn s = .next u ∧ Began s u) ∧
    (s.trunk.powered = true → ¬(Dormant s ∧ s.trunk.phase = 5) → ¬(s.trunk.step = 0 ∧ s.trunk.done = false) →
      exec .powerOn s = .next s) ∧
    (s.trunk.powered = true → ¬Dormant s → (∃ u : State, exec .fundamentalReset s = .next u ∧ Began s u) ∧
      ∃ u : State, exec .supplyLoss s = .next u ∧ PowerLost s u) ∧
    (s.trunk.powered = false ∨ Dormant s → exec .fundamentalReset s = .next s ∧ exec .supplyLoss s = .next s) ∧
    (s.trunk.powered = true → ∃ u : State, exec .hardThermalTrip s = .next u ∧ PowerLost s u) ∧
    (s.trunk.powered = false → exec .hardThermalTrip s = .next s) ∧
    (v.getLsbD 63 = false ∨ s.trunk.done = false → Writes s w (.fullStart w v) s) ∧
    (v.getLsbD 63 = true → s.trunk.done = true → ∃ u : State, Writes s w (.fullStart w v) u ∧
      Began (trunkTo s { s.trunk with fails := 0 }) u) ∧
    exec .auxiliarySupplyLoss s = .next { s with
      clock := 0, trunk := { s.trunk with fails := 0, reason := 0, glidin := [], glidinSeq := 0 } }

/-- R413, R498, R499, R503, R504, R506, R507, R508: a step of a start that ends well leads to the next: step 2 derives the key unit's keys, step 6 runs the march test on every core, and its end brings up
the groves that pass, in seedling mode the lowest alone; step 8 completes the start and, in a full start, clears FAILS. A step that
fails with a reason of its own, or a timeout from step 2 on, counts in FAILS, records its reason and begins the next start. Outside a start nothing happens. -/
def Sys2Proof.Claims.StartSteps : Prop :=
  ∀ (s : State),
    let starting : Prop := s.trunk.powered = true ∧ s.trunk.done = false ∧ s.trunk.step ≠ 0
    let full : Prop := s.trunk.seedling = false
    let configured : Prop := full ∨ (s.trunk.reason ≠ 0x03 ∧ s.trunk.reason ≠ 0x04)
    let mayFail (r : BitVec 8) : Prop := (s.trunk.step = 2 ∧ (r = 0x01 ∨ r = 0x02)) ∨ (s.trunk.step = 3 ∧ r = 0x03 ∧ configured) ∨
      (s.trunk.step = 4 ∧ r = 0x04 ∧ configured) ∨ (s.trunk.step = 5 ∧ (r = 0x05 ∨ r = 0x0A)) ∨
      (s.trunk.step = 6 ∧ ((r = 0x07 ∧ full) ∨ r = 0x0A)) ∨ (s.trunk.step = 7 ∧ r = 0x08 ∧ full)
    (¬starting → (∀ r, exec (.startStep r) s = .next s) ∧ exec .startTimeout s = .next s) ∧
    (starting → ∀ (reason : BitVec 8) (groves : BitVec 16),
      (mayFail reason → ∃ u : State, exec (.startStep (.failed reason)) s = .next u ∧ Failed s u reason) ∧
      (¬mayFail reason → exec (.startStep (.failed reason)) s = .next s) ∧
      (2 ≤ s.trunk.step.toNat → ∃ u : State, exec .startTimeout s = .next u ∧ Failed s u 0x09) ∧
      (s.trunk.step.toNat < 2 → exec .startTimeout s = .next s) ∧
      (s.trunk.step.toNat < 5 → exec (.startStep (.ok groves)) s = .next (trunkTo s { s.trunk with
        step := s.trunk.step + 1, unitKeys := if s.trunk.step = 2 then keyUnit Config.rootSecret else s.trunk.unitKeys })) ∧
      (s.trunk.step = 5 → ∃ u : State, exec (.startStep (.ok groves)) s = .next u ∧ u.trunk.step = 6 ∧
        ∀ c : CoreNum, (u.core c).busy = true ∧ (u.core c).ctx.boot = true ∧ (u.core c).ctx.walk.run = 2 ∧
          (u.core c).ctx.kern.spad = 0x180000 ∧ (u.core c).spad = []) ∧
      (s.trunk.step = 6 → s.booting = true → exec (.startStep (.ok groves)) s = .next s) ∧
      (s.trunk.step = 6 → s.booting = false → s.trunk.retest = [] →
        (∀ c : CoreNum, s.marchSummary c = 1#64 <<< 63) → groves ≠ 0 → ∃ u : State, exec (.startStep (.ok groves)) s = .next u ∧
          u.trunk.step = 7 ∧ u.trunk.groveok = groves ∧ u.mem = s.mem ∧
          (s.trunk.seedling = false → u.trunk.groveslive = groves) ∧
          (s.trunk.seedling = true → ∀ g < 16, u.trunk.groveslive.getLsbD g = (groves.getLsbD g &&
            decide (∀ h < g, groves.getLsbD h = false))) ∧
          ∀ d < 4, u.trunk.dieslive.getLsbD d = true ↔ ∃ g < 4, u.trunk.groveslive.getLsbD (4 * d + g) = true) ∧
      (s.trunk.step = 6 → s.booting = false → s.trunk.retest = [] → groves = 0 → ∃ u : State,
        exec (.startStep (.ok groves)) s = .next u ∧ Failed (trunkTo s { s.trunk with groveok := 0 }) u 0x06) ∧
      (s.trunk.step = 7 → s.trunk.seedling = true → exec (.startStep (.ok groves)) s = .next (trunkTo s { s.trunk with
        step := 8, done := true, phase := 0 })) ∧
      (s.trunk.step = 7 → s.trunk.seedling = false → ∃ u : State, exec (.startStep (.ok groves)) s = .next u ∧
        u.trunk.step = 8 ∧ u.trunk.done = true ∧ u.trunk.phase = 0 ∧ u.trunk.fails = 0 ∧
        ((∀ i : Fin 2, s.trunk.manifests[i] = none) → s.trunk.cuts = [] → u.cores = s.cores ∧ u.mem = s.mem ∧ u.tasks = s.tasks ∧
          u.launches = s.launches)))

/-- Power, resets and the steps of a start (R470, R479, R498, R499, R500, R503, R504, R506, R507, R508). -/
def Obligations.Starts : Prop := Sys2Proof.Claims.PowerAndResets ∧ Sys2Proof.Claims.StartSteps

/-! ## Pollard mode, cuts, configuration space -/

namespace Sys2Proof.Claims

/-- SHED bit of die `d`. -/
def shedBit (s : State) (d : Nat) : Bool := s.trunk.pollctl.getLsbD d
/-- A cut fails or is ended with a result (R488): no cut runs, RESULT tells why. -/
def CutFailed (s u : State) (result : Nat) : Prop :=
  u.trunk.cut = none ∧ u.trunk.cutstat.toNat / 2 ^ 56 % 16 = result ∧
  (∀ i < 64, i < 56 ∨ 60 ≤ i → u.trunk.cutstat.getLsbD i = s.trunk.cutstat.getLsbD i) ∧ u.trunk.cuts = s.trunk.cuts ∧
  u.cores = s.cores ∧ u.tasks = s.tasks
/-- A write of 8 bytes at an offset of configuration space leaves a state. -/
def Stores (s : State) (w : Writer) (off : Nat) (v : BitVec 64) (t : State) : Prop :=
  exec (.registerWrite w (BitVec.ofNat 16 off) true v) s = .next t
/-- The answer of the host link to a read of 8 bytes: their value. -/
def Answers8 (s : State) (off : Nat) (v : BitVec 64) (t : State) : Prop :=
  exec (.readClear .host false (BitVec.ofNat 16 off)) s =
    .next { t with tick := t.tick + 1, out := t.out ++ [.hostData (leBytes 8 v.toNat) false] }

end Sys2Proof.Claims

/-- R484, R485, R486: a rise of the brown-out level with AUTO marks the highest-numbered live die but the last, a fall that lasted takes the latest
mark off; a marked die is shed: its groves go, its contexts are saved and wait for it, memory and scratchpads stay,
but as long as a save goes on there it is not shed; a die whose mark is
off comes back with the groves that the start brought up, and its tasks are ready. -/
def Sys2Proof.Claims.PollardMode : Prop :=
  ∀ (s : State) (level d : BitVec 2),
    let live (n : Nat) : Prop := n < 4 ∧ s.trunk.dieslive.getLsbD n = true ∧ shedBit s n = false
    (s.trunk.pollctl.getLsbD 63 = false ∨ level.toNat ≤ s.trunk.brown.toNat ∨ ¬Announced s 0x008 →
      exec (.brownOutChange level) s = .next (trunkTo s { s.trunk with brown := level })) ∧
    (s.trunk.pollctl.getLsbD 63 = true → s.trunk.brown.toNat < level.toNat → Announced s 0x008 →
      (∀ n m, live n → live m → m < n → (∀ k, live k → k ≤ n) → exec (.brownOutChange level) s = .next (trunkTo s { s.trunk with
        brown := level, pollctl := s.trunk.pollctl ||| (1#64 <<< n) })) ∧
      ((∀ n m, live n → live m → n = m) →
        exec (.brownOutChange level) s = .next (trunkTo s { s.trunk with brown := level }))) ∧
    (s.trunk.pollctl.getLsbD 63 = false ∨ s.trunk.shedOrder = [] ∨ ¬Announced s 0x008 → exec .brownFallHeld s = .next s) ∧
    (s.trunk.pollctl.getLsbD 63 = true → Announced s 0x008 → ∀ l n, s.trunk.shedOrder = l ++ [n] → exec .brownFallHeld s =
      .next (trunkTo s { s.trunk with pollctl := s.trunk.pollctl &&& ~~~(1#64 <<< n.toNat) })) ∧
    (shedBit s d.toNat = false ∨ d ∈ s.trunk.shedOrder → exec (.dieShed d) s = .next s) ∧
    (shedBit s d.toNat = true → d ∉ s.trunk.shedOrder → ∃ u : State, exec (.dieShed d) s = .next u ∧ u.cur = s.cur ∧
      let free : Prop := ∀ e ∈ u.cores, dieOf (BitVec.ofNat 8 e.1) = d → e.2.busy = false
      (free → u.trunk.shedOrder = s.trunk.shedOrder ++ [d] ∧
        (∀ n < 4, u.trunk.dieslive.getLsbD n = (s.trunk.dieslive.getLsbD n && n ≠ d.toNat)) ∧
        ∀ g < 16, u.trunk.groveslive.getLsbD g = (s.trunk.groveslive.getLsbD g && g / 4 ≠ d.toNat)) ∧
      (¬free → u.trunk.shedOrder = s.trunk.shedOrder ∧ u.trunk.dieslive = s.trunk.dieslive ∧
        u.trunk.groveslive = s.trunk.groveslive) ∧
      ∀ c : CoreNum, dieOf c = d → (s.core c).busy = true → (s.core c).ctx.boot = false →
        (∀ i : Fin 16, (s.core c).ctx.queues[i].entries = []) → (u.core c).busy = false ∧
        (NotKilled s c → (∀ i : Fin 16, ((s.core c).ctx.h[i]).win = none) → (s.core c).ctx.task.board = [] →
          (s.core c).ctx.hand.board = [] →
          (∀ e, e ≠ c → (s.core e).busy = true → (s.core e).ctx.id ≠ (s.core c).ctx.id) → SavedAs s u c .die)) ∧
    (shedBit s d.toNat = true ∨ d ∉ s.trunk.shedOrder → exec (.dieRestore d) s = .next s) ∧
    (shedBit s d.toNat = false → d ∈ s.trunk.shedOrder → ∃ u : State, exec (.dieRestore d) s = .next u ∧
      u.trunk.shedOrder = s.trunk.shedOrder.filter (fun x => x ≠ d) ∧ u.cores = s.cores ∧
      (∀ g < 16, u.trunk.groveslive.getLsbD g = (s.trunk.groveslive.getLsbD g ||
        (s.trunk.groveok.getLsbD g && g / 4 = d.toNat))) ∧
      u.tasks = s.tasks.map fun t => if t.status = .die ∧ dieOf t.home = d then
        { t with status := .ready, ready := s.seqno, aging := 0 } else t)

/-- R488, R490, R491: GO with OP 1 arms a cut of a phase to come, or ends late; OP 3 ends the cut that runs; a cut whose copy is finished is
stored in the half that does not hold the last one and its RESULT is 0, and one whose target is not reachable fails; OP 2 without a
live launch puts the stored half back, or fails where there is none. A module that does not announce the engine ignores the writes (R1). -/
def Sys2Proof.Claims.Cuts : Prop :=
  ∀ (s : State) (w : Writer) (v : BitVec 64), v.getLsbD 63 = true →
    let op := v.toNat / 2 ^ 61 % 4
    let p : PartNum := v.extractLsb' 56 3
    let g := v.toNat / 2 ^ 32 % 2 ^ 10
    let step : BitVec 32 := v.setWidth 32
    let t := trunkTo s { s.trunk with cutctl := v &&& 0x1F0003FFFFFFFFFF }
    (¬Announced s 0x006 → Writes s w (.cutTake w v) s ∧ Writes s w (.cutRestore w v) s ∧ Writes s w (.cutAbort w v) s) ∧
    let past : Prop := ∃ x, s.phaser? ((smGet 0 g (s.part p).groups).extractLsb' 64 32) = some x ∧ x.part = p ∧
      1 ≤ (x.phase - step).toNat ∧ (x.phase - step).toNat < 2 ^ 31
    (Announced s 0x006 → op = 1 → (s.trunk.cut.isSome = true → Writes s w (.cutTake w v) t) ∧
      (s.trunk.cut = none → (past → ∃ u : State, Writes s w (.cutTake w v) u ∧ CutFailed s u 1) ∧
        (¬past → Writes s w (.cutTake w v) (trunkTo t { t.trunk with cut := some ⟨p, BitVec.ofNat 10 g, step, true, none⟩ })))) ∧
    (Announced s 0x006 → op = 3 → (s.trunk.cut = none → Writes s w (.cutAbort w v) t) ∧
      (s.trunk.cut.isSome = true → ∃ u : State, Writes s w (.cutAbort w v) u ∧ CutFailed s u 2)) ∧
    (Announced s 0x006 → op = 2 → s.trunk.cut = none →
      (s.liveLids p ≠ [] → Writes s w (.cutRestore w v) t) ∧
      (s.liveLids p = [] →
        ((∀ c ∈ s.trunk.cuts, ¬(c.part = p ∧ c.half = s.trunk.cutstat.getLsbD 32)) →
          ∃ u : State, Writes s w (.cutRestore w v) u ∧ CutFailed s u 6) ∧
        ∀ c, s.trunk.cuts.find? (fun c => c.part = p ∧ c.half = s.trunk.cutstat.getLsbD 32) = some c →
          smWf 0 s.mem.bytes = true → s.trunk.elide = [] → (c.data.map (·.1)).Nodup →
          (∀ e ∈ c.data, e.1 < 2 ^ 39 ∧ s.trunk.owner (e.1 / 2 ^ 30) = p.setWidth 4) →
          ∃ u : State, Writes s w (.cutRestore w v) u ∧ u.trunk.cutstat.toNat / 2 ^ 56 % 16 = 0 ∧ u.cores = s.cores ∧
            (∀ e ∈ c.data, smGet 0 e.1 u.mem.bytes = e.2) ∧
            ∀ a, (∀ e ∈ c.data, e.1 ≠ a) → (∀ r ∈ c.regions, ¬(r.base ≤ a ∧ a < r.base + r.bytes)) →
              smGet 0 a u.mem.bytes = smGet 0 a s.mem.bytes)) ∧
    ((s.trunk.cut = none ∨ ∃ r, s.trunk.cut = some r ∧ r.snap = none) → ∀ b, exec (.cutDone b) s = .next s) ∧
    ∀ r c, s.trunk.cut = some r → r.snap = some c →
      (s.trunk.cutctl.getLsbD 59 = true → ∃ u : State, exec (.cutDone false) s = .next u ∧ CutFailed s u 3) ∧
      (s.trunk.cutctl.getLsbD 60 = true → s.trunk.cutFits c = false →
        ∃ u : State, exec (.cutDone true) s = .next u ∧ CutFailed s u 4) ∧
      (s.trunk.cutctl.getLsbD 60 = true → s.trunk.cutFits c = true → ∃ (u : State) (x : Cut),
        exec (.cutDone true) s = .next u ∧ u.trunk.cut = none ∧ u.trunk.cutstat.toNat / 2 ^ 56 % 16 = 0 ∧
        x ∈ u.trunk.cuts ∧ x.part = c.part ∧ x.data = c.data ∧ x.marks = c.marks ∧ x.regions = c.regions ∧
        x.step = c.step ∧ x.group = c.group ∧ u.trunk.cutstat.getLsbD 32 = x.half ∧
        (∀ a b y h, (s.part c.part).lastCut = some (a, b, y, h) → x.half = !h) ∧
        (∀ y ∈ s.trunk.cuts, y.part ≠ c.part ∨ y.half ≠ x.half → y ∈ u.trunk.cuts) ∧
        (u.part c.part).lastCut = some (x.seq, c.group, c.step, x.half) ∧ u.cores = s.cores)

/-- Pollard mode and the cambium engine (R484, R485, R486, R488, R490, R491). -/
def Obligations.PollardAndCuts : Prop := Sys2Proof.Claims.PollardMode ∧ Sys2Proof.Claims.Cuts

/-- R8, R10, R22, R28, R350, R385, R401, R403, R405, R409, R429, R457: a write of a register's word stores the bits that it has, and a partition's
supervisor reaches its own blocks alone; a read gives the word, and RC fields are zero after it. From dormancy's write-back phase on
the host is answered Unsupported Request. -/
def Obligations.ConfigurationSpace : Prop :=
  ∀ (s : State) (w : Writer) (v : BitVec 64) (p : PartNum),
    let b := 0x40 * p.toNat
    let q := s.part p
    (w = .glidin ∨ (w = .host ∧ s.trunk.phase.toNat < 2) →
      Stores s w 0x7400 v (trunkTo s { s.trunk with memsel := v.setWidth 12 }) ∧
      Stores s w 0x7410 v (trunkTo s { s.trunk with elidesel := v.setWidth 9 }) ∧
      Stores s w 0x8010 v (trunkTo s { s.trunk with drainsel := v.setWidth 8 }) ∧
      Stores s w 0x8020 v (trunkTo s { s.trunk with drainent1 := v }) ∧
      Stores s w 0x9010 v (trunkTo s { s.trunk with repsel := v.setWidth 12 }) ∧
      Stores s w 0x8110 v (trunkTo s { s.trunk with cuttgt := v }) ∧
      (∀ n < 16, Stores s w (0x5008 + 16 * n) v (s.onGrove (BitVec.ofNat 4 n) fun g => { g with ramp := v })) ∧
      (∀ off : Nat, off = 0x8008 ∨ off = 0x8028 ∨ off = 0x8030 ∨ off = 0x8048 ∨ off = 0x9000 ∨ off = 0xB000 → Stores s w off v s)) ∧
    (w = .glidin ∨ w = .supervisor p ∨ (w = .host ∧ s.trunk.phase.toNat < 2) →
      (∃ r : BitVec 64, (∀ i < 64, r.getLsbD i = (v.getLsbD i && (i < 52 || i = 63))) ∧
        Stores s w (0x4038 + b) v (s.setPart p { q with trapvec := r })) ∧
      (∃ r : BitVec 64, (r.getLsbD 63 = v.getLsbD 63 ∧ r.toNat / 2 ^ 48 % 2 ^ 15 = 0 ∧
          ∀ j < 3, r.toNat / 2 ^ (16 * j) % 2 ^ 16 = max 1 (v.toNat / 2 ^ (16 * j) % 2 ^ 16)) ∧
        Stores s w (0x4000 + b) v (s.setPart p { q with schedctl := r })) ∧
      (Stores s w (0x4028 + b) v (if (q.evqtail - q.evqhead).toNat < ((v.setWidth 32 : BitVec 32) - q.evqhead).toNat then s
        else s.setPart p { q with evqhead := v.setWidth 32 })) ∧
      (∃ r : BitVec 64, (∀ i < 64, r.getLsbD i = (v.getLsbD i && (16 ≤ i && i < 56))) ∧
        Stores s w (0x6008 + b) v (s.setPart p { q with invva := r }) ∧
        Stores s w (0x6020 + b) v (s.setPart p { q with migva := r })) ∧
      (∃ r : BitVec 64, (∀ i < 64, r.getLsbD i = (v.getLsbD i && i < 52)) ∧
        Stores s w (0x6028 + b) v (s.setPart p { q with migdst := r })) ∧
      (∃ r : BitVec 64, r.toNat = v.toNat / 2 ^ 63 * 2 ^ 63 + max 10 (v.toNat % 32) ∧
        Stores s w (0x6038 + b) v (s.setPart p { q with hotctl := r })) ∧
      (v.getLsbD 63 = true → ∃ r : BitVec 64, r.toNat = 2 ^ 63 + min 10000 (max 1 (v.toNat % 2 ^ 16)) ∧
        Stores s w (0x7028 + b) v (s.setPart p { q with ckptctl := r })) ∧
      Stores s w (0x6018 + b) v s) ∧
    (w = .host → 2 ≤ s.trunk.phase.toNat → ∀ off < 0x10000, Stores s w off v { s with out := s.out ++ [.unsupported] }) ∧
    (∀ r : PartNum, w = .supervisor r → r ≠ p → ∀ k < 8,
      Stores s w (0x4000 + b + 8 * k) v s ∧ Stores s w (0x6000 + b + 8 * k) v s ∧ Stores s w (0x7000 + b + 8 * k) v s) ∧
    (∀ r : PartNum, w = .supervisor r → Stores s w (0x7000 + 0x40 * r.toNat) v s ∧ Stores s w 0x7400 v s ∧ Stores s w 0x8000 v s) ∧
    (s.trunk.phase.toNat < 2 →
      Answers8 s 0 (s.trunk.modid ++ 0x0E024E58#32) s ∧
      (∀ j : Fin 36, Answers8 s (0x1000 + 16 * j.val) ((s.trunk.fabports[j]).setWidth 64)
        (trunkTo s { s.trunk with fabports := s.trunk.fabports.set j (s.trunk.fabports[j] &&& 0xFFFF0000) })) ∧
      Answers8 s (0x4030 + b) (q.evqlost ++ q.evqtail) (s.setPart p { q with evqlost := 0 }) ∧
      Answers8 s (0x7000 + b) q.partctl s ∧ Answers8 s (0x4000 + b) q.schedctl s ∧ Answers8 s (0x6000 + b) q.ptroot s ∧
      Answers8 s 0x8000 s.trunk.dormctl s ∧ Answers8 s 0x8040 s.trunk.pollctl s)

/-! ## The machine: words, decoding, steps, reset -/

namespace Sys2Proof.Claims

/-- What follows a core's turn: the turn passes. -/
def thenPass (o : Out) : Out := match o with | .next t => .next t.pass | x => x
/-- The word of a slot of the bundle in issue (R52). -/
def slotWord (b : Issue) (n : BitVec 2) : Word32 :=
  if n = 0 then b.wa else if n = 1 then b.wb else if n = 2 then b.wc else b.wd
/-- The slot with a number. -/
def slotNamed (n : BitVec 2) : Slot := if n = 0 then .a else if n = 1 then .b else if n = 2 then .c else .d
/-- The instruction that the slot in issue holds: NOP where slot A is a header (R29, R58), else what its word decodes to. -/
def SlotHolds (b : Issue) (i : Instr) : Prop :=
  if b.slot = 0 ∧ b.wa.toNat / 2 ^ 26 = 0x3F then i = .nop
  else ∃ caps, decodeSlot caps (slotNamed b.slot) (slotWord b b.slot) = some i

end Sys2Proof.Claims

/-- R78, R127, R129, R133, R141, R161, R170, R177, R287, R291, R435: words that the spec writes out stand for the instructions that it names. -/
def Obligations.DecodedWords : Prop :=
  let d (s : Slot) (w : BitVec 32) (i : Instr) : Prop := decodeSlot Config.caps s w = some i
  d .a 0x04611000 (.add 3 1 2) ∧ d .b 0x04820C02 (.lds 4 2 0 3 2) ∧ d .c 0x04A63860 (.vadd 5 6 7 0 6 0) ∧ d .d 0 .nop ∧
  d .a 0x3C21CDEF (.liu 1 1 0xCDEF) ∧ d .a 0x10E111D0 (.extui 7 1 7 16) ∧ d .a 0x60853013 (.fmaS 4 5 6 1) ∧
  d .a 0xB4970005 (.movmRead 4 5) ∧ d .a 0x9080000C (.chk 4 12) ∧ d .a 0xA2EFB801 (.ret 15) ∧ d .a 0xCEE41001 (.csrwr 23 4 1) ∧
  d .b 0x28A12C08 (.stg 5 1 0 2 3 8) ∧ d .b 0x5844340A (.atgCas 2 4 6 1 0 1) ∧ d .b 0x62F7B830 (.fence 3) ∧
  d .b 0x7097B905 (.rrd 4 2) ∧ d .b 0xA0C574C0 (.qcopy 3 2 9 1) ∧ d .b 0xA0043B81 (.qgath 0 2 3 23 0) ∧
  d .c 0x6441B860 (.vredadd 2 1 0 6) ∧ d .c 0xAC811A00 (.vatomadd 4 1 3 2) ∧
  d .d 0x1AF70000 (.fmtw 0 0) ∧ d .d 0x0454B80D (.mma 2 20 1 1 1) ∧ d .d 0x2C3700EC (.dscl 1 0xEC) ∧
  d .d 0x3604A000 (.drd 16 4 20)

/-- R67, R68: a word that encodes a legal instruction decodes to it with every operand, and an instruction's word is the one that it
decodes from. -/
def Obligations.DecodeEncode : Prop :=
  ∀ (i : Instr) (sl : Slot) (w : BitVec 32),
    (encode i = some (sl, w) → i.illegal Config.caps = [] → decodeSlot Config.caps sl w = some i) ∧
    (decodeSlot Config.caps sl w = some i → encode i = some (sl, w) ∨ (i = .nop ∧ w = 0))

/-- R29, R66, R67, R353: a step performs the pending step of another agent if there is one, after which the tasks whose waits it ended are ready, else the current core's turn: its bundle in issue goes
on at the slot that has not committed, or its next bundle issues; each slot runs the instruction that its word decodes to, and the next
slot follows once it commits. A core that is idle, or whose context is being saved, only passes the turn. -/
def Obligations.StepRunsTheDecoded : Prop :=
  ∀ s : State,
    (∀ i l, s.agenda = i :: l → ∀ t, exec i { s with agenda := l } = .next t → step s = .next t.wake) ∧
    (s.agenda = [] →
      ((s.core s.cur).busy = false ∨ (s.core s.cur).saving = true → step s = .next s.pass) ∧
      ((s.core s.cur).busy = true → (s.core s.cur).saving = false → s.thr.issue = none →
        step s = thenPass (runSlots 4 s.issueNext)) ∧
      ∀ b, (s.core s.cur).busy = true → (s.core s.cur).saving = false → s.thr.issue = some b →
        (s.stalledStop = true → step s = .next (s.stop s.cur .ready).pass) ∧
        (s.stalledStop = false → step s = thenPass (runSlots 4 s) ∧
          ∀ i, SlotHolds b i → ∀ t, exec i s = .next t →
            (t.thr.issue = none → step s = .next t.pass) ∧
            (∀ c, t.thr.issue = some c → c.slot = b.slot → step s = .next t.pass) ∧
            ∀ c, t.thr.issue = some c → c.slot ≠ b.slot → step s = thenPass (runSlots 3 t))) ∧
    ∀ b n, s.thr.issue = some b → ∀ i, SlotHolds b i → ∀ t, exec i s = .next t →
      (t.thr.issue = none → runSlots (n + 1) s = .next t) ∧
      ∀ c, t.thr.issue = some c → runSlots (n + 1) s = if c.slot = b.slot then .next t else runSlots n t

/-- The spec names an effect for every step, so every step answers a next state: no instruction, trap or event ends a run. -/
def Obligations.EveryStepGoesOn : Prop := (∀ (i : Instr) (s : State), ∃ t, exec i s = .next t) ∧ ∀ s : State, ∃ t, step s = .next t

/-- The memory keeps its canonical form: every step leaves the tables of bytes, check bytes, dirty lines and quarantine sorted, without an
entry that holds what an unlisted address reads as. -/
def Obligations.MemoryKeepsItsForm : Prop :=
  ∀ s t : State, Memory.wf s.mem = true → step s = .next t → Memory.wf t.mem = true

/-- R350, R385, R403, R407, R411, R457, R378, R383, R308, R468, R484, R488, R500, R7: what reset leaves: registers at the values that their tables give,
no context, no launch, no phaser, no granule owned, memory in its canonical form. -/
def Obligations.ResetState : Prop :=
  let s := State.reset
  (∀ p : PartNum, (s.part p).schedctl = 0x000000C8271003E8 ∧ (s.part p).framectl = 0 ∧ (s.part p).evqbase = 0 ∧
    (s.part p).evqhead = 0 ∧ (s.part p).evqtail = 0 ∧ (s.part p).evqlost = 0 ∧ (s.part p).trapvec = 0 ∧ (s.part p).ptroot = 0 ∧
    (s.part p).invva = 0 ∧ (s.part p).migva = 0 ∧ (s.part p).hotctl = 0x8000000000000010 ∧ (s.part p).partctl = 0 ∧
    (s.part p).ckptctl = 0x3E8 ∧ (s.part p).ckptlog = 0) ∧
  (∀ g : GroveNum, (s.grove g).ramp = 0xFEDCBA9876543210 ∧ (s.grove g).pwr = 0x0000A10000008000 ∧ (s.grove g).window = none ∧
    (s.grove g).freq = 0) ∧
  (∀ j : Fin 36, (s.trunk.fabports[j]).toNat / 2 ^ 31 = 0 ∧ (s.trunk.fabports[j]).toNat % 2 ^ 28 = 0x00C00000) ∧
  s.trunk.pollctl = 0x8000000000007D00 ∧ s.trunk.brown = 0 ∧ s.trunk.cutctl = 0x1000000000000000 ∧ s.trunk.cutstat = 0 ∧ s.trunk.cuttgt = 0 ∧
  s.trunk.dormctl.toNat / 2 ^ 61 = 3 ∧ s.trunk.dormctl.toNat % 2 ^ 32 = 0x03938700 ∧ s.trunk.phase = 0 ∧ s.trunk.done = false ∧ s.trunk.memsel = 0 ∧
  (∀ n < 3584, s.trunk.owner n = 0xF ∧ s.trunk.fabric n = false) ∧
  s.launches = [] ∧ s.tasks = [] ∧ s.phasers = [] ∧ (∀ c : CoreNum, (s.core c).busy = false) ∧
  Memory.wf s.mem = true ∧ ∀ a, smGet 0 a s.mem.bytes = 0

namespace Sys2Proof.Claims

/-- The forms of slots A and B that the handler may not use (R430). -/
def barred : Instr → Bool
  | .segbeg .. | .segend .. | .ringset .. | .rneed .. | .rfree .. | .radv .. | .rpub .. | .rrd .. | .winset .. | .winadv ..
  | .mapset .. | .mapflush .. | .mapinv .. | .mcfill .. | .qcopy .. | .qgath .. | .qscat .. | .qfill .. | .qdec .. | .qenc ..
  | .qcoll .. | .qjoin .. | .qsig .. | .qstat .. => true
  | _ => false
/-- No register or port that a slot can read holds a deferred or a poison value. -/
def Clean (s : State) : Prop :=
  (∀ r, (s.thr.readA r).tag = 0 ∧ (s.thr.readB r).tag = 0 ∧ (s.thr.readD r).tag = 0 ∧ (s.ctx.vec.read r).side = 0) ∧
  ∀ r v, s.portC r = some v → v.tag = 0

end Sys2Proof.Claims

/-- R430, R427, R358: in the handler a form of slot C or D, and a ring, window, map, MCFILL, queue or segment form, has no effect of its own: the task is
lost, with both causes in the record, the second being the privilege cause, or that of a deferred or poison operand, which comes before it. A killed
task ends instead. -/
def Obligations.HandlerLimits : Prop :=
  ∀ (s : State) (i : Instr) (sl : Slot) (w : BitVec 32), s.ctx.inHandler = true → encode i = some (sl, w) →
    sl = .c ∨ sl = .d ∨ barred i = true →
    (NotKilled s s.cur → ∃ n, (n = 2 ∨ n = 3 ∨ n = 4 ∨ n = 5) ∧
      exec i s = .next (s.loseTask s.cur 2 (s.ctx.csr.cause.toNat * 256 + n))) ∧
    (NotKilled s s.cur → Clean s → exec i s = .next (s.loseTask s.cur 2 (s.ctx.csr.cause.toNat * 256 + 0x02))) ∧
    (s.dying s.cur = true → exec i s = .next (s.endTask s.cur false))

namespace Sys2Proof.Claims

/-- The slot A forms whose sources other statements deal with: CHK and MOVM, which take deferred values, and the CSR forms. -/
def sourcesApart : Instr → Bool
  | .chk .. | .movmWriteA .. | .csrrd .. | .csrwr .. | .csrset .. | .csrclr .. => true
  | _ => false

end Sys2Proof.Claims

/-- R49, R122, R426: a slot A form that reads a deferred source traps with the source's specifier, and nothing of it is committed. -/
def Sys2Proof.Claims.DeferredSources : Prop :=
  ∀ (s : State) (i : Instr) (w : Word32) (o : OpKind × Reg), encode i = some (.a, w) → sourcesApart i = false →
    s.ctx.inHandler = false → o ∈ i.operands → o.1.reads = true → (s.thr.readA o.2).tag = 1 →
    (∀ p ∈ i.operands, p.1.reads = true → (s.thr.readA p.2).tag = 1 → p.2 = o.2) →
    exec i s = .next (traps s 0x03 (o.2.setWidth 64))

/-- The traps of deferred and poison sources, of misaligned addresses and of addresses out of bounds (R49, R122, R190, R192, R204, R260, R426). -/
def Obligations.SourceAndAccessChecks : Prop := Sys2Proof.Claims.AccessChecks ∧ Sys2Proof.Claims.DeferredSources
end

