-- ==== Sys2Proof/Laws/Map.lean ====
section
/-!
SUPPORT. Laws of the sparse tables: what a read gives after a write, that every write keeps the canonical form, and that two
tables in canonical form with equal reads are equal.
-/

namespace Sys2Proof.Machine

variable {α : Type}

/-- Keys rise above a lower bound. -/
theorem smSorted_weaken {m : SMap α} {a b : Option Nat} (h : smSorted a m = true)
    (hab : ∀ l, b = some l → ∃ k, a = some k ∧ l ≤ k) : smSorted b m = true := by
  cases m with
  | nil => rfl
  | cons e t =>
    cases b with
    | none => simp [smSorted] at h ⊢; exact h.2
    | some l =>
      obtain ⟨k, rfl, hk⟩ := hab l rfl
      simp [smSorted] at h ⊢
      exact ⟨by omega, h.2⟩

/-- The head is above the bound, and the tail above the head. -/
theorem smSorted_cons {e : Nat × α} {t : SMap α} {lo : Option Nat} :
    smSorted lo (e :: t) = true ↔ (∀ l, lo = some l → l < e.1) ∧ smSorted (some e.1) t = true := by
  cases lo <;> simp [smSorted]

theorem smSorted_tail {e : Nat × α} {t : SMap α} {lo : Option Nat} (h : smSorted lo (e :: t) = true) :
    smSorted (some e.1) t = true := (smSorted_cons.1 h).2

/-- A key below every listed one reads as the default. -/
theorem smGet_below {d : α} {k : Nat} {m : SMap α} {lo : Nat} (h : smSorted (some lo) m = true) (hk : k ≤ lo) :
    smGet d k m = d := by
  induction m generalizing lo with
  | nil => rfl
  | cons e t ih =>
    simp [smSorted] at h
    simp only [smGet, show ¬ e.1 = k by omega, if_false]
    exact ih h.2 (by omega)

theorem smGet_smPut_same {d : α} {k : Nat} {v : α} {m : SMap α} : smGet d k (smPut k v m) = v := by
  induction m with
  | nil => simp [smPut, smGet]
  | cons e t ih =>
    simp only [smPut]
    split
    · simp only [smGet, show ¬ e.1 = k by omega, if_false]; exact ih
    · split <;> simp [smGet]

theorem smGet_smPut_other {d : α} {k j : Nat} {v : α} {m : SMap α} (h : j ≠ k) :
    smGet d j (smPut k v m) = smGet d j m := by
  induction m with
  | nil => simp [smPut, smGet, h.symm]
  | cons e t ih =>
    simp only [smPut]
    split
    · simp only [smGet, ih]
    · split
      · rename_i _ hk
        simp [smGet, h.symm, hk]
      · simp only [smGet]
        rw [if_neg h.symm]

theorem smGet_smDel_same {d : α} {k : Nat} {m : SMap α} {lo : Option Nat} (hs : smSorted lo m = true) :
    smGet d k (smDel k m) = d := by
  induction m generalizing lo with
  | nil => rfl
  | cons e t ih =>
    have ht := smSorted_tail hs
    simp only [smDel]
    split
    · simp only [smGet, show ¬ e.1 = k by omega, if_false]; exact ih ht
    · split
      · rename_i _ hk
        exact smGet_below ht (by omega)
      · rename_i h1 h2
        simp only [smGet, h2, if_false]
        exact smGet_below ht (by omega)

theorem smGet_smDel_other {d : α} {k j : Nat} {m : SMap α} (h : j ≠ k) :
    smGet d j (smDel k m) = smGet d j m := by
  induction m with
  | nil => rfl
  | cons e t ih =>
    simp only [smDel]
    split
    · simp only [smGet, ih]
    · split
      · rename_i _ hk
        simp [smGet, hk, h.symm]
      · rfl

theorem smSorted_smPut {k : Nat} {v : α} {m : SMap α} {lo : Option Nat} (h : smSorted lo m = true)
    (hk : ∀ l, lo = some l → l < k) : smSorted lo (smPut k v m) = true := by
  induction m generalizing lo with
  | nil => exact smSorted_cons.2 ⟨hk, rfl⟩
  | cons e t ih =>
    have hh := smSorted_cons.1 h
    simp only [smPut]
    split
    · exact smSorted_cons.2 ⟨hh.1, ih hh.2 (by intro l hl; cases hl; assumption)⟩
    · split
      · subst_vars
        exact smSorted_cons.2 hh
      · exact smSorted_cons.2 ⟨hk, smSorted_cons.2 ⟨by intro l hl; cases hl; show k < e.1; omega, hh.2⟩⟩

theorem smSorted_smDel {k : Nat} {m : SMap α} {lo : Option Nat} (h : smSorted lo m = true) :
    smSorted lo (smDel k m) = true := by
  induction m generalizing lo with
  | nil => rfl
  | cons e t ih =>
    have hh := smSorted_cons.1 h
    simp only [smDel]
    split
    · exact smSorted_cons.2 ⟨hh.1, ih hh.2⟩
    · split
      · exact smSorted_weaken hh.2 fun l hl => ⟨e.1, rfl, Nat.le_of_lt (hh.1 l hl)⟩
      · exact h

theorem smMem_smPut {k : Nat} {v : α} {m : SMap α} {e : Nat × α} (h : e ∈ smPut k v m) : e = (k, v) ∨ e ∈ m := by
  induction m with
  | nil => simpa [smPut] using h
  | cons x t ih =>
    simp only [smPut] at h
    split at h
    · rcases List.mem_cons.1 h with h | h
      · exact .inr (by simp [h])
      · rcases ih h with h | h <;> simp [h]
    · split at h <;> rcases List.mem_cons.1 h with h | h <;> simp_all

theorem smMem_smDel {k : Nat} {m : SMap α} {e : Nat × α} (h : e ∈ smDel k m) : e ∈ m := by
  induction m with
  | nil => simp [smDel] at h
  | cons x t ih =>
    simp only [smDel] at h
    split at h
    · rcases List.mem_cons.1 h with h | h
      · simp [h]
      · simp [ih h]
    · split at h <;> simp_all

variable [DecidableEq α]

theorem smWf_iff {d : α} {m : SMap α} : smWf d m = true ↔ smSorted none m = true ∧ ∀ e ∈ m, e.2 ≠ d := by
  simp [smWf, List.all_eq_true]

theorem smWf_nil {d : α} : smWf d ([] : SMap α) = true := rfl

theorem smWf_smDel {d : α} {k : Nat} {m : SMap α} (h : smWf d m = true) : smWf d (smDel k m) = true := by
  rw [smWf_iff] at h ⊢
  exact ⟨smSorted_smDel h.1, fun e he => h.2 e (smMem_smDel he)⟩

theorem smWf_smPut {d : α} {k : Nat} {v : α} {m : SMap α} (h : smWf d m = true) (hv : v ≠ d) :
    smWf d (smPut k v m) = true := by
  rw [smWf_iff] at h ⊢
  refine ⟨smSorted_smPut h.1 (by simp), fun e he => ?_⟩
  rcases smMem_smPut he with rfl | he
  · exact hv
  · exact h.2 e he

/-- Every write keeps the canonical form. -/
theorem smWf_smSet {d : α} {k : Nat} {v : α} {m : SMap α} (h : smWf d m = true) : smWf d (smSet d k v m) = true := by
  unfold smSet
  split
  · exact smWf_smDel h
  · exact smWf_smPut h (by assumption)

theorem smWf_filter {d : α} {m : SMap α} (p : Nat × α → Bool) (h : smWf d m = true) : smWf d (m.filter p) = true := by
  rw [smWf_iff] at h ⊢
  refine ⟨?_, fun e he => h.2 e (List.mem_of_mem_filter he)⟩
  have key : ∀ (m : SMap α) (lo : Option Nat), smSorted lo m = true → smSorted lo (m.filter p) = true := by
    intro m
    induction m with
    | nil => intro lo _; rfl
    | cons x t ih =>
      intro lo hs
      have hh := smSorted_cons.1 hs
      rw [List.filter_cons]
      split
      · exact smSorted_cons.2 ⟨hh.1, ih _ hh.2⟩
      · exact ih _ (smSorted_weaken hh.2 fun l hl => ⟨x.1, rfl, Nat.le_of_lt (hh.1 l hl)⟩)
  exact key m none h.1

/-- Clearing a range keeps the canonical form. -/
theorem smWf_smClear {d : α} {lo len : Nat} {m : SMap α} (h : smWf d m = true) : smWf d (smClear lo len m) = true :=
  smWf_filter _ h

/-- A read after a write to the same key gives the value written. -/
theorem smGet_smSet_same {d : α} {k : Nat} {v : α} {m : SMap α} (h : smWf d m = true) : smGet d k (smSet d k v m) = v := by
  unfold smSet
  split
  · rename_i hv
    rw [hv]
    exact smGet_smDel_same (smWf_iff.1 h).1
  · exact smGet_smPut_same

/-- A write leaves every other key alone. -/
theorem smGet_smSet_other {d : α} {k j : Nat} {v : α} {m : SMap α} (h : j ≠ k) :
    smGet d j (smSet d k v m) = smGet d j m := by
  unfold smSet
  split
  · exact smGet_smDel_other h
  · exact smGet_smPut_other h

omit [DecidableEq α] in
theorem smGet_smClear_out {d : α} {lo len k : Nat} {m : SMap α} (h : k < lo ∨ lo + len ≤ k) :
    smGet d k (smClear lo len m) = smGet d k m := by
  induction m with
  | nil => rfl
  | cons e t ih =>
    simp only [smClear, List.filter_cons] at ih ⊢
    split
    · simp only [smGet]; rw [ih]
    · rename_i hc
      simp at hc
      simp only [smGet, show ¬ e.1 = k by omega, if_false]
      exact ih

omit [DecidableEq α] in
theorem smGet_smClear_in {d : α} {lo len k : Nat} {m : SMap α} (h : lo ≤ k ∧ k < lo + len) :
    smGet d k (smClear lo len m) = d := by
  induction m with
  | nil => rfl
  | cons e t ih =>
    simp only [smClear, List.filter_cons] at ih ⊢
    split
    · rename_i hc
      simp at hc
      have : ¬ e.1 = k := by omega
      simp only [smGet, this, if_false]
      exact ih
    · exact ih

/-- Two tables in canonical form that read alike at every key are equal. -/
theorem smWf_ext {d : α} {m n : SMap α} (hm : smWf d m = true) (hn : smWf d n = true)
    (h : ∀ k, smGet d k m = smGet d k n) : m = n := by
  rw [smWf_iff] at hm hn
  suffices key : ∀ (m n : SMap α) (a b : Option Nat), smSorted a m = true → smSorted b n = true →
      (∀ e ∈ m, e.2 ≠ d) → (∀ e ∈ n, e.2 ≠ d) → (∀ k, smGet d k m = smGet d k n) → m = n from
    key m n none none hm.1 hn.1 hm.2 hn.2 h
  intro m
  induction m with
  | nil =>
    intro n a b _ _ _ hd h
    cases n with
    | nil => rfl
    | cons e t =>
      have := h e.1
      simp [smGet] at this
      exact absurd this.symm (hd e (by simp))
  | cons x t ih =>
    intro n a b hs ht hd he h
    cases n with
    | nil =>
      have := h x.1
      simp [smGet] at this
      exact absurd this (hd x (by simp))
    | cons y u =>
      have h1 := smSorted_tail hs
      have h2 := smSorted_tail ht
      have hkey : x.1 = y.1 := by
        rcases Nat.lt_trichotomy x.1 y.1 with hlt | heq | hgt
        · have := h x.1
          simp only [smGet, if_true, show ¬ y.1 = x.1 by omega, if_false] at this
          rw [smGet_below h2 (by omega)] at this
          exact absurd this (hd x (by simp))
        · exact heq
        · have := h y.1
          simp only [smGet, if_true, show ¬ x.1 = y.1 by omega, if_false] at this
          rw [smGet_below h1 (by omega)] at this
          exact absurd this.symm (he y (by simp))
      have hval : x.2 = y.2 := by
        have := h x.1
        simpa [smGet, hkey] using this
      have hxy : x = y := Prod.ext hkey hval
      subst hxy
      congr 1
      refine ih u (some x.1) (some x.1) h1 h2 (fun e hm => hd e (by simp [hm])) (fun e hm => he e (by simp [hm])) ?_
      intro k
      have := h k
      simp only [smGet] at this
      by_cases hk : x.1 = k
      · subst hk
        rw [smGet_below h1 (Nat.le_refl _), smGet_below h2 (Nat.le_refl _)]
      · simpa [hk] using this

/-! ## Runs of bytes -/

theorem smWf_writeBytes {m : SMap Byte} {a : Nat} {l : List Byte} (h : smWf 0 m = true) :
    smWf 0 (writeBytes m a l) = true := by
  induction l generalizing m a with
  | nil => exact h
  | cons x t ih => exact ih (smWf_smSet h)

/-- A byte outside the written run reads as before. -/
theorem smGet_writeBytes_out {m : SMap Byte} {a k : Nat} {l : List Byte} (h : k < a ∨ a + l.length ≤ k) :
    smGet 0 k (writeBytes m a l) = smGet 0 k m := by
  induction l generalizing m a with
  | nil => rfl
  | cons x t ih =>
    simp only [List.length_cons] at h
    rw [writeBytes, ih (by omega), smGet_smSet_other (by omega)]

/-- A byte of the written run reads as written. -/
theorem smGet_writeBytes_in {m : SMap Byte} {a i : Nat} {l : List Byte} (hm : smWf 0 m = true) (h : i < l.length) :
    smGet 0 (a + i) (writeBytes m a l) = l[i] := by
  induction l generalizing m a i with
  | nil => simp at h
  | cons x t ih =>
    cases i with
    | zero =>
      rw [writeBytes, smGet_writeBytes_out (by omega)]
      simpa using smGet_smSet_same hm
    | succ j =>
      have := ih (m := smSet 0 a x m) (a := a + 1) (i := j) (smWf_smSet hm) (by simpa using h)
      rw [writeBytes, show a + (j + 1) = a + 1 + j by omega, this]
      rfl

theorem readBytes_length {m : SMap Byte} {a n : Nat} : (readBytes m a n).length = n := by simp [readBytes]

/-- Reading back a written run gives what was written. -/
theorem readBytes_writeBytes {m : SMap Byte} {a : Nat} {l : List Byte} (hm : smWf 0 m = true) :
    readBytes (writeBytes m a l) a l.length = l := by
  refine List.ext_getElem (by simp [readBytes]) ?_
  intro i h1 h2
  simp only [readBytes, List.getElem_map, List.getElem_range]
  exact smGet_writeBytes_in hm h2

theorem leBytes_length {n x : Nat} : (leBytes n x).length = n := by
  induction n generalizing x with
  | zero => rfl
  | succ n ih => simp [leBytes, ih]

/-- The bytes of a number spell it again. -/
theorem leNat_leBytes {n x : Nat} : leNat (leBytes n x) = x % 256 ^ n := by
  induction n generalizing x with
  | zero => simp [leBytes, leNat, Nat.mod_one]
  | succ n ih =>
    have : 256 ^ (n + 1) = 256 * 256 ^ n := by rw [Nat.pow_succ, Nat.mul_comm]
    rw [leBytes, leNat, ih, BitVec.toNat_ofNat, this, Nat.mod_mul]

theorem leNat_lt {l : List Byte} : leNat l < 256 ^ l.length := by
  induction l with
  | nil => simp [leNat]
  | cons x t ih =>
    simp only [leNat, List.length_cons, Nat.pow_succ]
    have := x.isLt
    omega

end Sys2Proof.Machine
end

