-- ==== Sys2Proof/Laws/State.lean ====
section
/-!
SUPPORT. Laws of the state's updates: one lemma for each field of the state under each update, true by rfl, and what the
accessors of cores, contexts, programs, partitions, groves and dies read after an update.
-/

namespace Sys2Proof.Machine

/-! ## The fields under `setCore` -/

@[simp] theorem State.cur_setCore (s : State) (c : CoreNum) (k : Core) : (s.setCore c k).cur = s.cur := rfl
@[simp] theorem State.agenda_setCore (s : State) (c : CoreNum) (k : Core) : (s.setCore c k).agenda = s.agenda := rfl
@[simp] theorem State.tick_setCore (s : State) (c : CoreNum) (k : Core) : (s.setCore c k).tick = s.tick := rfl
@[simp] theorem State.clock_setCore (s : State) (c : CoreNum) (k : Core) : (s.setCore c k).clock = s.clock := rfl
@[simp] theorem State.groves_setCore (s : State) (c : CoreNum) (k : Core) : (s.setCore c k).groves = s.groves := rfl
@[simp] theorem State.dies_setCore (s : State) (c : CoreNum) (k : Core) : (s.setCore c k).dies = s.dies := rfl
@[simp] theorem State.parts_setCore (s : State) (c : CoreNum) (k : Core) : (s.setCore c k).parts = s.parts := rfl
@[simp] theorem State.launches_setCore (s : State) (c : CoreNum) (k : Core) : (s.setCore c k).launches = s.launches := rfl
@[simp] theorem State.tasks_setCore (s : State) (c : CoreNum) (k : Core) : (s.setCore c k).tasks = s.tasks := rfl
@[simp] theorem State.checkpoints_setCore (s : State) (c : CoreNum) (k : Core) : (s.setCore c k).checkpoints = s.checkpoints := rfl
@[simp] theorem State.undo_setCore (s : State) (c : CoreNum) (k : Core) : (s.setCore c k).undo = s.undo := rfl
@[simp] theorem State.phasers_setCore (s : State) (c : CoreNum) (k : Core) : (s.setCore c k).phasers = s.phasers := rfl
@[simp] theorem State.gens_setCore (s : State) (c : CoreNum) (k : Core) : (s.setCore c k).gens = s.gens := rfl
@[simp] theorem State.tlb1_setCore (s : State) (c : CoreNum) (k : Core) : (s.setCore c k).tlb1 = s.tlb1 := rfl
@[simp] theorem State.tlb2_setCore (s : State) (c : CoreNum) (k : Core) : (s.setCore c k).tlb2 = s.tlb2 := rfl
@[simp] theorem State.fetched_setCore (s : State) (c : CoreNum) (k : Core) : (s.setCore c k).fetched = s.fetched := rfl
@[simp] theorem State.seqno_setCore (s : State) (c : CoreNum) (k : Core) : (s.setCore c k).seqno = s.seqno := rfl
@[simp] theorem State.mem_setCore (s : State) (c : CoreNum) (k : Core) : (s.setCore c k).mem = s.mem := rfl
@[simp] theorem State.trunk_setCore (s : State) (c : CoreNum) (k : Core) : (s.setCore c k).trunk = s.trunk := rfl
@[simp] theorem State.out_setCore (s : State) (c : CoreNum) (k : Core) : (s.setCore c k).out = s.out := rfl

/-! ## The fields under `onCore` -/

@[simp] theorem State.cur_onCore (s : State) (c : CoreNum) (f : Core → Core) : (s.onCore c f).cur = s.cur := rfl
@[simp] theorem State.agenda_onCore (s : State) (c : CoreNum) (f : Core → Core) : (s.onCore c f).agenda = s.agenda := rfl
@[simp] theorem State.tick_onCore (s : State) (c : CoreNum) (f : Core → Core) : (s.onCore c f).tick = s.tick := rfl
@[simp] theorem State.clock_onCore (s : State) (c : CoreNum) (f : Core → Core) : (s.onCore c f).clock = s.clock := rfl
@[simp] theorem State.groves_onCore (s : State) (c : CoreNum) (f : Core → Core) : (s.onCore c f).groves = s.groves := rfl
@[simp] theorem State.dies_onCore (s : State) (c : CoreNum) (f : Core → Core) : (s.onCore c f).dies = s.dies := rfl
@[simp] theorem State.parts_onCore (s : State) (c : CoreNum) (f : Core → Core) : (s.onCore c f).parts = s.parts := rfl
@[simp] theorem State.launches_onCore (s : State) (c : CoreNum) (f : Core → Core) : (s.onCore c f).launches = s.launches := rfl
@[simp] theorem State.tasks_onCore (s : State) (c : CoreNum) (f : Core → Core) : (s.onCore c f).tasks = s.tasks := rfl
@[simp] theorem State.checkpoints_onCore (s : State) (c : CoreNum) (f : Core → Core) : (s.onCore c f).checkpoints = s.checkpoints := rfl
@[simp] theorem State.undo_onCore (s : State) (c : CoreNum) (f : Core → Core) : (s.onCore c f).undo = s.undo := rfl
@[simp] theorem State.phasers_onCore (s : State) (c : CoreNum) (f : Core → Core) : (s.onCore c f).phasers = s.phasers := rfl
@[simp] theorem State.gens_onCore (s : State) (c : CoreNum) (f : Core → Core) : (s.onCore c f).gens = s.gens := rfl
@[simp] theorem State.tlb1_onCore (s : State) (c : CoreNum) (f : Core → Core) : (s.onCore c f).tlb1 = s.tlb1 := rfl
@[simp] theorem State.tlb2_onCore (s : State) (c : CoreNum) (f : Core → Core) : (s.onCore c f).tlb2 = s.tlb2 := rfl
@[simp] theorem State.fetched_onCore (s : State) (c : CoreNum) (f : Core → Core) : (s.onCore c f).fetched = s.fetched := rfl
@[simp] theorem State.seqno_onCore (s : State) (c : CoreNum) (f : Core → Core) : (s.onCore c f).seqno = s.seqno := rfl
@[simp] theorem State.mem_onCore (s : State) (c : CoreNum) (f : Core → Core) : (s.onCore c f).mem = s.mem := rfl
@[simp] theorem State.trunk_onCore (s : State) (c : CoreNum) (f : Core → Core) : (s.onCore c f).trunk = s.trunk := rfl
@[simp] theorem State.out_onCore (s : State) (c : CoreNum) (f : Core → Core) : (s.onCore c f).out = s.out := rfl

/-! ## The fields under `setCtx` -/

@[simp] theorem State.cur_setCtx (s : State) (c : Ctx) : (s.setCtx c).cur = s.cur := rfl
@[simp] theorem State.agenda_setCtx (s : State) (c : Ctx) : (s.setCtx c).agenda = s.agenda := rfl
@[simp] theorem State.tick_setCtx (s : State) (c : Ctx) : (s.setCtx c).tick = s.tick := rfl
@[simp] theorem State.clock_setCtx (s : State) (c : Ctx) : (s.setCtx c).clock = s.clock := rfl
@[simp] theorem State.groves_setCtx (s : State) (c : Ctx) : (s.setCtx c).groves = s.groves := rfl
@[simp] theorem State.dies_setCtx (s : State) (c : Ctx) : (s.setCtx c).dies = s.dies := rfl
@[simp] theorem State.parts_setCtx (s : State) (c : Ctx) : (s.setCtx c).parts = s.parts := rfl
@[simp] theorem State.launches_setCtx (s : State) (c : Ctx) : (s.setCtx c).launches = s.launches := rfl
@[simp] theorem State.tasks_setCtx (s : State) (c : Ctx) : (s.setCtx c).tasks = s.tasks := rfl
@[simp] theorem State.checkpoints_setCtx (s : State) (c : Ctx) : (s.setCtx c).checkpoints = s.checkpoints := rfl
@[simp] theorem State.undo_setCtx (s : State) (c : Ctx) : (s.setCtx c).undo = s.undo := rfl
@[simp] theorem State.phasers_setCtx (s : State) (c : Ctx) : (s.setCtx c).phasers = s.phasers := rfl
@[simp] theorem State.gens_setCtx (s : State) (c : Ctx) : (s.setCtx c).gens = s.gens := rfl
@[simp] theorem State.tlb1_setCtx (s : State) (c : Ctx) : (s.setCtx c).tlb1 = s.tlb1 := rfl
@[simp] theorem State.tlb2_setCtx (s : State) (c : Ctx) : (s.setCtx c).tlb2 = s.tlb2 := rfl
@[simp] theorem State.fetched_setCtx (s : State) (c : Ctx) : (s.setCtx c).fetched = s.fetched := rfl
@[simp] theorem State.seqno_setCtx (s : State) (c : Ctx) : (s.setCtx c).seqno = s.seqno := rfl
@[simp] theorem State.mem_setCtx (s : State) (c : Ctx) : (s.setCtx c).mem = s.mem := rfl
@[simp] theorem State.trunk_setCtx (s : State) (c : Ctx) : (s.setCtx c).trunk = s.trunk := rfl
@[simp] theorem State.out_setCtx (s : State) (c : Ctx) : (s.setCtx c).out = s.out := rfl

/-! ## The fields under `onCtx` -/

@[simp] theorem State.cur_onCtx (s : State) (f : Ctx → Ctx) : (s.onCtx f).cur = s.cur := rfl
@[simp] theorem State.agenda_onCtx (s : State) (f : Ctx → Ctx) : (s.onCtx f).agenda = s.agenda := rfl
@[simp] theorem State.tick_onCtx (s : State) (f : Ctx → Ctx) : (s.onCtx f).tick = s.tick := rfl
@[simp] theorem State.clock_onCtx (s : State) (f : Ctx → Ctx) : (s.onCtx f).clock = s.clock := rfl
@[simp] theorem State.groves_onCtx (s : State) (f : Ctx → Ctx) : (s.onCtx f).groves = s.groves := rfl
@[simp] theorem State.dies_onCtx (s : State) (f : Ctx → Ctx) : (s.onCtx f).dies = s.dies := rfl
@[simp] theorem State.parts_onCtx (s : State) (f : Ctx → Ctx) : (s.onCtx f).parts = s.parts := rfl
@[simp] theorem State.launches_onCtx (s : State) (f : Ctx → Ctx) : (s.onCtx f).launches = s.launches := rfl
@[simp] theorem State.tasks_onCtx (s : State) (f : Ctx → Ctx) : (s.onCtx f).tasks = s.tasks := rfl
@[simp] theorem State.checkpoints_onCtx (s : State) (f : Ctx → Ctx) : (s.onCtx f).checkpoints = s.checkpoints := rfl
@[simp] theorem State.undo_onCtx (s : State) (f : Ctx → Ctx) : (s.onCtx f).undo = s.undo := rfl
@[simp] theorem State.phasers_onCtx (s : State) (f : Ctx → Ctx) : (s.onCtx f).phasers = s.phasers := rfl
@[simp] theorem State.gens_onCtx (s : State) (f : Ctx → Ctx) : (s.onCtx f).gens = s.gens := rfl
@[simp] theorem State.tlb1_onCtx (s : State) (f : Ctx → Ctx) : (s.onCtx f).tlb1 = s.tlb1 := rfl
@[simp] theorem State.tlb2_onCtx (s : State) (f : Ctx → Ctx) : (s.onCtx f).tlb2 = s.tlb2 := rfl
@[simp] theorem State.fetched_onCtx (s : State) (f : Ctx → Ctx) : (s.onCtx f).fetched = s.fetched := rfl
@[simp] theorem State.seqno_onCtx (s : State) (f : Ctx → Ctx) : (s.onCtx f).seqno = s.seqno := rfl
@[simp] theorem State.mem_onCtx (s : State) (f : Ctx → Ctx) : (s.onCtx f).mem = s.mem := rfl
@[simp] theorem State.trunk_onCtx (s : State) (f : Ctx → Ctx) : (s.onCtx f).trunk = s.trunk := rfl
@[simp] theorem State.out_onCtx (s : State) (f : Ctx → Ctx) : (s.onCtx f).out = s.out := rfl

/-! ## The fields under `onThr` -/

@[simp] theorem State.cur_onThr (s : State) (f : Thread → Thread) : (s.onThr f).cur = s.cur := rfl
@[simp] theorem State.agenda_onThr (s : State) (f : Thread → Thread) : (s.onThr f).agenda = s.agenda := rfl
@[simp] theorem State.tick_onThr (s : State) (f : Thread → Thread) : (s.onThr f).tick = s.tick := rfl
@[simp] theorem State.clock_onThr (s : State) (f : Thread → Thread) : (s.onThr f).clock = s.clock := rfl
@[simp] theorem State.groves_onThr (s : State) (f : Thread → Thread) : (s.onThr f).groves = s.groves := rfl
@[simp] theorem State.dies_onThr (s : State) (f : Thread → Thread) : (s.onThr f).dies = s.dies := rfl
@[simp] theorem State.parts_onThr (s : State) (f : Thread → Thread) : (s.onThr f).parts = s.parts := rfl
@[simp] theorem State.launches_onThr (s : State) (f : Thread → Thread) : (s.onThr f).launches = s.launches := rfl
@[simp] theorem State.tasks_onThr (s : State) (f : Thread → Thread) : (s.onThr f).tasks = s.tasks := rfl
@[simp] theorem State.checkpoints_onThr (s : State) (f : Thread → Thread) : (s.onThr f).checkpoints = s.checkpoints := rfl
@[simp] theorem State.undo_onThr (s : State) (f : Thread → Thread) : (s.onThr f).undo = s.undo := rfl
@[simp] theorem State.phasers_onThr (s : State) (f : Thread → Thread) : (s.onThr f).phasers = s.phasers := rfl
@[simp] theorem State.gens_onThr (s : State) (f : Thread → Thread) : (s.onThr f).gens = s.gens := rfl
@[simp] theorem State.tlb1_onThr (s : State) (f : Thread → Thread) : (s.onThr f).tlb1 = s.tlb1 := rfl
@[simp] theorem State.tlb2_onThr (s : State) (f : Thread → Thread) : (s.onThr f).tlb2 = s.tlb2 := rfl
@[simp] theorem State.fetched_onThr (s : State) (f : Thread → Thread) : (s.onThr f).fetched = s.fetched := rfl
@[simp] theorem State.seqno_onThr (s : State) (f : Thread → Thread) : (s.onThr f).seqno = s.seqno := rfl
@[simp] theorem State.mem_onThr (s : State) (f : Thread → Thread) : (s.onThr f).mem = s.mem := rfl
@[simp] theorem State.trunk_onThr (s : State) (f : Thread → Thread) : (s.onThr f).trunk = s.trunk := rfl
@[simp] theorem State.out_onThr (s : State) (f : Thread → Thread) : (s.onThr f).out = s.out := rfl

/-! ## The fields under `setPart` -/

@[simp] theorem State.cur_setPart (s : State) (p : PartNum) (x : Part) : (s.setPart p x).cur = s.cur := rfl
@[simp] theorem State.agenda_setPart (s : State) (p : PartNum) (x : Part) : (s.setPart p x).agenda = s.agenda := rfl
@[simp] theorem State.tick_setPart (s : State) (p : PartNum) (x : Part) : (s.setPart p x).tick = s.tick := rfl
@[simp] theorem State.clock_setPart (s : State) (p : PartNum) (x : Part) : (s.setPart p x).clock = s.clock := rfl
@[simp] theorem State.cores_setPart (s : State) (p : PartNum) (x : Part) : (s.setPart p x).cores = s.cores := rfl
@[simp] theorem State.groves_setPart (s : State) (p : PartNum) (x : Part) : (s.setPart p x).groves = s.groves := rfl
@[simp] theorem State.dies_setPart (s : State) (p : PartNum) (x : Part) : (s.setPart p x).dies = s.dies := rfl
@[simp] theorem State.launches_setPart (s : State) (p : PartNum) (x : Part) : (s.setPart p x).launches = s.launches := rfl
@[simp] theorem State.tasks_setPart (s : State) (p : PartNum) (x : Part) : (s.setPart p x).tasks = s.tasks := rfl
@[simp] theorem State.checkpoints_setPart (s : State) (p : PartNum) (x : Part) : (s.setPart p x).checkpoints = s.checkpoints := rfl
@[simp] theorem State.undo_setPart (s : State) (p : PartNum) (x : Part) : (s.setPart p x).undo = s.undo := rfl
@[simp] theorem State.phasers_setPart (s : State) (p : PartNum) (x : Part) : (s.setPart p x).phasers = s.phasers := rfl
@[simp] theorem State.gens_setPart (s : State) (p : PartNum) (x : Part) : (s.setPart p x).gens = s.gens := rfl
@[simp] theorem State.tlb1_setPart (s : State) (p : PartNum) (x : Part) : (s.setPart p x).tlb1 = s.tlb1 := rfl
@[simp] theorem State.tlb2_setPart (s : State) (p : PartNum) (x : Part) : (s.setPart p x).tlb2 = s.tlb2 := rfl
@[simp] theorem State.fetched_setPart (s : State) (p : PartNum) (x : Part) : (s.setPart p x).fetched = s.fetched := rfl
@[simp] theorem State.seqno_setPart (s : State) (p : PartNum) (x : Part) : (s.setPart p x).seqno = s.seqno := rfl
@[simp] theorem State.mem_setPart (s : State) (p : PartNum) (x : Part) : (s.setPart p x).mem = s.mem := rfl
@[simp] theorem State.trunk_setPart (s : State) (p : PartNum) (x : Part) : (s.setPart p x).trunk = s.trunk := rfl
@[simp] theorem State.out_setPart (s : State) (p : PartNum) (x : Part) : (s.setPart p x).out = s.out := rfl

/-! ## The fields under `onPart` -/

@[simp] theorem State.cur_onPart (s : State) (p : PartNum) (f : Part → Part) : (s.onPart p f).cur = s.cur := rfl
@[simp] theorem State.agenda_onPart (s : State) (p : PartNum) (f : Part → Part) : (s.onPart p f).agenda = s.agenda := rfl
@[simp] theorem State.tick_onPart (s : State) (p : PartNum) (f : Part → Part) : (s.onPart p f).tick = s.tick := rfl
@[simp] theorem State.clock_onPart (s : State) (p : PartNum) (f : Part → Part) : (s.onPart p f).clock = s.clock := rfl
@[simp] theorem State.cores_onPart (s : State) (p : PartNum) (f : Part → Part) : (s.onPart p f).cores = s.cores := rfl
@[simp] theorem State.groves_onPart (s : State) (p : PartNum) (f : Part → Part) : (s.onPart p f).groves = s.groves := rfl
@[simp] theorem State.dies_onPart (s : State) (p : PartNum) (f : Part → Part) : (s.onPart p f).dies = s.dies := rfl
@[simp] theorem State.launches_onPart (s : State) (p : PartNum) (f : Part → Part) : (s.onPart p f).launches = s.launches := rfl
@[simp] theorem State.tasks_onPart (s : State) (p : PartNum) (f : Part → Part) : (s.onPart p f).tasks = s.tasks := rfl
@[simp] theorem State.checkpoints_onPart (s : State) (p : PartNum) (f : Part → Part) : (s.onPart p f).checkpoints = s.checkpoints := rfl
@[simp] theorem State.undo_onPart (s : State) (p : PartNum) (f : Part → Part) : (s.onPart p f).undo = s.undo := rfl
@[simp] theorem State.phasers_onPart (s : State) (p : PartNum) (f : Part → Part) : (s.onPart p f).phasers = s.phasers := rfl
@[simp] theorem State.gens_onPart (s : State) (p : PartNum) (f : Part → Part) : (s.onPart p f).gens = s.gens := rfl
@[simp] theorem State.tlb1_onPart (s : State) (p : PartNum) (f : Part → Part) : (s.onPart p f).tlb1 = s.tlb1 := rfl
@[simp] theorem State.tlb2_onPart (s : State) (p : PartNum) (f : Part → Part) : (s.onPart p f).tlb2 = s.tlb2 := rfl
@[simp] theorem State.fetched_onPart (s : State) (p : PartNum) (f : Part → Part) : (s.onPart p f).fetched = s.fetched := rfl
@[simp] theorem State.seqno_onPart (s : State) (p : PartNum) (f : Part → Part) : (s.onPart p f).seqno = s.seqno := rfl
@[simp] theorem State.mem_onPart (s : State) (p : PartNum) (f : Part → Part) : (s.onPart p f).mem = s.mem := rfl
@[simp] theorem State.trunk_onPart (s : State) (p : PartNum) (f : Part → Part) : (s.onPart p f).trunk = s.trunk := rfl
@[simp] theorem State.out_onPart (s : State) (p : PartNum) (f : Part → Part) : (s.onPart p f).out = s.out := rfl

/-! ## The fields under `onGrove` -/

@[simp] theorem State.cur_onGrove (s : State) (g : GroveNum) (f : Grove → Grove) : (s.onGrove g f).cur = s.cur := rfl
@[simp] theorem State.agenda_onGrove (s : State) (g : GroveNum) (f : Grove → Grove) : (s.onGrove g f).agenda = s.agenda := rfl
@[simp] theorem State.tick_onGrove (s : State) (g : GroveNum) (f : Grove → Grove) : (s.onGrove g f).tick = s.tick := rfl
@[simp] theorem State.clock_onGrove (s : State) (g : GroveNum) (f : Grove → Grove) : (s.onGrove g f).clock = s.clock := rfl
@[simp] theorem State.cores_onGrove (s : State) (g : GroveNum) (f : Grove → Grove) : (s.onGrove g f).cores = s.cores := rfl
@[simp] theorem State.dies_onGrove (s : State) (g : GroveNum) (f : Grove → Grove) : (s.onGrove g f).dies = s.dies := rfl
@[simp] theorem State.parts_onGrove (s : State) (g : GroveNum) (f : Grove → Grove) : (s.onGrove g f).parts = s.parts := rfl
@[simp] theorem State.launches_onGrove (s : State) (g : GroveNum) (f : Grove → Grove) : (s.onGrove g f).launches = s.launches := rfl
@[simp] theorem State.tasks_onGrove (s : State) (g : GroveNum) (f : Grove → Grove) : (s.onGrove g f).tasks = s.tasks := rfl
@[simp] theorem State.checkpoints_onGrove (s : State) (g : GroveNum) (f : Grove → Grove) : (s.onGrove g f).checkpoints = s.checkpoints := rfl
@[simp] theorem State.undo_onGrove (s : State) (g : GroveNum) (f : Grove → Grove) : (s.onGrove g f).undo = s.undo := rfl
@[simp] theorem State.phasers_onGrove (s : State) (g : GroveNum) (f : Grove → Grove) : (s.onGrove g f).phasers = s.phasers := rfl
@[simp] theorem State.gens_onGrove (s : State) (g : GroveNum) (f : Grove → Grove) : (s.onGrove g f).gens = s.gens := rfl
@[simp] theorem State.tlb1_onGrove (s : State) (g : GroveNum) (f : Grove → Grove) : (s.onGrove g f).tlb1 = s.tlb1 := rfl
@[simp] theorem State.tlb2_onGrove (s : State) (g : GroveNum) (f : Grove → Grove) : (s.onGrove g f).tlb2 = s.tlb2 := rfl
@[simp] theorem State.fetched_onGrove (s : State) (g : GroveNum) (f : Grove → Grove) : (s.onGrove g f).fetched = s.fetched := rfl
@[simp] theorem State.seqno_onGrove (s : State) (g : GroveNum) (f : Grove → Grove) : (s.onGrove g f).seqno = s.seqno := rfl
@[simp] theorem State.mem_onGrove (s : State) (g : GroveNum) (f : Grove → Grove) : (s.onGrove g f).mem = s.mem := rfl
@[simp] theorem State.trunk_onGrove (s : State) (g : GroveNum) (f : Grove → Grove) : (s.onGrove g f).trunk = s.trunk := rfl
@[simp] theorem State.out_onGrove (s : State) (g : GroveNum) (f : Grove → Grove) : (s.onGrove g f).out = s.out := rfl

/-! ## The fields under `onDie` -/

@[simp] theorem State.cur_onDie (s : State) (d : BitVec 2) (f : Die → Die) : (s.onDie d f).cur = s.cur := rfl
@[simp] theorem State.agenda_onDie (s : State) (d : BitVec 2) (f : Die → Die) : (s.onDie d f).agenda = s.agenda := rfl
@[simp] theorem State.tick_onDie (s : State) (d : BitVec 2) (f : Die → Die) : (s.onDie d f).tick = s.tick := rfl
@[simp] theorem State.clock_onDie (s : State) (d : BitVec 2) (f : Die → Die) : (s.onDie d f).clock = s.clock := rfl
@[simp] theorem State.cores_onDie (s : State) (d : BitVec 2) (f : Die → Die) : (s.onDie d f).cores = s.cores := rfl
@[simp] theorem State.groves_onDie (s : State) (d : BitVec 2) (f : Die → Die) : (s.onDie d f).groves = s.groves := rfl
@[simp] theorem State.parts_onDie (s : State) (d : BitVec 2) (f : Die → Die) : (s.onDie d f).parts = s.parts := rfl
@[simp] theorem State.launches_onDie (s : State) (d : BitVec 2) (f : Die → Die) : (s.onDie d f).launches = s.launches := rfl
@[simp] theorem State.tasks_onDie (s : State) (d : BitVec 2) (f : Die → Die) : (s.onDie d f).tasks = s.tasks := rfl
@[simp] theorem State.checkpoints_onDie (s : State) (d : BitVec 2) (f : Die → Die) : (s.onDie d f).checkpoints = s.checkpoints := rfl
@[simp] theorem State.undo_onDie (s : State) (d : BitVec 2) (f : Die → Die) : (s.onDie d f).undo = s.undo := rfl
@[simp] theorem State.phasers_onDie (s : State) (d : BitVec 2) (f : Die → Die) : (s.onDie d f).phasers = s.phasers := rfl
@[simp] theorem State.gens_onDie (s : State) (d : BitVec 2) (f : Die → Die) : (s.onDie d f).gens = s.gens := rfl
@[simp] theorem State.tlb1_onDie (s : State) (d : BitVec 2) (f : Die → Die) : (s.onDie d f).tlb1 = s.tlb1 := rfl
@[simp] theorem State.tlb2_onDie (s : State) (d : BitVec 2) (f : Die → Die) : (s.onDie d f).tlb2 = s.tlb2 := rfl
@[simp] theorem State.fetched_onDie (s : State) (d : BitVec 2) (f : Die → Die) : (s.onDie d f).fetched = s.fetched := rfl
@[simp] theorem State.seqno_onDie (s : State) (d : BitVec 2) (f : Die → Die) : (s.onDie d f).seqno = s.seqno := rfl
@[simp] theorem State.mem_onDie (s : State) (d : BitVec 2) (f : Die → Die) : (s.onDie d f).mem = s.mem := rfl
@[simp] theorem State.trunk_onDie (s : State) (d : BitVec 2) (f : Die → Die) : (s.onDie d f).trunk = s.trunk := rfl
@[simp] theorem State.out_onDie (s : State) (d : BitVec 2) (f : Die → Die) : (s.onDie d f).out = s.out := rfl

/-! ## The fields under `onTrunk` -/

@[simp] theorem State.cur_onTrunk (s : State) (f : Trunk → Trunk) : (s.onTrunk f).cur = s.cur := rfl
@[simp] theorem State.agenda_onTrunk (s : State) (f : Trunk → Trunk) : (s.onTrunk f).agenda = s.agenda := rfl
@[simp] theorem State.tick_onTrunk (s : State) (f : Trunk → Trunk) : (s.onTrunk f).tick = s.tick := rfl
@[simp] theorem State.clock_onTrunk (s : State) (f : Trunk → Trunk) : (s.onTrunk f).clock = s.clock := rfl
@[simp] theorem State.cores_onTrunk (s : State) (f : Trunk → Trunk) : (s.onTrunk f).cores = s.cores := rfl
@[simp] theorem State.groves_onTrunk (s : State) (f : Trunk → Trunk) : (s.onTrunk f).groves = s.groves := rfl
@[simp] theorem State.dies_onTrunk (s : State) (f : Trunk → Trunk) : (s.onTrunk f).dies = s.dies := rfl
@[simp] theorem State.parts_onTrunk (s : State) (f : Trunk → Trunk) : (s.onTrunk f).parts = s.parts := rfl
@[simp] theorem State.launches_onTrunk (s : State) (f : Trunk → Trunk) : (s.onTrunk f).launches = s.launches := rfl
@[simp] theorem State.tasks_onTrunk (s : State) (f : Trunk → Trunk) : (s.onTrunk f).tasks = s.tasks := rfl
@[simp] theorem State.checkpoints_onTrunk (s : State) (f : Trunk → Trunk) : (s.onTrunk f).checkpoints = s.checkpoints := rfl
@[simp] theorem State.undo_onTrunk (s : State) (f : Trunk → Trunk) : (s.onTrunk f).undo = s.undo := rfl
@[simp] theorem State.phasers_onTrunk (s : State) (f : Trunk → Trunk) : (s.onTrunk f).phasers = s.phasers := rfl
@[simp] theorem State.gens_onTrunk (s : State) (f : Trunk → Trunk) : (s.onTrunk f).gens = s.gens := rfl
@[simp] theorem State.tlb1_onTrunk (s : State) (f : Trunk → Trunk) : (s.onTrunk f).tlb1 = s.tlb1 := rfl
@[simp] theorem State.tlb2_onTrunk (s : State) (f : Trunk → Trunk) : (s.onTrunk f).tlb2 = s.tlb2 := rfl
@[simp] theorem State.fetched_onTrunk (s : State) (f : Trunk → Trunk) : (s.onTrunk f).fetched = s.fetched := rfl
@[simp] theorem State.seqno_onTrunk (s : State) (f : Trunk → Trunk) : (s.onTrunk f).seqno = s.seqno := rfl
@[simp] theorem State.mem_onTrunk (s : State) (f : Trunk → Trunk) : (s.onTrunk f).mem = s.mem := rfl
@[simp] theorem State.out_onTrunk (s : State) (f : Trunk → Trunk) : (s.onTrunk f).out = s.out := rfl

/-! ## The fields under `onMem` -/

@[simp] theorem State.cur_onMem (s : State) (f : Mem → Mem) : (s.onMem f).cur = s.cur := rfl
@[simp] theorem State.agenda_onMem (s : State) (f : Mem → Mem) : (s.onMem f).agenda = s.agenda := rfl
@[simp] theorem State.tick_onMem (s : State) (f : Mem → Mem) : (s.onMem f).tick = s.tick := rfl
@[simp] theorem State.clock_onMem (s : State) (f : Mem → Mem) : (s.onMem f).clock = s.clock := rfl
@[simp] theorem State.cores_onMem (s : State) (f : Mem → Mem) : (s.onMem f).cores = s.cores := rfl
@[simp] theorem State.groves_onMem (s : State) (f : Mem → Mem) : (s.onMem f).groves = s.groves := rfl
@[simp] theorem State.dies_onMem (s : State) (f : Mem → Mem) : (s.onMem f).dies = s.dies := rfl
@[simp] theorem State.parts_onMem (s : State) (f : Mem → Mem) : (s.onMem f).parts = s.parts := rfl
@[simp] theorem State.launches_onMem (s : State) (f : Mem → Mem) : (s.onMem f).launches = s.launches := rfl
@[simp] theorem State.tasks_onMem (s : State) (f : Mem → Mem) : (s.onMem f).tasks = s.tasks := rfl
@[simp] theorem State.checkpoints_onMem (s : State) (f : Mem → Mem) : (s.onMem f).checkpoints = s.checkpoints := rfl
@[simp] theorem State.undo_onMem (s : State) (f : Mem → Mem) : (s.onMem f).undo = s.undo := rfl
@[simp] theorem State.phasers_onMem (s : State) (f : Mem → Mem) : (s.onMem f).phasers = s.phasers := rfl
@[simp] theorem State.gens_onMem (s : State) (f : Mem → Mem) : (s.onMem f).gens = s.gens := rfl
@[simp] theorem State.tlb1_onMem (s : State) (f : Mem → Mem) : (s.onMem f).tlb1 = s.tlb1 := rfl
@[simp] theorem State.tlb2_onMem (s : State) (f : Mem → Mem) : (s.onMem f).tlb2 = s.tlb2 := rfl
@[simp] theorem State.fetched_onMem (s : State) (f : Mem → Mem) : (s.onMem f).fetched = s.fetched := rfl
@[simp] theorem State.seqno_onMem (s : State) (f : Mem → Mem) : (s.onMem f).seqno = s.seqno := rfl
@[simp] theorem State.trunk_onMem (s : State) (f : Mem → Mem) : (s.onMem f).trunk = s.trunk := rfl
@[simp] theorem State.out_onMem (s : State) (f : Mem → Mem) : (s.onMem f).out = s.out := rfl

/-! ## The fields under `send` -/

@[simp] theorem State.cur_send (s : State) (m : OutMsg) : (s.send m).cur = s.cur := rfl
@[simp] theorem State.agenda_send (s : State) (m : OutMsg) : (s.send m).agenda = s.agenda := rfl
@[simp] theorem State.tick_send (s : State) (m : OutMsg) : (s.send m).tick = s.tick := rfl
@[simp] theorem State.clock_send (s : State) (m : OutMsg) : (s.send m).clock = s.clock := rfl
@[simp] theorem State.cores_send (s : State) (m : OutMsg) : (s.send m).cores = s.cores := rfl
@[simp] theorem State.groves_send (s : State) (m : OutMsg) : (s.send m).groves = s.groves := rfl
@[simp] theorem State.dies_send (s : State) (m : OutMsg) : (s.send m).dies = s.dies := rfl
@[simp] theorem State.parts_send (s : State) (m : OutMsg) : (s.send m).parts = s.parts := rfl
@[simp] theorem State.launches_send (s : State) (m : OutMsg) : (s.send m).launches = s.launches := rfl
@[simp] theorem State.tasks_send (s : State) (m : OutMsg) : (s.send m).tasks = s.tasks := rfl
@[simp] theorem State.checkpoints_send (s : State) (m : OutMsg) : (s.send m).checkpoints = s.checkpoints := rfl
@[simp] theorem State.undo_send (s : State) (m : OutMsg) : (s.send m).undo = s.undo := rfl
@[simp] theorem State.phasers_send (s : State) (m : OutMsg) : (s.send m).phasers = s.phasers := rfl
@[simp] theorem State.gens_send (s : State) (m : OutMsg) : (s.send m).gens = s.gens := rfl
@[simp] theorem State.tlb1_send (s : State) (m : OutMsg) : (s.send m).tlb1 = s.tlb1 := rfl
@[simp] theorem State.tlb2_send (s : State) (m : OutMsg) : (s.send m).tlb2 = s.tlb2 := rfl
@[simp] theorem State.fetched_send (s : State) (m : OutMsg) : (s.send m).fetched = s.fetched := rfl
@[simp] theorem State.seqno_send (s : State) (m : OutMsg) : (s.send m).seqno = s.seqno := rfl
@[simp] theorem State.mem_send (s : State) (m : OutMsg) : (s.send m).mem = s.mem := rfl
@[simp] theorem State.trunk_send (s : State) (m : OutMsg) : (s.send m).trunk = s.trunk := rfl

/-! ## The fields under `onLaunch` -/

@[simp] theorem State.cur_onLaunch (s : State) (p : PartNum) (l : BitVec 32) (f : Launch → Launch) : (s.onLaunch p l f).cur = s.cur := rfl
@[simp] theorem State.agenda_onLaunch (s : State) (p : PartNum) (l : BitVec 32) (f : Launch → Launch) : (s.onLaunch p l f).agenda = s.agenda := rfl
@[simp] theorem State.tick_onLaunch (s : State) (p : PartNum) (l : BitVec 32) (f : Launch → Launch) : (s.onLaunch p l f).tick = s.tick := rfl
@[simp] theorem State.clock_onLaunch (s : State) (p : PartNum) (l : BitVec 32) (f : Launch → Launch) : (s.onLaunch p l f).clock = s.clock := rfl
@[simp] theorem State.cores_onLaunch (s : State) (p : PartNum) (l : BitVec 32) (f : Launch → Launch) : (s.onLaunch p l f).cores = s.cores := rfl
@[simp] theorem State.groves_onLaunch (s : State) (p : PartNum) (l : BitVec 32) (f : Launch → Launch) : (s.onLaunch p l f).groves = s.groves := rfl
@[simp] theorem State.dies_onLaunch (s : State) (p : PartNum) (l : BitVec 32) (f : Launch → Launch) : (s.onLaunch p l f).dies = s.dies := rfl
@[simp] theorem State.parts_onLaunch (s : State) (p : PartNum) (l : BitVec 32) (f : Launch → Launch) : (s.onLaunch p l f).parts = s.parts := rfl
@[simp] theorem State.tasks_onLaunch (s : State) (p : PartNum) (l : BitVec 32) (f : Launch → Launch) : (s.onLaunch p l f).tasks = s.tasks := rfl
@[simp] theorem State.checkpoints_onLaunch (s : State) (p : PartNum) (l : BitVec 32) (f : Launch → Launch) : (s.onLaunch p l f).checkpoints = s.checkpoints := rfl
@[simp] theorem State.undo_onLaunch (s : State) (p : PartNum) (l : BitVec 32) (f : Launch → Launch) : (s.onLaunch p l f).undo = s.undo := rfl
@[simp] theorem State.phasers_onLaunch (s : State) (p : PartNum) (l : BitVec 32) (f : Launch → Launch) : (s.onLaunch p l f).phasers = s.phasers := rfl
@[simp] theorem State.gens_onLaunch (s : State) (p : PartNum) (l : BitVec 32) (f : Launch → Launch) : (s.onLaunch p l f).gens = s.gens := rfl
@[simp] theorem State.tlb1_onLaunch (s : State) (p : PartNum) (l : BitVec 32) (f : Launch → Launch) : (s.onLaunch p l f).tlb1 = s.tlb1 := rfl
@[simp] theorem State.tlb2_onLaunch (s : State) (p : PartNum) (l : BitVec 32) (f : Launch → Launch) : (s.onLaunch p l f).tlb2 = s.tlb2 := rfl
@[simp] theorem State.fetched_onLaunch (s : State) (p : PartNum) (l : BitVec 32) (f : Launch → Launch) : (s.onLaunch p l f).fetched = s.fetched := rfl
@[simp] theorem State.seqno_onLaunch (s : State) (p : PartNum) (l : BitVec 32) (f : Launch → Launch) : (s.onLaunch p l f).seqno = s.seqno := rfl
@[simp] theorem State.mem_onLaunch (s : State) (p : PartNum) (l : BitVec 32) (f : Launch → Launch) : (s.onLaunch p l f).mem = s.mem := rfl
@[simp] theorem State.trunk_onLaunch (s : State) (p : PartNum) (l : BitVec 32) (f : Launch → Launch) : (s.onLaunch p l f).trunk = s.trunk := rfl
@[simp] theorem State.out_onLaunch (s : State) (p : PartNum) (l : BitVec 32) (f : Launch → Launch) : (s.onLaunch p l f).out = s.out := rfl

/-! ## The fields under `onPhaser` -/

@[simp] theorem State.cur_onPhaser (s : State) (e : BitVec 4) (i : BitVec 12) (f : Phaser → Phaser) : (s.onPhaser e i f).cur = s.cur := rfl
@[simp] theorem State.agenda_onPhaser (s : State) (e : BitVec 4) (i : BitVec 12) (f : Phaser → Phaser) : (s.onPhaser e i f).agenda = s.agenda := rfl
@[simp] theorem State.tick_onPhaser (s : State) (e : BitVec 4) (i : BitVec 12) (f : Phaser → Phaser) : (s.onPhaser e i f).tick = s.tick := rfl
@[simp] theorem State.clock_onPhaser (s : State) (e : BitVec 4) (i : BitVec 12) (f : Phaser → Phaser) : (s.onPhaser e i f).clock = s.clock := rfl
@[simp] theorem State.cores_onPhaser (s : State) (e : BitVec 4) (i : BitVec 12) (f : Phaser → Phaser) : (s.onPhaser e i f).cores = s.cores := rfl
@[simp] theorem State.groves_onPhaser (s : State) (e : BitVec 4) (i : BitVec 12) (f : Phaser → Phaser) : (s.onPhaser e i f).groves = s.groves := rfl
@[simp] theorem State.dies_onPhaser (s : State) (e : BitVec 4) (i : BitVec 12) (f : Phaser → Phaser) : (s.onPhaser e i f).dies = s.dies := rfl
@[simp] theorem State.parts_onPhaser (s : State) (e : BitVec 4) (i : BitVec 12) (f : Phaser → Phaser) : (s.onPhaser e i f).parts = s.parts := rfl
@[simp] theorem State.launches_onPhaser (s : State) (e : BitVec 4) (i : BitVec 12) (f : Phaser → Phaser) : (s.onPhaser e i f).launches = s.launches := rfl
@[simp] theorem State.tasks_onPhaser (s : State) (e : BitVec 4) (i : BitVec 12) (f : Phaser → Phaser) : (s.onPhaser e i f).tasks = s.tasks := rfl
@[simp] theorem State.checkpoints_onPhaser (s : State) (e : BitVec 4) (i : BitVec 12) (f : Phaser → Phaser) : (s.onPhaser e i f).checkpoints = s.checkpoints := rfl
@[simp] theorem State.undo_onPhaser (s : State) (e : BitVec 4) (i : BitVec 12) (f : Phaser → Phaser) : (s.onPhaser e i f).undo = s.undo := rfl
@[simp] theorem State.gens_onPhaser (s : State) (e : BitVec 4) (i : BitVec 12) (f : Phaser → Phaser) : (s.onPhaser e i f).gens = s.gens := rfl
@[simp] theorem State.tlb1_onPhaser (s : State) (e : BitVec 4) (i : BitVec 12) (f : Phaser → Phaser) : (s.onPhaser e i f).tlb1 = s.tlb1 := rfl
@[simp] theorem State.tlb2_onPhaser (s : State) (e : BitVec 4) (i : BitVec 12) (f : Phaser → Phaser) : (s.onPhaser e i f).tlb2 = s.tlb2 := rfl
@[simp] theorem State.fetched_onPhaser (s : State) (e : BitVec 4) (i : BitVec 12) (f : Phaser → Phaser) : (s.onPhaser e i f).fetched = s.fetched := rfl
@[simp] theorem State.seqno_onPhaser (s : State) (e : BitVec 4) (i : BitVec 12) (f : Phaser → Phaser) : (s.onPhaser e i f).seqno = s.seqno := rfl
@[simp] theorem State.mem_onPhaser (s : State) (e : BitVec 4) (i : BitVec 12) (f : Phaser → Phaser) : (s.onPhaser e i f).mem = s.mem := rfl
@[simp] theorem State.trunk_onPhaser (s : State) (e : BitVec 4) (i : BitVec 12) (f : Phaser → Phaser) : (s.onPhaser e i f).trunk = s.trunk := rfl
@[simp] theorem State.out_onPhaser (s : State) (e : BitVec 4) (i : BitVec 12) (f : Phaser → Phaser) : (s.onPhaser e i f).out = s.out := rfl

/-! ## The fields that those updates change -/

@[simp] theorem State.trunk_onTrunk (s : State) (f : Trunk → Trunk) : (s.onTrunk f).trunk = f s.trunk := rfl
@[simp] theorem State.mem_onMem (s : State) (f : Mem → Mem) : (s.onMem f).mem = f s.mem := rfl
@[simp] theorem State.out_send (s : State) (m : OutMsg) : (s.send m).out = s.out ++ [m] := rfl
@[simp] theorem State.cur_fresh (s : State) : s.fresh.2.cur = s.cur := rfl
@[simp] theorem State.agenda_fresh (s : State) : s.fresh.2.agenda = s.agenda := rfl
@[simp] theorem State.clock_fresh (s : State) : s.fresh.2.clock = s.clock := rfl
@[simp] theorem State.cores_fresh (s : State) : s.fresh.2.cores = s.cores := rfl
@[simp] theorem State.groves_fresh (s : State) : s.fresh.2.groves = s.groves := rfl
@[simp] theorem State.dies_fresh (s : State) : s.fresh.2.dies = s.dies := rfl
@[simp] theorem State.parts_fresh (s : State) : s.fresh.2.parts = s.parts := rfl
@[simp] theorem State.launches_fresh (s : State) : s.fresh.2.launches = s.launches := rfl
@[simp] theorem State.tasks_fresh (s : State) : s.fresh.2.tasks = s.tasks := rfl
@[simp] theorem State.checkpoints_fresh (s : State) : s.fresh.2.checkpoints = s.checkpoints := rfl
@[simp] theorem State.undo_fresh (s : State) : s.fresh.2.undo = s.undo := rfl
@[simp] theorem State.phasers_fresh (s : State) : s.fresh.2.phasers = s.phasers := rfl
@[simp] theorem State.gens_fresh (s : State) : s.fresh.2.gens = s.gens := rfl
@[simp] theorem State.tlb1_fresh (s : State) : s.fresh.2.tlb1 = s.tlb1 := rfl
@[simp] theorem State.tlb2_fresh (s : State) : s.fresh.2.tlb2 = s.tlb2 := rfl
@[simp] theorem State.fetched_fresh (s : State) : s.fresh.2.fetched = s.fetched := rfl
@[simp] theorem State.seqno_fresh (s : State) : s.fresh.2.seqno = s.seqno := rfl
@[simp] theorem State.mem_fresh (s : State) : s.fresh.2.mem = s.mem := rfl
@[simp] theorem State.trunk_fresh (s : State) : s.fresh.2.trunk = s.trunk := rfl
@[simp] theorem State.out_fresh (s : State) : s.fresh.2.out = s.out := rfl
@[simp] theorem State.cur_stamp (s : State) : s.stamp.2.cur = s.cur := rfl
@[simp] theorem State.agenda_stamp (s : State) : s.stamp.2.agenda = s.agenda := rfl
@[simp] theorem State.cores_stamp (s : State) : s.stamp.2.cores = s.cores := rfl
@[simp] theorem State.groves_stamp (s : State) : s.stamp.2.groves = s.groves := rfl
@[simp] theorem State.dies_stamp (s : State) : s.stamp.2.dies = s.dies := rfl
@[simp] theorem State.parts_stamp (s : State) : s.stamp.2.parts = s.parts := rfl
@[simp] theorem State.launches_stamp (s : State) : s.stamp.2.launches = s.launches := rfl
@[simp] theorem State.tasks_stamp (s : State) : s.stamp.2.tasks = s.tasks := rfl
@[simp] theorem State.checkpoints_stamp (s : State) : s.stamp.2.checkpoints = s.checkpoints := rfl
@[simp] theorem State.undo_stamp (s : State) : s.stamp.2.undo = s.undo := rfl
@[simp] theorem State.phasers_stamp (s : State) : s.stamp.2.phasers = s.phasers := rfl
@[simp] theorem State.gens_stamp (s : State) : s.stamp.2.gens = s.gens := rfl
@[simp] theorem State.tlb1_stamp (s : State) : s.stamp.2.tlb1 = s.tlb1 := rfl
@[simp] theorem State.tlb2_stamp (s : State) : s.stamp.2.tlb2 = s.tlb2 := rfl
@[simp] theorem State.fetched_stamp (s : State) : s.stamp.2.fetched = s.fetched := rfl
@[simp] theorem State.seqno_stamp (s : State) : s.stamp.2.seqno = s.seqno := rfl
@[simp] theorem State.mem_stamp (s : State) : s.stamp.2.mem = s.mem := rfl
@[simp] theorem State.trunk_stamp (s : State) : s.stamp.2.trunk = s.trunk := rfl
@[simp] theorem State.out_stamp (s : State) : s.stamp.2.out = s.out := rfl
@[simp] theorem State.val_fresh (s : State) : s.fresh.1 = s.tick := rfl
@[simp] theorem State.tick_fresh (s : State) : s.fresh.2.tick = s.tick + 1 := rfl
@[simp] theorem State.val_stamp (s : State) : s.stamp.1 = s.clock := rfl
@[simp] theorem State.tick_stamp (s : State) : s.stamp.2.tick = s.tick + 1 := rfl

/-! ## The fields of a context under a change of its program -/

@[simp] theorem Ctx.part_setThr (c : Ctx) (t : Thread) : (c.setThr t).part = c.part := by unfold Ctx.setThr; split <;> rfl
@[simp] theorem Ctx.lid_setThr (c : Ctx) (t : Thread) : (c.setThr t).lid = c.lid := by unfold Ctx.setThr; split <;> rfl
@[simp] theorem Ctx.sidx_setThr (c : Ctx) (t : Thread) : (c.setThr t).sidx = c.sidx := by unfold Ctx.setThr; split <;> rfl
@[simp] theorem Ctx.boot_setThr (c : Ctx) (t : Thread) : (c.setThr t).boot = c.boot := by unfold Ctx.setThr; split <;> rfl
@[simp] theorem Ctx.kern_setThr (c : Ctx) (t : Thread) : (c.setThr t).kern = c.kern := by unfold Ctx.setThr; split <;> rfl
@[simp] theorem Ctx.inHandler_setThr (c : Ctx) (t : Thread) : (c.setThr t).inHandler = c.inHandler := by unfold Ctx.setThr; split <;> rfl
@[simp] theorem Ctx.vec_setThr (c : Ctx) (t : Thread) : (c.setThr t).vec = c.vec := by unfold Ctx.setThr; split <;> rfl
@[simp] theorem Ctx.mat_setThr (c : Ctx) (t : Thread) : (c.setThr t).mat = c.mat := by unfold Ctx.setThr; split <;> rfl
@[simp] theorem Ctx.h_setThr (c : Ctx) (t : Thread) : (c.setThr t).h = c.h := by unfold Ctx.setThr; split <;> rfl
@[simp] theorem Ctx.maps_setThr (c : Ctx) (t : Thread) : (c.setThr t).maps = c.maps := by unfold Ctx.setThr; split <;> rfl
@[simp] theorem Ctx.queues_setThr (c : Ctx) (t : Thread) : (c.setThr t).queues = c.queues := by unfold Ctx.setThr; split <;> rfl
@[simp] theorem Ctx.csr_setThr (c : Ctx) (t : Thread) : (c.setThr t).csr = c.csr := by unfold Ctx.setThr; split <;> rfl
@[simp] theorem Ctx.lease_setThr (c : Ctx) (t : Thread) : (c.setThr t).lease = c.lease := by unfold Ctx.setThr; split <;> rfl
@[simp] theorem Ctx.sched_setThr (c : Ctx) (t : Thread) : (c.setThr t).sched = c.sched := by unfold Ctx.setThr; split <;> rfl
@[simp] theorem Ctx.walk_setThr (c : Ctx) (t : Thread) : (c.setThr t).walk = c.walk := by unfold Ctx.setThr; split <;> rfl
@[simp] theorem Ctx.acks_setThr (c : Ctx) (t : Thread) : (c.setThr t).acks = c.acks := by unfold Ctx.setThr; split <;> rfl
@[simp] theorem Ctx.lost_setThr (c : Ctx) (t : Thread) : (c.setThr t).lost = c.lost := by unfold Ctx.setThr; split <;> rfl
@[simp] theorem Ctx.replays_setThr (c : Ctx) (t : Thread) : (c.setThr t).replays = c.replays := by unfold Ctx.setThr; split <;> rfl
@[simp] theorem Ctx.irrevocable_setThr (c : Ctx) (t : Thread) : (c.setThr t).irrevocable = c.irrevocable := by unfold Ctx.setThr; split <;> rfl
@[simp] theorem Ctx.released_setThr (c : Ctx) (t : Thread) : (c.setThr t).released = c.released := by unfold Ctx.setThr; split <;> rfl
@[simp] theorem Ctx.segTraps_setThr (c : Ctx) (t : Thread) : (c.setThr t).segTraps = c.segTraps := by unfold Ctx.setThr; split <;> rfl
@[simp] theorem Ctx.nextId_setThr (c : Ctx) (t : Thread) : (c.setThr t).nextId = c.nextId := by unfold Ctx.setThr; split <;> rfl
@[simp] theorem Ctx.wait_setThr (c : Ctx) (t : Thread) : (c.setThr t).wait = c.wait := by unfold Ctx.setThr; split <;> rfl
@[simp] theorem Ctx.pendTrap_setThr (c : Ctx) (t : Thread) : (c.setThr t).pendTrap = c.pendTrap := by unfold Ctx.setThr; split <;> rfl
@[simp] theorem Ctx.entry_setThr (c : Ctx) (t : Thread) : (c.setThr t).entry = c.entry := by unfold Ctx.setThr; split <;> rfl

@[simp] theorem Ctx.part_onThr (c : Ctx) (f : Thread → Thread) : (c.onThr f).part = c.part := by simp [Ctx.onThr]
@[simp] theorem Ctx.lid_onThr (c : Ctx) (f : Thread → Thread) : (c.onThr f).lid = c.lid := by simp [Ctx.onThr]
@[simp] theorem Ctx.sidx_onThr (c : Ctx) (f : Thread → Thread) : (c.onThr f).sidx = c.sidx := by simp [Ctx.onThr]
@[simp] theorem Ctx.boot_onThr (c : Ctx) (f : Thread → Thread) : (c.onThr f).boot = c.boot := by simp [Ctx.onThr]
@[simp] theorem Ctx.kern_onThr (c : Ctx) (f : Thread → Thread) : (c.onThr f).kern = c.kern := by simp [Ctx.onThr]
@[simp] theorem Ctx.inHandler_onThr (c : Ctx) (f : Thread → Thread) : (c.onThr f).inHandler = c.inHandler := by simp [Ctx.onThr]
@[simp] theorem Ctx.vec_onThr (c : Ctx) (f : Thread → Thread) : (c.onThr f).vec = c.vec := by simp [Ctx.onThr]
@[simp] theorem Ctx.mat_onThr (c : Ctx) (f : Thread → Thread) : (c.onThr f).mat = c.mat := by simp [Ctx.onThr]
@[simp] theorem Ctx.h_onThr (c : Ctx) (f : Thread → Thread) : (c.onThr f).h = c.h := by simp [Ctx.onThr]
@[simp] theorem Ctx.maps_onThr (c : Ctx) (f : Thread → Thread) : (c.onThr f).maps = c.maps := by simp [Ctx.onThr]
@[simp] theorem Ctx.queues_onThr (c : Ctx) (f : Thread → Thread) : (c.onThr f).queues = c.queues := by simp [Ctx.onThr]
@[simp] theorem Ctx.csr_onThr (c : Ctx) (f : Thread → Thread) : (c.onThr f).csr = c.csr := by simp [Ctx.onThr]
@[simp] theorem Ctx.lease_onThr (c : Ctx) (f : Thread → Thread) : (c.onThr f).lease = c.lease := by simp [Ctx.onThr]
@[simp] theorem Ctx.sched_onThr (c : Ctx) (f : Thread → Thread) : (c.onThr f).sched = c.sched := by simp [Ctx.onThr]
@[simp] theorem Ctx.walk_onThr (c : Ctx) (f : Thread → Thread) : (c.onThr f).walk = c.walk := by simp [Ctx.onThr]
@[simp] theorem Ctx.acks_onThr (c : Ctx) (f : Thread → Thread) : (c.onThr f).acks = c.acks := by simp [Ctx.onThr]
@[simp] theorem Ctx.lost_onThr (c : Ctx) (f : Thread → Thread) : (c.onThr f).lost = c.lost := by simp [Ctx.onThr]
@[simp] theorem Ctx.replays_onThr (c : Ctx) (f : Thread → Thread) : (c.onThr f).replays = c.replays := by simp [Ctx.onThr]
@[simp] theorem Ctx.irrevocable_onThr (c : Ctx) (f : Thread → Thread) : (c.onThr f).irrevocable = c.irrevocable := by simp [Ctx.onThr]
@[simp] theorem Ctx.released_onThr (c : Ctx) (f : Thread → Thread) : (c.onThr f).released = c.released := by simp [Ctx.onThr]
@[simp] theorem Ctx.segTraps_onThr (c : Ctx) (f : Thread → Thread) : (c.onThr f).segTraps = c.segTraps := by simp [Ctx.onThr]
@[simp] theorem Ctx.nextId_onThr (c : Ctx) (f : Thread → Thread) : (c.onThr f).nextId = c.nextId := by simp [Ctx.onThr]
@[simp] theorem Ctx.wait_onThr (c : Ctx) (f : Thread → Thread) : (c.onThr f).wait = c.wait := by simp [Ctx.onThr]
@[simp] theorem Ctx.pendTrap_onThr (c : Ctx) (f : Thread → Thread) : (c.onThr f).pendTrap = c.pendTrap := by simp [Ctx.onThr]
@[simp] theorem Ctx.entry_onThr (c : Ctx) (f : Thread → Thread) : (c.onThr f).entry = c.entry := by simp [Ctx.onThr]

/-! ## The fields of a program under a landing result -/

@[simp] theorem Thread.a_land (t : Thread) (n : Nat) (d : LDest) (v : LVal) (fl : BitVec 7) (m : Bool) :
    (t.land n d v fl m).a = t.a := rfl
@[simp] theorem Thread.b_land (t : Thread) (n : Nat) (d : LDest) (v : LVal) (fl : BitVec 7) (m : Bool) :
    (t.land n d v fl m).b = t.b := rfl
@[simp] theorem Thread.m_land (t : Thread) (n : Nat) (d : LDest) (v : LVal) (fl : BitVec 7) (m : Bool) :
    (t.land n d v fl m).m = t.m := rfl
@[simp] theorem Thread.ya_land (t : Thread) (n : Nat) (d : LDest) (v : LVal) (fl : BitVec 7) (m : Bool) :
    (t.land n d v fl m).ya = t.ya := rfl
@[simp] theorem Thread.yb_land (t : Thread) (n : Nat) (d : LDest) (v : LVal) (fl : BitVec 7) (m : Bool) :
    (t.land n d v fl m).yb = t.yb := rfl
@[simp] theorem Thread.yd_land (t : Thread) (n : Nat) (d : LDest) (v : LVal) (fl : BitVec 7) (m : Bool) :
    (t.land n d v fl m).yd = t.yd := rfl
@[simp] theorem Thread.pc_land (t : Thread) (n : Nat) (d : LDest) (v : LVal) (fl : BitVec 7) (m : Bool) :
    (t.land n d v fl m).pc = t.pc := rfl
@[simp] theorem Thread.redirects_land (t : Thread) (n : Nat) (d : LDest) (v : LVal) (fl : BitVec 7) (m : Bool) :
    (t.land n d v fl m).redirects = t.redirects := rfl
@[simp] theorem Thread.taken_land (t : Thread) (n : Nat) (d : LDest) (v : LVal) (fl : BitVec 7) (m : Bool) :
    (t.land n d v fl m).taken = t.taken := rfl
@[simp] theorem Thread.btime_land (t : Thread) (n : Nat) (d : LDest) (v : LVal) (fl : BitVec 7) (m : Bool) :
    (t.land n d v fl m).btime = t.btime := rfl
@[simp] theorem Thread.board_land (t : Thread) (n : Nat) (d : LDest) (v : LVal) (fl : BitVec 7) (m : Bool) :
    (t.land n d v fl m).board = t.board := rfl
@[simp] theorem Thread.issue_land (t : Thread) (n : Nat) (d : LDest) (v : LVal) (fl : BitVec 7) (m : Bool) :
    (t.land n d v fl m).issue = t.issue := rfl
@[simp] theorem Thread.resume_land (t : Thread) (n : Nat) (d : LDest) (v : LVal) (fl : BitVec 7) (m : Bool) :
    (t.land n d v fl m).resume = t.resume := rfl
@[simp] theorem Thread.landing_land (t : Thread) (n : Nat) (d : LDest) (v : LVal) (fl : BitVec 7) (m : Bool) :
    (t.land n d v fl m).landing = t.landing ++ [⟨n, d, v, fl, m⟩] := rfl

/-! ## Programs -/

@[simp] theorem Ctx.thr_setThr (c : Ctx) (t : Thread) : (c.setThr t).thr = t := by
  cases h : c.inHandler <;> simp [Ctx.thr, Ctx.setThr, h]
@[simp] theorem Ctx.thr_onThr (c : Ctx) (f : Thread → Thread) : (c.onThr f).thr = f c.thr := by simp [Ctx.onThr]
@[simp] theorem Ctx.setThr_setThr (c : Ctx) (t u : Thread) : (c.setThr t).setThr u = c.setThr u := by
  cases h : c.inHandler <;> simp [Ctx.setThr, h]
@[simp] theorem Ctx.onThr_setThr (c : Ctx) (t : Thread) (f : Thread → Thread) : (c.setThr t).onThr f = c.setThr (f t) := by
  simp [Ctx.onThr]
@[simp] theorem Ctx.setThr_thr (c : Ctx) : c.setThr c.thr = c := by
  unfold Ctx.thr Ctx.setThr; split <;> rfl

/-! ## Cores and contexts -/

/-- Writing a key twice leaves the second value. -/
@[simp] theorem smPut_smPut {α : Type} (k : Nat) (v w : α) (m : SMap α) : smPut k v (smPut k w m) = smPut k v m := by
  induction m with
  | nil => simp [smPut]
  | cons e t ih =>
    simp only [smPut]
    split
    · rename_i h; simp only [smPut, h, if_true, ih]
    · split <;> simp [smPut]

@[simp] theorem State.core_setCore_same (s : State) (c : CoreNum) (k : Core) : (s.setCore c k).core c = k :=
  smGet_smPut_same
theorem State.core_setCore_other (s : State) {c d : CoreNum} (k : Core) (h : d ≠ c) : (s.setCore c k).core d = s.core d :=
  smGet_smPut_other fun e => h (BitVec.eq_of_toNat_eq e)
@[simp] theorem State.core_onCore_same (s : State) (c : CoreNum) (f : Core → Core) : (s.onCore c f).core c = f (s.core c) :=
  s.core_setCore_same c _
theorem State.core_onCore_other (s : State) {c d : CoreNum} (f : Core → Core) (h : d ≠ c) :
    (s.onCore c f).core d = s.core d := s.core_setCore_other _ h
@[simp] theorem State.setCore_setCore (s : State) (c : CoreNum) (k l : Core) :
    (s.setCore c k).setCore c l = s.setCore c l := by simp [State.setCore]
@[simp] theorem State.core_setCtx_cur (s : State) (c : Ctx) :
    (s.setCtx c).core s.cur = { s.core s.cur with ctx := c } := s.core_setCore_same _ _
theorem State.core_setCtx_other (s : State) (c : Ctx) {d : CoreNum} (h : d ≠ s.cur) : (s.setCtx c).core d = s.core d :=
  s.core_setCore_other _ h
@[simp] theorem State.ctx_setCtx (s : State) (c : Ctx) : (s.setCtx c).ctx = c := by
  show ((s.setCtx c).core s.cur).ctx = c
  simp
@[simp] theorem State.setCtx_setCtx (s : State) (c d : Ctx) : (s.setCtx c).setCtx d = s.setCtx d := by
  show State.setCore (s.setCtx c) s.cur { (s.setCtx c).core s.cur with ctx := d } = _
  rw [State.core_setCtx_cur]
  simp [State.setCtx, State.onCore]
@[simp] theorem State.ctx_onCtx (s : State) (f : Ctx → Ctx) : (s.onCtx f).ctx = f s.ctx := s.ctx_setCtx _
@[simp] theorem State.onCtx_setCtx (s : State) (c : Ctx) (f : Ctx → Ctx) : (s.setCtx c).onCtx f = s.setCtx (f c) := by
  simp [State.onCtx]
@[simp] theorem State.setCtx_onCtx (s : State) (c : Ctx) (f : Ctx → Ctx) : (s.onCtx f).setCtx c = s.setCtx c := by
  simp [State.onCtx]
@[simp] theorem State.onCtx_onCtx (s : State) (f g : Ctx → Ctx) : (s.onCtx f).onCtx g = s.onCtx fun c => g (f c) := by
  simp [State.onCtx]
@[simp] theorem State.thr_onThr (s : State) (f : Thread → Thread) : (s.onThr f).thr = f s.thr := by
  simp [State.onThr, State.thr]
@[simp] theorem State.thr_setCtx (s : State) (c : Ctx) : (s.setCtx c).thr = c.thr := by simp [State.thr]
@[simp] theorem State.thr_onCtx (s : State) (f : Ctx → Ctx) : (s.onCtx f).thr = (f s.ctx).thr := by simp [State.thr]
/-- A change of the running context leaves its core's other parts. -/
@[simp] theorem State.busy_setCtx (s : State) (c : Ctx) (d : CoreNum) : ((s.setCtx c).core d).busy = (s.core d).busy := by
  by_cases h : d = s.cur
  · subst h; simp
  · rw [State.core_setCtx_other s c h]
@[simp] theorem State.busy_onCtx (s : State) (f : Ctx → Ctx) (d : CoreNum) : ((s.onCtx f).core d).busy = (s.core d).busy :=
  s.busy_setCtx _ d

/-! ## Partitions, groves, dies -/

@[simp] theorem State.part_setPart_same (s : State) (p : PartNum) (x : Part) : (s.setPart p x).part p = x := by
  simp [State.part, State.setPart]
theorem State.part_setPart_other (s : State) {p q : PartNum} (x : Part) (h : q ≠ p) :
    (s.setPart p x).part q = s.part q := by
  have h' : p.toNat ≠ q.toNat := fun e => h (BitVec.eq_of_toNat_eq e.symm)
  simp [State.part, State.setPart, fin3, h']
@[simp] theorem State.part_onPart_same (s : State) (p : PartNum) (f : Part → Part) : (s.onPart p f).part p = f (s.part p) :=
  s.part_setPart_same p _
theorem State.part_onPart_other (s : State) {p q : PartNum} (f : Part → Part) (h : q ≠ p) :
    (s.onPart p f).part q = s.part q := s.part_setPart_other _ h
@[simp] theorem State.grove_onGrove_same (s : State) (g : GroveNum) (f : Grove → Grove) :
    (s.onGrove g f).grove g = f (s.grove g) := by simp [State.grove, State.onGrove]
theorem State.grove_onGrove_other (s : State) {g h : GroveNum} (f : Grove → Grove) (hg : h ≠ g) :
    (s.onGrove g f).grove h = s.grove h := by
  have h' : g.toNat ≠ h.toNat := fun e => hg (BitVec.eq_of_toNat_eq e.symm)
  simp [State.grove, State.onGrove, fin4, h']
@[simp] theorem State.die_onDie_same (s : State) (d : BitVec 2) (f : Die → Die) : (s.onDie d f).die d = f (s.die d) := by
  simp [State.die, State.onDie]
theorem State.die_onDie_other (s : State) {d e : BitVec 2} (f : Die → Die) (h : e ≠ d) :
    (s.onDie d f).die e = s.die e := by
  have h' : d.toNat ≠ e.toNat := fun x => h (BitVec.eq_of_toNat_eq x.symm)
  simp [State.die, State.onDie, fin2, h']
@[simp] theorem State.core_setPart (s : State) (p : PartNum) (x : Part) (d : CoreNum) : (s.setPart p x).core d = s.core d := rfl
@[simp] theorem State.core_onPart (s : State) (p : PartNum) (f : Part → Part) (d : CoreNum) : (s.onPart p f).core d = s.core d := rfl
@[simp] theorem State.core_onGrove (s : State) (g : GroveNum) (f : Grove → Grove) (d : CoreNum) : (s.onGrove g f).core d = s.core d := rfl
@[simp] theorem State.core_onDie (s : State) (d : BitVec 2) (f : Die → Die) (z : CoreNum) : (s.onDie d f).core z = s.core z := rfl
@[simp] theorem State.core_onTrunk (s : State) (f : Trunk → Trunk) (d : CoreNum) : (s.onTrunk f).core d = s.core d := rfl
@[simp] theorem State.core_onMem (s : State) (f : Mem → Mem) (d : CoreNum) : (s.onMem f).core d = s.core d := rfl
@[simp] theorem State.core_send (s : State) (m : OutMsg) (d : CoreNum) : (s.send m).core d = s.core d := rfl
@[simp] theorem State.core_onLaunch (s : State) (p : PartNum) (l : BitVec 32) (f : Launch → Launch) (d : CoreNum) : (s.onLaunch p l f).core d = s.core d := rfl
@[simp] theorem State.core_onPhaser (s : State) (e : BitVec 4) (i : BitVec 12) (f : Phaser → Phaser) (d : CoreNum) : (s.onPhaser e i f).core d = s.core d := rfl
@[simp] theorem State.part_setCore (s : State) (c : CoreNum) (k : Core) (q : PartNum) : (s.setCore c k).part q = s.part q := rfl
@[simp] theorem State.part_onCore (s : State) (c : CoreNum) (f : Core → Core) (q : PartNum) : (s.onCore c f).part q = s.part q := rfl
@[simp] theorem State.part_setCtx (s : State) (c : Ctx) (q : PartNum) : (s.setCtx c).part q = s.part q := rfl
@[simp] theorem State.part_onCtx (s : State) (f : Ctx → Ctx) (q : PartNum) : (s.onCtx f).part q = s.part q := rfl
@[simp] theorem State.part_onThr (s : State) (f : Thread → Thread) (q : PartNum) : (s.onThr f).part q = s.part q := rfl
@[simp] theorem State.part_onGrove (s : State) (g : GroveNum) (f : Grove → Grove) (q : PartNum) : (s.onGrove g f).part q = s.part q := rfl
@[simp] theorem State.part_onDie (s : State) (d : BitVec 2) (f : Die → Die) (q : PartNum) : (s.onDie d f).part q = s.part q := rfl
@[simp] theorem State.part_onTrunk (s : State) (f : Trunk → Trunk) (q : PartNum) : (s.onTrunk f).part q = s.part q := rfl
@[simp] theorem State.part_onMem (s : State) (f : Mem → Mem) (q : PartNum) : (s.onMem f).part q = s.part q := rfl
@[simp] theorem State.part_send (s : State) (m : OutMsg) (q : PartNum) : (s.send m).part q = s.part q := rfl
@[simp] theorem State.part_onLaunch (s : State) (p : PartNum) (l : BitVec 32) (f : Launch → Launch) (q : PartNum) : (s.onLaunch p l f).part q = s.part q := rfl
@[simp] theorem State.part_onPhaser (s : State) (e : BitVec 4) (i : BitVec 12) (f : Phaser → Phaser) (q : PartNum) : (s.onPhaser e i f).part q = s.part q := rfl
@[simp] theorem State.grove_setCore (s : State) (c : CoreNum) (k : Core) (h : GroveNum) : (s.setCore c k).grove h = s.grove h := rfl
@[simp] theorem State.grove_onCore (s : State) (c : CoreNum) (f : Core → Core) (h : GroveNum) : (s.onCore c f).grove h = s.grove h := rfl
@[simp] theorem State.grove_setCtx (s : State) (c : Ctx) (h : GroveNum) : (s.setCtx c).grove h = s.grove h := rfl
@[simp] theorem State.grove_onCtx (s : State) (f : Ctx → Ctx) (h : GroveNum) : (s.onCtx f).grove h = s.grove h := rfl
@[simp] theorem State.grove_onThr (s : State) (f : Thread → Thread) (h : GroveNum) : (s.onThr f).grove h = s.grove h := rfl
@[simp] theorem State.grove_setPart (s : State) (p : PartNum) (x : Part) (h : GroveNum) : (s.setPart p x).grove h = s.grove h := rfl
@[simp] theorem State.grove_onPart (s : State) (p : PartNum) (f : Part → Part) (h : GroveNum) : (s.onPart p f).grove h = s.grove h := rfl
@[simp] theorem State.grove_onDie (s : State) (d : BitVec 2) (f : Die → Die) (h : GroveNum) : (s.onDie d f).grove h = s.grove h := rfl
@[simp] theorem State.grove_onTrunk (s : State) (f : Trunk → Trunk) (h : GroveNum) : (s.onTrunk f).grove h = s.grove h := rfl
@[simp] theorem State.grove_onMem (s : State) (f : Mem → Mem) (h : GroveNum) : (s.onMem f).grove h = s.grove h := rfl
@[simp] theorem State.grove_send (s : State) (m : OutMsg) (h : GroveNum) : (s.send m).grove h = s.grove h := rfl
@[simp] theorem State.grove_onLaunch (s : State) (p : PartNum) (l : BitVec 32) (f : Launch → Launch) (h : GroveNum) : (s.onLaunch p l f).grove h = s.grove h := rfl
@[simp] theorem State.grove_onPhaser (s : State) (e : BitVec 4) (i : BitVec 12) (f : Phaser → Phaser) (h : GroveNum) : (s.onPhaser e i f).grove h = s.grove h := rfl
@[simp] theorem State.die_setCore (s : State) (c : CoreNum) (k : Core) (e : BitVec 2) : (s.setCore c k).die e = s.die e := rfl
@[simp] theorem State.die_onCore (s : State) (c : CoreNum) (f : Core → Core) (e : BitVec 2) : (s.onCore c f).die e = s.die e := rfl
@[simp] theorem State.die_setCtx (s : State) (c : Ctx) (e : BitVec 2) : (s.setCtx c).die e = s.die e := rfl
@[simp] theorem State.die_onCtx (s : State) (f : Ctx → Ctx) (e : BitVec 2) : (s.onCtx f).die e = s.die e := rfl
@[simp] theorem State.die_onThr (s : State) (f : Thread → Thread) (e : BitVec 2) : (s.onThr f).die e = s.die e := rfl
@[simp] theorem State.die_setPart (s : State) (p : PartNum) (x : Part) (e : BitVec 2) : (s.setPart p x).die e = s.die e := rfl
@[simp] theorem State.die_onPart (s : State) (p : PartNum) (f : Part → Part) (e : BitVec 2) : (s.onPart p f).die e = s.die e := rfl
@[simp] theorem State.die_onGrove (s : State) (g : GroveNum) (f : Grove → Grove) (e : BitVec 2) : (s.onGrove g f).die e = s.die e := rfl
@[simp] theorem State.die_onTrunk (s : State) (f : Trunk → Trunk) (e : BitVec 2) : (s.onTrunk f).die e = s.die e := rfl
@[simp] theorem State.die_onMem (s : State) (f : Mem → Mem) (e : BitVec 2) : (s.onMem f).die e = s.die e := rfl
@[simp] theorem State.die_send (s : State) (m : OutMsg) (e : BitVec 2) : (s.send m).die e = s.die e := rfl
@[simp] theorem State.die_onLaunch (s : State) (p : PartNum) (l : BitVec 32) (f : Launch → Launch) (e : BitVec 2) : (s.onLaunch p l f).die e = s.die e := rfl
@[simp] theorem State.die_onPhaser (s : State) (e : BitVec 4) (i : BitVec 12) (f : Phaser → Phaser) (z : BitVec 2) : (s.onPhaser e i f).die z = s.die z := rfl
@[simp] theorem State.ctx_setPart (s : State) (p : PartNum) (x : Part) : (s.setPart p x).ctx = s.ctx := rfl
@[simp] theorem State.thr_setPart (s : State) (p : PartNum) (x : Part) : (s.setPart p x).thr = s.thr := rfl
@[simp] theorem State.ctx_onPart (s : State) (p : PartNum) (f : Part → Part) : (s.onPart p f).ctx = s.ctx := rfl
@[simp] theorem State.thr_onPart (s : State) (p : PartNum) (f : Part → Part) : (s.onPart p f).thr = s.thr := rfl
@[simp] theorem State.ctx_onGrove (s : State) (g : GroveNum) (f : Grove → Grove) : (s.onGrove g f).ctx = s.ctx := rfl
@[simp] theorem State.thr_onGrove (s : State) (g : GroveNum) (f : Grove → Grove) : (s.onGrove g f).thr = s.thr := rfl
@[simp] theorem State.ctx_onDie (s : State) (d : BitVec 2) (f : Die → Die) : (s.onDie d f).ctx = s.ctx := rfl
@[simp] theorem State.thr_onDie (s : State) (d : BitVec 2) (f : Die → Die) : (s.onDie d f).thr = s.thr := rfl
@[simp] theorem State.ctx_onTrunk (s : State) (f : Trunk → Trunk) : (s.onTrunk f).ctx = s.ctx := rfl
@[simp] theorem State.thr_onTrunk (s : State) (f : Trunk → Trunk) : (s.onTrunk f).thr = s.thr := rfl
@[simp] theorem State.ctx_onMem (s : State) (f : Mem → Mem) : (s.onMem f).ctx = s.ctx := rfl
@[simp] theorem State.thr_onMem (s : State) (f : Mem → Mem) : (s.onMem f).thr = s.thr := rfl
@[simp] theorem State.ctx_send (s : State) (m : OutMsg) : (s.send m).ctx = s.ctx := rfl
@[simp] theorem State.thr_send (s : State) (m : OutMsg) : (s.send m).thr = s.thr := rfl
@[simp] theorem State.ctx_onLaunch (s : State) (p : PartNum) (l : BitVec 32) (f : Launch → Launch) : (s.onLaunch p l f).ctx = s.ctx := rfl
@[simp] theorem State.thr_onLaunch (s : State) (p : PartNum) (l : BitVec 32) (f : Launch → Launch) : (s.onLaunch p l f).thr = s.thr := rfl
@[simp] theorem State.ctx_onPhaser (s : State) (e : BitVec 4) (i : BitVec 12) (f : Phaser → Phaser) : (s.onPhaser e i f).ctx = s.ctx := rfl
@[simp] theorem State.thr_onPhaser (s : State) (e : BitVec 4) (i : BitVec 12) (f : Phaser → Phaser) : (s.onPhaser e i f).thr = s.thr := rfl

end Sys2Proof.Machine
end

