-- ==== Sys2Proof/Laws/Memory.lean ====
section
/-!
SUPPORT. Laws of memory: every memory operation keeps the canonical form, memory at reset has it, and what a read gives after a
write at its home.
-/

namespace Sys2Proof.Machine

/-! ## The canonical form -/

theorem Memory.wf_iff {m : Mem} : Memory.wf m = true ↔ smWf 0 m.bytes = true ∧ smWf 0 m.check = true ∧
    smSorted none m.dirty = true ∧ smSorted none m.quarantine = true := by
  simp [Memory.wf, and_assoc]

/-- Memory at reset lists nothing. -/
theorem Memory.wf_reset : Memory.wf State.reset.mem = true := by decide

theorem Memory.wf_putBlock {m : Mem} {pa : Nat} {l : List Byte} {p : Bool} (h : Memory.wf m = true) :
    Memory.wf (m.putBlock pa l p) = true := by
  obtain ⟨hb, hc, hd, hq⟩ := Memory.wf_iff.1 h
  exact Memory.wf_iff.2 ⟨smWf_writeBytes hb, smWf_smSet hc, hd, hq⟩

theorem Memory.wf_putLine {m : Mem} {who : Option TaskId} {pa : Nat} {l : List Byte} {p : Bool} (h : Memory.wf m = true) :
    Memory.wf (m.putLine who pa l p) = true := by
  obtain ⟨hb, hc, hd, hq⟩ := Memory.wf_iff.1 h
  exact Memory.wf_iff.2 ⟨hb, hc, smSorted_smPut hd (by simp), hq⟩

theorem Memory.wf_storeLine {m : Mem} {b : Nat} {l : Line} (h : Memory.wf m = true) : Memory.wf (m.storeLine b l) = true := by
  obtain ⟨hb, hc, hd, hq⟩ := Memory.wf_iff.1 h
  exact Memory.wf_iff.2 ⟨smWf_writeBytes hb, smWf_smSet hc, hd, hq⟩

theorem Memory.wf_writeBack {m : Mem} {b : Nat} (h : Memory.wf m = true) : Memory.wf (m.writeBack b) = true := by
  simp only [Mem.writeBack]
  split
  · exact h
  · rename_i l _
    obtain ⟨hb, hc, -, hq⟩ := Memory.wf_iff.1 (Memory.wf_storeLine (b := b) (l := l) h)
    exact Memory.wf_iff.2 ⟨hb, hc, smSorted_smDel (Memory.wf_iff.1 h).2.2.1, hq⟩

theorem Memory.wf_correct {m : Mem} {b : Nat} {c : Bool} {e : List (Nat × BitVec 8)} (h : Memory.wf m = true) :
    Memory.wf (m.correct b c e) = true := by
  obtain ⟨hb, hc, hd, hq⟩ := Memory.wf_iff.1 h
  unfold Mem.correct
  split
  · exact Memory.wf_iff.2 ⟨hb, hc, smSorted_smPut hd (by simp), hq⟩
  · exact Memory.wf_iff.2 ⟨smWf_writeBytes hb, smWf_smDel hc, hd, hq⟩

theorem Memory.wf_mergeInto {m : Mem} {c p : Bool} {pa n : Nat} (h : Memory.wf m = true) :
    Memory.wf (m.mergeInto c pa n p) = true := by
  unfold Mem.mergeInto
  split
  · split
    · exact h
    · exact Memory.wf_correct h
  · exact h

/-- The same for a part of the lines of dirty memory. -/
theorem smSorted_filter {α : Type} {m : SMap α} {lo : Option Nat} (p : Nat × α → Bool) (h : smSorted lo m = true) :
    smSorted lo (m.filter p) = true := by
  induction m generalizing lo with
  | nil => rfl
  | cons e t ih =>
    have hh := smSorted_cons.1 h
    rw [List.filter_cons]
    split
    · exact smSorted_cons.2 ⟨hh.1, ih hh.2⟩
    · exact ih (smSorted_weaken hh.2 fun l hl => ⟨e.1, rfl, Nat.le_of_lt (hh.1 l hl)⟩)

/-! ## The operations on the state -/

@[simp] theorem State.mem_logWrite (s : State) (who : Option TaskId) (pa n : Nat) : (s.logWrite who pa n).mem = s.mem := by
  unfold State.logWrite
  cases who with
  | none => rfl
  | some w => simp only []; split <;> rfl

theorem Memory.wf_unelide {s : State} {pa : Nat} (h : Memory.wf s.mem = true) : Memory.wf (s.unelide pa).mem = true := by
  unfold State.unelide
  split
  · obtain ⟨hb, hc, hd, hq⟩ := Memory.wf_iff.1 h
    exact Memory.wf_iff.2 ⟨smWf_smClear hb, smWf_smClear hc, hd, hq⟩
  · exact h

@[simp] theorem State.mem_loseDuplicates (s : State) (pa : Nat) : (s.loseDuplicates pa).mem = s.mem := by
  unfold State.loseDuplicates
  split <;> rfl

/-- A fold keeps what each of its steps keeps. -/
theorem foldl_keeps {α β : Type} {P : α → Prop} {f : α → β → α} (l : List β) {a : α} (ha : P a)
    (hf : ∀ a b, P a → P (f a b)) : P (l.foldl f a) := by
  induction l generalizing a with
  | nil => exact ha
  | cons b t ih => exact ih (hf a b ha)

theorem Memory.wf_putPiece {s : State} {who : Option TaskId} {c p : Bool} {pa : Nat} {l : List Byte}
    (h : Memory.wf s.mem = true) : Memory.wf (s.putPiece who c p pa l).mem = true := by
  unfold State.putPiece
  extract_lets s1 put
  have hp : ∀ (m : Mem) (a : Nat), Memory.wf m = true → Memory.wf (put m a) = true := by
    intro m a hm
    have hi := Memory.wf_mergeInto (c := target a = .pool) (p := p) (pa := a) (n := l.length) hm
    simp only [put]
    split
    · split
      · exact Memory.wf_putLine hi
      · exact Memory.wf_writeBack (Memory.wf_putLine hi)
    · exact Memory.wf_putBlock hi
  have h1 : Memory.wf s1.mem = true := by simpa [s1] using Memory.wf_unelide h
  exact foldl_keeps (P := fun m => Memory.wf m = true) _ (hp _ _ h1) hp

theorem Memory.wf_writePhys {s : State} {who : Option TaskId} {pa : Nat} {l : List Byte} {p c : Bool}
    (h : Memory.wf s.mem = true) : Memory.wf (s.writePhys who pa l p c).mem = true :=
  foldl_keeps (P := fun s : State => Memory.wf s.mem = true) _ h fun _ _ hs => Memory.wf_putPiece hs

theorem Memory.wf_putRecord {s : State} {p : PartNum} {ix : BitVec 32} {r : List Byte} (h : Memory.wf s.mem = true) :
    Memory.wf (s.putRecord p ix r).mem = true := Memory.wf_writePhys h

theorem Memory.wf_enqueue {s : State} {p : PartNum} {r : List Byte} {t : BitVec 64} (h : Memory.wf s.mem = true) :
    Memory.wf (s.enqueue p r t).mem = true := by
  have hover : Memory.wf (if (s.part p).evqdrops = 0 then s
      else s.putRecord p (s.part p).evqtail (overflowRecord p (s.part p).evqdrops t)).mem = true := by
    split
    · exact h
    · exact Memory.wf_putRecord h
  unfold State.enqueue
  extract_lets q size used need
  split
  · exact h
  · exact Memory.wf_putRecord hover

@[simp] theorem State.mem_toGlidin (s : State) (r : List Byte) : (s.toGlidin r).mem = s.mem := rfl

theorem Memory.wf_errRecords {s : State} {ps : List PartNum} {r : ErrRec} (h : Memory.wf s.mem = true) :
    Memory.wf (s.errRecords ps r).mem = true :=
  foldl_keeps (P := fun s : State => Memory.wf s.mem = true) ps (by simpa using h) fun _ _ hs => Memory.wf_enqueue hs

theorem Memory.wf_errRecord {s : State} {p : Option PartNum} {r : ErrRec} (h : Memory.wf s.mem = true) :
    Memory.wf (s.errRecord p r).mem = true := Memory.wf_errRecords h

theorem Memory.wf_fixRecord {s : State} {p : Option PartNum} {r : ErrRec} (h : Memory.wf s.mem = true) :
    Memory.wf (s.fixRecord p r).mem = true := by
  unfold State.fixRecord
  split
  · exact Memory.wf_errRecord h
  · simp only []
    split
    · exact Memory.wf_errRecord h
    · exact h

theorem Memory.wf_power {s : State} {p : PartNum} {r : PowerRec} {b : Bool} (h : Memory.wf s.mem = true) :
    Memory.wf (s.power p r b).mem = true := by
  unfold State.power
  simp only []
  split
  · simpa using h
  · exact Memory.wf_enqueue (by simpa using h)

theorem Memory.wf_elidedRead {s : State} {pa : Nat} (h : Memory.wf s.mem = true) : Memory.wf (s.elidedRead pa).mem = true := by
  unfold State.elidedRead
  simp only []
  split
  · exact Memory.wf_errRecord h
  · exact h

theorem Memory.wf_checkBlock {s : State} {p : Option PartNum} {c : Bool} {pa : Nat} (h : Memory.wf s.mem = true) :
    Memory.wf (s.checkBlock p c pa).2.mem = true := by
  unfold State.checkBlock
  split
  · exact Memory.wf_elidedRead h
  · extract_lets blk found own rec_
    cases found with
    | clean => exact h
    | marked => exact h
    | corrected e => exact Memory.wf_fixRecord (Memory.wf_correct h)
    | misdirected => exact Memory.wf_errRecord h
    | uncorrectable => exact Memory.wf_errRecord h

theorem Memory.wf_readPhys {s : State} {p : Option PartNum} {pa n : Nat} {c : Bool} (h : Memory.wf s.mem = true) :
    Memory.wf (s.readPhys p pa n c).2.2.mem = true :=
  foldl_keeps (P := fun x : Bool × State => Memory.wf x.2.mem = true) (blocksOf pa n) (a := (false, s)) h
    fun _ _ hs => Memory.wf_checkBlock hs

@[simp] theorem State.mem_writeSpad (s : State) (c : CoreNum) (a : Nat) (l : List Byte) (p : Bool) :
    (s.writeSpad c a l p).mem = s.mem := rfl

theorem Memory.wf_readSpad {s : State} {c : CoreNum} {a n : Nat} (h : Memory.wf s.mem = true) :
    Memory.wf (s.readSpad c a n).2.2.mem = true :=
  foldl_keeps (P := fun s : State => Memory.wf s.mem = true) _ h fun _ _ hs => Memory.wf_errRecord hs

/-! ## Read after write -/

/-- Bytes written at the device read back. -/
theorem Mem.byte_putBlock_in {m : Mem} {pa i : Nat} {l : List Byte} {p : Bool} (h : Memory.wf m = true) (hi : i < l.length) :
    (m.putBlock pa l p).byte (pa + i) false = l[i] := smGet_writeBytes_in (Memory.wf_iff.1 h).1 hi

/-- A write at the device leaves every other byte. -/
theorem Mem.byte_putBlock_out {m : Mem} {pa a : Nat} {l : List Byte} {p : Bool} (h : a < pa ∨ pa + l.length ≤ a) :
    (m.putBlock pa l p).byte a false = m.byte a false := smGet_writeBytes_out h

/-- A block with poison written to it is marked (R191). -/
theorem Mem.marked_putBlock_poison {m : Mem} {pa : Nat} {l : List Byte} (h : Memory.wf m = true) :
    (m.putBlock pa l true).marked (blockOf pa) false = true := by
  have hc : smWf (0 : BitVec 64) m.check = true := (Memory.wf_iff.1 h).2.1
  simpa [Mem.marked, Mem.checkOf, Mem.putBlock, newCheck] using smGet_smSet_same hc

/-- A clean write of all 64 bytes clears a mark (R191). -/
theorem Mem.marked_putBlock_full {m : Mem} {pa : Nat} {l : List Byte} (h : Memory.wf m = true) (hl : l.length = 64) :
    (m.putBlock pa l false).marked (blockOf pa) false = false := by
  have hc : smWf (0 : BitVec 64) m.check = true := (Memory.wf_iff.1 h).2.1
  have he : smGet (0 : BitVec 64) (blockOf pa) (smSet 0 (blockOf pa) 0 m.check) = 0 := smGet_smSet_same hc
  have hn : newCheck (smGet 0 (blockOf pa) m.check) l.length false = 0 := by simp [newCheck, hl]
  show decide (smGet 0 (blockOf pa) (smSet 0 (blockOf pa) (newCheck (smGet 0 (blockOf pa) m.check) l.length false) m.check) =
    markPattern) = false
  rw [hn, he]
  decide

end Sys2Proof.Machine
end

