-- ==== Sys2Proof/Laws/Frames.lean ====
section
/-!
SUPPORT. What the operations on memory leave alone: reads, writes, records and translations change memory, the trunk die's
tables, event queues, launches' lookups, the undo log and the model's own counters, and nothing else of the module.
-/

namespace Sys2Proof.Machine

/-- `t` differs from `s` in memory and what goes with it alone: cores, groves, dies, tasks, phasers and the turn stand. -/
structure Untouched (s t : State) : Prop where
  cur : t.cur = s.cur
  agenda : t.agenda = s.agenda
  cores : t.cores = s.cores
  groves : t.groves = s.groves
  dies : t.dies = s.dies
  tasks : t.tasks = s.tasks
  checkpoints : t.checkpoints = s.checkpoints
  phasers : t.phasers = s.phasers
  gens : t.gens = s.gens
  seqno : t.seqno = s.seqno

theorem Untouched.refl (s : State) : Untouched s s := ⟨rfl, rfl, rfl, rfl, rfl, rfl, rfl, rfl, rfl, rfl⟩

theorem Untouched.trans {s t u : State} (h : Untouched s t) (k : Untouched t u) : Untouched s u :=
  ⟨k.cur.trans h.cur, k.agenda.trans h.agenda, k.cores.trans h.cores, k.groves.trans h.groves, k.dies.trans h.dies,
   k.tasks.trans h.tasks, k.checkpoints.trans h.checkpoints, k.phasers.trans h.phasers, k.gens.trans h.gens,
   k.seqno.trans h.seqno⟩

theorem Untouched.core {s t : State} (h : Untouched s t) (c : CoreNum) : t.core c = s.core c := by simp only [State.core, h.cores]
theorem Untouched.ctx {s t : State} (h : Untouched s t) : t.ctx = s.ctx := by simp only [State.ctx, h.core, h.cur]
theorem Untouched.thr {s t : State} (h : Untouched s t) : t.thr = s.thr := by simp only [State.thr, h.ctx]
theorem Untouched.grove {s t : State} (h : Untouched s t) (g : GroveNum) : t.grove g = s.grove g := by simp only [State.grove, h.groves]
theorem Untouched.die {s t : State} (h : Untouched s t) (d : BitVec 2) : t.die d = s.die d := by simp only [State.die, h.dies]

theorem Untouched.foldl {β : Type} {f : State → β → State} (l : List β) (s : State) (hf : ∀ a b, Untouched a (f a b)) :
    Untouched s (l.foldl f s) :=
  foldl_keeps (P := fun t => Untouched s t) l (Untouched.refl s) fun _ _ h => h.trans (hf _ _)

/-! ## Writes and records -/

theorem Untouched.onMem (s : State) (f : Mem → Mem) : Untouched s (s.onMem f) := ⟨rfl, rfl, rfl, rfl, rfl, rfl, rfl, rfl, rfl, rfl⟩
theorem Untouched.onTrunk (s : State) (f : Trunk → Trunk) : Untouched s (s.onTrunk f) := ⟨rfl, rfl, rfl, rfl, rfl, rfl, rfl, rfl, rfl, rfl⟩
theorem Untouched.onPart (s : State) (p : PartNum) (f : Part → Part) : Untouched s (s.onPart p f) :=
  ⟨rfl, rfl, rfl, rfl, rfl, rfl, rfl, rfl, rfl, rfl⟩
theorem Untouched.onLaunch (s : State) (p : PartNum) (l : BitVec 32) (f : Launch → Launch) : Untouched s (s.onLaunch p l f) :=
  ⟨rfl, rfl, rfl, rfl, rfl, rfl, rfl, rfl, rfl, rfl⟩
theorem Untouched.send (s : State) (m : OutMsg) : Untouched s (s.send m) := ⟨rfl, rfl, rfl, rfl, rfl, rfl, rfl, rfl, rfl, rfl⟩
theorem Untouched.fresh (s : State) : Untouched s s.fresh.2 := ⟨rfl, rfl, rfl, rfl, rfl, rfl, rfl, rfl, rfl, rfl⟩
theorem Untouched.stamp (s : State) : Untouched s s.stamp.2 := ⟨rfl, rfl, rfl, rfl, rfl, rfl, rfl, rfl, rfl, rfl⟩

theorem Untouched.unelide (s : State) (pa : Nat) : Untouched s (s.unelide pa) := by
  unfold State.unelide
  split
  · exact ⟨rfl, rfl, rfl, rfl, rfl, rfl, rfl, rfl, rfl, rfl⟩
  · exact Untouched.refl s
theorem Untouched.logWrite (s : State) (who : Option TaskId) (pa n : Nat) : Untouched s (s.logWrite who pa n) := by
  unfold State.logWrite
  cases who with
  | none => exact ⟨rfl, rfl, rfl, rfl, rfl, rfl, rfl, rfl, rfl, rfl⟩
  | some w =>
    simp only []
    split <;> exact ⟨rfl, rfl, rfl, rfl, rfl, rfl, rfl, rfl, rfl, rfl⟩
theorem Untouched.loseDuplicates (s : State) (pa : Nat) : Untouched s (s.loseDuplicates pa) := by
  unfold State.loseDuplicates
  split
  · exact Untouched.refl s
  · exact ⟨rfl, rfl, rfl, rfl, rfl, rfl, rfl, rfl, rfl, rfl⟩
theorem Untouched.putPiece (s : State) (who : Option TaskId) (c p : Bool) (pa : Nat) (l : List Byte) :
    Untouched s (s.putPiece who c p pa l) :=
  (((Untouched.unelide s pa).trans (Untouched.logWrite _ who pa l.length)).trans (Untouched.loseDuplicates _ pa)).trans
    (Untouched.onMem _ fun _ => _)
theorem Untouched.writePhys (s : State) (who : Option TaskId) (pa : Nat) (l : List Byte) (p c : Bool) :
    Untouched s (s.writePhys who pa l p c) := Untouched.foldl _ s fun _ _ => Untouched.putPiece ..
theorem Untouched.putRecord (s : State) (p : PartNum) (ix : BitVec 32) (r : List Byte) : Untouched s (s.putRecord p ix r) :=
  Untouched.writePhys ..
theorem Untouched.enqueue (s : State) (p : PartNum) (r : List Byte) (t : BitVec 64) : Untouched s (s.enqueue p r t) := by
  have hover : Untouched s (if (s.part p).evqdrops = 0 then s
      else s.putRecord p (s.part p).evqtail (overflowRecord p (s.part p).evqdrops t)) := by
    split
    · exact Untouched.refl s
    · exact Untouched.putRecord ..
  unfold State.enqueue
  extract_lets q size used need
  split
  · exact Untouched.onPart ..
  · exact (hover.trans (Untouched.putRecord ..)).trans (Untouched.onPart ..)
theorem Untouched.toGlidin (s : State) (r : List Byte) : Untouched s (s.toGlidin r) := ⟨rfl, rfl, rfl, rfl, rfl, rfl, rfl, rfl, rfl, rfl⟩
theorem Untouched.power (s : State) (p : PartNum) (r : PowerRec) (b : Bool) : Untouched s (s.power p r b) := by
  unfold State.power
  simp only []
  split
  · exact (Untouched.stamp s).trans (Untouched.toGlidin ..)
  · exact (Untouched.stamp s).trans (Untouched.enqueue ..)
theorem Untouched.errRecords (s : State) (ps : List PartNum) (r : ErrRec) : Untouched s (s.errRecords ps r) :=
  ((Untouched.stamp s).trans (Untouched.toGlidin ..)).trans (Untouched.foldl ps _ fun _ _ => Untouched.enqueue ..)
theorem Untouched.errRecord (s : State) (p : Option PartNum) (r : ErrRec) : Untouched s (s.errRecord p r) := Untouched.errRecords ..
theorem Untouched.setPart (s : State) (p : PartNum) (q : Part) : Untouched s (s.setPart p q) := ⟨rfl, rfl, rfl, rfl, rfl, rfl, rfl, rfl, rfl, rfl⟩
theorem Untouched.fixRecord (s : State) (p : Option PartNum) (r : ErrRec) : Untouched s (s.fixRecord p r) := by
  unfold State.fixRecord
  split
  · exact Untouched.errRecord ..
  · simp only []
    split
    · exact (Untouched.setPart ..).trans (Untouched.errRecord ..)
    · exact Untouched.setPart ..

/-! ## Reads -/

theorem Untouched.elidedRead (s : State) (pa : Nat) : Untouched s (s.elidedRead pa) := by
  unfold State.elidedRead
  simp only []
  split
  · exact (Untouched.onTrunk s _).trans (Untouched.errRecord ..)
  · exact Untouched.onTrunk s _
theorem Untouched.checkBlock (s : State) (p : Option PartNum) (c : Bool) (pa : Nat) : Untouched s (s.checkBlock p c pa).2 := by
  unfold State.checkBlock
  split
  · exact Untouched.elidedRead s pa
  · extract_lets blk found own rec_
    cases found with
    | clean => exact Untouched.refl s
    | marked => exact Untouched.refl s
    | corrected e => exact (Untouched.onMem s _).trans (Untouched.fixRecord ..)
    | misdirected => exact Untouched.errRecord ..
    | uncorrectable => exact Untouched.errRecord ..
theorem Untouched.readPhys (s : State) (p : Option PartNum) (pa n : Nat) (c : Bool) : Untouched s (s.readPhys p pa n c).2.2 :=
  foldl_keeps (P := fun x : Bool × State => Untouched s x.2) (blocksOf pa n) (a := (false, s)) (Untouched.refl s)
    fun x _ h => h.trans (Untouched.checkBlock x.2 p c _)
theorem Untouched.readSpad (s : State) (c : CoreNum) (a n : Nat) : Untouched s (s.readSpad c a n).2.2 :=
  Untouched.foldl _ s fun _ _ => Untouched.errRecord ..
theorem Untouched.remoteBytes (s : State) (n : Nat) : Untouched s (s.remoteBytes n).2.2 := ⟨rfl, rfl, rfl, rfl, rfl, rfl, rfl, rfl, rfl, rfl⟩
theorem Untouched.sendAll (s : State) (l : List Sent) : Untouched s (s.sendAll l) :=
  Untouched.foldl l s fun a b => by
    split
    · exact Untouched.send ..
    · exact Untouched.refl a

/-! ## Translation -/

theorem Untouched.walkFrom (s : State) (a : Agent) (k : Kind) (va : Nat) (l : List Nat) (base : Nat) :
    Untouched s (s.walkFrom a k va l base).2 := by
  induction l generalizing s base with
  | nil => exact Untouched.refl s
  | cons level more ih =>
    simp only [State.walkFrom]
    have hr := Untouched.readPhys s (some a.part) (base + 16 * vaIndex va level) 16 true
    split
    · exact hr
    · split
      · exact hr
      · split
        · exact hr
        · split
          · exact hr.trans (ih ..)
          · exact hr
theorem Untouched.walkTables (s : State) (a : Agent) (k : Kind) (va : BitVec 56) : Untouched s (s.walkTables a k va).2 := by
  unfold State.walkTables
  simp only []
  split
  · exact Untouched.refl s
  · split
    · exact Untouched.refl s
    · exact Untouched.walkFrom ..
theorem Untouched.tlbFill (s : State) (e : TlbEntry) : Untouched s (s.tlbFill e) := ⟨rfl, rfl, rfl, rfl, rfl, rfl, rfl, rfl, rfl, rfl⟩
theorem Untouched.walk (s : State) (a : Agent) (k : Kind) (va : BitVec 56) : Untouched s (s.walk a k va).2 := by
  have hw := Untouched.walkTables s a k va
  unfold State.walk
  simp only []
  split
  · exact hw
  · split <;> split <;> first
      | exact hw.trans (Untouched.tlbFill ..)
      | exact hw
      | exact (hw.trans (Untouched.tlbFill ..)).trans (Untouched.fresh _)
      | exact hw.trans (Untouched.fresh _)
theorem Untouched.xlate (s : State) (a : Agent) (k : Kind) (va : BitVec 64) : Untouched s (s.xlate a k va).2 := by
  unfold State.xlate
  split
  · exact Untouched.refl s
  · split
    · exact Untouched.refl s
    · exact Untouched.walk ..
theorem Untouched.xlateAll (s : State) (a : Agent) (k : Kind) (l : List (BitVec 64 × Nat)) : Untouched s (s.xlateAll a k l).2 := by
  induction l generalizing s with
  | nil => exact Untouched.refl s
  | cons x t ih =>
    have hx := Untouched.xlate s a k x.1
    simp only [State.xlateAll]
    split
    · rename_i h
      rw [h] at hx
      exact hx
    · rename_i s' h
      rw [h] at hx
      have ht := ih s'
      split
      · rename_i h'
        rw [h'] at ht
        exact hx.trans ht
      · rename_i h'
        rw [h'] at ht
        exact hx.trans ht
theorem Untouched.noteLookup (s : State) (a : Agent) (va : BitVec 64) : Untouched s (s.noteLookup a va) := by
  unfold State.noteLookup
  split
  · split
    · exact Untouched.onLaunch ..
    · exact Untouched.refl s
  · exact Untouched.refl s
theorem Untouched.xlateRange (s : State) (a : Agent) (k : Kind) (va : BitVec 64) (n : Nat) :
    Untouched s (s.xlateRange a k va n).2 := by
  have h := Untouched.xlateAll s a k (pieces (n + 1) va n)
  unfold State.xlateRange
  split
  · rename_i e
    rw [e] at h
    exact h.trans (Untouched.noteLookup ..)
  · exact h
theorem Untouched.xlateSpan (s : State) (a : Agent) (k : Kind) (va : BitVec 64) (n : Nat) :
    Untouched s (s.xlateSpan a k va n).2 := by
  have h := Untouched.xlateAll s a k (blockPieces (n + 1) va n)
  unfold State.xlateSpan
  simp only []
  split
  · rename_i e
    rw [e] at h
    exact h.trans (Untouched.foldl _ _ fun _ _ => Untouched.noteLookup ..)
  · exact h
theorem Untouched.refuses (s : State) (l : List (Xlat × Nat)) : Untouched s (s.refuses l).2 := by
  unfold State.refuses
  split
  · exact ⟨rfl, rfl, rfl, rfl, rfl, rfl, rfl, rfl, rfl, rfl⟩
  · exact Untouched.refl s

/-! ## Accesses of translated pieces -/

theorem Untouched.readPieces (s : State) (p : PartNum) (l : List (Xlat × Nat)) : Untouched s (s.readPieces p l).2.2 := by
  induction l generalizing s with
  | nil => exact Untouched.refl s
  | cons x t ih =>
    simp only [State.readPieces]
    split
    · exact ((Untouched.sendAll s _).trans (Untouched.remoteBytes _ x.2)).trans (ih _)
    · exact (Untouched.readPhys s (some p) x.1.pa x.2 x.1.cached).trans (ih _)
theorem Untouched.readMarked (s : State) (p : PartNum) (l : List (Xlat × Nat)) : Untouched s (s.readMarked p l).2 := by
  induction l generalizing s with
  | nil => exact Untouched.refl s
  | cons x t ih => exact (Untouched.readPieces s p [x]).trans (ih _)
theorem Untouched.writePieces (s : State) (who : Option TaskId) (b g : Bool) (l : List (Xlat × Nat)) (d : List Byte) :
    Untouched s (s.writePieces who b g l d) := by
  induction l generalizing s d with
  | nil => exact Untouched.refl s
  | cons x t ih =>
    simp only [State.writePieces]
    split
    · exact (Untouched.sendAll ..).trans (ih ..)
    · exact (Untouched.writePhys ..).trans (ih ..)
theorem Untouched.writeMarked (s : State) (who : Option TaskId) (l : List (Xlat × Nat)) (d : List (Byte × Bool)) :
    Untouched s (s.writeMarked who l d) := by
  induction l generalizing s d with
  | nil => exact Untouched.refl s
  | cons x t ih => exact (Untouched.writePieces ..).trans (ih ..)
theorem Untouched.readVirt (s : State) (a : Agent) (va : BitVec 64) (n : Nat) : Untouched s (s.readVirt a va n).2 := by
  have h := Untouched.xlateSpan s a .read va n
  unfold State.readVirt
  split
  · rename_i e
    rw [e] at h
    exact h
  · rename_i e
    rw [e] at h
    exact h.trans (Untouched.readPieces ..)

/-! ## The canonical form under translation and translated accesses -/

theorem Memory.wf_walkFrom {s : State} {a : Agent} {k : Kind} {va : Nat} {l : List Nat} {base : Nat}
    (h : Memory.wf s.mem = true) : Memory.wf (s.walkFrom a k va l base).2.mem = true := by
  induction l generalizing s base with
  | nil => exact h
  | cons level more ih =>
    simp only [State.walkFrom]
    have hr := Memory.wf_readPhys (p := some a.part) (pa := base + 16 * vaIndex va level) (n := 16) (c := true) h
    split
    · exact hr
    · split
      · exact hr
      · split
        · exact hr
        · split
          · exact ih hr
          · exact hr
theorem Memory.wf_walkTables {s : State} {a : Agent} {k : Kind} {va : BitVec 56} (h : Memory.wf s.mem = true) :
    Memory.wf (s.walkTables a k va).2.mem = true := by
  unfold State.walkTables
  simp only []
  split
  · exact h
  · split
    · exact h
    · exact Memory.wf_walkFrom h
@[simp] theorem State.mem_tlbFill (s : State) (e : TlbEntry) : (s.tlbFill e).mem = s.mem := rfl
@[simp] theorem State.mem_walk (s : State) (a : Agent) (k : Kind) (va : BitVec 56) :
    (s.walk a k va).2.mem = (s.walkTables a k va).2.mem := by
  unfold State.walk
  simp only []
  split
  · rfl
  · split <;> split <;> rfl
theorem Memory.wf_xlate {s : State} {a : Agent} {k : Kind} {va : BitVec 64} (h : Memory.wf s.mem = true) :
    Memory.wf (s.xlate a k va).2.mem = true := by
  unfold State.xlate
  split
  · exact h
  · split
    · exact h
    · simpa using Memory.wf_walkTables h
theorem Memory.wf_xlateAll {s : State} {a : Agent} {k : Kind} {l : List (BitVec 64 × Nat)} (h : Memory.wf s.mem = true) :
    Memory.wf (s.xlateAll a k l).2.mem = true := by
  induction l generalizing s with
  | nil => exact h
  | cons x t ih =>
    have hx := Memory.wf_xlate (a := a) (k := k) (va := x.1) h
    simp only [State.xlateAll]
    split
    · rename_i e
      rw [e] at hx
      exact hx
    · rename_i s' e
      rw [e] at hx
      have ht := ih hx
      split
      · rename_i e'
        rw [e'] at ht
        exact ht
      · rename_i e'
        rw [e'] at ht
        exact ht
@[simp] theorem State.mem_noteLookup (s : State) (a : Agent) (va : BitVec 64) : (s.noteLookup a va).mem = s.mem := by
  unfold State.noteLookup
  split
  · split <;> rfl
  · rfl
theorem Memory.wf_xlateRange {s : State} {a : Agent} {k : Kind} {va : BitVec 64} {n : Nat} (h : Memory.wf s.mem = true) :
    Memory.wf (s.xlateRange a k va n).2.mem = true := by
  have hx := Memory.wf_xlateAll (a := a) (k := k) (l := pieces (n + 1) va n) h
  unfold State.xlateRange
  split
  · rename_i e
    rw [e] at hx
    simpa using hx
  · exact hx
theorem Memory.wf_xlateSpan {s : State} {a : Agent} {k : Kind} {va : BitVec 64} {n : Nat} (h : Memory.wf s.mem = true) :
    Memory.wf (s.xlateSpan a k va n).2.mem = true := by
  have hx := Memory.wf_xlateAll (a := a) (k := k) (l := blockPieces (n + 1) va n) h
  unfold State.xlateSpan
  simp only []
  split
  · rename_i e
    rw [e] at hx
    exact foldl_keeps (P := fun s : State => Memory.wf s.mem = true) _ hx fun _ _ hs => by simpa using hs
  · exact hx
@[simp] theorem State.mem_sendAll (s : State) (l : List Sent) : (s.sendAll l).mem = s.mem :=
  foldl_keeps (P := fun t : State => t.mem = s.mem) l rfl fun a b h => by
    split
    · exact h
    · exact h
theorem Memory.wf_readPieces {s : State} {p : PartNum} {l : List (Xlat × Nat)} (h : Memory.wf s.mem = true) :
    Memory.wf (s.readPieces p l).2.2.mem = true := by
  induction l generalizing s with
  | nil => exact h
  | cons x t ih =>
    simp only [State.readPieces]
    split
    · exact ih (s := ((s.sendAll (readsOf [x])).remoteBytes x.2).2.2) (by simpa [State.remoteBytes] using h)
    · exact ih (Memory.wf_readPhys h)
theorem Memory.wf_readMarked {s : State} {p : PartNum} {l : List (Xlat × Nat)} (h : Memory.wf s.mem = true) :
    Memory.wf (s.readMarked p l).2.mem = true := by
  induction l generalizing s with
  | nil => exact h
  | cons x t ih =>
    have hx : Memory.wf (s.readPieces p [x]).2.2.mem = true := Memory.wf_readPieces h
    exact ih (s := (s.readPieces p [x]).2.2) hx
theorem Memory.wf_writePieces {s : State} {who : Option TaskId} {b g : Bool} {l : List (Xlat × Nat)} {d : List Byte}
    (h : Memory.wf s.mem = true) : Memory.wf (s.writePieces who b g l d).mem = true := by
  induction l generalizing s d with
  | nil => exact h
  | cons x t ih =>
    simp only [State.writePieces]
    split
    · exact ih (by simpa using h)
    · exact ih (Memory.wf_writePhys h)
theorem Memory.wf_writeMarked {s : State} {who : Option TaskId} {l : List (Xlat × Nat)} {d : List (Byte × Bool)}
    (h : Memory.wf s.mem = true) : Memory.wf (s.writeMarked who l d).mem = true := by
  induction l generalizing s d with
  | nil => exact h
  | cons x t ih => exact ih (Memory.wf_writePieces h)
theorem Memory.wf_readVirt {s : State} {a : Agent} {va : BitVec 64} {n : Nat} (h : Memory.wf s.mem = true) :
    Memory.wf (s.readVirt a va n).2.mem = true := by
  have hx := Memory.wf_xlateSpan (a := a) (k := .read) (va := va) (n := n) h
  unfold State.readVirt
  split
  · rename_i e
    rw [e] at hx
    exact hx
  · rename_i e
    rw [e] at hx
    exact Memory.wf_readPieces hx

end Sys2Proof.Machine
end

