-- ==== Sys2Proof/Laws/Ops.lean ====
section
/-!
SUPPORT. What the shared operations of execution can do, said once: how a slot's outcome leaves the machine, the checks of tags, the
results of slot A, the end of a slot, and the ways of a trap.
-/

namespace Sys2Proof.Machine

/-! ## Outcomes -/

@[simp] theorem SlotOut.out_done (s : State) : (SlotOut.done s).out = .next s.slotDone := rfl
@[simp] theorem SlotOut.out_trap (s : State) (c : BitVec 8) (d : BitVec 64) :
    (SlotOut.trap s c d).out = .next (s.trapAt s.thr.slotNow c d) := rfl
@[simp] theorem SlotOut.out_stall (s : State) (w : Wait) :
    (SlotOut.stall s w).out = .next (s.onCtx fun c => { c with wait := w }) := rfl
@[simp] theorem SlotOut.out_page (s : State) (va : BitVec 56) (k : Kind) (l : BitVec 2) :
    (SlotOut.page s va k l).out = .next (s.pageStop va k l) := rfl
/-- Every outcome of a slot is a next state. -/
theorem SlotOut.out_next (o : SlotOut) : ∃ t, o.out = .next t := ⟨o.fin, rfl⟩
/-- A form for tasks alone answers a next state. -/
theorem State.taskOnly_next (s : State) (o : SlotOut) : ∃ t, s.taskOnly o = .next t := SlotOut.out_next _
/-- Outside the handler such a form has its own effect. -/
theorem State.taskOnly_task {s : State} {o : SlotOut} (h : s.ctx.inHandler = false) : s.taskOnly o = o.out := by
  simp [State.taskOnly, State.taskForm, h]
/-- In the handler it traps: with the privilege cause, or with one that comes before it (R427, R430). -/
theorem State.taskOnly_handler {s : State} {o : SlotOut} (h : s.ctx.inHandler = true) :
    ∃ t c d, s.taskOnly o = (SlotOut.trap t c d).out ∧ (c = 2 ∨ beforePrivilege c = true) := by
  unfold State.taskOnly State.taskForm
  simp only [h, if_true]
  split
  · split
    · exact ⟨_, _, _, rfl, .inr ‹_›⟩
    · exact ⟨_, _, _, rfl, .inl rfl⟩
  · exact ⟨_, _, _, rfl, .inl rfl⟩

/-! ## Checks of tags -/

theorem firstTag_none {p : TVal → Bool} {l : List (Reg × TVal)} : firstTag p l = none ↔ ∀ x ∈ l, p x.2 = false := by
  induction l with
  | nil => simp [firstTag]
  | cons e t ih => simp only [firstTag]; split <;> simp_all
theorem firstTag_some {p : TVal → Bool} {l : List (Reg × TVal)} {r : Reg} (h : firstTag p l = some r) :
    ∃ v, (r, v) ∈ l ∧ p v = true := by
  induction l with
  | nil => simp [firstTag] at h
  | cons e t ih =>
    simp only [firstTag] at h
    split at h
    · simp only [Option.some.injEq] at h
      exact ⟨e.2, by simp [← h], by assumption⟩
    · obtain ⟨v, hv, hp⟩ := ih h
      exact ⟨v, List.mem_cons_of_mem _ hv, hp⟩
theorem TVal.deferred_eq (v : TVal) : v.deferred = decide (v.tag = 1) := rfl
/-- Sources none of which is deferred let a form go on (R49). -/
theorem State.needs_go {s : State} {l : List (Reg × TVal)} {k : SlotOut} (h : ∀ x ∈ l, x.2.tag ≠ 1) : s.needs l k = k := by
  have : firstTag TVal.deferred l = none := firstTag_none.2 fun x hx => decide_eq_false (h x hx)
  simp [State.needs, this]
/-- A deferred source stops it (R49). -/
theorem State.needs_stop {s : State} {l : List (Reg × TVal)} {k : SlotOut} {r : Reg}
    (h : firstTag TVal.deferred l = some r) : s.needs l k = .trap s 0x03 (specDetail r) := by simp [State.needs, h]
/-- Clean sources let a form go on that takes no poison either. -/
theorem State.needsClean_go {s : State} {c : BitVec 8} {l : List (Reg × TVal)} {k : SlotOut} (h : ∀ x ∈ l, x.2.tag = 0) :
    s.needsClean c l k = k := by
  have : firstTag TVal.poison l = none := firstTag_none.2 fun x hx => by simp [TVal.poison, h x hx]
  unfold State.needsClean
  rw [State.needs_go fun x hx => by rw [h x hx]; decide, this]
/-- Vector sources without an active deferred lane let a form go on. -/
theorem State.needsV_go {s : State} {m : BitVec 64} {l : List (Reg × VReg)} {k : SlotOut}
    (h : ∀ x ∈ l, x.2.deferredLane m = none) : s.needsV m l k = k := by
  have : (l.findSome? fun p => (p.2.deferredLane m).map fun n => (p.1, n)) = none := by
    rw [List.findSome?_eq_none_iff]
    intro x hx
    simp [h x hx]
  simp [State.needsV, this]

/-! ## Results -/

/-- What a committed result of slot A leaves: a landing result and the end of the slot. -/
theorem State.putA_out (s : State) (lat : Nat) (d : Reg) (v : TVal) (fl : BitVec 7) :
    (s.putA lat d v fl).out = .next (s.land lat (destA d) (.scalar v) fl).slotDone := rfl
theorem State.putB_out (s : State) (lat : Nat) (d : Reg) (v : TVal) :
    (s.putB lat d v).out = .next (s.land lat (destB d) (.scalar v)).slotDone := rfl
theorem State.putD_out (s : State) (lat : Nat) (d : Reg) (v : TVal) :
    (s.putD lat d v).out = .next (s.land lat (destD d) (.scalar v)).slotDone := rfl
theorem State.putC_out (s : State) (lat : Nat) (d : Reg) (v : VReg) (m : BitVec 64) (fl : BitVec 7) :
    (s.putC lat d v m fl).out = .next (s.land lat (destC d) (.vec v m) fl).slotDone := rfl
/-- An integer form of one source that is not deferred. -/
theorem State.intA1_out {s : State} {lat : Nat} {d a : Reg} {f : BitVec 64 → BitVec 64} (h : (s.thr.readA a).tag ≠ 1) :
    (s.intA1 lat d a f).out = .next (s.land lat (destA d)
      (.scalar (if (s.thr.readA a).poison then .bad else .clean (f (s.thr.readA a).val)))).slotDone := by
  unfold State.intA1
  rw [State.needs_go (by simpa using h)]
  rfl
/-- An integer form of two sources neither of which is deferred. -/
theorem State.intA2_out {s : State} {lat : Nat} {d a b : Reg} {f : BitVec 64 → BitVec 64 → BitVec 64}
    (ha : (s.thr.readA a).tag ≠ 1) (hb : (s.thr.readA b).tag ≠ 1) :
    (s.intA2 lat d a b f).out = .next (s.land lat (destA d)
      (.scalar (if (s.thr.readA a).poison || (s.thr.readA b).poison then .bad
        else .clean (f (s.thr.readA a).val (s.thr.readA b).val)))).slotDone := by
  unfold State.intA2
  rw [State.needs_go (by simp; exact ⟨ha, hb⟩)]
  rfl
/-- An integer form that reads its destination too. -/
theorem State.intA3_out {s : State} {lat : Nat} {d a b : Reg} {f : BitVec 64 → BitVec 64 → BitVec 64 → BitVec 64}
    (ha : (s.thr.readA a).tag ≠ 1) (hb : (s.thr.readA b).tag ≠ 1) (hd : (s.thr.readA d).tag ≠ 1) :
    (s.intA3 lat d a b f).out = .next (s.land lat (destA d)
      (.scalar (if (s.thr.readA a).poison || (s.thr.readA b).poison || (s.thr.readA d).poison then .bad
        else .clean (f (s.thr.readA a).val (s.thr.readA b).val (s.thr.readA d).val)))).slotDone := by
  unfold State.intA3
  rw [State.needs_go (by simp; exact ⟨ha, hb, hd⟩)]
  rfl
/-- A floating-point form of two sources neither of which is deferred. -/
theorem State.fpA2_out {s : State} {f : FFmt} {d a b : Reg} {op : FVal → FVal → FRes}
    (ha : (s.thr.readA a).tag ≠ 1) (hb : (s.thr.readA b).tag ≠ 1) :
    (s.fpA2 f d a b op).out =
      (let r := f.result ((f.source (s.thr.readA a)).isPoison || (f.source (s.thr.readA b)).isPoison)
        (op (f.source (s.thr.readA a)) (f.source (s.thr.readA b)))
      .next (s.land f.latency (destA d) (.scalar r.1) r.2).slotDone) := by
  unfold State.fpA2
  simp only []
  rw [State.needs_go (by simp; exact ⟨ha, hb⟩)]
  rfl

/-! ## The landing buffer -/

/-- A new result stands last in the landing buffer, and the program's other registers stand. -/
theorem State.landing_land (s : State) (n : Nat) (d : LDest) (v : LVal) (fl : BitVec 7) (m : Bool) :
    (s.land n d v fl m).thr.landing = s.thr.landing ++ [⟨n, d, v, fl, m⟩] := by
  simp [State.land, Thread.land]
theorem State.issue_land (s : State) (n : Nat) (d : LDest) (v : LVal) (fl : BitVec 7) (m : Bool) :
    (s.land n d v fl m).thr.issue = s.thr.issue := by simp [State.land, Thread.land]
/-- A result whose bundle has come is shown by its destination. -/
theorem Thread.a_reveal (t : Thread) (r : Fin 16) (v : TVal) : (t.reveal (.a r) (.scalar v)).a[r] = v := by
  simp [Thread.reveal]
theorem Thread.b_reveal (t : Thread) (r : Fin 16) (v : TVal) : (t.reveal (.b r) (.scalar v)).b[r] = v := by
  simp [Thread.reveal]
theorem Thread.m_reveal (t : Thread) (r : Fin 64) (v : TVal) : (t.reveal (.m r) (.scalar v)).m[r] = v := by
  simp [Thread.reveal]

/-! ## The end of a slot -/

/-- Outside a bundle nothing ends. -/
theorem State.slotDone_idle {s : State} (h : s.thr.issue = none) : s.slotDone = s := by
  unfold State.slotDone
  simp only [State.thr] at h
  simp [h]
/-- A slot before D hands on to the next one. -/
theorem State.slotDone_next {s : State} {i : Issue} (h : s.thr.issue = some i) (hi : i.slot ≠ 3) :
    s.slotDone = s.onCtx fun c =>
      { (c.setThr { c.thr with issue := some { i with slot := i.slot + 1 } }) with wait := .none } := by
  unfold State.slotDone
  simp only [State.thr] at h
  simp only [h, if_pos hi, State.onCtx]
/-- Slot D of a task's bundle ends the bundle. -/
theorem State.slotDone_bundle {s : State} {i : Issue} (h : s.thr.issue = some i) (hi : i.slot = 3)
    (ht : s.ctx.inHandler = false) :
    s.slotDone = ((s.setCtx (s.ctx.completeBundle i)).expireLease s.cur).reap s.cur := by
  unfold State.slotDone
  simp only [State.thr] at h
  simp [h, hi, ht]

/-! ## Traps -/

/-- A trap of a context that was not killed is taken (R429). -/
theorem State.trapAt_live {s : State} {sl : BitVec 2} {c : BitVec 8} {d : BitVec 64} (h : s.dying s.cur = false) :
    s.trapAt sl c d = s.takeTrap sl c d := by simp [State.trapAt, h]
/-- A trap of the handler loses the task, with both causes (R430). -/
theorem State.takeTrap_handler {s : State} {sl : BitVec 2} {c : BitVec 8} {d : BitVec 64} (h : s.ctx.inHandler = true) :
    s.takeTrap sl c d = s.loseTask s.cur 2 (s.ctx.csr.cause.toNat * 256 + c.toNat) := by
  simp [State.takeTrap, h]
/-- A trap that is delivered starts the handler (R429). -/
theorem State.takeTrap_task {s : State} {sl : BitVec 2} {c : BitVec 8} {d : BitVec 64} (h : s.ctx.inHandler = false)
    (hb : s.ctx.boot = false) (hc : c ≠ 0x15) (hv : (s.part s.ctx.part).trapvec.getLsbD 63 = true) :
    s.takeTrap sl c d = s.setCtx { s.ctx with
      csr := { s.ctx.csr with cause := c, sres := sl, tpc := s.ctx.task.pc, tdet := d, fresh := 0 }
      task := { s.ctx.task with issue := none, resume := sl }, wait := .none, pendTrap := none, inHandler := true
      hand := { Thread.zero with pc := (s.part s.ctx.part).trapvec.extractLsb' 0 52 } } := by
  have hp : ∀ x, (s.setCtx x).part s.ctx.part = s.part s.ctx.part := fun x => by simp
  unfold State.takeTrap
  simp only [h, hb, if_neg hc, hp, hv, State.onCtx, State.ctx_setCtx, State.setCtx_setCtx, Bool.false_eq_true, if_false,
    Bool.not_true]

/-! ## Ordering points -/

/-- An ordering point goes on where nothing holds it (R229, R230, R289). -/
theorem State.orderWait_none {s : State} (h : s.ctx.owedTrap = none) (hl : s.ctx.lost = []) (ha : s.ctx.acks = [])
    (hw : s.ctx.winHeld = false) (ht : s.ctx.task.board = []) (hb : s.ctx.hand.board = []) : s.orderWait = none := by
  unfold State.orderWait
  simp [h, hl, ha, hw, ht, hb]

end Sys2Proof.Machine
end

