-- ==== Sys2Proof/Laws/PerInstr.lean ====
section
/-!
SUPPORT. What is said of every instruction as syntax, constructor by constructor: no slot instruction's word is a header (R29), so a slot A
word stands for an instruction or for a header, never for both; a step of another agent has no word.
-/

namespace Sys2Proof.Laws

/-- A word with a zero among its six highest bits is no header. -/
theorem not_header {w : BitVec 32} (k : Nat) (hk : k < 6) (h : w.getLsbD (26 + k) = false) : isHeader w = false := by
  refine decide_eq_false fun e => ?_
  have := congrArg (fun x : BitVec 6 => x.getLsbD k) e
  simp only [bits] at this
  simp only [BitVec.getLsbD_extractLsb', hk, decide_true, Bool.true_and, h] at this
  revert this
  interval_cases k <;> decide

/-- A bit of the high part of an appended word. -/
theorem high_bit {n m : Nat} {x : BitVec n} {y : BitVec m} (i : Nat) (h : x.getLsbD i = false) :
    (x ++ y).getLsbD (m + i) = false := by simp [BitVec.getLsbD_append, h]

namespace NotHeader

/-- The instruction's word, if it has one, is no header. -/
def Statement (i : Instr) : Prop := ∀ s w, encode i = some (s, w) → isHeader w = false

/-- From the word that an instruction encodes to. -/
theorem of_word {i : Instr} {s : Slot} {w : BitVec 32} (h : encode i = some (s, w)) (hw : isHeader w = false) : Statement i := by
  intro s' w' h'
  rw [h] at h'
  cases h'
  exact hw
/-- An instruction without a word. -/
theorem of_none {i : Instr} (h : encode i = none) : Statement i := by
  intro s w h'
  rw [h] at h'
  cases h'

theorem add (d : Reg) (a : Reg) (b : Reg) : Statement (.add d a b) := of_word rfl (not_header 5 (by decide) (high_bit 20 (high_bit 15 (high_bit 10 (high_bit 5 rfl)))))
theorem sub (d : Reg) (a : Reg) (b : Reg) : Statement (.sub d a b) := of_word rfl (not_header 5 (by decide) (high_bit 20 (high_bit 15 (high_bit 10 (high_bit 5 rfl)))))
theorem and (d : Reg) (a : Reg) (b : Reg) : Statement (.and d a b) := of_word rfl (not_header 5 (by decide) (high_bit 20 (high_bit 15 (high_bit 10 (high_bit 5 rfl)))))
theorem or (d : Reg) (a : Reg) (b : Reg) : Statement (.or d a b) := of_word rfl (not_header 5 (by decide) (high_bit 20 (high_bit 15 (high_bit 10 (high_bit 5 rfl)))))
theorem xor (d : Reg) (a : Reg) (b : Reg) : Statement (.xor d a b) := of_word rfl (not_header 5 (by decide) (high_bit 20 (high_bit 15 (high_bit 10 (high_bit 5 rfl)))))
theorem andn (d : Reg) (a : Reg) (b : Reg) : Statement (.andn d a b) := of_word rfl (not_header 5 (by decide) (high_bit 20 (high_bit 15 (high_bit 10 (high_bit 5 rfl)))))
theorem shl (d : Reg) (a : Reg) (b : Reg) : Statement (.shl d a b) := of_word rfl (not_header 5 (by decide) (high_bit 20 (high_bit 15 (high_bit 10 (high_bit 5 rfl)))))
theorem shr (d : Reg) (a : Reg) (b : Reg) : Statement (.shr d a b) := of_word rfl (not_header 5 (by decide) (high_bit 20 (high_bit 15 (high_bit 10 (high_bit 5 rfl)))))
theorem sra (d : Reg) (a : Reg) (b : Reg) : Statement (.sra d a b) := of_word rfl (not_header 5 (by decide) (high_bit 20 (high_bit 15 (high_bit 10 (high_bit 5 rfl)))))
theorem rotr (d : Reg) (a : Reg) (b : Reg) : Statement (.rotr d a b) := of_word rfl (not_header 5 (by decide) (high_bit 20 (high_bit 15 (high_bit 10 (high_bit 5 rfl)))))
theorem min (d : Reg) (a : Reg) (b : Reg) : Statement (.min d a b) := of_word rfl (not_header 5 (by decide) (high_bit 20 (high_bit 15 (high_bit 10 (high_bit 5 rfl)))))
theorem max (d : Reg) (a : Reg) (b : Reg) : Statement (.max d a b) := of_word rfl (not_header 5 (by decide) (high_bit 20 (high_bit 15 (high_bit 10 (high_bit 5 rfl)))))
theorem minu (d : Reg) (a : Reg) (b : Reg) : Statement (.minu d a b) := of_word rfl (not_header 5 (by decide) (high_bit 20 (high_bit 15 (high_bit 10 (high_bit 5 rfl)))))
theorem maxu (d : Reg) (a : Reg) (b : Reg) : Statement (.maxu d a b) := of_word rfl (not_header 5 (by decide) (high_bit 20 (high_bit 15 (high_bit 10 (high_bit 5 rfl)))))
theorem mul (d : Reg) (a : Reg) (b : Reg) : Statement (.mul d a b) := of_word rfl (not_header 5 (by decide) (high_bit 20 (high_bit 15 (high_bit 10 (high_bit 5 rfl)))))
theorem mulh (d : Reg) (a : Reg) (b : Reg) : Statement (.mulh d a b) := of_word rfl (not_header 5 (by decide) (high_bit 20 (high_bit 15 (high_bit 10 (high_bit 5 rfl)))))
theorem mulhu (d : Reg) (a : Reg) (b : Reg) : Statement (.mulhu d a b) := of_word rfl (not_header 5 (by decide) (high_bit 20 (high_bit 15 (high_bit 10 (high_bit 5 rfl)))))
theorem ext (d : Reg) (a : Reg) (b : Reg) : Statement (.ext d a b) := of_word rfl (not_header 5 (by decide) (high_bit 20 (high_bit 15 (high_bit 10 (high_bit 5 rfl)))))
theorem extu (d : Reg) (a : Reg) (b : Reg) : Statement (.extu d a b) := of_word rfl (not_header 5 (by decide) (high_bit 20 (high_bit 15 (high_bit 10 (high_bit 5 rfl)))))
theorem ins (d : Reg) (a : Reg) (b : Reg) : Statement (.ins d a b) := of_word rfl (not_header 5 (by decide) (high_bit 20 (high_bit 15 (high_bit 10 (high_bit 5 rfl)))))
theorem clz (d : Reg) (a : Reg) : Statement (.clz d a) := of_word rfl (not_header 5 (by decide) (high_bit 15 (high_bit 10 (high_bit 5 rfl))))
theorem ctz (d : Reg) (a : Reg) : Statement (.ctz d a) := of_word rfl (not_header 5 (by decide) (high_bit 15 (high_bit 10 (high_bit 5 rfl))))
theorem popc (d : Reg) (a : Reg) : Statement (.popc d a) := of_word rfl (not_header 5 (by decide) (high_bit 15 (high_bit 10 (high_bit 5 rfl))))
theorem brev (d : Reg) (a : Reg) : Statement (.brev d a) := of_word rfl (not_header 5 (by decide) (high_bit 15 (high_bit 10 (high_bit 5 rfl))))
theorem exti (d : Reg) (s : Reg) (w : BitVec 6) (p : BitVec 6) : Statement (.exti d s w p) := of_word rfl (not_header 5 (by decide) (high_bit 25 (high_bit 19 (high_bit 15 (high_bit 10 (high_bit 5 rfl))))))
theorem extui (d : Reg) (s : Reg) (w : BitVec 6) (p : BitVec 6) : Statement (.extui d s w p) := of_word rfl (not_header 5 (by decide) (high_bit 25 (high_bit 19 (high_bit 15 (high_bit 10 (high_bit 5 rfl))))))
theorem insi (d : Reg) (s : Reg) (w : BitVec 6) (p : BitVec 6) : Statement (.insi d s w p) := of_word rfl (not_header 5 (by decide) (high_bit 25 (high_bit 19 (high_bit 15 (high_bit 10 (high_bit 5 rfl))))))
theorem cmpeq (d : Reg) (a : Reg) (b : Reg) : Statement (.cmpeq d a b) := of_word rfl (not_header 5 (by decide) (high_bit 20 (high_bit 15 (high_bit 10 (high_bit 5 rfl)))))
theorem cmpne (d : Reg) (a : Reg) (b : Reg) : Statement (.cmpne d a b) := of_word rfl (not_header 5 (by decide) (high_bit 20 (high_bit 15 (high_bit 10 (high_bit 5 rfl)))))
theorem cmplt (d : Reg) (a : Reg) (b : Reg) : Statement (.cmplt d a b) := of_word rfl (not_header 5 (by decide) (high_bit 20 (high_bit 15 (high_bit 10 (high_bit 5 rfl)))))
theorem cmple (d : Reg) (a : Reg) (b : Reg) : Statement (.cmple d a b) := of_word rfl (not_header 5 (by decide) (high_bit 20 (high_bit 15 (high_bit 10 (high_bit 5 rfl)))))
theorem cmpltu (d : Reg) (a : Reg) (b : Reg) : Statement (.cmpltu d a b) := of_word rfl (not_header 5 (by decide) (high_bit 20 (high_bit 15 (high_bit 10 (high_bit 5 rfl)))))
theorem cmpleu (d : Reg) (a : Reg) (b : Reg) : Statement (.cmpleu d a b) := of_word rfl (not_header 5 (by decide) (high_bit 20 (high_bit 15 (high_bit 10 (high_bit 5 rfl)))))
theorem sel (d : Reg) (a : Reg) (b : Reg) : Statement (.sel d a b) := of_word rfl (not_header 5 (by decide) (high_bit 20 (high_bit 15 (high_bit 10 (high_bit 5 rfl)))))
theorem addi (d : Reg) (s : Reg) (i : BitVec 16) : Statement (.addi d s i) := of_word rfl (not_header 5 (by decide) (high_bit 15 (high_bit 10 (high_bit 5 rfl))))
theorem andi (d : Reg) (s : Reg) (i : BitVec 16) : Statement (.andi d s i) := of_word rfl (not_header 5 (by decide) (high_bit 15 (high_bit 10 (high_bit 5 rfl))))
theorem ori (d : Reg) (s : Reg) (i : BitVec 16) : Statement (.ori d s i) := of_word rfl (not_header 5 (by decide) (high_bit 15 (high_bit 10 (high_bit 5 rfl))))
theorem xori (d : Reg) (s : Reg) (i : BitVec 16) : Statement (.xori d s i) := of_word rfl (not_header 5 (by decide) (high_bit 15 (high_bit 10 (high_bit 5 rfl))))
theorem shli (d : Reg) (s : Reg) (n : BitVec 6) : Statement (.shli d s n) := of_word rfl (not_header 5 (by decide) (high_bit 25 (high_bit 15 (high_bit 10 (high_bit 5 rfl)))))
theorem shri (d : Reg) (s : Reg) (n : BitVec 6) : Statement (.shri d s n) := of_word rfl (not_header 5 (by decide) (high_bit 25 (high_bit 15 (high_bit 10 (high_bit 5 rfl)))))
theorem srai (d : Reg) (s : Reg) (n : BitVec 6) : Statement (.srai d s n) := of_word rfl (not_header 5 (by decide) (high_bit 25 (high_bit 15 (high_bit 10 (high_bit 5 rfl)))))
theorem rotri (d : Reg) (s : Reg) (n : BitVec 6) : Statement (.rotri d s n) := of_word rfl (not_header 5 (by decide) (high_bit 25 (high_bit 15 (high_bit 10 (high_bit 5 rfl)))))
theorem li (d : Reg) (i : BitVec 16) : Statement (.li d i) := of_word rfl (not_header 5 (by decide) (high_bit 15 (high_bit 10 (high_bit 5 rfl))))
theorem liu (d : Reg) (s : Reg) (i : BitVec 16) : Statement (.liu d s i) := of_word rfl (not_header 5 (by decide) (high_bit 15 (high_bit 10 (high_bit 5 rfl))))
theorem tagp (d : Reg) (a : Reg) : Statement (.tagp d a) := of_word rfl (not_header 5 (by decide) (high_bit 15 (high_bit 10 (high_bit 5 rfl))))
theorem tagc (d : Reg) (a : Reg) : Statement (.tagc d a) := of_word rfl (not_header 5 (by decide) (high_bit 15 (high_bit 10 (high_bit 5 rfl))))
theorem faddS (d : Reg) (a : Reg) (b : Reg) (r : BitVec 2) : Statement (.faddS d a b r) := of_word rfl (not_header 5 (by decide) (high_bit 27 (high_bit 25 (high_bit 20 (high_bit 15 (high_bit 10 (high_bit 5 rfl)))))))
theorem fsubS (d : Reg) (a : Reg) (b : Reg) (r : BitVec 2) : Statement (.fsubS d a b r) := of_word rfl (not_header 5 (by decide) (high_bit 27 (high_bit 25 (high_bit 20 (high_bit 15 (high_bit 10 (high_bit 5 rfl)))))))
theorem fmulS (d : Reg) (a : Reg) (b : Reg) (r : BitVec 2) : Statement (.fmulS d a b r) := of_word rfl (not_header 5 (by decide) (high_bit 27 (high_bit 25 (high_bit 20 (high_bit 15 (high_bit 10 (high_bit 5 rfl)))))))
theorem fmaS (d : Reg) (a : Reg) (b : Reg) (r : BitVec 2) : Statement (.fmaS d a b r) := of_word rfl (not_header 5 (by decide) (high_bit 27 (high_bit 25 (high_bit 20 (high_bit 15 (high_bit 10 (high_bit 5 rfl)))))))
theorem fminS (d : Reg) (a : Reg) (b : Reg) : Statement (.fminS d a b) := of_word rfl (not_header 5 (by decide) (high_bit 20 (high_bit 15 (high_bit 10 (high_bit 5 rfl)))))
theorem fmaxS (d : Reg) (a : Reg) (b : Reg) : Statement (.fmaxS d a b) := of_word rfl (not_header 5 (by decide) (high_bit 20 (high_bit 15 (high_bit 10 (high_bit 5 rfl)))))
theorem fabsS (d : Reg) (a : Reg) : Statement (.fabsS d a) := of_word rfl (not_header 5 (by decide) (high_bit 15 (high_bit 10 (high_bit 5 rfl))))
theorem fnegS (d : Reg) (a : Reg) : Statement (.fnegS d a) := of_word rfl (not_header 5 (by decide) (high_bit 15 (high_bit 10 (high_bit 5 rfl))))
theorem fcmpeqS (d : Reg) (a : Reg) (b : Reg) : Statement (.fcmpeqS d a b) := of_word rfl (not_header 5 (by decide) (high_bit 20 (high_bit 15 (high_bit 10 (high_bit 5 rfl)))))
theorem fcmpltS (d : Reg) (a : Reg) (b : Reg) : Statement (.fcmpltS d a b) := of_word rfl (not_header 5 (by decide) (high_bit 20 (high_bit 15 (high_bit 10 (high_bit 5 rfl)))))
theorem fcmpleS (d : Reg) (a : Reg) (b : Reg) : Statement (.fcmpleS d a b) := of_word rfl (not_header 5 (by decide) (high_bit 20 (high_bit 15 (high_bit 10 (high_bit 5 rfl)))))
theorem fcmpunS (d : Reg) (a : Reg) (b : Reg) : Statement (.fcmpunS d a b) := of_word rfl (not_header 5 (by decide) (high_bit 20 (high_bit 15 (high_bit 10 (high_bit 5 rfl)))))
theorem faddD (d : Reg) (a : Reg) (b : Reg) (r : BitVec 2) : Statement (.faddD d a b r) := of_word rfl (not_header 5 (by decide) (high_bit 27 (high_bit 25 (high_bit 20 (high_bit 15 (high_bit 10 (high_bit 5 rfl)))))))
theorem fsubD (d : Reg) (a : Reg) (b : Reg) (r : BitVec 2) : Statement (.fsubD d a b r) := of_word rfl (not_header 5 (by decide) (high_bit 27 (high_bit 25 (high_bit 20 (high_bit 15 (high_bit 10 (high_bit 5 rfl)))))))
theorem fmulD (d : Reg) (a : Reg) (b : Reg) (r : BitVec 2) : Statement (.fmulD d a b r) := of_word rfl (not_header 5 (by decide) (high_bit 27 (high_bit 25 (high_bit 20 (high_bit 15 (high_bit 10 (high_bit 5 rfl)))))))
theorem fmaD (d : Reg) (a : Reg) (b : Reg) (r : BitVec 2) : Statement (.fmaD d a b r) := of_word rfl (not_header 5 (by decide) (high_bit 27 (high_bit 25 (high_bit 20 (high_bit 15 (high_bit 10 (high_bit 5 rfl)))))))
theorem fminD (d : Reg) (a : Reg) (b : Reg) : Statement (.fminD d a b) := of_word rfl (not_header 5 (by decide) (high_bit 20 (high_bit 15 (high_bit 10 (high_bit 5 rfl)))))
theorem fmaxD (d : Reg) (a : Reg) (b : Reg) : Statement (.fmaxD d a b) := of_word rfl (not_header 5 (by decide) (high_bit 20 (high_bit 15 (high_bit 10 (high_bit 5 rfl)))))
theorem fabsD (d : Reg) (a : Reg) : Statement (.fabsD d a) := of_word rfl (not_header 5 (by decide) (high_bit 15 (high_bit 10 (high_bit 5 rfl))))
theorem fnegD (d : Reg) (a : Reg) : Statement (.fnegD d a) := of_word rfl (not_header 5 (by decide) (high_bit 15 (high_bit 10 (high_bit 5 rfl))))
theorem fcmpeqD (d : Reg) (a : Reg) (b : Reg) : Statement (.fcmpeqD d a b) := of_word rfl (not_header 5 (by decide) (high_bit 20 (high_bit 15 (high_bit 10 (high_bit 5 rfl)))))
theorem fcmpltD (d : Reg) (a : Reg) (b : Reg) : Statement (.fcmpltD d a b) := of_word rfl (not_header 5 (by decide) (high_bit 20 (high_bit 15 (high_bit 10 (high_bit 5 rfl)))))
theorem fcmpleD (d : Reg) (a : Reg) (b : Reg) : Statement (.fcmpleD d a b) := of_word rfl (not_header 5 (by decide) (high_bit 20 (high_bit 15 (high_bit 10 (high_bit 5 rfl)))))
theorem fcmpunD (d : Reg) (a : Reg) (b : Reg) : Statement (.fcmpunD d a b) := of_word rfl (not_header 5 (by decide) (high_bit 20 (high_bit 15 (high_bit 10 (high_bit 5 rfl)))))
theorem fcvt (d : Reg) (a : Reg) (r : BitVec 2) (t : BitVec 4) (s : BitVec 4) : Statement (.fcvt d a r t s) := of_word rfl (not_header 5 (by decide) (high_bit 27 (high_bit 23 (high_bit 21 (high_bit 15 (high_bit 10 (high_bit 5 rfl)))))))
theorem br (o : BitVec 21) : Statement (.br o) := of_word rfl (not_header 4 (by decide) (high_bit 9 rfl))
theorem brz (t : Reg) (o : BitVec 21) : Statement (.brz t o) := of_word rfl (not_header 4 (by decide) (high_bit 9 (high_bit 4 rfl)))
theorem brnz (t : Reg) (o : BitVec 21) : Statement (.brnz t o) := of_word rfl (not_header 4 (by decide) (high_bit 9 (high_bit 4 rfl)))
theorem call (t : Reg) (o : BitVec 21) : Statement (.call t o) := of_word rfl (not_header 4 (by decide) (high_bit 9 (high_bit 4 rfl)))
theorem chk (t : Reg) (o : BitVec 21) : Statement (.chk t o) := of_word rfl (not_header 4 (by decide) (high_bit 9 (high_bit 4 rfl)))
theorem jr (a : Reg) : Statement (.jr a) := of_word rfl (not_header 4 (by decide) (high_bit 14 (high_bit 9 rfl)))
theorem ret (a : Reg) : Statement (.ret a) := of_word rfl (not_header 4 (by decide) (high_bit 14 (high_bit 9 rfl)))
theorem callr (d : Reg) (a : Reg) : Statement (.callr d a) := of_word rfl (not_header 4 (by decide) (high_bit 14 (high_bit 9 (high_bit 4 rfl))))
theorem movmWriteA (s : Reg) (n : BitVec 6) : Statement (.movmWriteA s n) := of_word rfl (not_header 4 (by decide) (high_bit 24 (high_bit 14 (high_bit 9 rfl))))
theorem movmRead (d : Reg) (n : BitVec 6) : Statement (.movmRead d n) := of_word rfl (not_header 4 (by decide) (high_bit 24 (high_bit 9 (high_bit 4 rfl))))
theorem trap (i : BitVec 16) : Statement (.trap i) := of_word rfl (not_header 3 (by decide) (high_bit 13 rfl))
theorem svc (i : BitVec 16) : Statement (.svc i) := of_word rfl (not_header 3 (by decide) (high_bit 13 rfl))
theorem csrrd (d : Reg) (n : BitVec 12) : Statement (.csrrd d n) := of_word rfl (not_header 3 (by decide) (high_bit 17 (high_bit 8 (high_bit 3 rfl))))
theorem csrwr (d : Reg) (s : Reg) (n : BitVec 12) : Statement (.csrwr d s n) := of_word rfl (not_header 3 (by decide) (high_bit 17 (high_bit 13 (high_bit 8 (high_bit 3 rfl)))))
theorem csrset (d : Reg) (s : Reg) (n : BitVec 12) : Statement (.csrset d s n) := of_word rfl (not_header 3 (by decide) (high_bit 17 (high_bit 13 (high_bit 8 (high_bit 3 rfl)))))
theorem csrclr (d : Reg) (s : Reg) (n : BitVec 12) : Statement (.csrclr d s n) := of_word rfl (not_header 3 (by decide) (high_bit 17 (high_bit 13 (high_bit 8 (high_bit 3 rfl)))))
theorem segbeg (i : BitVec 16) : Statement (.segbeg i) := of_word rfl (not_header 3 (by decide) (high_bit 13 rfl))
theorem segend (a : Reg) (b : Reg) : Statement (.segend a b) := of_word rfl (not_header 3 (by decide) (high_bit 18 (high_bit 13 (high_bit 8 rfl))))
theorem lds (d : Reg) (b : Reg) (c : BitVec 3) (z : BitVec 2) (o : BitVec 10) : Statement (.lds d b c z o) := of_word rfl (not_header 5 (by decide) (high_bit 21 (high_bit 19 (high_bit 16 (high_bit 15 (high_bit 10 (high_bit 5 rfl)))))))
theorem ldsx (d : Reg) (b : Reg) (c : BitVec 3) (z : BitVec 2) (o : BitVec 10) : Statement (.ldsx d b c z o) := of_word rfl (not_header 5 (by decide) (high_bit 21 (high_bit 19 (high_bit 16 (high_bit 15 (high_bit 10 (high_bit 5 rfl)))))))
theorem sts (d : Reg) (b : Reg) (g : BitVec 1) (c : BitVec 3) (z : BitVec 2) (o : BitVec 10) : Statement (.sts d b g c z o) := of_word rfl (not_header 5 (by decide) (high_bit 21 (high_bit 19 (high_bit 16 (high_bit 15 (high_bit 10 (high_bit 5 rfl)))))))
theorem ldr (d : Reg) (b : Reg) (c : BitVec 3) (z : BitVec 2) (o : BitVec 10) : Statement (.ldr d b c z o) := of_word rfl (not_header 5 (by decide) (high_bit 21 (high_bit 19 (high_bit 16 (high_bit 15 (high_bit 10 (high_bit 5 rfl)))))))
theorem ldrx (d : Reg) (b : Reg) (c : BitVec 3) (z : BitVec 2) (o : BitVec 10) : Statement (.ldrx d b c z o) := of_word rfl (not_header 5 (by decide) (high_bit 21 (high_bit 19 (high_bit 16 (high_bit 15 (high_bit 10 (high_bit 5 rfl)))))))
theorem str (d : Reg) (b : Reg) (g : BitVec 1) (c : BitVec 3) (z : BitVec 2) (o : BitVec 10) : Statement (.str d b g c z o) := of_word rfl (not_header 5 (by decide) (high_bit 21 (high_bit 19 (high_bit 16 (high_bit 15 (high_bit 10 (high_bit 5 rfl)))))))
theorem ldg (d : Reg) (b : Reg) (c : BitVec 3) (z : BitVec 2) (o : BitVec 10) : Statement (.ldg d b c z o) := of_word rfl (not_header 5 (by decide) (high_bit 21 (high_bit 19 (high_bit 16 (high_bit 15 (high_bit 10 (high_bit 5 rfl)))))))
theorem ldgx (d : Reg) (b : Reg) (c : BitVec 3) (z : BitVec 2) (o : BitVec 10) : Statement (.ldgx d b c z o) := of_word rfl (not_header 5 (by decide) (high_bit 21 (high_bit 19 (high_bit 16 (high_bit 15 (high_bit 10 (high_bit 5 rfl)))))))
theorem stg (d : Reg) (b : Reg) (g : BitVec 1) (c : BitVec 3) (z : BitVec 2) (o : BitVec 10) : Statement (.stg d b g c z o) := of_word rfl (not_header 5 (by decide) (high_bit 21 (high_bit 19 (high_bit 16 (high_bit 15 (high_bit 10 (high_bit 5 rfl)))))))
theorem ldgs (d : Reg) (b : Reg) (c : BitVec 3) (z : BitVec 2) (o : BitVec 10) : Statement (.ldgs d b c z o) := of_word rfl (not_header 5 (by decide) (high_bit 21 (high_bit 19 (high_bit 16 (high_bit 15 (high_bit 10 (high_bit 5 rfl)))))))
theorem ldgsx (d : Reg) (b : Reg) (c : BitVec 3) (z : BitVec 2) (o : BitVec 10) : Statement (.ldgsx d b c z o) := of_word rfl (not_header 5 (by decide) (high_bit 21 (high_bit 19 (high_bit 16 (high_bit 15 (high_bit 10 (high_bit 5 rfl)))))))
theorem ldk (d : Reg) (b : Reg) (z : BitVec 2) (o : BitVec 10) : Statement (.ldk d b z o) := of_word rfl (not_header 5 (by decide) (high_bit 21 (high_bit 19 (high_bit 15 (high_bit 10 (high_bit 5 rfl))))))
theorem atsAdd (d : Reg) (b : Reg) (g : BitVec 1) (c : BitVec 3) (z : BitVec 1) : Statement (.atsAdd d b g c z) := of_word rfl (not_header 5 (by decide) (high_bit 28 (high_bit 27 (high_bit 24 (high_bit 21 (high_bit 20 (high_bit 15 (high_bit 10 (high_bit 5 rfl)))))))))
theorem atsSwap (d : Reg) (b : Reg) (g : BitVec 1) (c : BitVec 3) (z : BitVec 1) : Statement (.atsSwap d b g c z) := of_word rfl (not_header 5 (by decide) (high_bit 28 (high_bit 27 (high_bit 24 (high_bit 21 (high_bit 20 (high_bit 15 (high_bit 10 (high_bit 5 rfl)))))))))
theorem atsCas (d : Reg) (b : Reg) (i : Reg) (g : BitVec 1) (c : BitVec 3) (z : BitVec 1) : Statement (.atsCas d b i g c z) := of_word rfl (not_header 5 (by decide) (high_bit 28 (high_bit 27 (high_bit 24 (high_bit 21 (high_bit 20 (high_bit 15 (high_bit 10 (high_bit 5 rfl)))))))))
theorem atsAnd (d : Reg) (b : Reg) (g : BitVec 1) (c : BitVec 3) (z : BitVec 1) : Statement (.atsAnd d b g c z) := of_word rfl (not_header 5 (by decide) (high_bit 28 (high_bit 27 (high_bit 24 (high_bit 21 (high_bit 20 (high_bit 15 (high_bit 10 (high_bit 5 rfl)))))))))
theorem atsOr (d : Reg) (b : Reg) (g : BitVec 1) (c : BitVec 3) (z : BitVec 1) : Statement (.atsOr d b g c z) := of_word rfl (not_header 5 (by decide) (high_bit 28 (high_bit 27 (high_bit 24 (high_bit 21 (high_bit 20 (high_bit 15 (high_bit 10 (high_bit 5 rfl)))))))))
theorem atsXor (d : Reg) (b : Reg) (g : BitVec 1) (c : BitVec 3) (z : BitVec 1) : Statement (.atsXor d b g c z) := of_word rfl (not_header 5 (by decide) (high_bit 28 (high_bit 27 (high_bit 24 (high_bit 21 (high_bit 20 (high_bit 15 (high_bit 10 (high_bit 5 rfl)))))))))
theorem atsSmin (d : Reg) (b : Reg) (g : BitVec 1) (c : BitVec 3) (z : BitVec 1) : Statement (.atsSmin d b g c z) := of_word rfl (not_header 5 (by decide) (high_bit 28 (high_bit 27 (high_bit 24 (high_bit 21 (high_bit 20 (high_bit 15 (high_bit 10 (high_bit 5 rfl)))))))))
theorem atsSmax (d : Reg) (b : Reg) (g : BitVec 1) (c : BitVec 3) (z : BitVec 1) : Statement (.atsSmax d b g c z) := of_word rfl (not_header 5 (by decide) (high_bit 28 (high_bit 27 (high_bit 24 (high_bit 21 (high_bit 20 (high_bit 15 (high_bit 10 (high_bit 5 rfl)))))))))
theorem atrAdd (d : Reg) (b : Reg) (g : BitVec 1) (c : BitVec 3) (z : BitVec 1) : Statement (.atrAdd d b g c z) := of_word rfl (not_header 5 (by decide) (high_bit 28 (high_bit 27 (high_bit 24 (high_bit 21 (high_bit 20 (high_bit 15 (high_bit 10 (high_bit 5 rfl)))))))))
theorem atrSwap (d : Reg) (b : Reg) (g : BitVec 1) (c : BitVec 3) (z : BitVec 1) : Statement (.atrSwap d b g c z) := of_word rfl (not_header 5 (by decide) (high_bit 28 (high_bit 27 (high_bit 24 (high_bit 21 (high_bit 20 (high_bit 15 (high_bit 10 (high_bit 5 rfl)))))))))
theorem atrCas (d : Reg) (b : Reg) (i : Reg) (g : BitVec 1) (c : BitVec 3) (z : BitVec 1) : Statement (.atrCas d b i g c z) := of_word rfl (not_header 5 (by decide) (high_bit 28 (high_bit 27 (high_bit 24 (high_bit 21 (high_bit 20 (high_bit 15 (high_bit 10 (high_bit 5 rfl)))))))))
theorem atrAnd (d : Reg) (b : Reg) (g : BitVec 1) (c : BitVec 3) (z : BitVec 1) : Statement (.atrAnd d b g c z) := of_word rfl (not_header 5 (by decide) (high_bit 28 (high_bit 27 (high_bit 24 (high_bit 21 (high_bit 20 (high_bit 15 (high_bit 10 (high_bit 5 rfl)))))))))
theorem atrOr (d : Reg) (b : Reg) (g : BitVec 1) (c : BitVec 3) (z : BitVec 1) : Statement (.atrOr d b g c z) := of_word rfl (not_header 5 (by decide) (high_bit 28 (high_bit 27 (high_bit 24 (high_bit 21 (high_bit 20 (high_bit 15 (high_bit 10 (high_bit 5 rfl)))))))))
theorem atrXor (d : Reg) (b : Reg) (g : BitVec 1) (c : BitVec 3) (z : BitVec 1) : Statement (.atrXor d b g c z) := of_word rfl (not_header 5 (by decide) (high_bit 28 (high_bit 27 (high_bit 24 (high_bit 21 (high_bit 20 (high_bit 15 (high_bit 10 (high_bit 5 rfl)))))))))
theorem atrSmin (d : Reg) (b : Reg) (g : BitVec 1) (c : BitVec 3) (z : BitVec 1) : Statement (.atrSmin d b g c z) := of_word rfl (not_header 5 (by decide) (high_bit 28 (high_bit 27 (high_bit 24 (high_bit 21 (high_bit 20 (high_bit 15 (high_bit 10 (high_bit 5 rfl)))))))))
theorem atrSmax (d : Reg) (b : Reg) (g : BitVec 1) (c : BitVec 3) (z : BitVec 1) : Statement (.atrSmax d b g c z) := of_word rfl (not_header 5 (by decide) (high_bit 28 (high_bit 27 (high_bit 24 (high_bit 21 (high_bit 20 (high_bit 15 (high_bit 10 (high_bit 5 rfl)))))))))
theorem atgAdd (d : Reg) (b : Reg) (g : BitVec 1) (c : BitVec 3) (z : BitVec 1) : Statement (.atgAdd d b g c z) := of_word rfl (not_header 5 (by decide) (high_bit 28 (high_bit 27 (high_bit 24 (high_bit 21 (high_bit 20 (high_bit 15 (high_bit 10 (high_bit 5 rfl)))))))))
theorem atgSwap (d : Reg) (b : Reg) (g : BitVec 1) (c : BitVec 3) (z : BitVec 1) : Statement (.atgSwap d b g c z) := of_word rfl (not_header 5 (by decide) (high_bit 28 (high_bit 27 (high_bit 24 (high_bit 21 (high_bit 20 (high_bit 15 (high_bit 10 (high_bit 5 rfl)))))))))
theorem atgCas (d : Reg) (b : Reg) (i : Reg) (g : BitVec 1) (c : BitVec 3) (z : BitVec 1) : Statement (.atgCas d b i g c z) := of_word rfl (not_header 5 (by decide) (high_bit 28 (high_bit 27 (high_bit 24 (high_bit 21 (high_bit 20 (high_bit 15 (high_bit 10 (high_bit 5 rfl)))))))))
theorem atgAnd (d : Reg) (b : Reg) (g : BitVec 1) (c : BitVec 3) (z : BitVec 1) : Statement (.atgAnd d b g c z) := of_word rfl (not_header 5 (by decide) (high_bit 28 (high_bit 27 (high_bit 24 (high_bit 21 (high_bit 20 (high_bit 15 (high_bit 10 (high_bit 5 rfl)))))))))
theorem atgOr (d : Reg) (b : Reg) (g : BitVec 1) (c : BitVec 3) (z : BitVec 1) : Statement (.atgOr d b g c z) := of_word rfl (not_header 5 (by decide) (high_bit 28 (high_bit 27 (high_bit 24 (high_bit 21 (high_bit 20 (high_bit 15 (high_bit 10 (high_bit 5 rfl)))))))))
theorem atgXor (d : Reg) (b : Reg) (g : BitVec 1) (c : BitVec 3) (z : BitVec 1) : Statement (.atgXor d b g c z) := of_word rfl (not_header 5 (by decide) (high_bit 28 (high_bit 27 (high_bit 24 (high_bit 21 (high_bit 20 (high_bit 15 (high_bit 10 (high_bit 5 rfl)))))))))
theorem atgSmin (d : Reg) (b : Reg) (g : BitVec 1) (c : BitVec 3) (z : BitVec 1) : Statement (.atgSmin d b g c z) := of_word rfl (not_header 5 (by decide) (high_bit 28 (high_bit 27 (high_bit 24 (high_bit 21 (high_bit 20 (high_bit 15 (high_bit 10 (high_bit 5 rfl)))))))))
theorem atgSmax (d : Reg) (b : Reg) (g : BitVec 1) (c : BitVec 3) (z : BitVec 1) : Statement (.atgSmax d b g c z) := of_word rfl (not_header 5 (by decide) (high_bit 28 (high_bit 27 (high_bit 24 (high_bit 21 (high_bit 20 (high_bit 15 (high_bit 10 (high_bit 5 rfl)))))))))
theorem fence (s : BitVec 3) : Statement (.fence s) := of_word rfl (not_header 5 (by decide) (high_bit 27 (high_bit 24 rfl)))
theorem acq (b : Reg) (s : BitVec 3) : Statement (.acq b s) := of_word rfl (not_header 5 (by decide) (high_bit 27 (high_bit 24 (high_bit 15 (high_bit 10 rfl)))))
theorem rel (b : Reg) (g : BitVec 1) (s : BitVec 3) : Statement (.rel b g s) := of_word rfl (not_header 5 (by decide) (high_bit 27 (high_bit 24 (high_bit 21 (high_bit 20 (high_bit 15 (high_bit 10 rfl)))))))
theorem ringset (a : Reg) (h : BitVec 4) : Statement (.ringset a h) := of_word rfl (not_header 5 (by decide) (high_bit 24 (high_bit 20 (high_bit 15 (high_bit 10 rfl)))))
theorem rneed (a : Reg) (h : BitVec 4) : Statement (.rneed a h) := of_word rfl (not_header 5 (by decide) (high_bit 24 (high_bit 20 (high_bit 15 (high_bit 10 rfl)))))
theorem rfree (a : Reg) (h : BitVec 4) : Statement (.rfree a h) := of_word rfl (not_header 5 (by decide) (high_bit 24 (high_bit 20 (high_bit 15 (high_bit 10 rfl)))))
theorem radv (a : Reg) (h : BitVec 4) : Statement (.radv a h) := of_word rfl (not_header 5 (by decide) (high_bit 24 (high_bit 20 (high_bit 15 (high_bit 10 rfl)))))
theorem rpub (a : Reg) (h : BitVec 4) : Statement (.rpub a h) := of_word rfl (not_header 5 (by decide) (high_bit 24 (high_bit 20 (high_bit 15 (high_bit 10 rfl)))))
theorem rrd (d : Reg) (h : BitVec 4) : Statement (.rrd d h) := of_word rfl (not_header 5 (by decide) (high_bit 24 (high_bit 20 (high_bit 10 (high_bit 5 rfl)))))
theorem winset (a : Reg) (h : BitVec 4) : Statement (.winset a h) := of_word rfl (not_header 5 (by decide) (high_bit 24 (high_bit 20 (high_bit 15 (high_bit 10 rfl)))))
theorem winadv (a : Reg) (h : BitVec 4) : Statement (.winadv a h) := of_word rfl (not_header 5 (by decide) (high_bit 24 (high_bit 20 (high_bit 15 (high_bit 10 rfl)))))
theorem mapset (a : Reg) (m : BitVec 4) : Statement (.mapset a m) := of_word rfl (not_header 5 (by decide) (high_bit 24 (high_bit 20 (high_bit 15 (high_bit 10 rfl)))))
theorem mapflush (m : BitVec 4) : Statement (.mapflush m) := of_word rfl (not_header 5 (by decide) (high_bit 24 (high_bit 20 rfl)))
theorem mapinv (m : BitVec 4) : Statement (.mapinv m) := of_word rfl (not_header 5 (by decide) (high_bit 24 (high_bit 20 rfl)))
theorem mcfill (d : Reg) (b : Reg) (i : Reg) (c : BitVec 3) : Statement (.mcfill d b i c) := of_word rfl (not_header 5 (by decide) (high_bit 24 (high_bit 21 (high_bit 20 (high_bit 15 (high_bit 10 (high_bit 5 rfl)))))))
theorem wbl (b : Reg) (c : BitVec 3) : Statement (.wbl b c) := of_word rfl (not_header 4 (by decide) (high_bit 23 (high_bit 20 (high_bit 14 (high_bit 9 rfl)))))
theorem invl (b : Reg) (c : BitVec 3) : Statement (.invl b c) := of_word rfl (not_header 4 (by decide) (high_bit 23 (high_bit 20 (high_bit 14 (high_bit 9 rfl)))))
theorem wbinvl (b : Reg) (c : BitVec 3) : Statement (.wbinvl b c) := of_word rfl (not_header 4 (by decide) (high_bit 23 (high_bit 20 (high_bit 14 (high_bit 9 rfl)))))
theorem qcopy (q : BitVec 4) (a : Reg) (c : Reg) (s : BitVec 1) : Statement (.qcopy q a c s) := of_word rfl (not_header 4 (by decide) (high_bit 24 (high_bit 23 (high_bit 18 (high_bit 13 (high_bit 8 (high_bit 4 rfl)))))))
theorem qgath (q : BitVec 4) (a : Reg) (b : Reg) (c : Reg) (s : BitVec 1) : Statement (.qgath q a b c s) := of_word rfl (not_header 4 (by decide) (high_bit 24 (high_bit 23 (high_bit 18 (high_bit 13 (high_bit 8 (high_bit 4 rfl)))))))
theorem qscat (q : BitVec 4) (a : Reg) (b : Reg) (c : Reg) (s : BitVec 1) : Statement (.qscat q a b c s) := of_word rfl (not_header 4 (by decide) (high_bit 24 (high_bit 23 (high_bit 18 (high_bit 13 (high_bit 8 (high_bit 4 rfl)))))))
theorem qfill (q : BitVec 4) (a : Reg) (c : Reg) (s : BitVec 1) : Statement (.qfill q a c s) := of_word rfl (not_header 4 (by decide) (high_bit 24 (high_bit 23 (high_bit 18 (high_bit 13 (high_bit 8 (high_bit 4 rfl)))))))
theorem qdec (q : BitVec 4) (a : Reg) (c : Reg) (s : BitVec 1) : Statement (.qdec q a c s) := of_word rfl (not_header 4 (by decide) (high_bit 24 (high_bit 23 (high_bit 18 (high_bit 13 (high_bit 8 (high_bit 4 rfl)))))))
theorem qenc (q : BitVec 4) (a : Reg) (c : Reg) (s : BitVec 1) : Statement (.qenc q a c s) := of_word rfl (not_header 4 (by decide) (high_bit 24 (high_bit 23 (high_bit 18 (high_bit 13 (high_bit 8 (high_bit 4 rfl)))))))
theorem qcoll (q : BitVec 4) (a : Reg) (c : Reg) (s : BitVec 1) : Statement (.qcoll q a c s) := of_word rfl (not_header 4 (by decide) (high_bit 24 (high_bit 23 (high_bit 18 (high_bit 13 (high_bit 8 (high_bit 4 rfl)))))))
theorem qjoin (q : BitVec 4) (a : Reg) (c : Reg) (s : BitVec 1) : Statement (.qjoin q a c s) := of_word rfl (not_header 4 (by decide) (high_bit 24 (high_bit 23 (high_bit 18 (high_bit 13 (high_bit 8 (high_bit 4 rfl)))))))
theorem qsig (q : BitVec 4) (c : Reg) : Statement (.qsig q c) := of_word rfl (not_header 4 (by decide) (high_bit 23 (high_bit 18 (high_bit 8 (high_bit 4 rfl)))))
theorem qstat (q : BitVec 4) (d : Reg) (b : Reg) : Statement (.qstat q d b) := of_word rfl (not_header 4 (by decide) (high_bit 18 (high_bit 13 (high_bit 8 (high_bit 4 rfl)))))
theorem movmWriteB (s : Reg) (n : BitVec 6) : Statement (.movmWriteB s n) := of_word rfl (not_header 4 (by decide) (high_bit 24 (high_bit 14 (high_bit 9 rfl))))
theorem vadd (d : Reg) (a : Reg) (b : Reg) (k : BitVec 3) (t : BitVec 4) (m : BitVec 2) : Statement (.vadd d a b k t m) := of_word rfl (not_header 5 (by decide) (high_bit 29 (high_bit 27 (high_bit 23 (high_bit 20 (high_bit 15 (high_bit 10 (high_bit 5 rfl))))))))
theorem vsub (d : Reg) (a : Reg) (b : Reg) (k : BitVec 3) (t : BitVec 4) (m : BitVec 2) : Statement (.vsub d a b k t m) := of_word rfl (not_header 5 (by decide) (high_bit 29 (high_bit 27 (high_bit 23 (high_bit 20 (high_bit 15 (high_bit 10 (high_bit 5 rfl))))))))
theorem vmul (d : Reg) (a : Reg) (b : Reg) (k : BitVec 3) (t : BitVec 4) (m : BitVec 2) : Statement (.vmul d a b k t m) := of_word rfl (not_header 5 (by decide) (high_bit 29 (high_bit 27 (high_bit 23 (high_bit 20 (high_bit 15 (high_bit 10 (high_bit 5 rfl))))))))
theorem vfma (d : Reg) (a : Reg) (b : Reg) (k : BitVec 3) (t : BitVec 4) (m : BitVec 2) : Statement (.vfma d a b k t m) := of_word rfl (not_header 5 (by decide) (high_bit 29 (high_bit 27 (high_bit 23 (high_bit 20 (high_bit 15 (high_bit 10 (high_bit 5 rfl))))))))
theorem vmin (d : Reg) (a : Reg) (b : Reg) (k : BitVec 3) (t : BitVec 4) : Statement (.vmin d a b k t) := of_word rfl (not_header 5 (by decide) (high_bit 27 (high_bit 23 (high_bit 20 (high_bit 15 (high_bit 10 (high_bit 5 rfl)))))))
theorem vmax (d : Reg) (a : Reg) (b : Reg) (k : BitVec 3) (t : BitVec 4) : Statement (.vmax d a b k t) := of_word rfl (not_header 5 (by decide) (high_bit 27 (high_bit 23 (high_bit 20 (high_bit 15 (high_bit 10 (high_bit 5 rfl)))))))
theorem vabs (d : Reg) (a : Reg) (k : BitVec 3) (t : BitVec 4) (m : BitVec 2) : Statement (.vabs d a k t m) := of_word rfl (not_header 5 (by decide) (high_bit 29 (high_bit 27 (high_bit 23 (high_bit 20 (high_bit 15 (high_bit 10 (high_bit 5 rfl))))))))
theorem vneg (d : Reg) (a : Reg) (k : BitVec 3) (t : BitVec 4) (m : BitVec 2) : Statement (.vneg d a k t m) := of_word rfl (not_header 5 (by decide) (high_bit 29 (high_bit 27 (high_bit 23 (high_bit 20 (high_bit 15 (high_bit 10 (high_bit 5 rfl))))))))
theorem vcmpeq (d : Reg) (a : Reg) (b : Reg) (k : BitVec 3) (t : BitVec 4) : Statement (.vcmpeq d a b k t) := of_word rfl (not_header 5 (by decide) (high_bit 27 (high_bit 23 (high_bit 20 (high_bit 15 (high_bit 10 (high_bit 5 rfl)))))))
theorem vcmpne (d : Reg) (a : Reg) (b : Reg) (k : BitVec 3) (t : BitVec 4) : Statement (.vcmpne d a b k t) := of_word rfl (not_header 5 (by decide) (high_bit 27 (high_bit 23 (high_bit 20 (high_bit 15 (high_bit 10 (high_bit 5 rfl)))))))
theorem vcmplt (d : Reg) (a : Reg) (b : Reg) (k : BitVec 3) (t : BitVec 4) : Statement (.vcmplt d a b k t) := of_word rfl (not_header 5 (by decide) (high_bit 27 (high_bit 23 (high_bit 20 (high_bit 15 (high_bit 10 (high_bit 5 rfl)))))))
theorem vcmple (d : Reg) (a : Reg) (b : Reg) (k : BitVec 3) (t : BitVec 4) : Statement (.vcmple d a b k t) := of_word rfl (not_header 5 (by decide) (high_bit 27 (high_bit 23 (high_bit 20 (high_bit 15 (high_bit 10 (high_bit 5 rfl)))))))
theorem vsel (d : Reg) (a : Reg) (b : Reg) (k : BitVec 3) : Statement (.vsel d a b k) := of_word rfl (not_header 5 (by decide) (high_bit 23 (high_bit 20 (high_bit 15 (high_bit 10 (high_bit 5 rfl))))))
theorem vexp2 (d : Reg) (a : Reg) (k : BitVec 3) (t : BitVec 4) : Statement (.vexp2 d a k t) := of_word rfl (not_header 5 (by decide) (high_bit 27 (high_bit 23 (high_bit 20 (high_bit 15 (high_bit 10 (high_bit 5 rfl)))))))
theorem vlog2 (d : Reg) (a : Reg) (k : BitVec 3) (t : BitVec 4) : Statement (.vlog2 d a k t) := of_word rfl (not_header 5 (by decide) (high_bit 27 (high_bit 23 (high_bit 20 (high_bit 15 (high_bit 10 (high_bit 5 rfl)))))))
theorem vrcp (d : Reg) (a : Reg) (k : BitVec 3) (t : BitVec 4) : Statement (.vrcp d a k t) := of_word rfl (not_header 5 (by decide) (high_bit 27 (high_bit 23 (high_bit 20 (high_bit 15 (high_bit 10 (high_bit 5 rfl)))))))
theorem vrsq (d : Reg) (a : Reg) (k : BitVec 3) (t : BitVec 4) : Statement (.vrsq d a k t) := of_word rfl (not_header 5 (by decide) (high_bit 27 (high_bit 23 (high_bit 20 (high_bit 15 (high_bit 10 (high_bit 5 rfl)))))))
theorem vsin (d : Reg) (a : Reg) (k : BitVec 3) (t : BitVec 4) : Statement (.vsin d a k t) := of_word rfl (not_header 5 (by decide) (high_bit 27 (high_bit 23 (high_bit 20 (high_bit 15 (high_bit 10 (high_bit 5 rfl)))))))
theorem vcos (d : Reg) (a : Reg) (k : BitVec 3) (t : BitVec 4) : Statement (.vcos d a k t) := of_word rfl (not_header 5 (by decide) (high_bit 27 (high_bit 23 (high_bit 20 (high_bit 15 (high_bit 10 (high_bit 5 rfl)))))))
theorem vtanh (d : Reg) (a : Reg) (k : BitVec 3) (t : BitVec 4) : Statement (.vtanh d a k t) := of_word rfl (not_header 5 (by decide) (high_bit 27 (high_bit 23 (high_bit 20 (high_bit 15 (high_bit 10 (high_bit 5 rfl)))))))
theorem vsigm (d : Reg) (a : Reg) (k : BitVec 3) (t : BitVec 4) : Statement (.vsigm d a k t) := of_word rfl (not_header 5 (by decide) (high_bit 27 (high_bit 23 (high_bit 20 (high_bit 15 (high_bit 10 (high_bit 5 rfl)))))))
theorem vand (d : Reg) (a : Reg) (b : Reg) (k : BitVec 3) : Statement (.vand d a b k) := of_word rfl (not_header 5 (by decide) (high_bit 23 (high_bit 20 (high_bit 15 (high_bit 10 (high_bit 5 rfl))))))
theorem vor (d : Reg) (a : Reg) (b : Reg) (k : BitVec 3) : Statement (.vor d a b k) := of_word rfl (not_header 5 (by decide) (high_bit 23 (high_bit 20 (high_bit 15 (high_bit 10 (high_bit 5 rfl))))))
theorem vxor (d : Reg) (a : Reg) (b : Reg) (k : BitVec 3) : Statement (.vxor d a b k) := of_word rfl (not_header 5 (by decide) (high_bit 23 (high_bit 20 (high_bit 15 (high_bit 10 (high_bit 5 rfl))))))
theorem vandn (d : Reg) (a : Reg) (b : Reg) (k : BitVec 3) : Statement (.vandn d a b k) := of_word rfl (not_header 5 (by decide) (high_bit 23 (high_bit 20 (high_bit 15 (high_bit 10 (high_bit 5 rfl))))))
theorem vnot (d : Reg) (a : Reg) (k : BitVec 3) : Statement (.vnot d a k) := of_word rfl (not_header 5 (by decide) (high_bit 23 (high_bit 20 (high_bit 15 (high_bit 10 (high_bit 5 rfl))))))
theorem vshl (d : Reg) (a : Reg) (b : Reg) (k : BitVec 3) (t : BitVec 4) : Statement (.vshl d a b k t) := of_word rfl (not_header 5 (by decide) (high_bit 27 (high_bit 23 (high_bit 20 (high_bit 15 (high_bit 10 (high_bit 5 rfl)))))))
theorem vshr (d : Reg) (a : Reg) (b : Reg) (k : BitVec 3) (t : BitVec 4) : Statement (.vshr d a b k t) := of_word rfl (not_header 5 (by decide) (high_bit 27 (high_bit 23 (high_bit 20 (high_bit 15 (high_bit 10 (high_bit 5 rfl)))))))
theorem vsra (d : Reg) (a : Reg) (b : Reg) (k : BitVec 3) (t : BitVec 4) : Statement (.vsra d a b k t) := of_word rfl (not_header 5 (by decide) (high_bit 27 (high_bit 23 (high_bit 20 (high_bit 15 (high_bit 10 (high_bit 5 rfl)))))))
theorem vrotl (d : Reg) (a : Reg) (b : Reg) (k : BitVec 3) (t : BitVec 4) : Statement (.vrotl d a b k t) := of_word rfl (not_header 5 (by decide) (high_bit 27 (high_bit 23 (high_bit 20 (high_bit 15 (high_bit 10 (high_bit 5 rfl)))))))
theorem vcvt (d : Reg) (s : Reg) (t : BitVec 4) (u : BitVec 4) (r : BitVec 3) : Statement (.vcvt d s t u r) := of_word rfl (not_header 5 (by decide) (high_bit 26 (high_bit 23 (high_bit 19 (high_bit 15 (high_bit 10 (high_bit 5 rfl)))))))
theorem vpack (d : Reg) (a : Reg) (b : Reg) (k : BitVec 3) (t : BitVec 4) : Statement (.vpack d a b k t) := of_word rfl (not_header 5 (by decide) (high_bit 27 (high_bit 23 (high_bit 20 (high_bit 15 (high_bit 10 (high_bit 5 rfl)))))))
theorem vunpkl (d : Reg) (a : Reg) (k : BitVec 3) (t : BitVec 4) : Statement (.vunpkl d a k t) := of_word rfl (not_header 5 (by decide) (high_bit 27 (high_bit 23 (high_bit 20 (high_bit 15 (high_bit 10 (high_bit 5 rfl)))))))
theorem vunpkh (d : Reg) (a : Reg) (k : BitVec 3) (t : BitVec 4) : Statement (.vunpkh d a k t) := of_word rfl (not_header 5 (by decide) (high_bit 27 (high_bit 23 (high_bit 20 (high_bit 15 (high_bit 10 (high_bit 5 rfl)))))))
theorem vperm (d : Reg) (a : Reg) (b : Reg) (k : BitVec 3) : Statement (.vperm d a b k) := of_word rfl (not_header 5 (by decide) (high_bit 23 (high_bit 20 (high_bit 15 (high_bit 10 (high_bit 5 rfl))))))
theorem vbcast (d : Reg) (a : Reg) (b : Reg) (k : BitVec 3) : Statement (.vbcast d a b k) := of_word rfl (not_header 5 (by decide) (high_bit 23 (high_bit 20 (high_bit 15 (high_bit 10 (high_bit 5 rfl))))))
theorem vslideup (d : Reg) (a : Reg) (b : Reg) (k : BitVec 3) : Statement (.vslideup d a b k) := of_word rfl (not_header 5 (by decide) (high_bit 23 (high_bit 20 (high_bit 15 (high_bit 10 (high_bit 5 rfl))))))
theorem vslidedn (d : Reg) (a : Reg) (b : Reg) (k : BitVec 3) : Statement (.vslidedn d a b k) := of_word rfl (not_header 5 (by decide) (high_bit 23 (high_bit 20 (high_bit 15 (high_bit 10 (high_bit 5 rfl))))))
theorem vrev (d : Reg) (a : Reg) (k : BitVec 3) : Statement (.vrev d a k) := of_word rfl (not_header 5 (by decide) (high_bit 23 (high_bit 20 (high_bit 15 (high_bit 10 (high_bit 5 rfl))))))
theorem vsplat (d : Reg) (a : Reg) (k : BitVec 3) : Statement (.vsplat d a k) := of_word rfl (not_header 5 (by decide) (high_bit 23 (high_bit 20 (high_bit 15 (high_bit 10 (high_bit 5 rfl))))))
theorem vscani (d : Reg) (a : Reg) (k : BitVec 3) (t : BitVec 4) : Statement (.vscani d a k t) := of_word rfl (not_header 5 (by decide) (high_bit 27 (high_bit 23 (high_bit 20 (high_bit 15 (high_bit 10 (high_bit 5 rfl)))))))
theorem vscanx (d : Reg) (a : Reg) (k : BitVec 3) (t : BitVec 4) : Statement (.vscanx d a k t) := of_word rfl (not_header 5 (by decide) (high_bit 27 (high_bit 23 (high_bit 20 (high_bit 15 (high_bit 10 (high_bit 5 rfl)))))))
theorem vscanmax (d : Reg) (a : Reg) (k : BitVec 3) (t : BitVec 4) : Statement (.vscanmax d a k t) := of_word rfl (not_header 5 (by decide) (high_bit 27 (high_bit 23 (high_bit 20 (high_bit 15 (high_bit 10 (high_bit 5 rfl)))))))
theorem vscanmin (d : Reg) (a : Reg) (k : BitVec 3) (t : BitVec 4) : Statement (.vscanmin d a k t) := of_word rfl (not_header 5 (by decide) (high_bit 27 (high_bit 23 (high_bit 20 (high_bit 15 (high_bit 10 (high_bit 5 rfl)))))))
theorem vredadd (d : Reg) (a : Reg) (k : BitVec 3) (t : BitVec 4) : Statement (.vredadd d a k t) := of_word rfl (not_header 5 (by decide) (high_bit 27 (high_bit 23 (high_bit 20 (high_bit 15 (high_bit 10 (high_bit 5 rfl)))))))
theorem vredmin (d : Reg) (a : Reg) (k : BitVec 3) (t : BitVec 4) : Statement (.vredmin d a k t) := of_word rfl (not_header 5 (by decide) (high_bit 27 (high_bit 23 (high_bit 20 (high_bit 15 (high_bit 10 (high_bit 5 rfl)))))))
theorem vredmax (d : Reg) (a : Reg) (k : BitVec 3) (t : BitVec 4) : Statement (.vredmax d a k t) := of_word rfl (not_header 5 (by decide) (high_bit 27 (high_bit 23 (high_bit 20 (high_bit 15 (high_bit 10 (high_bit 5 rfl)))))))
theorem vredand (d : Reg) (a : Reg) (k : BitVec 3) (t : BitVec 4) : Statement (.vredand d a k t) := of_word rfl (not_header 5 (by decide) (high_bit 27 (high_bit 23 (high_bit 20 (high_bit 15 (high_bit 10 (high_bit 5 rfl)))))))
theorem vredor (d : Reg) (a : Reg) (k : BitVec 3) (t : BitVec 4) : Statement (.vredor d a k t) := of_word rfl (not_header 5 (by decide) (high_bit 27 (high_bit 23 (high_bit 20 (high_bit 15 (high_bit 10 (high_bit 5 rfl)))))))
theorem vredxor (d : Reg) (a : Reg) (k : BitVec 3) (t : BitVec 4) : Statement (.vredxor d a k t) := of_word rfl (not_header 5 (by decide) (high_bit 27 (high_bit 23 (high_bit 20 (high_bit 15 (high_bit 10 (high_bit 5 rfl)))))))
theorem kand (d : Reg) (a : Reg) (b : Reg) : Statement (.kand d a b) := of_word rfl (not_header 4 (by decide) (high_bit 19 (high_bit 14 (high_bit 9 (high_bit 4 rfl)))))
theorem kor (d : Reg) (a : Reg) (b : Reg) : Statement (.kor d a b) := of_word rfl (not_header 4 (by decide) (high_bit 19 (high_bit 14 (high_bit 9 (high_bit 4 rfl)))))
theorem kxor (d : Reg) (a : Reg) (b : Reg) : Statement (.kxor d a b) := of_word rfl (not_header 4 (by decide) (high_bit 19 (high_bit 14 (high_bit 9 (high_bit 4 rfl)))))
theorem kandn (d : Reg) (a : Reg) (b : Reg) : Statement (.kandn d a b) := of_word rfl (not_header 4 (by decide) (high_bit 19 (high_bit 14 (high_bit 9 (high_bit 4 rfl)))))
theorem knot (d : Reg) (a : Reg) : Statement (.knot d a) := of_word rfl (not_header 4 (by decide) (high_bit 14 (high_bit 9 (high_bit 4 rfl))))
theorem kpop (d : Reg) (a : Reg) : Statement (.kpop d a) := of_word rfl (not_header 4 (by decide) (high_bit 14 (high_bit 9 (high_bit 4 rfl))))
theorem kfirst (d : Reg) (a : Reg) : Statement (.kfirst d a) := of_word rfl (not_header 4 (by decide) (high_bit 14 (high_bit 9 (high_bit 4 rfl))))
theorem kfromv (d : Reg) (a : Reg) : Statement (.kfromv d a) := of_word rfl (not_header 4 (by decide) (high_bit 14 (high_bit 9 (high_bit 4 rfl))))
theorem ktov (d : Reg) (a : Reg) : Statement (.ktov d a) := of_word rfl (not_header 4 (by decide) (high_bit 14 (high_bit 9 (high_bit 4 rfl))))
theorem vlds (d : Reg) (s : Reg) (i : BitVec 16) : Statement (.vlds d s i) := of_word rfl (not_header 4 (by decide) (high_bit 14 (high_bit 9 (high_bit 4 rfl))))
theorem vldsp (d : Reg) (s : Reg) (i : BitVec 16) : Statement (.vldsp d s i) := of_word rfl (not_header 4 (by decide) (high_bit 14 (high_bit 9 (high_bit 4 rfl))))
theorem vsts (a : Reg) (b : Reg) (k : BitVec 3) : Statement (.vsts a b k) := of_word rfl (not_header 4 (by decide) (high_bit 22 (high_bit 19 (high_bit 14 (high_bit 9 rfl)))))
theorem vgath (d : Reg) (a : Reg) (b : Reg) (k : BitVec 3) : Statement (.vgath d a b k) := of_word rfl (not_header 4 (by decide) (high_bit 22 (high_bit 19 (high_bit 14 (high_bit 9 (high_bit 4 rfl))))))
theorem vscat (d : Reg) (a : Reg) (b : Reg) (k : BitVec 3) : Statement (.vscat d a b k) := of_word rfl (not_header 4 (by decide) (high_bit 22 (high_bit 19 (high_bit 14 (high_bit 9 (high_bit 4 rfl))))))
theorem vrrd (d : Reg) (k : BitVec 3) (h : BitVec 4) : Statement (.vrrd d k h) := of_word rfl (not_header 4 (by decide) (high_bit 26 (high_bit 22 (high_bit 19 (high_bit 9 (high_bit 4 rfl))))))
theorem vatomadd (d : Reg) (a : Reg) (b : Reg) (k : BitVec 3) : Statement (.vatomadd d a b k) := of_word rfl (not_header 4 (by decide) (high_bit 22 (high_bit 19 (high_bit 14 (high_bit 9 (high_bit 4 rfl))))))
theorem movmWriteC (s : Reg) (j : BitVec 5) (n : BitVec 6) : Statement (.movmWriteC s j n) := of_word rfl (not_header 4 (by decide) (high_bit 24 (high_bit 19 (high_bit 14 (high_bit 9 rfl)))))
theorem mma (d : Reg) (a : Reg) (n : BitVec 1) (f : BitVec 1) (w : BitVec 2) : Statement (.mma d a n f w) := of_word rfl (not_header 5 (by decide) (high_bit 29 (high_bit 28 (high_bit 27 (high_bit 15 (high_bit 10 (high_bit 5 rfl)))))))
theorem mmab (d : Reg) (a : Reg) (n : BitVec 1) (f : BitVec 1) (w : BitVec 2) : Statement (.mmab d a n f w) := of_word rfl (not_header 5 (by decide) (high_bit 29 (high_bit 28 (high_bit 27 (high_bit 15 (high_bit 10 (high_bit 5 rfl)))))))
theorem bload (a : Reg) (w : BitVec 2) : Statement (.bload a w) := of_word rfl (not_header 5 (by decide) (high_bit 29 (high_bit 15 (high_bit 10 rfl))))
theorem bclr (w : BitVec 2) : Statement (.bclr w) := of_word rfl (not_header 5 (by decide) (high_bit 29 rfl))
theorem fmtw (b : BitVec 4) (a : BitVec 4) : Statement (.fmtw b a) := of_word rfl (not_header 5 (by decide) (high_bit 27 (high_bit 23 rfl)))
theorem dzero (d : Reg) : Statement (.dzero d) := of_word rfl (not_header 5 (by decide) (high_bit 10 (high_bit 5 rfl)))
theorem dmov (d : Reg) (a : Reg) : Statement (.dmov d a) := of_word rfl (not_header 5 (by decide) (high_bit 15 (high_bit 10 (high_bit 5 rfl))))
theorem dadd (d : Reg) (a : Reg) (b : Reg) : Statement (.dadd d a b) := of_word rfl (not_header 5 (by decide) (high_bit 20 (high_bit 15 (high_bit 10 (high_bit 5 rfl)))))
theorem dscl (d : Reg) (s : BitVec 8) : Statement (.dscl d s) := of_word rfl (not_header 5 (by decide) (high_bit 23 (high_bit 10 (high_bit 5 rfl))))
theorem dcvt (d : Reg) (a : Reg) (r : BitVec 2) (f : BitVec 4) : Statement (.dcvt d a r f) := of_word rfl (not_header 5 (by decide) (high_bit 27 (high_bit 25 (high_bit 15 (high_bit 10 (high_bit 5 rfl))))))
theorem drd (d : Reg) (a : Reg) (b : Reg) : Statement (.drd d a b) := of_word rfl (not_header 5 (by decide) (high_bit 20 (high_bit 15 (high_bit 10 (high_bit 5 rfl)))))
theorem dwr (d : Reg) (a : Reg) (b : Reg) : Statement (.dwr d a b) := of_word rfl (not_header 5 (by decide) (high_bit 20 (high_bit 15 (high_bit 10 (high_bit 5 rfl)))))
theorem mstat (d : Reg) (s : BitVec 4) : Statement (.mstat d s) := of_word rfl (not_header 5 (by decide) (high_bit 27 (high_bit 10 (high_bit 5 rfl))))
theorem phnew (d : Reg) (a : Reg) (b : Reg) : Statement (.phnew d a b) := of_word rfl (not_header 4 (by decide) (high_bit 19 (high_bit 14 (high_bit 9 (high_bit 4 rfl)))))
theorem phreg (a : Reg) (m : BitVec 2) : Statement (.phreg a m) := of_word rfl (not_header 4 (by decide) (high_bit 26 (high_bit 24 (high_bit 14 (high_bit 9 rfl)))))
theorem phdrop (a : Reg) : Statement (.phdrop a) := of_word rfl (not_header 4 (by decide) (high_bit 14 (high_bit 9 rfl)))
theorem phsig (a : Reg) : Statement (.phsig a) := of_word rfl (not_header 4 (by decide) (high_bit 14 (high_bit 9 rfl)))
theorem phwait (a : Reg) : Statement (.phwait a) := of_word rfl (not_header 4 (by decide) (high_bit 14 (high_bit 9 rfl)))
theorem phsw (a : Reg) : Statement (.phsw a) := of_word rfl (not_header 4 (by decide) (high_bit 14 (high_bit 9 rfl)))
theorem phqry (d : Reg) (a : Reg) (b : Reg) : Statement (.phqry d a b) := of_word rfl (not_header 4 (by decide) (high_bit 19 (high_bit 14 (high_bit 9 (high_bit 4 rfl)))))
theorem launch (a : Reg) : Statement (.launch a) := of_word rfl (not_header 4 (by decide) (high_bit 14 (high_bit 9 rfl)))
theorem lease (a : Reg) : Statement (.lease a) := of_word rfl (not_header 4 (by decide) (high_bit 14 (high_bit 9 rfl)))
theorem movmWriteD (s : Reg) (n : BitVec 6) : Statement (.movmWriteD s n) := of_word rfl (not_header 4 (by decide) (high_bit 24 (high_bit 14 (high_bit 9 rfl))))
theorem swpt (n : BitVec 12) : Statement (.swpt n) := of_word rfl (not_header 4 (by decide) (high_bit 18 rfl))
theorem nop : Statement .nop := of_word rfl (by decide)
theorem rft : Statement .rft := of_word rfl (by decide)
theorem halt : Statement .halt := of_word rfl (by decide)
theorem ifence : Statement .ifence := of_word rfl (by decide)
theorem tend : Statement .tend := of_word rfl (by decide)
theorem taskend : Statement .taskend := of_word rfl (by decide)
theorem leaserel : Statement .leaserel := of_word rfl (by decide)
theorem bundleIssue (core : CoreNum) : Statement (.bundleIssue core) := of_none rfl
theorem acqPoll (core : CoreNum) : Statement (.acqPoll core) := of_none rfl
theorem windowRowArrival (core : CoreNum) (h : BitVec 4) : Statement (.windowRowArrival core h) := of_none rfl
theorem mapFill (core : CoreNum) (map : BitVec 4) (granule : BitVec 9) : Statement (.mapFill core map granule) := of_none rfl
theorem queueUnitDone (core : CoreNum) (q : BitVec 4) (remote : List (BitVec 8 × Bool)) : Statement (.queueUnitDone core q remote) := of_none rfl
theorem queueEntryComplete (core : CoreNum) (q : BitVec 4) : Statement (.queueEntryComplete core q) := of_none rfl
theorem collectiveContribution (part : PartNum) (group : BitVec 10) (step : BitVec 32) (rank : BitVec 16) (elems : List (BitVec 128 × Bool)) : Statement (.collectiveContribution part group step rank elems) := of_none rfl
theorem groupTimeout (core : CoreNum) (q : BitVec 4) : Statement (.groupTimeout core q) := of_none rfl
theorem mmaDeliveryEnd (core : CoreNum) : Statement (.mmaDeliveryEnd core) := of_none rfl
theorem phaseComplete (eng : BitVec 4) (idx : BitVec 12) : Statement (.phaseComplete eng idx) := of_none rfl
theorem phaseAnnounce (eng : BitVec 4) (idx : BitVec 12) (rank : BitVec 16) (phase : BitVec 32) (ready : Bool) : Statement (.phaseAnnounce eng idx rank phase ready) := of_none rfl
theorem leaseDecision (core : CoreNum) : Statement (.leaseDecision core) := of_none rfl
theorem leaseExpiry (core : CoreNum) : Statement (.leaseExpiry core) := of_none rfl
theorem slewStep (grove : GroveNum) : Statement (.slewStep grove) := of_none rfl
theorem loadComplete (core : CoreNum) (id : Nat) (data : BitVec 64) (poison : Bool) : Statement (.loadComplete core id data poison) := of_none rfl
theorem writeAcknowledged (core : CoreNum) (i : Nat) : Statement (.writeAcknowledged core i) := of_none rfl
theorem requestTimeout (core : CoreNum) (req : ReqRef) : Statement (.requestTimeout core req) := of_none rfl
theorem nackResend (core : CoreNum) (req : ReqRef) (code : BitVec 4) : Statement (.nackResend core req code) := of_none rfl
theorem dormantRetry (core : CoreNum) (req : ReqRef) : Statement (.dormantRetry core req) := of_none rfl
theorem fabricRequest (r : FabricReq) : Statement (.fabricRequest r) := of_none rfl
theorem refusedResponse (core : CoreNum) (req : ReqRef) : Statement (.refusedResponse core req) := of_none rfl
theorem fabricLinkTrained (port : BitVec 6) : Statement (.fabricLinkTrained port) := of_none rfl
theorem fabportWrite (by_ : Writer) (port : BitVec 6) (v : BitVec 32) : Statement (.fabportWrite by_ port v) := of_none rfl
theorem modidWrite (by_ : Writer) (v : BitVec 32) : Statement (.modidWrite by_ v) := of_none rfl
theorem cxlLinkLoss (port : BitVec 1) : Statement (.cxlLinkLoss port) := of_none rfl
theorem backInvalidationSnoop (line : Snoop) : Statement (.backInvalidationSnoop line) := of_none rfl
theorem poolqWriteBack (by_ : Writer) (v : BitVec 64) : Statement (.poolqWriteBack by_ v) := of_none rfl
theorem poolqDiscard (by_ : Writer) (v : BitVec 64) : Statement (.poolqDiscard by_ v) := of_none rfl
theorem poolqDone : Statement .poolqDone := of_none rfl
theorem hostWindowAccess (part : PartNum) (off : BitVec 36) (acc : HostAcc) (tbit : Bool) : Statement (.hostWindowAccess part off acc tbit) := of_none rfl
theorem untaggedTlp (part : PartNum) (write : Bool) : Statement (.untaggedTlp part write) := of_none rfl
theorem launchPortWrite (off : BitVec 15) (bytes : List (BitVec 8)) : Statement (.launchPortWrite off bytes) := of_none rfl
theorem launchMessage (env : List (BitVec 8)) (pkt : List (BitVec 8)) : Statement (.launchMessage env pkt) := of_none rfl
theorem launchReportMessage (msg : List (BitVec 8)) : Statement (.launchReportMessage msg) := of_none rfl
theorem admission (part : PartNum) : Statement (.admission part) := of_none rfl
theorem dispatch (part : PartNum) (core : CoreNum) : Statement (.dispatch part core) := of_none rfl
theorem quantumExpiry (core : CoreNum) : Statement (.quantumExpiry core) := of_none rfl
theorem agingStep (part : PartNum) (lid : BitVec 32) (sidx : Nat) : Statement (.agingStep part lid sidx) := of_none rfl
theorem longWaitSwap (core : CoreNum) : Statement (.longWaitSwap core) := of_none rfl
theorem pfdoneRetry (by_ : Writer) (part : PartNum) (v : BitVec 64) : Statement (.pfdoneRetry by_ part v) := of_none rfl
theorem pfdoneTrap (by_ : Writer) (part : PartNum) (v : BitVec 64) : Statement (.pfdoneTrap by_ part v) := of_none rfl
theorem schedkill (by_ : Writer) (part : PartNum) (v : BitVec 64) : Statement (.schedkill by_ part v) := of_none rfl
theorem evqbaseWrite (by_ : Writer) (part : PartNum) (v : BitVec 64) : Statement (.evqbaseWrite by_ part v) := of_none rfl
theorem grovepwrWrite (by_ : Writer) (grove : GroveNum) (v : BitVec 64) : Statement (.grovepwrWrite by_ grove v) := of_none rfl
theorem thermChange (grove : GroveNum) (level : BitVec 2) (reading : BitVec 64) : Statement (.thermChange grove level reading) := of_none rfl
theorem droopTrip (grove : GroveNum) (cycles : Trip) : Statement (.droopTrip grove cycles) := of_none rfl
theorem droopWindowEnd (grove : GroveNum) : Statement (.droopWindowEnd grove) := of_none rfl
theorem rowIdleTimer (stack : BitVec 3) (bank : Nat) (hitQueued : Bool) : Statement (.rowIdleTimer stack bank hitQueued) := of_none rfl
theorem invalidate (by_ : Writer) (part : PartNum) (v : BitVec 64) : Statement (.invalidate by_ part v) := of_none rfl
theorem invalidateAll (by_ : Writer) (part : PartNum) (v : BitVec 64) : Statement (.invalidateAll by_ part v) := of_none rfl
theorem invalidateFlush (by_ : Writer) (part : PartNum) (v : BitVec 64) : Statement (.invalidateFlush by_ part v) := of_none rfl
theorem invalidationComplete (part : PartNum) : Statement (.invalidationComplete part) := of_none rfl
theorem hotnessWindow (part : PartNum) (lid : BitVec 32) (range : BitVec 6) (misses : BitVec 32) : Statement (.hotnessWindow part lid range misses) := of_none rfl
theorem migrationGo (by_ : Writer) (part : PartNum) (v : BitVec 64) : Statement (.migrationGo by_ part v) := of_none rfl
theorem migrationSwitch (part : PartNum) : Statement (.migrationSwitch part) := of_none rfl
theorem migrationDone (part : PartNum) : Statement (.migrationDone part) := of_none rfl
theorem migrationAborted (part : PartNum) (lost : Bool) : Statement (.migrationAborted part lost) := of_none rfl
theorem partctlWrite (by_ : Writer) (part : PartNum) (v : BitVec 64) : Statement (.partctlWrite by_ part v) := of_none rfl
theorem partitionTeardown (by_ : Writer) (part : PartNum) (v : BitVec 64) : Statement (.partitionTeardown by_ part v) := of_none rfl
theorem groveChangeDone (part : PartNum) : Statement (.groveChangeDone part) := of_none rfl
theorem cfgselWrite (by_ : Writer) (part : PartNum) (v : BitVec 64) : Statement (.cfgselWrite by_ part v) := of_none rfl
theorem cfgdataWrite (by_ : Writer) (part : PartNum) (v : BitVec 64) : Statement (.cfgdataWrite by_ part v) := of_none rfl
theorem ownerChange (by_ : Writer) (v : BitVec 64) : Statement (.ownerChange by_ v) := of_none rfl
theorem ownerChangeDone : Statement .ownerChangeDone := of_none rfl
theorem lockInterface (part : PartNum) : Statement (.lockInterface part) := of_none rfl
theorem getDeviceInterfaceReport (part : PartNum) : Statement (.getDeviceInterfaceReport part) := of_none rfl
theorem startInterface (part : PartNum) : Statement (.startInterface part) := of_none rfl
theorem stopInterface (part : PartNum) : Statement (.stopInterface part) := of_none rfl
theorem keyset (part : PartNum) (slot : BitVec 8) (lid : BitVec 32) (digest key : BitVec 256) : Statement (.keyset part slot lid digest key) := of_none rfl
theorem ownset (part : PartNum) (entry : BitVec 8) (base : BitVec 52) (units : BitVec 32) (lid : BitVec 32) : Statement (.ownset part entry base units lid) := of_none rfl
theorem keyclr (part : PartNum) (range : Bool) (index : BitVec 8) : Statement (.keyclr part range index) := of_none rfl
theorem spdmRequest (code : BitVec 8) (payload : List (BitVec 8)) : Statement (.spdmRequest code payload) := of_none rfl
theorem ideKm (stream : BitVec 4) (key : BitVec 256) : Statement (.ideKm stream key) := of_none rfl
theorem elideSet (by_ : Writer) (v : BitVec 64) : Statement (.elideSet by_ v) := of_none rfl
theorem elideClear (by_ : Writer) (v : BitVec 64) : Statement (.elideClear by_ v) := of_none rfl
theorem checkpointBoundary (part : PartNum) (full : Bool) : Statement (.checkpointBoundary part full) := of_none rfl
theorem rollback (part : PartNum) (lid : BitVec 32) (sidx : Nat) : Statement (.rollback part lid sidx) := of_none rfl
theorem powerFailWarning (shelf : Bool) : Statement (.powerFailWarning shelf) := of_none rfl
theorem dormctlTest (by_ : Writer) (v : BitVec 64) : Statement (.dormctlTest by_ v) := of_none rfl
theorem dormctlDiscard (by_ : Writer) (v : BitVec 64) : Statement (.dormctlDiscard by_ v) := of_none rfl
theorem stopPhaseEnd : Statement .stopPhaseEnd := of_none rfl
theorem writeBackDone : Statement .writeBackDone := of_none rfl
theorem drainDone : Statement .drainDone := of_none rfl
theorem reserveAtSealres (units : Nat) : Statement (.reserveAtSealres units) := of_none rfl
theorem sealWritten : Statement .sealWritten := of_none rfl
theorem reserveSpent : Statement .reserveSpent := of_none rfl
theorem hardThermalTrip : Statement .hardThermalTrip := of_none rfl
theorem supplyLoss : Statement .supplyLoss := of_none rfl
theorem reserveCharged : Statement .reserveCharged := of_none rfl
theorem brownOutChange (level : BitVec 2) : Statement (.brownOutChange level) := of_none rfl
theorem brownFallHeld : Statement .brownFallHeld := of_none rfl
theorem dieShed (die : BitVec 2) : Statement (.dieShed die) := of_none rfl
theorem dieRestore (die : BitVec 2) : Statement (.dieRestore die) := of_none rfl
theorem cutTake (by_ : Writer) (v : BitVec 64) : Statement (.cutTake by_ v) := of_none rfl
theorem cutRestore (by_ : Writer) (v : BitVec 64) : Statement (.cutRestore by_ v) := of_none rfl
theorem cutAbort (by_ : Writer) (v : BitVec 64) : Statement (.cutAbort by_ v) := of_none rfl
theorem cutDone (reachable : Bool) : Statement (.cutDone reachable) := of_none rfl
theorem powerOn : Statement .powerOn := of_none rfl
theorem fundamentalReset : Statement .fundamentalReset := of_none rfl
theorem fullStart (by_ : Writer) (v : BitVec 64) : Statement (.fullStart by_ v) := of_none rfl
theorem startStep (res : StartResult) : Statement (.startStep res) := of_none rfl
theorem startTimeout : Statement .startTimeout := of_none rfl
theorem registerWrite (by_ : Writer) (off : BitVec 16) (wide : Bool) (v : BitVec 64) : Statement (.registerWrite by_ off wide v) := of_none rfl
theorem readClear (by_ : Writer) (bar2 : Bool) (off : BitVec 16) : Statement (.readClear by_ bar2 off) := of_none rfl
theorem cxlLinkTrained (port : BitVec 1) : Statement (.cxlLinkTrained port) := of_none rfl
theorem pageWaitRetry (core : CoreNum) (held : HeldRef) : Statement (.pageWaitRetry core held) := of_none rfl
theorem portModuleLosesValid (port : BitVec 6) : Statement (.portModuleLosesValid port) := of_none rfl
theorem auxiliarySupplyLoss : Statement .auxiliarySupplyLoss := of_none rfl

end NotHeader

/-- Every instruction. -/
theorem not_header_all (i : Instr) : NotHeader.Statement i := by
  cases i with
  | add => exact NotHeader.add _ _ _
  | sub => exact NotHeader.sub _ _ _
  | and => exact NotHeader.and _ _ _
  | or => exact NotHeader.or _ _ _
  | xor => exact NotHeader.xor _ _ _
  | andn => exact NotHeader.andn _ _ _
  | shl => exact NotHeader.shl _ _ _
  | shr => exact NotHeader.shr _ _ _
  | sra => exact NotHeader.sra _ _ _
  | rotr => exact NotHeader.rotr _ _ _
  | min => exact NotHeader.min _ _ _
  | max => exact NotHeader.max _ _ _
  | minu => exact NotHeader.minu _ _ _
  | maxu => exact NotHeader.maxu _ _ _
  | mul => exact NotHeader.mul _ _ _
  | mulh => exact NotHeader.mulh _ _ _
  | mulhu => exact NotHeader.mulhu _ _ _
  | ext => exact NotHeader.ext _ _ _
  | extu => exact NotHeader.extu _ _ _
  | ins => exact NotHeader.ins _ _ _
  | clz => exact NotHeader.clz _ _
  | ctz => exact NotHeader.ctz _ _
  | popc => exact NotHeader.popc _ _
  | brev => exact NotHeader.brev _ _
  | exti => exact NotHeader.exti _ _ _ _
  | extui => exact NotHeader.extui _ _ _ _
  | insi => exact NotHeader.insi _ _ _ _
  | cmpeq => exact NotHeader.cmpeq _ _ _
  | cmpne => exact NotHeader.cmpne _ _ _
  | cmplt => exact NotHeader.cmplt _ _ _
  | cmple => exact NotHeader.cmple _ _ _
  | cmpltu => exact NotHeader.cmpltu _ _ _
  | cmpleu => exact NotHeader.cmpleu _ _ _
  | sel => exact NotHeader.sel _ _ _
  | addi => exact NotHeader.addi _ _ _
  | andi => exact NotHeader.andi _ _ _
  | ori => exact NotHeader.ori _ _ _
  | xori => exact NotHeader.xori _ _ _
  | shli => exact NotHeader.shli _ _ _
  | shri => exact NotHeader.shri _ _ _
  | srai => exact NotHeader.srai _ _ _
  | rotri => exact NotHeader.rotri _ _ _
  | li => exact NotHeader.li _ _
  | liu => exact NotHeader.liu _ _ _
  | tagp => exact NotHeader.tagp _ _
  | tagc => exact NotHeader.tagc _ _
  | faddS => exact NotHeader.faddS _ _ _ _
  | fsubS => exact NotHeader.fsubS _ _ _ _
  | fmulS => exact NotHeader.fmulS _ _ _ _
  | fmaS => exact NotHeader.fmaS _ _ _ _
  | fminS => exact NotHeader.fminS _ _ _
  | fmaxS => exact NotHeader.fmaxS _ _ _
  | fabsS => exact NotHeader.fabsS _ _
  | fnegS => exact NotHeader.fnegS _ _
  | fcmpeqS => exact NotHeader.fcmpeqS _ _ _
  | fcmpltS => exact NotHeader.fcmpltS _ _ _
  | fcmpleS => exact NotHeader.fcmpleS _ _ _
  | fcmpunS => exact NotHeader.fcmpunS _ _ _
  | faddD => exact NotHeader.faddD _ _ _ _
  | fsubD => exact NotHeader.fsubD _ _ _ _
  | fmulD => exact NotHeader.fmulD _ _ _ _
  | fmaD => exact NotHeader.fmaD _ _ _ _
  | fminD => exact NotHeader.fminD _ _ _
  | fmaxD => exact NotHeader.fmaxD _ _ _
  | fabsD => exact NotHeader.fabsD _ _
  | fnegD => exact NotHeader.fnegD _ _
  | fcmpeqD => exact NotHeader.fcmpeqD _ _ _
  | fcmpltD => exact NotHeader.fcmpltD _ _ _
  | fcmpleD => exact NotHeader.fcmpleD _ _ _
  | fcmpunD => exact NotHeader.fcmpunD _ _ _
  | fcvt => exact NotHeader.fcvt _ _ _ _ _
  | br => exact NotHeader.br _
  | brz => exact NotHeader.brz _ _
  | brnz => exact NotHeader.brnz _ _
  | call => exact NotHeader.call _ _
  | chk => exact NotHeader.chk _ _
  | jr => exact NotHeader.jr _
  | ret => exact NotHeader.ret _
  | callr => exact NotHeader.callr _ _
  | movmWriteA => exact NotHeader.movmWriteA _ _
  | movmRead => exact NotHeader.movmRead _ _
  | trap => exact NotHeader.trap _
  | svc => exact NotHeader.svc _
  | csrrd => exact NotHeader.csrrd _ _
  | csrwr => exact NotHeader.csrwr _ _ _
  | csrset => exact NotHeader.csrset _ _ _
  | csrclr => exact NotHeader.csrclr _ _ _
  | segbeg => exact NotHeader.segbeg _
  | segend => exact NotHeader.segend _ _
  | lds => exact NotHeader.lds _ _ _ _ _
  | ldsx => exact NotHeader.ldsx _ _ _ _ _
  | sts => exact NotHeader.sts _ _ _ _ _ _
  | ldr => exact NotHeader.ldr _ _ _ _ _
  | ldrx => exact NotHeader.ldrx _ _ _ _ _
  | str => exact NotHeader.str _ _ _ _ _ _
  | ldg => exact NotHeader.ldg _ _ _ _ _
  | ldgx => exact NotHeader.ldgx _ _ _ _ _
  | stg => exact NotHeader.stg _ _ _ _ _ _
  | ldgs => exact NotHeader.ldgs _ _ _ _ _
  | ldgsx => exact NotHeader.ldgsx _ _ _ _ _
  | ldk => exact NotHeader.ldk _ _ _ _
  | atsAdd => exact NotHeader.atsAdd _ _ _ _ _
  | atsSwap => exact NotHeader.atsSwap _ _ _ _ _
  | atsCas => exact NotHeader.atsCas _ _ _ _ _ _
  | atsAnd => exact NotHeader.atsAnd _ _ _ _ _
  | atsOr => exact NotHeader.atsOr _ _ _ _ _
  | atsXor => exact NotHeader.atsXor _ _ _ _ _
  | atsSmin => exact NotHeader.atsSmin _ _ _ _ _
  | atsSmax => exact NotHeader.atsSmax _ _ _ _ _
  | atrAdd => exact NotHeader.atrAdd _ _ _ _ _
  | atrSwap => exact NotHeader.atrSwap _ _ _ _ _
  | atrCas => exact NotHeader.atrCas _ _ _ _ _ _
  | atrAnd => exact NotHeader.atrAnd _ _ _ _ _
  | atrOr => exact NotHeader.atrOr _ _ _ _ _
  | atrXor => exact NotHeader.atrXor _ _ _ _ _
  | atrSmin => exact NotHeader.atrSmin _ _ _ _ _
  | atrSmax => exact NotHeader.atrSmax _ _ _ _ _
  | atgAdd => exact NotHeader.atgAdd _ _ _ _ _
  | atgSwap => exact NotHeader.atgSwap _ _ _ _ _
  | atgCas => exact NotHeader.atgCas _ _ _ _ _ _
  | atgAnd => exact NotHeader.atgAnd _ _ _ _ _
  | atgOr => exact NotHeader.atgOr _ _ _ _ _
  | atgXor => exact NotHeader.atgXor _ _ _ _ _
  | atgSmin => exact NotHeader.atgSmin _ _ _ _ _
  | atgSmax => exact NotHeader.atgSmax _ _ _ _ _
  | fence => exact NotHeader.fence _
  | acq => exact NotHeader.acq _ _
  | rel => exact NotHeader.rel _ _ _
  | ringset => exact NotHeader.ringset _ _
  | rneed => exact NotHeader.rneed _ _
  | rfree => exact NotHeader.rfree _ _
  | radv => exact NotHeader.radv _ _
  | rpub => exact NotHeader.rpub _ _
  | rrd => exact NotHeader.rrd _ _
  | winset => exact NotHeader.winset _ _
  | winadv => exact NotHeader.winadv _ _
  | mapset => exact NotHeader.mapset _ _
  | mapflush => exact NotHeader.mapflush _
  | mapinv => exact NotHeader.mapinv _
  | mcfill => exact NotHeader.mcfill _ _ _ _
  | wbl => exact NotHeader.wbl _ _
  | invl => exact NotHeader.invl _ _
  | wbinvl => exact NotHeader.wbinvl _ _
  | qcopy => exact NotHeader.qcopy _ _ _ _
  | qgath => exact NotHeader.qgath _ _ _ _ _
  | qscat => exact NotHeader.qscat _ _ _ _ _
  | qfill => exact NotHeader.qfill _ _ _ _
  | qdec => exact NotHeader.qdec _ _ _ _
  | qenc => exact NotHeader.qenc _ _ _ _
  | qcoll => exact NotHeader.qcoll _ _ _ _
  | qjoin => exact NotHeader.qjoin _ _ _ _
  | qsig => exact NotHeader.qsig _ _
  | qstat => exact NotHeader.qstat _ _ _
  | movmWriteB => exact NotHeader.movmWriteB _ _
  | vadd => exact NotHeader.vadd _ _ _ _ _ _
  | vsub => exact NotHeader.vsub _ _ _ _ _ _
  | vmul => exact NotHeader.vmul _ _ _ _ _ _
  | vfma => exact NotHeader.vfma _ _ _ _ _ _
  | vmin => exact NotHeader.vmin _ _ _ _ _
  | vmax => exact NotHeader.vmax _ _ _ _ _
  | vabs => exact NotHeader.vabs _ _ _ _ _
  | vneg => exact NotHeader.vneg _ _ _ _ _
  | vcmpeq => exact NotHeader.vcmpeq _ _ _ _ _
  | vcmpne => exact NotHeader.vcmpne _ _ _ _ _
  | vcmplt => exact NotHeader.vcmplt _ _ _ _ _
  | vcmple => exact NotHeader.vcmple _ _ _ _ _
  | vsel => exact NotHeader.vsel _ _ _ _
  | vexp2 => exact NotHeader.vexp2 _ _ _ _
  | vlog2 => exact NotHeader.vlog2 _ _ _ _
  | vrcp => exact NotHeader.vrcp _ _ _ _
  | vrsq => exact NotHeader.vrsq _ _ _ _
  | vsin => exact NotHeader.vsin _ _ _ _
  | vcos => exact NotHeader.vcos _ _ _ _
  | vtanh => exact NotHeader.vtanh _ _ _ _
  | vsigm => exact NotHeader.vsigm _ _ _ _
  | vand => exact NotHeader.vand _ _ _ _
  | vor => exact NotHeader.vor _ _ _ _
  | vxor => exact NotHeader.vxor _ _ _ _
  | vandn => exact NotHeader.vandn _ _ _ _
  | vnot => exact NotHeader.vnot _ _ _
  | vshl => exact NotHeader.vshl _ _ _ _ _
  | vshr => exact NotHeader.vshr _ _ _ _ _
  | vsra => exact NotHeader.vsra _ _ _ _ _
  | vrotl => exact NotHeader.vrotl _ _ _ _ _
  | vcvt => exact NotHeader.vcvt _ _ _ _ _
  | vpack => exact NotHeader.vpack _ _ _ _ _
  | vunpkl => exact NotHeader.vunpkl _ _ _ _
  | vunpkh => exact NotHeader.vunpkh _ _ _ _
  | vperm => exact NotHeader.vperm _ _ _ _
  | vbcast => exact NotHeader.vbcast _ _ _ _
  | vslideup => exact NotHeader.vslideup _ _ _ _
  | vslidedn => exact NotHeader.vslidedn _ _ _ _
  | vrev => exact NotHeader.vrev _ _ _
  | vsplat => exact NotHeader.vsplat _ _ _
  | vscani => exact NotHeader.vscani _ _ _ _
  | vscanx => exact NotHeader.vscanx _ _ _ _
  | vscanmax => exact NotHeader.vscanmax _ _ _ _
  | vscanmin => exact NotHeader.vscanmin _ _ _ _
  | vredadd => exact NotHeader.vredadd _ _ _ _
  | vredmin => exact NotHeader.vredmin _ _ _ _
  | vredmax => exact NotHeader.vredmax _ _ _ _
  | vredand => exact NotHeader.vredand _ _ _ _
  | vredor => exact NotHeader.vredor _ _ _ _
  | vredxor => exact NotHeader.vredxor _ _ _ _
  | kand => exact NotHeader.kand _ _ _
  | kor => exact NotHeader.kor _ _ _
  | kxor => exact NotHeader.kxor _ _ _
  | kandn => exact NotHeader.kandn _ _ _
  | knot => exact NotHeader.knot _ _
  | kpop => exact NotHeader.kpop _ _
  | kfirst => exact NotHeader.kfirst _ _
  | kfromv => exact NotHeader.kfromv _ _
  | ktov => exact NotHeader.ktov _ _
  | vlds => exact NotHeader.vlds _ _ _
  | vldsp => exact NotHeader.vldsp _ _ _
  | vsts => exact NotHeader.vsts _ _ _
  | vgath => exact NotHeader.vgath _ _ _ _
  | vscat => exact NotHeader.vscat _ _ _ _
  | vrrd => exact NotHeader.vrrd _ _ _
  | vatomadd => exact NotHeader.vatomadd _ _ _ _
  | movmWriteC => exact NotHeader.movmWriteC _ _ _
  | mma => exact NotHeader.mma _ _ _ _ _
  | mmab => exact NotHeader.mmab _ _ _ _ _
  | bload => exact NotHeader.bload _ _
  | bclr => exact NotHeader.bclr _
  | fmtw => exact NotHeader.fmtw _ _
  | dzero => exact NotHeader.dzero _
  | dmov => exact NotHeader.dmov _ _
  | dadd => exact NotHeader.dadd _ _ _
  | dscl => exact NotHeader.dscl _ _
  | dcvt => exact NotHeader.dcvt _ _ _ _
  | drd => exact NotHeader.drd _ _ _
  | dwr => exact NotHeader.dwr _ _ _
  | mstat => exact NotHeader.mstat _ _
  | phnew => exact NotHeader.phnew _ _ _
  | phreg => exact NotHeader.phreg _ _
  | phdrop => exact NotHeader.phdrop _
  | phsig => exact NotHeader.phsig _
  | phwait => exact NotHeader.phwait _
  | phsw => exact NotHeader.phsw _
  | phqry => exact NotHeader.phqry _ _ _
  | launch => exact NotHeader.launch _
  | lease => exact NotHeader.lease _
  | movmWriteD => exact NotHeader.movmWriteD _ _
  | swpt => exact NotHeader.swpt _
  | nop => exact NotHeader.nop
  | rft => exact NotHeader.rft
  | halt => exact NotHeader.halt
  | ifence => exact NotHeader.ifence
  | tend => exact NotHeader.tend
  | taskend => exact NotHeader.taskend
  | leaserel => exact NotHeader.leaserel
  | bundleIssue => exact NotHeader.bundleIssue _
  | acqPoll => exact NotHeader.acqPoll _
  | windowRowArrival => exact NotHeader.windowRowArrival _ _
  | mapFill => exact NotHeader.mapFill _ _ _
  | queueUnitDone => exact NotHeader.queueUnitDone _ _ _
  | queueEntryComplete => exact NotHeader.queueEntryComplete _ _
  | collectiveContribution => exact NotHeader.collectiveContribution _ _ _ _ _
  | groupTimeout => exact NotHeader.groupTimeout _ _
  | mmaDeliveryEnd => exact NotHeader.mmaDeliveryEnd _
  | phaseComplete => exact NotHeader.phaseComplete _ _
  | phaseAnnounce => exact NotHeader.phaseAnnounce _ _ _ _ _
  | leaseDecision => exact NotHeader.leaseDecision _
  | leaseExpiry => exact NotHeader.leaseExpiry _
  | slewStep => exact NotHeader.slewStep _
  | loadComplete => exact NotHeader.loadComplete _ _ _ _
  | writeAcknowledged => exact NotHeader.writeAcknowledged _ _
  | requestTimeout => exact NotHeader.requestTimeout _ _
  | nackResend => exact NotHeader.nackResend _ _ _
  | dormantRetry => exact NotHeader.dormantRetry _ _
  | fabricRequest => exact NotHeader.fabricRequest _
  | refusedResponse => exact NotHeader.refusedResponse _ _
  | fabricLinkTrained => exact NotHeader.fabricLinkTrained _
  | fabportWrite => exact NotHeader.fabportWrite _ _ _
  | modidWrite => exact NotHeader.modidWrite _ _
  | cxlLinkLoss => exact NotHeader.cxlLinkLoss _
  | backInvalidationSnoop => exact NotHeader.backInvalidationSnoop _
  | poolqWriteBack => exact NotHeader.poolqWriteBack _ _
  | poolqDiscard => exact NotHeader.poolqDiscard _ _
  | poolqDone => exact NotHeader.poolqDone
  | hostWindowAccess => exact NotHeader.hostWindowAccess _ _ _ _
  | untaggedTlp => exact NotHeader.untaggedTlp _ _
  | launchPortWrite => exact NotHeader.launchPortWrite _ _
  | launchMessage => exact NotHeader.launchMessage _ _
  | launchReportMessage => exact NotHeader.launchReportMessage _
  | admission => exact NotHeader.admission _
  | dispatch => exact NotHeader.dispatch _ _
  | quantumExpiry => exact NotHeader.quantumExpiry _
  | agingStep => exact NotHeader.agingStep _ _ _
  | longWaitSwap => exact NotHeader.longWaitSwap _
  | pfdoneRetry => exact NotHeader.pfdoneRetry _ _ _
  | pfdoneTrap => exact NotHeader.pfdoneTrap _ _ _
  | schedkill => exact NotHeader.schedkill _ _ _
  | evqbaseWrite => exact NotHeader.evqbaseWrite _ _ _
  | grovepwrWrite => exact NotHeader.grovepwrWrite _ _ _
  | thermChange => exact NotHeader.thermChange _ _ _
  | droopTrip => exact NotHeader.droopTrip _ _
  | droopWindowEnd => exact NotHeader.droopWindowEnd _
  | rowIdleTimer => exact NotHeader.rowIdleTimer _ _ _
  | invalidate => exact NotHeader.invalidate _ _ _
  | invalidateAll => exact NotHeader.invalidateAll _ _ _
  | invalidateFlush => exact NotHeader.invalidateFlush _ _ _
  | invalidationComplete => exact NotHeader.invalidationComplete _
  | hotnessWindow => exact NotHeader.hotnessWindow _ _ _ _
  | migrationGo => exact NotHeader.migrationGo _ _ _
  | migrationSwitch => exact NotHeader.migrationSwitch _
  | migrationDone => exact NotHeader.migrationDone _
  | migrationAborted => exact NotHeader.migrationAborted _ _
  | partctlWrite => exact NotHeader.partctlWrite _ _ _
  | partitionTeardown => exact NotHeader.partitionTeardown _ _ _
  | groveChangeDone => exact NotHeader.groveChangeDone _
  | cfgselWrite => exact NotHeader.cfgselWrite _ _ _
  | cfgdataWrite => exact NotHeader.cfgdataWrite _ _ _
  | ownerChange => exact NotHeader.ownerChange _ _
  | ownerChangeDone => exact NotHeader.ownerChangeDone
  | lockInterface => exact NotHeader.lockInterface _
  | getDeviceInterfaceReport => exact NotHeader.getDeviceInterfaceReport _
  | startInterface => exact NotHeader.startInterface _
  | stopInterface => exact NotHeader.stopInterface _
  | keyset => exact NotHeader.keyset _ _ _ _ _
  | ownset => exact NotHeader.ownset _ _ _ _ _
  | keyclr => exact NotHeader.keyclr _ _ _
  | spdmRequest => exact NotHeader.spdmRequest _ _
  | ideKm => exact NotHeader.ideKm _ _
  | elideSet => exact NotHeader.elideSet _ _
  | elideClear => exact NotHeader.elideClear _ _
  | checkpointBoundary => exact NotHeader.checkpointBoundary _ _
  | rollback => exact NotHeader.rollback _ _ _
  | powerFailWarning => exact NotHeader.powerFailWarning _
  | dormctlTest => exact NotHeader.dormctlTest _ _
  | dormctlDiscard => exact NotHeader.dormctlDiscard _ _
  | stopPhaseEnd => exact NotHeader.stopPhaseEnd
  | writeBackDone => exact NotHeader.writeBackDone
  | drainDone => exact NotHeader.drainDone
  | reserveAtSealres => exact NotHeader.reserveAtSealres _
  | sealWritten => exact NotHeader.sealWritten
  | reserveSpent => exact NotHeader.reserveSpent
  | hardThermalTrip => exact NotHeader.hardThermalTrip
  | supplyLoss => exact NotHeader.supplyLoss
  | reserveCharged => exact NotHeader.reserveCharged
  | brownOutChange => exact NotHeader.brownOutChange _
  | brownFallHeld => exact NotHeader.brownFallHeld
  | dieShed => exact NotHeader.dieShed _
  | dieRestore => exact NotHeader.dieRestore _
  | cutTake => exact NotHeader.cutTake _ _
  | cutRestore => exact NotHeader.cutRestore _ _
  | cutAbort => exact NotHeader.cutAbort _ _
  | cutDone => exact NotHeader.cutDone _
  | powerOn => exact NotHeader.powerOn
  | fundamentalReset => exact NotHeader.fundamentalReset
  | fullStart => exact NotHeader.fullStart _ _
  | startStep => exact NotHeader.startStep _
  | startTimeout => exact NotHeader.startTimeout
  | registerWrite => exact NotHeader.registerWrite _ _ _ _
  | readClear => exact NotHeader.readClear _ _ _
  | cxlLinkTrained => exact NotHeader.cxlLinkTrained _
  | pageWaitRetry => exact NotHeader.pageWaitRetry _ _
  | portModuleLosesValid => exact NotHeader.portModuleLosesValid _
  | auxiliarySupplyLoss => exact NotHeader.auxiliarySupplyLoss

end Sys2Proof.Laws
end

