-- ==== Sys2Proof/Tests/Slice0.lean ====
section
/-!
SUPPORT. Small tests: words written out from the spec's encodings, what the checks of WellFormed refuse, single steps whose
results the spec's examples give, and for each statement with hypotheses a state and operands that meet them.
-/

set_option Elab.async false

namespace Sys2Proof.Tests

open Sys2Proof.Machine

/-! ## Decoding: words from the spec's own encodings -/

/-- What a word of a slot stands for. -/
def reads (sl : Slot) (w : BitVec 32) (i : Instr) : Prop := decodeSlot Config.caps sl w = some i

/-- Slot A, arithmetic and fields (R55, R125, R127, R128, the examples of chapter 7). -/
theorem test_decode_alu : reads .a 0x04611000 (.add 3 1 2) ∧ reads .a 0x3C21CDEF (.liu 1 1 0xCDEF) ∧
    reads .a 0x10E111D0 (.extui 7 1 7 16) ∧ reads .a 0x104321F8 (.insi 2 3 7 56) ∧ reads .a 0x302100BF (.srai 1 1 63) ∧
    reads .a 0x248200FF (.andi 4 2 0xFF) ∧ reads .a 0x202AFFFF (.addi 1 10 0xFFFF) := by
  unfold reads; decide +kernel
/-- Slot A, floating point and MOVM (R133, R141). -/
theorem test_decode_float : reads .a 0x60853013 (.fmaS 4 5 6 1) ∧ reads .a 0xB4970005 (.movmRead 4 5) := by
  unfold reads; decide +kernel
/-- Slot A, control (R136, R139, R140). -/
theorem test_decode_control : reads .a 0x9080000C (.chk 4 12) ∧ reads .a 0x8DE00050 (.call 15 0x50) ∧
    reads .a 0xA2EFB801 (.ret 15) ∧ reads .a 0x89DFFFE6 (.brnz 14 0x1FFFE6) ∧ reads .a 0x8540000F (.brz 10 15) := by
  unfold reads; decide +kernel
/-- Slot A, control registers (R435). -/
theorem test_decode_csr : reads .a 0xCC370011 (.csrrd 1 0x011) ∧ reads .a 0xCEE41001 (.csrwr 23 4 0x001) ∧
    reads .a 0xCEE33011 (.csrclr 23 3 0x011) := by
  unfold reads; decide +kernel
/-- Slot B, accesses (R72, R73, R264, R291). -/
theorem test_decode_access : reads .b 0x04820C02 (.lds 4 2 0 3 2) ∧ reads .b 0x28A12C08 (.stg 5 1 0 2 3 8) ∧
    reads .b 0x28A10C00 (.stg 5 1 0 0 3 0) ∧ reads .b 0x0CC18C00 (.sts 6 1 1 0 3 0) ∧
    reads .b 0x5844340A (.atgCas 2 4 6 1 0 1) ∧ reads .b 0x34940000 (.ldk 4 20 0 0) := by
  unfold reads; decide +kernel
/-- Slot B, ordering and rings (R269-R277). -/
theorem test_decode_order : reads .b 0x62F7B830 (.fence 3) ∧ reads .b 0x62E7B831 (.acq 7 3) ∧ reads .b 0x62E7BC32 (.rel 7 1 3) ∧
    reads .b 0x72E5B904 (.rpub 5 2) ∧ reads .b 0x7097B905 (.rrd 4 2) ∧ reads .b 0x72E5B903 (.radv 5 2) := by
  unfold reads; decide +kernel
/-- Slot B, queues (R291). -/
theorem test_decode_queue : reads .b 0xA0C57B80 (.qcopy 3 2 23 0) ∧ reads .b 0xA0C574C0 (.qcopy 3 2 9 1) ∧
    reads .b 0xA0043B81 (.qgath 0 2 3 23 0) ∧ reads .b 0xA0497B87 (.qjoin 1 4 23 0) ∧ reads .b 0xA0AF74C8 (.qsig 2 9) ∧
    reads .b 0xA00B7B89 (.qstat 0 5 23) := by
  unfold reads; decide +kernel
/-- Slot C (R58, R74, R156, R161, R163, R170). -/
theorem test_decode_vector : reads .c 0x04A63860 (.vadd 5 6 7 0 6 0) ∧ reads .c 0x40C29680 (.vcvt 6 2 9 6 4) ∧
    reads .c 0x6441B860 (.vredadd 2 1 0 6) ∧ reads .c 0xAC811A00 (.vatomadd 4 1 3 2) ∧ reads .c 0x9061FFFC (.vlds 3 1 0xFFFC) := by
  unfold reads; decide +kernel
/-- Slot D (R77, R78, R177). -/
theorem test_decode_matrix : reads .d 0x1AF70000 (.fmtw 0 0) ∧ reads .d 0x0474B800 (.mma 3 20 0 0 0) ∧
    reads .d 0x0454B80D (.mma 2 20 1 1 1) ∧ reads .d 0x08B4B80F (.mmab 5 20 1 1 3) ∧ reads .d 0x12F4B802 (.bload 20 2) ∧
    reads .d 0x2C3700EC (.dscl 1 0xEC) ∧ reads .d 0x3041B800 (.dcvt 2 1 0 0) ∧ reads .d 0x3604A000 (.drd 16 4 20) ∧
    reads .d 0x3E17B801 (.mstat 16 1) := by
  unfold reads; decide +kernel
/-- Slot D, phasers (the example of chapter 21: p0 serves slot D, so m6 stands as 20). -/
theorem test_decode_phaser : reads .d 0x82F4B805 (.phsw 20) ∧ reads .d 0x82F4B821 (.phreg 20 2) ∧ reads .d 0x8214A800 (.phnew 16 20 21) := by
  unfold reads; decide +kernel
/-- The word 0 is NOP in every slot (R29). -/
theorem test_decode_nop : reads .a 0 .nop ∧ reads .b 0 .nop ∧ reads .c 0 .nop ∧ reads .d 0 .nop := by
  unfold reads; decide +kernel

/-! ## WellFormed: an ill-formed term for each check -/

/-- A well-formed instruction. -/
theorem test_wf_add : (Instr.add 3 1 2).wf = true := by decide +kernel
/-- Slot A: a destination of 20, a source of 21, a register that is read and written at 17, CHK of zero (R32, R136). -/
theorem test_wf_slot_a : (Instr.add 20 1 2).wf = false ∧ (Instr.add 3 21 2).wf = false ∧ (Instr.fmaS 17 1 2 0).wf = false ∧
    (Instr.chk 23 0).wf = false ∧ (Instr.addi 24 0 0).wf = false := by decide +kernel
/-- Slot B: a fixed-latency destination of 17, a scoreboarded one of 16, a compare operand of 18 (R32, R258). -/
theorem test_wf_slot_b : (Instr.lds 17 2 0 3 2).wf = false ∧ (Instr.ldg 16 2 0 3 2).wf = false ∧
    (Instr.atgCas 2 4 25 1 0 1).wf = false ∧ (Instr.atgAdd 18 4 1 0 1).wf = false ∧ (Instr.rrd 17 2).wf = false := by decide +kernel
/-- Slot C: sources, destinations, masks and types (R74, R144, R162). -/
theorem test_wf_slot_c : (Instr.vadd 17 6 7 0 6 0).wf = false ∧ (Instr.vadd 5 20 7 0 6 0).wf = false ∧
    (Instr.vadd 5 6 7 0 9 0).wf = false ∧ (Instr.vfma 16 6 7 0 6 0).wf = false ∧ (Instr.kand 8 0 0).wf = false ∧
    (Instr.kpop 23 0).wf = false ∧ (Instr.vscani 5 6 0 12).wf = false := by decide +kernel
/-- Slot D: tiles, scalar positions, formats (R77, R78). -/
theorem test_wf_slot_d : (Instr.dzero 8).wf = false ∧ (Instr.dmov 1 9).wf = false ∧ (Instr.mma 1 15 0 0 0).wf = false ∧
    (Instr.drd 17 4 20).wf = false ∧ (Instr.movmWriteD 20 3).wf = false ∧ (Instr.fmtw 12 0).wf = false ∧
    (Instr.fmtw 5 0).wf = false ∧ (Instr.mstat 16 4).wf = false := by decide +kernel
/-- The other fields: a conversion to its own type, an unknown control register, a reserved scope, a completion operand without its
bit, a type that a form does not take, a mode (R62). -/
theorem test_wf_fields : (Instr.fcvt 1 2 0 4 4).wf = false ∧ (Instr.csrrd 1 0x006).wf = false ∧ (Instr.fence 6).wf = false ∧
    (Instr.qcopy 3 2 9 0).wf = false ∧ (Instr.vabs 1 2 0 1 0).wf = false ∧ (Instr.vexp2 1 2 0 0).wf = false ∧
    (Instr.vshl 1 2 3 0 6).wf = false ∧ (Instr.vpack 1 2 3 0 0).wf = false ∧ (Instr.vunpkl 1 2 0 4).wf = false ∧
    (Instr.vcvt 1 2 9 9 0).wf = false ∧ (Instr.dcvt 1 2 1 1).wf = false ∧ (Instr.phreg 20 3).wf = false := by decide +kernel
/-- Ports above 35 do not exist (R308). -/
theorem test_wf_port : (Instr.fabricLinkTrained 36).wf = false ∧ (Instr.fabportWrite .host 36 0).wf = false ∧
    (Instr.portModuleLosesValid 36).wf = false := by decide +kernel
/-- Messages have their lengths (R344, R345). -/
theorem test_wf_message : (Instr.launchMessage [] []).wf = false ∧ (Instr.launchReportMessage []).wf = false := by decide +kernel
/-- A host access has 1 to 64 bytes, a module's 1 to 256, and its atomics are aligned. -/
theorem test_wf_sizes : (Instr.hostWindowAccess 0 0 (.read 0) false).wf = false ∧ (Instr.hostWindowAccess 0 0 (.write []) false).wf = false ∧
    (Instr.fabricRequest ⟨0, 0, .read 257, false⟩).wf = false ∧ (Instr.fabricRequest ⟨0, 0, .write [] false true, false⟩).wf = false ∧
    (Instr.fabricRequest ⟨0, 4, .atomic .add true 1 0, false⟩).wf = false := by decide +kernel
/-- Registers are read and written at their alignment (R8). -/
theorem test_wf_register_offset : (Instr.registerWrite .host 4 true 0).wf = false ∧ (Instr.readClear .host true 2).wf = false := by
  decide +kernel

/-! ## Small states -/

/-- A bundle in issue, at a slot. -/
def issueAt (n : BitVec 2) (ports : List (BitVec 2 × TVal)) : Issue := ⟨0, 0, 0, 0, ports, n, none⟩
/-- After reset with a boot context on core 0, whose addresses are physical (R506), and a bundle in issue; `f` changes the context. -/
def running (slot : BitVec 2) (f : Ctx → Ctx) (ports : List (BitVec 2 × TVal) := []) : State :=
  { State.reset with cores := [(0, { Core.zero with
      busy := true
      ctx := f { Ctx.zero with
        boot := true
        kern := { Kernel.zero with spad := 0x10000 }
        task := { Thread.zero with issue := some (issueAt slot ports) } } })] }
/-- Registers of slot A. -/
def regsA (l : List (Fin 16 × BitVec 64)) (c : Ctx) : Ctx :=
  { c with task := { c.task with a := l.foldl (fun v p => v.set p.1 ⟨p.2, 0⟩) c.task.a } }
/-- Registers of slot B. -/
def regsB (l : List (Fin 16 × BitVec 64)) (c : Ctx) : Ctx :=
  { c with task := { c.task with b := l.foldl (fun v p => v.set p.1 ⟨p.2, 0⟩) c.task.b } }
/-- A vector register with some lanes. -/
def lanes (l : List (Fin 64 × BitVec 32)) : VReg :=
  { VReg.zero with lanes := l.foldl (fun v p => v.set p.1 p.2) VReg.zero.lanes }
/-- Registers of slot C. -/
def regsC (l : List (Fin 16 × VReg)) (c : Ctx) : Ctx :=
  { c with vec := { c.vec with c := l.foldl (fun v p => v.set p.1 p.2) c.vec.c } }
/-- What stands in the landing buffer of the outcome. -/
def landed (o : Out) : List (LDest × LVal × BitVec 7) :=
  match o with | .next t => t.thr.landing.map fun l => (l.dest, l.val, l.flags) | _ => []
/-- The lanes and flags of the vector result in it. -/
def vector (o : Out) (l : List (Fin 64)) : List (List (BitVec 32) × BitVec 64 × BitVec 7) :=
  match o with
  | .next t => t.thr.landing.filterMap fun x => match x.val with
    | .vec v act => some (l.map fun i => v.lanes[i], act, x.flags)
    | _ => none
  | _ => []
/-- Something of the next state. -/
def after {α : Type} (o : Out) (f : State → α) : Option α := match o with | .next t => some (f t) | _ => none
/-- The handler is in force on this task's partition (R429). -/
def handlerAt (v : BitVec 64) (s : State) : State := { s with parts := s.parts.set 0 { Part.zero with trapvec := v } }

/-! ## Single steps: slot A -/

/-- The last LIU of R127's example. -/
theorem test_liu : landed (exec (.liu 1 1 0xCDEF) (running 0 (regsA [(1, 0x0123456789AB)]))) =
    [(.a 1, .scalar ⟨0x0123456789ABCDEF, 0⟩, 0)] := by decide +kernel
/-- R128's example: a field without and with its sign. -/
theorem test_extui : landed (exec (.extui 7 1 7 16) (running 0 (regsA [(1, 0xA50000)]))) = [(.a 7, .scalar ⟨0xA5, 0⟩, 0)] := by
  decide +kernel
/-- The same field with its sign. -/
theorem test_exti : landed (exec (.exti 7 1 7 16) (running 0 (regsA [(1, 0xA50000)]))) =
    [(.a 7, .scalar ⟨0xFFFFFFFFFFFFFFA5, 0⟩, 0)] := by decide +kernel
/-- R133's example: 1 + 2^−12 × (2^−12 + 2^−23) toward zero is 1, with NX. -/
theorem test_fma_rz : landed (exec (.fmaS 4 5 6 1)
    (running 0 (regsA [(4, 0x3F800000), (5, 0x39800000), (6, 0x39801000)]))) = [(.a 4, .scalar ⟨0x3F800000, 0⟩, flNX)] := by
  decide +kernel
/-- The same to nearest is 1 + 2^−23. -/
theorem test_fma_rn : landed (exec (.fmaS 4 5 6 0)
    (running 0 (regsA [(4, 0x3F800000), (5, 0x39800000), (6, 0x39801000)]))) = [(.a 4, .scalar ⟨0x3F800001, 0⟩, flNX)] := by
  decide +kernel
/-- R134's example: 2.5 becomes 2 with NX, the canonical NaN 0 with NV. -/
theorem test_fcvt : landed (exec (.fcvt 4 5 0 0 4) (running 0 (regsA [(5, 0x40200000)]))) = [(.a 4, .scalar ⟨2, 0⟩, flNX)] ∧
    landed (exec (.fcvt 4 5 0 0 4) (running 0 (regsA [(5, 0x7FC00000)]))) = [(.a 4, .scalar ⟨0, 0⟩, flNV)] := by decide +kernel
/-- The same form: 3.0e9 becomes 0x7FFFFFFF with NV. -/
theorem test_fcvt_range : landed (exec (.fcvt 4 5 0 0 4) (running 0 (regsA [(5, 0x4F32D05E)]))) =
    [(.a 4, .scalar ⟨0x7FFFFFFF, 0⟩, flNV)] := by decide +kernel
/-- R138's example: CALL at PC 0x40 links to 0x44 and goes to 0x90. -/
theorem test_call : (let o := exec (.call 15 0x50) (running 0 fun c => { c with task := { c.task with pc := 0x40 } })
    landed o = [(.a 15, .scalar ⟨0x44, 0⟩, 0)] ∧ after o (·.thr.taken) = some (some 0x90)) := by decide +kernel
/-- TRAP's cause is 0x16 and its immediate the detail (R426, R433); the handler begins at trapvec (R429). -/
theorem test_trap : after (exec (.trap 7) (handlerAt 0x8000000000000123 (running 0 fun c => { c with boot := false })))
    (fun t => (t.ctx.inHandler, t.ctx.csr.cause, t.ctx.csr.tdet, t.ctx.hand.pc)) = some (true, 0x16, 7, 0x123) := by decide +kernel
/-- SVC's is 0x17. -/
theorem test_svc : after (exec (.svc 9) (handlerAt 0x8000000000000123 (running 0 fun c => { c with boot := false })))
    (fun t => (t.ctx.inHandler, t.ctx.csr.cause, t.ctx.csr.tdet)) = some (true, 0x17, 9) := by decide +kernel
/-- CRC-32C of 32 zero bytes is 0x8A9136AA (R194's example). -/
theorem test_crc : crcBytes 0xFFFFFFFF (List.replicate 32 0) ^^^ 0xFFFFFFFF = 0x8A9136AA := by decide +kernel
/-- R196's example: the segment of two zero bundles ends; with a wrong count its detail is what R197 gives. -/
theorem test_segend :
    after (exec (.segend 1 2) (running 0 fun c => { regsA [(1, 2), (2, 0x8A9136AA)] c with
      csr := { c.csr with segOpen := true, segnum := 1, segCount := 2, segCrc := 0x756EC955 } }))
      (fun t => t.ctx.csr.segOpen) = some false := by decide +kernel
/-- The detail of a wrong count. -/
theorem test_segment_detail : (let r : Csrs := { Csrs.zero with segOpen := true, segnum := 1, segCount := 2, segCrc := 0x756EC955 }
    r.segDetail (r.segReason ⟨3, 0⟩ ⟨0x8A9136AA, 0⟩) = 0x0001000400000002) := by decide +kernel

/-! ## Single steps: slot B and memory -/

/-- R277's example: RPUB of one row of the ring at 0x1000. -/
theorem test_rpub : after (exec (.rpub 5 2) (running 1 fun c => { regsB [(5, 1)] c with h := c.h.set 2 ⟨3, 1, 0x40, 0, 0, 0, 0, none⟩ }))
    (fun t => t.ctx.h[2]) = some ⟨3, 1, 0x40, 1, 0, 1, 0, none⟩ := by decide +kernel
/-- And RADV of it. -/
theorem test_radv : after (exec (.radv 5 2) (running 1 fun c => { regsB [(5, 1)] c with h := c.h.set 2 ⟨3, 1, 0x40, 1, 0, 1, 8, none⟩ }))
    (fun t => t.ctx.h[2]) = some ⟨3, 1, 0x40, 0, 1, 1, 0, none⟩ := by decide +kernel
/-- And the RRD between them: the ring's 8 bytes for b4, CURSOR 8. -/
theorem test_rrd : after (exec (.rrd 4 2) { running 1 (fun c => { c with h := c.h.set 2 ⟨3, 1, 0x40, 1, 0, 1, 0, none⟩ }) with
      cores := (running 1 (fun c => { c with h := c.h.set 2 ⟨3, 1, 0x40, 1, 0, 1, 0, none⟩ })).cores.map fun e =>
        (e.1, { e.2 with spad := [(0x1000, 0x55), (0x1007, 0x01)] }) })
    (fun t => (t.ctx.h[2].cursor, t.thr.board.map fun q => (q.dest, q.val))) =
    some (8, [(.b 4, .scalar ⟨0x0100000000000055, 0⟩)]) := by decide +kernel
/-- Rows of R207's example. -/
theorem test_window_rows : (let d : WinDesc := ⟨0x400000, 0x1000, 0x100000, 0, 4, 2, 1⟩
    [d.rowVa 0, d.rowVa 3, d.rowVa 4, d.rowVa 7].map (·.toNat) = [0x400000, 0x403000, 0x500000, 0x503000]) := by decide +kernel
/-- R396's example: VA 0x00623456 of a slab. -/
theorem test_slab : 0x10000000 + slabOffset 0x00000C2020000400 0x23456 = 0x10860456 ∧
    0x10000000 + slabTop 0x00000C2020000400 21 = 0x17DE0FFF := by decide +kernel
/-- R215's and R216's examples: a physical address's die, a pool address's region. -/
theorem test_address_map : siteOf 0x46000 = 1 ∧ regionOf 0x8001234567890 = 72 := by decide +kernel
/-- LDS extends with zeros, LDSX with the sign (R262). -/
theorem test_lds : (let s := { running 1 (regsB [(2, 0x100)]) with
        cores := (running 1 (regsB [(2, 0x100)])).cores.map fun e => (e.1, { e.2 with spad := [(0x102, 0xFE), (0x103, 0x80)] }) }
    landed (exec (.lds 4 2 0 1 1) s) = [(.b 4, .scalar ⟨0x80FE, 0⟩, 0)] ∧
    landed (exec (.ldsx 4 2 0 1 1) s) = [(.b 4, .scalar ⟨0xFFFFFFFFFFFF80FE, 0⟩, 0)]) := by decide +kernel
/-- STS puts the low bytes first (R5, R262). -/
theorem test_sts : after (exec (.sts 6 2 0 0 1 (-1)) (running 1 (regsB [(2, 0x100), (6, 0xABCD)])))
    (fun t => (t.core 0).spad) = some [(0xFE, 0xCD), (0xFF, 0xAB)] := by decide +kernel
/-- A misaligned scratchpad access traps with cause 0x07 and its address (R426; the example of chapter 27). -/
theorem test_misaligned : after (exec (.lds 4 2 0 3 0) (handlerAt 0x8000000000000123
      (running 1 fun c => { regsB [(2, 0x1004)] c with boot := false, task := { (regsB [(2, 0x1004)] c).task with pc := 0x200 } })))
    (fun t => (t.ctx.csr.cause, t.ctx.csr.sres, t.ctx.csr.tpc, t.ctx.csr.tdet)) = some (0x07, 1, 0x200, 0x1004) := by decide +kernel
/-- ATS.ADD answers the old word and stores the sum (R266). -/
theorem test_ats : after (exec (.atsAdd 4 2 0 0 0) { running 1 (regsB [(2, 0x100), (4, 3)]) with
      cores := (running 1 (regsB [(2, 0x100), (4, 3)])).cores.map fun e => (e.1, { e.2 with spad := [(0x100, 0xFF)] }) })
    (fun t => (t.thr.board.map fun q => (q.dest, q.val), (t.core 0).spad)) =
    some ([(.b 4, .scalar ⟨0xFF, 0⟩)], [(0x100, 2), (0x101, 1)]) := by decide +kernel
/-- A load of memory goes to the scoreboard (R42, R262). -/
theorem test_ldg : after (exec (.ldg 4 2 0 3 0) { running 1 (regsB [(2, 0x1000)]) with mem := ⟨[(0x1000, 1), (0x1007, 2)], [], [], []⟩ })
    (fun t => t.thr.board.map fun q => (q.dest, q.val)) = some [(.b 4, .scalar ⟨0x0200000000000001, 0⟩)] := by decide +kernel
/-- A speculative load of a page that is not there is deferred (R264). -/
theorem test_ldgs : after (exec (.ldgs 4 2 0 3 0) (running 1 fun c => { regsB [(2, 0x1000)] c with boot := false }))
    (fun t => t.thr.board.map fun q => (q.dest, q.val)) = some [(.b 4, .scalar ⟨0, 1⟩)] := by decide +kernel
/-- QCOPY of the example of chapter 15: the block's fields are copied at acceptance (R288, R293). -/
theorem test_qcopy : after (exec (.qcopy 3 2 23 0) { running 1 (regsB [(2, 0x2000)]) with
      cores := (running 1 (regsB [(2, 0x2000)])).cores.map fun e =>
        (e.1, { e.2 with spad := [(0x2001, 0x30), (0x200A, 0x40), (0x2011, 0x01), (0x2014, 0x20)] }) })
    (fun t => t.ctx.queues[3].entries.map fun e => (e.blk.dst, e.blk.src, e.blk.len, e.blk.dspace, e.blk.sspace)) =
    some [(0x3000, 0x400000, 0x100, 0, 2)] := by decide +kernel

/-! ## Single steps: slots C and D -/

/-- R149's example of saturation. -/
theorem test_vadd_sat : vector (exec (.vadd 1 2 3 0 4 1) (running 2 (regsC [(2, lanes [(5, 0x7F0180FE)]), (3, lanes [(5, 0x0101FF03)])])))
    [5, 0] = [([0x7F028001, 0], BitVec.allOnes 64, flSAT)] := by decide +kernel
/-- And of wrapping. -/
theorem test_vadd_wrap : vector (exec (.vadd 1 2 3 0 4 0) (running 2 (regsC [(2, lanes [(5, 0x7F0180FE)]), (3, lanes [(5, 0x0101FF03)])])))
    [5] = [([0x80027F01], BitVec.allOnes 64, 0)] := by decide +kernel
/-- R161's example: a reduction tree. -/
theorem test_vredadd : (vector (exec (.vredadd 2 1 0 6)
      (running 2 (regsC [(1, lanes [(0, 0x4B800000), (1, 0x3F800000), (2, 0x3F800000)])]))) [0]).map (fun x => (x.1, x.2.2)) =
    [([0x4B800000], flNX)] := by decide +kernel
/-- R156's example: a conversion to FP8 with stochastic rounding. -/
theorem test_vcvt : (vector (exec (.vcvt 6 2 9 6 4) (running 2 (regsC [(2, lanes [(0, 0x3F840000)])]))) [0, 16]).map (·.1) =
    [[0x39, 0]] := by decide +kernel
/-- R170's example: bases 16, 17, 17 and the word 19. -/
theorem test_vatomadd : after (exec (.vatomadd 4 1 3 2) { running 2 (fun c =>
      { regsC [(1, lanes [(0, 0x1000)]), (3, lanes [(0, 1), (1, 5), (3, 2)])] c with
        vec := { (regsC [(1, lanes [(0, 0x1000)]), (3, lanes [(0, 1), (1, 5), (3, 2)])] c).vec with k := c.vec.k.set 2 0xD } }) with
      mem := ⟨[(0x1000, 16)], [], [], []⟩ })
    (fun t => (t.mem.bytes, t.thr.board.map fun q => match q.val with
      | .vec v act => ([v.lanes[0], v.lanes[2], v.lanes[3]], act)
      | _ => ([], 0))) = some ([(0x1000, 19)], [([16, 17, 17], 0xD)]) := by decide +kernel
/-- R181's example: one rounding of the sum of three. -/
theorem test_mma_rounds_once : mmaFp32 (fp32.unpack 0x3F800000) (fp32.unpack 0x33800000) (fp32.unpack 0x33800000) = (0x3F800001, 0) := by
  decide +kernel
/-- R114's example: the aligned integers of a block and its top exponent's unit. -/
theorem test_alignment : (let b := alignBlock (matTy 0) false 0 false [(0x4040, false), (0xBDD0, false), (0xBCFF, false)]
    b.q = [384, -13, -3] ∧ b.unit = -7) := by decide +kernel
/-- R117's example: terms floored into an element of scale −20. -/
theorem test_fx_floor : (let e := (fxAdd (-20) Elem.zero (.fin false 23 (-3))).1
    let r := fxAdd (-20) e (.fin true 3 (-22))
    (e.pair, r.1.pair, r.2) = (3014656, 3014655, flNX)) := by decide +kernel
/-- FMTW reaches the latch four bundles later (R177). -/
theorem test_fmtw : landed (exec (.fmtw 3 2) (running 3 id)) = [(.latch, .latch 2 3, 0)] := by decide +kernel

/-- What a saved context's frame holds (R443, R444): MAGIC, LID and S, the PC, a register and its tag, a vector's lanes, a scratchpad block
with its poison mark. -/
theorem test_image :
    (let c : Ctx := { Ctx.zero with
       lid := 7, sidx := 2, kern := { Kernel.zero with spad := 0x1000 }
       task := { Thread.zero with pc := 0x123, a := Thread.zero.a.set 3 ⟨0x1122334455667788, 1⟩ }
       vec := { Ctx.zero.vec with c := Ctx.zero.vec.c.set 1 ⟨Vector.replicate 64 0xABCD, 3, true⟩ } }
     let at_ (off : Nat) : List Byte := ((c.pieces 0 0 [(0x41, 0x99)] [1]).filterMap fun p =>
       if p.1 ≤ off && off < p.1 + p.2.1.length then some ((p.2.1.drop (off - p.1)).take 8) else none).headD []
     at_ 0 = leBytes 4 0x0E025A7E ∧ (at_ 8).take 4 = leBytes 4 7 ∧ (at_ 0xC).take 4 = leBytes 4 2 ∧ at_ 0x10 = leBytes 8 0x123 ∧
     at_ 0x318 = leBytes 8 0x1122334455667788 ∧ (at_ 0x603).head? = some 1 ∧ at_ 0x850 = leBytes 8 3 ∧ at_ 0x858 = leBytes 8 1 ∧
     at_ 0x1104 = leBytes 8 0x0000ABCD0000ABCD ∧ (at_ 0x10041).head? = some 0x99 ∧
     (c.pieces 0 0 [(0x41, 0x99)] [1]).any (fun p => p.1 = 0x10040 && p.2.2) = true) := by decide +kernel

/-! ## Fetch, decoding and execution in one step -/

/-- The word of `addi a1, a10, #-1` placed after reset is fetched and run, and the bundle completes with its result visible: all of a
turn but its passing on. -/
theorem test_turn_addi : after (runSlots 4 (State.reset.withFetchWord 32 0x202AFFFF).issueNext)
    (fun t => (t.thr.a[1], t.thr.pc, t.thr.btime)) = some (⟨0xFFFFFFFFFFFFFFFF, 0⟩, 0x10001, 1) := by decide +kernel
/-- The table's word of MSTAT stands for it. -/
theorem test_table_word : decodeTableWord 32 0x3E17B801 = some (.mstat 16 1) := by decide +kernel

/-! ## Cryptography: published vectors (FIPS 180-4, FIPS 197) -/

/-- The digest of "abc". -/
theorem test_sha256 : leBytes 32 (sha256 [0x61, 0x62, 0x63]).toNat =
    [0xBA, 0x78, 0x16, 0xBF, 0x8F, 0x01, 0xCF, 0xEA, 0x41, 0x41, 0x40, 0xDE, 0x5D, 0xAE, 0x22, 0x23,
     0xB0, 0x03, 0x61, 0xA3, 0x96, 0x17, 0x7A, 0x9C, 0xB4, 0x10, 0xFF, 0x61, 0xF2, 0x00, 0x15, 0xAD] := by decide +kernel
/-- AES-256 of the block 00 11 … ff under the key 00 01 … 1f. -/
theorem test_aes256 : aesBlock (roundKeys ((List.range 32).map (BitVec.ofNat 8))) ((List.range 16).map fun i => BitVec.ofNat 8 (17 * i)) =
    [0x8E, 0xA2, 0xB7, 0xCA, 0x51, 0x67, 0x45, 0xBF, 0xEA, 0xFC, 0x49, 0x90, 0x4B, 0x49, 0x60, 0x89] := by decide +kernel

/-! ## Witnesses: states and operands that meet the hypotheses of the statements -/

open Sys2Proof.Claims

/-- A result is there and something holds of it and the state after it. -/
def OkThen {ε α : Type} (r : Except ε α × State) (p : α → State → Bool) : Bool := match r with | (.ok x, s) => p x s | _ => false
/-- Whether a state is canonical. -/
def canonical (s : State) : Bool :=
  Memory.wf s.mem && s.mem.dirty.all (fun e => decide (target (e.1 * 64) = .pool)) && s.cores.all (fun e => smWf 0 e.2.spad) &&
  s.tasks.all (fun t => smWf 0 t.spad) && s.checkpoints.all (fun c => smWf 0 c.spad) &&
  s.trunk.manifests.toList.all fun m => m.all fun x => x.tasks.all (fun t => smWf 0 t.spad) && x.checkpoints.all fun c => smWf 0 c.spad
theorem canonical_of {s : State} (h : canonical s = true) : Canonical s := by
  simpa only [canonical, Canonical, Bool.and_eq_true, and_assoc, List.all_eq_true, Option.all_eq_true, decide_eq_true_eq] using h

/-- Sources of slot A: two clean ones, one deferred, one poison, one never produced; a1 holds 2^52 − 1, a2 2^52, a3 0. -/
def alu : State := running 0 fun c => { c with task := { c.task with
  a := (((((c.task.a.set 1 ⟨0xFFFFFFFFFFFFF, 0⟩).set 2 ⟨0x10000000000000, 0⟩).set 3 ⟨0, 0⟩).set 4 ⟨0, 1⟩).set 5 ⟨0, 2⟩).set 6 ⟨0, 3⟩ } }
/-- Products, IntegerForms, BitCounts, IntegerCompares, FieldAndTagForms, FloatForms: sources that are not deferred, the last-result
registers and zero among them. -/
theorem witness_sources : (alu.thr.readA 1).tag ≠ 1 ∧ (alu.thr.readA 2).tag ≠ 1 ∧ (alu.thr.readA 5).tag ≠ 1 ∧ (alu.thr.readA 15).tag ≠ 1 ∧
    (alu.thr.readA 19).tag ≠ 1 ∧ (alu.thr.readA 23).tag ≠ 1 := by decide +kernel
/-- FloatForms: a fused operation's first addend, and the codes of a conversion at their bounds. -/
theorem witness_conversion : (alu.thr.readA 3).tag ≠ 1 ∧ (0 : BitVec 4).toNat < 8 ∧ (7 : BitVec 4).toNat < 8 ∧
    ((3 : BitVec 4).toNat < 4 ∧ 4 ≤ (4 : BitVec 4).toNat) := by decide +kernel
/-- CorrectRounding: the least number, and the greatest that does not overflow. -/
theorem witness_rounding : (fp32.round (rmode 0) false 1 (-149)).2.getLsbD 2 = false ∧
    (fp32.round (rmode 1) true (2 ^ 24 - 1) 104).2.getLsbD 2 = false ∧ (bf16.round (rmode 2) false 3 0).2.getLsbD 2 = false ∧
    (fp64.round (rmode 3) true 1 (-1074)).2.getLsbD 2 = false ∧ (fp16.round (rmode 0) false 65503 0).2.getLsbD 2 = false := by
  decide +kernel
/-- ControlTransfers: a clean operand, targets on both sides of 2^52, a deferred and two poison operands. -/
theorem witness_transfers : (alu.thr.readA 1).tag = 0 ∧ (alu.thr.readA 1).val.toNat < 2 ^ 52 ∧ (alu.thr.readA 2).tag = 0 ∧
    2 ^ 52 ≤ (alu.thr.readA 2).val.toNat ∧ (alu.thr.readA 4).tag = 1 ∧ bad (alu.thr.readA 5) = true ∧ bad (alu.thr.readA 6) = true := by
  decide +kernel
/-- A task whose partition has a handler. -/
def handled : State := handlerAt 0x8000000000000123 (running 0 fun c => { c with boot := false })
/-- A task in its handler. -/
def handling : State := running 0 fun c => { c with
  inHandler := true, hand := { Thread.zero with issue := some (issueAt 3 []), leave := 1 }
  csr := { c.csr with tpc := 0x200, sres := 2 } }
/-- Traps: a trap that enters the handler, one in the handler, one without a handler. -/
theorem witness_traps : (handled.ctx.inHandler = false ∧ handled.ctx.boot = false ∧ (0x16 : BitVec 8) ≠ 0x15 ∧
      (handled.part handled.ctx.part).trapvec.getLsbD 63 = true) ∧ handling.ctx.inHandler = true ∧
    ((running 0 fun c => { c with boot := false }).ctx.inHandler = false ∧ (running 0 fun c => { c with boot := false }).ctx.boot = false ∧
      ((running 0 fun c => { c with boot := false }).part 0).trapvec.getLsbD 63 = false) := by decide +kernel
/-- HandlerEnds: the last slot of the bundle of RFT. -/
theorem witness_handler : handling.ctx.inHandler = true ∧ handling.thr.issue = some (issueAt 3 []) ∧ handling.thr.leave = 1 ∧
    handling.dying handling.cur = false ∧ handled.ctx.inHandler = false := by decide +kernel
/-- ControlRegisters: reads and writes that are not barred at both ends of the list, and barred ones; a handler's, with the die held and
not held. -/
theorem witness_csr : (0x010#12).toNat ∈ csrList ∧ alu.csrWaits 0x010 = false ∧ ¬csrBarred alu 0x010 ∧
    (0x104#12).toNat ∈ csrList ∧ alu.csrWaits 0x104 = false ∧ ¬csrBarred alu 0x104 ∧
    (0x302#12).toNat ∈ csrList ∧ handling.csrWaits 0x302 = false ∧ ¬csrBarred handling 0x302 ∧
    handled.csrWaits 0x000 = false ∧ csrBarred handled 0x000 ∧ csrBarred handled 0x005 ∧ csrBarred handled 0x200 ∧ csrBarred handled 0x302 ∧
    handling.holdsDie 0 0 = false ∧ { handling with parts := handling.parts.set 0 { Part.zero with partctl := 0x800000000000000F } }.holdsDie 0 0 = true ∧
    handling.ctx.csr.regsel = BitVec.ofNat 64 0 := by
  unfold csrBarred; decide +kernel
/-- Segments: an open segment whose count and CRC are right, at the largest count, and one that is not open. -/
theorem witness_segments : (let s := running 0 fun c => { regsA [(1, 0xFFFFFFFE), (2, 0x12345678)] c with
      csr := { c.csr with segOpen := true, segCount := 0xFFFFFFFE, segCrc := 0xEDCBA987 } }
    s.ctx.inHandler = false ∧ s.thr.board = [] ∧ (s.core s.cur).stripes ≠ .delivering ∧ s.orderWait = none ∧ (s.thr.readA 1).tag = 0 ∧ (s.thr.readA 2).tag = 0 ∧
    s.ctx.csr.segOpen = true ∧ s.ctx.csr.suspect = false ∧ s.ctx.csr.segCount.toNat < 2 ^ 32 - 1 ∧
    (s.thr.readA 1).val.toNat = s.ctx.csr.segCount.toNat ∧ (s.thr.readA 2).val.toNat = 2 ^ 32 - 1 - s.ctx.csr.segCrc.toNat) ∧
    alu.ctx.csr.segOpen = false ∧ alu.ctx.csr.suspect = false ∧ alu.thr.board = [] ∧ alu.orderWait = none ∧
    (let s := running 0 fun c => { c with lost := [(1, 0x2000)] }
     s.ctx.owedTrap = none ∧ s.ctx.lost ≠ [] ∧ (s.thr.readA 1).tag = 0) ∧
    (let s := running 0 fun c => { c with acks := [⟨0, 0x2000, .none⟩] }
     s.ctx.owedTrap = none ∧ s.ctx.lost = [] ∧ s.ctx.acks ≠ [] ∧ (s.thr.readA 1).tag = 0) := by decide +kernel
/-- Sources of slot B: b1 the last eight bytes of a scratchpad of 64 KiB, b2 a clean value, b4 deferred, b5 poison, b6 the address of
core 1's scratchpad, b7 misaligned, b8 beyond the scratchpad, b9 a
core that is not of this die. -/
def access : State :=
  let s := running 1 fun c => { c with task := { c.task with
    b := (((((((c.task.b.set 1 ⟨0xFFF8, 0⟩).set 2 ⟨5, 0⟩).set 4 ⟨0, 1⟩).set 5 ⟨0, 2⟩).set 6 ⟨0x01000000, 0⟩).set 7 ⟨0x1001, 0⟩).set 8 ⟨0x10000, 0⟩).set 9 ⟨0xFF000000, 0⟩ } }
  { s with
    trunk := { s.trunk with groveslive := 0xFFFF }
    cores := s.cores ++ [(1, { Core.zero with busy := true, ctx := { Ctx.zero with kern := { Kernel.zero with spad := 0x10000 } } })] }
/-- ScratchpadAccess: the last word of the declared scratchpad, and a word of another core's. -/
theorem witness_scratchpad : (access.thr.readB 1).tag = 0 ∧ (access.thr.readB 2).tag ≠ 1 ∧ localAddress access 1 3 0 % 2 ^ 3 = 0 ∧
    localAddress access 1 3 0 + 2 ^ 3 ≤ access.ctx.kern.spad ∧ access.touch (localAddress access 1 3 0) 8 = (.ok (), access) ∧
    (access.core access.cur).spadErr = [] ∧ access.readyWrite (localAddress access 1 3 0) 8 = (.ok (), access) ∧
    canonical access = true ∧ (address access 6 3 0).toNat % 2 ^ 3 = 0 ∧ access.remoteOf (address access 6 3 0) = some (1, 0) ∧
    Free access 3 ∧ access.shedCore 1 = false ∧ (access.core 1).spadErr = [] := by
  unfold Free; decide +kernel
/-- A load from module 6 that is outstanding. -/
def away : Pend := ⟨5, .b 3, .remote 0x1000 8 false [] false, 0x1000, false, false, ⟨some 6, [], [⟨6, 0x1000, .read 8⟩], false, 2⟩, false⟩
/-- The same words behind an access that is kept before theirs, which one of another class is not; a die that is shed. -/
theorem witness_kept :
    (let s := access.onThr fun t => { t with board := [away] }
     ¬Free s 2 ∧ ¬Free s 0 ∧ Free s 1 ∧ Free s 0 (some 6) ∧ localAddress s 1 3 0 % 2 ^ 3 = 0 ∧
     localAddress s 1 3 0 + 2 ^ 3 ≤ s.ctx.kern.spad) ∧
    (let s := { access with trunk := { access.trunk with shedOrder := [0], dieslive := 0xE } }
     s.remoteOf (address s 6 3 0) = some (1, 0) ∧ s.shedCore 1 = true ∧ Free s 3) := by
  unfold Free; decide +kernel
/-- Atomics on scratchpads: the same words, 4 and 8 bytes wide. -/
theorem witness_spad_atomics : (access.thr.readB 1).val.toNat % 2 ^ 32 % atomSize 1 = 0 ∧
    (access.thr.readB 1).val.toNat % 2 ^ 32 + atomSize 1 ≤ access.ctx.kern.spad ∧ access.readyWrite 0xFFF8 (atomSize 0) = (.ok (), access) ∧
    (access.core access.cur).spadBad 0xFFF8 8 = false ∧ Free access 0 ∧ access.shedCore 1 = false ∧ (access.thr.readB 6).val.toNat % atomSize 1 = 0 ∧
    access.remoteOf (access.thr.readB 6).val = some (1, 0) ∧ (access.core 1).spadErr = [] ∧ (access.core 1).spadBad 0 8 = false := by
  unfold Free; decide +kernel
/-- GlobalAccess, Atomics on memory, MemoryBytes: translations that succeed, reads of whole bytes, memory without reports; a constant; and
a translation that fails. -/
theorem witness_memory : OkThen (access.xlateRange access.ctx.agent .read (address access 1 3 0) 8) (fun xs s1 =>
      !inConfig xs && !isRemote xs && !s1.shedPieces xs && xs.all (fun x => x.1.cached) && decide ((s1.readPieces s1.ctx.part xs).1.length = 8) &&
      xs.all (fun p => p.1.remote.isNone) && decide ((pieceBytes xs).map (·.1)).Nodup) = true ∧
    OkThen (access.xlateRange access.ctx.agent .write (address access 1 3 0) 8) (fun xs s1 =>
      !inConfig xs && !access.ctx.kept 1 (homeOf xs) && !s1.stuck (writesOf false false xs (leBytes 8 5))) = true ∧
    OkThen (access.xlateRange access.ctx.agent .atomic (access.thr.readB 1).val 8) (fun xs s1 => decide (xs.length = 1) &&
      !s1.shedPieces xs && !access.ctx.kept 0 && xs.all fun p => p.1.remote.isNone && p.2 = 8 &&
      (let r := (homeState s1 p.1).readPhys (some s1.ctx.part) p.1.pa 8 (p.1.pol = 0)
       !r.2.1 && decide (r.1.length = 8))) = true ∧
    Quiet access ∧ (∀ q : PartNum, (access.part q).migbusy = none) ∧ (address access 1 3 0).toNat < 0x10000 ∧
    (handled.xlateRange handled.ctx.agent .read 0 8).1.toOption = none ∧ (handled.xlateRange handled.ctx.agent .read 0 8).2.ctx.boot = false := by
  unfold Quiet; decide +kernel
/-- SourceAndAccessChecks: each of its cases. -/
theorem witness_checks : (access.thr.readB 4).tag = 1 ∧ (access.thr.readB 2).tag = 0 ∧ bad (access.thr.readB 5) = true ∧
    localAddress access 7 1 0 % 2 ^ 1 ≠ 0 ∧ (localAddress access 8 3 0 % 2 ^ 3 = 0 ∧ access.ctx.kern.spad < localAddress access 8 3 0 + 2 ^ 3) ∧
    (address access 7 3 0).toNat % 2 ^ 3 ≠ 0 ∧ ((address access 8 3 0).toNat % 2 ^ 3 = 0 ∧ 0x10000 ≤ (address access 8 3 0).toNat) ∧
    ((address access 9 3 0).toNat % 2 ^ 3 = 0 ∧ access.remoteOf (address access 9 3 0) = none) := by decide +kernel
/-- SourceAndAccessChecks: the one deferred source of an ADD and what encodes it. -/
theorem witness_deferred : (encode (.add 1 4 2)).isSome = true ∧ sourcesApart (.add 1 4 2) = false ∧ alu.ctx.inHandler = false ∧
    (OpKind.srcA, (4 : Reg)) ∈ (Instr.add 1 4 2).operands ∧ OpKind.srcA.reads = true ∧ (alu.thr.readA 4).tag = 1 ∧
    (∀ p ∈ (Instr.add 1 4 2).operands, p.1.reads = true → (alu.thr.readA p.2).tag = 1 → p.2 = (4 : Reg)) := by decide +kernel
/-- MainFileMoves: a register of the main file, at task level. -/
theorem witness_movm : alu.thr.m[63]? = some ⟨0, 0⟩ ∧ alu.ctx.inHandler = false := by decide +kernel
/-- Words in the scratchpad of the core whose turn it is, lowest byte first. -/
def spadWords (a : Nat) (l : List (BitVec 64)) (s : State) : State :=
  s.onCore s.cur fun k => { k with spad := writeBytes k.spad a (l.flatMap fun w => leBytes 8 w.toNat) }
/-- Words in memory. -/
def memWords (a : Nat) (l : List (BitVec 64)) (s : State) : State :=
  { s with mem := { s.mem with bytes := writeBytes s.mem.bytes a (l.flatMap fun w => leBytes 8 w.toNat) } }
/-- Registers of slot B on a bundle in issue, with a change of the context. -/
def runningB (l : List (Fin 16 × BitVec 64)) (f : Ctx → Ctx := id) : State := running 1 fun c => f (regsB l c)

/-- The lock word at b1 is read at its home, nothing standing in the way. -/
def lockReads (s : State) (p : List Byte → Bool → Bool) : Bool :=
  OkThen (s.xlateRange s.ctx.agent .atomic (s.thr.readB 1).val 8) fun xs s1 => decide (xs.length = 1) && s1.orderWait.isNone &&
    !s1.shedPieces xs && !s.ctx.kept 0 && xs.all fun x => x.1.remote.isNone && x.2 = 8 &&
    (let r := (homeState s1 x.1).readPhys (some s1.ctx.part) x.1.pa 8 (x.1.pol = 0)
     decide (r.1.length = 8) && p r.1 r.2.1)
/-- OrderingForms: nothing is outstanding; an acknowledgement is; a free and a held lock word, the latter waited for. -/
theorem witness_ordering : access.orderWait.isNone = true ∧ (4 : BitVec 3) ≠ 5 ∧ access.poolFlush.toOption.isSome = true ∧
    access.ctx.writesOpen = false ∧
    (running 1 fun c => { c with task := { c.task with board := [{ away with atomic := true }] } }).ctx.writesOpen = true ∧
    (let s := running 1 fun c => { c with acks := [⟨0, 0x1000, .none⟩] }
     s.ctx.owedTrap = none ∧ s.ctx.lost = [] ∧ s.ctx.acks ≠ []) ∧
    (let s := runningB [(1, 0x1000)] fun c => { c with wait := .lock 0x1000 }
     (s.thr.readB 1).tag = 0 ∧ (s.thr.readB 1).val.toNat % 8 = 0 ∧ (s.thr.readB 1).val.toNat < 2 ^ 56 ∧
     s.ctx.wait = .lock ((s.thr.readB 1).val.setWidth 56) ∧ (s.core s.cur).busy = true ∧ s.thr.issue.isSome = true ∧
     ((s.thr.readB 1).val.setWidth 56).setWidth 64 = (s.thr.readB 1).val ∧
     (lockReads s fun l poison => !poison && leNat l = 0) = true ∧ (lockReads (memWords 0x1000 [1] s) fun l poison => !poison && leNat l ≠ 0) = true ∧
     (lockReads { s with mem := { s.mem with check := [(0x40, 0x9696969696969696)] } } fun _ poison => poison) = true) := by decide +kernel
/-- A module whose partition 0 has page tables: VA 0 to 1 GiB is HBM granule 0, the next GiB is pool region 0, one line of which is
dirty. -/
def paged : State :=
  let s := State.reset.withFetchWord 32 0
  let s := memWords 0x20010 [0xA708000000000000, 0] s
  let s := { s with
    trunk := { s.trunk with poolrte := [(0, 0x8000000000000000)] }
    mem := { s.mem with dirty := [(0x200000000000, ⟨List.replicate 64 7, 0, []⟩)] } }
  s.onCore 0 fun k => { k with ctx := { k.ctx with task := { k.ctx.task with issue := some (issueAt 1 []), b := k.ctx.task.b.set 1 ⟨0x40000000, 0⟩ } } }
/-- LineForms: a line that no cache holds, and a dirty line of the pool; a multicast to grove 0 and past grove 4. -/
theorem witness_lines : OkThen (access.xlateRange access.ctx.agent .read (access.thr.readB 1).val 1) (fun _ s1 => s1.mem.dirty.isEmpty) = true ∧
    (paged.thr.readB 1).tag = 0 ∧ paged.ctx.kept 3 = false ∧
    OkThen (paged.xlateRange paged.ctx.agent .read (paged.thr.readB 1).val 1) (fun xs s1 =>
      xs.length = 1 && xs.all fun x => x.1.remote.isNone && x.1.pol = 0 && target x.1.pa = .pool && (s1.mem.line? (x.1.pa / 64)).isSome) = true ∧
    (let s := { runningB [(1, 0x1000), (2, 0x17FF80), (3, 0x11)] with trunk := { State.reset.trunk with groveslive := 0xFFFF } }
     s.ctx.inHandler = false ∧ (s.thr.readB 2).tag = 0 ∧ (s.thr.readB 3).tag = 0 ∧ (s.thr.readB 1).val.toNat % 128 = 0 ∧
     (s.thr.readB 2).val.toNat % 2 ^ 32 % 128 = 0 ∧ (s.thr.readB 2).val.toNat % 2 ^ 32 + 128 ≤ 0x180000 ∧
     (s.thr.readB 3).val.setWidth 16 ≠ 0#16 ∧ (s.thr.readB 4).val.setWidth 16 = 0#16 ∧ s.multicastTo 0 = true ∧ s.multicastTo 4 = false ∧
     Free s 3 ∧ OkThen (s.xlateSpan s.ctx.agent .read (s.thr.readB 1).val 128) (fun xs s1 => !isRemote xs && !s1.shedPieces xs &&
       decide ((s1.readMarked s1.ctx.part xs).1.length = 128) && canonical (s1.readMarked s1.ctx.part xs).2) = true) := by
  unfold Free; decide +kernel
/-- A ring of four rows of 16 bytes at 0x1000 with `fill` rows from row 1 on. -/
def ring4 (fill : BitVec 13) : Handle := ⟨3, 1, 0x40, fill, 1, (fill.setWidth 12 + 1) &&& 3, 0, none⟩
/-- A task with the ring on handle 2 and 4 in b1, 5 in b2. -/
def ringed (r : Handle) : State := runningB [(1, 4), (2, 5), (3, 1)] fun c => { c with h := c.h.set 2 r }
/-- RingForms: counts at the rows there are and one beyond, a full, an empty and a partly filled ring, a window, a handle without a ring. -/
theorem witness_rings : (ringed (ring4 4)).ctx.inHandler = false ∧ (ringed (ring4 4)).ctx.h[(2 : BitVec 4).toNat]? = some (ring4 4) ∧
    ((ringed (ring4 4)).thr.readB 1).tag = 0 ∧ (ring4 4).rowb ≠ 0 ∧ Handle.zero.rowb = 0 ∧
    ((ringed (ring4 4)).thr.readB 1).val.toNat ≤ (ring4 4).rowsM1.toNat + 1 ∧ (ring4 4).rowsM1.toNat + 1 < ((ringed (ring4 4)).thr.readB 2).val.toNat ∧
    ((ringed (ring4 4)).thr.readB 1).val.toNat ≤ (ring4 4).fill.toNat ∧ (ring4 3).fill.toNat < ((ringed (ring4 3)).thr.readB 1).val.toNat ∧
    ((ringed (ring4 0)).thr.readB 1).val.toNat + (ring4 0).fill.toNat ≤ (ring4 0).rowsM1.toNat + 1 ∧
    (ring4 1).rowsM1.toNat + 1 - (ring4 1).fill.toNat < ((ringed (ring4 1)).thr.readB 1).val.toNat ∧
    { ring4 4 with win := some ⟨⟨0, 0, 0, 0, 1, 1, 1⟩, 0, [], false⟩ }.win.isSome = true ∧ (ring4 4).win = none ∧
    (ringed (ring4 4)).thr.board = [] := by decide +kernel
/-- A 16-byte record keeps RINGSET's rules (R274), as the statement writes them. -/
def recordFits (l : List Byte) (spad : Nat) : Bool :=
  let w0 := leNat (l.take 8)
  let w1 := leNat (l.drop 8)
  let rows := w0 / 2 ^ 44 % 2 ^ 12 + 1
  let rb := w0 / 2 ^ 32 % 2 ^ 12 * 16
  let head := w1 / 2 ^ 33 % 2 ^ 12
  let tail := w1 / 2 ^ 21 % 2 ^ 12
  let fill := w1 / 2 ^ 45 % 2 ^ 13
  decide ((w0 / 2 ^ 56 % 2 ^ 7 = 0 ∧ w0 / 2 ^ 21 % 2 ^ 11 = 0 ∧ w0 % 2 ^ 6 = 0 ∧ w1 / 2 ^ 58 = 0) ∧
    (rb = 0 ∨ (head < rows ∧ tail < rows ∧ fill ≤ rows ∧ w1 % 2 ^ 21 < rb * rows ∧ tail = (head + fill) % rows ∧
      w0 / 2 ^ 6 % 2 ^ 15 * 64 + rows * rb ≤ spad)))
/-- A ring record at the end of the scratchpad is read. -/
def recordRead (w1 : BitVec 64) (fits : Bool) : Bool :=
  let s := spadWords 0xFFF0 [0x000030010000FFC0, w1] (runningB [(1, 0xFFF0)])
  decide ((s.thr.readB 1).tag = 0) && s.thr.board.isEmpty && OkThen (s.localRead 0xFFF0 16) fun l s1 =>
    !l.2 && decide (l.1.length = 16) && s1.thr.board.isEmpty && recordFits l.1 s1.ctx.kern.spad == fits
/-- Rings: RINGSET of a full ring at the end of the scratchpad, one whose tail is past its rows, one with a reserved bit; a read of a row that is
there, of one that is not, of one past the ring; a row that arrives. -/
theorem witness_ring_records :
    recordRead 0x0000800200200000 true = true ∧ recordRead 0x0000800200800000 false = true ∧ recordRead 0x0400800200200000 false = true ∧
    ((ringed (ring4 1)).touch 0x1010 8 = (.ok (), ringed (ring4 1)) ∧ ((ringed (ring4 1)).core 0).spadErr = [] ∧
      canonical (ringed (ring4 1)) = true ∧ (ring4 1).cursor.toNat / 16 < (ring4 1).fill.toNat ∧
      (ring4 0).fill.toNat ≤ (ring4 0).cursor.toNat / 16 ∧ 4 ≤ { ring4 0 with cursor := 64 }.cursor.toNat / 16) ∧
    (let w : Window := ⟨⟨0, 16, 0, 0, 4, 1, 1⟩, 1, [⟨List.replicate 16 9, [false]⟩], false⟩
     let s := ringed { ring4 1 with win := some w }
     s.ctx.h[(2 : BitVec 4).toNat]? = some { ring4 1 with win := some w } ∧ w.arriving = ⟨List.replicate 16 9, [false]⟩ :: [] ∧
     s.thr.board = [] ∧ (s.core s.cur).busy = true ∧ canonical s = true) := by decide +kernel
/-- WindowsAndMaps: WINSET of a legal record, WINADV with a window and without; a map that is bound, one that is not; MAPSET of a region of
one granule at the end of the scratchpad; a granule that fills. -/
theorem witness_windows_maps :
    (let s := spadWords 0x100 [0x2000, 16, 0, 0, 0x0000000100000004, 0x0000000000000001]
        (runningB [(1, 0x100), (2, 1)] fun c => { c with h := c.h.set 2 (ring4 1) })
     (s.thr.readB 1).tag = 0 ∧ s.thr.board = [] ∧ (s.thr.readB 1).val.toNat % 2 ^ 32 % 16 = 0 ∧
     OkThen (s.localRead 0x100 48) (fun l s1 => !l.2 && winBytesOk l.1 && s1.ctx.h[2]? = some (ring4 1) && s1.thr.board.isEmpty) = true ∧
     (s.thr.readB 2).val.toNat ≤ (ring4 1).fill.toNat ∧ (ring4 1).win = none) ∧
    (let s := spadWords 0x100 [0x2000, 0, 0, 0x000010000000F000, 0, 0] (runningB [(1, 0x100)])
     (s.ctx.maps[(3 : Fin 16)]).desc = none ∧
     OkThen (s.localRead 0x100 48) (fun l s1 => !l.2 && mapBytesOk l.1 && s1.ctx.mapFits 3 (MapDesc.ofBytes l.1) &&
       decide ((MapDesc.ofBytes l.1).len ≠ 0) && OkThen (s1.writeBackMap 3) fun _ _ => true) = true) ∧
    (let d : MapDesc := ⟨0x2000, 0, 0, 0xF000, 0x1000, 0, 0⟩
     let s := runningB [(1, 0x100)] fun c => { c with maps := c.maps.set 3 ⟨some d, []⟩ }
     (s.ctx.maps[(3 : Fin 16)]).desc = some d ∧ (0 : BitVec 9).toNat * 4096 < d.len.toNat ∧ ((s.ctx.maps[(3 : Fin 16)]).gran? 0) = none ∧
     OkThen (s.fillGranule 3 d 0) (fun _ _ => true) = true ∧ OkThen (s.writeBackMap 3) (fun _ _ => true) = true) := by decide +kernel
/-- Vectors: c1 speculative with clean lanes, c2 speculative with lane 3 deferred, c3 with lane 0 poison, c4 clean; k1 without lane 3, k2
empty. -/
def vectors : State := running 2 fun c => { c with vec := { c.vec with
  c := (((c.vec.c.set 1 { VReg.zero with spec := true }).set 2 { VReg.zero with spec := true, side := 8 }).set 3 { VReg.zero with side := 1 }).set 4
    (lanes [(0, 0x1000), (1, 2), (2, 0xF00)])
  k := (c.vec.k.set 1 (BitVec.allOnes 64 &&& ~~~8)).set 2 0 } }
/-- VectorForms, PermutesAndReductions, Transcendentals, VectorConversions: sources without a deferred lane where it is read: clean, poison,
speculative ones under full, partial and empty masks. -/
theorem witness_vectors : vectors.ctx.inHandler = false ∧ Undeferred (vectors.ctx.vec.read 1) (vectors.ctx.vec.active 0) ∧
    Undeferred (vectors.ctx.vec.read 2) (vectors.ctx.vec.active 1) ∧ Undeferred (vectors.ctx.vec.read 2) (vectors.ctx.vec.active 2) ∧
    Undeferred (vectors.ctx.vec.read 3) (vectors.ctx.vec.active 0) ∧ Undeferred (vectors.ctx.vec.read 23) (vectors.ctx.vec.active 0) ∧
    badLane (vectors.ctx.vec.read 3) 0 = true ∧ (8 : BitVec 4).toNat < 9 ∧ (14 : BitVec 4).toNat < 15 ∧ (4 : BitVec 3).toNat ≤ 4 := by
  unfold Undeferred; decide +kernel
/-- PermutesAndReductions: a permute whose index names no deferred lane; a scalar position by a register and by a port. -/
theorem witness_permutes : (∀ i < 64, (vectors.ctx.vec.active 0).getLsbD i = true → (vectors.ctx.vec.read 4).spec = true →
      (vectors.ctx.vec.read 4).side.getLsbD i = false) ∧
    ((vectors.ctx.vec.read 1).spec = true ∧ (vectors.ctx.vec.read 1).side.getLsbD (lane (vectors.ctx.vec.read 4) 1).toNat = false) := by
  decide +kernel
/-- VectorMemory: a scalar operand in a register. -/
theorem witness_scalar_c : ScalarC vectors 4 false ⟨0x1000, 0⟩ ∧ ScalarC vectors 4 true ⟨0x0000000200001000, 0⟩ := by
  unfold ScalarC; decide +kernel
/-- VectorMemory: 256 bytes that end with the scratchpad, words that fit, reads and writes of them; an address that is misaligned and one
beyond; a ring of two rows of 256 bytes; an atomic's word. -/
theorem witness_vector_memory :
    (let s := running 2 (regsC [(4, lanes [(0, 0xFF00)]), (5, lanes [(0, 0xFF02)]), (6, lanes [(0, 0x10000)])])
     loadAddress s ⟨0xFF00, 0⟩ 0 % 4 = 0 ∧ loadAddress s ⟨0xFF00, 0⟩ 0 + 256 ≤ s.ctx.kern.spad ∧ s.touch 0xFF00 256 = (.ok (), s) ∧
     (s.core s.cur).spadErr = [] ∧ loadAddress s ⟨0xFF02, 0⟩ 0 % 4 ≠ 0 ∧ s.ctx.kern.spad < loadAddress s ⟨0x10000, 0⟩ 0 + 4 ∧
     (∀ i < 64, (s.ctx.vec.active 0).getLsbD i = true → (0xFF00 + 4 * i) % 2 ^ 32 % 4 = 0 ∧ (0xFF00 + 4 * i) % 2 ^ 32 + 4 ≤ s.ctx.kern.spad) ∧
     s.touchWords ((lanesIn (s.ctx.vec.active 0)).map fun i => (0xFF00 + 4 * i) % 2 ^ 32) = (.ok (), s) ∧
     s.readyWords ((lanesIn (s.ctx.vec.active 0)).map fun i => (0xFF00 + 4 * i) % 2 ^ 32) = (.ok (), s) ∧ canonical s = true) ∧
    (let r : Handle := ⟨1, 16, 0x40, 1, 0, 1, 0, none⟩
     let s := running 2 fun c => { c with h := c.h.set 2 r }
     s.ctx.h[(2 : BitVec 4).toNat]? = some r ∧ r.rowb.toNat % 16 = 0 ∧ r.cursor.toNat % 256 = 0 ∧ r.cursor.toNat / 256 < r.fill.toNat ∧
     s.touch 0x1000 256 = (.ok (), s) ∧ s.thr.board = []) ∧
    (vectors.ctx.vec.active 2 = 0 ∧ vectors.ctx.vec.active 0 ≠ 0 ∧
     vectors.ctx.kept 0 = false ∧ OkThen (vectors.xlateRange vectors.ctx.agent .atomic 0x1000 4) (fun xs s1 => decide (xs.length = 1) &&
       !s1.shedPieces xs && xs.all fun x => x.1.remote.isNone && x.2 = 4 &&
       (let r := (homeState s1 x.1).readPhys (some s1.ctx.part) x.1.pa 4 (x.1.pol = 0)
        !r.2.1 && decide (r.1.length = 4))) = true) := by
  decide +kernel
/-- VectorMemory: the words of a gather and a scatter, base 0xFF00 with indexes of zero; nothing is kept before them. -/
theorem witness_long_forms :
    let addr (i : Nat) : Nat := (0xFF00 + (lane (vectors.ctx.vec.read 7) i).toNat * 4) % 2 ^ 32
    let lanes := vectors.ctx.vec.active 0 &&& ~~~(vectors.ctx.vec.read 7).side
    Free vectors 0 ∧ Undeferred (vectors.ctx.vec.read 7) (vectors.ctx.vec.active 0) ∧ (vectors.ctx.vec.read 7).spec = false ∧ lanes ≠ 0 ∧
    WordsFit vectors lanes addr ∧ vectors.touchWords ((lanesIn lanes).map addr) = (.ok (), vectors) ∧
    vectors.readyWords ((lanesIn lanes).map addr) = (.ok (), vectors) ∧ vectors.ctx.vec.active 2 &&& ~~~(vectors.ctx.vec.read 7).side = 0 := by
  unfold Free Undeferred WordsFit; decide +kernel
/-- A gather and a scatter of core 0 with lane 3 and, where `more`, lane 9 to do. -/
def gathering (data : Option VReg) (more : Bool) : State := running 2 fun c => { c with task := { c.task with
  board := [⟨7, .c 2, .long data (if more then [(3, 0x40), (9, 0x80)] else [(3, 0x40)]) .zero 0x208 5, 0, false, true, .none, false⟩] } }
/-- VectorMemory: a step with others to follow, and the last one. -/
theorem witness_long_steps : ∀ data ∈ [none, some VReg.zero], ∀ more ∈ [false, true],
    (∃ p, (gathering data more).ctx.request? 7 = some (false, p) ∧ p.id = 7 ∧ p.dest = .c 2 ∧ p.way.waiting = false ∧ p.way.site = none ∧
      p.val = .long data (if more then [(3, 0x40), (9, 0x80)] else [(3, 0x40)]) .zero 0x208 5) ∧ VReg.zero.spec = false ∧
    ((gathering data more).core 0).busy = true ∧ ((gathering data more).core 0).spadErr = [] ∧ canonical (gathering data more) = true := by
  intro data hd more hm
  simp only [List.mem_cons, List.not_mem_nil, or_false] at hd hm
  rcases hd with rfl | rfl <;> rcases hm with rfl | rfl <;>
    exact ⟨⟨_, rfl, rfl, rfl, rfl, rfl, rfl⟩, rfl, by decide +kernel⟩
/-- A command block whose fields copy `len` bytes from 0x3000 to 0x4000 of the scratchpad. -/
def copyBlock (len : BitVec 32) : Block := ⟨0x4000, 0x3000, len, 0, 0, 0, 0, 0, 0, 0, 0⟩
/-- An entry that has begun nothing. -/
def entry (k : QKind) (b : Block) : QEntry :=
  { kind := k, blk := b, blkAddr := 0x2000, idx := 0, sig := none, joins := [], coll := none, prog := 0, resume := 0, started := false
    status := 0, step := 0, failAddr := 0, finished := false, worded := false, after := 0, got := [], out := none, bad := [], keyed := false, key := none }
/-- A task with an entry at the head of queue 3. -/
def queued (e : QEntry) : State := running 1 fun c => { c with queues := c.queues.set 3 { Queue.zero with entries := [e] } }
/-- QueueForms: a legal block at the end of the scratchpad, one of length 0, a halted queue. -/
theorem witness_queue_forms :
    (let s := spadWords 0xFFC0 [0x4000, 0x3000, 64, 0, 0, 0, 0, 0] (runningB [(1, 0xFFC0), (2, 0x100)])
     (s.thr.readB 1).tag = 0 ∧ 0xFFC0 + 64 ≤ s.ctx.kern.spad ∧ OkThen (s.localRead 0xFFC0 64) (fun l s1 => decide (l.1.length = 64) &&
       s1.blockOk .copy (copyBlock 64) && (s1.ctx.queues[(3 : Fin 16)]).entries.length < 32 && !(s1.ctx.queues[(3 : Fin 16)]).halt) = true ∧
     s.blockOk .copy { copyBlock 64 with dst := 0xFFF0 } = false ∧ s.orderWait.isNone = true ∧
     (runningB [] fun c => { c with queues := c.queues.set 3 { Queue.zero with halt := true } }).ctx.queues[(3 : Fin 16)].halt = true) := by
  decide +kernel
/-- The block of that witness has the fields that its bytes spell. -/
theorem witness_block_fields : BlockFields (leBytes 8 0x4000 ++ leBytes 8 0x3000 ++ leBytes 8 64 ++ List.replicate 40 0) (copyBlock 64) := by
  unfold BlockFields; decide +kernel
/-- QueueWork: a copy and a fill with all and with their last byte to do; a finished entry; a reduction of two of which one has come. -/
theorem witness_queue_work :
    (Runnable (queued (entry .copy (copyBlock 100))) 0 3 (entry .copy (copyBlock 100)) [] ∧
      ((queued (entry .copy (copyBlock 100))).core 0).spadErr = [] ∧ smWf 0 ((queued (entry .copy (copyBlock 100))).core 0).spad = true ∧
      ((queued (entry .copy (copyBlock 100))).core 0).ctx.kern.spad ≤ 0x180000 ∧ (entry .copy (copyBlock 100)).resume < 100 ∧
      0x4000 + 100 ≤ ((queued (entry .copy (copyBlock 100))).core 0).ctx.kern.spad) ∧
    (let e := { entry .fill (copyBlock 100) with resume := 99, started := true }
     Runnable (queued e) 0 3 e [] ∧ e.resume < 100) ∧
    (let e := { entry .copy (copyBlock 100) with resume := 100, started := true, finished := true }
     (queueOf (queued e) 0 3).entries = e :: [] ∧ (queueOf (queued e) 0 3).halt = false ∧ e.worded = false ∧ e.sig = none ∧ e.kind ≠ .join ∧
     e.kind ≠ .sig ∧ ((queued e).core 0).busy = true) ∧
    (let e := { entry .coll (copyBlock 8) with coll := some ⟨0, 100, 0, 1⟩ }
     let s := (queued e).onPart 0 fun p => { p with contribs := [⟨0, 0, 0, [(1, false), (2, false)]⟩] }
     Runnable s 0 3 e [] ∧ e.coll = some ⟨0, 100, 0, 1⟩ ∧ e.blk.arg0 = 0 ∧
     (∀ x ∈ (s.part (s.core 0).ctx.part).contribs, x.group = e.blk.arg1.setWidth 10 → x.elems.length = e.blk.len.toNat / 4) ∧
     (∀ x ∈ (s.part (s.core 0).ctx.part).contribs, x.rank.toNat ≠ 1)) := by
  unfold Runnable; decide +kernel
/-- A collective of two at a step, of which `out` is its result; a group whose last step was `last`, a phaser at the open step. -/
def grouped (out : Option (List (Byte × Bool))) (started : Bool) (last : List (Nat × BitVec 32)) : QEntry × State :=
  let e := { entry .coll (copyBlock 8) with coll := some ⟨0x40056001, 100, 0, 1⟩, out := out, started := started }
  (e, { (queued e).onPart 0 fun p => { p with groupStep := last } with phasers := [⟨4, 5, 3, 1, 0, 0, 0, 0, 0, [⟨7, 1, 0, 0, 0⟩], [], false⟩] })
/-- QueueEntries: a head at its group's timeout that has not started, at a step done before and at the open one; one that has a result to
write; a module that takes contributions and one that does not. -/
theorem witness_group :
    (let x := grouped none false [(0, 0)]
     x.1.out = none ∧ x.1.started = false ∧ (∃ y ∈ (x.2.part 0).groupStep, y = (0, 0)) ∧ (x.2.core 0).saving = false) ∧
    (let x := grouped none false []
     ¬(∃ y ∈ (x.2.part 0).groupStep, y = (0, 0)) ∧ (x.2.phaser? 0x40056001).map (fun p => (p.part, p.phase)) = some (0, 0)) ∧
    (let x := grouped (some (List.replicate 8 (1, false))) true [(0, 0)]
     Runnable x.2 0 3 x.1 [] ∧ x.1.out = some (List.replicate 8 (1, false)) ∧ x.1.resume < 8 ∧ x.1.blk.dspace = 0 ∧ x.1.blk.sspace ≠ 3 ∧
     0x4000 + 8 ≤ (x.2.core 0).ctx.kern.spad) ∧
    State.reset.unready.isSome = true ∧ { State.reset with trunk := { State.reset.trunk with modid := 0x80000005 } }.unready = none := by
  unfold Runnable; decide +kernel
/-- A task that declares every tile and slot, with an image's address in port p0. -/
def matrix (f : Ctx → Ctx := id) : State := running 3 (fun c => f { c with kern := { c.kern with tiles := 8, wslots := 4 } }) [(3, ⟨0xE000, 0⟩)]
/-- MatrixAndTiles: usable tiles with room and without, sources that are ready, an image that ends with the scratchpad, slots at the limit. -/
theorem witness_matrix : matrix.ctx.inHandler = false ∧ (7 : Reg).toNat < matrix.ctx.kern.tiles ∧ matrix.ctx.tileQueued (tileNo 7) = false ∧
    (matrix.ctx.task.tileFlight (tileNo 7)).length < 2 ∧ matrix.ctx.task.tileFlight (tileNo 0) = [] ∧ (3 : BitVec 2).toNat < matrix.ctx.kern.wslots ∧
    (running 3 id).ctx.kern.wslots ≤ (0 : BitVec 2).toNat ∧ (∀ l ∈ matrix.ctx.task.landing, ∀ v, l.val = .wslot v → v.fmt = none) ∧
    imageSize 0 = 8192 ∧ ImageAt matrix matrix 20 8192 0xE000 ∧ (matrix.ctx.chained 0).fmt = .fp32 ∧ ((matrix fun c => { c with mat := { c.mat with d := c.mat.d.set 0 { Tile.zero with fmt := .fx96 } } }).ctx.chained 0).fmt = .fx96 := by
  have h : matrix.ctx.task.landing = [] := by decide +kernel
  have ok : ∀ l ∈ matrix.ctx.task.landing, ∀ v, l.val = .wslot v → v.fmt = none := by simp [h]
  have marks : (matrix.core matrix.cur).spadMark = [] ∧ (matrix.core matrix.cur).spadErr = [] := by decide +kernel
  have image : ∀ j < 8192, (matrix.core matrix.cur).spadBad (0xE000 + j) 1 = false := by simp [Core.spadBad, marks]
  simp only [ImageAt, Free, eq_true ok, eq_true image, true_and, and_true]
  decide +kernel
/-- A phaser of engine 4 at module scope of partition 0 with members. -/
def phaser (idx : BitVec 12) (phase : BitVec 32) (pending : BitVec 16) (members : List Member) : Phaser :=
  ⟨4, idx, 3, 1, phase, pending, 0, 0, 0, members, [], false⟩
/-- PHNEW's example in chapter 21: engine 4, index 5, scope 3, generation 1. -/
theorem test_phaser_handle : (phaser 5 100 2 []).handle = 0x40056001 := by decide +kernel
/-- A task with operands in ports p0 and p1, and phasers. -/
def phased (l : List Phaser) (p0 p1 : BitVec 64) : State :=
  { running 3 (fun c => { c with lid := 7, sidx := 2, kern := { c.kern with phasers := 64 } }) [(3, ⟨p0, 0⟩), (3, ⟨p1, 0⟩)] with phasers := l }
/-- Phasers, PhaserIndicesKept: a new phaser's words; a phaser that another task signals, of which this one is no member; members of each
mode before and after their signal; a query. -/
theorem witness_phasers :
    (let s := phased [] 0x0000006400000023 2
     s.ctx.inHandler = false ∧ OneEach s.phasers ∧ (s.thr.readD 20).tag = 0 ∧ (s.thr.readD 21).tag = 0 ∧
     (s.thr.readD 20).val &&& 0xFC00FFC8#64 = 0 ∧ (s.thr.readD 20).val.toNat % 8 < 4 ∧ (s.thr.readD 20).val.toNat / 2 ^ 16 % 1024 = 0 ∧
     (s.thr.readD 21).val.toNat < 2 ^ 16 ∧ s.memberships s.ctx.id < s.ctx.kern.phasers ∧ (s.thr.readD 20).val.toNat / 16 % 4 ≠ 3) ∧
    (let p := phaser 5 100 1 [⟨7, 1, 0, 100, 100⟩]
     let s := phased [p] 0x40056001 0
     OneEach s.phasers ∧ Names s 20 p ∧ p.scope.toNat < 4 ∧ p.members ≠ [] ∧ (∀ q ∈ s.phasers, q.members ≠ [] ∨ q.pending ≠ 0) ∧
     s.memberships s.ctx.id < s.ctx.kern.phasers ∧
     (∀ m ∈ p.members, ¬(m.lid = s.ctx.lid ∧ m.sidx = s.ctx.sidx)) ∧ p.members.length < 65535) := by
  unfold OneEach Names; decide +kernel
/-- Phasers: members before and after their signal. -/
theorem witness_members :
    (let m : Member := ⟨7, 2, 2, 100, 100⟩
     let p := phaser 5 100 0 [m, ⟨7, 1, 0, 101, 100⟩]
     let s := phased [p] 0x40056001 2
     Names s 20 p ∧ IsMember s p m ∧
     s.orderWait.isNone = true ∧ s.ctx.replays = [] ∧ m.sph = p.phase ∧ m.wph = p.phase ∧ s.ctx.wait = .none ∧
     (s.thr.readD 21).tag = 0 ∧ (s.thr.readD 21).val.toNat < 3) ∧
    (let m : Member := ⟨7, 2, 1, 100, 100⟩
     let p := phaser 5 101 0 [m]
     IsMember (phased [p] 0x40056001 2) p m ∧ 1 ≤ (p.phase - m.wph).toNat ∧ (p.phase - m.wph).toNat < 2 ^ 31) := by
  unfold Names IsMember; decide +kernel
/-- Phasers: completions: one below fabric scope that is ready, one that is not; a fabric-scope one, before and after VALID. -/
theorem witness_completion :
    (let p := { phaser 5 100 0 [⟨7, 1, 0, 101, 100⟩] with scope := 4 }
     let s := phased [p] 0 0
     p.scope = 4 ∧ PhaseReady p ∧ ¬PhaseReady { p with pending := 1 } ∧ OneEach s.phasers ∧ p ∈ s.phasers ∧ s.trunk.cut = none ∧
     s.unready = some (s.send (.nack 2 0)) ∧ { s with trunk := { s.trunk with modid := 0x80000005 } }.unready = none) := by
  unfold OneEach PhaseReady; decide +kernel
/-- A task of two levels, temporal of 3 steps by 64 and of 2 by 1 (the example of chapter 19), in a body run at point `p`. -/
def walked (p : Nat) : State := running 3 fun c => { c with
  kern := { c.kern with order := true, levels := [⟨2, 64, 0, false⟩, ⟨1, 1, 0, true⟩, ⟨3, 1, 1, false⟩], sched0 := some ⟨0x10000, 9, 0xFFFFFFFF, 0, 5⟩ }
  sidx := 1, walk := { c.walk with run := 2, p := p, proDone := true } }
/-- TEND behind point 0, with the values that R331's example gives for point 1 of task 1; the bundle ends with it, so they are visible. -/
theorem test_tend : after (exec .tend (walked 0)) (fun t => (t.thr.a[10], t.thr.a[11], t.thr.a[12], t.ctx.walk.p)) =
    some (⟨0, 0⟩, ⟨1, 0⟩, ⟨1, 0⟩, 1) := by decide +kernel
/-- TaskForms: a body run with a point behind it, and the last one; a task at its end; a switch row whose level the grove grants. -/
theorem witness_tasks :
    (let s := walked 0
     s.ctx.inHandler = false ∧ s.ctx.csr.segOpen = false ∧ s.ctx.csr.suspect = false ∧ s.ctx.walk.run = 2 ∧ s.ctx.kern.order = true ∧
     s.ctx.kern.levels.length ≤ 6 ∧ s.ctx.walk.basep ≤ s.ctx.walk.p ∧ s.ctx.walk.p < s.ctx.walk.basep + 4096 ∧
     (1 < extents (s.ctx.kern.levels.filter fun l => l.kind = 0) ∧ ¬HasRun s.ctx.walk 1 ∧ ∀ j < 1, HasRun s.ctx.walk j)) ∧
    (let s := running 3 fun c => { c with boot := false, walk := { c.walk with run := 3 } }
     s.orderWait.isNone = true ∧ s.ctx.boot = false ∧ (∀ i : Fin 16, (s.ctx.queues[i]).entries = [] ∧ (s.ctx.maps[i]).desc = none) ∧
     s.ctx.acks = [] ∧ s.ctx.walk.run = 3 ∧ s.ctx.csr.segOpen = false ∧ s.ctx.csr.suspect = false) ∧
    (let k : Packet := ⟨List.replicate 64 0, 0, .port, [], true⟩
     let s := (spadWords 0xFFC0 [0x10000, 0, 0, 0, 0, 0, 0, 0] (running 3 id [(3, ⟨0xFFC0, 0⟩)])).onPart 0 fun p => { p with queues := p.queues.set 0 [k] }
     (s.thr.readD 20).tag = 0 ∧ OkThen (s.localRead 0xFFC0 64) (fun l s1 => !l.2 && decide (l.1.length = 64) && !s1.ctx.kept 0 &&
       ((s1.part s1.ctx.part).queues[(0 : Fin 16)]).all (·.headed) && leNat ((l.1.drop 40).take 4) = 0 && leNat ((l.1.drop 44).take 4) = 0) = true) ∧
    (let s := running 3 fun c => { c with sched := 1, kern := { (walked 0).ctx.kern with switches := [⟨3, 1, 2, 3⟩] } }
     s.granted s.cur ≠ 3 ∧ (∀ l ∈ s.ctx.task.landing, l.dist < 2) ∧ s.granted s.cur ≠ s.ctx.sched ∧ (s.ctx.kern.sched? (s.granted s.cur)).isSome = true ∧ s.ctx.task.redirects = [] ∧
     s.ctx.task.taken = none ∧ s.ctx.kern.switches.map (·.point.toNat) = [3]) := by
  unfold HasRun; decide +kernel
/-- LeasesAndSlew: operands that are legal and not, a request, a spent lease; a grove with the limiter on and a filler core. -/
theorem witness_leases :
    (let s := running 3 id [(3, ⟨0x0000000100000001, 0⟩), (3, ⟨0x0000000100000002, 0⟩)]
     (s.thr.readD 20).tag = 0 ∧ (s.thr.readD 20).val.toNat / 2 ^ 32 ≠ 0 ∧ (s.thr.readD 20).val.toNat % 2 ^ 32 < 2 ∧
     (s.thr.readD 21).val.toNat % 2 ^ 32 / 2 ≠ 0) ∧
    (let s := running 3 fun c => { c with boot := false, lease := { Lease.zero with request := some (1000, 1) } }
     (s.core 0).busy = true ∧ (s.core 0).ctx.boot = false ∧ (s.core 0).ctx.lease.request = some (1000, 1)) ∧
    (let s := running 3 fun c => { c with lease := ⟨0, true, false, 0, 0, none⟩ }
     (s.core 0).ctx.lease.held = true ∧ (s.core 0).ctx.lease.suspended = false ∧ (s.core 0).ctx.lease.remain = 0) ∧
    (let s := (running 3 id).onCore 0 fun k => { k with stripes := .filler }
     let s := s.onGrove 0 fun g => { g with fillers := [0], waited := true }
     (s.grove 0).pwr.getLsbD 15 = true ∧ (s.grove 0).fillers = 0 :: [] ∧ ∀ x ∈ [(0 : CoreNum)], (s.core x).stripes = .filler ∧ groveOf x = 0) := by
  decide +kernel
/-- BundleIssue: a bundle that decodes and one that does not, fetched where the program counter stands. -/
def fetchable (w : BitVec 32) : State := { memWords 0x1000 [(0#32 ++ w), 0] (running 0 fun c => { c with task := { c.task with pc := 0x100, issue := none } }) with cur := 0 }
/-- What such a fetch gives. -/
def fetches (w : BitVec 32) (ok : Bool) : Bool :=
  let s := fetchable w
  (s.core s.cur).busy && !(s.core s.cur).saving && s.thr.issue.isNone && !s.stopDue && s.ctx.pendTrap.isNone && !s.ctx.entry &&
  OkThen ((s.onCore s.cur fun k => { k with granted := false }).xlateSpan s.ctx.agent .fetch (BitVec.ofNat 64 (s.thr.pc.toNat * 16)) 16) fun xs s1 =>
    let r := s1.readPieces s.ctx.part xs
    !isRemote xs && !s1.shedPieces xs && (xs.all fun x => (smGet none x.1.pa (smGet [] s.cur.toNat r.2.2.fetched)).isNone) && !r.2.1 && decide (r.1.length = 16) && decide (r.2.2.cur = s.cur) &&
    match decodeBundle r.2.2.trunk.caps (wordAt r.1 0) (wordAt r.1 1) (wordAt r.1 2) (wordAt r.1 3) with
    | .ok b => ok && !r.2.2.thr.boardWaits b r.2.2.thr.resume && !r.2.2.ctx.longBusy && r.2.2.engineWait b.d = .none
    | .error e => !ok && decide (e.2 < 16)
theorem witness_issue : fetches 0x202AFFFF true = true ∧ fetches 0x06911000 false = true := by decide +kernel
/-- Requests: outstanding requests of both kinds, a write, a queue that is held and one that is not; requests of other modules before and after
their checks. -/
theorem witness_requests :
    (let s (q : Pend) := running 1 fun c => { c with task := { c.task with board := [q] }, acks := [⟨3, 0x2000, away.way⟩] }
     let here : Pend := { away with val := .scalar ⟨1, 0⟩, way := ⟨some 0, [], [], false, 0⟩ }
     let late : Pend := { away with val := .later (.spad 1 0x40 8) (.load false), way := ⟨some 0, [], [], false, 0⟩ }
     Outstanding (s here) 0 5 here 3 ∧ Outstanding (s away) 0 5 away 3 ∧ Outstanding (s late) 0 5 late 3 ∧ (s late).siteShed (some 0) = false ∧
     (s away).ctx.acks[0]? = some ⟨3, 0x2000, away.way⟩ ∧ (s away).siteShed (some 6) = false ∧
     (∀ q ∈ (s away).ctx.task.board ++ (s away).ctx.hand.board, q.id = 5 → q = away) ∧ (s away).stuck away.way.sent = true ∧
     (let t := { s away with trunk := { (s away).trunk with modid := 0x80000005, fabports := (s away).trunk.fabports.set 0 0x80000000 } }
      t.stuck away.way.sent = false)) ∧
    (let s (nacked : Bool) := running 1 fun c => { c with queues := c.queues.set 3 { Queue.zero with held := true, nacked := nacked } }
     (queueOf (s false) 0 3).held = true ∧ (queueOf (s false) 0 3).nacked = false ∧ (queueOf (s false) 0 2).held = false ∧
     (queueOf (s true) 0 3).nacked = true ∧ ((s false).core 0).saving = false) ∧
    (let s := { State.reset with trunk := { State.reset.trunk with modid := 0x80000005, memown := [(0, 0x20)] } }
     State.reset.trunk.modid.getLsbD 31 = false ∧ s.trunk.modid.getLsbD 31 = true ∧ s.trunk.phase.toNat < 2 ∧ s.trunk.fabric 0 = true ∧
     s.trunk.fabric 1 = false ∧ s.siteShed (some (BitVec.ofNat 3 (siteOf 0x3FFFFFF8))) = false) := by
  unfold Outstanding; decide +kernel
/-- Registers of the host's links: ports, CXL links and the pool route table. -/
def linked : State := { State.reset with trunk := { State.reset.trunk with
  step := 8, done := true, cxlUp := 3, modid := 0x80000005, poolrte := [(3, 0xA000000000000000)], groveslive := 0xFFFF, dieslive := 0xF } }
/-- Links: a port at each end of the list; an entry that is severed under a port that is up, with the operations that may start and that run; the
same without the entry; a dirty line of the entry. -/
theorem witness_links : (0 : BitVec 6).toNat = (0 : Fin 36).val ∧ (35 : BitVec 6).toNat = (35 : Fin 36).val ∧ linked.trunk.done = true ∧
    linked.trunk.seedling = false ∧ linked.trunk.phase.toNat < 2 ∧ State.reset.trunk.modid.getLsbD 31 = false ∧ linked.trunk.modid.getLsbD 31 = true ∧
    linked.trunk.poolOp = none ∧ (0x4000000000000003 : BitVec 64).toNat / 2 ^ 62 = (1 : BitVec 2).toNat ∧
    (let s := { linked with trunk := { linked.trunk with poolq := 0x0080000000000003, poolOp := some 1 } }
     s.trunk.poolOp = some 1 ∧ (smGet 0 (s.trunk.poolq.toNat % 256) s.trunk.poolrte).getLsbD 61 = true ∧ s.trunk.cxlUp.getLsbD 0 = true ∧
     smWf 0 s.trunk.poolrte = true ∧ smSorted none s.mem.quarantine = true ∧ smWf 0 s.mem.bytes = true) ∧
    (let s := { linked with mem := { linked.mem with dirty := [(0x200000000000, ⟨List.replicate 64 7, 0, []⟩)] } }
     s.mem.line? ((0x8000000000000 : BitVec 52).toNat / 64) ≠ none ∧ s.trunk.route (regionOf (0x200000000000 * 64)) = some (3, 0xA000000000000000) ∧
     smSorted none s.mem.dirty = true) ∧ State.reset.trunk.cxlUp.getLsbD 0 = false ∧ linked.trunk.cxlUp.getLsbD 1 = true := by decide +kernel
/-- Links: a line that stays in this module's cache and one whose region is severed; a port that is dark in phase 5. -/
theorem witness_snoop : linked.trunk.route (regionOf (0x200000000000 * 64)) = some (3, 0xA000000000000000) ∧
    (0xA000000000000000 : BitVec 64).getLsbD 61 = true ∧ 2 ^ 51 ≤ (0x8000000000000 : BitVec 52).toNat ∧
    State.reset.trunk.route (regionOf (0x200000000000 * 64)) = none ∧ 8 ≤ linked.trunk.step.toNat ∧
    (let s := { linked with trunk := { linked.trunk with phase := 5, charged := false } }
     s.trunk.phase.toNat = 5 ∧ s.trunk.charged = false) := by decide +kernel
/-- A partition that is on and whose scheduler takes messages, with a queue of `n` packets. -/
def scheduled (n : Nat) (tdi : BitVec 64 := 0) : State := linked.onPart 0 fun p => { p with
  partctl := 0x800000000000FFFF ||| (tdi <<< 60), schedctl := 0x800000C8271003E8, evqbase := 0x0000000000010001
  queues := p.queues.set 0 (List.replicate n ⟨List.replicate 64 0, 0, .port, [], true⟩) }
/-- OutsideRoutes: a launch port write with room, one of another size, one at the status word; messages to this module, to another one and with
a full queue; a report for an event queue that has room; host accesses. -/
theorem witness_routes : (scheduled 255).trunk.phase.toNat < 2 ∧ ((scheduled 255).part 0).partctl.getLsbD 63 = true ∧
    (((scheduled 255).part 0).queues[(0 : Fin 16)]).length < 256 ∧ ((scheduled 255).part 0).queues[(0 : Fin 16)] ≠ [] ∧
    (((scheduled 255).part 0).queues[(0 : Fin 16)]).all (·.headed) = true ∧ leNat (((List.replicate 64 (0 : Byte)).drop 40).take 4) = 0 ∧
    (let a := (0x040 : BitVec 15).toNat % 256
     0x40 ≤ a ∧ a + 8 ≤ 0x48) ∧ ¬((0x010 : BitVec 15).toNat % 256 = 0 ∧ 64 = 64) ∧
    256 ≤ (((scheduled 256).part 0).queues[(0 : Fin 16)]).length ∧ ((scheduled 256).part 0).schedctl.getLsbD 63 = true ∧
    leNat ((List.replicate 16 (0 : Byte)).take 4) ≠ (scheduled 1).modnum.toNat ∧
    leNat ((leBytes 4 5 ++ List.replicate 12 (0 : Byte)).take 4) = (scheduled 1).modnum.toNat ∧
    ((scheduled 1).part 0).evqbase.getLsbD 0 = true ∧ ((scheduled 1).part 0).evqdrops = 0 ∧
    (((scheduled 1).part 0).evqtail - ((scheduled 1).part 0).evqhead).toNat < 2 ^ ((((scheduled 1).part 0).evqbase.extractLsb' 56 4).toNat + 6) ∧
    ((scheduled 1 2).part 0).partctl.toNat / 2 ^ 60 % 8 = 2 ∧ ((scheduled 1).part 0).partctl.toNat / 2 ^ 60 % 8 ≠ 2 ∧
    { linked with trunk := { linked.trunk with fabports := linked.trunk.fabports.set 0 0x80000000 } }.path 6 true = some .fabric ∧
    OkThen (paged.readVirt ⟨0, none, false, false, false, false, false⟩ 0x1000 64) (fun _ _ => true) = true ∧
    OkThen (paged.xlateSpan ⟨0, none, false, false, false, false, false⟩ .write 0x1000 64) (fun _ _ => true) = true := by decide +kernel
/-- PartitionControl, Ownership: writes in each TDI, of a grove that another partition holds and of one that a context uses; a removal that is under
way; configuration entries; granules at both ends. -/
theorem witness_partitions : tdiOf (scheduled 1) 0 = 0 ∧ tdiOf (scheduled 1 1) 0 = 1 ∧ tdiOf (scheduled 1 2) 0 = 2 ∧
    ((scheduled 1).part 0).busy = false ∧ (0x8000000000000003 : BitVec 64).setWidth 16 ≠ (((scheduled 1).part 0).partctl.setWidth 16 : BitVec 16) ∧
    ((1 : BitVec 16).getLsbD 0 = true ∧ (((scheduled 1).part 1).partctl.setWidth 16 : BitVec 16).getLsbD 0 = false ∧ ((scheduled 1).part 0).holds 0 = true) ∧
    (((scheduled 1).onPart 1 fun p => { p with busy := true, teardown := true, removing := 0x8000 }).part 1).busy = true ∧
    smWf 0 (scheduled 1).trunk.memown = true ∧
    (let q := ((scheduled 1).onPart 0 fun p => { p with cfgsel := 0x4000000000001005, staged := [(0, 7)] }).part 0
     q.cfgsel.toNat / 2 ^ 62 = 1 ∧ q.cfgsel.toNat % 4096 < 1024 ∧ q.cfgsel.toNat / 2 ^ 12 % 4 = 1 ∧ q.staged = [(0, 7)] ∧ smWf 0 q.groups = true) ∧
    (let q := ((scheduled 1).onPart 0 fun p => { p with cfgsel := 5, staged := [(1, 1), (2, 0), (3, 0)] }).part 0
     q.cfgsel.toNat / 2 ^ 62 = 0 ∧ q.cfgsel.toNat / 2 ^ 12 % 4 = 0 ∧ q.staged = [(1, 1), (2, 0), (3, 0)] ∧ smWf (0, 0, 0) q.bind = true) ∧
    (let s := { scheduled 1 1 with trunk := { (scheduled 1 1).trunk with memsel := 0xDFF, memown := [(0xDFE, 0x0F)] } }
     s.trunk.memsel.toNat < 3584 ∧ s.trunk.owner 0xDFF = 0xF ∧ s.trunk.owner 0xDFE = 0 ∧ tdiOf s 0 = 1 ∧ s.trunk.ownBusy = []) := by decide +kernel
/-- TrustedInterface: each TDI; a secured session with a launch; a slot that is free and one that is taken; a range that the partition owns and one
that it does not. -/
theorem witness_trust :
    (let l : Launch := { (⟨List.replicate 64 0, 0, .port, [], true⟩ : Packet).stub 0 0 0xFFFF with lid := 9 }
     let s := { scheduled 1 2 with
       launches := [l], trunk := { (scheduled 1 2).trunk with secured := true, memown := [(0, 0x0F)] }
       parts := (scheduled 1 2).parts.set 0 { (scheduled 1 2).part 0 with
         session := true, keys := ((scheduled 1 2).part 0).keys.set 1 (some ⟨3, 9⟩), ranges := ((scheduled 1 2).part 0).ranges.set 1 (some ⟨0x100000, 1, 9⟩) } }
     s.trunk.secured = true ∧ (s.part 0).session = true ∧ tdiOf s 0 = 2 ∧ s.launch? 0 9 = some l ∧ s.launch? 0 8 = none ∧ l.digest = 0 ∧ (s.part 0).keys[(0 : Fin 16)] = none ∧
     (s.part 0).keys[(1 : Fin 16)] ≠ none ∧ (s.part 0).ranges[(1 : Fin 16)] = some ⟨0x100000, 1, 9⟩ ∧ (s.part 0).ranges[(0 : Fin 16)] = none ∧
     s.trunk.owner (0x200000 / 2 ^ 30) = (0 : PartNum).setWidth 4 ∧ s.trunk.owner (0x40000000 / 2 ^ 30) ≠ (0 : PartNum).setWidth 4 ∧
     0x200000 + 1 * 2 ^ 16 ≤ 2 ^ 39 ∧ ¬(0x200000 < 0x100000 + 1 * 2 ^ 16)) ∧
    (scheduled 1 1).trunk.secured = false ∧ ((scheduled 1).part 0).partctl.getLsbD 63 = true ∧ (0x12 : BitVec 8) ∉ spdmCodes ∧ (0xE5 : BitVec 8) ∈ spdmCodes ∧
    (0xE0 : BitVec 8) ∈ spdmCodes ∧ State.reset.trunk.exchanged = false ∧ ((scheduled 1).part 0).session = false := by
  decide +kernel
/-- The header of a kernel image of one bundle (R328): MAGIC, a dense schedule at 0x80 of length 1 with body 0 and no other entry points. -/
def imageWords : List (BitVec 64) :=
  [0x000000000E024B31, 0, 0, 0, 0, 0, 0xFFFFFFFF00000080, 0xFFFFFFFF00000000, 0, 0, 0, 0, 1, 0, 0, 0]
/-- A packet for the image at VA 0x1000 with LID 9. -/
def packet : Packet := ⟨leBytes 8 0x1000 ++ List.replicate 20 0 ++ leBytes 4 9 ++ List.replicate 32 0, 0, .port, [], true⟩
/-- A partition with frames from 16 MiB on and the packet at the head of queue 2. -/
def admitting (units : BitVec 64) : State :=
  (memWords 0x1000 imageWords paged).onPart 0 fun p => { p with framectl := (units <<< 36) ||| 0x100, queues := p.queues.set 2 [packet] }
/-- AdmissionsAndKills: a head that is admitted, one whose frames do not fit the region, one that is malformed; a partition that is off. -/
theorem witness_admission :
    (let s := admitting 2
     (s.part 0).partctl.getLsbD 63 = true ∧ s.trunk.phase = 0 ∧ (s.part 0).headWait.isSome = false ∧
     (s.launches.filter fun l => l.part = 0).length < 64 ∧ s.pickHead 0 = some (2, packet) ∧
     ((s.part 0).queues[(⟨(2 : BitVec 4).toNat, by decide⟩ : Fin 16)]).head? = some packet ∧ packet.bad = false ∧ packet.depPh = 0 ∧
     OkThen (s.readKernel 0 packet) (fun k s1 => OkThen (s1.imageDigest 0 packet k.1.imageEnd) fun _ s0 => OkThen (s0.readRanges 0 packet k.1.ranges) fun _ s2 =>
       s2.groveSet 0 packet = 1 && s2.bindingsOk 0 k.2 && k.1.levels.isEmpty && k.1.tiles = 0 && k.1.wslots = 0 && k.1.spad = 0 &&
       s2.trunk.ownsRange 0 0x1000000 (2 * 65536) && s2.frameRoom 0 (2 * 65536) = some 0x1000000) = true) ∧
    ((admitting 1).part 0).framectl.toNat / 2 ^ 36 % 2 ^ 24 * 65536 < 2 * 65536 ∧ { packet with bytes := List.replicate 64 0 }.bad = true ∧
    (State.reset.part 0).partctl.getLsbD 63 = false := by decide +kernel
/-- A launch of partition 0 with LID 7 and tasks 0 to 3 that runs on grove 0. -/
def launch7 : Launch := { packet.stub 0 2 1 with
  lid := 7, groves := 1, total := 4, open_ := 4, frames := 2, freeFrames := [0, 1], frameSize := 0x10000, base := 0x1000000
  kern := { Kernel.zero with sched0 := some ⟨0x10000, 1, 0xFFFFFFFF, 0, 0xFFFFFFFF⟩ } }
/-- A saved task of it. -/
def saved (st : TStatus) : Task := ⟨0, 7, 2, 0, st, { Ctx.zero with lid := 7, sidx := 2 }, [], [], 0, 0, 1, none⟩
/-- A module on which the launch has these tasks, and core 0 is idle. -/
def resting (l : List Task) : State :=
  let s := { paged with launches := [launch7], tasks := l }
  s.onCore 0 fun k => { k with busy := false }
/-- AdmissionsAndKills: a task that waits under token 5; a launch to kill. -/
theorem witness_answers : (let s := resting [saved (.page 5 0x1000 1 2)]
     (∃ t ∈ s.tasks, t.part = 0 ∧ t.status = .page (0x0000000000000005 : BitVec 64).toNat 0x1000 1 2) ∧
     (0x0000000000000005 : BitVec 64).getLsbD 63 = false ∧ (0x8000000000000005 : BitVec 64).getLsbD 63 = true ∧
     (s.launch? 0 7).isSome = true ∧ CoresListed s ∧ s.launch? 0 8 = none ∧ (∀ i : Fin 16, ∀ k ∈ (s.part 0).queues[i], k.lid ≠ 8)) ∧
    (let s := (admitting 2).onPart 0 fun p => { p with headWait := some (6, 0x1000) }
     (s.part 0).headWait = some (6, 0x1000) ∧ s.pickHead 0 = some (2, packet) ∧ s.tasks = []) := by
  unfold CoresListed; decide +kernel
/-- The launch runs on core 0, at slot C of a bundle. -/
def midway : State := { running 2 fun c => { c with boot := false, lid := 7 } with launches := [launch7] }
/-- AdmissionsAndKills: a context between the slots of a bundle, whose launch may be killed. -/
theorem witness_between : BetweenSlots (midway.core 0) ∧ (midway.core 0).busy = true ∧ (midway.core 0).ctx.boot = false ∧
    (midway.core 0).ctx.lid = 7 ∧ (midway.core 0).saving = false ∧ (midway.launch? 0 7).isSome = true := by
  constructor
  · exact (by decide : (2 : BitVec 2) ≠ 0)
  · decide +kernel
/-- No launch of it is killed, and one is. -/
theorem witness_not_killed : NotKilled midway 0 ∧ { midway with launches := [{ launch7 with killed := some 0 }] }.dying 0 = true := by
  constructor
  · intro l h
    have : midway.launch? 0 7 = some launch7 := by decide +kernel
    exact Option.some.inj (this.symm.trans h) ▸ rfl
  · decide +kernel
/-- Dispatching: an idle core with a saved task that is ready, with a fresh one, with none; a context whose quantum ends, with nothing ready and with
a task that it makes room for; a long wait; ages. -/
theorem witness_dispatch :
    (let s := resting [saved .ready]
     (s.core 0).busy = false ∧ s.trunk.phase = 0 ∧ s.grovePart (groveOf 0) = some 0 ∧
     (∃ a ∈ bestCand (s.candidates 0 0), a.saved = true ∧ a.lid = 7 ∧ a.sidx = 2) ∧ (s.launch? 0 7).isSome = true ∧
     s.tasks.find? (fun t => t.id = ⟨0, 7, 2⟩) = some (saved .ready) ∧ s.frameBad launch7 (saved .ready) = false ∧
     saved .ready ∈ s.tasks ∧ (∀ x ∈ s.tasks, x.id = ⟨0, 7, 2⟩ ↔ x = saved .ready)) ∧
    (let s := resting []
     (∃ a ∈ bestCand (s.candidates 0 0), a.saved = false ∧ a.lid = 7) ∧ launch7.kern.wins0 = [] ∧ launch7.kern.levels.length ≤ 6 ∧
     (∀ t ∈ s.tasks, t.id ≠ ⟨0, 7, 3⟩)) ∧
    (let s := { paged with launches := [{ launch7 with nextTask := 4, open_ := 0 }] }
     (s.core 0).busy = true ∧ (s.core 0).ctx.boot = false ∧ (s.core 0).expired = none ∧ s.wanted 0 (s.runPrio 0) = false ∧
     (s.core 0).ctx.collBusy = false ∧
     bestCand (s.candidates 0 1) = none) ∧
    (let s := paged.onCore 0 fun k => { k with ctx := { k.ctx with lid := 7, wait := .lock 0x2000 } }
     let s := { s with launches := [{ launch7 with nextTask := 4 }, { launch7 with lid := 8, prio := 7, total := 40, groves := 1 }] }
     let s := { s with cores := (List.range 16).map fun i => (i, s.core 0) }
     (s.core 0).busy = true ∧ s.wanted 0 0 = true ∧ (s.core 0).ctx.longWait = some (.lock 0x2000) ∧ (s.core 0).ctx.task.board = [] ∧
     (s.core 0).ctx.hand.board = [] ∧ (∀ i : Fin 16, (s.core 0).ctx.queues[i].entries = [] ∧ ((s.core 0).ctx.h[i]).win = none) ∧
     (s.core 0).saving = false ∧ (s.launch? 0 7).map (·.killed) = some none ∧
     { s.setCore 0 { s.core 0 with expired := some s.seqno } with seqno := s.seqno + 1 }.preempted 0 = true) := by decide +kernel
/-- PowerAndEventQueue: levels that are the grove's and not, EN on and off, rings that lie in HBM and do not, a locked partition. -/
theorem witness_power : (0 : BitVec 2).toNat = pwrField State.reset 3 2 2 ∧ (3 : BitVec 2).toNat ≠ pwrField State.reset 3 2 2 ∧
    (State.reset.grove 3).droopctl.getLsbD 31 = true ∧ ((State.reset.onGrove 3 fun g => { g with droopctl := 0 }).grove 3).droopctl.getLsbD 31 = false ∧
    { State.reset with trunk := { State.reset.trunk with phase := 3 } }.trunk.phase = 3 ∧ tdiOf (scheduled 1 1) 0 = 1 ∧
    ((scheduled 1).part 0).evqbase.getLsbD 0 = true ∧ ((scheduled 1).part 1).evqbase.getLsbD 0 = false ∧
    (let v : BitVec 64 := 0x0000007FFFFFF001
     v.getLsbD 0 = true ∧ v.toNat / 2 ^ 12 % 2 ^ 40 * 4096 + 32 * 2 ^ (v.toNat / 2 ^ 56 % 16 + 6) ≤ 2 ^ 39) ∧
    (let v : BitVec 64 := 0x0200007FFFFFF001
     v.getLsbD 0 = true ∧ 2 ^ 39 < v.toNat / 2 ^ 12 % 2 ^ 40 * 4096 + 32 * 2 ^ (v.toNat / 2 ^ 56 % 16 + 6)) := by decide +kernel
/-- InvalidationsAndHotness: GO with a count of 1, of 0, with ALL, with FLUSH, while one runs; a context of the partition; a window that is full. -/
theorem witness_invalidation : (0x8000000000000001 : BitVec 64).getLsbD 63 = true ∧ (0x8000000000000001 : BitVec 64).toNat % 2 ^ 24 ≠ 0 ∧
    (0xC000000000000000 : BitVec 64).getLsbD 62 = true ∧ (0xA000000000000001 : BitVec 64).getLsbD 61 = true ∧
    (paged.part 0).inval = none ∧ (paged.part 0).migbusy = none ∧
    (let s := paged.onPart 0 fun p => { p with inval := some ⟨0, 65536, false, false⟩ }
     (s.part 0).inval = some ⟨0, 65536, false, false⟩ ∧ (s.core 0).busy = true ∧ (s.core 0).ctx.part = 0 ∧ (s.core 0).ctx.boot = false ∧
     s.cores.map (·.1) = [0] ∧ (s.core 0).ctx.acks = [] ∧ (s.core 0).ctx.task.board ++ (s.core 0).ctx.hand.board = [] ∧ s.tasks = [] ∧
     (let w : Way := ⟨some 0, [(0x1000, 16)], [], false, 0⟩
      ∃ e ∈ w.via, e.1 < 0 + 65536 ∧ 0 < e.1 + 2 ^ e.2)) ∧
    (let l := { launch7 with kern := { Kernel.zero with ranges := [⟨0, 65536, 3⟩] }, lookups := [(0, 65536)] }
     let s := { resting [] with launches := [l] }
     s.launch? 0 7 = some l ∧ l.kern.ranges[(0 : BitVec 6).toNat]? = some ⟨0, 65536, 3⟩ ∧
     2 ^ ((s.part 0).hotctl.toNat % 32) ≤ smGet 0 0 l.lookups ∧ s.launch? 0 8 = none) := by decide +kernel
/-- Migrations: a leaf and a frame apart from it, one that overlaps, no leaf; a migration before and after its switch. -/
theorem witness_migration :
    (let s := paged.onPart 0 fun p => { p with migva := 0, migdst := 0x40000000 }
     (s.part 0).migbusy = none ∧ (s.part 0).inval = none ∧ (∃ x ∈ (s.migLeaf 0).1, x.ownk = false ∧ x.pageBytes = 2 ^ 30 ∧
       0x40000000 % x.pageBytes = 0 ∧ x.pagePa + x.pageBytes ≤ 0x40000000 ∧ 0x40000000 + x.pageBytes ≤ 2 ^ 39)) ∧
    (((paged.onPart 0 fun p => { p with migva := 0x80000000 }).migLeaf 0).1 = none) ∧
    (let m : Migration := ⟨0, false, 0, 0x20000, 0x10000000, 0x20000000, 0x10000, false, false⟩
     let s := paged.onPart 0 fun p => { p with migbusy := some m }
     (s.part 0).migbusy = some m ∧ m.switched = false ∧ m.lost = false ∧ canonical s = true ∧ Quiet s ∧ m.src % 64 = 0 ∧ m.dst % 64 = 0 ∧
     m.src + m.bytes ≤ 2 ^ 39 ∧ m.dst + m.bytes ≤ 2 ^ 39 ∧ m.entry + 8 ≤ 2 ^ 39 ∧
     (∀ q : PartNum, q ≠ 0 → (s.part q).migbusy = none) ∧ m.src + m.bytes ≤ m.dst ∧ m.bytes % 64 = 0 ∧ m.entry % 8 = 0 ∧
     (∀ a ∈ [m.src, m.dst], m.entry + 8 ≤ a ∨ a + m.bytes ≤ m.entry) ∧ EventsOff s 0 ∧ s.trunk.seedling = false ∧
     smWf 0 s.trunk.repair = true ∧ (smGet 0 0 s.trunk.repair).getLsbD 63 = false) := by
  unfold EventsOff Quiet; decide +kernel
/-- Migrations: a destination in a region that is severed; one in none that is routed. -/
theorem witness_cut : (let n := regionOf 0x8001234567890
    { linked.trunk with poolrte := [(3, 0xA00000FF00000000)] }.route n = some (3, 0xA00000FF00000000) ∧
    (0xA00000FF00000000 : BitVec 64).getLsbD 61 = true ∧ State.reset.trunk.route n = none) := by decide +kernel
/-- ElisionAndCheckpoints: bits set and cleared; a boundary with a context that has slots; a rollback with a checkpoint and without. -/
theorem witness_errors : smWf 0 State.reset.trunk.elide = true ∧ (1 : BitVec 64) &&& ~~~(0 : BitVec 64) ≠ 0 ∧
    (let s := (paged.onCore 0 fun k => { k with ctx := { k.ctx with lid := 7 } }).onPart 0 fun p => { p with ckptctl := 0x80000000000003E8 }
     let s := { s with launches := [{ launch7 with slots := true }] }
     (s.part 0).ckptctl.getLsbD 63 = true ∧ (s.core 0).busy = true ∧ (s.core 0).ctx.boot = false ∧ (s.core 0).ctx.csr.suspect = false ∧
     (∃ l ∈ s.launch? 0 7, l.slots = true) ∧ (s.core 0).ctx.task.board = [] ∧ (s.core 0).ctx.hand.board = [] ∧ (s.core 0).spadErr = [] ∧
     (∀ i : Fin 16, ((s.core 0).ctx.h[i]).win = none) ∧ s.cores.map (·.1) = [0] ∧ s.tasks = []) ∧
    (let t := saved (.rollback 0x15)
     let k : Checkpoint := ⟨0, 7, 2, Ctx.zero, [], [], []⟩
     let s := { resting [t] with checkpoints := [k], undo := [⟨0, 7, 2, 0x40, 3, List.replicate 64 0⟩] }
     t ∈ s.tasks ∧ t.status = .rollback 0x15 ∧ (∀ x ∈ s.tasks, x.id = ⟨0, 7, 2⟩ ↔ x = t) ∧ s.checkpoint? ⟨0, 7, 2⟩ = some k ∧
     t.ctx.irrevocable = false ∧ t.saving = none ∧ Quiet s ∧ canonical s = true ∧ s.mem.check = [] ∧ EventsOff s 0 ∧ NoMigration s ∧ (s.undo.map (·.block)).Nodup ∧
     (∀ e ∈ s.undo, e.block * 64 < 2 ^ 39 ∧ e.block * 64 + 63 < launch7.base) ∧ s.launch? 0 7 = some launch7) := by
  unfold EventsOff NoMigration Quiet; decide +kernel
/-- Dormancy: a warning that counts and one that does not; each phase; a manifest in the slot that the drain fills. -/
theorem witness_dormancy :
    (let s := { linked with trunk := { linked.trunk with dormctl := linked.trunk.dormctl ||| 0x8000000000000000, charged := true } }
     WarningCounts s ∧ s.trunk.dormctl.getLsbD 62 = true ∧ s.trunk.dormctl.getLsbD 61 = true) ∧ ¬WarningCounts State.reset ∧
    (∀ n ∈ [1, 2, 3, 4, 5], { linked with trunk := { linked.trunk with phase := BitVec.ofNat 4 n } }.trunk.phase = BitVec.ofNat 4 n) ∧
    linked.trunk.hot = none ∧ smSorted none linked.mem.dirty = true ∧ linked.trunk.drainSlot = 0 ∧
    Announced State.reset 0x007 ∧ ¬Announced { linked with trunk := { linked.trunk with caps := [] } } 0x007 := by
  unfold WarningCounts; decide +kernel
/-- A grove module in a step of its start. -/
def startingAt (n : Nat) : State := { State.reset with trunk := { State.reset.trunk with step := BitVec.ofNat 4 n } }
/-- Starts: each state of power, and each step of a start. -/
theorem witness_starts : State.reset.trunk.powered = true ∧ (State.reset.trunk.step = 0 ∧ State.reset.trunk.done = false) ∧
    ¬Dormant State.reset ∧ ¬(linked.trunk.step = 0 ∧ linked.trunk.done = false) ∧ linked.trunk.done = true ∧
    Dormant { linked with trunk := { linked.trunk with phase := 5 } } ∧ (0x8000000000000000 : BitVec 64).getLsbD 63 = true := by
  unfold Dormant; decide +kernel
/-- Starts: the steps after the first, with no core at work for them. -/
theorem witness_steps : ∀ n ∈ [1, 2, 3, 4, 5, 6, 7], (startingAt n).trunk.powered = true ∧ (startingAt n).trunk.done = false ∧
    (startingAt n).trunk.step ≠ 0 ∧ (startingAt n).booting = false ∧ (startingAt n).trunk.retest = [] := by decide +kernel
/-- A grove module in which every core has reported that it finished without a failure. -/
def marched : State := { State.reset with mem := { State.reset.mem with bytes := (List.range 256).map fun i => (0x807 + 8 * i, 0x80) } }
/-- A table with one value at every eighth key. -/
theorem get_eighths (a : Nat) (l : List Nat) :
    smGet (0 : Byte) a (l.map fun i => (0x807 + 8 * i, 0x80)) = if ∃ i ∈ l, 0x807 + 8 * i = a then 0x80 else 0 := by
  induction l with
  | nil => simp [smGet]
  | cons i t ih =>
    simp only [List.map_cons, smGet, ih, List.exists_mem_cons_iff]
    split <;> simp [*]
/-- Its bytes. -/
theorem marched_byte (a : Nat) : marched.byteAt a = if ∃ i ∈ List.range 256, 0x807 + 8 * i = a then 0x80 else 0 := by
  rw [← get_eighths]
  simp [State.byteAt, marched, State.reset, Trunk.elided, Mem.byte, Mem.line?, show Trunk.zero.elide = [] from rfl, smGet]
/-- Starts: step 6 after the reports. -/
theorem witness_march (c : CoreNum) : marched.marchSummary c = 1#64 <<< 63 := by
  have h (k : Nat) (hk : k < 7) : marched.byteAt (0x800 + 8 * c.toNat + k) = 0 := by
    rw [marched_byte, if_neg]; rintro ⟨i, -, h⟩; omega
  have h7 : marched.byteAt (0x800 + 8 * c.toNat + 7) = 0x80 := by
    rw [marched_byte, if_pos]; exact ⟨c.toNat, List.mem_range.2 (by omega), by omega⟩
  simp only [State.marchSummary, State.peek, show List.range 8 = [0, 1, 2, 3, 4, 5, 6, 7] from rfl, List.map_cons, List.map_nil, h7,
    h 0 (by decide), h 1 (by decide), h 2 (by decide), h 3 (by decide), h 4 (by decide), h 5 (by decide), h 6 (by decide)]
  decide +kernel
/-- PollardAndCuts: two live dies of which one is marked; a die marked and not shed, shed and not marked; a cut that can be armed, one that is late,
one that runs with its copy; a stored half. -/
theorem witness_pollard :
    Announced linked 0x008 ∧ Announced linked 0x006 ∧ Announced linked 0x00A ∧ Announced linked 0x002 ∧ Announced linked 0x003 ∧
    linked.trunk.pollctl.getLsbD 63 = true ∧ linked.trunk.brown.toNat < (1 : BitVec 2).toNat ∧ linked.trunk.dieslive.getLsbD 3 = true ∧
    shedBit linked 3 = false ∧ linked.trunk.shedOrder = [] ∧
    (let s := { linked with trunk := { linked.trunk with pollctl := linked.trunk.pollctl ||| 8 } }
     shedBit s (3 : BitVec 2).toNat = true ∧ (3 : BitVec 2) ∉ s.trunk.shedOrder) ∧
    (let s := { linked with trunk := { linked.trunk with shedOrder := [3] } }
     shedBit s 3 = false ∧ (3 : BitVec 2) ∈ s.trunk.shedOrder) ∧
    (0x8000000000000000 ||| 1 <<< 61 : BitVec 64).toNat / 2 ^ 61 % 4 = 1 ∧ linked.trunk.cut = none ∧ linked.liveLids 0 = [] ∧
    (let c : Cut := ⟨0, false, 1, 0, 40, [], [(0x1000, 5)], [], [0]⟩
     let s := { linked with
       mem := { linked.mem with bytes := [(0x1000, 1)] }
       trunk := { linked.trunk with cuts := [c], memown := [(0, 0x0F)], cut := some ⟨0, 0, 40, false, some c⟩, cutctl := 0x1000000000000000 } }
     s.trunk.cuts.find? (fun c => c.part = 0 ∧ c.half = s.trunk.cutstat.getLsbD 32) = some c ∧ smWf 0 s.mem.bytes = true ∧ s.trunk.elide = [] ∧
     (c.data.map (·.1)).Nodup ∧ (∀ e ∈ c.data, e.1 < 2 ^ 39 ∧ s.trunk.owner (e.1 / 2 ^ 30) = (0 : PartNum).setWidth 4) ∧
     s.trunk.cut = some ⟨0, 0, 40, false, some c⟩ ∧ s.trunk.cutctl.getLsbD 60 = true ∧ s.trunk.cutctl.getLsbD 59 = false) := by decide +kernel
/-- ConfigurationSpace: the writers, and the phases on both sides of the write-back. -/
theorem witness_configuration : linked.trunk.phase.toNat < 2 ∧ 2 ≤ { linked with trunk := { linked.trunk with phase := 2 } }.trunk.phase.toNat ∧
    Writer.supervisor 0 ≠ .supervisor 1 ∧ (0x8000000000000001 : BitVec 64).getLsbD 63 = true := by decide +kernel
/-- HandlerLimits: a form of each kind that the handler may not use. -/
theorem witness_handler_limits : handling.ctx.inHandler = true ∧ (encode (.vadd 5 6 7 0 6 0)).map (·.1) = some .c ∧
    (encode (.dzero 1)).map (·.1) = some .d ∧ handling.dying handling.cur = false ∧ (encode (.rpub 5 2)).isSome = true ∧ barred (.rpub 5 2) = true ∧ barred (.segbeg 0) = true := by
  decide +kernel
/-- HandlerLimits: a handler whose registers are clean, of a launch that is not killed. -/
theorem witness_clean : Clean handling ∧ NotKilled handling handling.cur := by
  constructor
  · have h : ∀ r : Reg, ((handling.thr.readA r).tag = 0 ∧ (handling.thr.readB r).tag = 0 ∧ (handling.thr.readD r).tag = 0 ∧
        (handling.ctx.vec.read r).side = 0) ∧ ((handling.portC r).map (·.tag)).getD 0 = 0 := by decide +kernel
    exact ⟨fun r => (h r).1, fun r v e => by simpa [e] using (h r).2⟩
  · intro l h
    have : handling.launches = [] := by decide +kernel
    simp [State.launch?, this] at h
/-- DecodeEncode: a legal instruction of each slot with its operands at their bounds, and its word. -/
theorem witness_encode : encode (.addi 16 19 0xFFFF) = some (.a, 0x2213FFFF) ∧ (Instr.addi 16 19 0xFFFF).illegal Config.caps = [] ∧
    (Instr.lds 23 23 7 3 0x3FF).illegal Config.caps = [] ∧ (Instr.vlds 16 23 0x8000).illegal Config.caps = [] ∧
    (Instr.drd 23 7 23).illegal Config.caps = [] := by decide +kernel
/-- StepRunsTheDecoded: an agenda with a step, a core without a context, one with a bundle in issue, one without. -/
theorem witness_step : { State.reset with agenda := [.powerOn] }.agenda = .powerOn :: [] ∧ State.reset.agenda = [] ∧
    (State.reset.core State.reset.cur).busy = false ∧ (access.core access.cur).busy = true ∧ (access.core access.cur).saving = false ∧ access.thr.issue = some (issueAt 1 []) ∧
    (State.reset.withFetchWord 32 0).thr.issue = none ∧ access.stalledStop = false := by decide +kernel
/-- The instruction that a slot in issue holds: the word 0 is NOP. -/
theorem witness_slot : SlotHolds (issueAt 1 []) .nop := ⟨Config.caps, by decide +kernel⟩
/-- MemoryKeepsItsForm: memory at reset, and with a dirty line and a byte. -/
theorem witness_form : Memory.wf State.reset.mem = true ∧ Memory.wf paged.mem = true := by decide +kernel

end Sys2Proof.Tests
end

section
/-!
PROOF. Configuration space (R8, R10, R22, R409, R471): what an aligned access of 8 bytes is in terms of `cfgPut`, `cfgWord` and
`clearRead`, where the blocks of a partition stand and who reaches them, and the statement about them (O52).
-/

namespace Sys2Proof.Machine

/-! ## Words and fields -/

/-- The bytes of a word, written over the whole of another, spell it. -/
theorem patchBytes_word (w v : BitVec 64) : patchBytes w 0 (leBytes 8 v.toNat) = v := by
  have hdrop : (leBytes 8 w.toNat).drop 8 = [] := List.drop_eq_nil_of_le (by simp [leBytes_length])
  have hlt : v.toNat % 256 ^ 8 = v.toNat := Nat.mod_eq_of_lt v.isLt
  simp only [patchBytes, List.take_zero, List.nil_append, Nat.zero_add, leBytes_length, hdrop, List.append_nil, leNat_leBytes, hlt]
  exact BitVec.eq_of_toNat_eq hlt

/-- A concatenation, as a sum. -/
theorem toNat_append_eq_add {m n : Nat} (x : BitVec m) (y : BitVec n) : (x ++ y).toNat = x.toNat * 2 ^ n + y.toNat := by
  rw [BitVec.toNat_append, ← Nat.shiftLeft_add_eq_or_of_lt y.isLt, Nat.shiftLeft_eq]

/-- Numbers of a range of which exactly one has a property. -/
theorem filter_range_eq_singleton {n j : Nat} {f : Nat → Bool} (hj : j < n) (hf : ∀ i < n, f i = true ↔ i = j) :
    (List.range n).filter f = [j] := by
  have hcongr : (List.range n).filter f = (List.range n).filter fun i => decide (i = j) :=
    List.filter_congr fun i hi => Bool.eq_iff_iff.2 ((hf i (List.mem_range.1 hi)).trans decide_eq_true_iff.symm)
  rw [hcongr, List.filter_eq, List.count_eq_one_of_mem List.nodup_range (List.mem_range.2 hj), List.replicate_one]

theorem State.setPart_part (s : State) (p : PartNum) : s.setPart p (s.part p) = s := by
  simp [State.setPart, State.part]

theorem meets_eq_true_iff {lo n off len : Nat} : meets lo n off len = true ↔ off < lo + n ∧ lo < off + len := by
  simp [meets]

/-! ## Aligned words -/

/-- A write of a whole aligned word is one `cfgPut` of both halves, where the writer reaches it. -/
theorem State.configWrite_word (s : State) (w : Writer) {off : Nat} (h8 : off % 8 = 0) (v : BitVec 64) :
    s.configWrite w off (leBytes 8 v.toNat) = if s.cfgReaches w off 8 true then s.cfgPut w off v true true else s := by
  have hlen : (leBytes 8 v.toNat).length = 8 := leBytes_length
  have htake : (leBytes 8 v.toNat).take 8 = leBytes 8 v.toNat := List.take_of_length_le hlen.le
  have hdrop : (leBytes 8 v.toNat).drop 8 = [] := List.drop_eq_nil_of_le hlen.le
  have hne : (leBytes 8 v.toNat).isEmpty = false := by rw [List.isEmpty_eq_false_iff_exists_mem]; exact ⟨_, List.mem_cons_self⟩
  simp [State.configWrite, State.cfgWrites, State.cfgWrite8, h8, hlen, htake, hdrop, hne, patchBytes_word]

/-- A read of a whole aligned word over the host link is one `cfgWord`, then what the read clears. -/
theorem State.configRead_word (s : State) {off : Nat} (h8 : off % 8 = 0) :
    s.configRead .host off 8 = (leBytes 8 (s.cfgWord off).toNat, ((s.clearRead off 8).fresh).2) := by
  have hone : (off + 8 + 7) / 8 - off / 8 = 1 := by omega
  have hoff : off / 8 * 8 = off := by omega
  simp [State.configRead, State.cfgReaches, hone, hoff, h8, List.take_of_length_le leBytes_length.le]

/-! ## What a read clears (R8) -/

/-- A read that meets no RC field clears nothing. -/
theorem State.clearRead_of_no_field (s : State) {off len : Nat}
    (hports : ∀ j < 36, meets (0x1000 + 16 * j) 2 off len = false) (hparts : ∀ j < 8, meets (0x4034 + 0x40 * j) 4 off len = false) :
    s.clearRead off len = s := by
  have h1 : (List.range 36).filter (fun j => meets (0x1000 + 16 * j) 2 off len) = [] :=
    List.filter_eq_nil_iff.2 fun j hj => by simp [hports j (List.mem_range.1 hj)]
  have h2 : (List.range 8).filter (fun j => meets (0x4034 + 0x40 * j) 4 off len) = [] :=
    List.filter_eq_nil_iff.2 fun j hj => by simp [hparts j (List.mem_range.1 hj)]
  simp [State.clearRead, h1, h2]

/-- A read of a fabric port's word clears RETRIES of that port alone. -/
theorem State.clearRead_fabport (s : State) {j : Nat} (hj : j < 36) :
    s.clearRead (0x1000 + 16 * j) 8 = s.onFabport j fun r => r &&& 0xFFFF0000 := by
  have h1 : (List.range 36).filter (fun i => meets (0x1000 + 16 * i) 2 (0x1000 + 16 * j) 8) = [j] :=
    filter_range_eq_singleton hj fun i _ => by rw [meets_eq_true_iff]; omega
  have h2 : (List.range 8).filter (fun i => meets (0x4034 + 0x40 * i) 4 (0x1000 + 16 * j) 8) = [] :=
    List.filter_eq_nil_iff.2 fun i _ => by rw [meets_eq_true_iff]; omega
  simp [State.clearRead, h1, h2]

/-- A read of evqtail's word clears LOST of that partition alone. -/
theorem State.clearRead_evqtail (s : State) (p : PartNum) :
    s.clearRead (0x4030 + 0x40 * p.toNat) 8 = s.setPart p { s.part p with evqlost := 0 } := by
  have h1 : (List.range 36).filter (fun i => meets (0x1000 + 16 * i) 2 (0x4030 + 0x40 * p.toNat) 8) = [] :=
    List.filter_eq_nil_iff.2 fun i hi => by rw [meets_eq_true_iff]; have := List.mem_range.1 hi; omega
  have h2 : (List.range 8).filter (fun i => meets (0x4034 + 0x40 * i) 4 (0x4030 + 0x40 * p.toNat) 8) = [p.toNat] :=
    filter_range_eq_singleton p.isLt fun i _ => by rw [meets_eq_true_iff]; omega
  simp [State.clearRead, h1, h2, State.readEvqtail, State.onPart]

/-! ## Where words stand -/

section Blocks
variable {p : PartNum} {k off : Nat} (hk : k < 8)
include hk

/-- Page, place in the page, block and word of an offset in an area of partitions' blocks. -/
theorem block_place {area : Nat} (harea : area % 0x1000 = 0) (h : off = area + 0x40 * p.toNat + 8 * k) :
    off / 0x1000 = area / 0x1000 ∧ off % 0x1000 < 0x200 ∧ blockWord off = (p, k) := by
  have hp : off % 0x200 / 0x40 = p.toNat := by omega
  have hword : off % 0x40 / 8 = k := by omega
  exact ⟨by omega, by omega, by simp [blockWord, hp, hword]⟩

theorem State.cfgPut_sched (h : off = 0x4000 + 0x40 * p.toNat + 8 * k) (s : State) (w : Writer) (v : BitVec 64) (lo hi : Bool) :
    s.cfgPut w off v lo hi = s.putSched p k v := by
  obtain ⟨hpage, hin, hblock⟩ := block_place hk (area := 0x4000) rfl h
  simp [State.cfgPut, hpage, hin, hblock]

theorem State.cfgPut_trans (h : off = 0x6000 + 0x40 * p.toNat + 8 * k) (s : State) (w : Writer) (v : BitVec 64) (lo hi : Bool) :
    s.cfgPut w off v lo hi = s.putTrans p k v := by
  obtain ⟨hpage, hin, hblock⟩ := block_place hk (area := 0x6000) rfl h
  simp [State.cfgPut, hpage, hin, hblock]

theorem State.cfgPut_part (h : off = 0x7000 + 0x40 * p.toNat + 8 * k) (s : State) (w : Writer) (v : BitVec 64) (lo hi : Bool) :
    s.cfgPut w off v lo hi = s.putPart w p k v := by
  obtain ⟨hpage, hin, hblock⟩ := block_place hk (area := 0x7000) rfl h
  simp [State.cfgPut, hpage, hin, hblock]

theorem State.cfgWord_sched (h : off = 0x4000 + 0x40 * p.toNat + 8 * k) (s : State) : s.cfgWord off = (s.part p).schedWord k := by
  obtain ⟨hpage, hin, hblock⟩ := block_place hk (area := 0x4000) rfl h
  simp [State.cfgWord, hpage, hin, hblock]

theorem State.cfgWord_trans (h : off = 0x6000 + 0x40 * p.toNat + 8 * k) (s : State) : s.cfgWord off = (s.part p).transWord k := by
  obtain ⟨hpage, hin, hblock⟩ := block_place hk (area := 0x6000) rfl h
  simp [State.cfgWord, hpage, hin, hblock]

theorem State.cfgWord_part (h : off = 0x7000 + 0x40 * p.toNat + 8 * k) (s : State) : s.cfgWord off = s.partWord p k := by
  obtain ⟨hpage, hin, hblock⟩ := block_place hk (area := 0x7000) rfl h
  simp [State.cfgWord, hpage, hin, hblock]

end Blocks

theorem State.cfgPut_slewramp (s : State) (w : Writer) (v : BitVec 64) {n : Nat} (hn : n < 16) (lo hi : Bool) :
    s.cfgPut w (0x5008 + 16 * n) v lo hi = s.writeSlewramp (BitVec.ofNat 4 n) v := by
  have hpage : (0x5008 + 16 * n) / 0x1000 = 5 := by omega
  have hin : (0x5008 + 16 * n) % 0x1000 < 0x100 := by omega
  have hodd : ¬(0x5008 + 16 * n) % 0x1000 % 16 = 0 := by omega
  have hgrove : (0x5008 + 16 * n) % 0x1000 / 16 = n := by omega
  simp only [State.cfgPut, hpage, hin, hodd, hgrove, if_true, if_false]

theorem State.cfgWord_fabport (s : State) (j : Fin 36) :
    s.cfgWord (0x1000 + 16 * j.val) = (s.trunk.fabports[j]).setWidth 64 := by
  have hpage : (0x1000 + 16 * j.val) / 0x1000 = 1 := by omega
  have hplace : (0x1000 + 16 * j.val) % 0x1000 = 16 * j.val := by omega
  have hin : 16 * j.val < 0x240 := by omega
  simp only [State.cfgWord, hpage, hplace]
  simp [hin, Trunk.fabport]

/-- The change of a port's register, for a number that names a port. -/
theorem State.onFabport_fin (s : State) (j : Fin 36) (f : BitVec 32 → BitVec 32) :
    s.onFabport j.val f = s.onTrunk fun t => { t with fabports := t.fabports.set j (f t.fabports[j]) } := by
  have hset (x : BitVec 32) : s.trunk.fabports.setIfInBounds j.val x = s.trunk.fabports.set j x :=
    Vector.ext fun i _ => by simp [Vector.getElem_setIfInBounds, Vector.getElem_set]
  simp [State.onFabport, State.onTrunk, Trunk.fabport, hset]

/-! ## What fields hold after a write -/

/-- A masked value holds the bits of its mask. -/
theorem getLsbD_and_eq {n : Nat} {v m : BitVec n} {f : Nat → Bool} (hm : ∀ i < n, m.getLsbD i = f i) :
    ∀ i < n, (v &&& m).getLsbD i = (v.getLsbD i && f i) := fun i hi => by rw [BitVec.getLsbD_and, hm i hi]

theorem atLeast1_toNat (x : BitVec 16) : (atLeast1 x).toNat = max 1 x.toNat := by
  unfold atLeast1
  split
  · next h => simp [h]
  · next h =>
    have : x.toNat ≠ 0 := fun h0 => h (BitVec.eq_of_toNat_eq h0)
    omega

/-- The uppermost bit of a word, as a quotient. -/
theorem toNat_getLsbD_63 (v : BitVec 64) : (v.getLsbD 63).toNat = v.toNat / 2 ^ 63 := by
  rw [BitVec.getLsbD, Nat.toNat_testBit]
  omega

/-- The fields of schedctl after a write (R350). -/
theorem Part.writeSchedctl_schedctl (q : Part) (v : BitVec 64) :
    (q.writeSchedctl v).schedctl.getLsbD 63 = v.getLsbD 63 ∧ (q.writeSchedctl v).schedctl.toNat / 2 ^ 48 % 2 ^ 15 = 0 ∧
      ∀ j < 3, (q.writeSchedctl v).schedctl.toNat / 2 ^ (16 * j) % 2 ^ 16 = max 1 (v.toNat / 2 ^ (16 * j) % 2 ^ 16) := by
  have hfield (lo : Nat) : (atLeast1 (v.extractLsb' lo 16)).toNat = max 1 (v.toNat / 2 ^ lo % 2 ^ 16) := by
    rw [atLeast1_toNat, BitVec.extractLsb'_toNat, Nat.shiftRight_eq_div_pow]
  have hsum : (q.writeSchedctl v).schedctl.toNat = (v.getLsbD 63).toNat * 2 ^ 63 + max 1 (v.toNat / 2 ^ 32 % 2 ^ 16) * 2 ^ 32 +
      max 1 (v.toNat / 2 ^ 16 % 2 ^ 16) * 2 ^ 16 + max 1 (v.toNat / 2 ^ 0 % 2 ^ 16) := by
    simp only [Part.writeSchedctl, toNat_append_eq_add, hfield, BitVec.toNat_ofBool, show (0 : BitVec 15).toNat = 0 from rfl]
    omega
  have htop : ((q.writeSchedctl v).schedctl.getLsbD 63).toNat = (v.getLsbD 63).toNat := by
    rw [toNat_getLsbD_63, hsum]
    omega
  refine ⟨by simpa only [Bool.ofNat_toNat] using congrArg Bool.ofNat htop, ?_, fun j hj => ?_⟩
  · omega
  · rw [hsum]
    interval_cases j <;> omega

/-- hotctl after a write (R403): EN, and WINLOG at least 10. -/
theorem hotctl_toNat (v : BitVec 64) :
    ((v &&& 0x8000000000000000) ||| BitVec.ofNat 64 (Nat.max 10 (v.setWidth 5).toNat)).toNat =
      v.toNat / 2 ^ 63 * 2 ^ 63 + max 10 (v.toNat % 32) := by
  have hen : (v &&& 0x8000000000000000).toNat = (v.toNat / 2 ^ 63) <<< 63 := by
    have hbit : (v.toNat.testBit 63).toNat = v.toNat / 2 ^ 63 := toNat_getLsbD_63 v
    rw [BitVec.toNat_and, show (0x8000000000000000 : BitVec 64).toNat = 2 ^ 63 from rfl, Nat.and_two_pow, hbit, Nat.shiftLeft_eq]
  have hlog : (BitVec.ofNat 64 (Nat.max 10 (v.setWidth 5).toNat)).toNat = max 10 (v.toNat % 32) := by
    rw [BitVec.toNat_ofNat, BitVec.toNat_setWidth]
    exact Nat.mod_eq_of_lt (by change max 10 (v.toNat % 2 ^ 5) < _; omega)
  rw [BitVec.toNat_or, hen, hlog, ← Nat.shiftLeft_add_eq_or_of_lt (by omega), Nat.shiftLeft_eq]

/-- ckptctl after a write that sets EN (R457): PERIOD between 1 and 10,000. -/
theorem State.writeCkptctl_of_en (s : State) (p : PartNum) {v : BitVec 64} (hv : v.getLsbD 63 = true) :
    ∃ r : BitVec 64, r.toNat = 2 ^ 63 + min 10000 (max 1 (v.toNat % 2 ^ 16)) ∧
      s.writeCkptctl p v = s.setPart p { s.part p with ckptctl := r } := by
  refine ⟨BitVec.ofBool (v.getLsbD 63) ++ (0 : BitVec 47) ++ BitVec.ofNat 16 (Nat.min 10000 (Nat.max 1 (v.setWidth 16).toNat)),
    ?_, by simp only [State.writeCkptctl, hv, if_true]; rfl⟩
  have hperiod : (BitVec.ofNat 16 (Nat.min 10000 (Nat.max 1 (v.setWidth 16).toNat))).toNat =
      min 10000 (max 1 (v.toNat % 2 ^ 16)) := by
    rw [BitVec.toNat_ofNat, BitVec.toNat_setWidth]
    exact Nat.mod_eq_of_lt (by change min 10000 (max 1 (v.toNat % 2 ^ 16)) < _; omega)
  rw [toNat_append_eq_add, toNat_append_eq_add, hperiod, hv]
  simp

/-- evqhead after a write (R386): one past TAIL is ignored. -/
theorem State.writeEvqhead_eq (s : State) (p : PartNum) (v : BitVec 64) :
    s.writeEvqhead p v =
      if ((s.part p).evqtail - (s.part p).evqhead).toNat < ((v.setWidth 32 : BitVec 32) - (s.part p).evqhead).toNat then s
      else s.setPart p { s.part p with evqhead := v.setWidth 32 } := by
  show s.setPart p (if _ then _ else _) = _
  rw [apply_ite (s.setPart p), s.setPart_part]

end Sys2Proof.Machine

namespace Sys2Proof.Claims

open Sys2Proof.Machine

/-! ## Writes of a word -/

/-- The bytes that a supervisor may write: its three blocks without partctl (R409). -/
theorem superReaches_write_iff {s : State} {r : PartNum} {off : Nat} : s.superReaches r off 8 true = true ↔
    (0x4000 + 0x40 * r.toNat ≤ off ∧ off + 8 ≤ 0x4040 + 0x40 * r.toNat) ∨
    (0x6000 + 0x40 * r.toNat ≤ off ∧ off + 8 ≤ 0x6040 + 0x40 * r.toNat) ∨
    (0x7008 + 0x40 * r.toNat ≤ off ∧ off + 8 ≤ 0x7040 + 0x40 * r.toNat) := by
  simp only [State.superReaches, within, if_true, Bool.or_eq_true, Bool.and_eq_true, decide_eq_true_eq, Bool.not_true,
    Bool.false_eq_true, false_and, or_false]
  omega

section Stores
variable {s : State} {w : Writer} {off : Nat} (h8 : off % 8 = 0) (hlt : off < 0x10000) (v : BitVec 64)
include h8 hlt

/-- What a write of a word does, whoever writes. -/
theorem exec_registerWrite_word : exec (.registerWrite w (BitVec.ofNat 16 off) true v) s =
    .next (s.written w true (if s.cfgReaches w off 8 true then s.cfgPut w off v true true else s)) := by
  have hoff : (BitVec.ofNat 16 off).toNat = off := Nat.mod_eq_of_lt hlt
  show execRegisterWrite _ _ _ _ _ = _
  rw [execRegisterWrite, hoff, if_pos rfl, s.configWrite_word w h8]

/-- A writer that reaches the word and that the module hears stores it. -/
theorem stores_of_reaches (hw : w = .host → s.trunk.phase.toNat < 2) (hr : s.cfgReaches w off 8 true = true) :
    Stores s w off v (s.cfgPut w off v true true) := by
  have hheard : (w = .host && decide (2 ≤ s.trunk.phase.toNat)) = false := by
    by_cases h : w = .host
    · simpa [h] using hw h
    · simp [h]
  rw [Stores, exec_registerWrite_word h8 hlt, hr, State.written, hheard]
  rfl

/-- A supervisor's write outside what it reaches is dropped (R409). -/
theorem stores_self_of_not_reaches {r : PartNum} (hr : ¬s.superReaches r off 8 true = true) :
    Stores s (.supervisor r) off v s := by
  rw [Stores, exec_registerWrite_word h8 hlt]
  simp [State.cfgReaches, hr, State.written]

end Stores

/-- A supervisor's write to a word of another partition's blocks is dropped. -/
theorem stores_self_other_block {s : State} {r p : PartNum} {k area : Nat} (v : BitVec 64) (hne : r ≠ p) (hk : k < 8)
    (harea : area ∈ [0x4000, 0x6000, 0x7000]) : Stores s (.supervisor r) (area + 0x40 * p.toNat + 8 * k) v s := by
  have hne' : r.toNat ≠ p.toNat := fun h => hne (BitVec.eq_of_toNat_eq h)
  simp only [List.mem_cons, List.not_mem_nil, or_false] at harea
  exact stores_self_of_not_reaches (by omega) (by omega) v (by rw [superReaches_write_iff]; omega)

/-- From the write-back phase on, the host's write of any word is an Unsupported Request (R471). -/
theorem stores_unsupported {s : State} (hp : 2 ≤ s.trunk.phase.toNat) (off : Nat) (v : BitVec 64) :
    Stores s .host off v { s with out := s.out ++ [.unsupported] } := by
  show execRegisterWrite _ _ _ _ _ = _
  simp [execRegisterWrite, State.written, hp, State.send]

/-- The writers that reach a partition's blocks, where the module hears them. -/
def WritesBlocks (s : State) (w : Writer) (p : PartNum) : Prop :=
  w = .glidin ∨ w = .supervisor p ∨ (w = .host ∧ s.trunk.phase.toNat < 2)

theorem WritesBlocks.heard {s : State} {w : Writer} {p : PartNum} (hw : WritesBlocks s w p) (h : w = .host) :
    s.trunk.phase.toNat < 2 := by
  rcases hw with rfl | rfl | ⟨-, hp⟩
  · cases h
  · cases h
  · exact hp

section Blocks
variable {s : State} {w : Writer} {p : PartNum} {k off : Nat} (hw : WritesBlocks s w p) (hk : k < 8) (v : BitVec 64)
include hw hk

/-- The writers of a partition's blocks reach every word of them, a supervisor all but partctl. -/
theorem WritesBlocks.reaches (hoff : off = 0x4000 + 0x40 * p.toNat + 8 * k ∨ off = 0x6000 + 0x40 * p.toNat + 8 * k ∨
    (off = 0x7000 + 0x40 * p.toNat + 8 * k ∧ k ≠ 0)) : s.cfgReaches w off 8 true = true := by
  rcases hw with rfl | rfl | ⟨rfl, -⟩
  · rfl
  · exact superReaches_write_iff.2 (by omega)
  · rfl

theorem stores_sched (h : off = 0x4000 + 0x40 * p.toNat + 8 * k) : Stores s w off v (s.putSched p k v) := by
  rw [← State.cfgPut_sched hk h s w v true true]
  exact stores_of_reaches (by omega) (by omega) v hw.heard (hw.reaches hk (.inl h))

theorem stores_trans (h : off = 0x6000 + 0x40 * p.toNat + 8 * k) : Stores s w off v (s.putTrans p k v) := by
  rw [← State.cfgPut_trans hk h s w v true true]
  exact stores_of_reaches (by omega) (by omega) v hw.heard (hw.reaches hk (.inr (.inl h)))

theorem stores_part (h : off = 0x7000 + 0x40 * p.toNat + 8 * k) (h0 : k ≠ 0) : Stores s w off v (s.putPart w p k v) := by
  rw [← State.cfgPut_part hk h s w v true true]
  exact stores_of_reaches (by omega) (by omega) v hw.heard (hw.reaches hk (.inr (.inr ⟨h, h0⟩)))

end Blocks

/-! ## Reads of a word -/

/-- The host's answer to a read of a word, before the write-back phase. -/
theorem answers8_of_word {s t : State} {off : Nat} {v : BitVec 64} (hp : s.trunk.phase.toNat < 2) (h8 : off % 8 = 0)
    (hlt : off < 0x10000) (hword : s.cfgWord off = v) (hclear : s.clearRead off 8 = t) : Answers8 s off v t := by
  have hoff : (BitVec.ofNat 16 off).toNat = off := Nat.mod_eq_of_lt hlt
  have hheard : decide (2 ≤ s.trunk.phase.toNat) = false := decide_eq_false (by omega)
  show execReadClear _ _ _ _ = _
  simp [execReadClear, readLen, hoff, h8, s.configRead_word h8, hword, hclear, State.written, hheard, State.send, State.fresh]

/-- One that meets no RC field leaves the registers. -/
theorem answers8_of_no_field {s : State} {off : Nat} {v : BitVec 64} (hp : s.trunk.phase.toNat < 2) (h8 : off % 8 = 0)
    (hlt : off < 0x10000) (hword : s.cfgWord off = v) (hport : off < 0x1000 ∨ 0x1240 ≤ off)
    (hlost : off < 0x4000 ∨ 0x4200 ≤ off ∨ off % 0x40 ≠ 0x30) : Answers8 s off v s := by
  refine answers8_of_word hp h8 hlt hword (s.clearRead_of_no_field (fun j hj => ?_) fun j hj => ?_) <;>
  · rw [← Bool.not_eq_true, meets_eq_true_iff]; omega

/-! ## The statement -/

/-- Settles O52: each word is one `cfgPut` or one `cfgWord`; the fields that a register has are those of its mask or its sum. -/
theorem configurationSpace : Obligations.ConfigurationSpace := by
  intro s w v p b q
  refine ⟨fun hw => ?_, fun hw => ?_, ?_, ?_, ?_, fun hp => ?_⟩
  · have store {off : Nat} (h8 : off % 8 = 0) (hlt : off < 0x10000) : Stores s w off v (s.cfgPut w off v true true) := by
      rcases hw with rfl | ⟨rfl, hp⟩
      · exact stores_of_reaches h8 hlt v (fun h => nomatch h) rfl
      · exact stores_of_reaches h8 hlt v (fun _ => hp) rfl
    refine ⟨store rfl (by decide), store rfl (by decide), store rfl (by decide), store rfl (by decide), store rfl (by decide),
      store rfl (by decide), fun n hn => ?_, fun off hoff => ?_⟩
    · have := store (off := 0x5008 + 16 * n) (by omega) (by omega)
      rwa [s.cfgPut_slewramp w v hn] at this
    · rcases hoff with rfl | rfl | rfl | rfl | rfl | rfl <;> exact store rfl (by decide)
  · replace hw : WritesBlocks s w p := hw
    refine ⟨⟨v &&& 0x800FFFFFFFFFFFFF, getLsbD_and_eq (by decide), stores_sched hw (k := 7) (by decide) v (by omega)⟩,
      ⟨_, q.writeSchedctl_schedctl v, stores_sched hw (k := 0) (by decide) v (by omega)⟩, ?_,
      ⟨v &&& 0x00FFFFFFFFFF0000, getLsbD_and_eq (by decide), stores_trans hw (k := 1) (by decide) v (by omega),
        stores_trans hw (k := 4) (by decide) v (by omega)⟩,
      ⟨v &&& 0x000FFFFFFFFFFFFF, getLsbD_and_eq (by decide), stores_trans hw (k := 5) (by decide) v (by omega)⟩,
      ⟨_, hotctl_toNat v, stores_trans hw (k := 7) (by decide) v (by omega)⟩, fun hv => ?_,
      stores_trans hw (k := 3) (by decide) v (by omega)⟩
    · rw [← s.writeEvqhead_eq p v]
      exact stores_sched hw (k := 5) (by decide) v (by omega)
    · obtain ⟨r, hr, hput⟩ := s.writeCkptctl_of_en p hv
      exact ⟨r, hr, hput ▸ stores_part hw (k := 5) (by decide) v (by omega) (by decide)⟩
  · rintro rfl hp off -
    exact stores_unsupported hp off v
  · rintro r rfl hne k hk
    exact ⟨stores_self_other_block v hne hk (by decide), stores_self_other_block v hne hk (by decide),
      stores_self_other_block v hne hk (by decide)⟩
  · rintro r rfl
    exact ⟨stores_self_of_not_reaches (by omega) (by omega) v (by rw [superReaches_write_iff]; omega),
      stores_self_of_not_reaches rfl (by decide) v (by rw [superReaches_write_iff]; omega),
      stores_self_of_not_reaches rfl (by decide) v (by rw [superReaches_write_iff]; omega)⟩
  · have port (j : Fin 36) := (s.clearRead_fabport j.isLt).trans (s.onFabport_fin j _)
    refine ⟨answers8_of_no_field hp rfl (by decide) rfl (by decide) (by decide),
      fun j => answers8_of_word hp (by omega) (by omega) (s.cfgWord_fabport j) (port j),
      answers8_of_word hp (by omega) (by omega) (State.cfgWord_sched (k := 6) (by decide) (by omega) s) (s.clearRead_evqtail p),
      answers8_of_no_field hp (by omega) (by omega) (State.cfgWord_part (k := 0) (by decide) (by omega) s) (by omega) (by omega),
      answers8_of_no_field hp (by omega) (by omega) (State.cfgWord_sched (k := 0) (by decide) (by omega) s) (by omega) (by omega),
      answers8_of_no_field hp (by omega) (by omega) (State.cfgWord_trans (k := 0) (by decide) (by omega) s) (by omega) (by omega),
      answers8_of_no_field hp rfl (by decide) rfl (by decide) (by decide),
      answers8_of_no_field hp rfl (by decide) rfl (by decide) (by decide)⟩

end Sys2Proof.Claims
end

section
/-!
PROOF. A step (R29, R66, R67, R353): the slot in issue runs the instruction that its word decodes to, the next slot follows once it
commits, and the turn passes; the statement about a step (O55).
-/

namespace Sys2Proof.Claims

open Sys2Proof.Machine

/-- A header's six highest bits are ones (R29). -/
theorem isHeader_eq_decide (w : BitVec 32) : isHeader w = decide (w.toNat / 2 ^ 26 = 0x3F) := by
  simp only [isHeader, bits, decide_eq_decide, ← BitVec.toNat_inj, BitVec.extractLsb'_toNat, Nat.shiftRight_eq_div_pow]
  have h63 : (0x3F#6).toNat = 63 := rfl
  have := w.isLt
  omega

/-- A word that decodes reads in its slot's map as a row of its own or as SWPT. -/
theorem raw_of_decodeSlot {caps : List (BitVec 12)} {sl : Slot} {w : BitVec 32} {i : Instr} (h : decodeSlot caps sl w = some i) :
    (∃ cs, raw sl w = .ok i cs) ∨ ∃ n cs, raw sl w = .swpt n cs ∧ i = .swpt n := by
  unfold decodeSlot at h
  split at h
  · cases hr : raw sl w with
    | bad c => simp [hr, Raw.instr] at h
    | ok j cs => rw [hr] at h; cases h; exact .inl ⟨cs, rfl⟩
    | swpt n cs => rw [hr] at h; cases h; exact .inr ⟨n, cs, rfl, rfl⟩
  · cases h

/-- SWPT's meaning is the direct call by which a bundle runs it. -/
theorem exec_swpt (n : BitVec 12) (s : State) : exec (.swpt n) s = Sys2Proof.Machine.execSwpt n s := by rfl

/-- The slot in issue runs the instruction that it holds (R29, R67). -/
theorem runSlot_of_holds {s : State} {b : Issue} {i : Instr} (hb : s.thr.issue = some b) (h : SlotHolds b i) :
    s.runSlot = exec i s := by
  have hn : s.thr.slotNow = b.slot := by simp [Thread.slotNow, hb]
  have hw : s.thr.wordNow = slotWord b b.slot := by simp [Thread.wordNow, hb, slotWord]
  have hsl : slotOf b.slot = slotNamed b.slot := rfl
  unfold State.runSlot
  simp only [hn, hw, hsl]
  unfold SlotHolds at h
  split at h
  · rename_i hd
    have hwa : slotWord b b.slot = b.wa := by simp [slotWord, hd.1]
    rw [if_pos (by rw [hwa, isHeader_eq_decide]; simp only [hd, decide_true, Bool.and_self]), h]
  · rename_i hd
    have hno : ¬ (decide (b.slot = 0) && isHeader (slotWord b b.slot)) = true := by
      rw [Bool.and_eq_true, isHeader_eq_decide, decide_eq_true_iff, decide_eq_true_iff]
      rintro ⟨h0, hh⟩
      exact hd ⟨h0, by simpa [slotWord, h0] using hh⟩
    rw [if_neg hno]
    obtain ⟨caps, hdec⟩ := h
    obtain ⟨cs, hr⟩ | ⟨n, cs, hr, rfl⟩ := raw_of_decodeSlot hdec
    · simp only [hr]
    · simp only [hr, exec_swpt]

/-- The slots after one that answers a next state. -/
theorem runSlots_succ {s t : State} {b : Issue} {i : Instr} (n : Nat) (hb : s.thr.issue = some b) (h : SlotHolds b i)
    (ht : exec i s = .next t) :
    (t.thr.issue = none → runSlots (n + 1) s = .next t) ∧
    ∀ c, t.thr.issue = some c → runSlots (n + 1) s = if c.slot = b.slot then .next t else runSlots n t := by
  have hr : s.runSlot = .next t := (runSlot_of_holds hb h).trans ht
  constructor
  · intro hn
    simp only [runSlots, hb, hr, hn]
  · intro c hc
    simp only [runSlots, hb, hr, hc]

/-- With no step of another agent pending, a step is the current core's turn. -/
theorem step_of_idle_agenda {s : State} (h : s.agenda = []) : step s = s.turn := by simp only [step, h]

/-- The turn of a core that runs nothing passes (R297). -/
theorem turn_idle {s : State} (h : (s.core s.cur).busy = false ∨ (s.core s.cur).saving = true) : s.turn = .next s.pass := by
  have : (!(s.core s.cur).busy || (s.core s.cur).saving) = true := by simpa using h
  simp only [State.turn, this, if_true]

/-- A core without a bundle in issue runs the slots of its next one. -/
theorem turn_issueNext {s : State} (hb : (s.core s.cur).busy = true) (hs : (s.core s.cur).saving = false)
    (hi : s.thr.issue = none) : s.turn = thenPass (runSlots 4 s.issueNext) := by
  simp only [State.turn, hb, hs, hi]
  rfl

/-- A core with a bundle in issue runs its slots, unless a stop is due for a context that waits in its slot (R437). -/
theorem turn_inIssue {s : State} {b : Issue} (hb : (s.core s.cur).busy = true) (hs : (s.core s.cur).saving = false)
    (hi : s.thr.issue = some b) :
    s.turn = if s.stalledStop = true then .next (s.stop s.cur .ready).pass else thenPass (runSlots 4 s) := by
  simp only [State.turn, hb, hs, hi]
  rfl

/-- Settles O55, from the turn of a core and the instruction that its slot in issue runs. -/
theorem stepRunsTheDecoded : Obligations.StepRunsTheDecoded := by
  unfold Obligations.StepRunsTheDecoded
  intro s
  refine ⟨fun i l h t ht => ?_, fun ha => ?_, fun b n hb i hi t ht => runSlots_succ n hb hi ht⟩
  · simp only [step, h, ht, woken]
  · rw [step_of_idle_agenda ha]
    refine ⟨turn_idle, turn_issueNext, fun b hb hs hi => ?_⟩
    rw [turn_inIssue hb hs hi]
    refine ⟨fun hd => if_pos hd, fun hd => ?_⟩
    rw [if_neg (by simp [hd])]
    refine ⟨rfl, fun i hh t ht => ?_⟩
    obtain ⟨hnone, hsome⟩ := runSlots_succ 3 hi hh ht
    refine ⟨fun h => by rw [hnone h]; rfl, fun c hc he => by rw [hsome c hc, if_pos he]; rfl,
      fun c hc he => by rw [hsome c hc, if_neg he]⟩

end Sys2Proof.Claims
end

section
/-!
PROOF. The answers to requests (R42, R263): why the statement about them (O37) fails. Its clause for a load that a shed die had not
performed bounds the load's width nowhere, and a wider load than a register has no value that its bytes spell. A load of the module
reads 8 bytes at most (R262), so the state that refutes the clause is one that no run reaches.
-/

namespace Sys2Proof.Claims

open Sys2Proof.Machine

/-- A load of 9 bytes of core 0's own scratchpad for b0, not yet performed. -/
def wideLoad : Pend := ⟨0, .b 0, .later (.spad 0 0 9) (.load false), 0, false, false, .none, false⟩
/-- Core 0 waits for that load; of the bytes it names, the last one alone is not zero. -/
def wideLoadWaits : State :=
  State.reset.setCore 0 { Core.zero with
    busy := true, spad := [(8, 1)], ctx := { Ctx.zero with task := { Thread.zero with board := [wideLoad] } } }

theorem wideLoad_outstanding : Outstanding wideLoadWaits 0 0 wideLoad 0 := ⟨rfl, rfl, rfl, rfl, rfl⟩

/-- The nine bytes spell 2^64. -/
theorem spelled_wideLoad : spelled 9 (fun i => spadByte wideLoadWaits 0 (0 + i)) = 2 ^ 64 := by
  simp [spelled, Finset.sum_range_succ, spadByte, wideLoadWaits, smGet]

/-- No register holds what a wider load than it spells. -/
theorem not_loaded_of_le_spelled {n : Nat} {f : Nat → Byte} {v : TVal} (h : 2 ^ 64 ≤ spelled n f) : ¬ Loaded false false n f v := by
  intro hl
  have hv : v.val.toNat = spelled n f := by simpa using (hl.2 rfl).2
  have := v.val.isLt
  omega

/-- Refutes O37: a load of nine bytes that a shed die had not performed has no value of 64 bits that its bytes spell; the clause for such a
load needs the bound of 8 bytes that the clause for another module's answer has. -/
theorem not_requests : ¬ Obligations.Requests := by
  unfold Obligations.Requests
  rintro ⟨answers, -, -⟩
  obtain ⟨-, -, later, -⟩ := (answers wideLoadWaits 0).1 0 wideLoad 0 wideLoad_outstanding
  obtain ⟨v, hv, -⟩ := later 0 0 9 false 0 false rfl rfl
  exact not_loaded_of_le_spelled (le_of_eq spelled_wideLoad.symm) hv

end Sys2Proof.Claims
end

section
/-!
PROOF. Exact numbers behind the floating-point operations (R104-R109): the rational number that a value is, sums and roundings of such
numbers, and the bounds of result codes.
-/

namespace Sys2Proof.Claims

open Sys2Proof.Machine

/-! ## Signed magnitudes -/

theorem rat_eq_signed (neg : Bool) (m : Nat) (e : Int) : rat neg m e = (signed neg m : ℚ) * 2 ^ e := by
  cases neg <;> simp [rat, signed]

/-- An integer from its sign and magnitude. -/
theorem signed_natAbs (i : Int) : signed (decide (i < 0)) i.natAbs = i := by
  unfold signed
  split <;> rename_i h <;> simp at h <;> omega

/-- A power of two that a scale difference makes an integer. -/
theorem zpow_toNat {e lo : Int} (h : lo ≤ e) : ((2 : ℚ) ^ (e - lo).toNat) * 2 ^ lo = 2 ^ e := by
  rw [← zpow_natCast, ← zpow_add₀ two_ne_zero, Int.toNat_of_nonneg (by omega)]
  congr 1
  omega

/-- The sum of two dyadic numbers is exact. -/
theorem dyAdd_eq (i e j d : Int) : ((dyAdd i e j d).1 : ℚ) * 2 ^ (dyAdd i e j d).2 = i * 2 ^ e + j * 2 ^ d := by
  simp only [dyAdd]
  split <;> rename_i h
  · simp [add_mul, mul_assoc, zpow_toNat h]
  · simp [add_mul, mul_assoc, zpow_toNat (le_of_not_ge h)]

/-! ## Roundings -/

theorem sign_zero (f : FFmt) (neg : Bool) : f.sign neg 0 = zero f neg := by
  simp [FFmt.sign, zero, FFmt.width, Nat.add_assoc]

theorem sign_infCode (f : FFmt) (neg : Bool) : f.sign neg f.infCode = infinity f neg := by
  simp [FFmt.sign, infinity, FFmt.infCode, FFmt.width, Nat.add_assoc]

/-- A value of magnitude other than zero is rounded once. -/
theorem roundsTo_round {f : FFmt} {mode : RMode} {neg : Bool} {m : Nat} {e : Int} (h : m ≠ 0) :
    RoundsTo f mode (rat neg m e) (f.round mode neg m e) := ⟨neg, m, e, h, rfl, rfl⟩

/-- A zero keeps its sign and raises nothing. -/
theorem round_zero (f : FFmt) (mode : RMode) (neg : Bool) (e : Int) : f.round mode neg 0 e = (zero f neg, 0) := by
  simp [FFmt.round, sign_zero]

theorem roundInt_zero (f : FFmt) (mode : RMode) (z : Bool) (e : Int) : f.roundInt mode z 0 e = (zero f z, 0) := by
  simp [FFmt.roundInt, sign_zero]

/-- An integer other than zero under a scale is rounded once. -/
theorem roundsTo_roundInt {f : FFmt} {mode : RMode} {z : Bool} {i e : Int} (h : i ≠ 0) :
    RoundsTo f mode (i * 2 ^ e) (f.roundInt mode z i e) := by
  refine ⟨decide (i < 0), i.natAbs, e, by simpa using h, ?_, by simp [FFmt.roundInt, h]⟩
  rw [rat_eq_signed, signed_natAbs]

/-- Addition is IEEE 754's sum (R105). -/
theorem sum_addV (f : FFmt) (mode : RMode) (x y : FVal) : Sum f mode x y (f.addV mode x y) := by
  cases x <;> cases y
  case fin.fin a m e b n d =>
    have hd := dyAdd_eq (signed a m) e (signed b n) d
    simp only [Sum, FFmt.addV, rat_eq_signed]
    split <;> rename_i h
    · have hi : (dyAdd (signed a m) e (signed b n) d).1 = 0 := by
        simpa [h, zpow_ne_zero _ (two_ne_zero' ℚ)] using hd
      rw [hi, roundInt_zero]
      simp [and_assoc]
    · rw [← hd] at h ⊢
      exact roundsTo_roundInt fun hi => h (by simp [hi])
  case inf.inf a b => simp only [Sum, FFmt.addV, sign_infCode]; rfl
  all_goals simp [Sum, FFmt.addV, FFmt.quiet, sign_infCode]

/-! ## Bounds of codes -/

/-- A format of IEEE's style with room for its poison pattern. -/
structure PlainIeee (f : FFmt) : Prop where
  style : f.style = .ieee
  mantissa : 2 ≤ f.mb

variable {f : FFmt}

theorem PlainIeee.poisonCode_lt (h : PlainIeee f) : f.poisonCode < 2 ^ (f.eb + f.mb) := by
  obtain ⟨k, hk⟩ := Nat.exists_eq_add_of_le h.mantissa
  have he : 1 ≤ 2 ^ f.eb := Nat.one_le_two_pow
  obtain ⟨q, hq⟩ := Nat.exists_eq_add_of_le he
  have hm : 0 < 2 ^ k := Nat.two_pow_pos k
  have e1 : 2 + k - 1 = k + 1 := by omega
  have e2 : 2 + k - 2 = k := by omega
  simp only [FFmt.poisonCode, h.style, FFmt.infCode, hk, e1, e2, hq, Nat.pow_add, Nat.add_sub_cancel_left]
  nlinarith

theorem PlainIeee.nanCode_lt (h : PlainIeee f) : f.nanCode < 2 ^ (f.eb + f.mb) := by
  refine lt_of_le_of_lt ?_ h.poisonCode_lt
  simp [FFmt.nanCode, FFmt.poisonCode, h.style]

theorem PlainIeee.infCode_lt (h : PlainIeee f) : f.infCode < 2 ^ (f.eb + f.mb) := by
  refine lt_of_le_of_lt ?_ h.nanCode_lt
  simp [FFmt.nanCode, h.style]

theorem PlainIeee.maxCode_lt (h : PlainIeee f) : f.maxCode < 2 ^ (f.eb + f.mb) := by
  refine lt_of_le_of_lt ?_ h.infCode_lt
  simp [FFmt.maxCode, FFmt.infCode, h.style]

/-- A signed magnitude fits the format's width. -/
theorem sign_lt {neg : Bool} {c : Nat} (h : c < 2 ^ (f.eb + f.mb)) : f.sign neg c < 2 ^ f.width := by
  have hw : 2 ^ f.width = 2 ^ (f.eb + f.mb) + 2 ^ (f.eb + f.mb) := by
    rw [FFmt.width, Nat.add_assoc, Nat.add_comm 1, Nat.pow_succ]; omega
  rw [FFmt.sign, hw]
  split <;> omega

theorem magnitude_lt {c : Nat} (h : c < 2 ^ (f.eb + f.mb)) : c < 2 ^ f.width := by
  simpa [FFmt.sign] using sign_lt (neg := false) h

theorem PlainIeee.overflow_lt (h : PlainIeee f) (mode : RMode) (neg : Bool) : (f.overflow mode neg).1 < 2 ^ f.width := by
  unfold FFmt.overflow
  extract_lets toInf
  refine sign_lt ?_
  split
  · exact h.infCode_lt
  · exact h.maxCode_lt

theorem PlainIeee.round_lt (h : PlainIeee f) (mode : RMode) (neg : Bool) (m : Nat) (e : Int) :
    (f.round mode neg m e).1 < 2 ^ f.width := by
  unfold FFmt.round
  extract_lets top emin big q sh base rem r code inexact tiny
  split
  · exact sign_lt (Nat.two_pow_pos _)
  · split <;> rename_i hcode
    · exact h.overflow_lt ..
    · exact sign_lt (lt_of_le_of_lt (not_lt.1 hcode) h.maxCode_lt)

theorem PlainIeee.roundInt_lt (h : PlainIeee f) (mode : RMode) (z : Bool) (i e : Int) :
    (f.roundInt mode z i e).1 < 2 ^ f.width := by
  unfold FFmt.roundInt
  split
  · exact sign_lt (Nat.two_pow_pos _)
  · exact h.round_lt ..

theorem PlainIeee.addV_lt (h : PlainIeee f) (mode : RMode) (x y : FVal) : (f.addV mode x y).1 < 2 ^ f.width := by
  unfold FFmt.addV
  split
  · exact magnitude_lt h.poisonCode_lt
  · exact magnitude_lt h.poisonCode_lt
  · exact magnitude_lt h.nanCode_lt
  · exact magnitude_lt h.nanCode_lt
  · split
    · exact sign_lt h.infCode_lt
    · exact magnitude_lt h.nanCode_lt
  · exact sign_lt h.infCode_lt
  · exact sign_lt h.infCode_lt
  · exact h.roundInt_lt ..

theorem PlainIeee.ofVal_lt (h : PlainIeee f) (mode : RMode) (v : FVal) : (f.ofVal mode v).1 < 2 ^ f.width := by
  cases v with
  | fin a m e => exact h.round_lt ..
  | inf a => simpa [FFmt.ofVal, h.style] using sign_lt h.infCode_lt
  | nan => simpa [FFmt.ofVal, h.style] using magnitude_lt h.nanCode_lt
  | poison => exact magnitude_lt h.poisonCode_lt

end Sys2Proof.Claims
end

section
/-!
PROOF. Tiles (R172, R175): tables that list a list's values, the elements of a tile made of 4,096 results, the flags that they join, and
what the checks that slot D's forms share let pass (R441).
-/

namespace Sys2Proof.Machine

/-! ## Tables made of lists -/

/-- The table of a list's values from a key on, without those that are the default. -/
def listed {α β : Type} [DecidableEq β] (d : β) (g : α → β) (k : Nat) (l : List α) : SMap β :=
  (l.zipIdx k).filterMap fun p => if g p.1 = d then none else some (p.2, g p.1)

section Listed
variable {α β : Type} [DecidableEq β] {d : β} {g : α → β}

theorem listed_cons (k : Nat) (x : α) (l : List α) :
    listed d g k (x :: l) = if g x = d then listed d g (k + 1) l else (k, g x) :: listed d g (k + 1) l := by
  simp only [listed, List.zipIdx_cons, List.filterMap_cons]
  split <;> split <;> simp_all

/-- Its keys start at the first one. -/
theorem le_of_mem_listed {k : Nat} {l : List α} {e : Nat × β} (h : e ∈ listed d g k l) : k ≤ e.1 := by
  obtain ⟨p, hp, he⟩ := List.mem_filterMap.1 h
  split at he
  · cases he
  · cases he
    exact List.le_snd_of_mem_zipIdx hp

omit [DecidableEq β] in
/-- A key that no entry has reads as the default. -/
theorem smGet_of_absent {k : Nat} {m : SMap β} (h : ∀ e ∈ m, e.1 ≠ k) : smGet d k m = d := by
  induction m with
  | nil => rfl
  | cons e t ih =>
    rw [smGet, if_neg (h e (by simp))]
    exact ih fun x hx => h x (List.mem_cons_of_mem _ hx)

theorem smGet_listed {k j : Nat} {l : List α} : smGet d (k + j) (listed d g k l) = ((l[j]?).map g).getD d := by
  induction l generalizing k j with
  | nil => rfl
  | cons x t ih =>
    rw [listed_cons]
    cases j with
    | zero =>
      have hrest : smGet d k (listed d g (k + 1) t) = d := smGet_of_absent fun e he => by have := le_of_mem_listed he; omega
      split
      · simpa [hrest] using Eq.symm ‹_›
      · simp [smGet]
    | succ j =>
      have hj : k + (j + 1) = k + 1 + j := by omega
      rw [hj]
      split
      · simpa using ih
      · rw [smGet, if_neg (by omega)]
        simpa using ih

omit [DecidableEq β] in
/-- A key below every entry holds the default. -/
theorem smDense_skip {n k : Nat} {m : SMap β} (h : ∀ e ∈ m, k < e.1) : smDense d (n + 1) k m = d :: smDense d n (k + 1) m := by
  cases m with
  | nil => rfl
  | cons e t => rw [smDense, if_neg (by have := h e (by simp); omega)]

/-- Such a table reads back as the list. -/
theorem smDense_listed {k : Nat} {l : List α} : smDense d l.length k (listed d g k l) = l.map g := by
  induction l generalizing k with
  | nil => rfl
  | cons x t ih =>
    rw [listed_cons, List.length_cons, List.map_cons]
    split
    · rw [smDense_skip fun e he => le_of_mem_listed he, ih, ‹g x = d›]
    · simp [smDense, ih]

end Listed

theorem smDense_length {α : Type} (d : α) (n k : Nat) (m : SMap α) : (smDense d n k m).length = n := by
  induction n generalizing k m with
  | zero => cases m <;> rfl
  | succ n ih =>
    cases m with
    | nil => simp [smDense, ih]
    | cons e t => simp only [smDense]; split <;> simp [ih]

@[simp] theorem Tile.dense_length (t : Tile) : t.dense.length = 4096 := smDense_length ..

/-- A tile made of 4,096 elements holds them. -/
theorem Tile.dense_ofDense {f : TileFmt} {u : BitVec 8} {l : List Elem} (h : l.length = 4096) : (Tile.ofDense f u l).dense = l := by
  have hl : smDense Elem.zero l.length 0 (listed Elem.zero id 0 l) = l := by rw [smDense_listed, List.map_id]
  rwa [h] at hl

/-- The image of a weight slot reads as the bytes that it was loaded from. -/
theorem smGet_image_weightOf (c : BitVec 4) (l : List (Byte × Bool)) (j : Nat) :
    smGet 0 j (weightOf c l).image = ((l[j]?).map (·.1)).getD 0 := by
  have h := smGet_listed (d := (0 : Byte)) (g := fun x : Byte × Bool => x.1) (k := 0) (j := j) (l := l)
  rwa [Nat.zero_add] at h

end Sys2Proof.Machine

namespace Sys2Proof.Claims

open Sys2Proof.Machine

/-! ## Elements and flags of a tile of results -/

/-- The flags of result `i`. -/
def flagsAt (r : List (Elem × BitVec 7)) (i : Nat) : BitVec 7 := ((r[i]?).map (·.2)).getD 0

theorem element_ofDense {f : TileFmt} {u : BitVec 8} {r : List (Elem × BitVec 7)} (h : r.length = 4096) (i : Nat) :
    element (Tile.ofDense f u (r.map (·.1))) i = ((r[i]?).map (·.1)).getD Elem.zero := by
  simp [element, Tile.dense_ofDense, h]

theorem getLsbD_foldl_or {α : Type} (r : List (α × BitVec 7)) (a : BitVec 7) (b : Nat) :
    (r.foldl (fun f p => f ||| p.2) a).getLsbD b = (a.getLsbD b || r.any fun p => p.2.getLsbD b) := by
  induction r generalizing a with
  | nil => simp
  | cons x t ih => simp [ih, Bool.or_assoc]

theorem getLsbD_orFlags {α : Type} (r : List (α × BitVec 7)) (b : Nat) :
    (orFlags r).getLsbD b = r.any fun p => p.2.getLsbD b := by
  rw [orFlags, getLsbD_foldl_or]
  simp

/-- The flags of 4,096 results are joined (R120). -/
theorem joinsFlags_orFlags {r : List (Elem × BitVec 7)} (h : r.length = 4096) : JoinsFlags (orFlags r) (flagsAt r) := by
  intro b _
  rw [getLsbD_orFlags, List.any_eq_true]
  constructor
  · rintro ⟨p, hp, hb⟩
    obtain ⟨i, hi, rfl⟩ := List.getElem_of_mem hp
    exact ⟨i, by omega, by simpa [flagsAt, hi] using hb⟩
  · rintro ⟨i, hi, hb⟩
    exact ⟨r[i], List.getElem_mem _, by simpa [flagsAt, h, hi] using hb⟩

/-- What an operation on one tile gives element by element. -/
theorem element_map {t : Tile} {g : Elem → Elem × BitVec 7} {f : TileFmt} {u : BitVec 8} {i : Nat} (hi : i < 4096) :
    element (Tile.ofDense f u ((t.dense.map g).map (·.1))) i = (g (element t i)).1 := by
  rw [element_ofDense (by simp)]
  simp [element, hi]
theorem flagsAt_map {t : Tile} {g : Elem → Elem × BitVec 7} {i : Nat} (hi : i < 4096) :
    flagsAt (t.dense.map g) i = (g (element t i)).2 := by simp [flagsAt, element, hi]

/-- The same of two tiles. -/
theorem element_zip {t v : Tile} {g : Elem → Elem → Elem × BitVec 7} {f : TileFmt} {u : BitVec 8} {i : Nat} (hi : i < 4096) :
    element (Tile.ofDense f u (((t.dense.zip v.dense).map fun p => g p.1 p.2).map (·.1))) i = (g (element t i) (element v i)).1 := by
  rw [element_ofDense (by simp)]
  simp [element, hi]
theorem flagsAt_zip {t v : Tile} {g : Elem → Elem → Elem × BitVec 7} {i : Nat} (hi : i < 4096) :
    flagsAt ((t.dense.zip v.dense).map fun p => g p.1 p.2) i = (g (element t i) (element v i)).2 := by simp [flagsAt, element, hi]

/-! ## Checks -/

theorem tileIx_eq (r : Reg) : tileIx r = tileNo r := by
  ext
  simp [tileIx, fin3, tileNo]

/-- Tiles and weight slots within the limits, named by no incomplete queue entry, let matrix work go on (R441 reason 7, R295). -/
theorem matLimits_go {s : State} {tiles : List Reg} {slots : List (BitVec 2)} {k : SlotOut} (ht : ∀ r ∈ tiles, TileUsable s r)
    (hw : ∀ w ∈ slots, w.toNat < s.ctx.kern.wslots) : s.matLimits tiles slots k = k := by
  have hlimit : (tiles.find? fun r => decide (s.ctx.kern.tiles ≤ r.toNat)) = none :=
    List.find?_eq_none.2 fun r hr => by have := (ht r hr).2.1; simp; omega
  have hslots : (slots.any fun w => decide (s.ctx.kern.wslots ≤ w.toNat)) = false := by
    simpa using hw
  have hqueued : (tiles.any fun r => s.ctx.tileQueued (tileIx r)) = false := by
    simp only [List.any_eq_false, tileIx_eq]
    intro r hr
    simp [(ht r hr).2.2]
  simp [State.matLimits, hlimit, hslots, hqueued]

/-- A weight slot beyond the limit raises reason 7. -/
theorem matLimits_slot {s : State} {w : BitVec 2} {k : SlotOut} (h : s.ctx.kern.wslots ≤ w.toNat) :
    s.matLimits [] [w] k = s.matTrap 7 0 := by simp [State.matLimits, h]

theorem matRoom_go {s : State} {d : Reg} {k : SlotOut} (h : TileRoom s d) : s.matRoom d k = k := by
  unfold State.matRoom
  rw [tileIx_eq, if_neg (by unfold TileRoom at h; omega)]

/-- A result that is no FX96 tile leaves a tile of another format so. -/
theorem apply_fmt_ne_fx96 {t : Tile} {v : LVal} (ht : t.fmt ≠ .fx96) (hv : ∀ x, v = .tile x → x.fmt ≠ .fx96) :
    (t.apply v).fmt ≠ .fx96 := by
  cases v with
  | tile x => exact hv x rfl
  | _ => simpa only [Tile.apply] using ht

theorem matSource_go {s : State} {a : Reg} {k : Tile → SlotOut} (h : SourceReady s a) : s.matSource a k = k (s.ctx.mat.d[tileNo a]) := by
  unfold State.matSource
  extract_lets t l
  have hgo : (!l.isEmpty && (decide (t.fmt = .fx96) || l.any fun x => x.fx t)) = false := by
    simp only [t, l, tileIx_eq]
    obtain h | ⟨hfmt, hland⟩ := h
    · simp [h]
    · have hany : ((s.ctx.task.tileFlight (tileNo a)).any fun x => x.fx s.ctx.mat.d[tileNo a]) = false := by
        simp only [List.any_eq_false, Landing.fx, decide_eq_true_iff]
        exact fun l hl => apply_fmt_ne_fx96 hfmt (hland l hl)
      rw [hany, decide_eq_false hfmt]
      simp
  rw [hgo]
  simp [t, tileIx_eq]

/-- What a committed tile result leaves. -/
theorem putTile_out (s : State) (lat : Nat) (d : Reg) (v : LVal) (fl : BitVec 7) (m : Bool) :
    (s.putTile lat d v fl m).out = .next (tileResult s lat d v fl m) := by
  rw [State.putTile, tileIx_eq]; rfl

end Sys2Proof.Claims
end

section
/-!
PROOF. What slot D does to one tile element: poison by side bit or pattern (R172, R99), FX96 numbers floored to a scale (R116-R118),
the sums of DADD (R184), rescaling (R185) and conversion (R186).
-/

namespace Sys2Proof.Claims

open Sys2Proof.Machine

/-! ## Formats of tiles -/

theorem tileFloat_eq (f : TileFmt) : tileFloat f = f.fp? := by cases f <;> rfl

theorem plainIeee_fp? {t : TileFmt} {f : FFmt} (h : t.fp? = some f) : PlainIeee f ∧ f.width ≤ 32 := by
  cases t <;> simp only [TileFmt.fp?, Option.some.injEq, reduceCtorEq] at h <;> subst h <;> exact ⟨⟨rfl, by decide⟩, by decide⟩

/-- A mask of `n` ones at `k` covers a word just when that field of the word is all ones. -/
theorem and_ones_eq_iff {w k n : Nat} (h : k + n ≤ w) (x : BitVec w) :
    x &&& BitVec.ofNat w ((2 ^ n - 1) * 2 ^ k) = BitVec.ofNat w ((2 ^ n - 1) * 2 ^ k) ↔ x.toNat / 2 ^ k % 2 ^ n = 2 ^ n - 1 := by
  have hmask (j : Nat) : (BitVec.ofNat w ((2 ^ n - 1) * 2 ^ k)).getLsbD j = decide (k ≤ j ∧ j < k + n) := by
    rw [BitVec.getLsbD_ofNat, Nat.testBit_mul_two_pow, Nat.testBit_two_pow_sub_one, Bool.eq_iff_iff]
    simp only [Bool.and_eq_true, decide_eq_true_iff]
    omega
  constructor
  · intro he
    refine Nat.eq_of_testBit_eq fun i => ?_
    have hi := congrArg (fun y : BitVec w => y.getLsbD (k + i)) he
    simp only [BitVec.getLsbD_and, hmask] at hi
    rw [Nat.testBit_mod_two_pow, Nat.testBit_div_two_pow, Nat.testBit_two_pow_sub_one]
    by_cases hn : i < n
    · have hd : decide (k ≤ k + i ∧ k + i < k + n) = true := by simp [hn]
      rw [hd, Bool.and_true, BitVec.getLsbD] at hi
      rw [decide_eq_true hn, Bool.true_and, Nat.add_comm i k, hi]
    · simp [hn]
  · intro he
    refine BitVec.eq_of_getLsbD_eq fun j _ => ?_
    rw [BitVec.getLsbD_and, hmask]
    by_cases hj : k ≤ j ∧ j < k + n
    · have hb := congrArg (fun y : Nat => y.testBit (j - k)) he
      simp only [Nat.testBit_mod_two_pow, Nat.testBit_div_two_pow, Nat.testBit_two_pow_sub_one] at hb
      have hlt : j - k < n := by omega
      have hadd : j - k + k = j := by omega
      have hx : x.getLsbD j = true := by simpa [hlt, hadd, BitVec.getLsbD] using hb
      simp [hx]
    · simp [hj]

/-- A poison NaN of an IEEE format: exponent all ones, and the two top bits of the mantissa (R99). -/
theorem isPoison_unpack {f : FFmt} (h : PlainIeee f) (x : Nat) :
    (f.unpack x).isPoison = decide (x / 2 ^ f.mb % 2 ^ f.eb = 2 ^ f.eb - 1 ∧ 3 ≤ x % 2 ^ f.mb / 2 ^ (f.mb - 2)) := by
  unfold FFmt.unpack
  extract_lets neg e m top
  by_cases ht : e = 2 ^ f.eb - 1
  · have htop : f.style = .ieee ∧ top := ⟨h.style, ht⟩
    rw [if_pos htop]
    by_cases hm : m = 0
    · rw [if_pos hm]
      have : ¬ 3 ≤ x % 2 ^ f.mb / 2 ^ (f.mb - 2) := by simp only [m] at hm; simp [hm]
      simp [FVal.isPoison, this]
    · rw [if_neg hm]
      by_cases hp : 3 ≤ m / 2 ^ (f.mb - 2)
      · rw [if_pos hp]; simpa [FVal.isPoison] using ⟨ht, hp⟩
      · rw [if_neg hp]; simpa [FVal.isPoison] using fun _ => not_le.1 hp
  · have htop : ¬ (f.style = .ieee ∧ top) := fun hc => ht hc.2
    have hstyle : ¬ (f.style = .e4m3 ∧ top ∧ m = 2 ^ f.mb - 1) := fun hc => ht hc.2.1
    have hne : ¬ x / 2 ^ f.mb % 2 ^ f.eb = 2 ^ f.eb - 1 := ht
    rw [if_neg htop, if_neg hstyle]
    split <;> simp [FVal.isPoison, hne]

/-- The claims' poison of an element is the model's. -/
theorem poisonElem_eq (f : TileFmt) (e : Elem) : poisonElem f e = f.elemBad e := by
  have fp32 : e.bits &&& 0x7FE00000 = 0x7FE00000 ↔ e.bits.toNat / 2 ^ 21 % 2 ^ 10 = 2 ^ 10 - 1 :=
    and_ones_eq_iff (k := 21) (n := 10) (by decide) e.bits
  have bf16 : e.bits &&& 0x7FE0 = 0x7FE0 ↔ e.bits.toNat / 2 ^ 5 % 2 ^ 10 = 2 ^ 10 - 1 :=
    and_ones_eq_iff (k := 5) (n := 10) (by decide) e.bits
  have fp16 : e.bits &&& 0x7F00 = 0x7F00 ↔ e.bits.toNat / 2 ^ 8 % 2 ^ 7 = 2 ^ 7 - 1 :=
    and_ones_eq_iff (k := 8) (n := 7) (by decide) e.bits
  unfold poisonElem TileFmt.elemBad
  congr 1
  cases f with
  | fp32 =>
    simp only [tileFloat, TileFmt.poisonCode, isPoison_unpack (f := ⟨8, 23, .ieee⟩) ⟨rfl, by decide⟩, decide_eq_decide, fp32]
    omega
  | bf16 =>
    simp only [tileFloat, TileFmt.poisonCode, isPoison_unpack (f := ⟨8, 7, .ieee⟩) ⟨rfl, by decide⟩, decide_eq_decide, bf16]
    omega
  | fp16 =>
    simp only [tileFloat, TileFmt.poisonCode, isPoison_unpack (f := ⟨5, 10, .ieee⟩) ⟨rfl, by decide⟩, decide_eq_decide, fp16]
    omega
  | fx96 => rfl
  | int32 => rfl

/-- An element that is poison shows its side bit in every format. -/
theorem side_bad (f : TileFmt) : f.bad.side = true := rfl

theorem side_of_not_elemBad {f : TileFmt} {e : Elem} (h : f.elemBad e = false) : e.side = false := by
  unfold TileFmt.elemBad at h
  simp only [Bool.or_eq_false_iff] at h
  exact h.1

/-- A result code of a tile's format stands in an element as it is. -/
theorem codeElem_code {t : TileFmt} {f : FFmt} {r : FRes} (h : t.fp? = some f) (hr : r.1 < 2 ^ f.width) :
    ((codeElem r.1).bits.toNat, r.2) = r := by
  have hw : 2 ^ f.width ≤ 2 ^ 32 := Nat.pow_le_pow_right (by decide) (plainIeee_fp? h).2
  have hm : r.1 % 2 ^ 112 = r.1 := Nat.mod_eq_of_lt (by omega)
  exact Prod.ext (by simpa only [codeElem, BitVec.toNat_ofNat] using hm) rfl

theorem codeElem_toNat {x : Nat} (h : x < 2 ^ 32) : (codeElem x).bits.toNat = x := by
  simp only [codeElem, BitVec.toNat_ofNat]
  omega

/-! ## FX96 -/

/-- A shift by a power of two floors, and tells whether that is exact. -/
theorem floorShift_eq (i e : Int) : (floorShift i e).1 = ⌊(i : ℚ) * 2 ^ e⌋ ∧
    ((floorShift i e).2 = true ↔ ((⌊(i : ℚ) * 2 ^ e⌋ : Int) : ℚ) = i * 2 ^ e) := by
  unfold floorShift
  split <;> rename_i h
  · have hq : (i : ℚ) * 2 ^ e = ((i * 2 ^ e.toNat : Int) : ℚ) := by
      push_cast
      rw [← zpow_natCast, Int.toNat_of_nonneg h]
    rw [hq, Int.floor_intCast]
    simp
  · have hpos : (0 : Int) < (2 ^ (-e).toNat : Nat) := by positivity
    have hq : (i : ℚ) * 2 ^ e = (i : ℚ) / ((2 ^ (-e).toNat : Nat) : ℚ) := by
      push_cast
      rw [← zpow_natCast, Int.toNat_of_nonneg (by omega), zpow_neg, div_inv_eq_mul]
    rw [hq, Rat.floor_intCast_div_natCast]
    refine ⟨rfl, ?_⟩
    have hne : ((2 ^ (-e).toNat : Nat) : ℚ) ≠ 0 := by positivity
    rw [eq_div_iff hne, decide_eq_true_iff]
    norm_cast
    exact ⟨fun h0 => Int.ediv_mul_cancel (Int.dvd_of_emod_eq_zero h0),
      fun hm => Int.emod_eq_zero_of_dvd (Dvd.intro_left _ hm)⟩

/-- A number under a scale, floored to another one (R117, R185). -/
theorem floored_shift (scale u i : Int) (nan : Bool) :
    Floored scale (i * 2 ^ u) (fxElem (floorShift i (u - scale)).1 nan) (if (floorShift i (u - scale)).2 then 0 else flNX) := by
  have hq : (i : ℚ) * 2 ^ u / 2 ^ scale = i * 2 ^ (u - scale) := by
    rw [zpow_sub₀ two_ne_zero, mul_div_assoc]
  obtain ⟨hfloor, hexact⟩ := floorShift_eq i (u - scale)
  rw [Floored, hq]
  exact ⟨by rw [fxElem, hfloor], if_congr hexact rfl rfl⟩

theorem floored_fxRescale (u scale : Int) (e : Elem) :
    Floored scale (e.bits.toInt * 2 ^ u) (fxRescale u scale e).1 (fxRescale u scale e).2 := floored_shift scale u e.pair e.nan

/-- A finite value added to nothing is floored. -/
theorem floored_fxAdd_zero (scale : Int) (a : Bool) (m : Nat) (x : Int) :
    Floored scale (rat a m x) (fxAdd scale Elem.zero (.fin a m x)).1 (fxAdd scale Elem.zero (.fin a m x)).2 := by
  have h := floored_shift scale x (signed a m) false
  rw [← rat_eq_signed] at h
  have hz : Elem.zero.pair = 0 := by decide
  simp only [fxAdd, hz, zero_add]
  exact h

@[simp] theorem fxAdd_side (scale : Int) (v : FVal) : (fxAdd scale Elem.zero v).1.side = false := by
  cases v <;> rfl

/-- A floating-point value becomes FX96. -/
theorem floatToFx_fxAdd {scale : Int} {v : FVal} :
    FloatToFx scale v (fxAdd scale Elem.zero v).1 (fxAdd scale Elem.zero v).2 := by
  cases v with
  | fin a m x => exact ⟨floored_fxAdd_zero scale a m x, rfl⟩
  | inf a => exact ⟨rfl, rfl, rfl⟩
  | nan => exact ⟨rfl, rfl, rfl⟩
  | poison => exact ⟨rfl, rfl, rfl⟩

/-! ## DADD and DCVT -/

theorem daddElem_bad {f : TileFmt} {x y : Elem} (h : (f.elemBad x || f.elemBad y) = true) :
    (daddElem f x y).1.side = true ∧ (daddElem f x y).2 = 0 := by
  rw [daddElem, if_pos h]
  exact ⟨side_bad f, rfl⟩

/-- Floating-point elements are added and rounded to nearest (R184). -/
theorem daddElem_float {f : TileFmt} {g : FFmt} {x y : Elem} (h : (f.elemBad x || f.elemBad y) = false) (hf : f.fp? = some g) :
    (daddElem f x y).1.side = false ∧ (daddElem f x y).1.nan = false ∧
    Sum g .rn (g.unpack x.bits.toNat) (g.unpack y.bits.toNat) ((daddElem f x y).1.bits.toNat, (daddElem f x y).2) := by
  simp only [daddElem, h, hf, Bool.false_eq_true, if_false]
  refine ⟨rfl, rfl, ?_⟩
  rw [codeElem_code hf ((plainIeee_fp? hf).1.addV_lt ..)]
  exact sum_addV ..

theorem daddElem_fx96 {x y : Elem} (h : (TileFmt.fx96.elemBad x || TileFmt.fx96.elemBad y) = false) :
    daddElem .fx96 x y = (⟨x.bits + y.bits, x.nan || y.nan, false⟩, 0) := by
  simp [daddElem, h, TileFmt.fp?, fxElem, Elem.pair, BitVec.ofInt_add]

theorem daddElem_int32 {x y : Elem} (h : (TileFmt.int32.elemBad x || TileFmt.int32.elemBad y) = false) :
    daddElem .int32 x y = (codeElem ((x.bits.toNat + y.bits.toNat) % 2 ^ 32), 0) := by
  simp [daddElem, h, TileFmt.fp?]

theorem dcvtElem_bad {t : Tile} {g : TileFmt} {u : Int} {mode : RMode} {e : Elem} (h : t.fmt.elemBad e = true) :
    (dcvtElem t g u mode e).1.side = true ∧ (dcvtElem t g u mode e).2 = 0 := by
  rw [dcvtElem, if_pos h]
  exact ⟨side_bad g, rfl⟩

/-- A conversion between floating-point formats is rounded once (R186). -/
theorem ofVal_cases {f : FFmt} (h : PlainIeee f) (mode : RMode) (v : FVal) :
    match v with
    | .nan => f.ofVal mode v = (f.nanCode, 0)
    | .inf neg => f.ofVal mode v = (infinity f neg, 0)
    | .fin neg m k => if m = 0 then f.ofVal mode v = (zero f neg, 0) else RoundsTo f mode (rat neg m k) (f.ofVal mode v)
    | .poison => True := by
  cases v with
  | fin neg m k =>
    simp only [FFmt.ofVal]
    split <;> rename_i hm
    · rw [hm, round_zero]
    · exact roundsTo_round hm
  | inf neg => simp [FFmt.ofVal, h.style, sign_infCode]
  | nan => simp [FFmt.ofVal, h.style]
  | poison => trivial

/-- An integer becomes a floating-point number (R186). -/
theorem ofVal_int (f : FFmt) (mode : RMode) (i : Int) :
    (i = 0 → f.ofVal mode (.fin (decide (i < 0)) i.natAbs 0) = (0, 0)) ∧
    (i ≠ 0 → RoundsTo f mode i (f.ofVal mode (.fin (decide (i < 0)) i.natAbs 0))) := by
  constructor
  · rintro rfl
    exact round_zero ..
  · intro hi
    have h : RoundsTo f mode (rat (decide (i < 0)) i.natAbs 0) _ := roundsTo_round (e := 0) (by simpa using hi)
    rw [rat_eq_signed, signed_natAbs, zpow_zero, mul_one] at h
    exact h

/-- An integer becomes FX96 (R186). -/
theorem floored_fxAdd_int (scale i : Int) :
    Floored scale i (fxAdd scale Elem.zero (.fin (decide (i < 0)) i.natAbs 0)).1
      (fxAdd scale Elem.zero (.fin (decide (i < 0)) i.natAbs 0)).2 := by
  have h := floored_fxAdd_zero scale (decide (i < 0)) i.natAbs 0
  rwa [rat_eq_signed, signed_natAbs, zpow_zero, mul_one] at h

/-- FX96 becomes floating point (R118). -/
theorem fxOut_cases (f : FFmt) (mode : RMode) (u : Int) (e : Elem) :
    if e.nan then fxOut f mode u e = (f.nanCode, flNV)
    else ∃ k : FRes, ((e.bits.setWidth 96).toInt = 0 → k = (0, 0)) ∧
      ((e.bits.setWidth 96).toInt ≠ 0 → RoundsTo f mode ((e.bits.setWidth 96).toInt * 2 ^ u) k) ∧ (fxOut f mode u e).1 = k.1 ∧
      (fxOut f mode u e).2 = k.2 ||| if (e.bits.setWidth 96).toInt = e.bits.toInt then 0 else flFXOV := by
  unfold fxOut
  split
  · rfl
  · refine ⟨f.roundInt mode false (e.bits.setWidth 96).toInt u, fun h => ?_, roundsTo_roundInt, rfl, rfl⟩
    rw [h, roundInt_zero]
    rfl

theorem fxOut_lt {f : FFmt} (h : PlainIeee f) (mode : RMode) (u : Int) (e : Elem) : (fxOut f mode u e).1 < 2 ^ f.width := by
  unfold fxOut
  split
  · exact magnitude_lt h.nanCode_lt
  · exact h.roundInt_lt ..

/-- DCVT of an element that is not poison (R186). -/
theorem dconverted_dcvtElem {t : Tile} {g : TileFmt} {u : Int} {mode : RMode} {e : Elem} (h : t.fmt.elemBad e = false) :
    Dconverted t.fmt t.scale.toInt g u mode e (dcvtElem t g u mode e).1 (dcvtElem t g u mode e).2 := by
  have hside := side_of_not_elemBad h
  simp only [Dconverted, tileFloat_eq, dcvtElem, h, Bool.false_eq_true, if_false]
  cases hf : t.fmt.fp? with
  | some x =>
    cases hg : g.fp? with
    | some y =>
      by_cases hfg : t.fmt = g
      · simp [hfg, hside]
      · simp only [hfg, if_false, codeElem_code hg ((plainIeee_fp? hg).1.ofVal_lt ..)]
        exact ⟨rfl, rfl, ofVal_cases (plainIeee_fp? hg).1 mode _⟩
    | none => exact ⟨fxAdd_side .., floatToFx_fxAdd⟩
  | none =>
    cases hg : g.fp? with
    | some y =>
      have hcode {r : FRes} (hr : r.1 < 2 ^ y.width) := codeElem_code hg hr
      by_cases hx : t.fmt = .fx96
      · have hcases := fxOut_cases y mode t.scale.toInt e
        have hlt := fxOut_lt (plainIeee_fp? hg).1 mode t.scale.toInt e
        simp only [hx, if_true, Tile.exp, hcode hlt]
        refine ⟨rfl, rfl, ?_⟩
        split at hcases
        · rwa [if_pos ‹_›]
        · have hbits : (codeElem (fxOut y mode t.scale.toInt e).1).bits.toNat = _ := congrArg Prod.fst (hcode hlt)
          rw [if_neg ‹_›, hbits]
          exact hcases
      · simp only [hx, if_false, hcode ((plainIeee_fp? hg).1.ofVal_lt ..)]
        exact ⟨rfl, rfl, ofVal_int y mode _⟩
    | none =>
      by_cases hx : t.fmt = .fx96
      · simp only [hx, if_true]
        exact ⟨rfl, floored_fxRescale .., rfl⟩
      · simp only [hx, if_false]
        exact ⟨fxAdd_side .., floored_fxAdd_int .., rfl⟩

end Sys2Proof.Claims
end

section
/-!
PROOF. The tile forms (R184-R188): what each commits where no check stops it, and the statement about them.
-/

namespace Sys2Proof.Claims

open Sys2Proof.Machine

/-! ## Fields of an element number and of a status word -/

/-- The two bits that choose a part of an FX96 element (R187). -/
theorem part_eq (x : BitVec 64) : x.extractLsb' 12 2 = BitVec.ofNat 2 (x.toNat / 4096 % 4) := by
  refine BitVec.eq_of_toNat_eq ?_
  simp [BitVec.extractLsb'_toNat, Nat.shiftRight_eq_div_pow]

/-- The number of an element. -/
theorem elementNumber_eq (x : BitVec 64) : (x.extractLsb' 0 12).toNat = x.toNat % 4096 := by
  simp [BitVec.extractLsb'_toNat]

/-- A field of a status word that joins `k` fields of `w` bits (R188). -/
theorem joined_field {w k : Nat} {f : Nat → Nat} (hw : 0 < w) (hf : ∀ i < k, f i < 2 ^ w) (hk : w * k ≤ 64) {i : Nat} (hi : i < k) :
    (BitVec.ofNat 64 ((List.range k).foldr (fun i acc => f i + 2 ^ w * acc) 0)).toNat / (2 ^ w) ^ i % 2 ^ w = f i := by
  have hall : ∀ x ∈ (List.range k).map f, x < 2 ^ w := by simpa using hf
  have hdigits : (List.range k).foldr (fun i acc => f i + 2 ^ w * acc) 0 = Nat.ofDigits (2 ^ w) ((List.range k).map f) := by
    simp [Nat.ofDigits_eq_foldr, List.foldr_map]
  have hlt : Nat.ofDigits (2 ^ w) ((List.range k).map f) < 2 ^ 64 := by
    calc _ < (2 ^ w) ^ ((List.range k).map f).length := Nat.ofDigits_lt_base_pow_length (Nat.one_lt_two_pow (by omega)) hall
      _ = 2 ^ (w * k) := by rw [List.length_map, List.length_range, ← Nat.pow_mul]
      _ ≤ 2 ^ 64 := Nat.pow_le_pow_right (by decide) hk
  have hdrop : ((List.range k).map f).drop i = f i :: ((List.range k).map f).drop (i + 1) := by
    rw [List.drop_eq_getElem_cons (by simpa using hi)]
    simp
  rw [BitVec.toNat_ofNat, hdigits, Nat.mod_eq_of_lt hlt, Nat.ofDigits_div_pow_eq_ofDigits_drop i (Nat.two_pow_pos w) _ hall, hdrop,
    Nat.ofDigits_cons, Nat.add_mul_mod_self_left]
  exact Nat.mod_eq_of_lt (hf i hi)

/-! ## Elements that DWR and DRD name -/

/-- DWR of a format other than FX96 writes the low bits of the value (R187). -/
theorem dwrElem_code {f : TileFmt} (h : f ≠ .fx96) (part : BitVec 2) (v : BitVec 64) (e : Elem) :
    dwrElem f part v e = ⟨BitVec.ofNat 112 (v.toNat % if f = .fp32 ∨ f = .int32 then 2 ^ 32 else 2 ^ 16), false, false⟩ := by
  cases f with
  | fx96 => exact absurd rfl h
  | _ => simp [dwrElem, ← BitVec.ofNat_toNat 112]

/-- DWR of a part of an FX96 element leaves its other bits (R187). -/
theorem dwrElem_fx96 {part : Nat} (h : part < 3) (v : BitVec 64) (e : Elem) :
    (dwrElem .fx96 (BitVec.ofNat 2 part) v e).side = false ∧
    (dwrElem .fx96 (BitVec.ofNat 2 part) v e).nan = (if part = 2 then v.getLsbD 0 else e.nan) ∧
    ∀ k < 112, (dwrElem .fx96 (BitVec.ofNat 2 part) v e).bits.getLsbD k = if part = 0 ∧ k < 64 then v.getLsbD k
      else if part = 1 ∧ 64 ≤ k then v.getLsbD (k - 64) else e.bits.getLsbD k := by
  interval_cases part
  · refine ⟨rfl, rfl, fun k hk => ?_⟩
    have hb : (dwrElem .fx96 (BitVec.ofNat 2 0) v e).bits = e.bits.extractLsb' 64 48 ++ v := rfl
    rw [hb, BitVec.getLsbD_append]
    by_cases h64 : k < 64
    · simp [h64]
    · simp [h64, show k - 64 < 48 by omega, show 64 + (k - 64) = k by omega]
  · refine ⟨rfl, rfl, fun k hk => ?_⟩
    have hb : (dwrElem .fx96 (BitVec.ofNat 2 1) v e).bits = v.extractLsb' 0 48 ++ e.bits.extractLsb' 0 64 := rfl
    rw [hb, BitVec.getLsbD_append]
    by_cases h64 : k < 64
    · simp [h64]
    · simp [h64, show k - 64 < 48 by omega, show 64 ≤ k by omega]
  · exact ⟨rfl, rfl, fun k _ => by simp [dwrElem]⟩

theorem drdVal_int32 (part : BitVec 2) (e : Elem) : (drdVal .int32 part e).toInt = (e.bits.setWidth 32).toInt := by
  simp only [drdVal]
  exact BitVec.toInt_signExtend_of_le (by decide)

theorem drdVal_float {f : TileFmt} (h : f.fp?.isSome = true) (part : BitVec 2) (e : Elem) :
    (drdVal f part e).toNat = e.bits.toNat % 2 ^ 64 := by
  cases f <;> simp [TileFmt.fp?] at h <;> simp [drdVal]

theorem drdVal_fx96 (e : Elem) : (drdVal .fx96 0 e).toNat = e.bits.toNat % 2 ^ 64 ∧
    (drdVal .fx96 1 e).toInt = (e.bits.toInt / 2 ^ 96) * 2 ^ 32 + (e.bits.toNat / 2 ^ 64 % 2 ^ 32 : Nat) ∧
    (drdVal .fx96 2 e).toNat = e.nan.toNat ∧ drdVal .fx96 3 e = 0 := by
  refine ⟨by simp [drdVal, BitVec.extractLsb'_toNat], ?_, ?_, rfl⟩
  · have hv : drdVal .fx96 1 e = (e.bits.extractLsb' 96 16).signExtend 32 ++ e.bits.extractLsb' 64 32 := rfl
    have htop : (e.bits.extractLsb' 96 16).toInt = e.bits.toInt / 2 ^ 96 := by
      simp only [BitVec.toInt_eq_toNat_cond, BitVec.extractLsb'_toNat, Nat.shiftRight_eq_div_pow]
      have := e.bits.isLt
      omega
    rw [hv, BitVec.toInt_append, BitVec.toInt_signExtend_of_le (by decide), htop]
    simp [BitVec.extractLsb'_toNat, Nat.shiftRight_eq_div_pow, mul_comm]
  · cases h : e.nan <;> simp [drdVal, h]

/-- The value that DRD returns of an element's part (R187). -/
theorem drdVal_cases (f : TileFmt) (part : Nat) (e : Elem) :
    let v := drdVal f (BitVec.ofNat 2 part) e
    (f = .int32 → v.toInt = (e.bits.setWidth 32).toInt) ∧
    ((tileFloat f).isSome = true → v.toNat = e.bits.toNat % 2 ^ 64) ∧
    (f = .fx96 → (part = 0 → v.toNat = e.bits.toNat % 2 ^ 64) ∧
      (part = 1 → v.toInt = (e.bits.toInt / 2 ^ 96) * 2 ^ 32 + (e.bits.toNat / 2 ^ 64 % 2 ^ 32 : Nat)) ∧
      (part = 2 → v.toNat = e.nan.toNat) ∧ (part = 3 → v = 0)) := by
  obtain ⟨h0, h1, h2, h3⟩ := drdVal_fx96 e
  refine ⟨?_, fun hf => drdVal_float (by rwa [← tileFloat_eq]) .., ?_⟩
  · rintro rfl
    exact drdVal_int32 ..
  · rintro rfl
    exact ⟨by rintro rfl; exact h0, by rintro rfl; exact h1, by rintro rfl; exact h2, by rintro rfl; exact h3⟩

/-! ## What the forms commit -/

section Forms
variable {s : State} {d a b : Reg}

theorem poison_eq_bad (v : TVal) : v.poison = bad v := rfl

theorem exec_dzero (hin : s.ctx.inHandler = false) (hd : TileUsable s d) (hr : TileRoom s d) :
    exec (.dzero d) s = .next (tileResult s 2 d .tileZero) := by
  show execDzero d s = _
  rw [execDzero, State.taskOnly_task hin, matLimits_go (by simpa using hd) (by simp), matRoom_go hr, putTile_out]

theorem exec_dmov (hin : s.ctx.inHandler = false) (hd : TileUsable s d) (hr : TileRoom s d) (ha : TileUsable s a)
    (hs : SourceReady s a) : exec (.dmov d a) s = .next (tileResult s 4 d (.tile (s.ctx.mat.d[tileNo a]))) := by
  show execDmov d a s = _
  rw [execDmov, State.taskOnly_task hin, matLimits_go (by simpa using ⟨hd, ha⟩) (by simp), matSource_go hs, matRoom_go hr, putTile_out]

/-- The results of DADD, element by element (R184). -/
def sums (t u : Tile) : List (Elem × BitVec 7) := (t.dense.zip u.dense).map fun p => daddElem t.fmt p.1 p.2

theorem exec_dadd (hin : s.ctx.inHandler = false) (hd : TileUsable s d) (hr : TileRoom s d) (ha : TileUsable s a)
    (hs : SourceReady s a) (hb : TileUsable s b) (ht : SourceReady s b) {t u : Tile} (et : s.ctx.mat.d[tileNo a] = t)
    (eu : s.ctx.mat.d[tileNo b] = u) (hf : t.fmt = u.fmt) (hx : t.fmt = .fx96 → t.scale = u.scale) :
    exec (.dadd d a b) s =
      .next (tileResult s 6 d (.tile (Tile.ofDense t.fmt t.scale ((sums t u).map (·.1)))) (orFlags (sums t u))) := by
  have hgo : (decide (t.fmt ≠ u.fmt) || (decide (t.fmt = .fx96) && decide (t.scale ≠ u.scale))) = false := by
    simpa [hf] using fun h => hx (hf.trans h)
  show execDadd d a b s = _
  rw [execDadd, State.taskOnly_task hin, matLimits_go (by simpa using ⟨hd, ha, hb⟩) (by simp), matSource_go hs, matSource_go ht, et, eu,
    hgo, if_neg Bool.false_ne_true, matRoom_go hr, putTile_out]
  rfl

/-- A sum of two elements: poison where one is, else as the format adds (R184). -/
theorem daddElem_cases (f : TileFmt) (x y : Elem) :
    if poisonElem f x || poisonElem f y then (daddElem f x y).1.side = true ∧ (daddElem f x y).2 = 0
    else (daddElem f x y).1.side = false ∧ match tileFloat f with
      | some g => (daddElem f x y).1.nan = false ∧
          Sum g .rn (g.unpack x.bits.toNat) (g.unpack y.bits.toNat) ((daddElem f x y).1.bits.toNat, (daddElem f x y).2)
      | none => (daddElem f x y).2 = 0 ∧
          if f = .fx96 then (daddElem f x y).1.bits = x.bits + y.bits ∧ (daddElem f x y).1.nan = (x.nan || y.nan)
          else (daddElem f x y).1.nan = false ∧ (daddElem f x y).1.bits.toNat = (x.bits.toNat + y.bits.toNat) % 2 ^ 32 := by
  rw [poisonElem_eq, poisonElem_eq, tileFloat_eq]
  by_cases hbad : (f.elemBad x || f.elemBad y) = true
  · rw [if_pos hbad]
    exact daddElem_bad hbad
  · rw [if_neg hbad]
    rw [Bool.not_eq_true] at hbad
    cases f with
    | fx96 => rw [daddElem_fx96 hbad]; exact ⟨rfl, rfl, rfl, rfl⟩
    | int32 =>
      rw [daddElem_int32 hbad]
      exact ⟨rfl, rfl, rfl, codeElem_toNat (Nat.mod_lt _ (by decide))⟩
    | _ => exact daddElem_float hbad rfl

/-- The results of DCVT, element by element (R186). -/
def conversions (t : Tile) (f : TileFmt) (scale : BitVec 8) (r : BitVec 2) : List (Elem × BitVec 7) :=
  t.dense.map (dcvtElem t f scale.toInt (rmode r))

theorem exec_dcvt (hin : s.ctx.inHandler = false) (hd : TileUsable s d) (hr : TileRoom s d) (ha : TileUsable s a)
    (hs : SourceReady s a) {t old : Tile} (et : s.ctx.mat.d[tileNo a] = t) (eo : s.ctx.chained (tileNo d) = old) (r : BitVec 2)
    (g : BitVec 4) : exec (.dcvt d a r g) s = .next (tileResult s 8 d
      (.tile (Tile.ofDense (dcvtFmt g) old.scale ((conversions t (dcvtFmt g) old.scale r).map (·.1))))
      (orFlags (conversions t (dcvtFmt g) old.scale r))) := by
  show execDcvt d a r g s = _
  rw [execDcvt, State.taskOnly_task hin, matLimits_go (by simpa using ⟨hd, ha⟩) (by simp), matSource_go hs, matRoom_go hr, putTile_out,
    et, tileIx_eq, eo]
  rfl

/-- The results of DSCL of an FX96 tile, element by element (R185). -/
def rescaled (t : Tile) (z : BitVec 8) : List (Elem × BitVec 7) :=
  t.dense.map fun e => if e.side then (e, 0) else fxRescale t.exp z.toInt e

theorem exec_dscl (hin : s.ctx.inHandler = false) (hd : TileUsable s d) (hr : TileRoom s d) {old : Tile}
    (eo : s.ctx.chained (tileNo d) = old) (z : BitVec 8) : exec (.dscl d z) s =
      if old.fmt = .fx96 then
        .next (tileResult s 2 d (.tile (Tile.ofDense .fx96 z ((rescaled old z).map (·.1)))) (orFlags (rescaled old z)))
      else .next (tileResult s 2 d (.tileScale z)) := by
  show execDscl d z s = _
  rw [execDscl, State.taskOnly_task hin, matLimits_go (by simpa using hd) (by simp), matRoom_go hr, tileIx_eq, eo]
  split
  · rw [putTile_out]
    rfl
  · rw [putTile_out]

/-- What DWR puts into an element: poison for a poison value, unless part 3 of an FX96 element is named (R187, log 24). -/
def written (t : Tile) (part : BitVec 2) (v : TVal) (e : Elem) : Elem :=
  if bad v && !(decide (t.fmt = .fx96) && decide (part = 3)) then t.fmt.bad else dwrElem t.fmt part v.val e

theorem exec_dwr (hin : s.ctx.inHandler = false) (hd : TileUsable s d) (hr : TileRoom s d) (ha : (s.thr.readD a).tag ≠ 1)
    (hb : (s.thr.readD b).tag ≠ 1) {old : Tile} (eo : s.ctx.chained (tileNo d) = old) : exec (.dwr d a b) s =
      let i := (s.thr.readD a).val.toNat % 4096
      .next (tileResult s 4 d (if bad (s.thr.readD a) = true then .tileBad else .tilePart [(i, written old
        (BitVec.ofNat 2 ((s.thr.readD a).val.toNat / 4096 % 4)) (s.thr.readD b) (smGet Elem.zero i old.elems))])) := by
  show execDwr d a b s = _
  rw [execDwr, State.taskOnly_task hin, State.needs_go (by simpa using ⟨ha, hb⟩), matLimits_go (by simpa using hd) (by simp),
    matRoom_go hr, tileIx_eq, eo, part_eq, elementNumber_eq, poison_eq_bad]
  split <;> rw [putTile_out]
  rfl

theorem exec_drd (hin : s.ctx.inHandler = false) (ha : TileUsable s a) (hs : SourceReady s a) (hb : (s.thr.readD b).tag ≠ 1) {t : Tile}
    (et : s.ctx.mat.d[tileNo a] = t) : exec (.drd d a b) s =
      let e := smGet Elem.zero ((s.thr.readD b).val.toNat % 4096) t.elems
      .next (withResult s 4 (destinationD d) (.scalar (if bad (s.thr.readD b) = true then ⟨0, 2⟩
        else ⟨drdVal t.fmt (BitVec.ofNat 2 ((s.thr.readD b).val.toNat / 4096 % 4)) e, if e.side then 2 else 0⟩))).slotDone := by
  show execDrd d a b s = _
  rw [execDrd, State.taskOnly_task hin, State.needs_go (by simpa using hb), matLimits_go (by simpa using ha) (by simp),
    matSource_go hs, et, part_eq, elementNumber_eq, poison_eq_bad]
  rfl

theorem exec_mstat (hin : s.ctx.inHandler = false) (n : BitVec 4) :
    exec (.mstat d n) s = .next (withResult s 2 (destinationD d) (.scalar ⟨s.ctx.matStatus n, 0⟩)).slotDone := by
  show execMstat d n s = _
  rw [execMstat, State.taskOnly_task hin]
  rfl

end Forms

/-! ## The statement -/

/-- An FX96 element under a new scale: poison stands, every other is floored (R185). -/
theorem rescaled_cases {t : Tile} {z : BitVec 8} {i : Nat} (hi : i < 4096) :
    let x := element t i
    let v := element (Tile.ofDense .fx96 z ((rescaled t z).map (·.1))) i
    if x.side then v = x ∧ flagsAt (rescaled t z) i = 0
    else v.side = false ∧ v.nan = x.nan ∧ Floored z.toInt (x.bits.toInt * 2 ^ t.scale.toInt) v (flagsAt (rescaled t z) i) := by
  intro x v
  have hv : v = _ := element_map hi
  have hfl : flagsAt (rescaled t z) i = _ := flagsAt_map hi
  rw [hv, hfl]
  by_cases h : (element t i).side = true
  · rw [if_pos h, if_pos h]
    exact ⟨rfl, rfl⟩
  · rw [if_neg h, if_neg h]
    exact ⟨rfl, rfl, floored_fxRescale ..⟩

/-- A summed element: poison where a source is, else as the format adds (R184). -/
theorem sums_cases {t u : Tile} {i : Nat} (hi : i < 4096) :
    let x := element t i
    let y := element u i
    let v := element (Tile.ofDense t.fmt t.scale ((sums t u).map (·.1))) i
    if poisonElem t.fmt x || poisonElem t.fmt y then v.side = true ∧ flagsAt (sums t u) i = 0
    else v.side = false ∧ match tileFloat t.fmt with
      | some f => v.nan = false ∧ Sum f .rn (f.unpack x.bits.toNat) (f.unpack y.bits.toNat) (v.bits.toNat, flagsAt (sums t u) i)
      | none => flagsAt (sums t u) i = 0 ∧ if t.fmt = .fx96 then v.bits = x.bits + y.bits ∧ v.nan = (x.nan || y.nan)
          else v.nan = false ∧ v.bits.toNat = (x.bits.toNat + y.bits.toNat) % 2 ^ 32 := by
  intro x y v
  have hv : v = _ := element_zip hi
  have hfl : flagsAt (sums t u) i = _ := flagsAt_zip hi
  rw [hv, hfl]
  exact daddElem_cases ..

/-- A converted element: poison where the source is, else as R186 gives. -/
theorem conversions_cases {t : Tile} {f : TileFmt} {scale : BitVec 8} {r : BitVec 2} {i : Nat} (hi : i < 4096) :
    let v := element (Tile.ofDense f scale ((conversions t f scale r).map (·.1))) i
    if poisonElem t.fmt (element t i) then v.side = true ∧ flagsAt (conversions t f scale r) i = 0
    else Dconverted t.fmt t.scale.toInt f scale.toInt (rmode r) (element t i) v (flagsAt (conversions t f scale r) i) := by
  intro v
  have hv : v = _ := element_map hi
  have hfl : flagsAt (conversions t f scale r) i = _ := flagsAt_map hi
  rw [hv, hfl, poisonElem_eq]
  by_cases h : t.fmt.elemBad (element t i) = true
  · rw [if_pos h]
    exact dcvtElem_bad h
  · rw [if_neg h]
    exact dconverted_dcvtElem (by simpa using h)

/-- A written element (R187). -/
theorem written_cases (t : Tile) (part : Nat) (hp : part < 4) (x : TVal) (e : Elem) :
    let v := written t (BitVec.ofNat 2 part) x e
    (bad x = true → ¬(t.fmt = .fx96 ∧ part = 3) → v.side = true) ∧
    (bad x = false → t.fmt ≠ .fx96 → v = ⟨BitVec.ofNat 112
      (x.val.toNat % if t.fmt = .fp32 ∨ t.fmt = .int32 then 2 ^ 32 else 2 ^ 16), false, false⟩) ∧
    (t.fmt = .fx96 → part = 3 → v = e) ∧
    (bad x = false → t.fmt = .fx96 → part < 3 → v.side = false ∧ v.nan = (if part = 2 then x.val.getLsbD 0 else e.nan) ∧
      ∀ k < 112, v.bits.getLsbD k = if part = 0 ∧ k < 64 then x.val.getLsbD k
        else if part = 1 ∧ 64 ≤ k then x.val.getLsbD (k - 64) else e.bits.getLsbD k) := by
  have hthree : BitVec.ofNat 2 part = 3 ↔ part = 3 := by
    rw [← BitVec.toNat_inj, BitVec.toNat_ofNat, Nat.mod_eq_of_lt hp]
    rfl
  have hclean (hx : bad x = false) : written t (BitVec.ofNat 2 part) x e = dwrElem t.fmt (BitVec.ofNat 2 part) x.val e := by
    simp [written, hx]
  intro v
  refine ⟨fun hx hn => ?_, fun hx hf => (hclean hx).trans (dwrElem_code hf ..), fun hf h3 => ?_, fun hx hf hlt => ?_⟩
  · have hv : v = t.fmt.bad := by
      simp only [v, written, hx, hthree]
      rw [if_pos (by simpa [imp_iff_not_or] using hn)]
    rw [hv, side_bad]
  · have hv : v = dwrElem t.fmt (BitVec.ofNat 2 part) x.val e := by
      simp [v, written, hf, h3]
    rw [hv, hf, h3]
    rfl
  · rw [show v = _ from hclean hx, hf]
    exact dwrElem_fx96 hlt ..

/-- The words of MSTAT (R188). -/
theorem matStatus_cases (c : Ctx) {n : BitVec 4} (hn : n.toNat < 4) :
    (n = 0 → (c.matStatus n).toNat = (c.task.landing.filter (·.matrix)).length % 8 * 2 ^ 8 + c.mat.latchB.toNat * 2 ^ 4 +
      c.mat.latchA.toNat) ∧
    (n = 1 → ∀ i : Fin 8, (c.matStatus n).toNat / 16 ^ i.val % 16 = (c.mat.d[i]).fmt.num.toNat) ∧
    (n = 2 → ∀ i : Fin 8, (c.matStatus n).toNat / 256 ^ i.val % 256 = (c.mat.d[i]).scale.toNat) ∧
    (n = 3 → ∀ i : Fin 4, (c.matStatus n).toNat / 16 ^ i.val % 16 = (((c.mat.w[i]).fmt).getD 0xF).toNat) := by
  have tile (i : Fin 8) : fin3 (BitVec.ofNat 3 i.val) = i := by
    ext
    simp [fin3]
  have slot (i : Fin 4) : fin2 (BitVec.ofNat 2 i.val) = i := by
    ext
    simp [fin2]
  refine ⟨?_, ?_, ?_, ?_⟩
  · rintro rfl
    have hv : c.matStatus 0 =
        (BitVec.ofNat 3 (c.task.landing.filter (·.matrix)).length ++ c.mat.latchB ++ c.mat.latchA).setWidth 64 := rfl
    rw [hv, BitVec.toNat_setWidth, BitVec.toNat_append, BitVec.toNat_append, BitVec.toNat_ofNat,
      ← Nat.shiftLeft_add_eq_or_of_lt c.mat.latchA.isLt, ← Nat.shiftLeft_add_eq_or_of_lt c.mat.latchB.isLt, Nat.shiftLeft_eq,
      Nat.shiftLeft_eq]
    have := c.mat.latchA.isLt
    have := c.mat.latchB.isLt
    omega
  · rintro rfl i
    have h := joined_field (w := 4) (k := 8) (f := fun i => (c.mat.d[fin3 (BitVec.ofNat 3 i)]).fmt.num.toNat) (by decide)
      (fun _ _ => BitVec.isLt _) (by decide) i.isLt
    simp only [tile] at h
    exact h
  · rintro rfl i
    have h := joined_field (w := 8) (k := 8) (f := fun i => (c.mat.d[fin3 (BitVec.ofNat 3 i)]).scale.toNat) (by decide)
      (fun _ _ => BitVec.isLt _) (by decide) i.isLt
    simp only [tile] at h
    exact h
  · rintro rfl i
    have h := joined_field (w := 4) (k := 4) (f := fun i => (((c.mat.w[fin2 (BitVec.ofNat 2 i)]).fmt).getD 0xF).toNat) (by decide)
      (fun _ _ => BitVec.isLt _) (by decide) i.isLt
    simp only [slot] at h
    exact h

/-- The tile forms (R184-R188). -/
theorem tileForms : Claims.TileForms := by
  unfold Claims.TileForms
  intro s d a b z r g n hin t u old
  refine ⟨fun hd hr => ⟨exec_dzero hin hd hr, fun ha hs => ⟨exec_dmov hin hd hr ha hs, ?_, ?_⟩, ?_, ?_, ?_⟩, ?_, ?_⟩
  · intro hb ht hf hx
    exact ⟨_, _, flagsAt (sums t u), exec_dadd hin hd hr ha hs hb ht rfl rfl hf hx, rfl, rfl, joinsFlags_orFlags (by simp [sums]),
      fun i hi => sums_cases hi⟩
  · intro _ f
    exact ⟨_, _, flagsAt (conversions t f old.scale r), exec_dcvt hin hd hr ha hs rfl rfl r g, rfl, rfl,
      joinsFlags_orFlags (by simp [conversions]), fun i hi => conversions_cases hi⟩
  · intro hne
    rw [exec_dscl hin hd hr rfl, if_neg hne]
  · intro hx
    exact ⟨_, _, flagsAt (rescaled old z), by rw [exec_dscl hin hd hr rfl, if_pos hx], rfl, rfl,
      joinsFlags_orFlags (by simp [rescaled]), fun i hi => rescaled_cases hi⟩
  · intro hta htb i part x e
    have hexec := exec_dwr hin hd hr hta htb (old := old) rfl
    refine ⟨fun hbad => by simpa only [hbad, if_true] using hexec, fun hok => ?_⟩
    exact ⟨_, by simpa only [hok, Bool.false_eq_true, if_false] using hexec, written_cases old part (Nat.mod_lt _ (by decide)) x e⟩
  · intro ha hs htb i part e
    have hexec := exec_drd (d := d) hin ha hs htb (t := t) rfl
    refine ⟨fun hbad => by simpa only [hbad, if_true] using hexec, fun hok => ?_⟩
    exact ⟨_, by simpa only [hok, Bool.false_eq_true, if_false] using hexec, drdVal_cases t.fmt part e⟩
  · intro hn
    obtain ⟨h0, h1, h2, h3⟩ := matStatus_cases s.ctx hn
    refine ⟨_, exec_mstat hin n, h0, fun he i => ?_, h2, fun he i => ?_⟩
    · rw [h1 he i]
      cases (s.ctx.mat.d[i]).fmt <;> rfl
    · rw [h3 he i]
      cases (s.ctx.mat.w[i]).fmt <;> rfl

end Sys2Proof.Claims
end

section
/-!
PROOF. What an access of the core's own scratchpad fills on its way (R210): map granules, and of the running context its maps alone; and
the image that matrix work reads (R174).
-/

namespace Sys2Proof.Machine

/-! ## Fills -/

/-- `t` has the turn of `s`, and its running context is that of `s` but for its maps. -/
def KeepsButMaps (s t : State) : Prop := t.cur = s.cur ∧ ∃ m, t.ctx = { s.ctx with maps := m }

theorem KeepsButMaps.refl (s : State) : KeepsButMaps s s := ⟨rfl, s.ctx.maps, rfl⟩
theorem KeepsButMaps.trans {s t u : State} (h : KeepsButMaps s t) (k : KeepsButMaps t u) : KeepsButMaps s u := by
  obtain ⟨hc, m, hm⟩ := h
  obtain ⟨kc, n, hn⟩ := k
  exact ⟨kc.trans hc, n, by rw [hn, hm]⟩
theorem Untouched.keepsButMaps {s t : State} (h : Untouched s t) : KeepsButMaps s t := ⟨h.cur, s.ctx.maps, h.ctx⟩
theorem KeepsButMaps.mat {s t : State} (h : KeepsButMaps s t) : t.ctx.mat = s.ctx.mat := by
  obtain ⟨-, m, hm⟩ := h
  rw [hm]

theorem KeepsButMaps.onMap (s : State) (i : Fin 16) (f : MapUnit → MapUnit) : KeepsButMaps s (s.onMap i f) :=
  ⟨rfl, _, State.ctx_onCtx ..⟩

/-- A write of a scratchpad leaves every context. -/
theorem State.ctx_writeSpad (s : State) (c : CoreNum) (a : Nat) (l : List Byte) (p : Bool) : (s.writeSpad c a l p).ctx = s.ctx := by
  have hput (k : Core) : ((splitBlocks l.length a l).foldl (fun k x => k.putSpad x.1 x.2 p) k).ctx = k.ctx :=
    foldl_keeps (P := fun k' : Core => k'.ctx = k.ctx) _ rfl fun _ _ h => h
  show ((s.writeSpad c a l p).core s.cur).ctx = _
  unfold State.writeSpad
  by_cases h : s.cur = c
  · subst h
    rw [State.core_onCore_same, hput]
    rfl
  · rw [State.core_onCore_other _ _ h]
    rfl

theorem KeepsButMaps.writeSpad (s : State) (c : CoreNum) (a : Nat) (l : List Byte) (p : Bool) : KeepsButMaps s (s.writeSpad c a l p) :=
  ⟨rfl, s.ctx.maps, s.ctx_writeSpad c a l p⟩

theorem Untouched.xlateBlocks (s : State) (a : Agent) (k : Kind) (l : List (Nat × BitVec 64)) : Untouched s (s.xlateBlocks a k l).2 := by
  induction l generalizing s with
  | nil => exact Untouched.refl s
  | cons x t ih =>
    have hx := Untouched.xlateSpan s a k x.2 64
    simp only [State.xlateBlocks]
    split
    · rename_i e
      rwa [e] at hx
    · rename_i s' e
      rw [e] at hx
      have ht := hx.trans (ih s')
      split
      · rename_i e'
        rwa [e'] at ht
      · rename_i e'
        rwa [e'] at ht

theorem KeepsButMaps.fillBlocks (s : State) (p : PartNum) (base : Nat) (l : List (Nat × List (Xlat × Nat))) :
    KeepsButMaps s (s.fillBlocks p base l) := by
  induction l generalizing s with
  | nil => exact KeepsButMaps.refl s
  | cons x t ih =>
    have hread := (Untouched.readPieces s p x.2).keepsButMaps
    exact (hread.trans (KeepsButMaps.writeSpad ..)).trans (ih _)

theorem KeepsButMaps.fillGranule (s : State) (i : Fin 16) (d : MapDesc) (g : Nat) : KeepsButMaps s (s.fillGranule i d g).2 := by
  have hx := (Untouched.xlateBlocks s s.ctx.agent .read (d.blocks g)).keepsButMaps
  unfold State.fillGranule
  split
  · exact KeepsButMaps.refl s
  · split
    · rename_i e
      rwa [e] at hx
    · rename_i e
      rw [e] at hx
      split
      · exact KeepsButMaps.refl s
      · exact (hx.trans (KeepsButMaps.fillBlocks ..)).trans (KeepsButMaps.onMap ..)

theorem KeepsButMaps.touchAll (s : State) (l : List Nat) : KeepsButMaps s (s.touchAll l).2 := by
  induction l generalizing s with
  | nil => exact KeepsButMaps.refl s
  | cons a t ih =>
    simp only [State.touchAll]
    split
    · exact ih s
    · rename_i i d _
      split
      · exact ih s
      · have hg := KeepsButMaps.fillGranule s i d (d.granOf a)
        split
        · rename_i e
          rwa [e] at hg
        · rename_i e
          rw [e] at hg
          exact hg.trans (ih _)

theorem KeepsButMaps.touch (s : State) (a n : Nat) : KeepsButMaps s (s.touch a n).2 := KeepsButMaps.touchAll ..

end Sys2Proof.Machine

namespace Sys2Proof.Claims

open Sys2Proof.Machine

/-! ## The image of matrix work -/

/-- The bytes of an image, none of them bad. -/
def imageBytes (s : State) (p n : Nat) : List (Byte × Bool) := (List.range n).map fun j => (spadByte s s.cur (p + j), false)

/-- What a touch for an image leaves of the running context's slot D registers. -/
theorem ImageAt.mat {s s1 : State} {r : Reg} {n p : Nat} (h : ImageAt s s1 r n p) : s1.ctx.mat = s.ctx.mat := by
  obtain ⟨-, -, -, -, -, -, ht, -, -⟩ := h
  have hk := KeepsButMaps.touch s p n
  rw [ht] at hk
  exact hk.mat

/-- A clean image is read byte by byte (R174). -/
theorem imageRead_eq {s s1 : State} {r : Reg} {n p : Nat} (h : ImageAt s s1 r n p) : s.imageRead p n = (.ok (imageBytes s1 p n), s1) := by
  obtain ⟨-, -, -, -, -, -, ht, herr, hbad⟩ := h
  have hread : s1.readSpad s1.cur p n = (readBytes (s1.core s1.cur).spad p n, (s1.core s1.cur).spadBad p n, s1) := by
    simp [State.readSpad, herr]
  simp only [State.imageRead, ht, hread]
  congr 2
  refine List.ext_getElem (by simp [imageBytes, readBytes]) fun i hi _ => ?_
  have hi : i < n := by simpa [readBytes] using hi
  simp [imageBytes, readBytes, spadByte, hbad i hi]

/-- Matrix work whose image stands goes on with it (R165, R174, R219). -/
theorem withImage_go {s s1 : State} {r : Reg} {n p : Nat} {check : State → SlotOut → SlotOut}
    {k : State → Option (List (Byte × Bool)) → SlotOut} (h : ImageAt s s1 r n p) :
    s.withImage r n check k = check s (k s1 (some (imageBytes s1 p n))) := by
  have hread := imageRead_eq h
  obtain ⟨hfree, hlong, htag, hp, halign, hend, -, -, -⟩ := h
  have hpoison : (s.thr.readD r).poison = false := by simp [TVal.poison, htag]
  have hadr : ((s.thr.readD r).val.extractLsb' 0 32).toNat = p := by simp [hp, BitVec.extractLsb'_toNat]
  have hlocal {k : SlotOut} : s.checkLocal p n 256 k = k := by
    rw [State.checkLocal, if_neg (by simpa using halign), if_neg (by omega)]
  simp only [State.withImage, State.needs_go (l := [(r, s.thr.readD r)]) (by simp [htag]), hpoison, hadr, hlocal, hlong, State.inOrder,
    show s.ctx.kept 0 none = false from hfree, hread, Bool.false_eq_true, if_false]

end Sys2Proof.Claims
end

section
/-!
PROOF. Images as numbers (R173, R114, R183): the blocks of an integer image, their products, the bits of a binary image.
-/

namespace Sys2Proof.Machine

/-! ## Lists over ranges -/

/-- A list is what its places hold. -/
theorem eq_map_range {α : Type} (d : α) {n : Nat} {l : List α} (h : l.length = n) : l = (List.range n).map fun i => (l[i]?).getD d := by
  refine List.ext_getElem (by simp [h]) fun i hi _ => ?_
  simp [hi]

/-- The pieces of a list over a range. -/
theorem chunks_range {α : Type} {n : Nat} (hn : 0 < n) (m : Nat) (f : Nat → α) :
    chunks n m ((List.range (n * m)).map f) = (List.range m).map fun i => (List.range n).map fun k => f (n * i + k) := by
  induction m generalizing f with
  | zero => rfl
  | succ m ih =>
    have hsplit : (List.range (n * (m + 1))).map f = (List.range n).map f ++ (List.range (n * m)).map fun k => f (n + k) := by
      rw [Nat.mul_succ, Nat.add_comm, List.range_add, List.map_append, List.map_map]
      rfl
    have hne : ((List.range (n * (m + 1))).map f).isEmpty = false := by
      simp [Nat.mul_succ]
      omega
    rw [chunks, hne, if_neg Bool.false_ne_true, hsplit, List.take_left' (by simp), List.drop_left' (by simp), ih, List.range_succ_eq_map,
      List.map_cons, List.map_map]
    simp [Function.comp_def, Nat.mul_succ, Nat.add_comm, Nat.add_left_comm]

/-- The pairs of blocks of a list over a range. -/
theorem pairBlocks_range (m : Nat) (g : Nat → MBlock) :
    pairBlocks ((List.range (2 * m)).map g) = (List.range m).map fun i => (g (2 * i), g (2 * i + 1)) := by
  induction m generalizing g with
  | zero => rfl
  | succ m ih =>
    have h := ih fun i => g (i + 2)
    rw [Nat.mul_succ, List.range_succ_eq_map, List.range_succ_eq_map, List.range_succ_eq_map]
    simpa [pairBlocks, Function.comp_def, Nat.mul_succ] using h

/-- A grid, row by row. -/
theorem flatMap_range {α : Type} (a b : Nat) (F : Nat → Nat → α) :
    ((List.range a).flatMap fun i => (List.range b).map (F i)) = (List.range (a * b)).map fun k => F (k / b) (k % b) := by
  induction a with
  | zero => simp
  | succ a ih =>
    rw [List.range_succ, List.flatMap_append, ih, Nat.succ_mul, List.range_add, List.map_append, List.map_map]
    congr 1
    simp only [List.flatMap_cons, List.flatMap_nil, List.append_nil]
    refine List.map_congr_left fun k hk => ?_
    have hk : k < b := List.mem_range.1 hk
    have hb : 0 < b := by omega
    simp [Nat.mul_comm a b, Nat.mul_add_div hb, Nat.div_eq_of_lt hk, Nat.mod_eq_of_lt hk]

/-- A scalar product of lists over a range. -/
theorem dot_range (n : Nat) (f g : Nat → Int) :
    dot ((List.range n).map f) ((List.range n).map g) = ∑ k ∈ Finset.range n, f k * g k := by
  induction n generalizing f g with
  | zero => rfl
  | succ n ih =>
    rw [List.range_succ_eq_map, Finset.sum_range_succ', add_comm]
    simp only [List.map_cons, List.map_map, dot]
    rw [← ih fun k => f (k + 1)]
    rfl

/-! ## Integer images -/

/-- The codes of an image of bytes are its bytes. -/
theorem codesOf_eight : ∀ l : List (Byte × Bool), codesOf 8 l = l.map fun x => (x.1.toNat, x.2)
  | [] => rfl
  | [_] => rfl
  | x :: y :: t => by simp [codesOf, codesOf_eight t]

/-- The codes of an image without a bad byte are not bad (R95). -/
theorem codesOf_good (w : Nat) : ∀ {l : List (Byte × Bool)}, (∀ q ∈ l, q.2 = false) → ∀ e ∈ codesOf w l, e.2 = false
  | [], _ => by simp [codesOf]
  | [x], h => by
    have hx := h x List.mem_cons_self
    rw [codesOf]
    split <;> simp only [List.forall_mem_cons, hx, List.not_mem_nil, false_imp_iff, implies_true, and_self]
  | x :: y :: t, h => by
    obtain ⟨hx, hy, hrest⟩ := by simpa only [List.forall_mem_cons] using h
    have ht := codesOf_good w hrest
    rw [codesOf]
    split
    · simpa only [List.forall_mem_cons, hx, hy, Bool.or_self, true_and] using ht
    · split <;> simpa only [List.forall_mem_cons, hx, hy, true_and] using ht

/-- A block of integers without a bad one. -/
def intBlock (t : VTy) (y : Nat → Nat) : MBlock := ⟨(List.range 32).map fun k => t.toInt (y k), 0, [], false, false, false⟩

/-- An image of integers is aligned as it stands (R114). -/
theorem alignImage_int {c : BitVec 4} {w : Nat} {sg : Bool} (hc : matTy c = .int w sg) (x : Nat → Nat) :
    alignImage c ((List.range 4096).map fun j => (x j, false)) [] =
      (List.range 128).map fun i => intBlock (matTy c) fun k => x (32 * i + k) := by
  have h := chunks_range (n := 32) (by decide) 128 fun j => (x j, false)
  simp only [alignImage, h]
  refine List.ext_getElem (by simp) fun i _ _ => ?_
  simp [alignBlock, hc, intBlock, VTy.bad]

/-- The exact sum of the products of two blocks of integers (R115). -/
theorem blockSum_int (t u : VTy) (x y : Nat → Nat) : let n := ∑ k ∈ Finset.range 32, t.toInt (x k) * u.toInt (y k)
    blockSum (intBlock t x) (intBlock u y) = (.fin (decide (n < 0)) n.natAbs 0, 0) := by
  simp [blockSum, intBlock, dot_range]

/-- A byte in INT8 or UINT8. -/
theorem toInt_matTy {c : BitVec 4} (hc : c = 5 ∨ c = 7) (x : Byte) : (matTy c).toInt x.toNat = Claims.byteInt c x := by
  have := x.isLt
  obtain rfl | rfl := hc
  · have hty : matTy 5 = .int 8 true := rfl
    simp only [hty, VTy.toInt, Claims.byteInt, Claims.signedField, if_true]
    split <;> split <;> omega
  · rfl

/-! ## Binary images -/

/-- The bits of a number that bytes spell. -/
theorem testBit_leNat (l : List Byte) (k : Nat) : (leNat l).testBit k = ((l[k / 8]?).getD 0).getLsbD (k % 8) := by
  induction l generalizing k with
  | nil => simp [leNat]
  | cons x t ih =>
    rw [leNat, Nat.add_comm, show 256 = 2 ^ 8 from rfl, Nat.testBit_two_pow_mul_add _ x.isLt]
    split
    · rename_i h
      rw [Nat.div_eq_of_lt h, Nat.mod_eq_of_lt h]
      rfl
    · rename_i h
      rw [ih, show k / 8 = (k - 8) / 8 + 1 by omega, show (k - 8) % 8 = k % 8 by omega]
      rfl

/-- The number of ones counts the bits that are set. -/
theorem popcount_eq_sum (n x : Nat) : popcount n x = ∑ k ∈ Finset.range n, (x.testBit k).toNat := by
  induction n generalizing x with
  | zero => rfl
  | succ n ih =>
    rw [popcount, ih, Finset.sum_range_succ', add_comm]
    simp only [Nat.testBit_succ, Nat.testBit_zero]
    congr 1
    have := Nat.mod_two_eq_zero_or_one x
    obtain h | h := this <;> simp [h]

/-- A shorter reading of a table is the start of a longer one. -/
theorem smDense_take {α : Type} (d : α) {n m : Nat} (h : n ≤ m) (k : Nat) (t : SMap α) :
    smDense d n k t = (smDense d m k t).take n := by
  induction n generalizing m k t with
  | zero => cases t <;> rfl
  | succ n ih =>
    obtain ⟨m, rfl⟩ := Nat.exists_eq_add_of_le' (Nat.lt_of_lt_of_le (Nat.succ_pos n) h)
    have hle : n ≤ m := by omega
    cases t with
    | nil => simp [smDense, ih hle]
    | cons e t => simp only [smDense]; split <;> simp [ih hle]

end Sys2Proof.Machine
end

section
/-!
PROOF. Matrix work (R177-R183): latch and weight slots, MMA and MMAB with their exact sums, and the statement about slot D's engine (O31).
-/

namespace Sys2Proof.Claims

open Sys2Proof.Machine

/-! ## Codes of formats (R173) -/

theorem matBytes_eq (c : BitVec 4) : matBytes c = imageSize c := by
  revert c; decide
theorem matPlanes_eq (c : BitVec 4) : matPlanes c = planes c := by
  revert c; decide
/-- The formats that FMTW may name are integers or not as the claims tell. -/
theorem isFp_matTy {c : BitVec 4} (h : c.toNat < 12) : (matTy c).isFp = !matInteger c := by
  revert c; decide
/-- An integer format has no poison element. -/
theorem bad_matTy {c : BitVec 4} (h : matInteger c = true) (x : Nat) : (matTy c).bad x = false := by
  have hc : c = 5 ∨ c = 6 ∨ c = 7 ∨ c = 8 := by simpa [matInteger, or_assoc] using h
  obtain rfl | rfl | rfl | rfl := hc <;> rfl

/-- The mode's tile format of an MMA (R180). -/
theorem mmaFmt_eq {c : BitVec 4} (hc : c.toNat < 12) (f : BitVec 1) :
    mmaFmt c (decide (f = 1)) = if f = 1 then TileFmt.fx96 else if matInteger c then .int32 else .fp32 := by
  simp only [mmaFmt, isFp_matTy hc, decide_eq_true_iff]
  cases matInteger c <;> rfl

/-! ## FMTW, BCLR, BLOAD -/

section Forms
variable {s s1 : State} {d a : Reg} {w : BitVec 2}

theorem exec_fmtw (hin : s.ctx.inHandler = false) (x y : BitVec 4) :
    exec (.fmtw x y) s = .next (withResult s 4 .latch (.latch y x)).slotDone := by
  show execFmtw x y s = _
  rw [execFmtw, State.taskOnly_task hin]
  rfl

theorem exec_bclr_limit (hin : s.ctx.inHandler = false) (hw : s.ctx.kern.wslots ≤ w.toNat) :
    exec (.bclr w) s = .next (traps s 0x0F 7) := by
  show execBclr w s = _
  rw [execBclr, State.taskOnly_task hin, matLimits_slot hw]
  rfl

theorem exec_bclr (hin : s.ctx.inHandler = false) (hw : w.toNat < s.ctx.kern.wslots) :
    exec (.bclr w) s = .next (withResult s 2 (.wslot ⟨w.toNat, w.isLt⟩) (.wslot ⟨[], 0, none⟩)).slotDone := by
  show execBclr w s = _
  rw [execBclr, State.taskOnly_task hin, matLimits_go (by simp) (by simpa using hw)]
  rfl

/-- No BLOAD is in flight where the weight slots in the landing buffer are empty ones. -/
theorem not_bloadFlying {t : Thread} (h : ∀ l ∈ t.landing, ∀ v, l.val = .wslot v → v.fmt = none) : t.bloadFlying = false := by
  refine List.any_eq_false.2 fun l hl => ?_
  cases hv : l.val with
  | wslot v => simp [h l hl v hv]
  | _ => simp

theorem exec_bload (hin : s.ctx.inHandler = false) (hw : w.toNat < s.ctx.kern.wslots)
    (hfly : ∀ l ∈ s.ctx.task.landing, ∀ v, l.val = .wslot v → v.fmt = none) {c : BitVec 4} (hc : s.ctx.mat.latchB = c) {p : Nat}
    (himg : ImageAt s s1 a (imageSize c) p) : exec (.bload a w) s =
      .next (withResult s1 20 (.wslot ⟨w.toNat, w.isLt⟩) (.wslot (weightOf c (imageBytes s1 p (imageSize c))))).slotDone := by
  show execBload a w s = _
  simp only [execBload, hc, State.taskOnly_task hin, withImage_go himg,
    matLimits_go (s := s) (tiles := []) (slots := [w]) (by simp) (by simpa using hw),
    not_bloadFlying hfly, Bool.false_eq_true, if_false, matBytes_eq]
  rfl

theorem imageBytes_good {p n : Nat} {q : Byte × Bool} (h : q ∈ imageBytes s1 p n) : q.2 = false := by
  obtain ⟨j, -, rfl⟩ := List.mem_map.1 h
  rfl

/-- Bits none of which is set spell zero. -/
theorem foldr_bits_zero {α : Type} {f : α → Bool} {l : List α} (h : ∀ x ∈ l, f x = false) :
    l.foldr (fun x n => (if f x then 1 else 0) + 2 * n) 0 = 0 := by
  induction l with
  | nil => rfl
  | cons x t ih =>
    rw [List.foldr_cons, ih fun y hy => h y (List.mem_cons_of_mem _ hy), h x (by simp)]
    rfl

/-- The slot that a clean integer image gives has no side bit. -/
theorem weightOf_side {c : BitVec 4} (h : matInteger c = true) (p n : Nat) : (weightOf c (imageBytes s1 p n)).side = 0 := by
  have hscale (j : Nat) : ((((imageBytes s1 p n).drop (512 * (matTy c).w))[j]?).map (·.2)).getD false = false := by
    cases hj : ((imageBytes s1 p n).drop (512 * (matTy c).w))[j]? with
    | none => rfl
    | some q => exact imageBytes_good (List.mem_of_mem_drop (List.mem_of_getElem? hj))
  have hzero := foldr_bits_zero (f := fun e : (Nat × Bool) × Nat => e.1.2 || (matTy c).bad e.1.1 ||
      ((((imageBytes s1 p n).drop (512 * (matTy c).w))[e.2 / 32]?).map (·.2)).getD false)
    (l := (codesOf (matTy c).w ((imageBytes s1 p n).take (512 * (matTy c).w))).zipIdx) fun e he => by
      have hgood := codesOf_good (matTy c).w (fun q hq => imageBytes_good (List.mem_of_mem_take hq)) e.1 (List.fst_mem_of_mem_zipIdx he)
      simp only [hgood, bad_matTy h, hscale, Bool.or_self]
  exact congrArg (BitVec.ofNat 4096) hzero

/-! ## MMA -/

theorem mmaChecks_go {n : Bool} {f : TileFmt} {k : SlotOut} (hf : n = true ∨ (s.ctx.chained (tileNo d)).fmt = f) (hr : TileRoom s d) :
    s.mmaChecks d n f k = k := by
  rw [State.mmaChecks, tileIx_eq, if_neg (by rcases hf with h | h <;> simp [h]), matRoom_go hr]

/-- The results of an MMA, element by element (R181). -/
def products (c : BitVec 4) (slot : WSlot) (f : TileFmt) (t : Tile) (new : Bool) (l : List (Byte × Bool)) : List (Elem × BitVec 7) :=
  mmaElems f t.exp (accOf t new)
    (pairBlocks (alignImage c (codesOf (matTy c).w (l.take (512 * (matTy c).w))) (l.drop (512 * (matTy c).w))))
    (slot.fmt.map fun b => pairBlocks (alignImage b (slot.elems b).1 (slot.elems b).2))

theorem exec_mma (hin : s.ctx.inHandler = false) (hd : TileUsable s d) (hr : TileRoom s d) (hw : w.toNat < s.ctx.kern.wslots)
    {n f : BitVec 1} {c : BitVec 4} (hc : s.ctx.mat.latchA = c) {slot : WSlot} (hslot : s.ctx.mat.w[(⟨w.toNat, w.isLt⟩ : Fin 4)] = slot)
    {t : Tile} (ht : s.ctx.chained (tileNo d) = t) (hcode : c.toNat < 12)
    (hclass : ∀ b, slot.fmt = some b → b.toNat < 12 ∧ matInteger b = matInteger c)
    {fmt : TileFmt} (hfmt : fmt = if f = 1 then TileFmt.fx96 else if matInteger c then .int32 else .fp32)
    (hacc : n = 1 ∨ t.fmt = fmt) {p : Nat} (himg : ImageAt s s1 a (imageSize c) p) :
    let r := products c slot fmt t (decide (n = 1)) (imageBytes s1 p (imageSize c))
    exec (.mma d a n f w) s = .next (tileResult (delivering s1 w (planes c)) (4 * planes c + 8) d
      (.tile (Tile.ofDense fmt t.scale (r.map (·.1)))) (orFlags r) true) := by
  intro r
  have hix : s.ctx.mat.w[fin2 w] = slot := hslot
  have hsame : (slot.fmt.any fun b => (matTy b).isFp != (matTy c).isFp) = false := by
    cases hb : slot.fmt with
    | none => rfl
    | some b => simp [isFp_matTy (hclass b hb).1, isFp_matTy hcode, (hclass b hb).2]
  show execMma d a n f w s = _
  rw [← mmaFmt_eq hcode] at hfmt
  simp only [execMma, hc, hix, tileIx_eq, ht, ← hfmt, State.taskOnly_task hin, withImage_go himg,
    matLimits_go (s := s) (tiles := [d]) (slots := [w]) (by simpa using hd) (by simpa using hw), hsame, Bool.false_eq_true, if_false,
    mmaChecks_go (s := s) (d := d) (n := decide (n = 1)) (f := fmt) (by rw [ht]; simpa using hacc) hr, putTile_out,
    matBytes_eq, matPlanes_eq]
  rfl

end Forms

end Sys2Proof.Claims
end

section
/-!
PROOF. MMA and MMAB (R180-R183): the exact sums of their elements, and the statement about slot D's matrix engine (O31).
-/

namespace Sys2Proof.Claims

open Sys2Proof.Machine

/-! ## The accumulator -/

/-- Element `k` of the accumulator of matrix work (R181). -/
def accAt (t : Tile) (new : Bool) (k : Nat) : Elem := if new then Elem.zero else element t k

theorem accOf_eq (t : Tile) (new : Bool) : accOf t new = (List.range 4096).map (accAt t new) := by
  cases new with
  | true =>
    show List.replicate 4096 Elem.zero = (List.range 4096).map fun _ => Elem.zero
    rw [List.map_const', List.length_range]
  | false => exact eq_map_range Elem.zero t.dense_length

/-- A clean accumulator has no poison integer. -/
theorem accAt_side {t : Tile} {new : Bool} (h : new = true ∨ ∀ i < 4096, (element t i).side = false) {k : Nat} (hk : k < 4096) :
    TileFmt.int32.elemBad (accAt t new k) = false := by
  cases new with
  | true => rfl
  | false => simpa [accAt, TileFmt.elemBad, TileFmt.poisonCode] using (h.resolve_left Bool.false_ne_true) k hk

/-- Results without flags join to none. -/
theorem orFlags_eq_zero {r : List (Elem × BitVec 7)} (h : ∀ p ∈ r, p.2 = 0) : orFlags r = 0 := by
  refine BitVec.eq_of_getLsbD_eq fun b _ => ?_
  rw [getLsbD_orFlags, List.any_eq_false.2 fun p hp => by simp [h p hp]]
  simp

/-- An element of a tile whose results stand in a grid. -/
theorem element_grid {f : TileFmt} {u : BitVec 8} {g : Nat → Elem} {k : Nat} (hk : k < 4096) :
    element (Tile.ofDense f u ((List.range 4096).map g)) k = g k := by
  simp [element, Tile.dense_ofDense, hk]

/-! ## Integer products -/

theorem matTy_byte {c : BitVec 4} (hc : c = 5 ∨ c = 7) : ∃ sg, matTy c = .int 8 sg := by
  obtain rfl | rfl := hc
  · exact ⟨true, rfl⟩
  · exact ⟨false, rfl⟩

/-- The rows of an image of bytes, two blocks each (R173). -/
theorem rows_int {c : BitVec 4} (hc : c = 5 ∨ c = 7) (z : Nat → Byte) :
    pairBlocks (alignImage c ((List.range 4096).map fun j => ((z j).toNat, false)) []) = (List.range 64).map fun i =>
      (intBlock (matTy c) fun k => (z (64 * i + k)).toNat, intBlock (matTy c) fun k => (z (64 * i + 32 + k)).toNat) := by
  obtain ⟨sg, hty⟩ := matTy_byte hc
  rw [alignImage_int hty fun j => (z j).toNat, pairBlocks_range 64]
  refine List.map_congr_left fun i _ => ?_
  rw [← Nat.mul_assoc, Nat.mul_add, ← Nat.mul_assoc]

/-- The images of A and of a weight slot, byte by byte. -/
theorem codes_imageBytes {c : BitVec 4} (hc : c = 5 ∨ c = 7) (s : State) (p : Nat) :
    codesOf (matTy c).w ((imageBytes s p 4096).take (512 * (matTy c).w)) =
      ((List.range 4096).map fun j => ((spadByte s s.cur (p + j)).toNat, false)) ∧
    (imageBytes s p 4096).drop (512 * (matTy c).w) = [] := by
  have hlen : (imageBytes s p 4096).length = 4096 := by simp [imageBytes]
  obtain ⟨sg, hty⟩ := matTy_byte hc
  have hw : (VTy.int 8 sg).w = 8 := rfl
  have hn : 512 * 8 = 4096 := rfl
  rw [hty, hw, hn, List.take_of_length_le hlen.le, List.drop_eq_nil_of_le hlen.le, codesOf_eight]
  exact ⟨by simp [imageBytes], rfl⟩

theorem elems_weightSlot {b : BitVec 4} (hb : b = 5 ∨ b = 7) {w : WSlot} (h : w.side = 0) :
    w.elems b = ((List.range 4096).map fun j => ((slotByte w j).toNat, false), []) := by
  have hbytes : matBytes b = 4096 := by obtain rfl | rfl := hb <;> rfl
  obtain ⟨sg, hty⟩ := matTy_byte hb
  have hw : (VTy.int 8 sg).w = 8 := rfl
  have hn : 512 * 8 = 4096 := rfl
  have himg : (smDense 0 4096 0 w.image).map (fun x => (x, false)) = (List.range 4096).map fun j => (slotByte w j, false) := by
    rw [eq_map_range 0 (smDense_length 0 4096 0 w.image), List.map_map]
    rfl
  have hlen : ((List.range 4096).map fun j => (slotByte w j, false)).length = 4096 := by simp
  rw [WSlot.elems, hbytes, hty, hw, hn, himg, List.take_of_length_le hlen.le, List.drop_eq_nil_of_le hlen.le, codesOf_eight]
  exact Prod.ext (List.ext_getElem (by simp) fun i _ _ => by simp [h]) rfl

/-- One integer element from its two pairs of blocks (R181). -/
theorem mmaElem_int (t u : VTy) {scale : Int} {acc : Elem} (hacc : TileFmt.int32.elemBad acc = false) (x x' y y' : Nat → Nat) :
    mmaElem .int32 scale acc (some ((intBlock t x, intBlock t x'), (intBlock u y, intBlock u y'))) false =
      (codeElem ((acc.bits.toNat + ∑ k ∈ Finset.range 32, t.toInt (x k) * u.toInt (y k) +
        ∑ k ∈ Finset.range 32, t.toInt (x' k) * u.toInt (y' k) : Int) % 2 ^ 32).toNat, 0) := by
  simp only [mmaElem, hacc, Bool.or_self, Bool.false_eq_true, if_false, blockSum_int, signed_natAbs]

/-- The exact sum of the products of row `i` of A and column `j` of B. -/
def byteSum (s : State) (p : Nat) (w : WSlot) (c b : BitVec 4) (i j : Nat) : Int :=
  ∑ k ∈ Finset.range 64, byteInt c (spadByte s s.cur (p + 64 * i + k)) * byteInt b (slotByte w (64 * j + k))

theorem byteSum_eq (s : State) (p : Nat) (w : WSlot) {c b : BitVec 4} (hc : c = 5 ∨ c = 7) (hb : b = 5 ∨ b = 7) (i j : Nat) :
    ∑ k ∈ Finset.range 32, (matTy c).toInt (spadByte s s.cur (p + (64 * i + k))).toNat *
      (matTy b).toInt (slotByte w (64 * j + k)).toNat +
    ∑ k ∈ Finset.range 32, (matTy c).toInt (spadByte s s.cur (p + (64 * i + 32 + k))).toNat *
      (matTy b).toInt (slotByte w (64 * j + 32 + k)).toNat = byteSum s p w c b i j := by
  simp only [toInt_matTy hc, toInt_matTy hb, byteSum]
  rw [show 64 = 32 + 32 from rfl, Finset.sum_range_add]
  simp only [Nat.add_assoc]

/-- The results of an MMA of bytes. -/
theorem products_int {s : State} {p : Nat} {c b : BitVec 4} (hc : c = 5 ∨ c = 7) (hb : b = 5 ∨ b = 7) {w : WSlot} (hw : w.fmt = some b)
    (hside : w.side = 0) {t : Tile} {new : Bool} (hacc : new = true ∨ ∀ i < 4096, (element t i).side = false) :
    products c w .int32 t new (imageBytes s p 4096) = (List.range 4096).map fun k =>
      (codeElem (((accAt t new k).bits.toNat + byteSum s p w c b (k / 64) (k % 64)) % 2 ^ 32).toNat, 0) := by
  obtain ⟨hrow, hrest⟩ := codes_imageBytes hc s p
  simp only [products, hw, Option.map_some, elems_weightSlot hb hside, hrow, hrest, rows_int hc, rows_int hb, accOf_eq, mmaElems,
    List.map_map, Function.comp_def, List.flatMap_map]
  rw [flatMap_range 64 64, List.zip_map', List.map_map]
  refine List.map_congr_left fun k hk => ?_
  have hgood := accAt_side hacc (List.mem_range.1 hk)
  have h := mmaElem_int (matTy c) (matTy b) (scale := t.exp) hgood (fun n => (spadByte s s.cur (p + (64 * (k / 64) + n))).toNat)
    (fun n => (spadByte s s.cur (p + (64 * (k / 64) + 32 + n))).toNat) (fun n => (slotByte w (64 * (k % 64) + n)).toNat)
    (fun n => (slotByte w (64 * (k % 64) + 32 + n)).toNat)
  rw [Int.add_assoc, byteSum_eq s p w hc hb] at h
  exact h

/-! ## Binary products (R183) -/

/-- The rows of a clean binary image. -/
theorem bitRows_imageBytes (s : State) (p : Nat) : bitRows (imageBytes s p 512) = (List.range 64).map fun i =>
    (leNat ((List.range 8).map fun k => spadByte s s.cur (p + (8 * i + k))), false) := by
  have h := chunks_range (n := 8) (by decide) 64 fun j => (spadByte s s.cur (p + j), false)
  rw [bitRows, imageBytes, show 512 = 8 * 64 from rfl, h, List.map_map]
  simp [Function.comp_def]

/-- The columns of a weight slot without a side bit, read as bits. -/
theorem bitCols_eq {w : WSlot} (h : w.side = 0) : w.bitCols = (List.range 64).map fun j =>
    (leNat ((List.range 8).map fun k => slotByte w (8 * j + k)), false) := by
  have hdense : smDense 0 512 0 w.image = (List.range (8 * 64)).map (slotByte w) := by
    rw [smDense_take 0 (show 512 ≤ 4096 by decide), eq_map_range 0 (smDense_length 0 4096 0 w.image), ← List.map_take, List.take_range]
    rfl
  rw [WSlot.bitCols, hdense, chunks_range (by decide)]
  cases w.fmt <;> exact List.ext_getElem (by simp) fun i _ _ => by simp [h]

/-- The number of bits that two rows of 64 bits have in common, or in which they differ. -/
theorem popcount_bits (and_ : Bool) (x y : Nat → Byte) :
    popcount 64 (if and_ then Nat.land (leNat ((List.range 8).map x)) (leNat ((List.range 8).map y))
      else Nat.xor (leNat ((List.range 8).map x)) (leNat ((List.range 8).map y))) =
    ∑ k ∈ Finset.range 64, (let u := (x (k / 8)).getLsbD (k % 8)
      let z := (y (k / 8)).getLsbD (k % 8)
      (if and_ then u && z else u != z).toNat) := by
  have hbit (z : Nat → Byte) {k : Nat} (hk : k < 64) : (leNat ((List.range 8).map z)).testBit k = (z (k / 8)).getLsbD (k % 8) := by
    rw [testBit_leNat]
    simp [show k / 8 < 8 by omega]
  rw [popcount_eq_sum]
  refine Finset.sum_congr rfl fun k hk => ?_
  have hk := Finset.mem_range.1 hk
  cases and_ with
  | true =>
    have hland := Nat.testBit_land (leNat ((List.range 8).map x)) (leNat ((List.range 8).map y)) k
    rw [hbit x hk, hbit y hk] at hland
    exact congrArg Bool.toNat hland
  | false =>
    have hxor := Nat.testBit_xor (leNat ((List.range 8).map x)) (leNat ((List.range 8).map y)) k
    rw [hbit x hk, hbit y hk] at hxor
    exact congrArg Bool.toNat hxor

/-- The number of products of row `i` of A and column `j` of B that are one (R183). -/
def bitSum (s : State) (p : Nat) (w : WSlot) (f : BitVec 1) (i j : Nat) : Nat :=
  ∑ k ∈ Finset.range 64, (let u := (spadByte s s.cur (p + 8 * i + k / 8)).getLsbD (k % 8)
    let z := (slotByte w (8 * j + k / 8)).getLsbD (k % 8)
    (if f = 1 then u && z else u != z).toNat)

/-- The results of an MMAB. -/
theorem mmabElems_eq {s : State} {p : Nat} {w : WSlot} (hside : w.side = 0) {t : Tile} {new : Bool}
    (hacc : new = true ∨ ∀ i < 4096, (element t i).side = false) (f : BitVec 1) :
    mmabElems (decide (f = 1)) (accOf t new) (bitRows (imageBytes s p 512)) w.bitCols = (List.range 4096).map fun k =>
      codeElem (((accAt t new k).bits.toNat + bitSum s p w f (k / 64) (k % 64)) % 2 ^ 32) := by
  simp only [mmabElems, accOf_eq, bitRows_imageBytes, bitCols_eq hside, List.flatMap_map, List.map_map, Function.comp_def]
  rw [flatMap_range 64 64, List.zip_map', List.map_map]
  refine List.map_congr_left fun k hk => ?_
  have hgood := accAt_side hacc (List.mem_range.1 hk)
  have hpop := popcount_bits (decide (f = 1)) (fun n => spadByte s s.cur (p + (8 * (k / 64) + n))) fun n => slotByte w (8 * (k % 64) + n)
  simp only [decide_eq_true_iff] at hpop
  simp only [Function.comp_def, hgood, Bool.or_self, Bool.false_eq_true, if_false, hpop, bitSum, decide_eq_true_iff, Nat.add_assoc]

section Forms
variable {s s1 : State} {d a : Reg} {w : BitVec 2}

theorem ctx_deliver (s : State) (w : BitVec 2) (n : Nat) : (s.deliver w n).ctx = s.ctx := by
  show ((s.deliver w n).core s.cur).ctx = _
  rw [State.deliver, State.core_onCore_same]
  rfl

theorem exec_mmab (hin : s.ctx.inHandler = false) (hd : TileUsable s d) (hr : TileRoom s d) (hw : w.toNat < s.ctx.kern.wslots)
    {n f : BitVec 1} {slot : WSlot} (hslot : s.ctx.mat.w[(⟨w.toNat, w.isLt⟩ : Fin 4)] = slot) {t : Tile}
    (ht : s.ctx.chained (tileNo d) = t) (hacc : n = 1 ∨ t.fmt = .int32) {p : Nat} (himg : ImageAt s s1 a 512 p) :
    exec (.mmab d a n f w) s = .next (tileResult (delivering s1 w 1) 12 d (.tile (Tile.ofDense .int32 t.scale
      (mmabElems (decide (f = 1)) (accOf t (decide (n = 1))) (bitRows (imageBytes s1 p 512)) slot.bitCols))) 0 true) := by
  have hix : s.ctx.mat.w[fin2 w] = slot := hslot
  show execMmab d a n f w s = _
  simp only [execMmab, tileIx_eq, ht, State.taskOnly_task hin, withImage_go himg,
    matLimits_go (s := s) (tiles := [d]) (slots := [w]) (by simpa using hd) (by simpa using hw),
    mmaChecks_go (s := s) (d := d) (n := decide (n = 1)) (f := .int32) (by rw [ht]; simpa using hacc) hr, putTile_out, ctx_deliver,
    himg.mat, hix]
  rfl

end Forms

/-! ## The statement -/

/-- Matrix work (R177-R183). -/
theorem matrixForms : Claims.MatrixForms := by
  unfold Claims.MatrixForms
  intro s d a x y n f w hin wi c slot t acc
  have haccAt (k : Nat) : (accAt t (decide (n = 1)) k).bits.toNat = acc k := by
    simp only [accAt, acc, decide_eq_true_iff]
    split <;> rfl
  have hclean {P : Prop} (h : n = 1 ∨ P) : decide (n = 1) = true ∨ P := by simpa using h
  have hindex {i j : Nat} (hi : i < 64) (hj : j < 64) : 64 * i + j < 4096 ∧ (64 * i + j) / 64 = i ∧ (64 * i + j) % 64 = j := by omega
  refine ⟨exec_fmtw hin x y, exec_bclr_limit hin, fun hw => ⟨exec_bclr hin hw, ?_, fun hd hr => ⟨?_, ?_⟩⟩⟩
  · intro s1 p hfly himg
    refine ⟨_, exec_bload hin hw hfly rfl himg, rfl, fun j hj => ?_, fun h => weightOf_side h ..⟩
    rw [smGet_image_weightOf]
    simp [imageBytes, hj]
  · intro fmt s1 p hcode hclass hacc himg
    refine ⟨_, _, exec_mma hin hd hr hw rfl rfl rfl hcode hclass rfl hacc himg, rfl, rfl, ?_⟩
    intro b hf hc hb hbyte hside hgood
    have hfmt : fmt = .int32 := by
      have : matInteger c = true := by obtain h | h := hc <;> rw [h] <;> rfl
      simp [fmt, hf, this]
    have hsize : imageSize c = 4096 := by obtain h | h := hc <;> rw [h] <;> rfl
    have hr := products_int (s := s1) (p := p) hc hbyte hb hside (hclean hgood)
    have hfin : (if f = 1 then TileFmt.fx96 else if matInteger c = true then .int32 else .fp32) = .int32 := hfmt
    rw [hfin, hsize, hr]
    refine ⟨orFlags_eq_zero (by simp), fun i hi j hj => ?_⟩
    obtain ⟨hlt, hdiv, hmod⟩ := hindex hi hj
    rw [List.map_map, element_grid hlt]
    simp only [Function.comp_def, hdiv, hmod, haccAt]
    refine ⟨rfl, ?_⟩
    rw [codeElem_toNat (by omega), Int.toNat_of_nonneg (by omega)]
    rfl
  · intro s1 p hacc himg
    refine ⟨_, exec_mmab hin hd hr hw rfl rfl hacc himg, rfl, rfl, ?_⟩
    intro hside hgood i hi j hj
    obtain ⟨hlt, hdiv, hmod⟩ := hindex hi hj
    rw [mmabElems_eq hside (hclean hgood), element_grid hlt]
    simp only [hdiv, hmod, haccAt]
    exact ⟨rfl, codeElem_toNat (Nat.mod_lt _ (by decide))⟩

/-- Settles O31, from the forms of matrix work and of tiles. -/
theorem matrixAndTiles : Obligations.MatrixAndTiles := ⟨matrixForms, tileForms⟩

end Sys2Proof.Claims
end

section
/-!
PROOF. No step ends a run (R66, R426): every instruction and every step of another agent answers a next state, so slots, turns and
steps do; the statement about it (O56).
-/

namespace Sys2Proof.Claims

open Sys2Proof.Machine

/-- A slew step answers a next state, whether the limiter is on or off (R383, R384). -/
theorem exec_slewStep_next (g : GroveNum) (s : State) : ∃ t, exec (.slewStep g) s = .next t := by
  show ∃ t, execSlewStep g s = .next t
  dsimp only [execSlewStep]
  split <;> exact ⟨_, rfl⟩

/-- Every instruction and step answers a next state: the arms named here are those of events and of the module's own agents, which
state theirs; every other one is the outcome of a slot. -/
theorem exec_next (i : Instr) (s : State) : ∃ t, exec i s = .next t := by
  cases i with
  | slewStep g => exact exec_slewStep_next g s
  | trap | svc | bundleIssue | acqPoll | windowRowArrival | mapFill | queueUnitDone | queueEntryComplete | collectiveContribution
  | groupTimeout | mmaDeliveryEnd | phaseComplete | phaseAnnounce | leaseDecision | leaseExpiry | loadComplete | writeAcknowledged
  | requestTimeout | nackResend | dormantRetry | fabricRequest | refusedResponse | fabricLinkTrained | fabportWrite | modidWrite
  | cxlLinkLoss | backInvalidationSnoop | poolqWriteBack | poolqDiscard | poolqDone | hostWindowAccess | untaggedTlp
  | launchPortWrite | launchMessage | launchReportMessage | admission | dispatch | quantumExpiry | agingStep | longWaitSwap
  | pfdoneRetry | pfdoneTrap | schedkill | evqbaseWrite | grovepwrWrite | thermChange | droopTrip | droopWindowEnd | rowIdleTimer
  | invalidate | invalidateAll | invalidateFlush | invalidationComplete | hotnessWindow | migrationGo | migrationSwitch
  | migrationDone | migrationAborted | partctlWrite | partitionTeardown | groveChangeDone | cfgselWrite | cfgdataWrite
  | ownerChange | ownerChangeDone | lockInterface | getDeviceInterfaceReport | startInterface | stopInterface | keyset | ownset
  | keyclr | spdmRequest | ideKm | elideSet | elideClear | checkpointBoundary | rollback | powerFailWarning | dormctlTest
  | dormctlDiscard | stopPhaseEnd | writeBackDone | drainDone | reserveAtSealres | sealWritten | reserveSpent | hardThermalTrip
  | supplyLoss | reserveCharged | brownOutChange | brownFallHeld | dieShed | dieRestore | cutTake | cutRestore | cutAbort | cutDone
  | powerOn | fundamentalReset | fullStart | startStep | startTimeout | registerWrite | readClear | cxlLinkTrained | pageWaitRetry
  | portModuleLosesValid | auxiliarySupplyLoss => exact ⟨_, rfl⟩
  | _ => exact SlotOut.out_next _

/-- A slot answers a next state: its instruction's, or NOP's for a header or a word that names none (R29). -/
theorem runSlot_next (s : State) : ∃ t, s.runSlot = .next t := by
  unfold State.runSlot
  extract_lets n w
  split
  · exact exec_next .nop s
  · split
    · exact exec_next _ s
    · exact SlotOut.out_next _
    · exact exec_next .nop s

/-- Running any number of slots answers a next state. -/
theorem runSlots_next (n : Nat) (s : State) : ∃ t, runSlots n s = .next t := by
  induction n generalizing s with
  | zero => exact ⟨s, rfl⟩
  | succ n ih =>
    obtain ⟨t, ht⟩ := runSlot_next s
    simp only [runSlots, ht]
    split
    · exact ⟨s, rfl⟩
    · split
      · split
        · exact ⟨t, rfl⟩
        · exact ih t
      · exact ⟨t, rfl⟩

/-- A turn answers a next state: it passes at once, after a stop, or after its slots. -/
theorem turn_next (s : State) : ∃ t, s.turn = .next t := by
  unfold State.turn
  split
  · exact ⟨_, rfl⟩
  · split
    · exact ⟨_, rfl⟩
    · obtain ⟨t, ht⟩ := runSlots_next 4 (if s.thr.issue.isSome then s else s.issueNext)
      rw [ht]
      exact ⟨_, rfl⟩

/-- A step answers a next state: the agenda's head, or a turn (R66). -/
theorem step_next (s : State) : ∃ t, step s = .next t := by
  cases h : s.agenda with
  | nil => rw [step_of_idle_agenda h]; exact turn_next s
  | cons i l =>
    obtain ⟨t, ht⟩ := exec_next i { s with agenda := l }
    exact ⟨t.wake, by simp only [step, h, ht, woken]⟩

/-- Settles O56, from the next states of instructions and of steps. -/
theorem everyStepGoesOn : Obligations.EveryStepGoesOn := ⟨exec_next, step_next⟩

end Sys2Proof.Claims
end

section
/-!
PROOF. Issue (R35, R37, R38, R62, R66, R427): the words that a fetch reads, the banks that replay a bundle, and what a turn of BUNDLE_ISSUE does
with a bundle that decodes and with one that does not; the statement about it (O36).
-/

namespace Sys2Proof.Machine

/-! ## Words of bytes -/

/-- A number without its lowest bytes is spelled by the others. -/
theorem leNat_drop (l : List Byte) (k : Nat) : leNat (l.drop k) = leNat l / 256 ^ k := by
  induction k generalizing l with
  | zero => simp
  | succ k ih =>
    cases l with
    | nil => simp [leNat]
    | cons x t =>
      have hx : (x.toNat + 256 * leNat t) / 256 = leNat t := by have := x.isLt; omega
      rw [List.drop_succ_cons, ih, leNat, Nat.pow_succ', ← Nat.div_div_eq_div_mul, hx]

/-- The lowest bytes of a number spell its rest. -/
theorem spelled_getD (l : List Byte) (n : Nat) : Claims.spelled n (fun j => l.getD j 0) = leNat l % 256 ^ n := by
  induction n generalizing l with
  | zero => simp [Claims.spelled, Nat.mod_one]
  | succ n ih =>
    cases l with
    | nil => simp [Claims.spelled, leNat]
    | cons x t =>
      have hstep : Claims.spelled (n + 1) (fun j => (x :: t).getD j 0) = x.toNat + 256 * Claims.spelled n fun j => t.getD j 0 := by
        simp only [Claims.spelled, Finset.sum_range_succ', Finset.mul_sum, pow_succ', List.getD_cons_succ, List.getD_cons_zero,
          pow_zero, mul_one]
        rw [add_comm]
        congr 1
        exact Finset.sum_congr rfl fun _ _ => by ring
      have hx : (x.toNat + 256 * leNat t) % 256 = x.toNat := by have := x.isLt; omega
      have hq : (x.toNat + 256 * leNat t) / 256 = leNat t := by have := x.isLt; omega
      rw [hstep, ih, leNat, Nat.pow_succ', Nat.mod_mul, hx, hq]

/-- Word `i` of a fetched bundle is spelled by its four bytes (R52). -/
theorem extractLsb'_bundle (l : List Byte) {i : Nat} (hi : i < 4) :
    (BitVec.ofNat 128 (leNat l)).extractLsb' (32 * i) 32 = Claims.wordAt l i := by
  have hdrop (j : Nat) : (l.drop (4 * i)).getD j 0 = l.getD (4 * i + j) 0 := by
    simp only [List.getD_eq_getElem?_getD, List.getElem?_drop]
  have hword : Claims.spelled 4 (fun j => l.getD (4 * i + j) 0) = leNat l / 2 ^ (32 * i) % 2 ^ 32 := by
    simp only [← hdrop, spelled_getD, leNat_drop, Nat.pow_mul, show (256 : Nat) ^ 4 = 2 ^ 32 from rfl]
  refine BitVec.eq_of_toNat_eq ?_
  rw [Claims.wordAt, hword, BitVec.extractLsb'_toNat, BitVec.toNat_ofNat, BitVec.toNat_ofNat, Nat.mod_mod, Nat.shiftRight_eq_div_pow]
  interval_cases i <;> omega

/-! ## Bank replays -/

/-- Dropping repeats leaves none. -/
theorem nodup_eraseDups {α : Type} [BEq α] [LawfulBEq α] (l : List α) : l.eraseDups.Nodup := by
  match l with
  | [] => exact List.nodup_nil
  | a :: t =>
    rw [List.eraseDups_cons, List.nodup_cons]
    exact ⟨by simp [List.mem_eraseDups], nodup_eraseDups _⟩
termination_by l.length
decreasing_by exact Nat.lt_succ_of_le (List.length_filter_le ..)

/-- Dropping repeats leaves each element once. -/
theorem length_eraseDups {α : Type} [DecidableEq α] (l : List α) : l.eraseDups.length = l.toFinset.card := by
  rw [← List.toFinset_card_of_nodup (nodup_eraseDups l)]
  congr 1
  ext a
  simp only [List.mem_toFinset, List.mem_eraseDups]

/-- The banks of a bundle's ports replay it as R38 counts. -/
theorem replayed_replay (k : Core) (ports : List (BitVec 2 × BitVec 6)) : Claims.Replayed k (k.replay ports) ports := by
  intro b
  have hreads : (bankReads ports b.val).length =
      ((ports.filter fun p => p.1 ≠ 0 ∧ p.2.toNat % 4 = b.val).map (·.2)).toFinset.card := by
    rw [bankReads, length_eraseDups]
    congr 4
    funext p
    rw [Bool.eq_iff_iff]
    simp
  have hcap (n : Nat) : (BitVec.ofNat 32 (Nat.min n 0xFFFFFFFF)).toNat = min (2 ^ 32 - 1) n := by
    rw [BitVec.toNat_ofNat, show Nat.min n 0xFFFFFFFF = min n 0xFFFFFFFF from rfl]
    omega
  simp only [Core.replay, ← hreads, Fin.getElem_fin, Vector.getElem_ofFn, hcap]

/-! ## The fetch -/

/-- The byte address of a bundle (R52). -/
theorem bundleVa_eq (pc : BitVec 52) : bundleVa pc = BitVec.ofNat 64 (pc.toNat * 16) := by
  have hpc := pc.isLt
  refine BitVec.eq_of_toNat_eq ?_
  rw [bundleVa, BitVec.toNat_setWidth, toNat_append_eq_add, BitVec.toNat_ofNat]
  simp

/-- A change of the running core, as its context shows it. -/
theorem State.ctx_onCore_cur (s : State) (f : Core → Core) : (s.onCore s.cur f).ctx = (f (s.core s.cur)).ctx := by
  show ((s.onCore s.cur f).core s.cur).ctx = _
  rw [State.core_onCore_same]

/-- Pieces of this module send no read request. -/
theorem readsOf_local {xs : List (Xlat × Nat)} (h : isRemote xs = false) : readsOf xs = [] := by
  refine List.filterMap_eq_nil_iff.2 fun x hx => ?_
  have hremote : x.1.remote = none := by simpa using List.any_eq_false.1 h x hx
  rw [hremote, Option.map_none]

/-- A read from this module is refused by none (R511). -/
theorem refuses_local (s : State) {xs : List (Xlat × Nat)} (h : isRemote xs = false) : s.refuses xs = (false, s) := by
  simp only [State.refuses, show (xs.any fun x => x.1.remote.isSome) = false from h, Bool.false_eq_true, if_false]

/-- A fetch reads what memory holds, where the core holds no other bytes from before (R65, R272). -/
theorem fetchPieces_held (s : State) {x : Xlat} {n : Nat} {xs : List (Xlat × Nat)} {now : BitVec 128} (hx : x.remote = none)
    (h : ∀ old, smGet none x.pa (smGet [] s.cur.toNat s.fetched) = some old → old = now) :
    ∃ f, s.fetchPieces ((x, n) :: xs) now = (now, { s with fetched := f }) := by
  simp only [State.fetchPieces, hx, Option.isSome_none, Bool.false_eq_true, if_false, State.fetchWords]
  split
  · exact ⟨_, rfl⟩
  · rename_i old hold
    rw [if_pos (h old hold)]
    exact ⟨s.fetched, rfl⟩

/-- A core that runs nothing, has a bundle in issue or is being saved issues none (R66, R297). -/
theorem issueNext_idle {s : State} (h : (s.core s.cur).busy = false ∨ s.thr.issue.isSome = true ∨ (s.core s.cur).saving = true) :
    s.issueNext = s := by
  have : (!(s.core s.cur).busy || (s.core s.cur).ctx.thr.issue.isSome || (s.core s.cur).saving) = true := by
    rw [Bool.or_eq_true, Bool.or_eq_true, Bool.not_eq_true', or_assoc]
    exact h
  simp only [State.issueNext, this, if_true]

/-- A core that may issue, with no trap owed and no run to enter, fetches. -/
theorem issueNext_fetch {s : State} (hb : (s.core s.cur).busy = true) (hs : (s.core s.cur).saving = false) (hi : s.thr.issue = none)
    (hd : s.stopDue = false) (ht : s.ctx.pendTrap = none) (he : s.ctx.entry = false) :
    s.issueNext = (s.onCore s.cur fun k => { k with granted := false }).fetch := by
  have hi' : (s.core s.cur).ctx.thr.issue = none := hi
  have ht' : (s.core s.cur).ctx.pendTrap = none := ht
  have he' : (s.core s.cur).ctx.entry = false := he
  simp only [State.issueNext, hb, hs, hi', hd, ht', he', Bool.not_true, Option.isSome_none, Bool.or_self, Bool.false_eq_true, if_false,
    Bool.false_and]

/-- The words of a bundle that is fetched go on to their decoding. -/
theorem issueNext_of_fetched {s u : State} {l : List Byte} (h : Claims.Fetched s l u) (hu : u.cur = s.cur) :
    ∃ f, s.issueNext = { u with fetched := f }.issueWords
      (Claims.wordAt l 0) (Claims.wordAt l 1) (Claims.wordAt l 2) (Claims.wordAt l 3) := by
  obtain ⟨hb, hs, hi, hd, ht, he, x, n, xs, s1, hx, hloc, hshed, hread, hlen, hheld⟩ := h
  have hctx : (s.onCore s.cur fun k => { k with granted := false }).ctx = s.ctx := State.ctx_onCore_cur ..
  have hremote : x.remote = none := by
    simpa using (List.any_eq_false.1 hloc) (x, n) List.mem_cons_self
  have hold (old : BitVec 128) (ho : smGet none x.pa (smGet [] u.cur.toNat u.fetched) = some old) :
      old = BitVec.ofNat 128 (leNat l) := by
    rw [hu] at ho
    have hn := hheld old ho
    rw [spelled_getD] at hn
    exact BitVec.eq_of_toNat_eq hn
  obtain ⟨f, hf⟩ := fetchPieces_held u (n := n) (xs := xs) hremote hold
  refine ⟨f, ?_⟩
  rw [issueNext_fetch hb hs hi hd ht he]
  have hva : bundleVa s.ctx.thr.pc = BitVec.ofNat 64 (s.thr.pc.toNat * 16) := bundleVa_eq _
  have hstuck : s1.stuck [] = false := rfl
  simp only [State.fetch, hctx, hva, hx, readsOf_local hloc, hshed, hstuck, refuses_local _ hloc, hread, hf, Bool.or_self,
    Bool.false_eq_true, if_false]
  rw [← extractLsb'_bundle l (i := 0) (by decide), ← extractLsb'_bundle l (i := 1) (by decide),
    ← extractLsb'_bundle l (i := 2) (by decide), ← extractLsb'_bundle l (i := 3) (by decide)]

/-! ## Issue -/

/-- The bundle that a program issues: its words, what its ports read, and the slot to resume at (R35, R66). -/
def issueOf (t : Thread) (wa wb wc wd : BitVec 32) : Issue := ⟨wa, wb, wc, wd, t.readPorts (headerPorts wa), t.resume, none⟩
/-- A bundle is in issue on the running core, which has counted its replays. -/
def State.issued (s : State) (b : Bundle) (wa wb wc wd : BitVec 32) : State :=
  (s.onCore s.cur fun k => { k.replay (headerPorts wa) with granted := startsDelivery b.d }).onCtx fun c =>
    { c.onThr fun t => { t with issue := some (issueOf t wa wb wc wd) } with wait := .none }

/-- A bundle that decodes and waits for nothing is in issue (R42, R66, R148, R176). -/
theorem issueWords_ok {s : State} {wa wb wc wd : BitVec 32} {b : Bundle} (h : decodeBundle s.trunk.caps wa wb wc wd = .ok b)
    (hboard : s.thr.boardWaits b s.thr.resume = false) (hlong : s.ctx.longBusy = false ∨ isLong b.c = false)
    (hengine : s.engineWait b.d = .none) : s.issueWords wa wb wc wd = s.issued b wa wb wc wd := by
  have hl : (decide (s.thr.resume.toNat ≤ 2) && isLong b.c && s.ctx.longBusy) = false := by
    obtain hl | hl := hlong <;> simp [hl]
  have he : ¬ s.engineWait b.d ≠ .none := not_not.2 hengine
  simp only [State.issueWords, h, hboard, hl, if_neg he, Bool.false_eq_true, if_false]
  rfl

/-- One that does not decode raises the illegal-instruction trap (R62). -/
theorem issueWords_error {s : State} {wa wb wc wd : BitVec 32} {sl : Slot} {n : Nat}
    (h : decodeBundle s.trunk.caps wa wb wc wd = .error (sl, n)) : s.issueWords wa wb wc wd =
      s.takeTrap s.thr.resume 0x01 ((BitVec.ofNat 4 n).setWidth 64 <<< 60 ||| sl.num.setWidth 64) := by
  simp only [State.issueWords, h]

theorem ctx_issued (s : State) (b : Bundle) (wa wb wc wd : BitVec 32) : (s.issued b wa wb wc wd).ctx =
    { s.ctx.onThr fun t => { t with issue := some (issueOf t wa wb wc wd) } with wait := .none } := by
  rw [State.issued, State.ctx_onCtx, State.ctx_onCore_cur]
  rfl
theorem thr_issued (s : State) (b : Bundle) (wa wb wc wd : BitVec 32) :
    (s.issued b wa wb wc wd).thr = { s.thr with issue := some (issueOf s.thr wa wb wc wd) } := by
  rw [State.thr, ctx_issued]
  exact Ctx.thr_onThr ..
theorem core_issued {s : State} {c : CoreNum} (hc : s.cur = c) (b : Bundle) (wa wb wc wd : BitVec 32) :
    (s.issued b wa wb wc wd).core c =
      { (s.core c).replay (headerPorts wa) with granted := startsDelivery b.d, ctx := (s.issued b wa wb wc wd).ctx } := by
  subst hc
  have h := State.core_setCtx_cur (s.onCore s.cur fun k => { k.replay (headerPorts wa) with granted := startsDelivery b.d })
    (s.issued b wa wb wc wd).ctx
  rw [State.cur_onCore, State.core_onCore_same] at h
  rw [← h, State.issued, State.ctx_onCtx]
  rfl
theorem sameRest_issued (s : State) (b : Bundle) (wa wb wc wd : BitVec 32) : Claims.SameRest s (s.issued b wa wb wc wd) :=
  ⟨rfl, rfl, rfl, rfl, rfl, rfl, rfl, rfl, rfl⟩

/-- The detail of the illegal-instruction trap: the case in bits 63:60, the slot in bits 1:0 (R62). -/
theorem illegalDetail_eq (sl : Slot) {n : Nat} (hn : n < 16) :
    (BitVec.ofNat 4 n).setWidth 64 <<< 60 ||| sl.num.setWidth 64 =
      BitVec.ofNat 64 (n * 2 ^ 60 + sl.num.toNat) := by
  revert n
  cases sl <;> decide

end Sys2Proof.Machine

namespace Sys2Proof.Claims

open Sys2Proof.Machine

/-- BUNDLE_ISSUE on the running core is its issue. -/
theorem exec_bundleIssue_cur (s : State) : exec (.bundleIssue s.cur) s = .next { s.issueNext with cur := s.cur } := rfl

/-- The turn given to the core that has it. -/
theorem setCur_of_eq {s : State} {c : CoreNum} (h : s.cur = c) : { s with cur := c } = s := by subst h; rfl

/-- BUNDLE_ISSUE on a core that issues nothing leaves everything (R66, R297). -/
theorem exec_bundleIssue_idle {s : State} {c : CoreNum}
    (h : (s.core c).busy = false ∨ (s.core c).ctx.thr.issue.isSome = true ∨ (s.core c).saving = true) :
    exec (.bundleIssue c) s = .next s := by
  have hidle : { s with cur := c }.issueNext = { s with cur := c } := issueNext_idle h
  show Host.Outcome.next { { s with cur := c }.issueNext with cur := s.cur } = _
  rw [hidle]

/-- Settles O36, from what the fetch reads, what its words put in issue, and the cores that issue nothing. -/
theorem bundleIssue : Obligations.BundleIssue := by
  unfold Obligations.BundleIssue
  refine ⟨?_, fun s c => exec_bundleIssue_idle⟩
  intro s l u hfetch hu wa
  obtain ⟨f, hf⟩ := issueNext_of_fetched hfetch hu
  have hcur : { u with fetched := f }.cur = s.cur := hu
  refine ⟨fun b hb hboard hlong hengine => ?_, fun sl n he hn => ⟨f, ?_⟩⟩
  · have hissued := hf.trans (issueWords_ok (s := { u with fetched := f }) hb hboard hlong hengine)
    refine ⟨{ u with fetched := f }.issued b wa (wordAt l 1) (wordAt l 2) (wordAt l 3), ?_, hcur, thr_issued .., ?_, ?_, ?_, rfl, rfl,
      sameRest_issued ..⟩
    · rw [exec_bundleIssue_cur, hissued]
      exact congrArg _ (setCur_of_eq hcur)
    · rw [core_issued hcur]
      exact replayed_replay (u.core s.cur) (headerPorts wa)
    · rw [core_issued hcur]
      rfl
    · rw [ctx_issued]
      exact Ctx.csr_onThr ..
  · have htrap := hf.trans (issueWords_error (s := { u with fetched := f }) he)
    rw [exec_bundleIssue_cur, htrap, illegalDetail_eq sl hn]
    cases sl <;> rfl

end Sys2Proof.Claims
end

section
/-!
PROOF. MOVM (R36, R71, R140, R141, R163): what each of its forms commits, the lane pair that slot C reads, and the statement about
them (O18).
-/

namespace Sys2Proof.Claims

open Sys2Proof.Machine

/-- The destination of a slot A specifier is the one that the statements name (R32). -/
theorem destA_eq (d : Reg) : destA d = destinationA d := by
  unfold destA destinationA
  split
  next h =>
    have hix : regIx d = ⟨d.toNat, h⟩ := Fin.ext (by simp [regIx, fin4, Nat.mod_eq_of_lt h])
    rw [hix]
  next => rfl

/-- A main-file register by its number, as the read form names it. -/
theorem exec_movmRead {s : State} {n : BitVec 6} {v : TVal} (h : s.thr.m[n.toNat]? = some v) (d : Reg) :
    exec (.movmRead d n) s = .next (commitsA s 1 d v) := by
  have hread : s.thr.m[(⟨n.toNat, n.isLt⟩ : Fin 64)] = v := (Vector.getElem?_eq_some_iff.1 h).2
  show execMovmRead d n s = _
  rw [execMovmRead, State.putA_out, hread, destA_eq]
  rfl

/-- Slot D's write form, in a task (R71). -/
theorem exec_movmWriteD {s : State} (hin : s.ctx.inHandler = false) (r : Reg) (n : BitVec 6) :
    exec (.movmWriteD r n) s = .next (withResult s 2 (.m ⟨n.toNat, n.isLt⟩) (.scalar (s.thr.readD r))).slotDone := by
  show execMovmWriteD r n s = _
  rw [execMovmWriteD, State.taskOnly_task hin]
  rfl

/-- Lane pair `j` of a vector as a scalar: the even lane low, poison or deferred where a lane of the pair is (R71, R145, R163). -/
def lanePair (x : VReg) (j : BitVec 5) : TVal :=
  ⟨x.lane (2 * j.toNat + 1) ++ x.lane (2 * j.toNat),
    if (x.side.getLsbD (2 * j.toNat) || x.side.getLsbD (2 * j.toNat + 1)) = true then (if x.spec then 1 else 2) else 0⟩

/-- Slot C's write form, in a task (R71, R163). -/
theorem exec_movmWriteC {s : State} (hin : s.ctx.inHandler = false) (r : Reg) (j : BitVec 5) (n : BitVec 6) :
    exec (.movmWriteC r j n) s =
      .next (withResult s 2 (.m ⟨n.toNat, n.isLt⟩) (.scalar (lanePair (s.ctx.vec.read r) j))).slotDone := by
  show execMovmWriteC r j n s = _
  rw [execMovmWriteC, State.taskOnly_task hin]
  rfl

/-- Every lane that a vector has is in its list of lanes. -/
theorem lanes_getElem? (x : VReg) {i : Nat} (h : i < 64) : x.lanes[i]? = some (x.lane i) := by
  simp [VReg.lane, h]

/-- A lane pair's value: the even lane, and the odd one 32 bits up (R71). -/
theorem lanePair_val (x : VReg) (j : BitVec 5) :
    some (lanePair x j).val.toNat =
      (do return (← x.lanes[2 * j.toNat]?).toNat + 2 ^ 32 * (← x.lanes[2 * j.toNat + 1]?).toNat) := by
  have hj := j.isLt
  rw [lanes_getElem? x (by omega), lanes_getElem? x (by omega), lanePair, toNat_append_eq_add]
  exact congrArg some (by omega)

/-- Settles O18, from the forms of each slot. -/
theorem mainFileMoves : Obligations.MainFileMoves := by
  unfold Obligations.MainFileMoves
  intro s r d j n
  refine ⟨rfl, rfl, fun v hv => exec_movmRead hv d, fun hin => ⟨exec_movmWriteD hin r n, _, exec_movmWriteC hin r j n,
    lanePair_val _ j, fun heven hodd => ?_, fun hbad => if_pos hbad⟩⟩
  exact if_neg (by rw [heven, hodd]; decide)

end Sys2Proof.Claims
end

section
/-!
PROOF. The opcode map (R53, R55, R67, R68, R70-R77): decoding and encoding agree for every slot instruction (O54), and the words that the
spec writes out (O53). A word is read by its fields: those of an appended word are the parts that it was made of, and a word is made
again from the fields that its map has checked.
-/

namespace Sys2Proof.Claims

open Sys2Proof.Machine

/-! ## Fields of a word

The widths of a word's parts add up to 32, and a field is read from a word of 32 bits: `no_index` lets `simp` see a sum in that number. -/

/-- A field within the high part of an appended word. -/
theorem extractLsb'_high {m n lo len : Nat} (x : BitVec m) (y : BitVec n) (h : n ≤ lo) :
    BitVec.extractLsb' (n := no_index (m + n)) lo len (@HAppend.hAppend _ _ (no_index (BitVec (m + n))) _ x y) =
      x.extractLsb' (lo - n) len :=
  BitVec.extractLsb'_append_eq_of_le h

/-- A field within the low part of an appended word. -/
theorem extractLsb'_low {m n lo len : Nat} (x : BitVec m) (y : BitVec n) (h : lo + len ≤ n) :
    BitVec.extractLsb' (n := no_index (m + n)) lo len (@HAppend.hAppend _ _ (no_index (BitVec (m + n))) _ x y) =
      y.extractLsb' lo len :=
  BitVec.extractLsb'_append_eq_of_add_le h

/-- The whole word is one field. -/
theorem bits_all (w : BitVec 32) : bits w 0 32 = w := BitVec.extractLsb'_eq_self

/-- Appended values are equal exactly where their parts are. -/
theorem append_inj {m n : Nat} {x x' : BitVec m} {y y' : BitVec n} : x ++ y = x' ++ y' ↔ x = x' ∧ y = y' := by
  refine ⟨fun h => ⟨?_, ?_⟩, by rintro ⟨rfl, rfl⟩; rfl⟩
  · simpa only [BitVec.extractLsb'_append_eq_left] using congrArg (BitVec.extractLsb' n m) h
  · simpa only [BitVec.extractLsb'_append_eq_right] using congrArg (BitVec.extractLsb' 0 n) h

/-- A field is made of two neighbours. -/
theorem bits_append_bits (w : BitVec 32) (lo m n : Nat) : bits w (lo + n) m ++ bits w lo n = bits w lo (m + n) :=
  BitVec.extractLsb'_append_extractLsb'_eq_extractLsb' rfl

/-- Two parts spell a field where each spells its part of it. -/
theorem append_eq_bits {w : BitVec 32} {m n lo : Nat} (x : BitVec m) (y : BitVec n) :
    @Eq (no_index (BitVec (m + n))) (@HAppend.hAppend _ _ (no_index (BitVec (m + n))) _ x y) (bits w lo (no_index (m + n))) ↔
      x = bits w (lo + n) m ∧ y = bits w lo n := by
  rw [← bits_append_bits, append_inj]

/-- A constant is made of its quotient and its remainder. -/
theorem ofNat_append_ofNat (m n c : Nat) : BitVec.ofNat m (c / 2 ^ n) ++ BitVec.ofNat n c = BitVec.ofNat (m + n) c := by
  refine BitVec.eq_of_toNat_eq ?_
  rw [toNat_append_eq_add, BitVec.toNat_ofNat, BitVec.toNat_ofNat, BitVec.toNat_ofNat, Nat.add_comm m n, Nat.pow_add, Nat.mod_mul,
    Nat.add_comm, Nat.mul_comm]

/-- A field that holds a constant, cut at bit `k` of the word. -/
theorem bits_cut (k : Nat) {w : BitVec 32} {c lo len : Nat} (hlo : lo < k) (hk : k < lo + len) :
    bits w lo len = BitVec.ofNat len c ↔
      bits w k (lo + len - k) = BitVec.ofNat (lo + len - k) (c / 2 ^ (k - lo)) ∧ bits w lo (k - lo) = BitVec.ofNat (k - lo) c := by
  obtain ⟨n, rfl⟩ := Nat.exists_eq_add_of_le hlo.le
  obtain ⟨m, rfl⟩ := Nat.exists_eq_add_of_le' (Nat.le_of_add_le_add_left hk.le)
  have hm : lo + (m + n) - (lo + n) = m := by omega
  rw [hm, Nat.add_sub_cancel_left, ← ofNat_append_ofNat, ← bits_append_bits, append_inj]

/-- A constant that a field holds, the field written first. -/
theorem ofNat_eq_bits {w : BitVec 32} {c lo len : Nat} : BitVec.ofNat len c = bits w lo len ↔ bits w lo len = BitVec.ofNat len c :=
  eq_comm

/-! ## What a slot's map says of a word -/

/-- A fixed field that holds its value breaks no case (R68). -/
theorem fixed_true {c : Nat} : fixed c true = [] := rfl

/-- A fixed field breaks no case exactly where it holds its value (R68). -/
theorem fixed_eq_nil {c : Nat} {b : Bool} : fixed c b = [] ↔ b = true := by
  cases b <;> simp [fixed]

/-- QSTAT wants its bit SIG clear, and what it asks of its completion source where SIG is clear (R57). -/
theorem zero_and_one_or {x : BitVec 1} {p : Prop} : (x = 0#1 ∧ (x = 1#1 ∨ p)) ↔ x = 0#1 ∧ p :=
  and_congr_right fun h => or_iff_right (by rw [h]; decide)

/-- What a map says of a word names the instruction, and every fixed field holds its value. -/
def Stands : Raw → Instr → Prop
  | .bad _, _ => False
  | .ok i cs, j => i = j ∧ cs = []
  | .swpt n cs, j => .swpt n = j ∧ cs = []

/-- A word decodes to the legal instruction that its map names (R67, R68). -/
theorem decodeSlot_eq_some {caps : List (BitVec 12)} {sl : Slot} {w : BitVec 32} {i : Instr} :
    decodeSlot caps sl w = some i ↔ Stands (raw sl w) i ∧ i.illegal caps = [] := by
  cases hr : raw sl w with
  | bad c => simp [decodeSlot, hr, wordCases, Stands]
  | ok j cs =>
    simp only [decodeSlot, hr, wordCases, Raw.instr, Stands, List.append_eq_nil_iff, Option.ite_none_right_eq_some, Option.some.injEq]
    constructor
    · rintro ⟨⟨hcs, hlegal⟩, rfl⟩
      exact ⟨⟨rfl, hcs⟩, hlegal⟩
    · rintro ⟨⟨rfl, hcs⟩, hlegal⟩
      exact ⟨⟨hcs, hlegal⟩, rfl⟩
  | swpt n cs =>
    simp only [decodeSlot, hr, wordCases, Raw.instr, Stands, Option.ite_none_right_eq_some, Option.some.injEq]
    constructor
    · rintro ⟨hcs, rfl⟩
      exact ⟨⟨rfl, hcs⟩, rfl⟩
    · rintro ⟨⟨rfl, hcs⟩, -⟩
      exact ⟨hcs, rfl⟩

/-! ## From an instruction to its word

A word of the encoder is its parts appended, so each field that the map reads is one of them: the branches are decided, the fixed
fields hold their values, and the operands come back. -/

/-- Slot A (R70). -/
theorem stands_rawA {i : Instr} {w : BitVec 32} (h : encode i = some (.a, w)) : Stands (rawA w) i := by
  cases i <;> cases h
  all_goals
    simp [Stands, rawA, bits, extractLsb'_high, extractLsb'_low, fixed_true, rawA01, rawA02, rawA03, rawA04, rawA05, rawA06,
      rawA08, rawA09, rawA0A, rawA0B, rawA0C, rawA0E, rawA0F, rawA14, rawA18, rawA19, rawA1A, rawA20, rawA21, rawA22, rawA23,
      rawA24, rawA28, rawA2C, rawA2D, rawA30, rawA31, rawA32, rawA33, rawA34, rawA35]

/-- Slot B (R72). -/
theorem stands_rawB {i : Instr} {w : BitVec 32} (h : encode i = some (.b, w)) : Stands (rawB w) i := by
  cases i <;> cases h
  all_goals
    simp [Stands, rawB, bits, extractLsb'_high, extractLsb'_low, fixed_true, rawB01, rawB02, rawB03, rawB04, rawB05, rawB06,
      rawB08, rawB09, rawB0A, rawB0B, rawB0C, rawB0D, rawB14, rawB15, rawB16, rawB18, rawB1C, rawB1D, rawB1E, rawB1F, rawB20,
      rawB28, rawB2C]

/-- Slot C (R75). -/
theorem stands_rawC {i : Instr} {w : BitVec 32} (h : encode i = some (.c, w)) : Stands (rawC w) i := by
  cases i <;> cases h
  all_goals
    simp [Stands, rawC, bits, extractLsb'_high, extractLsb'_low, fixed_true, rawC01, rawC02, rawC03, rawC04, rawC05, rawC06,
      rawC07, rawC08, rawC09, rawC0A, rawC0C, rawC0D, rawC0E, rawC10, rawC11, rawC14, rawC18, rawC19, rawC20, rawC24, rawC25,
      rawC26, rawC27, rawC28, rawC2A, rawC2B, rawC2C]

/-- Slot D (R77). -/
theorem stands_rawD {i : Instr} {w : BitVec 32} (h : encode i = some (.d, w)) : Stands (rawD w) i := by
  cases i <;> cases h
  all_goals
    simp [Stands, rawD, bits, extractLsb'_high, extractLsb'_low, fixed_true, rawD01, rawD02, rawD04, rawD05, rawD06, rawD08,
      rawD09, rawD0A, rawD0B, rawD0C, rawD0D, rawD0E, rawD0F, rawD20, rawD24, rawD25, rawD28, rawD29, rawD2C]

/-- The word that an instruction encodes to stands for it in its slot's map (R67). -/
theorem stands_of_encode {i : Instr} {sl : Slot} {w : BitVec 32} (h : encode i = some (sl, w)) : Stands (raw sl w) i := by
  cases sl with
  | a => exact stands_rawA h
  | b => exact stands_rawB h
  | c => exact stands_rawC h
  | d => exact stands_rawD h

/-! ## From a word to its instruction

A branch of the map fixes the fields that select it, a row without a breach its fixed fields, and the operands are the other ones:
together they are the word that the instruction encodes to. -/

/-- What a map says of the word `w` leads back to `w`: the instruction that it stands for encodes to `w`, or is the NOP of the word 0. -/
def Inverts (sl : Slot) (w : BitVec 32) (r : Raw) : Prop := ∀ i, Stands r i → encode i = some (sl, w) ∨ (i = .nop ∧ w = 0)

section Rules
variable {sl : Slot} {w u : BitVec 32} {i : Instr} {cs : List Nat}

/-- Each branch of a map may use that its own field matched. -/
theorem Inverts.ite {c : Prop} [Decidable c] {r r' : Raw} (h : c → Inverts sl w r) (h' : Inverts sl w r') :
    Inverts sl w (if c then r else r') := by
  split
  next hc => exact h hc
  next => exact h'

theorem Inverts.bad {c : Nat} : Inverts sl w (.bad c) := fun _ h => h.elim

theorem Inverts.nop (h : w = 0) : Inverts sl w (.ok .nop []) := by
  rintro _ ⟨rfl, -⟩
  exact .inr ⟨rfl, h⟩

/-- A row leads back to the word where its fixed fields make the word that its instruction encodes to. -/
theorem Inverts.ok (he : encode i = some (sl, u)) (hu : cs = [] → u = w) : Inverts sl w (.ok i cs) := by
  rintro _ ⟨rfl, hcs⟩
  exact .inl (hu hcs ▸ he)

theorem Inverts.swpt {n : BitVec 12} (he : encode (.swpt n) = some (sl, u)) (hu : cs = [] → u = w) : Inverts sl w (.swpt n cs) := by
  rintro _ ⟨rfl, hcs⟩
  exact .inl (hu hcs ▸ he)

end Rules

/-- SWPT, which stands apart from the other rows of slot D. -/
theorem inverts_rawD28 {w : BitVec 32} (hop : bits w 26 6 = 0x28#6) : Inverts .d w (rawD28 w) := by
  refine .swpt rfl fun hfixed => (?_ : _ = bits w 0 32).trans (bits_all w)
  simp only [List.append_eq_nil_iff, fixed_eq_nil, decide_eq_true_eq] at hfixed
  obtain ⟨⟨h21, h16⟩, h12⟩ := hfixed
  rw [append_eq_bits]
  exact ⟨by simp [bits_cut 26, bits_cut 21, bits_cut 16, ofNat_eq_bits, hop, h21, h16, h12], rfl⟩

/-! Where the encoder's word has one constant for several fixed fields, the map checks them one by one. Each slot's proof names the bits at
which such constants are cut, and both sides are then the same fields with the same values. -/

/-- Slot A (R70). -/
theorem inverts_rawA (w : BitVec 32) : Inverts .a w (rawA w) := by
  unfold rawA rawA01 rawA02 rawA03 rawA04 rawA05 rawA06 rawA08 rawA09 rawA0A rawA0B rawA0C rawA0E rawA0F rawA14 rawA18 rawA19
    rawA1A rawA20 rawA21 rawA22 rawA23 rawA24 rawA28 rawA2C rawA2D rawA30 rawA31 rawA32 rawA33 rawA34 rawA35
  refine .ite (fun _ => .ite .nop .bad) ?_
  repeat' refine .ite (fun _ => ?_) ?_
  any_goals exact .bad
  all_goals
    refine .ok rfl fun hfixed => (?_ : _ = bits w 0 32).trans (bits_all w)
    simp only [↓append_eq_bits, ofNat_eq_bits, ↓bits_cut 26, ↓bits_cut 21, ↓bits_cut 16, ↓bits_cut 11, ↓bits_cut 8, ↓bits_cut 4,
      List.append_eq_nil_iff, fixed_eq_nil, decide_eq_true_eq, and_true, Nat.reduceAdd, Nat.reduceSub, Nat.reducePow,
      Nat.reduceDiv, Nat.reduceLT, BitVec.reduceOfNat] at *
    simp only [*, and_self]

/-- Slot B (R72). -/
theorem inverts_rawB (w : BitVec 32) : Inverts .b w (rawB w) := by
  unfold rawB rawB01 rawB02 rawB03 rawB04 rawB05 rawB06 rawB08 rawB09 rawB0A rawB0B rawB0C rawB0D rawB14 rawB15 rawB16 rawB18
    rawB1C rawB1D rawB1E rawB1F rawB20 rawB28 rawB2C
  refine .ite (fun _ => .ite .nop .bad) ?_
  repeat' refine .ite (fun _ => ?_) ?_
  any_goals exact .bad
  all_goals
    refine .ok rfl fun hfixed => (?_ : _ = bits w 0 32).trans (bits_all w)
    simp only [↓append_eq_bits, ofNat_eq_bits, ↓bits_cut 26, ↓bits_cut 21, ↓bits_cut 17, ↓bits_cut 16, ↓bits_cut 15,
      ↓bits_cut 11, ↓bits_cut 10, ↓bits_cut 7, ↓bits_cut 6, ↓bits_cut 4, List.append_eq_nil_iff, fixed_eq_nil,
      decide_eq_true_eq, Bool.or_eq_true, zero_and_one_or, and_true, Nat.reduceAdd, Nat.reduceSub, Nat.reducePow, Nat.reduceDiv,
      Nat.reduceLT, BitVec.reduceOfNat] at *
    simp only [*, and_self]

/-- Slot C (R75). -/
theorem inverts_rawC (w : BitVec 32) : Inverts .c w (rawC w) := by
  unfold rawC rawC01 rawC02 rawC03 rawC04 rawC05 rawC06 rawC07 rawC08 rawC09 rawC0A rawC0C rawC0D rawC0E rawC10 rawC11 rawC14
    rawC18 rawC19 rawC20 rawC24 rawC25 rawC26 rawC27 rawC28 rawC2A rawC2B rawC2C
  refine .ite (fun _ => .ite .nop .bad) ?_
  repeat' refine .ite (fun _ => ?_) ?_
  any_goals exact .bad
  all_goals
    refine .ok rfl fun hfixed => (?_ : _ = bits w 0 32).trans (bits_all w)
    simp only [↓append_eq_bits, ofNat_eq_bits, ↓bits_cut 26, ↓bits_cut 16, ↓bits_cut 11, ↓bits_cut 8, ↓bits_cut 2,
      List.append_eq_nil_iff, fixed_eq_nil, decide_eq_true_eq, and_true, Nat.reduceAdd, Nat.reduceSub, Nat.reducePow,
      Nat.reduceDiv, Nat.reduceLT, BitVec.reduceOfNat] at *
    simp only [*, and_self]

/-- Slot D (R77). -/
theorem inverts_rawD (w : BitVec 32) : Inverts .d w (rawD w) := by
  unfold rawD rawD01 rawD02 rawD04 rawD05 rawD06 rawD08 rawD09 rawD0A rawD0B rawD0C rawD0D rawD0E rawD0F rawD20 rawD24 rawD25
    rawD29 rawD2C
  refine .ite (fun _ => .ite .nop .bad) ?_
  repeat' refine .ite (fun _ => ?_) ?_
  any_goals exact .bad
  any_goals exact inverts_rawD28 ‹_›
  all_goals
    refine .ok rfl fun hfixed => (?_ : _ = bits w 0 32).trans (bits_all w)
    simp only [↓append_eq_bits, ofNat_eq_bits, ↓bits_cut 26, ↓bits_cut 21, ↓bits_cut 16, ↓bits_cut 11, ↓bits_cut 4,
      List.append_eq_nil_iff, fixed_eq_nil, decide_eq_true_eq, and_true, Nat.reduceAdd, Nat.reduceSub, Nat.reducePow,
      Nat.reduceDiv, Nat.reduceLT, BitVec.reduceOfNat] at *
    simp only [*, and_self]

/-- Every slot's map leads back to the word. -/
theorem inverts_raw (sl : Slot) (w : BitVec 32) : Inverts sl w (raw sl w) := by
  cases sl with
  | a => exact inverts_rawA w
  | b => exact inverts_rawB w
  | c => exact inverts_rawC w
  | d => exact inverts_rawD w

/-! ## The statements -/

/-- Settles O54, from what a map says of an instruction's word and from the way back. -/
theorem decodeEncode : Obligations.DecodeEncode := fun i sl w =>
  ⟨fun he hlegal => decodeSlot_eq_some.2 ⟨stands_of_encode he, hlegal⟩, fun hd => inverts_raw sl w i (decodeSlot_eq_some.1 hd).1⟩

/-- A word that encodes a legal instruction decodes to it (R67, R68). -/
theorem decodes {i : Instr} {sl : Slot} {w : BitVec 32} (he : encode i = some (sl, w)) (hlegal : i.illegal Config.caps = []) :
    decodeSlot Config.caps sl w = some i :=
  (decodeEncode i sl w).1 he hlegal

/-- Settles O53: each word is the one that its instruction encodes to; slot D's NOP is the word 0. -/
theorem decodedWords : Obligations.DecodedWords := by
  unfold Obligations.DecodedWords
  exact ⟨decodes rfl rfl, decodes rfl rfl, decodes rfl rfl, decodeSlot_eq_some.2 ⟨⟨rfl, rfl⟩, rfl⟩, decodes rfl rfl, decodes rfl rfl,
    decodes rfl rfl, decodes rfl rfl, decodes rfl rfl, decodes rfl rfl, decodes rfl rfl, decodes rfl rfl, decodes rfl rfl,
    decodes rfl rfl, decodes rfl rfl, decodes rfl rfl, decodes rfl rfl, decodes rfl rfl, decodes rfl rfl, decodes rfl rfl,
    decodes rfl rfl, decodes rfl rfl, decodes rfl rfl⟩

end Sys2Proof.Claims
end

section
/-!
PROOF. Correct rounding (R104, R105, R109): the finite magnitudes of a format stand in the order of their codes, and an exact magnitude lies
between two neighbours of them, of which the mode chooses one; the statement about it (O6).
-/

namespace Sys2Proof.Machine

/-! ## Magnitudes by their codes (R96) -/

/-- A magnitude code's value, counted in the format's least magnitude: a subnormal is its own code, and each exponent above doubles the
step. -/
def FFmt.units (f : FFmt) (c : Nat) : Nat :=
  if c / 2 ^ f.mb = 0 then c else (2 ^ f.mb + c % 2 ^ f.mb) * 2 ^ (c / 2 ^ f.mb - 1)

/-- The exponent of the least magnitude. -/
def FFmt.least (f : FFmt) : Int := 1 - (f.bias : Int) - f.mb

/-- The rational number that a magnitude code stands for. -/
def FFmt.mag (f : FFmt) (c : Nat) : ℚ := f.units c * 2 ^ f.least

variable {f : FFmt}

/-- A code made of an exponent and a mantissa with its leading bit, one that carries into the exponent included. -/
theorem FFmt.units_scaled {k b : Nat} (hb : b ≤ 2 ^ (f.mb + 1)) (hk : k = 0 ∨ 2 ^ f.mb ≤ b) :
    f.units (k * 2 ^ f.mb + b) = b * 2 ^ k := by
  have hp := Nat.two_pow_pos f.mb
  rw [Nat.pow_succ] at hb
  unfold FFmt.units
  obtain hlt | ⟨d, rfl⟩ := (Nat.lt_or_ge b (2 ^ f.mb)).imp_right Nat.exists_eq_add_of_le
  · obtain rfl : k = 0 := by omega
    simp [Nat.div_eq_of_lt hlt]
  obtain hd | rfl : d < 2 ^ f.mb ∨ d = 2 ^ f.mb := by omega
  · have hc : k * 2 ^ f.mb + (2 ^ f.mb + d) = d + 2 ^ f.mb * (k + 1) := by ring
    rw [hc, Nat.add_mul_div_left _ _ hp, Nat.add_mul_mod_self_left, Nat.div_eq_of_lt hd, Nat.mod_eq_of_lt hd]
    simp
  · have hc : k * 2 ^ f.mb + (2 ^ f.mb + 2 ^ f.mb) = 2 ^ f.mb * (k + 2) := by ring
    rw [hc, Nat.mul_div_cancel_left _ hp, Nat.mul_mod_right]
    simp [Nat.pow_succ]; ring

/-- Each code is an exponent and a mantissa with its leading bit. -/
theorem FFmt.exists_scaled (f : FFmt) (c : Nat) :
    ∃ k b, c = k * 2 ^ f.mb + b ∧ b < 2 ^ (f.mb + 1) ∧ (k = 0 ∨ 2 ^ f.mb ≤ b) := by
  have hr := Nat.mod_lt c (Nat.two_pow_pos f.mb)
  have hc := Nat.div_add_mod' c (2 ^ f.mb)
  rw [Nat.pow_succ]
  cases hq : c / 2 ^ f.mb with
  | zero => exact ⟨0, c % 2 ^ f.mb, by rw [hq] at hc; omega, by omega, .inl rfl⟩
  | succ k => exact ⟨k, 2 ^ f.mb + c % 2 ^ f.mb, by rw [hq, Nat.succ_mul] at hc; omega, by omega, .inr (by omega)⟩

theorem FFmt.mag_scaled {k b : Nat} (hb : b ≤ 2 ^ (f.mb + 1)) (hk : k = 0 ∨ 2 ^ f.mb ≤ b) :
    f.mag (k * 2 ^ f.mb + b) = b * 2 ^ (k + f.least) := by
  rw [FFmt.mag, units_scaled hb hk, zpow_add₀ two_ne_zero]
  push_cast
  rw [zpow_natCast, mul_assoc]

theorem FFmt.mag_strictMono (f : FFmt) : StrictMono f.mag := by
  refine strictMono_nat_of_lt_succ fun c => ?_
  obtain ⟨k, b, rfl, hb, hk⟩ := f.exists_scaled c
  rw [Nat.add_assoc, mag_scaled hb.le hk, mag_scaled hb (by omega)]
  gcongr
  omega

theorem FFmt.mag_nonneg (f : FFmt) (c : Nat) : 0 ≤ f.mag c := by
  unfold FFmt.mag; positivity

end Sys2Proof.Machine

namespace Sys2Proof.Claims

open Sys2Proof.Machine

variable {f : FFmt}

/-! ## Values of codes (R96, R99) -/

/-- The factor −1 of a negative number, or 1. -/
def signFactor (neg : Bool) : ℚ := if neg then -1 else 1

@[simp] theorem signFactor_true : signFactor true = -1 := rfl
@[simp] theorem signFactor_false : signFactor false = 1 := rfl

theorem signFactor_ne_zero (neg : Bool) : signFactor neg ≠ 0 := by cases neg <;> simp

/-- A sign taken twice is none. -/
@[simp] theorem signFactor_signFactor (neg : Bool) (u : ℚ) : signFactor neg * (signFactor neg * u) = u := by
  cases neg <;> simp

/-- A sign keeps an absolute value. -/
theorem abs_signFactor_mul (neg : Bool) (u : ℚ) : |signFactor neg * u| = |u| := by
  cases neg <;> simp

/-- The distance from a signed number, by its magnitude. -/
theorem abs_sub_signFactor (neg : Bool) (u v : ℚ) : |u - signFactor neg * v| = |signFactor neg * u - v| := by
  rw [← abs_signFactor_mul neg, mul_sub, signFactor_signFactor]

theorem rat_signed (neg : Bool) (m : Nat) (e : Int) : rat neg m e = signFactor neg * rat false m e := by
  simp [rat, signFactor]

theorem mag_of_exponent_zero {c : Nat} (h : c / 2 ^ f.mb = 0) : f.mag c = rat false (c % 2 ^ f.mb) f.least := by
  have hc : c < 2 ^ f.mb := by simpa [Nat.div_eq_zero_iff] using h
  simp [FFmt.mag, FFmt.units, h, rat, Nat.mod_eq_of_lt hc]

theorem mag_of_exponent_ne_zero {c : Nat} (h : c / 2 ^ f.mb ≠ 0) :
    f.mag c = rat false (2 ^ f.mb + c % 2 ^ f.mb) ((c / 2 ^ f.mb : Nat) - (f.bias : Int) - f.mb) := by
  obtain ⟨k, hk⟩ := Nat.exists_eq_succ_of_ne_zero h
  have he : ((k + 1 : Nat) : Int) - f.bias - f.mb = k + f.least := by unfold FFmt.least; omega
  rw [FFmt.mag, FFmt.units, if_neg h, hk, Nat.succ_eq_add_one, he, Nat.add_sub_cancel, rat, zpow_add₀ two_ne_zero]
  push_cast
  rw [zpow_natCast]
  simp [mul_assoc]

/-- A finite value that an IEEE code holds is its magnitude code's, with the code's sign. -/
theorem rat_of_unpack {c n j h} (hs : f.style = .ieee) (hc : f.unpack c = .fin n j h) :
    rat n j h = signFactor n * f.mag (c % 2 ^ (f.eb + f.mb)) := by
  have he : c % 2 ^ (f.eb + f.mb) / 2 ^ f.mb = c / 2 ^ f.mb % 2 ^ f.eb := by
    rw [Nat.add_comm, Nat.pow_add, Nat.mod_mul_right_div_self]
  have hm : c % 2 ^ (f.eb + f.mb) % 2 ^ f.mb = c % 2 ^ f.mb :=
    Nat.mod_mod_of_dvd _ (pow_dvd_pow 2 (Nat.le_add_left ..))
  rw [rat_signed]
  congr 1
  simp only [FFmt.unpack, hs, true_and, reduceCtorEq, false_and, if_false] at hc
  split at hc
  · split at hc
    · cases hc
    · split at hc <;> cases hc
  · split at hc <;> rename_i h0 <;> cases hc
    · rw [mag_of_exponent_zero (he.trans h0), hm, FFmt.least]
    · rw [mag_of_exponent_ne_zero (by rw [he]; exact h0), hm, he]

theorem signBit_sign {neg : Bool} {c : Nat} (hc : c < 2 ^ (f.eb + f.mb)) : f.signBit (f.sign neg c) = neg := by
  cases neg <;> simp [FFmt.signBit, FFmt.sign, Nat.div_eq_of_lt hc]

/-- A code below the infinity's is a finite value with the sign that it was given. -/
theorem unpack_sign {neg : Bool} {c : Nat} (h : PlainIeee f) (hc : c < f.infCode) :
    ∃ k g, f.unpack (f.sign neg c) = .fin neg k g ∧ rat neg k g = signFactor neg * f.mag c := by
  have hlt : c < 2 ^ (f.eb + f.mb) := hc.trans h.infCode_lt
  have hmod : f.sign neg c % 2 ^ (f.eb + f.mb) = c := by
    cases neg <;> simp [FFmt.sign, Nat.mod_eq_of_lt hlt]
  have htop : f.sign neg c / 2 ^ f.mb % 2 ^ f.eb ≠ 2 ^ f.eb - 1 := by
    rw [← Nat.mod_mul_right_div_self, ← Nat.pow_add, Nat.add_comm f.mb, hmod]
    exact ((Nat.div_lt_iff_lt_mul (Nat.two_pow_pos _)).2 hc).ne
  have hfin : ∃ k g, f.unpack (f.sign neg c) = .fin neg k g := by
    simp only [FFmt.unpack, htop, and_false, false_and, if_false, signBit_sign hlt]
    split <;> exact ⟨_, _, rfl⟩
  obtain ⟨k, g, hkg⟩ := hfin
  exact ⟨k, g, hkg, by rw [rat_of_unpack h.style hkg, hmod]⟩

/-! ## The two neighbours of an exact magnitude (R105) -/

/-- The exact magnitude `x` lies `rem` of `2 ^ sh` parts above the magnitude of code `lo` on the way to the next one; `part` is the size
of a part. -/
structure Between (f : FFmt) (x : ℚ) (lo rem sh : Nat) (part : ℚ) : Prop where
  part_pos : 0 < part
  rem_lt : rem < 2 ^ sh
  exact_eq : x = f.mag lo + rem * part
  next_eq : f.mag (lo + 1) = f.mag lo + 2 ^ sh * part

/-- The code that a mode chooses of the two neighbours of an exact magnitude. -/
def chosen (mode : RMode) (neg : Bool) (lo rem sh : Nat) : Nat :=
  if rem ≠ 0 && roundsUp mode neg lo rem sh then lo + 1 else lo

/-- The result with a chosen magnitude code (R108, R109). -/
def packed (f : FFmt) (mode : RMode) (neg : Bool) (code rem : Nat) : FRes :=
  if f.maxCode < code then f.overflow mode neg
  else (f.sign neg code, (if rem ≠ 0 then flNX else 0) ||| (if rem ≠ 0 && decide (code < 2 ^ f.mb) then flUF else 0))

theorem roundsUp_congr {mode : RMode} {neg : Bool} {q q' : Nat} (rem sh : Nat) (h : q % 2 = q' % 2) :
    roundsUp mode neg q rem sh = roundsUp mode neg q' rem sh := by
  cases mode <;> simp [roundsUp, h]

/-- A choice between neighbours is one between their mantissas: the exponent leaves the parity alone. -/
theorem chosen_scaled (h : PlainIeee f) (mode : RMode) (neg : Bool) (k b rem sh : Nat) :
    chosen mode neg (k * 2 ^ f.mb + b) rem sh = k * 2 ^ f.mb + if rem ≠ 0 && roundsUp mode neg b rem sh then b + 1 else b := by
  have heven : 2 ^ f.mb % 2 = 0 := Nat.mod_eq_zero_of_dvd (dvd_pow_self 2 (by have := h.mantissa; omega))
  rw [chosen, roundsUp_congr (q' := b) rem sh (by simp [Nat.add_mod, Nat.mul_mod, heven])]
  split <;> rfl

/-- The place of a magnitude's last digit, counted from the least magnitude's: a subnormal's is 0. -/
def scaleOf (f : FFmt) (m : Nat) (e : Int) : Nat := (m.log2 + e - (1 - (f.bias : Int))).toNat

theorem leading_eq (f : FFmt) (m : Nat) (e : Int) :
    (if m.log2 + e < 1 - (f.bias : Int) then 1 - (f.bias : Int) else m.log2 + e) = 1 - (f.bias : Int) + scaleOf f m e := by
  unfold scaleOf; split <;> omega

/-- A magnitude that reaches below its last place is cut there (R105). -/
theorem round_of_coarse (h : PlainIeee f) {m sh : Nat} {e : Int} (hm : m ≠ 0) (hsh : scaleOf f m e + f.least = e + sh)
    (mode : RMode) (neg : Bool) :
    f.round mode neg m e =
      packed f mode neg (chosen mode neg (scaleOf f m e * 2 ^ f.mb + m / 2 ^ sh) (m % 2 ^ sh) sh) (m % 2 ^ sh) := by
  have hq : 1 - (f.bias : Int) + scaleOf f m e - f.mb = e + sh := by unfold FFmt.least at hsh; omega
  simp [FFmt.round, hm, leading_eq, hq, chosen_scaled h, packed]

/-- A magnitude that ends above its last place is taken whole. -/
theorem round_of_fine (h : PlainIeee f) {m n : Nat} {e : Int} (hm : m ≠ 0) (hn : scaleOf f m e + f.least + n = e) (hpos : 0 < n)
    (mode : RMode) (neg : Bool) :
    f.round mode neg m e = packed f mode neg (chosen mode neg (scaleOf f m e * 2 ^ f.mb + m * 2 ^ n) 0 0) 0 := by
  have hq : 1 - (f.bias : Int) + scaleOf f m e - f.mb = e - n := by unfold FFmt.least at hn; omega
  simp [FFmt.round, hm, leading_eq, hq, chosen_scaled h, packed, hpos.ne']

/-- The mantissa that is left of a magnitude at the exponent that its leading bit asks for fills its places. -/
theorem mantissa_bounds {m mb sh : Nat} (hm : m ≠ 0) (h : m.log2 ≤ mb + sh) :
    m / 2 ^ sh < 2 ^ (mb + 1) ∧ (m.log2 = mb + sh → 2 ^ mb ≤ m / 2 ^ sh) := by
  constructor
  · rw [Nat.div_lt_iff_lt_mul (Nat.two_pow_pos _), ← Nat.pow_add]
    exact Nat.lt_log2_self.trans_le (Nat.pow_le_pow_right (by omega) (by omega))
  · intro he
    rw [Nat.le_div_iff_mul_le (Nat.two_pow_pos _), ← Nat.pow_add, ← he]
    exact Nat.log2_self_le hm

theorem log2_mul_two_pow {m : Nat} (hm : m ≠ 0) (n : Nat) : (m * 2 ^ n).log2 = m.log2 + n := by
  refine (Nat.log2_eq_iff (by positivity)).2 ⟨?_, ?_⟩
  · rw [Nat.pow_add]
    exact Nat.mul_le_mul_right _ (Nat.log2_self_le hm)
  · rw [Nat.add_right_comm, Nat.pow_add]
    exact Nat.mul_lt_mul_of_pos_right Nat.lt_log2_self (Nat.two_pow_pos n)

theorem between_scaled {k b rem sh : Nat} {x : ℚ} (hb : b < 2 ^ (f.mb + 1)) (hk : k = 0 ∨ 2 ^ f.mb ≤ b) (hrem : rem < 2 ^ sh)
    (hx : x = (b * 2 ^ sh + rem : Nat) * 2 ^ (k + f.least - sh)) :
    Between f x (k * 2 ^ f.mb + b) rem sh (2 ^ (k + f.least - sh)) := by
  have hsh : (2 : ℚ) ^ sh * 2 ^ (k + f.least - sh) = 2 ^ (k + f.least) := by
    rw [← zpow_natCast, ← zpow_add₀ two_ne_zero]; congr 1; omega
  have hlo := FFmt.mag_scaled hb.le hk
  have hnext : f.mag (k * 2 ^ f.mb + b + 1) = (b + 1 : Nat) * 2 ^ (k + f.least) := FFmt.mag_scaled hb (by omega)
  refine ⟨by positivity, hrem, ?_, ?_⟩
  · rw [hx, hlo]; push_cast; rw [add_mul, mul_assoc, hsh]
  · rw [hnext, hlo, hsh]; push_cast; ring

/-- A rounding chooses one of the two neighbours of the exact magnitude (R104, R105). -/
theorem exists_between (h : PlainIeee f) {m : Nat} {e : Int} (hm : m ≠ 0) :
    ∃ lo rem sh part, Between f (rat false m e) lo rem sh part ∧
      ∀ mode neg, f.round mode neg m e = packed f mode neg (chosen mode neg lo rem sh) rem := by
  have hkq : scaleOf f m e = 0 ∨ (scaleOf f m e + f.least : Int) = m.log2 + e - f.mb := by unfold scaleOf FFmt.least; omega
  have hq : (m.log2 + e - f.mb : Int) ≤ scaleOf f m e + f.least := by unfold scaleOf FFmt.least; omega
  obtain ⟨sh, hsh⟩ | ⟨n, hn, hpos⟩ : (∃ sh : Nat, (scaleOf f m e + f.least : Int) = e + sh) ∨
      ∃ n : Nat, (scaleOf f m e + f.least : Int) + n = e ∧ 0 < n := by
    obtain hle | hlt := le_or_gt e (scaleOf f m e + f.least)
    · exact .inl ⟨(scaleOf f m e + f.least - e).toNat, by omega⟩
    · exact .inr ⟨(e - (scaleOf f m e + f.least)).toNat, by omega, by omega⟩
  · obtain ⟨hlt, hge⟩ := mantissa_bounds (mb := f.mb) (sh := sh) hm (by omega)
    refine ⟨_, _, _, _, between_scaled hlt (hkq.imp_right fun hk => hge (by omega)) (Nat.mod_lt m (Nat.two_pow_pos sh)) ?_,
      round_of_coarse h hm hsh⟩
    rw [Nat.div_add_mod', hsh, Int.add_sub_cancel]
    simp [rat]
  · have hlog : (m * 2 ^ n).log2 = m.log2 + n := log2_mul_two_pow hm n
    obtain ⟨hlt, hge⟩ := mantissa_bounds (m := m * 2 ^ n) (mb := f.mb) (sh := 0) (by positivity) (by omega)
    rw [pow_zero, Nat.div_one] at hlt hge
    refine ⟨_, _, _, _, between_scaled hlt (hkq.imp_right fun hk => hge (by omega)) (Nat.two_pow_pos 0) ?_, round_of_fine h hm hn hpos⟩
    have he : (2 : ℚ) ^ e = 2 ^ n * 2 ^ (scaleOf f m e + f.least) := by
      rw [← zpow_natCast, ← zpow_add₀ two_ne_zero, Int.add_comm, hn]
    rw [rat, he]
    simp [mul_assoc]

/-! ## What the modes choose (R104) -/

section Modes
variable {x part : ℚ} {lo rem sh : Nat} (hx : Between f x lo rem sh part)
include hx

theorem Between.lower_le : f.mag lo ≤ x := by
  have := mul_nonneg (Nat.cast_nonneg (α := ℚ) rem) hx.part_pos.le
  linarith [hx.exact_eq]

theorem Between.lt_next : x < f.mag (lo + 1) := by
  have hlt : (rem : ℚ) < 2 ^ sh := by exact_mod_cast hx.rem_lt
  rw [hx.exact_eq, hx.next_eq]
  gcongr
  exact hx.part_pos

/-- A magnitude that is one of its format's is met. -/
theorem Between.lower_eq_iff : f.mag lo = x ↔ rem = 0 := by
  rw [hx.exact_eq]
  simp [hx.part_pos.ne']

/-- How far the halfway point is passed. -/
theorem Between.compare_halves : (x - f.mag lo) - (f.mag (lo + 1) - x) = (2 * rem - 2 ^ sh : ℚ) * part := by
  rw [hx.exact_eq, hx.next_eq]; ring

/-- Only what is already a value of the format is delivered exactly. -/
theorem Between.chosen_ne_iff (mode : RMode) (neg : Bool) : f.mag (chosen mode neg lo rem sh) ≠ x ↔ rem ≠ 0 := by
  by_cases h : rem = 0
  · simpa [chosen, h] using hx.lower_eq_iff.2 h
  · have hlo : f.mag lo ≠ x := hx.lower_eq_iff.not.2 h
    have hnext := hx.lt_next.ne'
    simp only [h, not_false_eq_true, ne_eq, iff_true]
    unfold chosen
    split <;> assumption

/-- Toward zero the lower neighbour is chosen, and no value of the format is closer on that side. -/
theorem Between.inward {z : ℚ} (hz : z ≤ f.mag lo ∨ f.mag (lo + 1) ≤ z) : f.mag lo ≤ x ∧ (z ≤ x → z ≤ f.mag lo) :=
  ⟨hx.lower_le, fun h => hz.resolve_right fun hge => absurd (hge.trans h) (not_le.2 hx.lt_next)⟩

/-- Away from zero the next neighbour is chosen unless the lower one is exact, and no value of the format is closer on that side. -/
theorem Between.outward {z : ℚ} (hz : z ≤ f.mag lo ∨ f.mag (lo + 1) ≤ z) :
    x ≤ f.mag (if rem = 0 then lo else lo + 1) ∧ (x ≤ z → f.mag (if rem = 0 then lo else lo + 1) ≤ z) := by
  split
  next h =>
    rw [hx.lower_eq_iff.2 h]
    exact ⟨le_rfl, id⟩
  next h =>
    have hlt : f.mag lo < x := lt_of_le_of_ne hx.lower_le (hx.lower_eq_iff.not.2 h)
    exact ⟨hx.lt_next.le, fun h => hz.resolve_left fun hle => absurd (h.trans hle) (not_le.2 hlt)⟩

/-- To nearest, the next neighbour is chosen where it is the closer one, and in a tie where the lower one is odd. -/
theorem Between.chosen_rn (neg : Bool) : chosen .rn neg lo rem sh =
    if f.mag (lo + 1) - x < x - f.mag lo ∨ f.mag (lo + 1) - x = x - f.mag lo ∧ lo % 2 = 1 then lo + 1 else lo := by
  have hhalves := hx.compare_halves
  have hcloser : f.mag (lo + 1) - x < x - f.mag lo ↔ 2 ^ sh < 2 * rem := by
    rw [← sub_pos, hhalves, mul_pos_iff_of_pos_right hx.part_pos, sub_pos]
    exact_mod_cast Iff.rfl
  have htie : f.mag (lo + 1) - x = x - f.mag lo ↔ 2 * rem = 2 ^ sh := by
    rw [eq_comm, ← sub_eq_zero, hhalves, mul_eq_zero_iff_right hx.part_pos.ne', sub_eq_zero]
    exact_mod_cast Iff.rfl
  have hpos := Nat.two_pow_pos sh
  simp only [chosen, roundsUp, hcloser, htie, Bool.and_eq_true, Bool.or_eq_true, decide_eq_true_eq, ne_eq]
  congr 1
  simp only [eq_iff_iff, and_iff_right_iff_imp]
  omega

/-- To nearest, no value of the format is closer than the chosen one, and only an even one is as close as another (R104). -/
theorem Between.nearest (neg : Bool) {z : ℚ} (hz : z ≤ f.mag lo ∨ f.mag (lo + 1) ≤ z) :
    |f.mag (chosen .rn neg lo rem sh) - x| ≤ |z - x| ∧
    (|f.mag (chosen .rn neg lo rem sh) - x| = |z - x| → z ≠ f.mag (chosen .rn neg lo rem sh) → chosen .rn neg lo rem sh % 2 = 0) := by
  have hle := hx.lower_le
  have hlt := hx.lt_next
  have hdist : z ≤ f.mag lo ∧ |z - x| = x - z ∨ f.mag (lo + 1) ≤ z ∧ |z - x| = z - x :=
    hz.imp (fun h => ⟨h, by rw [abs_of_nonpos (by linarith)]; ring⟩) fun h => ⟨h, abs_of_nonneg (by linarith)⟩
  rw [hx.chosen_rn]
  split
  next hup =>
    have hcloser : f.mag (lo + 1) - x ≤ x - f.mag lo := hup.elim le_of_lt fun h => h.1.le
    rw [abs_of_pos (sub_pos.2 hlt)]
    obtain ⟨hz, hd⟩ | ⟨hz, hd⟩ := hdist <;> rw [hd]
    · refine ⟨by linarith, fun heq _ => ?_⟩
      obtain hup | ⟨-, hodd⟩ := hup
      · linarith
      · omega
    · exact ⟨by linarith, fun heq hne => absurd (by linarith) hne⟩
  next hdown =>
    have hcloser : x - f.mag lo ≤ f.mag (lo + 1) - x := not_lt.1 fun h => hdown (.inl h)
    rw [abs_of_nonpos (sub_nonpos.2 hle), neg_sub]
    obtain ⟨hz, hd⟩ | ⟨hz, hd⟩ := hdist <;> rw [hd]
    · exact ⟨by linarith, fun heq hne => absurd (by linarith) hne⟩
    · refine ⟨by linarith, fun heq _ => ?_⟩
      have hodd : lo % 2 ≠ 1 := fun h => hdown (.inr ⟨by linarith, h⟩)
      omega

end Modes

/-- No magnitude of the format lies between those of adjacent codes. -/
theorem mag_outside (lo c : Nat) : f.mag c ≤ f.mag lo ∨ f.mag (lo + 1) ≤ f.mag c :=
  (Nat.lt_or_ge c (lo + 1)).imp (fun h => f.mag_strictMono.monotone (Nat.le_of_lt_succ h)) fun h => f.mag_strictMono.monotone h

/-- No finite value has its magnitude there. -/
theorem abs_finite_outside (hs : f.style = .ieee) {c n j h} (hc : f.unpack c = .fin n j h) (lo : Nat) :
    |rat n j h| ≤ f.mag lo ∨ f.mag (lo + 1) ≤ |rat n j h| := by
  rw [rat_of_unpack hs hc, abs_signFactor_mul, abs_of_nonneg (f.mag_nonneg _)]
  exact mag_outside ..

/-- What has its magnitude outside two magnitudes stands outside them itself, with or against its sign. -/
theorem signed_outside {lo : Nat} {z : ℚ} (h : |z| ≤ f.mag lo ∨ f.mag (lo + 1) ≤ |z|) (neg : Bool) :
    signFactor neg * z ≤ f.mag lo ∨ f.mag (lo + 1) ≤ signFactor neg * z := by
  rw [← abs_signFactor_mul neg] at h
  obtain ⟨hz, -⟩ | ⟨-, hneg⟩ := abs_cases (signFactor neg * z)
  · rwa [hz] at h
  · exact .inl (hneg.le.trans (f.mag_nonneg lo))

@[simp] theorem chosen_rz (neg : Bool) (lo rem sh : Nat) : chosen .rz neg lo rem sh = lo := by
  simp [chosen, roundsUp]

/-- Toward +∞ a negative magnitude goes inward, another outward. -/
@[simp] theorem chosen_rp (neg : Bool) (lo rem sh : Nat) :
    chosen .rp neg lo rem sh = if neg then lo else if rem = 0 then lo else lo + 1 := by
  cases neg <;> simp [chosen, roundsUp]

/-- Toward −∞ a negative magnitude goes outward, another inward. -/
@[simp] theorem chosen_rm (neg : Bool) (lo rem sh : Nat) :
    chosen .rm neg lo rem sh = if neg then if rem = 0 then lo else lo + 1 else lo := by
  cases neg <;> simp [chosen, roundsUp]

/-! ## The delivered result -/

/-- A result without OF is the chosen code, a finite one, with the sign; NX tells whether something was cut off (R108, R109). -/
theorem packed_of_not_overflow (h : PlainIeee f) (he : f.eb ≠ 0) {mode : RMode} {neg : Bool} {code rem : Nat}
    (hof : (packed f mode neg code rem).2.getLsbD 2 = false) :
    code < f.infCode ∧ (packed f mode neg code rem).1 = f.sign neg code ∧
      ((packed f mode neg code rem).2.getLsbD 0 = true ↔ rem ≠ 0) := by
  have hinf : 0 < f.infCode := Nat.mul_pos (Nat.sub_pos_of_lt (Nat.one_lt_two_pow he)) (Nat.two_pow_pos _)
  have hmax : f.maxCode = f.infCode - 1 := by rw [FFmt.maxCode, h.style, FFmt.infCode]
  unfold packed at hof ⊢
  split at hof
  next => simp [FFmt.overflow, flOF, flNX] at hof
  next hle =>
    rw [if_neg hle]
    refine ⟨by omega, rfl, ?_⟩
    by_cases hr : rem = 0
    · simp [hr]
    · cases decide (code < 2 ^ f.mb) <;> simp [hr, flNX, flUF]

/-- The sign leaves the parity of a code alone. -/
theorem sign_mod_two (h : PlainIeee f) (neg : Bool) (c : Nat) : f.sign neg c % 2 = c % 2 := by
  have heven : 2 ^ (f.eb + f.mb) % 2 = 0 := Nat.mod_eq_zero_of_dvd (dvd_pow_self 2 (by have := h.mantissa; omega))
  cases neg <;> simp [FFmt.sign, Nat.add_mod, heven]

/-! ## The statement -/

section Signed
variable {x part z : ℚ} {lo rem sh : Nat} {neg : Bool} (hx : Between f x lo rem sh part)
  (hz : |z| ≤ f.mag lo ∨ f.mag (lo + 1) ≤ |z|)
include hx hz

theorem Between.nearest_signed :
    |signFactor neg * f.mag (chosen .rn neg lo rem sh) - signFactor neg * x| ≤ |z - signFactor neg * x| ∧
    (|signFactor neg * f.mag (chosen .rn neg lo rem sh) - signFactor neg * x| = |z - signFactor neg * x| →
      z ≠ signFactor neg * f.mag (chosen .rn neg lo rem sh) → chosen .rn neg lo rem sh % 2 = 0) := by
  obtain ⟨hle, heven⟩ := hx.nearest neg (signed_outside hz neg)
  rw [abs_sub_signFactor, abs_sub_signFactor, signFactor_signFactor]
  exact ⟨hle, fun heq hne => heven heq fun h => hne (by rw [← h, signFactor_signFactor])⟩

theorem Between.toward_zero :
    |signFactor neg * f.mag (chosen .rz neg lo rem sh)| ≤ |signFactor neg * x| ∧
    (|z| ≤ |signFactor neg * x| → |z| ≤ |signFactor neg * f.mag (chosen .rz neg lo rem sh)|) := by
  have hpos := (f.mag_nonneg lo).trans hx.lower_le
  simpa only [chosen_rz, abs_signFactor_mul, abs_of_nonneg hpos, abs_of_nonneg (f.mag_nonneg lo)] using hx.inward hz

theorem Between.upward :
    signFactor neg * x ≤ signFactor neg * f.mag (chosen .rp neg lo rem sh) ∧
    (signFactor neg * x ≤ z → signFactor neg * f.mag (chosen .rp neg lo rem sh) ≤ z) := by
  cases neg with
  | false => simpa using hx.outward (signed_outside hz false)
  | true => simpa [neg_le] using hx.inward (signed_outside hz true)

theorem Between.downward :
    signFactor neg * f.mag (chosen .rm neg lo rem sh) ≤ signFactor neg * x ∧
    (z ≤ signFactor neg * x → z ≤ signFactor neg * f.mag (chosen .rm neg lo rem sh)) := by
  cases neg with
  | false => simpa using hx.inward (signed_outside hz false)
  | true => simpa [le_neg] using hx.outward (signed_outside hz true)

end Signed

/-- The four formats are IEEE's, with exponent bits. -/
theorem plainIeee_of_mem (hf : f ∈ [fp64, fp32, fp16, bf16]) : PlainIeee f ∧ f.eb ≠ 0 := by
  simp only [List.mem_cons, List.not_mem_nil, or_false] at hf
  obtain rfl | rfl | rfl | rfl := hf <;> exact ⟨⟨rfl, by decide⟩, by decide⟩

/-- Settles O6: the exact magnitude lies between two neighbours of the format, of which the mode chooses as it asks. -/
theorem correctRounding : Obligations.CorrectRounding := by
  unfold Obligations.CorrectRounding
  intro f hf r neg m e hm hof
  obtain ⟨hplain, heb⟩ := plainIeee_of_mem hf
  obtain ⟨lo, rem, sh, part, hx, hround⟩ := exists_between hplain (e := e) hm
  rw [hround] at hof ⊢
  obtain ⟨hfinite, hcode, hnx⟩ := packed_of_not_overflow hplain heb hof
  obtain ⟨k, g, hunpack, hy⟩ := unpack_sign (neg := neg) hplain hfinite
  rw [hcode, sign_mod_two hplain, hnx, rat_signed neg m e]
  refine ⟨k, g, hunpack, ?_, fun c _ n j h hc => ?_⟩ <;> rw [hy]
  · rw [← hx.chosen_ne_iff (rmode r) neg, ne_eq, ne_eq, mul_right_inj' (signFactor_ne_zero neg)]
  · have hz := abs_finite_outside hplain.style hc lo
    refine ⟨?_, ?_, ?_, ?_⟩ <;> rintro rfl
    · exact hx.nearest_signed hz
    · exact hx.toward_zero hz
    · exact hx.upward hz
    · exact hx.downward hz

end Sys2Proof.Claims
end

section
/-!
PROOF. Slot A's integer forms (R122, R125-R132): what a form of one or two sources commits, the values of its operations as numbers or
bit by bit, and the statements about them (O1, O2, O3, O4, O5).
-/

namespace Sys2Proof.Claims

open Sys2Proof.Machine

/-! ## What the forms commit -/

/-- A result of slot A, put and committed, is the one that the statements name (R32, R40). -/
theorem putA_commits (s : State) (lat : Nat) (d : Reg) (v : TVal) (fl : BitVec 7) :
    (s.putA lat d v fl).out = .next (commitsA s lat d v fl) := by
  rw [State.putA_out, destA_eq]; rfl

/-- An instruction that is an integer form of one source commits what its function gives. -/
theorem integerA1_of {lat : Nat} {mk : Reg → Reg → Instr} {f : BitVec 64 → BitVec 64} {R : BitVec 64 → BitVec 64 → Prop}
    (hR : ∀ x, R x (f x)) (he : ∀ d a s, exec (mk d a) s = (s.intA1 lat d a f).out := by intros; rfl) : IntegerA1 mk lat R := by
  intro s d a ha
  refine ⟨_, hR _, ?_⟩
  rw [he, State.intA1_out ha, destA_eq]
  rfl

/-- The same for a form of two sources. -/
theorem integerA2_of {lat : Nat} {mk : Reg → Reg → Reg → Instr} {f : BitVec 64 → BitVec 64 → BitVec 64}
    {R : BitVec 64 → BitVec 64 → BitVec 64 → Prop} (hR : ∀ x y, R x y (f x y))
    (he : ∀ d a b s, exec (mk d a b) s = (s.intA2 lat d a b f).out := by intros; rfl) : IntegerA2 mk lat R := by
  intro s d a b ha hb
  refine ⟨_, hR _ _, ?_⟩
  rw [he, State.intA2_out ha hb, destA_eq]
  rfl

/-! ## Words of the forms -/

/-- The map reads an instruction other than SWPT, without a breach, from the word that encodes it (R67). -/
theorem raw_of_encode {i : Instr} {sl : Slot} {w : BitVec 32} (he : encode i = some (sl, w)) (hi : ∀ n, i ≠ .swpt n) :
    raw sl w = .ok i [] := by
  have hs := stands_of_encode he
  cases hr : raw sl w with
  | bad c => rw [hr] at hs; exact hs.elim
  | ok j cs => rw [hr] at hs; obtain ⟨rfl, rfl⟩ := hs; rfl
  | swpt n cs => rw [hr] at hs; exact absurd hs.1.symm (hi n)

/-- The same for a form without a second source, whose place holds 23 (R70). -/
theorem raw_of_encode_unary {i : Instr} {x : BitVec 16} {c : BitVec 11} (he : encode i = some (.a, x ++ (23#5 ++ c)))
    (hi : ∀ n, i ≠ .swpt n) : raw .a (x ++ 23#5 ++ c) = .ok i [] := by
  have hassoc : x ++ 23#5 ++ c = x ++ (23#5 ++ c) := BitVec.append_assoc
  rw [hassoc]
  exact raw_of_encode he hi

/-! ## Shifts, rotates, lesser and greater (R125) -/

theorem shAmt_eq (y : BitVec 64) : shAmt y = y.toNat % 64 := by
  simp [shAmt]

theorem toNat_shiftLeft_mul (x : BitVec 64) (n : Nat) : (x <<< n).toNat = x.toNat * 2 ^ n % 2 ^ 64 := by
  rw [BitVec.toNat_shiftLeft, Nat.shiftLeft_eq]

theorem toNat_ushiftRight_div (x : BitVec 64) (n : Nat) : (x >>> n).toNat = x.toNat / 2 ^ n := by
  rw [BitVec.toNat_ushiftRight, Nat.shiftRight_eq_div_pow]

theorem toInt_sshiftRight_div (x : BitVec 64) (n : Nat) : (x.sshiftRight n).toInt = x.toInt / 2 ^ n := by
  rw [BitVec.toInt_sshiftRight, Int.shiftRight_eq_div_pow]; norm_cast

/-- A rotated bit comes from `n` places above, past the top from the bottom. -/
theorem getLsbD_rotateRight_mod {w : Nat} (x : BitVec w) (n : Nat) {i : Nat} (hi : i < w) :
    (x.rotateRight n).getLsbD i = x.getLsbD ((i + n) % w) := by
  have hn : n % w < w := Nat.mod_lt _ (by omega)
  have hmod : (i + n) % w = (i + n % w) % w := (Nat.add_mod_mod ..).symm
  rw [BitVec.getLsbD_rotateRight, hmod]
  generalize n % w = k at hn ⊢
  obtain h | h := Nat.lt_or_ge i (w - k)
  · rw [decide_eq_true h, cond_true, Nat.mod_eq_of_lt (by omega), Nat.add_comm]
  · rw [decide_eq_false (not_lt.2 h), cond_false, decide_eq_true hi, Bool.true_and, Nat.mod_eq_sub_mod (by omega),
      Nat.mod_eq_of_lt (by omega)]
    congr 1
    omega

theorem toInt_ite_sle (x y : BitVec 64) : (if x.sle y then x else y).toInt = min x.toInt y.toInt ∧
    (if x.sle y then y else x).toInt = max x.toInt y.toInt := by
  simp only [BitVec.sle, decide_eq_true_eq]
  split <;> constructor <;> omega

theorem toNat_ite_ule (x y : BitVec 64) : (if x.ule y then x else y).toNat = min x.toNat y.toNat ∧
    (if x.ule y then y else x).toNat = max x.toNat y.toNat := by
  simp only [BitVec.ule, decide_eq_true_eq]
  split <;> constructor <;> omega

theorem aluForms : AluForms := by
  refine ⟨integerA2_of BitVec.toNat_add, integerA2_of fun x y => ?_, integerA2_of fun x y i _ => BitVec.getLsbD_and,
    integerA2_of fun x y i _ => BitVec.getLsbD_or, integerA2_of fun x y i _ => ?_, integerA2_of fun x y i hi => ?_,
    integerA2_of fun x y => ?_, integerA2_of fun x y => ?_, integerA2_of fun x y => ?_, integerA2_of fun x y i hi => ?_,
    integerA2_of fun x y => (toInt_ite_sle x y).1, integerA2_of fun x y => (toInt_ite_sle x y).2,
    integerA2_of fun x y => (toNat_ite_ule x y).1, integerA2_of fun x y => (toNat_ite_ule x y).2⟩
  · rw [← BitVec.toNat_add, BitVec.sub_add_cancel]
  · simp
  · simp [hi]
  · rw [shAmt_eq, toNat_shiftLeft_mul]
  · rw [shAmt_eq, toNat_ushiftRight_div]
  · rw [shAmt_eq, toInt_sshiftRight_div]
  · rw [shAmt_eq, getLsbD_rotateRight_mod _ _ hi]

/-! ## Products (R126) -/

theorem highHalf_toNat (p : BitVec 128) : (highHalf p).toNat = p.toNat / 2 ^ 64 := by
  have := p.isLt
  rw [highHalf, BitVec.extractLsb'_toNat, Nat.shiftRight_eq_div_pow, Nat.mod_eq_of_lt (by omega)]

theorem highHalf_toInt (p : BitVec 128) : (highHalf p).toInt = p.toInt / 2 ^ 64 := by
  have := highHalf_toNat p
  have := p.isLt
  rw [BitVec.toInt_eq_toNat_cond, BitVec.toInt_eq_toNat_cond]
  split <;> split <;> omega

/-- The product of two 64-bit numbers fits 128 bits. -/
theorem toNat_mul_wide (x y : BitVec 64) : (x.setWidth 128 * y.setWidth 128).toNat = x.toNat * y.toNat := by
  have h := Nat.mul_lt_mul'' x.isLt y.isLt
  rw [BitVec.toNat_mul, BitVec.toNat_setWidth_of_le (by decide), BitVec.toNat_setWidth_of_le (by decide),
    Nat.mod_eq_of_lt (by omega)]

theorem toInt_mul_wide (x y : BitVec 64) : (x.signExtend 128 * y.signExtend 128).toInt = x.toInt * y.toInt := by
  have hx : |x.toInt| ≤ 2 ^ 63 := abs_le.2 ⟨x.le_toInt, x.toInt_lt.le⟩
  have hy : |y.toInt| ≤ 2 ^ 63 := abs_le.2 ⟨y.le_toInt, y.toInt_lt.le⟩
  have h : |x.toInt * y.toInt| ≤ 2 ^ 63 * 2 ^ 63 := by rw [abs_mul]; gcongr
  obtain ⟨hlo, hhi⟩ := abs_le.1 h
  rw [BitVec.toInt_mul, BitVec.toInt_signExtend_of_le (by decide), BitVec.toInt_signExtend_of_le (by decide)]
  exact Int.bmod_eq_of_le (by omega) (by omega)

/-- Settles O1: a product of 128 bits is exact, and its halves are its remainder and quotient by 2^64. -/
theorem SlotA.products : Obligations.Products := by
  unfold Obligations.Products
  refine ⟨fun d a b => ⟨raw_of_encode rfl nofun, raw_of_encode rfl nofun, raw_of_encode rfl nofun⟩,
    integerA2_of BitVec.toNat_mul, integerA2_of fun x y => ?_, integerA2_of fun x y => ?_⟩
  · rw [highHalf_toInt, toInt_mul_wide]
  · rw [highHalf_toNat, toNat_mul_wide]

/-! ## Immediates (R127) -/

theorem immediateForms : ImmediateForms := by
  refine ⟨fun v => ⟨integerA1_of fun x => ?_, integerA1_of fun x i hi => ?_, integerA1_of fun x i hi => ?_,
      integerA1_of fun x i hi => ?_, integerA1_of fun x => ?_,
      fun s d => ⟨v.signExtend 64, BitVec.toInt_signExtend_of_le (by decide), putA_commits ..⟩⟩,
    fun n => ⟨integerA1_of fun x => toNat_shiftLeft_mul .., integerA1_of fun x => toNat_ushiftRight_div ..,
      integerA1_of fun x => toInt_sshiftRight_div .., integerA1_of fun x i hi => getLsbD_rotateRight_mod _ _ hi⟩⟩
  · rw [BitVec.toInt_add, BitVec.toInt_signExtend_of_le (by decide)]
  · simp [hi]
  · simp [hi]
  · simp [hi]
  · rw [toNat_append_eq_add, BitVec.extractLsb'_toNat, Nat.shiftRight_zero]

/-- Settles O2, from the register forms and the immediate ones. -/
theorem integerForms : Obligations.IntegerForms := ⟨aluForms, immediateForms⟩

/-! ## Compares (R130) -/

theorem bit_eq_one {p : Bool} : bit p = 1 ↔ p = true := by cases p <;> simp [bit]
theorem bit_eq_zero {p : Bool} : bit p = 0 ↔ p = false := by cases p <;> simp [bit]

/-- Settles O4: each compare is the bit of a relation that is decided. -/
theorem integerCompares : Obligations.IntegerCompares := by
  unfold Obligations.IntegerCompares
  refine ⟨fun d a b => ⟨raw_of_encode rfl nofun, raw_of_encode rfl nofun, raw_of_encode rfl nofun, raw_of_encode rfl nofun,
      raw_of_encode rfl nofun, raw_of_encode rfl nofun⟩,
    integerA2_of fun x y => ?_, integerA2_of fun x y => ?_, integerA2_of fun x y => ?_, integerA2_of fun x y => ?_,
    integerA2_of fun x y => ?_, integerA2_of fun x y => ?_⟩
  all_goals rw [bit_eq_one, bit_eq_zero]
  · simp
  · simp
  · simp [BitVec.slt]
  · simp [BitVec.sle]
  · simp [BitVec.ult]
  · simp [BitVec.ule]

/-! ## Bit fields (R128) -/

theorem fieldW_eq (y : BitVec 64) : fieldW y = y.toNat / 256 % 64 := by
  simp [fieldW, Nat.shiftRight_eq_div_pow]

theorem getLsbD_lowMask {n i : Nat} (hi : i < 64) : (lowMask n).getLsbD i = decide (i < n) := by
  rw [lowMask, BitVec.getLsbD_ofNat, Nat.testBit_two_pow_sub_one, decide_eq_true hi, Bool.true_and]

/-- A field is the shifted source, cut to the field's width. -/
theorem extField_eq_setWidth (x : BitVec 64) (w1 pos : Nat) :
    extField x w1 pos = ((x >>> pos).setWidth (w1 + 1)).setWidth 64 := by
  refine BitVec.eq_of_getLsbD_eq fun i hi => ?_
  rw [extField, BitVec.getLsbD_and, getLsbD_lowMask hi]
  simp [hi, Bool.and_comm]

theorem extField_toNat {w1 : Nat} (hw : w1 < 64) (x : BitVec 64) (pos : Nat) :
    (extField x w1 pos).toNat = field x pos (w1 + 1) := by
  rw [extField_eq_setWidth, BitVec.toNat_setWidth_of_le (by omega), BitVec.toNat_setWidth, toNat_ushiftRight_div, field]

/-- A signed field is the cut source, sign-extended from the field's width. -/
theorem extSigned_eq_signExtend {w1 : Nat} (hw : w1 < 64) (x : BitVec 64) (pos : Nat) :
    extSigned x w1 pos = ((x >>> pos).setWidth (w1 + 1)).signExtend 64 := by
  refine BitVec.eq_of_getLsbD_eq fun i hi => ?_
  rw [extSigned, extField_eq_setWidth, BitVec.getLsbD_signExtend, BitVec.msb_eq_getLsbD_last, Nat.add_sub_cancel]
  generalize (x >>> pos).setWidth (w1 + 1) = t
  have hsign : (t.setWidth 64).getLsbD w1 = t.getLsbD w1 := by simp [hw]
  have hhigh : w1 + 1 ≤ i → t.getLsbD i = false := t.getLsbD_of_ge i
  simp only [hsign]
  split
  next hneg =>
    rw [BitVec.getLsbD_or, BitVec.getLsbD_not, getLsbD_lowMask hi, hneg]
    by_cases h : i < w1 + 1 <;> simp [hi, h]
  next hpos =>
    rw [Bool.not_eq_true] at hpos
    by_cases h : i < w1 + 1
    · simp [hi, h]
    · rw [if_neg h, hpos, BitVec.getLsbD_setWidth, hhigh (by omega), Bool.and_false]

theorem toInt_eq_signedField {n : Nat} (x : BitVec (n + 1)) : x.toInt = signedField (n + 1) x.toNat := by
  have hp : 2 ^ (n + 1) = 2 * 2 ^ n := Nat.pow_succ'
  rw [BitVec.toInt_eq_toNat_cond, signedField, Nat.add_sub_cancel, hp]
  push_cast
  split <;> split <;> omega

theorem extSigned_toInt {w1 : Nat} (hw : w1 < 64) (x : BitVec 64) (pos : Nat) :
    (extSigned x w1 pos).toInt = signedField (w1 + 1) (field x pos (w1 + 1)) := by
  rw [extSigned_eq_signExtend hw, BitVec.toInt_signExtend_of_le (by omega), toInt_eq_signedField, BitVec.toNat_setWidth,
    toNat_ushiftRight_div, field]

theorem inserted_insField (x z : BitVec 64) (w1 pos : Nat) : Inserted x z (insField x z w1 pos) pos (w1 + 1) := by
  intro j hj
  simp only [insField, BitVec.getLsbD_or, BitVec.getLsbD_and, BitVec.getLsbD_not, BitVec.getLsbD_shiftLeft, hj, decide_true,
    Bool.true_and]
  rw [getLsbD_lowMask (by omega)]
  obtain h | h := Nat.lt_or_ge j pos
  · simp [h]
  · have hin : j - pos < w1 + 1 ↔ j < pos + (w1 + 1) := by omega
    by_cases h' : j < pos + (w1 + 1) <;> simp [hin, h, h', Nat.not_lt.2 h]

theorem bitfields : Bitfields := by
  refine ⟨integerA2_of fun x y => ?_, integerA2_of fun x y => ?_, fun s d a b ha hb hd =>
      ⟨insField (s.thr.readA a).val (s.thr.readA d).val (fieldW (s.thr.readA b).val) (shAmt (s.thr.readA b).val), ?_, ?_⟩,
    fun w p => ⟨integerA1_of fun x => extSigned_toInt w.isLt .., integerA1_of fun x => extField_toNat w.isLt .., fun s d a ha hd =>
      ⟨insField (s.thr.readA a).val (s.thr.readA d).val w.toNat p.toNat, inserted_insField _ _ _ _, ?_⟩⟩⟩
  · rw [fieldW_eq, shAmt_eq, extSigned_toInt (by omega)]
  · rw [fieldW_eq, shAmt_eq, extField_toNat (by omega)]
  · rw [fieldW_eq, shAmt_eq]
    exact inserted_insField _ _ _ _
  · show (s.intA3 1 d a b fun x y z => insField x z (fieldW y) (shAmt y)).out = _
    rw [State.intA3_out ha hb hd, destA_eq]
    rfl
  · show (s.intA2 1 d a d fun x z => insField x z w.toNat p.toNat).out = _
    rw [State.intA2_out ha hd, destA_eq]
    rfl

/-! ## Selection and tags (R131, R132) -/

theorem selectAndTags : SelectAndTags := by
  refine ⟨fun s d a b ha hb hd => ?_, fun s d a ha => ?_⟩
  · show (s.needs [s.srcA a, s.srcA b, s.srcA d] (s.putA 1 d _)).out = _
    rw [State.needs_go (by simpa [State.srcA] using ⟨ha, hb, hd⟩), putA_commits]
    rfl
  · have hgo {k : SlotOut} : s.needs [s.srcA a] k = k := State.needs_go (by simpa [State.srcA] using ha)
    constructor
    · show (s.needs _ (s.putA 1 d _)).out = _
      rw [hgo, putA_commits]
      rfl
    · show (s.needs _ (s.putA 1 d _)).out = _
      rw [hgo, putA_commits]
      rfl

/-- Settles O5, from the bit fields and from SEL and the tag forms. -/
theorem fieldAndTagForms : Obligations.FieldAndTagForms := ⟨bitfields, selectAndTags⟩

/-! ## Bit counts (R129) -/

/-- The highest one of a number other than zero stands below its leading zeros. -/
theorem clz64_bounds {x : BitVec 64} (hx : x ≠ 0) :
    clz64 x < 64 ∧ 2 ^ (63 - clz64 x) ≤ x.toNat ∧ x.toNat < 2 ^ (64 - clz64 x) := by
  have hn : x.toNat ≠ 0 := BitVec.toNat_eq_nat.not.2 (by simpa using hx)
  have hlog : x.toNat.log2 < 64 := (Nat.log2_lt hn).2 x.isLt
  have h63 : 63 - clz64 x = x.toNat.log2 := by rw [clz64, if_neg hx]; omega
  have h64 : 64 - clz64 x = x.toNat.log2 + 1 := by rw [clz64, if_neg hx]; omega
  rw [h63, h64]
  exact ⟨by omega, Nat.log2_self_le hn, Nat.lt_log2_self⟩

/-- A power of two divides a number whose lower bits are clear. -/
theorem two_pow_dvd_iff (x k : Nat) : 2 ^ k ∣ x ↔ ∀ i < k, x.testBit i = false := by
  rw [Nat.dvd_iff_mod_eq_zero]
  constructor
  · intro h i hi
    have hbit := Nat.testBit_mod_two_pow x k i
    simpa [h, hi] using hbit
  · intro h
    refine Nat.eq_of_testBit_eq fun i => ?_
    rw [Nat.testBit_mod_two_pow, Nat.zero_testBit]
    by_cases hi : i < k <;> simp [hi, h]

/-- The bit at the count of trailing zeros is the lowest one. -/
theorem ctz64_cases (x : BitVec 64) : (x = 0 ∧ ctz64 x = 64) ∨
    (ctz64 x < 64 ∧ x.getLsbD (ctz64 x) = true ∧ ∀ i < ctz64 x, x.getLsbD i = false) := by
  unfold ctz64 lowLane
  cases h : (List.range 64).find? fun i => x.getLsbD i with
  | none =>
    rw [List.find?_eq_none] at h
    exact .inl ⟨BitVec.eq_of_getLsbD_eq fun i hi => by simpa [hi] using h i (List.mem_range.2 hi), rfl⟩
  | some n =>
    rw [List.find?_range_eq_some] at h
    obtain ⟨hset, hlt, hclear⟩ := h
    exact .inr ⟨by simpa using hlt, hset, fun i hi => by simpa using hclear i hi⟩

theorem length_filter_range (p : Nat → Bool) (n : Nat) :
    ((List.range n).filter p).length = ∑ i ∈ Finset.range n, (p i).toNat := by
  induction n with
  | zero => rfl
  | succ n ih =>
    rw [List.range_succ, List.filter_append, List.length_append, ih, Finset.sum_range_succ]
    cases h : p n <;> simp [h]

/-- After the lowest `n` bits, their mirror images stand in the result. -/
theorem getLsbD_foldl_mirror (x : BitVec 64) {j n : Nat} (hj : j < 64) (hn : n ≤ 64) :
    ((List.range n).foldl (fun r i => if x.getLsbD i then r ||| (1#64 <<< (63 - i)) else r) 0).getLsbD j =
      (decide (63 - j < n) && x.getLsbD (63 - j)) := by
  induction n with
  | zero => simp
  | succ n ih =>
    have hbit : (1#64 <<< (63 - n)).getLsbD j = decide (63 - j = n) := by
      rw [← BitVec.twoPow_eq, BitVec.getLsbD_twoPow, decide_eq_true (by omega), Bool.true_and, decide_eq_decide]
      omega
    have hnext : decide (63 - j < n + 1) = (decide (63 - j < n) || decide (63 - j = n)) := by
      rw [← Bool.decide_or, decide_eq_decide]; omega
    rw [List.range_succ, List.foldl_append, List.foldl_cons, List.foldl_nil, hnext, Bool.and_or_distrib_right, ← ih (by omega)]
    by_cases hj' : 63 - j = n
    · subst hj'
      cases hx : x.getLsbD (63 - j) <;> simp [hbit]
    · cases hx : x.getLsbD n <;> simp [hbit, hj']

theorem getLsbD_brev64 (x : BitVec 64) {j : Nat} (hj : j < 64) : (brev64 x).getLsbD j = x.getLsbD (63 - j) := by
  rw [brev64, getLsbD_foldl_mirror x hj le_rfl, decide_eq_true (by omega), Bool.true_and]

/-- Settles O3, from the places of the highest and the lowest one, a sum over the bits, and their mirror images. -/
theorem bitCounts : Obligations.BitCounts := by
  unfold Obligations.BitCounts
  refine ⟨fun d a => ⟨raw_of_encode_unary rfl nofun, raw_of_encode_unary rfl nofun, raw_of_encode_unary rfl nofun,
      raw_of_encode_unary rfl nofun⟩,
    integerA1_of fun x => ⟨fun hx => ?_, fun hx => ?_⟩, integerA1_of fun x => ?_, integerA1_of fun x => ?_,
    integerA1_of fun x i hi => ?_⟩
  · rw [clz64, if_pos hx]; rfl
  · have h := clz64_bounds hx
    rwa [BitVec.toNat_ofNat, Nat.mod_eq_of_lt (by omega)]
  · obtain ⟨hx, h⟩ | ⟨hlt, hset, hclear⟩ := ctz64_cases x
    · exact ⟨fun _ => by rw [h]; rfl, fun hne => absurd hx hne⟩
    · rw [BitVec.toNat_ofNat, Nat.mod_eq_of_lt (by omega), two_pow_dvd_iff, two_pow_dvd_iff]
      refine ⟨?_, fun _ => ⟨hclear, fun h => ?_⟩⟩
      · rintro rfl
        simp at hset
      · exact Bool.noConfusion (hset.symm.trans (h _ (Nat.lt_succ_self _)))
  · have hle : popc64 x ≤ 64 := by simpa [popc64] using List.length_filter_le (fun i => x.getLsbD i) (List.range 64)
    rw [BitVec.toNat_ofNat, Nat.mod_eq_of_lt (by omega), popc64, length_filter_range]
  · rw [getLsbD_brev64 x (by omega)]
    congr 1
    omega

end Sys2Proof.Claims
end

section
/-!
PROOF. Slot A's control transfers (R135-R139): their targets and links as numbers, what each form does with a clean, a deferred and a
poison operand, and the statement about them (O8).
-/

namespace Sys2Proof.Claims

open Sys2Proof.Machine

/-! ## Targets and links -/

/-- A relative target is a sum modulo 2^52 (R136). -/
theorem relTarget_eq (s : State) (o : BitVec 21) : s.relTarget o = relative s o := by
  refine BitVec.eq_of_toInt_eq ?_
  rw [State.relTarget, relative, BitVec.toInt_ofInt, BitVec.toInt_add, BitVec.toInt_signExtend_of_le (by decide),
    BitVec.toInt_eq_toNat_bmod, Int.bmod_add_bmod]

theorem link_eq (s : State) : s.link = linkOf s := by
  have h : ((s.thr.pc + 4).setWidth 64 : BitVec 64) = BitVec.ofNat 64 ((s.thr.pc.toNat + 4) % 2 ^ 52) := by
    refine BitVec.eq_of_toNat_eq ?_
    rw [BitVec.toNat_setWidth, BitVec.toNat_add, BitVec.toNat_ofNat]; rfl
  rw [State.link, h]; rfl

/-- The bits above a target are clear below 2^52 (R138). -/
theorem extractLsb'_target_eq_zero (x : BitVec 64) : x.extractLsb' 52 12 = 0 ↔ x.toNat < 2 ^ 52 := by
  have hlt := x.isLt
  rw [← BitVec.toNat_inj, BitVec.extractLsb'_toNat, Nat.shiftRight_eq_div_pow]
  show x.toNat / 2 ^ 52 % 2 ^ 12 = 0 ↔ _
  omega

/-! ## One operand that must be clean (R138) -/

section Operand
variable {s : State} {t : Reg} {c : BitVec 8} {k : SlotOut}

theorem needsClean_clean (h : (s.thr.readA t).tag = 0) : s.needsClean c [s.srcA t] k = k :=
  State.needsClean_go (by simpa [State.srcA] using h)

theorem needsClean_deferred (h : (s.thr.readA t).tag = 1) :
    (s.needsClean c [s.srcA t] k).out = .next (traps s 0x03 (t.setWidth 64)) := by
  have hfirst : firstTag TVal.deferred [s.srcA t] = some t := if_pos (decide_eq_true h)
  rw [State.needsClean, State.needs_stop hfirst]
  rfl

theorem needsClean_bad (h : bad (s.thr.readA t) = true) :
    (s.needsClean c [s.srcA t] k).out = .next (traps s c (t.setWidth 64)) := by
  have hne : (s.thr.readA t).tag ≠ 1 := fun h1 => by simp [bad, h1] at h
  have hfirst : firstTag TVal.poison [s.srcA t] = some t := if_pos h
  rw [State.needsClean, State.needs_go (by simpa [State.srcA] using hne), hfirst]
  rfl

end Operand

/-! ## Jumps to a register (R137, R138) -/

section Jump
variable {s : State} {a : Reg} {k : State → SlotOut}

theorem jump_target (h : (s.thr.readA a).tag = 0) (hlt : (s.thr.readA a).val.toNat < 2 ^ 52) :
    s.jump a k = k (redirected s ((s.thr.readA a).val.setWidth 52)) := by
  show s.needsClean 0x04 [s.srcA a] _ = _
  rw [needsClean_clean h, if_neg (not_not.2 ((extractLsb'_target_eq_zero _).2 hlt))]
  rfl

theorem jump_beyond (h : (s.thr.readA a).tag = 0) (hge : 2 ^ 52 ≤ (s.thr.readA a).val.toNat) :
    (s.jump a k).out = .next (traps s 0x06 (s.thr.readA a).val) := by
  show (s.needsClean 0x04 [s.srcA a] _).out = _
  rw [needsClean_clean h, if_pos fun h0 => absurd ((extractLsb'_target_eq_zero _).1 h0) (not_lt.2 hge)]
  rfl

end Jump

/-! ## The statement -/

theorem transfers : Transfers := by
  intro s o t d a
  have htarget : s.transfer (s.relTarget o) = redirected s (relative s o) := by rw [relTarget_eq]; rfl
  refine ⟨?_, fun ht => ⟨?_, ?_⟩, ?_, ?_, fun ha hlt => ⟨?_, ?_, ?_⟩, rfl⟩
  · show execBr o s = _
    rw [execBr, htarget]; rfl
  · show execBrz t o s = _
    rw [execBrz, needsClean_clean ht, htarget]; rfl
  · show execBrnz t o s = _
    rw [execBrnz, needsClean_clean ht, htarget, ite_not]; rfl
  · show execCall t o s = _
    rw [execCall, putA_commits, htarget, link_eq]
  · show execChk t o s = _
    simp only [execChk, htarget, TVal.deferred_eq, decide_eq_true_eq]; rfl
  · show (s.jump a .done).out = _
    rw [jump_target ha hlt]; rfl
  · show (s.jump a .done).out = _
    rw [jump_target ha hlt]; rfl
  · show (s.jump a fun u => u.putA 1 d s.link).out = _
    rw [jump_target ha hlt, putA_commits, link_eq]

/-- Each of these forms begins with the check of its operand. -/
theorem transferTraps : TransferTraps := fun _ _ _ _ _ =>
  ⟨fun h => ⟨needsClean_deferred h, needsClean_deferred h, needsClean_deferred h, needsClean_deferred h, needsClean_deferred h⟩,
    fun h => ⟨needsClean_bad h, needsClean_bad h, needsClean_bad h, needsClean_bad h, needsClean_bad h⟩,
    fun h hge => ⟨jump_beyond h hge, jump_beyond h hge, jump_beyond h hge⟩⟩

/-- Settles O8, from the transfers that are taken or not and from those that trap. -/
theorem controlTransfers : Obligations.ControlTransfers := ⟨transfers, transferTraps⟩

end Sys2Proof.Claims
end

section
/-!
PROOF. The range of a format and the flags of a rounding (R108, R109): which codes the modes reach, the largest finite magnitude and the
smallest normal one as numbers, and where OF, UF and NX stand.
-/

namespace Sys2Proof.Claims

open Sys2Proof.Machine

variable {f : FFmt}

/-! ## The codes that the modes reach (R104) -/

/-- Whether a mode takes a magnitude beyond the largest finite one to infinity (R108). -/
def away (r : BitVec 2) (neg : Bool) : Bool := r = 0 || (if neg then r = 3 else r = 2)

theorem eq_mode (r : BitVec 2) : r = 0 ∨ r = 1 ∨ r = 2 ∨ r = 3 := by
  revert r; decide

/-- A directed mode goes outward where it goes away from zero, and inward elsewhere. -/
theorem chosen_of_not_nearest {r : BitVec 2} (hr : r ≠ 0) (neg : Bool) (lo rem sh : Nat) :
    chosen (rmode r) neg lo rem sh = if away r neg then if rem = 0 then lo else lo + 1 else lo := by
  obtain rfl | rfl | rfl | rfl := eq_mode r
  · exact absurd rfl hr
  · exact (chosen_rz ..).trans (by cases neg <;> rfl)
  · exact (chosen_rp ..).trans (by cases neg <;> rfl)
  · exact (chosen_rm ..).trans (by cases neg <;> rfl)

section Codes
variable {x part : ℚ} {lo rem sh : Nat} (hx : Between f x lo rem sh part)
include hx

/-- Inward, a code is reached from its magnitude on. -/
theorem Between.le_lower_iff (c : Nat) : c ≤ lo ↔ f.mag c ≤ x :=
  ⟨fun h => (f.mag_strictMono.monotone h).trans hx.lower_le,
    fun h => Nat.le_of_lt_succ (f.mag_strictMono.lt_iff_lt.1 (h.trans_lt hx.lt_next))⟩

/-- Outward, the code above another one is reached beyond the other one's magnitude. -/
theorem Between.lt_outward_iff (c : Nat) : c < (if rem = 0 then lo else lo + 1) ↔ f.mag c < x := by
  split
  next h => rw [← hx.lower_eq_iff.2 h, f.mag_strictMono.lt_iff_lt]
  next h =>
    have hlo : f.mag lo < x := lt_of_le_of_ne hx.lower_le (hx.lower_eq_iff.not.2 h)
    rw [Nat.lt_succ_iff]
    exact ⟨fun hc => (f.mag_strictMono.monotone hc).trans_lt hlo, fun hc => (hx.le_lower_iff c).2 hc.le⟩

/-- To nearest, the code above an odd one is reached from halfway on: a tie goes to the even one. -/
theorem Between.lt_nearest_iff {c : Nat} (hc : c % 2 = 1) (neg : Bool) :
    c < chosen .rn neg lo rem sh ↔ f.mag c + (f.mag (c + 1) - f.mag c) / 2 ≤ x := by
  have hlow := hx.lower_le
  have hnext := hx.lt_next
  have hc1 : f.mag c < f.mag (c + 1) := f.mag_strictMono c.lt_succ_self
  have hrange : lo ≤ chosen .rn neg lo rem sh ∧ chosen .rn neg lo rem sh ≤ lo + 1 := by unfold chosen; split <;> omega
  obtain h | rfl | h := Nat.lt_trichotomy c lo
  · have hle : f.mag (c + 1) ≤ f.mag lo := f.mag_strictMono.monotone h
    exact iff_of_true (by omega) (by linarith)
  · rw [hx.chosen_rn]
    split
    next hup => exact iff_of_true c.lt_succ_self (by obtain h | ⟨h, -⟩ := hup <;> linarith)
    next hdown =>
      rw [not_or, not_and'] at hdown
      obtain ⟨hge, hne⟩ := hdown
      exact iff_of_false (lt_irrefl c) fun hle => hne hc (by linarith)
  · have hle : f.mag (lo + 1) ≤ f.mag c := f.mag_strictMono.monotone h
    exact iff_of_false (by omega) (by linarith)

end Codes

/-! ## The largest finite magnitude and the smallest normal one (R96) -/

/-- The greatest exponent of a format. -/
def emax (f : FFmt) : Int := 2 ^ (f.eb - 1) - 1

theorem bias_eq (f : FFmt) : (f.bias : Int) = emax f := by
  rw [FFmt.bias, emax]
  push_cast [Nat.one_le_two_pow (n := f.eb - 1)]
  rfl

theorem mag_smallest_normal (f : FFmt) : f.mag (2 ^ f.mb) = 2 ^ (1 - emax f) := by
  have h := FFmt.mag_scaled (f := f) (k := 0) (b := 2 ^ f.mb) (Nat.pow_le_pow_right (by omega) (by omega)) (.inl rfl)
  rw [Nat.zero_mul, Nat.zero_add] at h
  rw [h, ← bias_eq, FFmt.least]
  push_cast
  rw [← zpow_natCast, ← zpow_add₀ two_ne_zero]
  congr 1
  omega

/-- The infinity's code, as one that carries out of the greatest exponent. -/
theorem infCode_eq (he : 2 ≤ f.eb) : f.infCode = (2 ^ f.eb - 3) * 2 ^ f.mb + 2 ^ (f.mb + 1) := by
  have h4 : 4 ≤ 2 ^ f.eb := Nat.pow_le_pow_right (n := 2) (by omega) he
  obtain ⟨k, hk⟩ := Nat.exists_eq_add_of_le h4
  have h1 : 4 + k - 1 = k + 3 := by omega
  have h3 : 4 + k - 3 = k + 1 := by omega
  rw [FFmt.infCode, hk, h1, h3, Nat.pow_succ]
  ring

theorem top_exponent (he : 2 ≤ f.eb) : ((2 ^ f.eb - 3 : Nat) : Int) + f.least = emax f - f.mb := by
  obtain ⟨k, hk⟩ := Nat.exists_eq_add_of_le' he
  have h4 : 2 ^ f.eb = 4 * 2 ^ k := by rw [hk, Nat.pow_add]; omega
  have h2 : (2 : Int) ^ (f.eb - 1) = 2 * 2 ^ k := by rw [hk, show k + 2 - 1 = k + 1 by omega, pow_succ']
  have hpos := Nat.two_pow_pos k
  rw [FFmt.least, bias_eq, emax, h2, h4]
  zify [show 3 ≤ 4 * 2 ^ k by omega]
  ring

theorem mag_infCode (he : 2 ≤ f.eb) : f.mag f.infCode = 2 ^ (emax f + 1) := by
  rw [infCode_eq he, FFmt.mag_scaled le_rfl (.inr (Nat.pow_le_pow_right (by omega) (by omega))), top_exponent he]
  push_cast
  rw [← zpow_natCast, ← zpow_add₀ two_ne_zero]
  congr 1
  push_cast
  ring

/-- The largest finite code has a full mantissa and stands just below the infinity's. -/
theorem maxCode_eq (h : PlainIeee f) (he : 2 ≤ f.eb) :
    f.maxCode = (2 ^ f.eb - 3) * 2 ^ f.mb + (2 ^ (f.mb + 1) - 1) ∧ f.maxCode + 1 = f.infCode ∧ f.maxCode % 2 = 1 := by
  have hmax : f.maxCode = f.infCode - 1 := by rw [FFmt.maxCode, h.style, FFmt.infCode]
  have hpos := Nat.two_pow_pos (f.mb + 1)
  have heven : f.infCode % 2 = 0 :=
    Nat.mod_eq_zero_of_dvd (Dvd.dvd.mul_left (dvd_pow_self 2 (by have := h.mantissa; omega)) _)
  rw [infCode_eq he] at hmax heven ⊢
  omega

theorem mag_maxCode (h : PlainIeee f) (he : 2 ≤ f.eb) : f.mag f.maxCode = (2 ^ (f.mb + 1) - 1) * 2 ^ (emax f - f.mb) := by
  have hpow : 2 ^ (f.mb + 1) = 2 * 2 ^ f.mb := Nat.pow_succ'
  have hpos := Nat.two_pow_pos f.mb
  rw [(maxCode_eq h he).1, FFmt.mag_scaled (Nat.sub_le ..) (.inr (by omega)), top_exponent he]
  push_cast [Nat.one_le_two_pow]
  rfl

/-- Half of the last step before the infinity. -/
theorem half_last_step (h : PlainIeee f) (he : 2 ≤ f.eb) :
    (f.mag f.infCode - f.mag f.maxCode) / 2 = 2 ^ (emax f - f.mb - 1) := by
  have hinf : (2 : ℚ) ^ (emax f + 1) = 2 ^ (f.mb + 1) * 2 ^ (emax f - f.mb) := by
    rw [← zpow_natCast, ← zpow_add₀ two_ne_zero]
    congr 1
    push_cast
    ring
  rw [mag_infCode he, mag_maxCode h he, hinf, zpow_sub_one₀ two_ne_zero]
  ring

/-- Where the chosen code lies beyond the largest finite one (R108). -/
theorem maxCode_lt_chosen_iff (h : PlainIeee f) (he : 2 ≤ f.eb) {x part : ℚ} {lo rem sh : Nat} (hx : Between f x lo rem sh part)
    (r : BitVec 2) (neg : Bool) : f.maxCode < chosen (rmode r) neg lo rem sh ↔
      if r = 0 then f.mag f.maxCode + 2 ^ (emax f - f.mb - 1) ≤ x
      else if away r neg then f.mag f.maxCode < x else (2 : ℚ) ^ (emax f + 1) ≤ x := by
  obtain ⟨-, hsucc, hodd⟩ := maxCode_eq h he
  split
  next hr =>
    subst hr
    rw [← half_last_step h he, ← hsucc]
    exact hx.lt_nearest_iff hodd neg
  next hr =>
    rw [chosen_of_not_nearest hr]
    split
    next => exact hx.lt_outward_iff _
    next =>
      rw [← mag_infCode he, ← hsucc]
      exact hx.le_lower_iff _

/-! ## The flags of a delivered result (R108, R109) -/

theorem overflow_eq (h : PlainIeee f) (he : 2 ≤ f.eb) (r : BitVec 2) (neg : Bool) :
    f.overflow (rmode r) neg = (if away r neg then infinity f neg else infinity f neg - 1, flOF ||| flNX) := by
  obtain ⟨-, hsucc, -⟩ := maxCode_eq h he
  have hmax : f.sign neg f.maxCode = infinity f neg - 1 := by
    rw [← sign_infCode, ← hsucc, FFmt.sign, FFmt.sign, ← Nat.add_assoc, Nat.add_sub_cancel]
  rw [← hmax, ← sign_infCode]
  obtain rfl | rfl | rfl | rfl := eq_mode r <;> cases neg <;> simp [FFmt.overflow, h.style, rmode, away]

/-- Without an overflow, NX tells of a cut and UF of one below the smallest normal. -/
theorem packed_flags {mode : RMode} {neg : Bool} {code rem : Nat} (hle : ¬f.maxCode < code) :
    (packed f mode neg code rem).2 = if rem = 0 then 0 else if code < 2 ^ f.mb then flUF ||| flNX else flNX := by
  rw [packed, if_neg hle]
  by_cases hr : rem = 0 <;> by_cases hc : code < 2 ^ f.mb <;> simp [hr, hc, BitVec.or_comm]

theorem packed_overflow_iff (f : FFmt) (mode : RMode) (neg : Bool) (code rem : Nat) :
    (packed f mode neg code rem).2.getLsbD 2 = true ↔ f.maxCode < code := by
  by_cases h : f.maxCode < code
  · simp [packed, FFmt.overflow, flOF, flNX, h]
  · rw [packed_flags h]
    refine iff_of_false ?_ h
    split
    · decide
    · split <;> decide

theorem two_le_eb_of_mem (hf : f ∈ [fp64, fp32, fp16, bf16]) : 2 ≤ f.eb := by
  simp only [List.mem_cons, List.not_mem_nil, or_false] at hf
  obtain rfl | rfl | rfl | rfl := hf <;> decide

theorem rangeFlags : RangeFlags := by
  intro f hf r neg m e hm
  obtain ⟨hplain, heb⟩ := plainIeee_of_mem hf
  have he := two_le_eb_of_mem hf
  obtain ⟨lo, rem, sh, part, hx, hround⟩ := exists_between hplain (e := e) hm
  have hover := maxCode_lt_chosen_iff hplain he hx r neg
  rw [mag_maxCode hplain he] at hover
  rw [hround]
  refine ⟨(packed_overflow_iff ..).trans hover, fun hof => ?_, fun hof y hy => ?_⟩
  · rw [packed, if_pos ((packed_overflow_iff ..).1 hof), overflow_eq hplain he]
    rfl
  · obtain ⟨hfinite, hcode, -⟩ := packed_of_not_overflow hplain heb hof
    obtain ⟨k, g, hunpack, hval⟩ := unpack_sign (neg := neg) hplain hfinite
    rw [hcode, hunpack] at hy
    obtain rfl : rat neg k g = y := Option.some.inj hy
    rw [packed_flags ((packed_overflow_iff ..).not.1 (by rw [hof]; decide))]
    have hexact : rat neg k g = rat neg m e ↔ rem = 0 := by
      rw [hval, rat_signed neg m e, mul_right_inj' (signFactor_ne_zero neg), ← not_iff_not]
      exact hx.chosen_ne_iff (rmode r) neg
    have htiny : |rat neg k g| < 2 ^ (1 - emax f) ↔ chosen (rmode r) neg lo rem sh < 2 ^ f.mb := by
      rw [hval, abs_signFactor_mul, abs_of_nonneg (f.mag_nonneg _), ← mag_smallest_normal, f.mag_strictMono.lt_iff_lt]
    simp only [← hexact, ← htiny]
    rfl

end Sys2Proof.Claims
end

section
/-!
PROOF. Slot A's floating-point forms (R99, R105, R107, R122, R124, R133, R134): what the forms commit, products and fused operations,
compares and signs of codes, conversions, and the statement about them (O7).
-/

namespace Sys2Proof.Claims

open Sys2Proof.Machine

/-! ## What the forms commit (R122) -/

theorem commitsA_result (s : State) (f : FFmt) (lat : Nat) (d : Reg) (poison : Bool) (r : FRes) :
    commitsA s lat d (f.result poison r).1 (f.result poison r).2 = commitsFloat s f lat d poison r := by
  cases poison <;> rfl

theorem putA_result (s : State) (f : FFmt) (lat : Nat) (d : Reg) (poison : Bool) (r : FRes) :
    (s.putA lat d (f.result poison r).1 (f.result poison r).2).out = .next (commitsFloat s f lat d poison r) := by
  rw [putA_commits, commitsA_result]

section Forms
variable {f : FFmt}

/-- An instruction that is a form of two values commits what its function makes of them. -/
theorem floatA2_of {mk : Reg → Reg → Reg → Instr} {op : FVal → FVal → FRes} {R : FVal → FVal → FRes → Prop}
    (hR : ∀ x y, R x y (op x y)) (he : ∀ d a b s, exec (mk d a b) s = (s.fpA2 f d a b op).out) : FloatA2 mk f f.latency R := by
  intro s d a b ha hb
  refine ⟨_, hR _ _, ?_⟩
  rw [he, State.fpA2, State.needs_go (by simpa using ⟨ha, hb⟩), putA_result]
  rfl

/-- The same for a form of two codes. -/
theorem floatCodes2_of {mk : Reg → Reg → Reg → Instr} {op : Nat → Nat → FRes} {R : Nat → Nat → FRes → Prop}
    (hR : ∀ x y, R x y (op x y)) (he : ∀ d a b s, exec (mk d a b) s =
      (s.fpA2 f d a b fun _ _ => op (f.code (s.thr.readA a)) (f.code (s.thr.readA b))).out) : FloatCodes2 mk f f.latency R := by
  intro s d a b ha hb
  refine ⟨_, hR _ _, ?_⟩
  rw [he, State.fpA2, State.needs_go (by simpa using ⟨ha, hb⟩), putA_result]
  rfl

/-- A form of one code. -/
theorem exec_fpA1 {mk : Reg → Reg → Instr} (op : Nat → FRes) {s : State} {d a : Reg} (ha : (s.thr.readA a).tag ≠ 1)
    (he : exec (mk d a) s = (s.fpA1 f d a op).out) : exec (mk d a) s = .next
      (commitsFloat s f f.latency d (source f (s.thr.readA a)).isPoison (op ((s.thr.readA a).val.toNat % 2 ^ f.width))) := by
  rw [he, State.fpA1, State.needs_go (by simpa using ha), putA_result]
  rfl

/-- The fused form, which reads its destination. -/
theorem exec_fma {mk : Reg → Reg → Reg → BitVec 2 → Instr} {r : BitVec 2} {s : State} {d a b : Reg}
    (ha : (s.thr.readA a).tag ≠ 1) (hb : (s.thr.readA b).tag ≠ 1) (hd : (s.thr.readA d).tag ≠ 1)
    (he : exec (mk d a b r) s = fFma f d a b r s) : exec (mk d a b r) s = .next (commitsFloat s f f.latency d
      ((source f (s.thr.readA a)).isPoison || (source f (s.thr.readA b)).isPoison || (source f (s.thr.readA d)).isPoison)
      (f.fmaV (rmode r) (source f (s.thr.readA d)) (source f (s.thr.readA a)) (source f (s.thr.readA b)))) := by
  rw [he, fFma, State.fpA3, State.needs_go (by simpa using ⟨ha, hb, hd⟩), putA_result]
  rfl

end Forms

/-! ## Products and fused operations (R105) -/

theorem rat_mul (a b : Bool) (m n : Nat) (e d : Int) : rat a m e * rat b n d = rat (a != b) (m * n) (e + d) := by
  have hsign : signFactor a * signFactor b = signFactor (a != b) := by cases a <;> cases b <;> simp
  show signFactor a * m * 2 ^ e * (signFactor b * n * 2 ^ d) = signFactor (a != b) * (m * n : Nat) * 2 ^ (e + d)
  rw [← hsign, zpow_add₀ two_ne_zero, Nat.cast_mul]
  ring

/-- Multiplication is IEEE 754's product. -/
theorem product_mulV (f : FFmt) (mode : RMode) (x y : FVal) : Product f mode x y (f.mulV mode x y) := by
  cases x <;> cases y
  case fin.fin a m e b n d =>
    simp only [Product, FFmt.mulV]
    split
    next h => rw [Nat.mul_eq_zero.2 h, round_zero]
    next h => rw [rat_mul]; exact roundsTo_round (Nat.mul_eq_zero.not.2 h)
  all_goals simp [Product, FFmt.mulV, FFmt.quiet, FFmt.invalid, sign_infCode]

/-- An infinite product is added as an infinity. -/
theorem infPlus_eq_addV (f : FFmt) (mode : RMode) {z : FVal} (hz : z ≠ .nan) (hp : z ≠ .poison) (neg : Bool) :
    f.infPlus z neg = f.addV mode z (.inf neg) := by
  cases z with
  | fin => rfl
  | inf b =>
    simp only [FFmt.infPlus, FFmt.addV]
    split
    next h => rw [h]
    next => rfl
  | nan => exact absurd rfl hz
  | poison => exact absurd rfl hp

/-- Where nothing is a NaN and the product is valid, the exact product is added. -/
theorem fmaV_eq_addV (f : FFmt) (mode : RMode) {z x y : FVal} (hz : z ≠ .nan) (hzp : z ≠ .poison) (hx : x ≠ .nan)
    (hxp : x ≠ .poison) (hy : y ≠ .nan) (hyp : y ≠ .poison) (hvalid : ¬InvalidProduct x y) :
    f.fmaV mode z x y = f.addV mode z (exactProduct x y) := by
  have hinf := infPlus_eq_addV f mode hz hzp
  cases z
  any_goals contradiction
  all_goals
    cases x <;> cases y
    any_goals contradiction
    case fin.fin => rfl
    case inf.inf => exact hinf _
    case inf.fin => exact (if_neg hvalid).trans (hinf _)
    case fin.inf => exact (if_neg hvalid).trans (hinf _)

/-- A NaN in any place makes the result quiet (log 15). -/
theorem fmaV_nan (f : FFmt) (mode : RMode) {z x y : FVal} (hz : z ≠ .poison) (hx : x ≠ .poison) (hy : y ≠ .poison)
    (h : z = .nan ∨ x = .nan ∨ y = .nan) : f.fmaV mode z x y = f.quiet := by
  obtain rfl | rfl | rfl := h
  case inl => cases x <;> cases y <;> trivial
  case inr.inl => cases z <;> cases y <;> trivial
  case inr.inr => cases z <;> cases x <;> trivial

theorem fmaV_invalid (f : FFmt) (mode : RMode) {z x y : FVal} (hz : z ≠ .poison) (hn : z ≠ .nan) (h : InvalidProduct x y) :
    f.fmaV mode z x y = f.invalid := by
  cases z
  any_goals contradiction
  all_goals
    cases x <;> cases y
    any_goals contradiction
    all_goals exact if_pos h

theorem fused_fmaV (f : FFmt) (mode : RMode) (z x y : FVal) : Fused f mode z x y (f.fmaV mode z x y) := by
  intro hz hx hy
  refine ⟨fun h => fmaV_nan f mode hz hx hy (.inr h), fun h => ?_, fun hn h => fmaV_invalid f mode hz hn h, fun hn hxn hyn h => ?_⟩
  · rw [fmaV_nan f mode hz hx hy (.inl h)]
    exact ⟨rfl, fun _ => rfl⟩
  · rw [fmaV_eq_addV f mode hn hz hxn hx hyn hy h]
    exact sum_addV ..

/-- The four instructions of a format that do its arithmetic. -/
theorem floatArithmetic_of {f : FFmt} {add sub mul fma : Reg → Reg → Reg → BitVec 2 → Instr}
    (hadd : ∀ d a b r s, exec (add d a b r) s = fAdd f d a b r s := by intros; rfl)
    (hsub : ∀ d a b r s, exec (sub d a b r) s = fSub f d a b r s := by intros; rfl)
    (hmul : ∀ d a b r s, exec (mul d a b r) s = fMul f d a b r s := by intros; rfl)
    (hfma : ∀ d a b r s, exec (fma d a b r) s = fFma f d a b r s := by intros; rfl) :
    FloatArithmetic f f.latency add sub mul fma := fun r =>
  ⟨floatA2_of (sum_addV f (rmode r)) fun d a b s => hadd d a b r s,
    floatA2_of (fun x y => sum_addV f (rmode r) x y.neg) fun d a b s => hsub d a b r s,
    floatA2_of (product_mulV f (rmode r)) fun d a b s => hmul d a b r s,
    fun _ _ _ _ ha hb hd => ⟨_, fused_fmaV f (rmode r) _ _ _, exec_fma ha hb hd (hfma ..)⟩⟩

theorem floatArithmeticForms : FloatArithmeticForms := ⟨floatArithmetic_of, floatArithmetic_of, by decide⟩

/-! ## The order of values (R133) -/

/-- The sign of a difference of two dyadic numbers tells which is the lesser. -/
theorem dyAdd_neg_iff (i e j d : Int) : ((dyAdd i e (-j) d).1 < 0 ↔ (i * 2 ^ e : ℚ) < j * 2 ^ d) ∧
    ((dyAdd i e (-j) d).1 = 0 ↔ (i * 2 ^ e : ℚ) = j * 2 ^ d) := by
  have hpos : (0 : ℚ) < 2 ^ (dyAdd i e (-j) d).2 := by positivity
  have h := dyAdd_eq i e (-j) d
  rw [Int.cast_neg, neg_mul, ← sub_eq_add_neg] at h
  rw [← sub_neg (b := (j * 2 ^ d : ℚ)), ← sub_eq_zero (b := (j * 2 ^ d : ℚ)), ← h]
  constructor
  · simp [mul_neg_iff, hpos, hpos.not_gt]
  · simp [hpos.ne']

theorem eq_iff_same (x y : FVal) : x.eq y = true ↔ Same x y := by
  cases x <;> cases y
  case fin.fin a m e b n d => simp only [FVal.eq, Same, rat_eq_signed, decide_eq_true_eq, (dyAdd_neg_iff ..).2]
  all_goals simp [FVal.eq, Same]

/-- A value that has a place in the order: neither a NaN nor poison. -/
def Ordered (v : FVal) : Prop := v.isNan = false ∧ v.isPoison = false

theorem lt_iff_below {x y : FVal} (hx : Ordered x) (hy : Ordered y) : x.lt y = true ↔ Below x y := by
  obtain ⟨hxn, hxp⟩ := hx
  obtain ⟨hyn, hyp⟩ := hy
  cases x <;> cases y
  case fin.fin a m e b n d => simp only [FVal.lt, Below, rat_eq_signed, decide_eq_true_eq, (dyAdd_neg_iff ..).1]
  any_goals contradiction
  all_goals simp [FVal.lt, Below]

section Below
variable {x y : FVal} (h : Below x y)
include h

theorem Below.ordered : Ordered x ∧ Ordered y := by
  cases x <;> cases y
  any_goals contradiction
  all_goals exact ⟨⟨rfl, rfl⟩, rfl, rfl⟩

theorem Below.isNan : x.isNan = false ∧ y.isNan = false := ⟨h.ordered.1.1, h.ordered.2.1⟩

theorem Below.lt : x.lt y = true := (lt_iff_below h.ordered.1 h.ordered.2).2 h

/-- What is above is neither below nor equal. -/
theorem Below.asymm : y.lt x = false ∧ y.eq x = false := by
  rw [← Bool.not_eq_true, ← Bool.not_eq_true, eq_iff_same, lt_iff_below h.ordered.2 h.ordered.1]
  cases x <;> cases y
  any_goals contradiction
  case fin.fin => exact ⟨lt_asymm h, ne_of_gt h⟩
  all_goals simp_all [Below, Same]

end Below

/-! ## Lesser and greater of two codes -/

theorem unpack_zero {f : FFmt} (h : PlainIeee f) (he : f.eb ≠ 0) (neg : Bool) : ∃ g, f.unpack (zero f neg) = .fin neg 0 g := by
  have hinf : 0 < f.infCode := Nat.mul_pos (Nat.sub_pos_of_lt (Nat.one_lt_two_pow he)) (Nat.two_pow_pos _)
  obtain ⟨k, g, hk, hval⟩ := unpack_sign (neg := neg) h hinf
  rw [sign_zero] at hk
  have hzero : signFactor neg * f.mag 0 = 0 := by simp [FFmt.mag, FFmt.units]
  rw [hzero, rat_eq_signed, mul_eq_zero_iff_right (by positivity)] at hval
  obtain rfl : k = 0 := by unfold signed at hval; split at hval <;> simpa using hval
  exact ⟨g, hk⟩

/-- A zero of one sign is not below one of the other: only the sign tells them apart. -/
theorem zero_lt_zero (a b : Bool) (e d : Int) : (FVal.fin a 0 e).lt (.fin b 0 d) = false := by
  rw [← Bool.not_eq_true, lt_iff_below ⟨rfl, rfl⟩ ⟨rfl, rfl⟩]
  simp [Below, rat]

theorem extreme_minmax {f : FFmt} (h : PlainIeee f) (he : f.eb ≠ 0) (greater : Bool) (x y : Nat) :
    Extreme f greater x y (f.minmax greater x y, 0) := by
  obtain ⟨g, hminus⟩ := unpack_zero h he true
  obtain ⟨k, hplus⟩ := unpack_zero h he false
  refine ⟨rfl, fun hx hy => ?_, fun hx hy => ?_, fun hx hy => ?_, fun hb => ?_, fun hb => ?_, ?_, ?_⟩
  · simp [FFmt.minmax, hx, hy]
  · simp [FFmt.minmax, hx, hy]
  · simp [FFmt.minmax, hx, hy]
  · simp [FFmt.minmax, hb.isNan, hb.lt]
  · simp [FFmt.minmax, hb.isNan, hb.asymm]
  · rintro rfl rfl
    simp [FFmt.minmax, hminus, hplus, FVal.isNan, FVal.sign, eq_iff_same, Same, rat]
  · rintro rfl rfl
    simp [FFmt.minmax, hminus, hplus, FVal.isNan, FVal.sign, zero_lt_zero]

/-! ## Signs of codes -/

section Codes
variable {f : FFmt}

theorem width_pred (f : FFmt) : f.width - 1 = f.eb + f.mb := by rw [FFmt.width]; omega

theorem two_pow_width (f : FFmt) : 2 ^ f.width = 2 ^ (f.width - 1) * 2 := by
  rw [← Nat.pow_succ, width_pred, FFmt.width]; congr 1; omega

/-- A code has its sign bit where it reaches the upper half. -/
theorem signBit_iff {c : Nat} (hc : c < 2 ^ f.width) : f.signBit c = true ↔ 2 ^ (f.width - 1) ≤ c := by
  have hp := Nat.two_pow_pos (f.width - 1)
  rw [two_pow_width] at hc
  have hlt : c / 2 ^ (f.width - 1) < 2 := Nat.div_lt_of_lt_mul hc
  rw [FFmt.signBit, ← width_pred, decide_eq_true_eq, ← Nat.one_le_div_iff hp, Nat.mod_eq_of_lt hlt]
  omega

theorem code_mod (f : FFmt) (x : Nat) : x % 2 ^ f.width % 2 ^ (f.width - 1) = x % 2 ^ (f.width - 1) :=
  Nat.mod_mod_of_dvd _ (pow_dvd_pow 2 (Nat.sub_le ..))

theorem signBit_code (f : FFmt) (x : BitVec 64) : f.signBit (x.toNat % 2 ^ f.width) = x.getLsbD (f.width - 1) := by
  have hlt : f.width - 1 < f.width := by rw [FFmt.width]; omega
  rw [BitVec.getLsbD, ← Bool.true_and (x.toNat.testBit _), ← decide_eq_true hlt, ← Nat.testBit_mod_two_pow,
    Nat.testBit_eq_decide_div_mod_eq, FFmt.signBit, width_pred]

/-- A code with its sign bit inverted. -/
def flipped (f : FFmt) (x : Nat) : Nat := if f.signBit x then x - 2 ^ (f.width - 1) else x + 2 ^ (f.width - 1)

theorem flipped_cases {x : Nat} (hx : x < 2 ^ f.width) : flipped f x < 2 ^ f.width ∧
    flipped f x % 2 ^ (f.width - 1) = x % 2 ^ (f.width - 1) ∧ f.signBit (flipped f x) = !f.signBit x := by
  have hw := two_pow_width f
  have hsign := signBit_iff hx
  cases hs : f.signBit x
  · have hx : x < 2 ^ (f.width - 1) := not_le.1 fun h => by simp [hsign.2 h] at hs
    have hflip : flipped f x = x + 2 ^ (f.width - 1) := by rw [flipped, hs]; rfl
    have hlt : flipped f x < 2 ^ f.width := by omega
    exact ⟨hlt, by rw [hflip, Nat.add_mod_right], (signBit_iff hlt).2 (by omega)⟩
  · have hx := hsign.1 hs
    have hflip : flipped f x = x - 2 ^ (f.width - 1) := by rw [flipped, hs]; rfl
    have hlt : flipped f x < 2 ^ f.width := by omega
    refine ⟨hlt, by rw [hflip, Nat.mod_eq_sub_mod hx], ?_⟩
    rw [Bool.not_true, ← Bool.not_eq_true, signBit_iff hlt]
    omega

theorem floatSign_abs {mk : Reg → Reg → Instr} (he : ∀ d a s, exec (mk d a) s = fAbs f d a s) :
    FloatSign mk f f.latency fun _ => false := by
  intro s d a ha
  have hlow := Nat.mod_lt ((s.thr.readA a).val.toNat % 2 ^ f.width) (Nat.two_pow_pos (f.width - 1))
  have hlt := hlow.trans_le (Nat.pow_le_pow_right two_pos (Nat.sub_le f.width 1))
  refine ⟨_, hlt, by rw [Nat.mod_mod, code_mod], ?_, exec_fpA1 (fun x => (x % 2 ^ (f.width - 1), 0)) ha (he ..)⟩
  rw [← Bool.not_eq_true, signBit_iff hlt]
  exact not_le.2 hlow

theorem floatSign_neg {mk : Reg → Reg → Instr} (he : ∀ d a s, exec (mk d a) s = fNeg f d a s) :
    FloatSign mk f f.latency fun b => !b := by
  intro s d a ha
  obtain ⟨hlt, hmod, hsign⟩ := flipped_cases (f := f) (Nat.mod_lt (s.thr.readA a).val.toNat (Nat.two_pow_pos f.width))
  exact ⟨_, hlt, by rw [hmod, code_mod], by rw [hsign, signBit_code], exec_fpA1 (fun x => (flipped f x, 0)) ha (he ..)⟩

end Codes

/-! ## Compares (R133) -/

/-- An instruction that is a compare decides its relation, which poison does not get to see. -/
theorem floatCompare_of {f : FFmt} {mk : Reg → Reg → Reg → Instr} {signals : Bool} {op : FVal → FVal → Bool}
    {R : FVal → FVal → Prop} (hR : ∀ x y, x.isPoison = false → y.isPoison = false → (op x y = true ↔ R x y))
    (he : ∀ d a b s, exec (mk d a b) s = (s.fpCmp f d a b signals op).out) : FloatCompare mk f f.latency signals R := by
  classical
  intro s d a b ha hb x y poison
  refine ⟨if R x y then 1 else 0, fun h => if_pos h, fun h => if_neg h, ?_⟩
  rw [he, State.fpCmp, State.needs_go (by simpa using ⟨ha, hb⟩), putA_commits]
  congr 2
  · show (if poison then TVal.bad else .clean (if op x y then 1 else 0)) = _
    cases hp : poison
    · obtain ⟨hx, hy⟩ := Bool.or_eq_false_iff.1 hp
      simp only [hR x y hx hy]
      rfl
    · rfl
  · show (if (!poison && signals && (x.isNan || y.isNan)) = true then flNV else 0) = _
    cases poison <;> simp

theorem relEq_iff (x y : FVal) : relEq x y = true ↔ Same x y := by
  rw [relEq, Bool.and_eq_true, eq_iff_same, and_iff_right_iff_imp]
  cases x <;> cases y <;> simp [Same, FVal.isNan]

theorem relLt_iff {x y : FVal} (hx : x.isPoison = false) (hy : y.isPoison = false) : relLt x y = true ↔ Below x y := by
  unfold relLt
  constructor
  · intro h
    simp only [Bool.and_eq_true, Bool.not_eq_true'] at h
    obtain ⟨⟨hxn, hyn⟩, hlt⟩ := h
    exact (lt_iff_below ⟨hxn, hx⟩ ⟨hyn, hy⟩).1 hlt
  · intro h
    simp [h.isNan, h.lt]

theorem relLe_eq (x y : FVal) : relLe x y = (relLt x y || relEq x y) := by
  rw [relLe, relLt, relEq, Bool.and_or_distrib_left]

theorem relUn_iff (x y : FVal) : relUn x y = true ↔ x = .nan ∨ y = .nan := by
  cases x <;> cases y <;> simp [relUn, FVal.isNan]

/-- The eight instructions of a format that do not round. -/
theorem floatCompares_of {f : FFmt} (h : PlainIeee f) (hf : f.eb ≠ 0) {min max eq lt le un : Reg → Reg → Reg → Instr}
    {abs neg : Reg → Reg → Instr}
    (hmin : ∀ d a b s, exec (min d a b) s = fMinMax f false d a b s := by intros; rfl)
    (hmax : ∀ d a b s, exec (max d a b) s = fMinMax f true d a b s := by intros; rfl)
    (heq : ∀ d a b s, exec (eq d a b) s = (s.fpCmp f d a b false relEq).out := by intros; rfl)
    (hlt : ∀ d a b s, exec (lt d a b) s = (s.fpCmp f d a b true relLt).out := by intros; rfl)
    (hle : ∀ d a b s, exec (le d a b) s = (s.fpCmp f d a b true relLe).out := by intros; rfl)
    (hun : ∀ d a b s, exec (un d a b) s = (s.fpCmp f d a b false relUn).out := by intros; rfl)
    (habs : ∀ d a s, exec (abs d a) s = fAbs f d a s := by intros; rfl)
    (hneg : ∀ d a s, exec (neg d a) s = fNeg f d a s := by intros; rfl) :
    FloatCompares f f.latency min max eq lt le un abs neg :=
  ⟨floatCodes2_of (extreme_minmax h hf false) hmin, floatCodes2_of (extreme_minmax h hf true) hmax, floatSign_abs habs,
    floatSign_neg hneg, floatCompare_of (fun x y _ _ => relEq_iff x y) heq, floatCompare_of (fun _ _ => relLt_iff) hlt,
    floatCompare_of (fun x y hx hy => by rw [relLe_eq, Bool.or_eq_true, relLt_iff hx hy, relEq_iff]) hle,
    floatCompare_of (fun x y _ _ => relUn_iff x y) hun⟩

theorem floatCompareForms : FloatCompareForms :=
  ⟨floatCompares_of ⟨rfl, by decide⟩ (by decide), floatCompares_of ⟨rfl, by decide⟩ (by decide)⟩

/-! ## Roundings to an integer (R104) -/

theorem signed_cast (neg : Bool) (n : Nat) : ((signed neg n : Int) : ℚ) = signFactor neg * n := by
  cases neg <;> simp [signed]

/-- An integer is its own rounding under every mode. -/
theorem roundsToInt_self (mode : RMode) (i : Int) : RoundsToInt mode i i := by
  cases mode <;> norm_num [RoundsToInt]
  exact mul_self_nonneg _

section Magnitude
variable {q rem sh : Nat} {t : ℚ} (ht : (rem : ℚ) = 2 ^ sh * t)
include ht

theorem rem_eq_zero_iff : rem = 0 ↔ t = 0 := by
  rw [← Nat.cast_eq_zero (R := ℚ), ht]; simp

/-- To nearest, the next integer is chosen from halfway on, in a tie where the lower one is odd. -/
theorem chosen_rn_half (neg : Bool) :
    chosen .rn neg q rem sh = if 1 / 2 < t ∨ t = 1 / 2 ∧ q % 2 = 1 then q + 1 else q := by
  have hpos : (0 : ℚ) < 2 ^ sh := by positivity
  have hcloser : 2 ^ sh < 2 * rem ↔ 1 / 2 < t := by
    rw [← Nat.cast_lt (α := ℚ)]
    push_cast
    rw [ht, mul_left_comm, lt_mul_iff_one_lt_right hpos, div_lt_iff₀' two_pos]
  have htie : 2 * rem = 2 ^ sh ↔ t = 1 / 2 := by
    rw [← Nat.cast_inj (R := ℚ)]
    push_cast
    rw [ht, mul_left_comm, mul_eq_left₀ hpos.ne', eq_div_iff two_ne_zero, mul_comm]
  have hne : 0 < 2 ^ sh := Nat.two_pow_pos sh
  simp only [chosen, roundsUp, ← hcloser, ← htie, Bool.and_eq_true, Bool.or_eq_true, decide_eq_true_eq, ne_eq]
  congr 1
  simp only [eq_iff_iff, and_iff_right_iff_imp]
  omega

/-- Only an integer is delivered exactly. -/
theorem chosen_eq_iff (ht1 : t < 1) (mode : RMode) (neg : Bool) : (q : ℚ) + t = chosen mode neg q rem sh ↔ rem = 0 := by
  have hrem := rem_eq_zero_iff ht
  constructor
  · intro h
    rw [hrem]
    unfold chosen at h
    split at h
    · push_cast at h
      linarith
    · linarith
  · intro h
    simp [chosen, h, hrem.1 h]

/-- Away from zero the next integer is chosen unless the lower one is exact. -/
theorem outward_integer (ht0 : 0 ≤ t) (ht1 : t < 1) :
    (q : ℚ) + t ≤ (if rem = 0 then q else q + 1 : Nat) ∧ ((if rem = 0 then q else q + 1 : Nat) : ℚ) < q + t + 1 := by
  have hrem := rem_eq_zero_iff ht
  split
  next h =>
    have h0 := hrem.1 h
    constructor <;> linarith
  next h =>
    have h0 : 0 < t := lt_of_le_of_ne ht0 (Ne.symm (hrem.not.1 h))
    push_cast
    constructor <;> linarith

end Magnitude

/-- A signed magnitude is rounded to nearest as the magnitude is. -/
theorem roundsToInt_nearest {y : ℚ} {n : Nat} (hle : |y - n| ≤ 1 / 2) (htie : |y - n| = 1 / 2 → n % 2 = 0) (neg : Bool) :
    RoundsToInt .rn (signFactor neg * y) (signed neg n) := by
  have hmod : signed neg n % 2 = (n % 2 : Nat) := by cases neg <;> simp [signed]
  simp only [RoundsToInt, signed_cast, ← mul_sub, abs_signFactor_mul, hmod]
  exact ⟨hle, fun h => by rw [htie h]; rfl⟩

/-- Under another mode it is rounded outward or inward. -/
theorem roundsToInt_of_not_nearest {r : BitVec 2} (hr : r ≠ 0) {y : ℚ} {n : Nat} (neg : Bool)
    (h : if away r neg then y ≤ n ∧ n < y + 1 else n ≤ y ∧ y < n + 1) :
    RoundsToInt (rmode r) (signFactor neg * y) (signed neg n) := by
  have hn : (0 : ℚ) ≤ n := n.cast_nonneg
  obtain rfl | rfl | rfl | rfl := eq_mode r
  · exact absurd rfl hr
  · obtain ⟨hle, hlt⟩ : (n : ℚ) ≤ y ∧ y < n + 1 := by cases neg <;> exact h
    have hy : 0 ≤ y := hn.trans hle
    show |_| ≤ |_| ∧ |_| < 1 ∧ 0 ≤ _
    rw [signed_cast, ← mul_sub, abs_signFactor_mul, abs_signFactor_mul, abs_signFactor_mul, mul_assoc, mul_left_comm y,
      signFactor_signFactor, abs_of_nonneg hn, abs_of_nonneg hy, abs_of_nonneg (sub_nonneg.2 hle)]
    exact ⟨hle, by linarith, mul_nonneg hy hn⟩
  · show _ ≤ _ ∧ _ < _
    rw [signed_cast]
    cases neg with
    | false => simpa using (show y ≤ n ∧ n < y + 1 from h)
    | true =>
      obtain ⟨hle, hlt⟩ : (n : ℚ) ≤ y ∧ y < n + 1 := h
      rw [signFactor_true, neg_one_mul, neg_one_mul]
      constructor <;> linarith
  · show _ ≤ _ ∧ _ < _
    rw [signed_cast]
    cases neg with
    | false => simpa using (show (n : ℚ) ≤ y ∧ y < n + 1 from h)
    | true =>
      obtain ⟨hle, hlt⟩ : y ≤ n ∧ n < y + 1 := h
      rw [signFactor_true, neg_one_mul, neg_one_mul]
      constructor <;> linarith

/-- What a mode makes of a magnitude that lies `t` above the integer `q`. -/
theorem roundsToInt_chosen {q rem sh : Nat} {t : ℚ} (ht : (rem : ℚ) = 2 ^ sh * t) (ht0 : 0 ≤ t) (ht1 : t < 1) (r : BitVec 2)
    (neg : Bool) : RoundsToInt (rmode r) (signFactor neg * (q + t)) (signed neg (chosen (rmode r) neg q rem sh)) := by
  by_cases hr : r = 0
  · subst hr
    have hchosen : chosen (rmode 0) neg q rem sh = _ := chosen_rn_half ht neg
    rw [hchosen]
    split
    next hup =>
      have habs : |(q : ℚ) + t - (q + 1 : Nat)| = 1 - t := by
        push_cast
        rw [add_sub_add_left_eq_sub, abs_sub_comm, abs_of_pos (sub_pos.2 ht1)]
      refine roundsToInt_nearest ?_ (fun h => ?_) neg <;> rw [habs] at *
      · obtain h | ⟨h, -⟩ := hup <;> linarith
      · obtain h' | ⟨-, hodd⟩ := hup
        · linarith
        · omega
    next hdown =>
      have habs : |(q : ℚ) + t - q| = t := by rw [add_sub_cancel_left, abs_of_nonneg ht0]
      refine roundsToInt_nearest ?_ (fun h => ?_) neg <;> rw [habs] at *
      · exact not_lt.1 fun h => hdown (.inl h)
      · have hodd : q % 2 ≠ 1 := fun ho => hdown (.inr ⟨h, ho⟩)
        omega
  · refine roundsToInt_of_not_nearest hr neg ?_
    rw [chosen_of_not_nearest hr]
    split
    next => exact outward_integer ht ht0 ht1
    next => constructor <;> linarith

/-- A value is rounded to an integer as its mode asks, and what is told of its exactness holds. -/
theorem roundToInt_spec (r : BitVec 2) (neg : Bool) (m : Nat) (e : Int) :
    RoundsToInt (rmode r) (rat neg m e) (roundToInt (rmode r) neg m e).1 ∧
      ((roundToInt (rmode r) neg m e).2 = false ↔ rat neg m e = (roundToInt (rmode r) neg m e).1) := by
  unfold roundToInt
  split
  next he =>
    have hrat : rat neg m e = (signed neg (m * 2 ^ e.toNat) : Int) := by
      rw [signed_cast, rat_signed, rat]
      push_cast
      rw [← zpow_natCast, Int.toNat_of_nonneg he]
      simp
    rw [hrat]
    exact ⟨roundsToInt_self .., by simp⟩
  next he =>
    obtain ⟨sh, rfl⟩ : ∃ sh : Nat, e = -sh := ⟨(-e).toNat, by omega⟩
    have hpos : (0 : ℚ) < 2 ^ sh := by positivity
    have hm : (m : ℚ) = 2 ^ sh * (m / 2 ^ sh : Nat) + (m % 2 ^ sh : Nat) := by exact_mod_cast (Nat.div_add_mod m (2 ^ sh)).symm
    have hrat : rat neg m (-sh) = signFactor neg * ((m / 2 ^ sh : Nat) + (m % 2 ^ sh : Nat) / 2 ^ sh) := by
      rw [rat_signed, rat, zpow_neg, zpow_natCast, hm]
      simp only [Bool.false_eq_true, if_false, one_mul]
      field_simp
    have ht : ((m % 2 ^ sh : Nat) : ℚ) = 2 ^ sh * ((m % 2 ^ sh : Nat) / 2 ^ sh) := by field_simp
    have hlt : ((m % 2 ^ sh : Nat) : ℚ) / 2 ^ sh < 1 := by
      rw [div_lt_one hpos]
      exact_mod_cast Nat.mod_lt m (Nat.two_pow_pos sh)
    simp only [neg_neg, Int.toNat_natCast]
    rw [hrat]
    refine ⟨roundsToInt_chosen ht (by positivity) hlt r neg, ?_⟩
    show decide (m % 2 ^ sh ≠ 0) = false ↔ _ = ((signed neg (chosen (rmode r) neg (m / 2 ^ sh) (m % 2 ^ sh) sh) : Int) : ℚ)
    rw [signed_cast, mul_right_inj' (signFactor_ne_zero neg), chosen_eq_iff ht hlt, decide_eq_false_iff_not, not_not]

/-! ## Conversions (R107, R134) -/

theorem eq_intFormat {t : BitVec 4} (ht : t.toNat < 4) : t = 0 ∨ t = 1 ∨ t = 2 ∨ t = 3 := by
  revert t; decide

theorem toInteger_spec {t : BitVec 4} (ht : t.toNat < 4) (r : BitVec 2) (v : FVal) :
    ToInteger t (rmode r) v (BitVec.ofInt 64 (toInteger (cvtWidth t) (cvtSigned t) (rmode r) v).1)
      (toInteger (cvtWidth t) (cvtSigned t) (rmode r) v).2 := by
  have hlow : (if cvtSigned t = true then -((2 ^ (cvtWidth t - 1) : Nat) : Int) else 0) = intLow t := by
    obtain rfl | rfl | rfl | rfl := eq_intFormat ht <;> rfl
  have hhigh : (if cvtSigned t = true then ((2 ^ (cvtWidth t - 1) : Nat) : Int) - 1 else ((2 ^ cvtWidth t : Nat) : Int) - 1) =
      intHigh t := by
    obtain rfl | rfl | rfl | rfl := eq_intFormat ht <;> rfl
  have hbounds : intLow t ≤ intHigh t := by
    obtain rfl | rfl | rfl | rfl := eq_intFormat ht <;> decide
  unfold toInteger
  rw [hlow, hhigh]
  cases v with
  | poison => trivial
  | nan => exact ⟨rfl, rfl⟩
  | inf neg => exact ⟨rfl, rfl⟩
  | fin neg m e =>
    obtain ⟨hi, hexact⟩ := roundToInt_spec r neg m e
    refine ⟨(roundToInt (rmode r) neg m e).1, hi, fun h => ?_, fun h => ?_, fun h h' => ?_⟩
    · simp [h]
    · simp [h, (hbounds.trans_lt h).not_gt]
    · simp only [h.not_gt, h'.not_gt, if_false, ← hexact]
      cases (roundToInt (rmode r) neg m e).2 <;> simp

section Results
variable {t c : BitVec 4} (r : BitVec 2) (x : TVal)

theorem cvtResult_toInteger (ht : t.toNat < 4) : cvtResult t c r x = if (source (floatOf c) x).isPoison then (.bad, 0)
    else (.clean (BitVec.ofInt 64 (toInteger (cvtWidth t) (cvtSigned t) (rmode r) (source (floatOf c) x)).1),
      (toInteger (cvtWidth t) (cvtSigned t) (rmode r) (source (floatOf c) x)).2) :=
  if_pos (decide_eq_true ht)

theorem cvtResult_ofInt (ht : 4 ≤ t.toNat) (hc : c.toNat < 4) :
    cvtResult t c r x = (floatOf t).result (bad x) ((floatOf t).ofInt (rmode r) (intIn c x.val)) :=
  (if_neg (by simpa [cvtInt] using ht)).trans (if_pos (decide_eq_true hc))

theorem cvtResult_ofVal (ht : 4 ≤ t.toNat) (hc : 4 ≤ c.toNat) : cvtResult t c r x =
    (floatOf t).result (source (floatOf c) x).isPoison ((floatOf t).ofVal (rmode r) (source (floatOf c) x)) :=
  (if_neg (by simpa [cvtInt] using ht)).trans (if_neg (by simpa [cvtInt] using hc))

end Results

theorem exec_fcvt {s : State} {d a : Reg} (ha : (s.thr.readA a).tag ≠ 1) (r : BitVec 2) (t c : BitVec 4) :
    exec (.fcvt d a r t c) s = .next (commitsA s (if t = 5 ∨ c = 5 then 6 else 4) d (cvtResult t c r (s.thr.readA a)).1
      (cvtResult t c r (s.thr.readA a)).2) := by
  show execFcvt d a r t c s = _
  rw [execFcvt, State.needs_go (by simpa using ha), putA_commits]
  simp only [Bool.or_eq_true, decide_eq_true_eq]

theorem plainIeee_floatOf (t : BitVec 4) : PlainIeee (floatOf t) := by
  unfold floatOf
  split_ifs <;> exact ⟨rfl, by decide⟩

theorem conversionForms : Conversions := by
  intro s d a r t c _ _ ha x lat
  have hexec : exec (.fcvt d a r t c) s = .next (commitsA s lat d (cvtResult t c r x).1 (cvtResult t c r x).2) := exec_fcvt ha r t c
  have hval := ofVal_cases (plainIeee_floatOf t) (rmode r)
  refine ⟨fun ht hc => ⟨_, _, toInteger_spec ht r (source (floatOf c) x), ?_⟩,
    fun ht hc => ⟨(floatOf t).ofInt (rmode r) (intIn c x.val), fun h => ?_, fun h => ?_, ?_⟩,
    fun ht hc => ⟨(floatOf t).ofVal (rmode r) (source (floatOf c) x), fun h => ?_, fun neg h => ?_, fun neg m e h => ?_, ?_⟩⟩
  · rw [hexec, cvtResult_toInteger r x ht]
    split <;> rfl
  · rw [h]
    exact roundInt_zero ..
  · have hround := roundsTo_roundInt (f := floatOf t) (mode := rmode r) (z := false) (e := 0) h
    rwa [zpow_zero, mul_one] at hround
  · rw [hexec, cvtResult_ofInt r x ht hc, commitsA_result]
  · rw [h]
    exact hval .nan
  · rw [h]
    exact hval (.inf neg)
  · rw [h]
    exact hval (.fin neg m e)
  · rw [hexec, cvtResult_ofVal r x ht hc, commitsA_result]

/-- Settles O7, from the arithmetic, the flags of a rounding, the forms that do not round, and the conversions. -/
theorem floatForms : Obligations.FloatForms := ⟨floatArithmeticForms, rangeFlags, floatCompareForms, conversionForms⟩

end Sys2Proof.Claims
end

section
/-!
PROOF. Vectors (R95, R143, R146): lanes, masks and side bits, registers built lane by lane, element types by their codes, lanes made of
elements, and what slot C's forms commit.
-/

namespace Sys2Proof.Machine

/-! ## Masks and registers of lanes -/

@[simp] theorem getLsbD_laneMask (f : Nat → Bool) (i : Nat) : (laneMask f).getLsbD i = (decide (i < 64) && f i) := by
  have h : ∀ (n : Nat) (a : BitVec 64), ((List.range n).foldl (fun m i => if f i then m ||| (1#64 <<< i) else m) a).getLsbD i =
      (a.getLsbD i || (decide (i < n) && decide (i < 64) && f i)) := by
    intro n a
    induction n with
    | zero => simp
    | succ n ih =>
      rw [List.range_succ, List.foldl_append, List.foldl_cons, List.foldl_nil]
      obtain rfl | hne := eq_or_ne i n
      · split <;> rename_i hf
        · rw [BitVec.getLsbD_or, ih]
          simp [hf]
        · rw [ih]
          simp [hf]
      · have hlt : i < n + 1 ↔ i < n := by omega
        have hbit : (1#64 <<< n).getLsbD i = false := by
          obtain hin | hin := Nat.lt_or_ge i n
          · simp [hin]
          · simp [BitVec.getLsbD_one, show i - n ≠ 0 by omega]
        split
        · rw [BitVec.getLsbD_or, ih, hbit, Bool.or_false]
          simp only [hlt]
        · rw [ih]
          simp only [hlt]
  rw [laneMask, h]
  simp

@[simp] theorem VReg.lane_ofFn (f : Fin 64 → BitVec 32) (side : BitVec 64) (spec : Bool) {i : Nat} (h : i < 64) :
    (VReg.mk (Vector.ofFn f) side spec).lane i = f ⟨i, h⟩ := by
  simp [VReg.lane, h]

@[simp] theorem VReg.lane_replicate (x : BitVec 32) (side : BitVec 64) (spec : Bool) {i : Nat} (h : i < 64) :
    (VReg.mk (Vector.replicate 64 x) side spec).lane i = x := by
  simp [VReg.lane, h]

@[simp] theorem VReg.lane_zero (i : Nat) : VReg.zero.lane i = 0 := by
  unfold VReg.lane
  split <;> simp [VReg.zero]

/-- The lanes of a mask in a register that a result has replaced (R143). -/
theorem VReg.lane_merge (old new : VReg) (m : BitVec 64) {i : Nat} (h : i < 64) :
    (old.merge new m).lane i = if m.getLsbD i then new.lane i else old.lane i := by
  simp [VReg.lane, VReg.merge, h]

theorem VReg.side_merge (old new : VReg) (m : BitVec 64) {i : Nat} (h : i < 64) :
    (old.merge new m).side.getLsbD i = if m.getLsbD i then new.side.getLsbD i else old.side.getLsbD i := by
  rw [VReg.merge, BitVec.getLsbD_or, BitVec.getLsbD_and, BitVec.getLsbD_and, BitVec.getLsbD_not, decide_eq_true h]
  cases m.getLsbD i <;> simp

/-- A list over a range, at a place. -/
theorem getD_map_range {α : Type} (n : Nat) (f : Nat → α) (d : α) {i : Nat} (h : i < n) :
    (((List.range n).map f)[i]?).getD d = f i := by
  simp [h]

section Built
variable (act : BitVec 64) (f : Nat → LaneRes) {i : Nat} (h : i < 64)

theorem buildVec_spec : (buildVec act f).1.spec = false := rfl

include h

theorem buildVec_lane : (buildVec act f).1.lane i = if act.getLsbD i then (f i).bits else 0 := by
  simp only [buildVec, VReg.lane_ofFn _ _ _ h]
  simp only [List.getElem?_map, List.getElem?_range h, Option.map_some, Option.getD_some]
  split <;> rfl

theorem buildVec_side : (buildVec act f).1.side.getLsbD i = (act.getLsbD i && (f i).side) := by
  simp only [buildVec, getLsbD_laneMask, List.getElem?_map, List.getElem?_range h, Option.map_some, Option.getD_some, h]
  cases act.getLsbD i <;> rfl

omit h

/-- The flags of a result are those of its active lanes. -/
theorem buildVec_flags (b : Nat) : (buildVec act f).2.getLsbD b = true ↔
    ∃ i < 64, act.getLsbD i = true ∧ (f i).flags.getLsbD b = true := by
  have hfold : ∀ (l : List LaneRes) (a : BitVec 7), (l.foldl (fun a r => a ||| r.flags) a).getLsbD b = true ↔
      a.getLsbD b = true ∨ ∃ r ∈ l, r.flags.getLsbD b = true := by
    intro l
    induction l with
    | nil => simp
    | cons x t ih => intro a; simp [ih, or_assoc]
  simp only [buildVec, hfold, BitVec.ofNat_eq_ofNat, BitVec.getLsbD_zero, Bool.false_eq_true, false_or, List.mem_map,
    List.mem_range, exists_exists_and_eq_and]
  refine exists_congr fun i => and_congr_right fun _ => ?_
  cases act.getLsbD i <;> simp [LaneRes.of]

end Built

/-! ## Sources -/

/-- Bits that no mask selects. -/
theorem lowLane_eq_none {m : BitVec 64} : lowLane m = none ↔ m = 0 := by
  simp only [lowLane, List.find?_eq_none, List.mem_range, Bool.not_eq_true]
  refine ⟨fun h => BitVec.eq_of_getLsbD_eq fun i hi => by simpa using h i hi, fun h => by simp [h]⟩

end Sys2Proof.Machine

namespace Sys2Proof.Claims

open Sys2Proof.Machine

theorem lane_eq (v : VReg) (i : Nat) : lane v i = v.lane i := by
  unfold lane VReg.lane
  split <;> simp [*]

theorem badLane_eq (v : VReg) (i : Nat) : badLane v i = v.poisonSide.getLsbD i := by
  unfold badLane VReg.poisonSide
  cases v.spec <;> simp

/-- Sources without a deferred lane that is needed let a form go on (R49). -/
theorem needsLanes_go {s : State} {l : List VSrc} {k : SlotOut} (h : ∀ x ∈ l, Undeferred x.val x.need) : s.needsLanes l k = k := by
  have hnone : (l.findSome? fun x => (x.val.deferredLane x.need).map fun n => (x.reg, n)) = none := by
    rw [List.findSome?_eq_none_iff]
    intro x hx
    rw [Option.map_eq_none_iff, VReg.deferredLane]
    split
    · exact lowLane_eq_none.2 (h x hx ‹_›)
    · rfl
  rw [State.needsLanes, hnone]

/-- A register's mask of lanes is free of deferred ones when each of its lanes is. -/
theorem undeferred_of_lanes {v : VReg} {m : BitVec 64}
    (h : ∀ i < 64, m.getLsbD i = true → v.spec = true → v.side.getLsbD i = false) : Undeferred v m := by
  intro hs
  refine BitVec.eq_of_getLsbD_eq fun i hi => ?_
  cases hm : m.getLsbD i <;> simp [hm, h i hi, hs]

theorem Undeferred.mono {v : VReg} {m n : BitVec 64} (h : Undeferred v m) (hn : ∀ i < 64, n.getLsbD i = true → m.getLsbD i = true) :
    Undeferred v n :=
  undeferred_of_lanes fun i hi hni hs => by
    simpa [hn i hi hni] using congrArg (fun x : BitVec 64 => x.getLsbD i) (h hs)

/-! ## What the forms commit (R144) -/

theorem regIx_eq {d : Reg} (h : d.toNat < 16) : regIx d = ⟨d.toNat, h⟩ := Fin.ext (by simp [regIx, fin4, Nat.mod_eq_of_lt h])

theorem destC_eq (d : Reg) : destC d = destinationC d := by
  unfold destC destinationC
  split
  next h => rw [regIx_eq h]
  next => rfl

theorem pdestC_eq (d : Reg) : pdestC d = boardC d := by
  unfold pdestC boardC
  split
  next h => rw [regIx_eq h]
  next => rfl

theorem putC_commits (s : State) (lat : Nat) (d : Reg) (v : VReg) (m : BitVec 64) (fl : BitVec 7) :
    (s.putC lat d v m fl).out = .next (commitsC s lat d v m fl) := by
  rw [State.putC_out, destC_eq]; rfl

theorem maskIx_eq (d : Reg) : fin3 (d.setWidth 3) = ⟨d.toNat % 8, Nat.mod_lt _ (by decide)⟩ := by
  ext; simp [fin3]

theorem putK_commits (s : State) (lat : Nat) (d : Reg) (m : BitVec 64) (fl : BitVec 7) :
    (s.putK lat d m fl).out = .next (commitsK s lat d m fl) := by
  rw [State.putK, SlotOut.out_done, maskIx_eq]; rfl

/-- A vector result commits once its sources are checked. -/
theorem vecOut_commits {s : State} {lat : Nat} {d : Reg} {m : BitVec 64} {l : List VSrc} (f : Nat → LaneRes)
    (h : ∀ x ∈ l, Undeferred x.val x.need) :
    (s.vecOut lat d m l f).out = .next (commitsC s lat d (buildVec m f).1 m (buildVec m f).2) := by
  rw [State.vecOut, needsLanes_go h, ← putC_commits]

end Sys2Proof.Claims
end

section
/-!
PROOF. Elements (R74, R76, R95, R100, R146): the types by their codes, the elements of a lane that is made of a list, and what a register
of results holds.
-/

namespace Sys2Proof.Machine

/-! ## Lanes made of elements -/

/-- The number that a list of digits of `w` bits spells, the lowest first. -/
def digits (w : Nat) (l : List Nat) : Nat := l.foldr (fun x acc => x + 2 ^ w * acc) 0

theorem digits_lt {w : Nat} {l : List Nat} (h : ∀ x ∈ l, x < 2 ^ w) : digits w l < 2 ^ (l.length * w) := by
  induction l with
  | nil => simp [digits]
  | cons x t ih =>
    obtain ⟨hx, ht⟩ := List.forall_mem_cons.1 h
    have hle : 2 ^ w * (digits w t + 1) ≤ 2 ^ w * 2 ^ (t.length * w) := Nat.mul_le_mul_left _ (ih ht)
    rw [List.length_cons, Nat.succ_mul, Nat.pow_add, Nat.mul_comm]
    show x + 2 ^ w * digits w t < _
    rw [Nat.mul_succ] at hle
    omega

theorem digits_get {w : Nat} {l : List Nat} (h : ∀ x ∈ l, x < 2 ^ w) {j : Nat} (hj : j < l.length) :
    digits w l / 2 ^ (j * w) % 2 ^ w = l[j] := by
  induction l generalizing j with
  | nil => simp at hj
  | cons x t ih =>
    obtain ⟨hx, ht⟩ := List.forall_mem_cons.1 h
    show (x + 2 ^ w * digits w t) / _ % _ = _
    cases j with
    | zero => simp [Nat.mod_eq_of_lt hx]
    | succ j =>
      rw [Nat.succ_mul, Nat.add_comm (j * w), Nat.pow_add, ← Nat.div_div_eq_div_mul, Nat.add_mul_div_left _ _ (Nat.two_pow_pos w),
        Nat.div_eq_of_lt hx, Nat.zero_add, ih ht (by simpa using hj)]
      rfl

/-- A lane made of elements holds them. -/
theorem VTy.elem_pack {t : VTy} {l : List Nat} (h : ∀ x ∈ l, x < 2 ^ t.w) (hl : l.length * t.w ≤ 32) {j : Nat} (hj : j < l.length) :
    (t.pack l).toNat / 2 ^ (j * t.w) % 2 ^ t.w = l[j] := by
  have hlt := (digits_lt h).trans_le (Nat.pow_le_pow_right two_pos hl)
  have hpack : (t.pack l).toNat = digits t.w l := by
    rw [VTy.pack, BitVec.toNat_ofNat]
    exact Nat.mod_eq_of_lt hlt
  rw [hpack, digits_get h hj]

/-- The flags of a list of results. -/
theorem getLsbD_flagsOf (l : List (Option FRes)) (b : Nat) :
    (flagsOf l).getLsbD b = true ↔ ∃ x, some x ∈ l ∧ x.2.getLsbD b = true := by
  have h : ∀ a : BitVec 7, (l.foldl (fun f x => match x with | some r => f ||| r.2 | none => f) a).getLsbD b = true ↔
      a.getLsbD b = true ∨ ∃ x, some x ∈ l ∧ x.2.getLsbD b = true := by
    induction l with
    | nil => simp
    | cons x t ih =>
      intro a
      rw [List.foldl_cons, ih]
      cases x <;> simp [or_assoc]
  exact (h 0).trans (by simp)

end Sys2Proof.Machine

namespace Sys2Proof.Claims

open Sys2Proof.Machine

/-! ## Types by their codes -/

section Codes
variable {t : BitVec 4} (ht : t.toNat < 15)

theorem tyWidth_cases (t : BitVec 4) : tyWidth t = 4 ∨ tyWidth t = 8 ∨ tyWidth t = 16 ∨ tyWidth t = 32 := by
  revert t; decide

/-- The elements of a type fill a lane. -/
theorem lane_filled (t : BitVec 4) : 32 / tyWidth t * tyWidth t = 32 := by
  obtain h | h | h | h := tyWidth_cases t <;> rw [h]

theorem tyWidth_pos (t : BitVec 4) : 0 < tyWidth t := by
  obtain h | h | h | h := tyWidth_cases t <;> omega

theorem perLane_pos (t : BitVec 4) : 0 < 32 / tyWidth t := by
  obtain h | h | h | h := tyWidth_cases t <;> rw [h] <;> decide

theorem tyWidth_le (t : BitVec 4) : tyWidth t ≤ 32 := by
  obtain h | h | h | h := tyWidth_cases t <;> omega

include ht

theorem of_w : (VTy.of t).w = tyWidth t := by
  revert t; decide

theorem of_epl : (VTy.of t).epl = 32 / tyWidth t := by
  rw [VTy.epl, of_w ht]

theorem of_isFp : (VTy.of t).isFp = tyFloat t := by
  revert t; decide

theorem of_pattern : (VTy.of t).pattern = tyPattern t := by
  revert t; decide

theorem of_float (hf : tyFloat t = true) : VTy.of t = .fp (tyFormat t) := by
  revert t; decide

theorem of_int (hf : tyFloat t = false) : VTy.of t = .int (tyWidth t) (decide (t.toNat % 2 = 0)) := by
  revert t; decide

theorem format_width (hf : tyFloat t = true) : (tyFormat t).width = tyWidth t := by
  revert t; decide

omit ht

theorem tyPattern_lt {p : Nat} (h : tyPattern t = some p) : p < 2 ^ tyWidth t :=
  (by decide : ∀ t, ∀ p ∈ tyPattern t, p < 2 ^ tyWidth t) t p h

theorem tyFloat_of_lt (h : t.toNat < 6) : tyFloat t = false := by
  revert t; decide

include ht

theorem of_bad (x : Nat) : (VTy.of t).bad x = (tyFloat t && ((tyFormat t).unpack x).isPoison) := by
  cases hf : tyFloat t
  · rw [of_int ht hf]; rfl
  · rw [of_float ht hf]; rfl

theorem of_toInt (hf : tyFloat t = false) (x : Nat) : (VTy.of t).toInt x = tyInt t x := by
  rw [of_int ht hf, tyInt]
  by_cases h : t.toNat % 2 = 0
  · simp only [h, decide_true, VTy.toInt, signedField, if_true]
    push_cast
    split <;> split <;> omega
  · simp [h, VTy.toInt]

theorem of_elem (v : VReg) (i j : Nat) : (VTy.of t).elem (v.lane i) j = elem (tyWidth t) v i j := by
  rw [VTy.elem, of_w ht, elem, lane_eq]

/-- A read element is none where it is poison (R146). -/
theorem of_read (v : VReg) (i j : Nat) :
    (VTy.of t).read v i j = if badElem t v i j then none else some (elem (tyWidth t) v i j) := by
  rw [VTy.read, of_elem ht, of_bad ht, badElem, badLane_eq]

end Codes

theorem elem_lt (w : Nat) (v : VReg) (i j : Nat) : elem w v i j < 2 ^ w := Nat.mod_lt _ (Nat.two_pow_pos w)

@[simp] theorem elem_zero (w i j : Nat) : elem w VReg.zero i j = 0 := by
  simp [elem, lane_eq]

/-! ## Registers of results (R100, R146) -/

section Results
variable {t : BitVec 4} (ht : t.toNat < 15) {r : Nat → Option FRes}

/-- The element of a result: its code, or the poison pattern. -/
def orPattern (p : Nat) : Option FRes → Nat
  | some x => x.1
  | none => p

include ht

theorem result_elem {p : Nat} (hp : p < 2 ^ tyWidth t) (hr : ∀ j < 32 / tyWidth t, ∀ x, r j = some x → x.1 < 2 ^ tyWidth t) {j : Nat}
    (hj : j < 32 / tyWidth t) : ((VTy.of t).pack (((List.range (32 / tyWidth t)).map r).map (orPattern p))).toNat /
      2 ^ (j * tyWidth t) % 2 ^ tyWidth t = orPattern p (r j) := by
  have hmem : ∀ x ∈ ((List.range (32 / tyWidth t)).map r).map (orPattern p), x < 2 ^ (VTy.of t).w := by
    simp only [List.map_map, List.mem_map, List.mem_range, Function.comp_apply, of_w ht]
    rintro - ⟨k, hk, rfl⟩
    cases hrk : r k with
    | none => exact hp
    | some x => exact hr k hk x hrk
  have h := VTy.elem_pack hmem (by simp [of_w ht, lane_filled]) (j := j) (by simpa using hj)
  rw [of_w ht] at h
  simpa using h

/-- A lane of results in a format with a poison pattern. -/
theorem result_pattern {p : Nat} (hp : tyPattern t = some p) (l : List (Option FRes)) :
    (VTy.of t).result l = ⟨(VTy.of t).pack (l.map (orPattern p)), false, flagsOf l⟩ := by
  rw [VTy.result, of_pattern ht, hp]
  rfl

/-- The same without one: a poison element makes the lane zero with its side bit set. -/
theorem result_side (hp : tyPattern t = none) (l : List (Option FRes)) : (VTy.of t).result l =
    if l.any (·.isNone) then ⟨0, true, flagsOf l⟩ else ⟨(VTy.of t).pack (l.map (orPattern 0)), false, flagsOf l⟩ := by
  rw [VTy.result, of_pattern ht, hp]
  rfl

theorem result_flags (l : List (Option FRes)) : ((VTy.of t).result l).flags = flagsOf l := by
  cases hp : tyPattern t with
  | some p => rw [result_pattern ht hp]
  | none => rw [result_side ht hp]; split <;> rfl

/-- A register of results holds them: `bad` tells the poison elements, `g` the others. -/
theorem elements_buildVec {act : BitVec 64} {bad : Nat → Nat → Bool} {g : Nat → Nat → FRes} {f : Nat → LaneRes}
    (hg : ∀ i < 64, ∀ j < 32 / tyWidth t, act.getLsbD i = true → bad i j = false → (g i j).1 < 2 ^ tyWidth t)
    (hf : ∀ i < 64, act.getLsbD i = true → f i =
      (VTy.of t).result ((List.range (32 / tyWidth t)).map fun j => if bad i j then none else some (g i j))) :
    Elements t act bad g (buildVec act f).1 (buildVec act f).2 := by
  have hlt : ∀ i < 64, act.getLsbD i = true → ∀ j < 32 / tyWidth t, ∀ x, (if bad i j then none else some (g i j)) = some x →
      x.1 < 2 ^ tyWidth t := by
    intro i hi hact j hj x hx
    split at hx
    · cases hx
    · cases hx
      exact hg i hi j hj hact (Bool.eq_false_of_not_eq_true ‹_›)
  have helem : ∀ i < 64, act.getLsbD i = true → ∀ p < 2 ^ tyWidth t, ∀ j < 32 / tyWidth t,
      ((VTy.of t).pack (((List.range (32 / tyWidth t)).map fun j => if bad i j then none else some (g i j)).map
        (orPattern p))).toNat / 2 ^ (j * tyWidth t) % 2 ^ tyWidth t = if bad i j then p else (g i j).1 := by
    intro i hi hact p hp j hj
    rw [result_elem ht hp (hlt i hi hact) hj]
    split <;> rfl
  refine ⟨buildVec_spec .., fun i hi hact => ?_, fun b _ => ?_⟩
  · rw [buildVec_side _ _ hi, hact, Bool.true_and, hf i hi hact]
    cases hp : tyPattern t with
    | some p =>
      rw [result_pattern ht hp]
      refine ⟨rfl, fun j hj => ?_⟩
      rw [elem, lane_eq, buildVec_lane _ _ hi, if_pos hact, hf i hi hact, result_pattern ht hp]
      exact helem i hi hact p (tyPattern_lt hp) j hj
    | none =>
      have hany : (((List.range (32 / tyWidth t)).map fun j => if bad i j then none else some (g i j)).any (·.isNone)) = true ↔
          ∃ j < 32 / tyWidth t, bad i j = true := by
        simp [List.any_eq_true, apply_ite]
      rw [result_side ht hp]
      simp only [hany]
      split
      · rename_i h
        refine ⟨rfl, ?_⟩
        rw [lane_eq, buildVec_lane _ _ hi, if_pos hact, hf i hi hact, result_side ht hp, if_pos (hany.2 h)]
      · rename_i h
        refine ⟨rfl, fun j hj => ?_⟩
        have hgood : bad i j = false := Bool.eq_false_of_not_eq_true fun hb => h ⟨j, hj, hb⟩
        rw [elem, lane_eq, buildVec_lane _ _ hi, if_pos hact, hf i hi hact, result_side ht hp, if_neg (hany.not.2 h),
          helem i hi hact 0 (Nat.two_pow_pos _) j hj, if_neg (by simp [hgood])]
  · rw [buildVec_flags]
    refine exists_congr fun i => and_congr_right fun hi => ?_
    by_cases hact : act.getLsbD i = true
    · rw [hf i hi hact, result_flags ht, getLsbD_flagsOf]
      simp only [hact, true_and, List.mem_map, List.mem_range]
      constructor
      · rintro ⟨x, ⟨j, hj, hx⟩, hb⟩
        split at hx
        · cases hx
        · cases hx
          exact ⟨j, hj, Bool.eq_false_of_not_eq_true ‹_›, hb⟩
      · rintro ⟨j, hj, hgood, hb⟩
        exact ⟨g i j, ⟨j, hj, by simp [hgood]⟩, hb⟩
    · simp [hact]

end Results

end Sys2Proof.Claims
end

section
/-!
PROOF. Slot C's arithmetic, compares, selection, logic and shifts (R147, R149-R152, R154, R155): what an element-wise form commits, its
results as numbers, bits or values, and the statement about them (O24).
-/

namespace Sys2Proof.Claims

open Sys2Proof.Machine

/-! ## Element-wise forms -/

/-- The codes of sources read together: none where one is poison (R146). -/
theorem allSome_read {t : BitVec 4} (ht : t.toNat < 15) (xs : List VReg) (i j : Nat) :
    allSome (xs.map fun x => (VTy.of t).read x i j) =
      if xs.any fun x => badElem t x i j then none else some (xs.map fun x => elem (tyWidth t) x i j) := by
  induction xs with
  | nil => rfl
  | cons x l ih =>
    rw [List.map_cons, of_read ht, List.any_cons]
    cases badElem t x i j
    · show (allSome _).map _ = _
      rw [ih, Bool.false_or]
      split <;> rfl
    · rfl

/-- The codes of sources by their numbers. -/
theorem arg_map_elem (w : Nat) (xs : List VReg) (i j : Nat) :
    arg (xs.map fun x => elem w x i j) = fun n => elem w (xs.getD n VReg.zero) i j := by
  funext n
  rw [arg, List.getElem?_map, List.getD_eq_getElem?_getD]
  cases xs[n]? <;> simp

/-- What an element-wise form commits: in each active lane the results of its operation, none where a source is poison. -/
theorem elemForm_commits {t : BitVec 4} (ht : t.toNat < 15) {s : State} (lat : Nat) (d : Reg) {k : BitVec 3} {rs : List Reg}
    (op : List Nat → FRes) (h : ∀ x ∈ rs.map s.ctx.vec.read, Undeferred x (s.ctx.vec.active k)) :
    let act := s.ctx.vec.active k
    let xs := rs.map s.ctx.vec.read
    let f (i : Nat) : LaneRes := (VTy.of t).result ((List.range (32 / tyWidth t)).map fun j =>
      if xs.any fun x => badElem t x i j then none else some (op (xs.map fun x => elem (tyWidth t) x i j)))
    (s.elemForm (VTy.of t) lat d k rs op).out = .next (commitsC s lat d (buildVec act f).1 act (buildVec act f).2) := by
  intro act xs f
  have hsources : ∀ x ∈ rs.map fun r => s.vsrc r act, Undeferred x.val x.need := by
    simp only [List.mem_map]
    rintro - ⟨r, hr, rfl⟩
    exact h _ (List.mem_map_of_mem hr)
  rw [State.elemForm, vecOut_commits _ hsources, of_epl ht]
  have hf : (fun i => (VTy.of t).result ((List.range (32 / tyWidth t)).map fun j =>
      (allSome ((rs.map fun r => s.vsrc r act).map fun x => (VTy.of t).read x.val i j)).map op)) = f := by
    funext i
    refine congrArg _ (List.map_congr_left fun j _ => ?_)
    have hread : (rs.map fun r => s.vsrc r act).map (fun x => (VTy.of t).read x.val i j) = xs.map fun x => (VTy.of t).read x i j := by
      simp [xs, State.vsrc, Function.comp_def]
    rw [hread, allSome_read ht]
    split <;> rfl
  rw [hf]

/-- An instruction that is an element-wise form commits what its operation makes of the codes. -/
theorem elementwise_of {t : BitVec 4} {lat : Nat} {mk : Reg → Reg → Reg → BitVec 3 → Instr} {reads : Reg → Reg → Reg → List Reg}
    {op : List Nat → FRes} {R : (Nat → Nat) → FRes → Prop} (ht : t.toNat < 15)
    (hR : ∀ l : List Nat, (∀ x ∈ l, x < 2 ^ tyWidth t) → (op l).1 < 2 ^ tyWidth t ∧ R (arg l) (op l))
    (he : ∀ d a b k s, exec (mk d a b k) s = s.taskOnly (s.elemForm (VTy.of t) lat d k (reads d a b) op) := by intros; rfl) :
    Elementwise mk reads t lat R := by
  intro s d a b k hin act xs bad hx
  have hcodes : ∀ i j, ∀ c ∈ xs.map fun x => elem (tyWidth t) x i j, c < 2 ^ tyWidth t := by
    simp only [List.mem_map]
    rintro i j - ⟨x, -, rfl⟩
    exact elem_lt ..
  refine ⟨_, _, fun i j => op (xs.map fun x => elem (tyWidth t) x i j),
    by rw [he, State.taskOnly_task hin]; exact elemForm_commits ht lat d op hx,
    elements_buildVec ht (fun i _ j _ _ _ => (hR _ (hcodes i j)).1) fun i _ _ => rfl, fun i _ j _ _ _ => ?_⟩
  rw [← arg_map_elem]
  exact (hR _ (hcodes i j)).2

/-! ## Integer results (R94, R150) -/

theorem iarg_map (t : BitVec 4) (l : List Nat) (n : Nat) : iarg (l.map (tyInt t)) n = tyInt t (arg l n) := by
  have hzero : tyInt t 0 = 0 := by
    unfold tyInt signedField
    split <;> simp
  rw [iarg, arg, List.getElem?_map]
  cases l[n]? with
  | none => simp [hzero]
  | some x => rfl

theorem arith_int {t : BitVec 4} (ht : t.toNat < 6) (m : BitVec 2) (int : List Int → Int) (fp : FFmt → List Nat → FRes) (l : List Nat) :
    (VTy.of t).arith m int fp l = intResult (tyWidth t) (decide (t.toNat % 2 = 0)) (m = 1) (int (l.map (tyInt t))) := by
  have hf := tyFloat_of_lt ht
  have h15 : t.toNat < 15 := by omega
  rw [← funext (of_toInt h15 hf), of_int h15 hf]
  rfl

section Bounds
variable (t : BitVec 4)

theorem two_pow_tyWidth : (2 : Nat) ^ tyWidth t = 2 * 2 ^ (tyWidth t - 1) := by
  rw [← Nat.pow_succ', Nat.succ_eq_add_one, Nat.sub_add_cancel (tyWidth_pos t)]

theorem tyLow_eq : tyLow t = if t.toNat % 2 = 0 then -((2 ^ (tyWidth t - 1) : Nat) : Int) else 0 := by
  rw [tyLow]; push_cast; rfl

theorem tyHigh_eq : tyHigh t = if t.toNat % 2 = 0 then ((2 ^ (tyWidth t - 1) : Nat) : Int) - 1 else ((2 ^ tyWidth t : Nat) : Int) - 1 := by
  rw [tyHigh]; push_cast; rfl

theorem tyLow_le_tyHigh : tyLow t ≤ tyHigh t := by
  revert t; decide

/-- An integer cut to the width of a type. -/
def wrapped (q : Int) : Nat := (q % (2 ^ tyWidth t : Nat)).toNat

theorem wrapped_eq (q : Int) : (wrapped t q : Int) = q % (2 ^ tyWidth t : Nat) :=
  Int.toNat_of_nonneg (Int.emod_nonneg _ (by exact_mod_cast (Nat.two_pow_pos _).ne'))

theorem wrapped_lt (q : Int) : wrapped t q < 2 ^ tyWidth t := by
  have h := Int.emod_lt_of_pos q (b := (2 ^ tyWidth t : Nat)) (by exact_mod_cast Nat.two_pow_pos _)
  rw [← wrapped_eq] at h
  exact_mod_cast h

/-- A number within the bounds of a type is kept. -/
theorem tyInt_wrapped {q : Int} (hlo : tyLow t ≤ q) (hhi : q ≤ tyHigh t) : tyInt t (wrapped t q) = q := by
  have hw := wrapped_eq t q
  have hpow := two_pow_tyWidth t
  have hcast : (2 : Int) ^ tyWidth t = (2 ^ tyWidth t : Nat) := by push_cast; rfl
  rw [tyLow_eq] at hlo
  rw [tyHigh_eq] at hhi
  unfold tyInt signedField
  rw [hcast]
  generalize 2 ^ tyWidth t = n at *
  generalize 2 ^ (tyWidth t - 1) = m at *
  split
  next h =>
    rw [if_pos h] at hlo hhi
    obtain hneg | hpos := Int.lt_or_le q 0
    · rw [← Int.add_emod_right, Int.emod_eq_of_lt (by omega) (by omega)] at hw
      split <;> omega
    · rw [Int.emod_eq_of_lt hpos (by omega)] at hw
      split <;> omega
  next h =>
    rw [if_neg h] at hlo hhi
    rw [hw, Int.emod_eq_of_lt hlo (by omega)]

/-- The model's integer result is the one of R94 and R150. -/
theorem intResult_spec (sat : Prop) [Decidable sat] (q : Int) :
    IntResult t sat q (intResult (tyWidth t) (decide (t.toNat % 2 = 0)) (decide sat) q) := by
  have hres : intResult (tyWidth t) (decide (t.toNat % 2 = 0)) (decide sat) q =
      if sat then if q < tyLow t then (wrapped t (tyLow t), flSAT) else if tyHigh t < q then (wrapped t (tyHigh t), flSAT)
        else (wrapped t q, 0) else (wrapped t q, 0) := by
    rw [tyLow_eq, tyHigh_eq]
    simp only [intResult, decide_eq_true_eq]
    rfl
  have hbounds := tyLow_le_tyHigh t
  rw [hres, IntResult]
  by_cases hs : sat
  · simp only [if_pos hs]
    split
    next h => exact ⟨wrapped_lt .., by rw [tyInt_wrapped t le_rfl hbounds]; omega, by rw [tyInt_wrapped t le_rfl hbounds, if_neg h.ne']⟩
    next h =>
      split
      next h' =>
        exact ⟨wrapped_lt .., by rw [tyInt_wrapped t hbounds le_rfl]; omega, by rw [tyInt_wrapped t hbounds le_rfl, if_neg h'.ne]⟩
      next h' =>
        have hq := tyInt_wrapped t (not_lt.1 h) (not_lt.1 h')
        exact ⟨wrapped_lt .., by rw [hq]; omega, by rw [hq, if_pos rfl]⟩
  · simp only [if_neg hs]
    refine ⟨wrapped_lt .., ?_, trivial⟩
    have h := Int.emod_add_mul_ediv q (2 ^ tyWidth t : Nat)
    rw [wrapped_eq]
    push_cast at h ⊢
    exact ⟨-(q / 2 ^ tyWidth t), by linarith⟩

end Bounds

end Sys2Proof.Claims
end

section
/-!
PROOF. Slot C's arithmetic, compares, selection, logic and shifts (R147, R149-R152, R154, R155): results that fit their elements, the
forms on integers, values, bits and masks, and the statement about them (O24).
-/

namespace Sys2Proof.Claims

open Sys2Proof.Machine

/-! ## Codes that fit their format -/

section Fits
variable {f : FFmt} (h : PlainIeee f)
include h

theorem PlainIeee.mulV_lt (mode : RMode) (x y : FVal) : (f.mulV mode x y).1 < 2 ^ f.width := by
  unfold FFmt.mulV
  split
  · exact magnitude_lt h.poisonCode_lt
  · exact magnitude_lt h.poisonCode_lt
  · exact magnitude_lt h.nanCode_lt
  · exact magnitude_lt h.nanCode_lt
  · exact sign_lt h.infCode_lt
  · split
    · exact magnitude_lt h.nanCode_lt
    · exact sign_lt h.infCode_lt
  · split
    · exact magnitude_lt h.nanCode_lt
    · exact sign_lt h.infCode_lt
  · exact h.round_lt ..

theorem PlainIeee.infPlus_lt (c : FVal) (neg : Bool) : (f.infPlus c neg).1 < 2 ^ f.width := by
  unfold FFmt.infPlus
  split
  · split
    · exact sign_lt h.infCode_lt
    · exact magnitude_lt h.nanCode_lt
  · exact sign_lt h.infCode_lt

theorem PlainIeee.fmaV_lt (mode : RMode) (c x y : FVal) : (f.fmaV mode c x y).1 < 2 ^ f.width := by
  unfold FFmt.fmaV
  split
  · exact magnitude_lt h.poisonCode_lt
  · exact magnitude_lt h.poisonCode_lt
  · exact magnitude_lt h.poisonCode_lt
  · exact magnitude_lt h.nanCode_lt
  · exact magnitude_lt h.nanCode_lt
  · exact magnitude_lt h.nanCode_lt
  · exact h.infPlus_lt ..
  · split
    · exact magnitude_lt h.nanCode_lt
    · exact h.infPlus_lt ..
  · split
    · exact magnitude_lt h.nanCode_lt
    · exact h.infPlus_lt ..
  · exact sign_lt h.infCode_lt
  · exact h.roundInt_lt ..

theorem PlainIeee.minmax_lt (greater : Bool) {x y : Nat} (hx : x < 2 ^ f.width) (hy : y < 2 ^ f.width) :
    f.minmax greater x y < 2 ^ f.width := by
  have hnan := magnitude_lt h.nanCode_lt
  unfold FFmt.minmax
  extract_lets u v less
  split_ifs <;> assumption

end Fits

/-! ## Typed forms (R149, R150) -/

/-- A code of an element format of the arithmetic. -/
theorem floatTy {t : BitVec 4} (h : t = 6 ∨ t = 7 ∨ t = 8) : t.toNat < 15 ∧ tyFloat t = true ∧ PlainIeee (tyFormat t) ∧
    (tyFormat t).eb ≠ 0 := by
  obtain rfl | rfl | rfl := h <;> exact ⟨by decide, by decide, ⟨rfl, by decide⟩, by decide⟩

theorem arith_float {t : BitVec 4} (h : t = 6 ∨ t = 7 ∨ t = 8) (m : BitVec 2) (int : List Int → Int) (fp : FFmt → List Nat → FRes)
    (l : List Nat) : (VTy.of t).arith m int fp l = fp (tyFormat t) l := by
  obtain ⟨h15, hf, -, -⟩ := floatTy h
  rw [of_float h15 hf]
  rfl

theorem arg_lt {w : Nat} {l : List Nat} (h : ∀ x ∈ l, x < 2 ^ w) (n : Nat) : arg l n < 2 ^ w := by
  rw [arg]
  cases hn : l[n]? with
  | none => exact Nat.two_pow_pos w
  | some x => exact h x (List.mem_of_getElem? hn)

/-- An element-wise form of an integer type with MODE is its function on the integers. -/
theorem elementwise_int {t : BitVec 4} {m : BitVec 2} {lat : Nat} {mk : Reg → Reg → Reg → BitVec 3 → Instr}
    {reads : Reg → Reg → Reg → List Reg} {int : List Int → Int} {fp : FFmt → List Nat → FRes} {q : (Nat → Int) → Int} (ht : t.toNat < 6)
    (hq : ∀ l : List Nat, int (l.map (tyInt t)) = q fun n => tyInt t (arg l n))
    (he : ∀ d a b k s, exec (mk d a b k) s = s.taskOnly (s.elemForm (VTy.of t) lat d k (reads d a b) ((VTy.of t).arith m int fp))) :
    Elementwise mk reads t lat fun e r => IntResult t (m = 1) (q fun n => tyInt t (e n)) r :=
  elementwise_of (by omega) (fun l _ => by
    have h := intResult_spec t (m = 1) (int (l.map (tyInt t)))
    rw [arith_int ht, ← hq]
    exact ⟨h.1, h⟩) he

/-- An element-wise form of a floating-point type is its function on the codes. -/
theorem elementwise_float {t : BitVec 4} {m : BitVec 2} {mk : Reg → Reg → Reg → BitVec 3 → Instr} {lat : Nat}
    {reads : Reg → Reg → Reg → List Reg} {int : List Int → Int} {fp : FFmt → List Nat → FRes} {R : (Nat → Nat) → FRes → Prop}
    (ht : t = 6 ∨ t = 7 ∨ t = 8)
    (hR : ∀ l : List Nat, (∀ x ∈ l, x < 2 ^ tyWidth t) → (fp (tyFormat t) l).1 < 2 ^ tyWidth t ∧ R (arg l) (fp (tyFormat t) l))
    (he : ∀ d a b k s, exec (mk d a b k) s = s.taskOnly (s.elemForm (VTy.of t) lat d k (reads d a b) ((VTy.of t).arith m int fp))) :
    Elementwise mk reads t lat R :=
  elementwise_of (floatTy ht).1 (fun l hl => by rw [arith_float ht]; exact hR l hl) he

theorem latency_int {t : BitVec 4} (ht : t.toNat < 6) (lat : Nat) : (VTy.of t).latency lat = lat := by
  rw [VTy.latency, of_isFp (by omega), tyFloat_of_lt ht]
  rfl

theorem latency_float {t : BitVec 4} (ht : t = 6 ∨ t = 7 ∨ t = 8) (lat : Nat) : (VTy.of t).latency lat = 4 := by
  rw [VTy.latency, of_isFp (floatTy ht).1, (floatTy ht).2.1]
  rfl

/-- The latency of a form that takes as long on integers as on floating point. -/
theorem latency_four (t : VTy) : t.latency 4 = 4 := ite_self 4

/-- An instruction with MODE is a typed form when its function on integers is the one on their values, and its function on floating
point gives codes that its relation admits. -/
theorem typed_of {mk : Reg → Reg → Reg → BitVec 3 → BitVec 4 → BitVec 2 → Instr} {reads : Reg → Reg → Reg → List Reg} {lat : Nat}
    (int : List Int → Int) (fp : BitVec 2 → FFmt → List Nat → FRes) {q : (Nat → Int) → Int}
    {R : FFmt → RMode → (Nat → FVal) → FRes → Prop} (hq : ∀ (t : BitVec 4) (l : List Nat), int (l.map (tyInt t)) = q fun n => tyInt t (arg l n))
    (hR : ∀ f, PlainIeee f → ∀ m l, (fp m f l).1 < 2 ^ f.width ∧ R f (rmode m) (fun n => f.unpack (arg l n)) (fp m f l))
    (he : ∀ d a b k t m s, exec (mk d a b k t m) s =
      s.taskOnly (s.elemForm (VTy.of t) ((VTy.of t).latency lat) d k (reads d a b) ((VTy.of t).arith m int (fp m))) := by
        intros; rfl) :
    Typed mk reads lat q R := by
  refine ⟨fun t m ht _ => elementwise_int (fp := fp m) ht (hq t) fun d a b k s => ?_,
    fun t m ht => elementwise_float (m := m) (int := int) (fp := fp m) ht (fun l _ => ?_) fun d a b k s => ?_⟩
  · rw [he, latency_int ht]
  · obtain ⟨h15, hf, hplain, -⟩ := floatTy ht
    rw [← format_width h15 hf]
    exact hR _ hplain m l
  · rw [he, latency_float ht]

/-! ## Lesser and greater (R149) -/

theorem pick_int {t : BitVec 4} (ht : t.toNat < 6) (greater : Bool) {x y : Nat} (hx : x < 2 ^ tyWidth t) (hy : y < 2 ^ tyWidth t) :
    (VTy.of t).pick greater x y < 2 ^ tyWidth t ∧ tyInt t ((VTy.of t).pick greater x y) =
      if greater then max (tyInt t x) (tyInt t y) else min (tyInt t x) (tyInt t y) := by
  have h15 : t.toNat < 15 := by omega
  have hf := tyFloat_of_lt ht
  have hpick : (VTy.of t).pick greater x y = if greater then (if tyInt t x < tyInt t y then y else x)
      else (if tyInt t y < tyInt t x then y else x) := by
    rw [← of_toInt h15 hf, ← of_toInt h15 hf, of_int h15 hf]
    rfl
  rw [hpick]
  split
  · split
    · exact ⟨hy, by omega⟩
    · exact ⟨hx, by omega⟩
  · split
    · exact ⟨hy, by omega⟩
    · exact ⟨hx, by omega⟩

theorem pick_float {t : BitVec 4} (ht : t = 6 ∨ t = 7 ∨ t = 8) (greater : Bool) {x y : Nat} (hx : x < 2 ^ tyWidth t)
    (hy : y < 2 ^ tyWidth t) : (VTy.of t).pick greater x y < 2 ^ tyWidth t ∧
      Extreme (tyFormat t) greater x y ((VTy.of t).pick greater x y, 0) := by
  obtain ⟨h15, hf, hplain, heb⟩ := floatTy ht
  rw [← format_width h15 hf] at hx hy ⊢
  rw [of_float h15 hf]
  exact ⟨hplain.minmax_lt greater hx hy, extreme_minmax hplain heb greater x y⟩

theorem vecExtreme_of {mk : Reg → Reg → Reg → BitVec 3 → BitVec 4 → Instr} {greater : Bool}
    (he : ∀ d a b k t s, exec (mk d a b k t) s = s.taskOnly (s.elemForm (VTy.of t) ((VTy.of t).latency 2) d k [a, b]
      fun l => ((VTy.of t).pick greater (arg l 0) (arg l 1), 0)) := by intros; rfl) : VecExtreme mk greater := by
  refine ⟨fun t ht => elementwise_of (op := fun l => ((VTy.of t).pick greater (arg l 0) (arg l 1), 0)) (by omega) (fun l hl => ?_)
    fun d a b k s => ?_, fun t ht => elementwise_of (op := fun l => ((VTy.of t).pick greater (arg l 0) (arg l 1), 0)) (floatTy ht).1
      (fun l hl => ?_) fun d a b k s => ?_⟩
  · obtain ⟨hlt, hint⟩ := pick_int ht greater (arg_lt hl 0) (arg_lt hl 1)
    exact ⟨hlt, hlt, rfl, hint⟩
  · rw [he, latency_int ht]
  · exact pick_float ht greater (arg_lt hl 0) (arg_lt hl 1)
  · rw [he, latency_float ht]

/-! ## Signs (R149) -/

theorem mod_signBit {f : FFmt} {x : Nat} : x % 2 ^ (f.width - 1) < 2 ^ f.width ∧ f.signBit (x % 2 ^ (f.width - 1)) = false := by
  have hlow := Nat.mod_lt x (Nat.two_pow_pos (f.width - 1))
  have hlt : x % 2 ^ (f.width - 1) < 2 ^ f.width := hlow.trans_le (Nat.pow_le_pow_right two_pos (Nat.sub_le f.width 1))
  refine ⟨hlt, ?_⟩
  rw [← Bool.not_eq_true, signBit_iff hlt]
  exact not_le.2 hlow

/-- A half of the codes added turns the sign bit over. -/
theorem add_half_eq_flipped {f : FFmt} {x : Nat} (hx : x < 2 ^ f.width) : (x + 2 ^ (f.width - 1)) % 2 ^ f.width = flipped f x := by
  have hw := two_pow_width f
  have hsign := signBit_iff hx
  unfold flipped
  split
  next h =>
    have hge := hsign.1 h
    rw [Nat.mod_eq_sub_mod (by omega), Nat.mod_eq_of_lt (by omega)]
    omega
  next h =>
    have hlt := hsign.not.1 h
    exact Nat.mod_eq_of_lt (by omega)

theorem vecSign_of {mk : Reg → Reg → BitVec 3 → BitVec 4 → BitVec 2 → Instr} (int : Int → Int) {sign : Bool → Bool}
    (fp : FFmt → Nat → Nat)
    (hfp : ∀ f x, x < 2 ^ f.width → fp f x < 2 ^ f.width ∧ fp f x % 2 ^ (f.width - 1) = x % 2 ^ (f.width - 1) ∧
      f.signBit (fp f x) = sign (f.signBit x))
    (he : ∀ d a k t m s, exec (mk d a k t m) s = s.taskOnly (s.elemForm (VTy.of t) ((VTy.of t).latency 2) d k [a]
      ((VTy.of t).arith m (fun l => int (iarg l 0)) fun f l => (fp f (arg l 0), 0))) := by intros; rfl) : VecSign mk int sign := by
  refine ⟨fun t m ht _ => elementwise_int (int := fun l => int (iarg l 0)) (fp := fun f l => (fp f (arg l 0), 0))
      (q := fun e => int (e 0)) ht (fun l => by rw [iarg_map]) fun d a b k s => ?_,
    fun t ht => elementwise_float (m := 0) (int := fun l => int (iarg l 0)) (fp := fun f l => (fp f (arg l 0), 0)) ht
      (fun l hl => ?_) fun d a b k s => ?_⟩
  · rw [he, latency_int ht]
  · obtain ⟨h15, hf, -, -⟩ := floatTy ht
    have hlt := arg_lt hl 0
    rw [← format_width h15 hf] at hlt ⊢
    obtain ⟨hres, hlow, hsign⟩ := hfp _ _ hlt
    exact ⟨hres, hres, rfl, hlow, hsign⟩
  · rw [he, latency_float ht]

theorem vectorArithmetic : VectorArithmetic := by
  refine ⟨typed_of (fun l => iarg l 0 + iarg l 1) (fun m f l => f.addV (rmode m) (farg f l 0) (farg f l 1))
      (fun t l => by simp only [iarg_map]) fun f hf m l => ⟨hf.addV_lt .., sum_addV ..⟩,
    typed_of (fun l => iarg l 0 - iarg l 1) (fun m f l => f.addV (rmode m) (farg f l 0) (farg f l 1).neg)
      (fun t l => by simp only [iarg_map]) fun f hf m l => ⟨hf.addV_lt .., sum_addV ..⟩,
    typed_of (fun l => iarg l 0 * iarg l 1) (fun m f l => f.mulV (rmode m) (farg f l 0) (farg f l 1))
      (fun t l => by simp only [iarg_map]) (fun f hf m l => ⟨hf.mulV_lt .., product_mulV ..⟩) fun d a b k t m s => ?_,
    typed_of (fun l => iarg l 2 + iarg l 0 * iarg l 1) (fun m f l => f.fmaV (rmode m) (farg f l 2) (farg f l 0) (farg f l 1))
      (fun t l => by simp only [iarg_map]) (fun f hf m l => ⟨hf.fmaV_lt .., fused_fmaV f (rmode m) _ _ _⟩) fun d a b k t m s => ?_,
    vecExtreme_of, vecExtreme_of, vecSign_of (fun x => |x|) (fun f x => x % 2 ^ (f.width - 1)) (fun f x _ => ?_) fun d a k t m s => ?_,
    vecSign_of (fun x => -x) (fun f x => (x + 2 ^ (f.width - 1)) % 2 ^ f.width) fun f x hx => ?_⟩
  · rw [latency_four]; rfl
  · rw [latency_four]; rfl
  · exact ⟨mod_signBit.1, Nat.mod_mod _ _, mod_signBit.2⟩
  · simp only [Int.abs_eq_natAbs]; rfl
  · rw [add_half_eq_flipped hx]
    exact flipped_cases hx

end Sys2Proof.Claims
end

section
/-!
PROOF. Slot C's compares, selection, logic and shifts (R151, R152, R154, R155) and the statement about its arithmetic forms (O24).
-/

namespace Sys2Proof.Claims

open Sys2Proof.Machine

/-! ## Compares (R151) -/

/-- A lane's compare, element by element: a poison one makes it false and raises nothing. -/
theorem foldl_rel {α : Type} (bad : α → Bool) (q : α → Bool × BitVec 7) (l : List α) (acc : Bool × BitVec 7) :
    let r := l.foldl (fun acc j => if bad j then (false, acc.2) else (acc.1 && (q j).1, acc.2 ||| (q j).2)) acc
    (r.1 = true ↔ acc.1 = true ∧ ∀ j ∈ l, bad j = false ∧ (q j).1 = true) ∧
    ∀ b, r.2.getLsbD b = true ↔ acc.2.getLsbD b = true ∨ ∃ j ∈ l, bad j = false ∧ (q j).2.getLsbD b = true := by
  induction l generalizing acc with
  | nil => simp
  | cons j t ih =>
    obtain ⟨hval, hfl⟩ := ih (if bad j then (false, acc.2) else (acc.1 && (q j).1, acc.2 ||| (q j).2))
    simp only [List.foldl_cons, List.forall_mem_cons, List.exists_mem_cons_iff]
    refine ⟨hval.trans ?_, fun b => (hfl b).trans ?_⟩ <;> cases bad j <;> simp [and_assoc, or_assoc]

section Lanes
variable {t : BitVec 4} (ht : t.toNat < 15) (r : VRel) (x y : VReg) (i : Nat)
include ht

/-- The relation of a lane holds when no element is poison and it holds for every one; its flags are those of the elements. -/
theorem laneRel_spec : let w := tyWidth t
    let bad (j : Nat) : Bool := badElem t x i j || badElem t y i j
    let q (j : Nat) := (VTy.of t).rel r (elem w x i j) (elem w y i j)
    (((VTy.of t).laneRel r x y i).1 = true ↔ ∀ j < 32 / w, bad j = false ∧ (q j).1 = true) ∧
    ∀ b, ((VTy.of t).laneRel r x y i).2.getLsbD b = true ↔ ∃ j < 32 / w, bad j = false ∧ (q j).2.getLsbD b = true := by
  intro w bad q
  unfold VTy.laneRel
  split
  next h =>
    have hbad : ∀ j, bad j = true := by
      intro j
      simp only [Bool.or_eq_true, ← badLane_eq] at h
      simp only [bad, badElem, Bool.or_eq_true]
      tauto
    simp only [hbad, Bool.true_eq_false, false_and, and_false, exists_false, Bool.false_eq_true, false_iff]
    exact ⟨fun hall => hall 0 (perLane_pos t), by simp⟩
  next h =>
    have hstep : (fun (acc : Bool × BitVec 7) j => match (VTy.of t).read x i j, (VTy.of t).read y i j with
        | some u, some v => let q := (VTy.of t).rel r u v; (acc.1 && q.1, acc.2 ||| q.2)
        | _, _ => (false, acc.2)) = fun acc j => if bad j then (false, acc.2) else (acc.1 && (q j).1, acc.2 ||| (q j).2) := by
      funext acc j
      simp only [of_read ht, bad]
      by_cases hx : badElem t x i j = true
      · simp [hx]
      · by_cases hy : badElem t y i j = true
        · simp [hx, hy]
        · simp [hx, hy, q, w]
    have hfold := foldl_rel bad q (List.range (32 / w)) (true, 0)
    simp only [List.mem_range, true_and, BitVec.ofNat_eq_ofNat, BitVec.getLsbD_zero, Bool.false_eq_true, false_or] at hfold
    rw [of_epl ht]
    exact hstep ▸ hfold

end Lanes

/-- Flags that are either none or a given set. -/
theorem eq_ite_flags {fl c : BitVec 7} {p : Prop} [Decidable p] (h : ∀ b, fl.getLsbD b = true ↔ p ∧ c.getLsbD b = true) :
    fl = if p then c else 0 := by
  refine BitVec.eq_of_getLsbD_eq fun b _ => Bool.eq_iff_iff.2 ((h b).trans ?_)
  split <;> simp [*]

/-- A relation of two integers. -/
def intHolds : VRel → Int → Int → Bool
  | .eq, x, y => x = y
  | .ne, x, y => x ≠ y
  | .lt, x, y => x < y
  | .le, x, y => x ≤ y

theorem rel_int {t : BitVec 4} (ht : t.toNat < 6) (r : VRel) (x y : Nat) :
    (VTy.of t).rel r x y = (intHolds r (tyInt t x) (tyInt t y), 0) := by
  have h15 : t.toNat < 15 := by omega
  have hf := tyFloat_of_lt ht
  rw [← of_toInt h15 hf, ← of_toInt h15 hf, of_int h15 hf]
  cases r <;> rfl

/-- A compare's relations on integers and on values are decided by a relation of the model, which signals as told. -/
structure Decides (r : VRel) (int : Int → Int → Prop) (fp : FVal → FVal → Prop) (signals : Bool) : Prop where
  int_iff : ∀ (t : BitVec 4) (x y : Nat), t.toNat < 6 → (((VTy.of t).rel r x y).1 = true ↔ int (tyInt t x) (tyInt t y))
  fp_iff : ∀ (f : FFmt) (x y : Nat), (f.unpack x).isPoison = false → (f.unpack y).isPoison = false →
    (((VTy.fp f).rel r x y).1 = true ↔ fp (f.unpack x) (f.unpack y))
  fp_flags : ∀ (f : FFmt) (x y : Nat), ((VTy.fp f).rel r x y).2 =
    if signals = true ∧ (f.unpack x = .nan ∨ f.unpack y = .nan) then flNV else 0

theorem float_of_ge {t : BitVec 4} (h6 : 6 ≤ t.toNat) (h9 : t.toNat < 9) : t = 6 ∨ t = 7 ∨ t = 8 := by
  revert t; decide

theorem isNan_iff (v : FVal) : v.isNan = true ↔ v = .nan := by cases v <;> simp [FVal.isNan]

section Compare
variable {r : VRel} {int : Int → Int → Prop} {fp : FVal → FVal → Prop} {signals : Bool} (h : Decides r int fp signals)
include h

/-- The relation of two elements that are not poison. -/
theorem Decides.rel_iff {t : BitVec 4} (ht : t.toNat < 9) {x y : VReg} {i j : Nat} (hx : badElem t x i j = false)
    (hy : badElem t y i j = false) : let w := tyWidth t
    ((VTy.of t).rel r (elem w x i j) (elem w y i j)).1 = true ↔
      (t.toNat < 6 → int (tyInt t (elem w x i j)) (tyInt t (elem w y i j))) ∧
      (6 ≤ t.toNat → fp ((tyFormat t).unpack (elem w x i j)) ((tyFormat t).unpack (elem w y i j))) := by
  intro w
  obtain h6 | h6 := Nat.lt_or_ge t.toNat 6
  · rw [h.int_iff t _ _ h6]
    exact ⟨fun hi => ⟨fun _ => hi, fun hge => absurd h6 (by omega)⟩, fun hi => hi.1 h6⟩
  · obtain ⟨h15, hf, -, -⟩ := floatTy (float_of_ge h6 ht)
    simp only [badElem, hf, Bool.true_and, Bool.or_eq_false_iff] at hx hy
    rw [of_float h15 hf, h.fp_iff _ _ _ hx.2 hy.2]
    exact ⟨fun hv => ⟨fun hlt => absurd h6 (by omega), fun _ => hv⟩, fun hv => hv.2 h6⟩

theorem Decides.rel_flags {t : BitVec 4} (ht : t.toNat < 9) (x y b : Nat) : ((VTy.of t).rel r x y).2.getLsbD b = true ↔
    (signals = true ∧ 6 ≤ t.toNat ∧ ((tyFormat t).unpack x = .nan ∨ (tyFormat t).unpack y = .nan)) ∧ flNV.getLsbD b = true := by
  obtain h6 | h6 := Nat.lt_or_ge t.toNat 6
  · rw [rel_int h6]
    simp [show ¬6 ≤ t.toNat by omega]
  · obtain ⟨h15, hf, -, -⟩ := floatTy (float_of_ge h6 ht)
    rw [of_float h15 hf, h.fp_flags]
    split <;> simp_all

/-- An instruction that compares decides its relation, lane by lane. -/
theorem vecCompare_of {mk : Reg → Reg → Reg → BitVec 3 → BitVec 4 → Instr}
    (he : ∀ d a b k t s, exec (mk d a b k t) s = s.taskOnly (s.vcmp r d a b k t) := by intros; rfl) : VecCompare mk int fp signals := by
  classical
  intro s d a b k t hin ht act x y w fx fy bad hx hy
  have h15 : t.toNat < 15 := by omega
  have hlat : (VTy.of t).latency 2 = if t.toNat < 6 then 2 else 4 := by
    split
    next h6 => exact latency_int h6 2
    next h6 => exact latency_float (float_of_ge (by omega) ht) 2
  refine ⟨laneMask fun i => act.getLsbD i && ((VTy.of t).laneRel r x y i).1,
    ((List.range 64).map fun i => if act.getLsbD i then (VTy.of t).laneRel r x y i else (false, 0)).foldl (fun f p => f ||| p.2) 0,
    ?_, fun i hi => ?_, ?_⟩
  · have hgo : ∀ z ∈ [s.vsrc a act, s.vsrc b act], Undeferred z.val z.need := by simpa [State.vsrc] using ⟨hx, hy⟩
    rw [he, State.taskOnly_task hin, State.vcmp, needsLanes_go hgo, putK_commits, hlat]
    congr 2
    refine BitVec.eq_of_getLsbD_eq fun i hi => ?_
    simp only [getLsbD_laneMask, List.getElem?_map, List.getElem?_range hi, Option.map_some, Option.getD_some, hi, decide_true, Bool.true_and]
    cases act.getLsbD i <;> rfl
  · rw [getLsbD_laneMask, decide_eq_true hi, Bool.true_and, Bool.and_eq_true, (laneRel_spec h15 r x y i).1]
    refine and_congr_right fun _ => forall₂_congr fun j _ => and_congr_right fun hgood => ?_
    obtain ⟨hgx, hgy⟩ := Bool.or_eq_false_iff.1 hgood
    exact h.rel_iff ht hgx hgy
  · have hfl := eq_ite_flags (p := signals = true ∧ 6 ≤ t.toNat ∧ ∃ i < 64, ∃ j < 32 / w, act.getLsbD i = true ∧ bad i j = false ∧
        (fx i j = .nan ∨ fy i j = .nan)) (c := flNV) (fl := ((List.range 64).map fun i =>
          if act.getLsbD i then (VTy.of t).laneRel r x y i else (false, 0)).foldl (fun f p => f ||| p.2) 0) fun n => by
      rw [getLsbD_foldl_or]
      simp only [BitVec.ofNat_eq_ofNat, BitVec.getLsbD_zero, Bool.false_or, List.any_eq_true, List.mem_map, List.mem_range,
        exists_exists_and_eq_and]
      constructor
      · rintro ⟨i, hi, hn⟩
        split at hn
        · obtain ⟨j, hj, hgood, hn⟩ := ((laneRel_spec h15 r x y i).2 n).1 hn
          obtain ⟨⟨hs, h6, hnan⟩, hn⟩ := (h.rel_flags ht _ _ n).1 hn
          exact ⟨⟨hs, h6, i, hi, j, hj, ‹_›, hgood, hnan⟩, hn⟩
        · simp at hn
      · rintro ⟨⟨hs, h6, i, hi, j, hj, hact, hgood, hnan⟩, hn⟩
        refine ⟨i, hi, ?_⟩
        rw [if_pos hact, (laneRel_spec h15 r x y i).2 n]
        exact ⟨j, hj, hgood, (h.rel_flags ht _ _ n).2 ⟨⟨hs, h6, hnan⟩, hn⟩⟩
    rw [hfl]
    split
    next hp => exact ⟨.inr rfl, fun _ => hp, fun _ => rfl⟩
    next hp => exact ⟨.inl rfl, fun h0 => absurd h0 (by decide), fun hp' => absurd hp' hp⟩

end Compare

theorem decides_eq : Decides .eq (fun x y => x = y) Same false where
  int_iff t x y ht := by simp [rel_int ht, intHolds]
  fp_iff f x y _ _ := by
    rw [← relEq_iff, relEq, ← Bool.not_or]
    rfl
  fp_flags f x y := by simp [VTy.rel]

theorem decides_ne : Decides .ne (fun x y => x ≠ y) (fun x y => x = .nan ∨ y = .nan ∨ ¬Same x y) false where
  int_iff t x y ht := by simp [rel_int ht, intHolds]
  fp_iff f x y _ _ := by simp [VTy.rel, isNan_iff, ← eq_iff_same, or_assoc]
  fp_flags f x y := by simp [VTy.rel]

theorem nan_flags (u v : FVal) : (if (u.isNan || v.isNan) = true then flNV else 0) =
    if true = true ∧ (u = .nan ∨ v = .nan) then flNV else 0 := by
  simp [isNan_iff]

theorem decides_lt : Decides .lt (fun x y => x < y) Below true where
  int_iff t x y ht := by simp [rel_int ht, intHolds]
  fp_iff f x y hx hy := by
    rw [← relLt_iff hx hy, relLt, ← Bool.not_or]
    rfl
  fp_flags f x y := nan_flags ..

theorem decides_le : Decides .le (fun x y => x ≤ y) (fun x y => Below x y ∨ Same x y) true where
  int_iff t x y ht := by simp [rel_int ht, intHolds]
  fp_iff f x y hx hy := by
    rw [← relLt_iff hx hy, ← relEq_iff, ← Bool.or_eq_true, ← relLe_eq, relLe, ← Bool.not_or]
    rfl
  fp_flags f x y := nan_flags ..

/-! ## Selection (R152) -/

/-- Results that raise nothing. -/
theorem buildVec_quiet (act : BitVec 64) {f : Nat → LaneRes} (hf : ∀ i, (f i).flags = 0) : (buildVec act f).2 = 0 := by
  refine BitVec.eq_of_getLsbD_eq fun b _ => Bool.eq_iff_iff.2 ((buildVec_flags act f b).trans ?_)
  simp [hf]

/-- A form that moves lanes, and so raises nothing, commits the lanes that it names. -/
theorem moves_commits {s : State} {lat : Nat} {d : Reg} {m : BitVec 64} {l : List VSrc} {f : Nat → LaneRes} (hf : ∀ i, (f i).flags = 0)
    (h : ∀ x ∈ l, Undeferred x.val x.need) : ∃ v : VReg, (s.vecOut lat d m l f).out = .next (commitsC s lat d v m) ∧ v.spec = false ∧
      ∀ i < 64, m.getLsbD i = true → lane v i = (f i).bits ∧ v.side.getLsbD i = (f i).side := by
  refine ⟨(buildVec m f).1, by rw [vecOut_commits f h, buildVec_quiet m hf], buildVec_spec .., fun i hi hm => ?_⟩
  rw [lane_eq, buildVec_lane _ _ hi, buildVec_side _ _ hi, hm]
  exact ⟨rfl, rfl⟩

theorem allOnes_getLsbD {i : Nat} (h : i < 64) : (BitVec.allOnes 64).getLsbD i = true := by
  rw [BitVec.getLsbD_allOnes, decide_eq_true h]

theorem vectorSelection (s : State) (d a b : Reg) (k : BitVec 3) (hin : s.ctx.inHandler = false)
    (hx : Undeferred (s.ctx.vec.read a) (s.ctx.vec.active k)) (hy : Undeferred (s.ctx.vec.read b) (~~~s.ctx.vec.active k)) :
    ∃ v : VReg, exec (.vsel d a b k) s = .next (commitsC s 2 d v (BitVec.allOnes 64)) ∧ v.spec = false ∧
      ∀ i < 64, lane v i = (if (s.ctx.vec.active k).getLsbD i then lane (s.ctx.vec.read a) i else lane (s.ctx.vec.read b) i) ∧
        v.side.getLsbD i = if (s.ctx.vec.active k).getLsbD i then (s.ctx.vec.read a).side.getLsbD i
          else (s.ctx.vec.read b).side.getLsbD i := by
  have hgo : ∀ z ∈ [s.vsrc a (s.ctx.vec.active k), s.vsrc b (~~~s.ctx.vec.active k)], Undeferred z.val z.need := by
    simpa [State.vsrc] using ⟨hx, hy⟩
  obtain ⟨v, hv, hspec, hlanes⟩ := moves_commits (s := s) (lat := 2) (d := d) (m := BitVec.allOnes 64)
    (f := fun i => if (s.ctx.vec.active k).getLsbD i then (s.ctx.vec.read a).move i else (s.ctx.vec.read b).move i)
    (fun i => by split <;> rfl) hgo
  refine ⟨v, (State.taskOnly_task hin).trans hv, hspec, fun i hi => ?_⟩
  obtain ⟨hbits, hside⟩ := hlanes i hi (allOnes_getLsbD hi)
  rw [hbits, hside, lane_eq, lane_eq]
  split <;> exact ⟨rfl, rfl⟩

/-! ## Logic (R154) -/

/-- An instruction that is a bitwise form acts on each bit of the lanes. -/
theorem vecLogic_of {mk : Reg → Reg → Reg → BitVec 3 → Instr} {reads : Reg → Reg → Reg → List Reg} {f : Bool → Bool → Bool}
    (g : Nat → Nat → Nat)
    (hg : ∀ x y n, x < 2 ^ 32 → y < 2 ^ 32 → n < 32 → (g x y).testBit n = f (x.testBit n) (y.testBit n))
    (he : ∀ d a b k s, exec (mk d a b k) s = s.taskOnly (s.vlogic d k (reads d a b) g) := by intros; rfl) : VecLogic mk reads f := by
  refine elementwise_of (t := 1) (by decide) (fun l hl => ⟨Nat.mod_lt _ (by decide), Nat.mod_lt _ (by decide), rfl, fun n hn => ?_⟩) he
  rw [Nat.testBit_mod_two_pow, decide_eq_true hn, Bool.true_and]
  exact hg _ _ n (arg_lt hl 0) (arg_lt hl 1) hn

theorem testBit_complement {y n : Nat} (hy : y < 2 ^ 32) (hn : n < 32) : (2 ^ 32 - 1 - y).testBit n = !y.testBit n := by
  rw [Nat.sub_sub, Nat.add_comm 1, Nat.testBit_two_pow_sub_succ hy, decide_eq_true hn, Bool.true_and]

/-! ## Shifts (R155) -/

/-- An instruction that shifts makes of an element and an amount below its width what its relation admits. -/
theorem vecShift_of {mk : Reg → Reg → Reg → BitVec 3 → BitVec 4 → Instr} {R : Nat → Nat → Nat → Nat → Prop} (f : Nat → Nat → Nat → Nat)
    (hf : ∀ w x n, x < 2 ^ w → n < w → R w x n (f w x n % 2 ^ w))
    (he : ∀ d a b k t s, exec (mk d a b k t) s = s.taskOnly (s.vshift d a b k t f) := by intros; rfl) : VecShift mk R := by
  refine fun t ht => elementwise_of (op := fun l => (f (VTy.of t).w (arg l 0) (arg l 1 % (VTy.of t).w) % 2 ^ (VTy.of t).w, 0)) (by omega)
    (fun l hl => ?_) fun d a b k s => he d a b k t s
  have hlt := Nat.mod_lt (f (tyWidth t) (arg l 0) (arg l 1 % tyWidth t)) (Nat.two_pow_pos (tyWidth t))
  simp only [of_w (show t.toNat < 15 by omega)]
  exact ⟨hlt, hlt, trivial, hf _ _ _ (arg_lt hl 0) (Nat.mod_lt _ (tyWidth_pos t))⟩

/-- An arithmetic shift fills the places that become free with the sign. -/
theorem shiftedRight_signed {w x n : Nat} (hx : x < 2 ^ w) (hn : n < w) : signedField w ((if x < 2 ^ (w - 1) then x / 2 ^ n
      else x / 2 ^ n + (2 ^ w - 2 ^ (w - n))) % 2 ^ w) = signedField w x / 2 ^ n := by
  obtain ⟨k, rfl⟩ := Nat.exists_eq_add_of_lt hn
  have hk : n + k + 1 - n = k + 1 := by omega
  have hk1 : n + k + 1 - 1 = n + k := by omega
  rw [hk, hk1]
  have hp : 2 ^ (n + k + 1) = 2 ^ n * 2 ^ k * 2 := by rw [Nat.pow_succ, Nat.pow_add]
  have hq : 2 ^ (n + k) = 2 ^ n * 2 ^ k := Nat.pow_add ..
  have hr : 2 ^ (k + 1) = 2 ^ k * 2 := Nat.pow_succ ..
  have hdiv : x / 2 ^ n < 2 ^ k * 2 := by
    rw [Nat.div_lt_iff_lt_mul (Nat.two_pow_pos n)]
    calc x < _ := hx
      _ = _ := by rw [hp]; ring
  have hpos := Nat.two_pow_pos n
  have hkpos := Nat.two_pow_pos k
  have hle : 2 ^ k ≤ 2 ^ n * 2 ^ k := Nat.le_mul_of_pos_left _ hpos
  split
  next hlow =>
    have hsmall : x / 2 ^ n < 2 ^ k := by
      rw [Nat.div_lt_iff_lt_mul hpos, Nat.mul_comm, ← hq]
      exact hlow
    rw [Nat.mod_eq_of_lt (by omega), signedField, signedField, hk1, if_pos (by omega), if_pos hlow]
    norm_cast
  next hhigh =>
    have hbig : 2 ^ k ≤ x / 2 ^ n := by
      rw [Nat.le_div_iff_mul_le hpos, Nat.mul_comm, ← hq]
      omega
    have hneg : ((x : Int) - 2 ^ (n + k + 1)) / 2 ^ n = (x / 2 ^ n : Nat) - (2 ^ (k + 1) : Nat) := by
      have hmul : (2 : Int) ^ (n + k + 1) = 2 ^ n * (2 ^ (k + 1) : Nat) := by push_cast; ring
      rw [hmul, Int.sub_mul_ediv_left _ _ (by positivity)]
      norm_cast
    rw [Nat.mod_eq_of_lt (by omega), signedField, signedField, hk1, if_neg (by omega), if_neg hhigh, hneg]
    zify [show 2 ^ (k + 1) ≤ 2 ^ (n + k + 1) by omega]
    ring

/-- A rotated bit goes `n` places up, past the top to the bottom. -/
theorem testBit_rotated {w x n i : Nat} (hx : x < 2 ^ w) (hn : n < w) (hi : i < w) :
    ((x * 2 ^ n + x / 2 ^ (w - n)) % 2 ^ w).testBit ((i + n) % w) = x.testBit i := by
  have hlow : x / 2 ^ (w - n) < 2 ^ n := by
    rw [Nat.div_lt_iff_lt_mul (Nat.two_pow_pos _), ← Nat.pow_add, Nat.add_sub_cancel' hn.le]
    exact hx
  rw [Nat.testBit_mod_two_pow, decide_eq_true (Nat.mod_lt _ (by omega)), Bool.true_and, Nat.mul_comm,
    Nat.testBit_two_pow_mul_add _ hlow]
  obtain h | h := Nat.lt_or_ge (i + n) w
  · rw [Nat.mod_eq_of_lt h, if_neg (by omega), Nat.add_sub_cancel]
  · rw [Nat.mod_eq_sub_mod h, Nat.mod_eq_of_lt (by omega), if_pos (by omega), Nat.testBit_div_two_pow]
    congr 1
    omega

theorem vectorComparesAndLogic : VectorComparesAndLogic := by
  refine ⟨vecCompare_of decides_eq, vecCompare_of decides_ne, vecCompare_of decides_lt, vecCompare_of decides_le,
    fun s d a b k hin hx hy => vectorSelection s d a b k hin hx hy,
    vecLogic_of Nat.land fun x y n _ _ _ => Nat.testBit_land x y n, vecLogic_of Nat.lor fun x y n _ _ _ => Nat.testBit_lor x y n,
    vecLogic_of Nat.xor fun x y n _ _ _ => Nat.testBit_xor x y n,
    vecLogic_of (fun x y => Nat.land x (2 ^ 32 - 1 - y)) fun x y n _ hy hn => ?_,
    vecLogic_of (fun x _ => 2 ^ 32 - 1 - x) fun x y n hx _ hn => testBit_complement hx hn,
    vecShift_of (fun _ x n => x * 2 ^ n) fun w x n _ _ => rfl, vecShift_of (fun _ x n => x / 2 ^ n) fun w x n hx _ => ?_,
    vecShift_of (fun w x n => if x < 2 ^ (w - 1) then x / 2 ^ n else x / 2 ^ n + (2 ^ w - 2 ^ (w - n)))
      fun w x n hx hn => shiftedRight_signed hx hn,
    vecShift_of (fun w x n => x * 2 ^ n + x / 2 ^ (w - n)) fun w x n hx hn i hi => testBit_rotated hx hn hi⟩
  · exact (Nat.testBit_land ..).trans (congrArg _ (testBit_complement hy hn))
  · exact Nat.mod_eq_of_lt ((Nat.div_le_self ..).trans_lt hx)

/-- Settles O24, from the arithmetic, and from the compares, the selection, the logic and the shifts. -/
theorem vectorForms : Obligations.VectorForms := ⟨vectorArithmetic, vectorComparesAndLogic⟩

end Sys2Proof.Claims
end

section
/-!
PROOF. Slot C's permutes and masks (R145, R159, R162, R163): the lanes that a permute reads, scalar positions, registers filled from a
mask, and the first half of the statement about them (O25).
-/

namespace Sys2Proof.Claims

open Sys2Proof.Machine

/-! ## Permutes (R159) -/

theorem getLsbD_readLanesOf (act : BitVec 64) (src : Nat → Option Nat) (j : Nat) : (readLanesOf act src).getLsbD j = true →
    ∃ i < 64, act.getLsbD i = true ∧ src i = some j := by
  rw [readLanesOf, getLsbD_laneMask]
  simp only [Bool.and_eq_true, List.any_eq_true, List.mem_range, beq_iff_eq]
  exact fun h => h.2

/-- What a permute commits when no lane that it reads is deferred: a lane of srcA with its side bit, 0, or poison where the index is. -/
theorem permute_commits {s : State} {d a : Reg} {act : BitVec 64} {ixs : List VSrc} {badIx : Nat → Bool} {src : Nat → Option Nat}
    (hix : ∀ z ∈ ixs, Undeferred z.val z.need) (hsrc : ∀ i < 64, act.getLsbD i = true → badIx i = false → ∀ j, src i = some j →
      (s.ctx.vec.read a).spec = true → (s.ctx.vec.read a).side.getLsbD j = false) :
    ∃ v : VReg, (s.permute d a act ixs badIx src).out = .next (commitsC s 3 d v act) ∧ v.spec = false ∧
      ∀ i < 64, act.getLsbD i = true → if badIx i then lane v i = 0 ∧ v.side.getLsbD i = true else match src i with
        | some j => lane v i = lane (s.ctx.vec.read a) j ∧ v.side.getLsbD i = (s.ctx.vec.read a).side.getLsbD j
        | none => lane v i = 0 ∧ v.side.getLsbD i = false := by
  have hgo : ∀ z ∈ [s.vsrc a (readLanesOf act fun i => if badIx i then none else src i)], Undeferred z.val z.need := by
    simp only [List.mem_singleton, forall_eq, State.vsrc]
    refine undeferred_of_lanes fun j _ hj hs => ?_
    obtain ⟨i, hi, hact, hj⟩ := getLsbD_readLanesOf _ _ _ hj
    split at hj
    · cases hj
    · exact hsrc i hi hact (Bool.eq_false_of_not_eq_true ‹_›) j hj hs
  rw [State.permute, needsLanes_go hix]
  obtain ⟨v, hv, hspec, hlanes⟩ := moves_commits (lat := 3) (d := d) (m := act) (f := fun i => if badIx i then LaneRes.bad
    else match (if badIx i then none else src i) with | some j => (s.ctx.vec.read a).move j | none => LaneRes.of 0)
    (fun i => by split <;> [rfl; (split <;> rfl)]) hgo
  refine ⟨v, hv, hspec, fun i hi hact => ?_⟩
  obtain ⟨hbits, hside⟩ := hlanes i hi hact
  rw [hbits, hside]
  split
  · exact ⟨rfl, rfl⟩
  · split
    · exact ⟨(lane_eq ..).symm, rfl⟩
    · exact ⟨rfl, rfl⟩

/-- An instruction that is a permute, with what it reads its indices from. -/
theorem permutes_of {mk : Reg → Reg → Reg → BitVec 3 → Instr} {index : VReg → VReg} {ix : Nat → Nat} {src : Nat → Nat → Option Nat}
    (ixs : State → Reg → BitVec 3 → List VSrc)
    (hix : ∀ s b k, (∀ i < 64, (s.ctx.vec.active k).getLsbD i = true → (index (s.ctx.vec.read b)).spec = true →
      (index (s.ctx.vec.read b)).side.getLsbD (ix i) = false) → ∀ z ∈ ixs s b k, Undeferred z.val z.need)
    (he : ∀ d a b k s, exec (mk d a b k) s = s.taskOnly (s.permute d a (s.ctx.vec.active k) (ixs s b k)
      (fun i => (index (s.ctx.vec.read b)).poisonSide.getLsbD (ix i)) fun i => src ((index (s.ctx.vec.read b)).lane (ix i)).toNat i) := by
        intros; rfl) : Permutes mk index ix src := by
  intro s d a b k hin act x y hy hx
  simp only [lane_eq, badLane_eq] at hx ⊢
  rw [he, State.taskOnly_task hin]
  obtain ⟨v, hv, hspec, hlanes⟩ := permute_commits (d := d) (hix s b k hy) hx
  refine ⟨v, hv, hspec, fun i hi hact => ?_⟩
  have h := hlanes i hi hact
  split at h
  next hb => rw [if_pos hb, ← lane_eq]; exact h
  next hb =>
    rw [if_neg hb]
    cases hj : src (y.lane (ix i)).toNat i <;> rw [hj] at h <;> simpa only [lane_eq] using h

/-- The lane of the one index is read when a lane is active. -/
theorem undeferred_index {v : VReg} {act : BitVec 64}
    (h : ∀ i < 64, act.getLsbD i = true → v.spec = true → v.side.getLsbD 0 = false) : Undeferred v (if act = 0 then 0 else 1) := by
  refine undeferred_of_lanes fun j _ hj hs => ?_
  split at hj
  · simp at hj
  next hact =>
    obtain ⟨i, hi, hlane⟩ : ∃ i < 64, act.getLsbD i = true := by
      by_contra hnone
      push Not at hnone
      exact hact (BitVec.eq_of_getLsbD_eq fun i hi => by simpa using hnone i hi)
    obtain rfl : j = 0 := by
      rw [BitVec.ofNat_eq_ofNat, BitVec.getLsbD_one] at hj
      simpa using hj
    exact h i hi hlane hs

/-! ## Scalar positions (R145) -/

/-- The low two bits of a mask. -/
theorem and_three_ne_zero (x : BitVec 64) : x &&& 3 ≠ 0 ↔ (x.getLsbD 0 || x.getLsbD 1) = true := by
  rw [← not_iff_not, not_not, Bool.not_eq_true, Bool.or_eq_false_iff]
  constructor
  · intro h
    have hbit := fun i => congrArg (fun y : BitVec 64 => y.getLsbD i) h
    exact ⟨by simpa using hbit 0, by simpa using hbit 1⟩
  · rintro ⟨h0, h1⟩
    refine BitVec.eq_of_getLsbD_eq fun i _ => ?_
    obtain rfl | rfl | hi : i = 0 ∨ i = 1 ∨ 2 ≤ i := by omega
    · simpa using h0
    · simpa using h1
    · have hlt : 3 < 2 ^ i := lt_of_lt_of_le (by decide) (Nat.pow_le_pow_right two_pos hi)
      have hbit : (3#64).getLsbD i = false := Nat.testBit_lt_two_pow hlt
      rw [BitVec.getLsbD_and]
      simp [hbit]

/-- The value that a scalar position holds is the one that its rule names. -/
theorem scalar_eq {s : State} {r : Reg} {wide : Bool} {t : TVal} (h : ScalarC s r wide t) : s.scalar r wide = t := by
  obtain ⟨hreg, hport, hzero⟩ := h
  unfold State.scalar State.portC
  obtain hr | hr | hr : r.toNat < 20 ∨ (20 ≤ r.toNat ∧ r.toNat ≤ 22) ∨ 23 ≤ r.toNat := by omega
  · obtain ⟨hval, htag⟩ := hreg hr
    rw [if_neg (by simp; omega)]
    obtain ⟨v, tag⟩ := t
    simp only [TVal.mk.injEq]
    refine ⟨BitVec.eq_of_toNat_eq ?_, ?_⟩
    · simp only [lane_eq] at hval
      rw [hval]
      cases wide
      · exact BitVec.toNat_setWidth_of_le (by decide)
      · simp only [if_true, toNat_append_eq_add]
        omega
    · refine Eq.trans ?_ htag.symm
      cases wide
      · simp
      · simp only [if_true, and_three_ne_zero, Bool.true_and]
  · rw [if_pos (by simpa using hr), hport hr.1 hr.2]
  · have hread : s.ctx.vec.read r = VReg.zero := by
      rw [VecFile.read, if_neg (by omega), if_neg (by omega)]
    rw [if_neg (by simp; omega), hzero hr, hread]
    cases wide <;> simp [VReg.zero, VReg.lane]

theorem needsScalar_go {s : State} {r : Reg} {wide : Bool} {t : TVal} (h : ScalarC s r wide t) (ht : t.tag ≠ 1) (k : TVal → SlotOut) :
    s.needsScalar r wide k = k t := by
  rw [State.needsScalar, scalar_eq h, TVal.deferred, decide_eq_false ht]
  rfl

/-! ## Masks (R162, R163) -/

theorem maskOf_eq (s : State) (r : Reg) : s.maskOf r = maskReg s r :=
  congrArg (fun i : Fin 8 => s.ctx.vec.k[i]) (maskIx_eq r)

theorem maskLogic_of {mk : Reg → Reg → Reg → Instr} {f : Bool → Bool → Bool} (g : BitVec 64 → BitVec 64 → BitVec 64)
    (hg : ∀ x y i, i < 64 → (g x y).getLsbD i = f (x.getLsbD i) (y.getLsbD i))
    (he : ∀ d a b s, exec (mk d a b) s = s.taskOnly (s.putK 2 d (g (s.maskOf a) (s.maskOf b))) := by intros; rfl) : MaskLogic mk f := by
  intro s d a b hin
  refine ⟨g (maskReg s a) (maskReg s b), ?_, fun i hi => hg _ _ i hi⟩
  rw [he, State.taskOnly_task hin, putK_commits, maskOf_eq, maskOf_eq]

/-- A register whose every lane receives a value. -/
theorem fillC_commits (s : State) (d : Reg) (f : Nat → BitVec 32) : ∃ v : VReg,
    (s.fillC d f).out = .next (commitsC s 2 d v (BitVec.allOnes 64)) ∧ v.spec = false ∧ v.side = 0 ∧ ∀ i < 64, lane v i = f i := by
  obtain ⟨v, hv, hspec, hlanes⟩ := moves_commits (s := s) (lat := 2) (d := d) (m := BitVec.allOnes 64) (l := [])
    (f := fun i => LaneRes.of (f i)) (fun _ => rfl) (by simp)
  refine ⟨v, hv, hspec, BitVec.eq_of_getLsbD_eq fun i hi => ?_, fun i hi => (hlanes i hi (allOnes_getLsbD hi)).1⟩
  rw [(hlanes i hi (allOnes_getLsbD hi)).2]
  simp [LaneRes.of]

theorem lowLane_eq_some {m : BitVec 64} {n : Nat} : lowLane m = some n → m.getLsbD n = true ∧ ∀ j < n, m.getLsbD j = false := by
  intro h
  obtain ⟨hbit, -, hlow⟩ := List.find?_range_eq_some.1 h
  exact ⟨hbit, fun j hj => by simpa using hlow j hj⟩

section Masks
variable {s : State} (hin : s.ctx.inHandler = false) (d a : Reg)
include hin

theorem exec_vsplat (k : BitVec 3) {t : TVal} (ht : ScalarC s a false t) (htag : t.tag ≠ 1) : ∃ v : VReg,
    exec (.vsplat d a k) s = .next (commitsC s 3 d v (s.ctx.vec.active k)) ∧ v.spec = false ∧
      ∀ i < 64, (s.ctx.vec.active k).getLsbD i = true →
        lane v i = (if bad t then 0 else t.val.setWidth 32) ∧ v.side.getLsbD i = bad t := by
  show ∃ v : VReg, execVsplat d a k s = _ ∧ _
  rw [execVsplat, State.taskOnly_task hin, needsScalar_go ht htag]
  obtain ⟨v, hv, hspec, hlanes⟩ := moves_commits (s := s) (lat := 3) (d := d) (m := s.ctx.vec.active k) (l := [])
    (f := fun _ => if t.poison then LaneRes.bad else LaneRes.of (t.val.setWidth 32)) (fun _ => by split <;> rfl) (by simp)
  refine ⟨v, hv, hspec, fun i hi hact => ?_⟩
  obtain ⟨hbits, hside⟩ := hlanes i hi hact
  rw [hbits, hside]
  show _ = (if t.poison then _ else _) ∧ _ = t.poison
  cases t.poison <;> exact ⟨rfl, rfl⟩

theorem exec_kpop : ∃ v : VReg, exec (.kpop d a) s = .next (commitsC s 2 d v (BitVec.allOnes 64)) ∧ v.spec = false ∧ v.side = 0 ∧
    ∀ i < 64, (lane v i).toNat = ∑ n ∈ Finset.range 64, ((maskReg s a).getLsbD n).toNat := by
  obtain ⟨v, hv, hspec, hside, hlanes⟩ := fillC_commits s d fun _ =>
    BitVec.ofNat 32 ((List.range 64).filter fun i => (s.maskOf a).getLsbD i).length
  refine ⟨v, (State.taskOnly_task hin).trans hv, hspec, hside, fun i hi => ?_⟩
  have hle := List.length_filter_le (fun i => (s.maskOf a).getLsbD i) (List.range 64)
  rw [List.length_range] at hle
  rw [hlanes i hi, BitVec.toNat_ofNat, Nat.mod_eq_of_lt (by omega), length_filter_range, maskOf_eq]

theorem exec_kfirst : ∃ (v : VReg) (n : Nat), exec (.kfirst d a) s = .next (commitsC s 2 d v (BitVec.allOnes 64)) ∧ v.spec = false ∧
    v.side = 0 ∧ (∀ i < 64, (lane v i).toNat = n) ∧ (maskReg s a = 0 → n = 64) ∧
    (maskReg s a ≠ 0 → (maskReg s a).getLsbD n = true ∧ ∀ j < n, (maskReg s a).getLsbD j = false) := by
  obtain ⟨v, hv, hspec, hside, hlanes⟩ := fillC_commits s d fun _ => BitVec.ofNat 32 ((lowLane (s.maskOf a)).getD 64)
  rw [maskOf_eq] at hlanes
  refine ⟨v, (lowLane (maskReg s a)).getD 64, (State.taskOnly_task hin).trans hv, hspec, hside, fun i hi => ?_, fun h => ?_, fun h => ?_⟩
  · rw [hlanes i hi, BitVec.toNat_ofNat]
    cases hn : lowLane (maskReg s a) with
    | none => rfl
    | some n =>
      have hlt : n < 64 := BitVec.lt_of_getLsbD (lowLane_eq_some hn).1
      exact Nat.mod_eq_of_lt (by simp only [Option.getD_some]; omega)
  · rw [lowLane_eq_none.2 h]
    rfl
  · cases hn : lowLane (maskReg s a) with
    | none => exact absurd (lowLane_eq_none.1 hn) h
    | some n => exact lowLane_eq_some hn

theorem exec_ktov : ∃ v : VReg, exec (.ktov d a) s = .next (commitsC s 2 d v (BitVec.allOnes 64)) ∧ v.spec = false ∧ v.side = 0 ∧
    ∀ i < 64, lane v i = if i = 0 then (maskReg s a).setWidth 32 else if i = 1 then (maskReg s a >>> 32).setWidth 32 else 0 := by
  obtain ⟨v, hv, hspec, hside, hlanes⟩ := fillC_commits s d fun i =>
    if i = 0 then (s.maskOf a).extractLsb' 0 32 else if i = 1 then (s.maskOf a).extractLsb' 32 32 else 0
  refine ⟨v, (State.taskOnly_task hin).trans hv, hspec, hside, fun i hi => ?_⟩
  rw [hlanes i hi, maskOf_eq]
  rfl

end Masks

theorem permutesAndMasks : PermutesAndMasks := by
  refine ⟨permutes_of (fun s b k => [s.vsrc b (s.ctx.vec.active k)]) fun s b k h => ?_,
    permutes_of (fun s b k => [s.vsrc b (if s.ctx.vec.active k = 0 then 0 else 1)]) fun s b k h => ?_,
    permutes_of (fun s b k => [s.vsrc b (if s.ctx.vec.active k = 0 then 0 else 1)]) fun s b k h => ?_,
    permutes_of (fun s b k => [s.vsrc b (if s.ctx.vec.active k = 0 then 0 else 1)]) fun s b k h => ?_,
    permutes_of (fun _ _ _ => []) (by simp) fun d a b k s => ?_,
    maskLogic_of (fun x y => x &&& y) fun x y i _ => BitVec.getLsbD_and, maskLogic_of (fun x y => x ||| y) fun x y i _ => BitVec.getLsbD_or,
    maskLogic_of (fun x y => x ^^^ y) fun x y i _ => by simp, maskLogic_of (fun x y => x &&& ~~~y) fun x y i hi => by simp [hi],
    maskLogic_of (fun x _ => ~~~x) fun x y i hi => by simp [hi],
    fun s d a k hin => ⟨fun t ht htag => exec_vsplat hin d a k ht htag, exec_kpop hin d a, exec_kfirst hin d a, ?_, exec_ktov hin d a⟩⟩
  · simpa [State.vsrc] using undeferred_of_lanes h
  · simpa [State.vsrc] using undeferred_index h
  · simpa [State.vsrc] using undeferred_index h
  · simpa [State.vsrc] using undeferred_index h
  · have hnone : (fun i => VReg.zero.poisonSide.getLsbD (id i)) = fun _ => false := by
      funext i
      simp [VReg.zero, VReg.poisonSide]
    rw [hnone]
    rfl
  · exact (State.taskOnly_task hin).trans (putK_commits ..)

end Sys2Proof.Claims
end

section
/-!
PROOF. Slot C's scans and reductions (R160, R161): the partial results of the doublings and of the tree by their places, the operations
and their identities, and the statement about permutes, masks, scans and reductions (O25).
-/

namespace Sys2Proof.Claims

open Sys2Proof.Machine

/-! ## Partial results by their places -/

section Places
variable (c : Option FRes → Option FRes → Option FRes) (g : Nat → Option FRes)

/-- What a scan holds in a place after some doublings of its reach. -/
def scanAt : Nat → Nat → Option FRes
  | 0, n => g n
  | k + 1, n => if n < 2 ^ k then scanAt k n else c (scanAt k (n - 2 ^ k)) (scanAt k n)

/-- What the tree of a reduction holds in a place of a level. -/
def treeAt : Nat → Nat → Option FRes
  | 0, n => g n
  | k + 1, n => c (treeAt k (2 * n)) (treeAt k (2 * n + 1))

end Places

section Lists
variable (t : VTy) (o : VFold) (g : Nat → Option FRes)

theorem scanStep_range (n d : Nat) : t.scanStep o ((List.range n).map g) d =
    (List.range n).map fun i => if i < d then g i else t.comb o (g (i - d)) (g i) := by
  refine List.ext_getElem (by simp [VTy.scanStep]; omega) fun i hi _ => ?_
  simp only [VTy.scanStep, List.getElem_map, List.getElem_range]
  split
  next h =>
    have hi : i < n := by simp [VTy.scanStep] at hi; omega
    rw [List.getElem_append_left (by simp; omega)]
    simp
  next h =>
    have hi : i < n := by simp [VTy.scanStep] at hi; omega
    rw [List.getElem_append_right (by simp; omega)]
    simp [show min d n = d by omega, show d + (i - d) = i by omega]

/-- A scan is its last doubling's sequence. -/
theorem scan_range (n k : Nat) : (List.range k).foldl (fun l i => t.scanStep o l (2 ^ i)) ((List.range n).map g) =
    (List.range n).map (scanAt (t.comb o) g k) := by
  induction k with
  | zero => rfl
  | succ k ih => rw [List.range_succ, List.foldl_append, ih, List.foldl_cons, List.foldl_nil, scanStep_range]; rfl

theorem pairs_range (m : Nat) : t.pairs o ((List.range (2 * m)).map g) = (List.range m).map fun n => t.comb o (g (2 * n)) (g (2 * n + 1)) := by
  induction m generalizing g with
  | zero => rfl
  | succ m ih =>
    have h := ih fun i => g (i + 2)
    rw [Nat.mul_succ, List.range_succ_eq_map, List.range_succ_eq_map, List.range_succ_eq_map]
    simpa [VTy.pairs, Function.comp_def, Nat.mul_succ] using h

/-- The tree's level `k` over 2^L places. -/
theorem levels_range {k L : Nat} (h : k ≤ L) : (List.range k).foldl (fun l _ => t.pairs o l) ((List.range (2 ^ L)).map g) =
    (List.range (2 ^ (L - k))).map (treeAt (t.comb o) g k) := by
  induction k with
  | zero => rfl
  | succ k ih =>
    have hpow : 2 ^ (L - k) = 2 * 2 ^ (L - (k + 1)) := by rw [← Nat.pow_succ']; congr 1; omega
    rw [List.range_succ, List.foldl_append, ih (by omega), List.foldl_cons, List.foldl_nil, hpow, pairs_range]
    rfl

end Lists

/-! ## Operations and identities -/

/-- An operation of the model gives codes that the statement's one admits, from its identity on, in the types below a code. -/
structure Folds (o : VFold) (f : Folding) (types : Nat) : Prop where
  ident : ∀ t : BitVec 4, t.toNat < types → (VTy.of t).ident o = f.ident t ∧ f.ident t < 2 ^ tyWidth t
  fold : ∀ (t : BitVec 4) (x y : Nat), t.toNat < types → x < 2 ^ tyWidth t → y < 2 ^ tyWidth t →
    ((VTy.of t).fold o x y).1 < 2 ^ tyWidth t ∧ f.op t x y ((VTy.of t).fold o x y)

/-- A partial result that is there has a code of the width. -/
def Fits (w : Nat) (x : Option FRes) : Prop := ∀ r, x = some r → r.1 < 2 ^ w

section Folding
variable {o : VFold} {f : Folding} {types : Nat} (h : Folds o f types) {t : BitVec 4} (ht : t.toNat < types)
include h ht

theorem Folds.comb {x y : Option FRes} (hx : Fits (tyWidth t) x) (hy : Fits (tyWidth t) y) :
    Fits (tyWidth t) ((VTy.of t).comb o x y) ∧ Joined (f.op t) x y ((VTy.of t).comb o x y) := by
  cases x with
  | none => exact ⟨nofun, rfl⟩
  | some u =>
    cases y with
    | none => exact ⟨nofun, rfl⟩
    | some v =>
      obtain ⟨hlt, hop⟩ := h.fold t u.1 v.1 ht (hx u rfl) (hy v rfl)
      exact ⟨by rintro r ⟨⟩; exact hlt, _, hop, rfl⟩

theorem Folds.scanAt_fits {g : Nat → Option FRes} (hg : ∀ n, Fits (tyWidth t) (g n)) (k n : Nat) :
    Fits (tyWidth t) (scanAt ((VTy.of t).comb o) g k n) := by
  induction k generalizing n with
  | zero => exact hg n
  | succ k ih =>
    rw [scanAt]
    split
    · exact ih n
    · exact (h.comb ht (ih _) (ih n)).1

theorem Folds.treeAt_fits {g : Nat → Option FRes} (hg : ∀ n, Fits (tyWidth t) (g n)) (k n : Nat) :
    Fits (tyWidth t) (treeAt ((VTy.of t).comb o) g k n) := by
  induction k generalizing n with
  | zero => exact hg n
  | succ k ih => exact (h.comb ht (ih _) (ih _)).1

theorem Folds.start_fits (x : VReg) (act : BitVec 64) (n : Nat) : Fits (tyWidth t) (start t x act (f.ident t) n) := by
  intro r hr
  unfold start at hr
  extract_lets e at hr
  split at hr
  · split at hr
    · cases hr
    · cases hr
      exact elem_lt ..
  · cases hr
    exact (h.ident t ht).2

/-- The elements that a scan or a reduction starts from (R160). -/
theorem Folds.seq_eq (h15 : t.toNat < 15) (x : VReg) (act : BitVec 64) :
    (VTy.of t).seq o x act = (List.range (64 * (32 / tyWidth t))).map (start t x act (f.ident t)) := by
  rw [VTy.seq, of_epl h15, flatMap_range]
  refine List.map_congr_left fun n _ => ?_
  rw [of_read h15, (h.ident t ht).1, start]
  split
  · split <;> rfl
  · rfl

end Folding

section Types
variable {t : BitVec 4}

/-- The elements of a register are as many as its doublings reach. -/
theorem elements_count (t : BitVec 4) : 64 * (32 / tyWidth t) = 2 ^ doublings t := by
  unfold doublings
  obtain h | h | h | h := tyWidth_cases t <;> rw [h] <;> decide

theorem of_levels (ht : t.toNat < 15) : (VTy.of t).levels = doublings t := by
  rw [VTy.levels, of_epl ht, elements_count, Nat.log2_two_pow]

/-- The lane `i` of a sequence. -/
theorem laneOf_range (ht : t.toNat < 15) (g : Nat → Option FRes) {i : Nat} (hi : i < 64) :
    (VTy.of t).laneOf ((List.range (64 * (32 / tyWidth t))).map g) i =
      (VTy.of t).result ((List.range (32 / tyWidth t)).map fun j => g (i * (32 / tyWidth t) + j)) := by
  have hle : (i + 1) * (32 / tyWidth t) ≤ 64 * (32 / tyWidth t) := Nat.mul_le_mul_right _ hi
  rw [Nat.succ_mul] at hle
  rw [VTy.laneOf, of_epl ht]
  congr 1
  refine List.ext_getElem (by simp; omega) fun j _ _ => by simp

end Types

/-! ## Scans (R160) -/

/-- A sequence one place later, with the identity in front. -/
def later (ident : Nat) (g : Nat → Option FRes) (n : Nat) : Option FRes := if n = 0 then some (ident, 0) else g (n - 1)

theorem shifted_range (ident : Nat) (g : Nat → Option FRes) {n : Nat} (hn : 0 < n) :
    some (ident, 0) :: ((List.range n).map g).dropLast = (List.range n).map (later ident g) := by
  obtain ⟨n, rfl⟩ := Nat.exists_eq_succ_of_ne_zero hn.ne'
  rw [List.range_succ, List.map_append, List.map_singleton, List.dropLast_concat, ← List.range_succ, List.range_succ_eq_map, List.map_cons,
    List.map_map]
  rfl

theorem ite_isNone (x : Option FRes) : (if x.isNone then none else some (x.getD (0, 0))) = x := by cases x <;> rfl

/-- An instruction that is a scan. -/
theorem scan_of {mk : Reg → Reg → BitVec 3 → BitVec 4 → Instr} {f : Folding} {exclusive : Bool} (o : VFold) (h : Folds o f 9)
    (he : ∀ d a k t s, exec (mk d a k t) s = s.taskOnly (s.vscan o exclusive d a k t) := by intros; rfl) : Scan mk f exclusive := by
  intro s d a k t hin ht act x e hx
  have h15 : t.toNat < 15 := by omega
  let T := scanAt ((VTy.of t).comb o) (start t x act (f.ident t))
  let G (n : Nat) : Option FRes := if exclusive then later (f.ident t) (T (doublings t)) n else T (doublings t) n
  have hfits : ∀ n, Fits (tyWidth t) (T (doublings t) n) := h.scanAt_fits ht (h.start_fits ht x act) _
  have hG : ∀ n, Fits (tyWidth t) (G n) := by
    intro n
    show Fits _ (if exclusive then later (f.ident t) (T (doublings t)) n else T (doublings t) n)
    unfold later
    split
    · split
      · rintro r ⟨⟩
        exact (h.ident t ht).2
      · exact hfits _
    · exact hfits n
  have hlist : (if exclusive then some ((VTy.of t).ident o, 0) :: ((VTy.of t).scan o ((VTy.of t).seq o x act)).dropLast
      else (VTy.of t).scan o ((VTy.of t).seq o x act)) = (List.range (64 * e)).map G := by
    rw [VTy.scan, h.seq_eq ht h15, of_levels h15, scan_range, (h.ident t ht).1,
      shifted_range _ _ (Nat.mul_pos (by decide) (perLane_pos t))]
    cases exclusive <;> rfl
  have hneed : Undeferred x ((VTy.of t).scanNeed exclusive act) := hx.mono fun i hi hact => by
    unfold VTy.scanNeed at hact
    split at hact
    · simp only [getLsbD_laneMask, Bool.and_eq_true] at hact
      exact hact.2.1
    · exact hact
  have hexec : exec (mk d a k t) s = .next (commitsC s 6 d (buildVec act ((VTy.of t).laneOf ((List.range (64 * e)).map G))).1 act
      (buildVec act ((VTy.of t).laneOf ((List.range (64 * e)).map G))).2) := by
    have hgo : ∀ z ∈ [s.vsrc a ((VTy.of t).scanNeed exclusive act)], Undeferred z.val z.need := by simpa [State.vsrc] using hneed
    rw [← hlist, he, State.taskOnly_task hin, State.vscan, vecOut_commits _ hgo]
    rfl
  refine ⟨_, _, T, hexec, fun n _ => rfl, fun j _ n _ => ⟨fun hn => if_pos hn, fun hn => ?_⟩, ?_⟩
  · show Joined _ _ _ (if n < 2 ^ j then _ else _)
    rw [if_neg (not_lt.2 hn)]
    exact (h.comb ht (h.scanAt_fits ht (h.start_fits ht x act) _ _) (h.scanAt_fits ht (h.start_fits ht x act) _ _)).2
  · refine elements_buildVec h15 (fun i _ j _ _ hgood => ?_) fun i hi _ => ?_
    · obtain ⟨r, hr⟩ := Option.isSome_iff_exists.1 (Option.isNone_eq_false_iff.1 hgood)
      show (Option.getD (G (i * e + j)) (0, 0)).1 < _
      rw [show G (i * e + j) = some r from hr]
      exact hG _ r hr
    · rw [laneOf_range h15 G hi]
      congr 1
      exact List.map_congr_left fun j _ => (ite_isNone (G (i * e + j))).symm

/-! ## Reductions (R161) -/

section Single
variable {t : BitVec 4} (ht : t.toNat < 9)

theorem pack_single {n : Nat} (hn : n < 2 ^ tyWidth t) : ((VTy.of t).pack [n]).toNat = n := by
  have hlt : n < 2 ^ 32 := hn.trans_le (Nat.pow_le_pow_right two_pos (tyWidth_le t))
  rw [VTy.pack, BitVec.toNat_ofNat]
  exact Nat.mod_eq_of_lt hlt

include ht

/-- A lane that holds one element alone. -/
theorem result_some {r : FRes} (hr : r.1 < 2 ^ tyWidth t) : let z := (VTy.of t).result [some r]
    z.bits.toNat = r.1 ∧ z.side = false ∧ z.flags = r.2 := by
  have h15 : t.toNat < 15 := by omega
  have hflags : ((VTy.of t).result [some r]).flags = r.2 := (result_flags h15 _).trans (by simp [flagsOf])
  cases hp : tyPattern t with
  | some p =>
    rw [result_pattern h15 hp] at hflags ⊢
    exact ⟨pack_single hr, rfl, hflags⟩
  | none =>
    rw [result_side h15 hp] at hflags ⊢
    exact ⟨pack_single hr, rfl, hflags⟩

/-- A lane that holds one poison element alone. -/
theorem result_none : let z := (VTy.of t).result [none]
    z.flags = 0 ∧ if t.toNat < 6 then z.bits = 0 ∧ z.side = true else z.bits.toNat = (tyFormat t).poisonCode ∧ z.side = false := by
  have h15 : t.toNat < 15 := by omega
  refine ⟨(result_flags h15 _).trans rfl, ?_⟩
  split
  next h6 =>
    have hp : tyPattern t = none := (by decide : ∀ t : BitVec 4, t.toNat < 6 → tyPattern t = none) t h6
    rw [result_side h15 hp]
    exact ⟨rfl, rfl⟩
  next h6 =>
    have hp : tyPattern t = some (tyFormat t).poisonCode :=
      (by decide : ∀ t : BitVec 4, t.toNat < 9 → ¬t.toNat < 6 → tyPattern t = some (tyFormat t).poisonCode) t ht h6
    rw [result_pattern h15 hp]
    exact ⟨pack_single (tyPattern_lt hp), rfl⟩

end Single

/-- An instruction that is a reduction. -/
theorem reduction_of {mk : Reg → Reg → BitVec 3 → BitVec 4 → Instr} {f : Folding} {types : Nat} (o : VFold) (htypes : types ≤ 9)
    (h : Folds o f types) (he : ∀ d a k t s, exec (mk d a k t) s = s.taskOnly (s.vred o d a k t) := by intros; rfl) :
    Reduction mk f types := by
  intro s d a k t hin ht act x e hx
  have h15 : t.toNat < 15 := by omega
  let T := treeAt ((VTy.of t).comb o) (start t x act (f.ident t))
  have hfits : ∀ k n, Fits (tyWidth t) (T k n) := h.treeAt_fits ht (h.start_fits ht x act)
  have hroot : (VTy.of t).reduce o ((VTy.of t).seq o x act) = T (doublings t) 0 := by
    rw [VTy.reduce, h.seq_eq ht h15, of_levels h15, elements_count, levels_range _ _ _ le_rfl, Nat.sub_self]
    rfl
  let F (i : Nat) : LaneRes := if i = 0 then (VTy.of t).result [T (doublings t) 0] else LaneRes.of 0
  have hexec : exec (mk d a k t) s =
      .next (commitsC s 6 d (buildVec (BitVec.allOnes 64) F).1 (BitVec.allOnes 64) (buildVec (BitVec.allOnes 64) F).2) := by
    have hgo : ∀ z ∈ [s.vsrc a act], Undeferred z.val z.need := by simpa [State.vsrc] using hx
    have hF : (fun i => if i = 0 then (VTy.of t).result [(VTy.of t).reduce o ((VTy.of t).seq o x act)] else LaneRes.of 0) = F := by
      rw [hroot]
    rw [← hF, he, State.taskOnly_task hin, State.vred, vecOut_commits _ hgo]
    rfl
  have hflags : (buildVec (BitVec.allOnes 64) F).2 = ((VTy.of t).result [T (doublings t) 0]).flags := by
    refine BitVec.eq_of_getLsbD_eq fun b _ => Bool.eq_iff_iff.2 ((buildVec_flags _ F b).trans ⟨?_, fun hb => ?_⟩)
    · rintro ⟨i, _, _, hb⟩
      by_cases hi : i = 0
      · simpa [F, hi] using hb
      · simp [F, hi, LaneRes.of] at hb
    · exact ⟨0, by decide, by decide, hb⟩
  have hlane : ∀ i < 64, lane (buildVec (BitVec.allOnes 64) F).1 i = (F i).bits ∧
      (buildVec (BitVec.allOnes 64) F).1.side.getLsbD i = (F i).side := fun i hi => by
    rw [lane_eq, buildVec_lane _ _ hi, buildVec_side _ _ hi, allOnes_getLsbD hi]
    exact ⟨rfl, rfl⟩
  refine ⟨_, _, T, hexec, fun n _ => rfl, fun j _ n _ => (h.comb ht (hfits _ _) (hfits _ _)).2, buildVec_spec .., fun i hi h1 => ?_, ?_⟩
  · rw [(hlane i hi).1, (hlane i hi).2]
    simp [F, show i ≠ 0 by omega, LaneRes.of]
  · rw [hflags, (hlane 0 (by decide)).1, (hlane 0 (by decide)).2]
    have h9 : t.toNat < 9 := by omega
    have hroot := hfits (doublings t) 0
    have hF0 : F 0 = (VTy.of t).result [T (doublings t) 0] := rfl
    rw [hF0]
    generalize T (doublings t) 0 = x at hroot
    cases x with
    | some r => exact result_some h9 (hroot r rfl)
    | none => exact result_none h9

/-! ## The operations (R160, R161) -/

theorem folds_add : Folds .add summing 9 where
  ident := by decide
  fold t x y ht hx hy := by
    obtain h6 | h6 := Nat.lt_or_ge t.toNat 6
    · rw [of_int (by omega) (tyFloat_of_lt h6)]
      exact ⟨Nat.mod_lt _ (Nat.two_pow_pos _), (if_pos h6).mpr rfl⟩
    · obtain ⟨h15, hf, hplain, -⟩ := floatTy (float_of_ge h6 ht)
      rw [of_float h15 hf, ← format_width h15 hf]
      exact ⟨hplain.addV_lt .., (if_neg (by omega)).mpr (sum_addV ..)⟩

theorem pick_op {t : BitVec 4} (ht : t.toNat < 9) (greater : Bool) {x y : Nat} (hx : x < 2 ^ tyWidth t) (hy : y < 2 ^ tyWidth t) :
    (VTy.of t).pick greater x y < 2 ^ tyWidth t ∧ (extreme greater).op t x y ((VTy.of t).pick greater x y, 0) := by
  obtain h6 | h6 := Nat.lt_or_ge t.toNat 6
  · obtain ⟨hlt, hint⟩ := pick_int h6 greater hx hy
    exact ⟨hlt, (if_pos h6).mpr ⟨rfl, hlt, hint⟩⟩
  · obtain ⟨hlt, hext⟩ := pick_float (float_of_ge h6 ht) greater hx hy
    exact ⟨hlt, (if_neg (by omega)).mpr hext⟩

theorem folds_max : Folds .max (extreme true) 9 where
  ident := by decide
  fold _ _ _ ht hx hy := pick_op ht true hx hy

theorem folds_min : Folds .min (extreme false) 9 where
  ident := by decide
  fold _ _ _ ht hx hy := pick_op ht false hx hy

theorem folds_and : Folds .and (bitwise (fun x y => x && y) true) 6 where
  ident := by decide
  fold t x y _ _ hy := ⟨Nat.and_lt_two_pow x hy, rfl, Nat.and_lt_two_pow x hy, fun n _ => Nat.testBit_land x y n⟩

theorem folds_or : Folds .or (bitwise (fun x y => x || y) false) 6 where
  ident := by decide
  fold t x y _ hx hy := ⟨Nat.or_lt_two_pow hx hy, rfl, Nat.or_lt_two_pow hx hy, fun n _ => Nat.testBit_lor x y n⟩

theorem folds_xor : Folds .xor (bitwise (fun x y => x != y) false) 6 where
  ident := by decide
  fold t x y _ hx hy := ⟨Nat.xor_lt_two_pow hx hy, rfl, Nat.xor_lt_two_pow hx hy, fun n _ => Nat.testBit_xor x y n⟩

theorem scansAndReductions : ScansAndReductions :=
  ⟨scan_of .add folds_add, scan_of .add folds_add, scan_of .max folds_max, scan_of .min folds_min, reduction_of .add le_rfl folds_add,
    reduction_of .min le_rfl folds_min, reduction_of .max le_rfl folds_max, reduction_of .and (by decide) folds_and,
    reduction_of .or (by decide) folds_or, reduction_of .xor (by decide) folds_xor⟩

/-- Settles O25, from the permutes and the masks, and from the scans and the reductions. -/
theorem permutesAndReductions : Obligations.PermutesAndReductions := ⟨permutesAndMasks, scansAndReductions⟩

end Sys2Proof.Claims
end

section
/-!
PROOF. Nearest results (R104, R105, R153): a magnitude that lies inside a cell finer than the format's steps rounds as the middle of the
cell does; quotients, integer square roots, and powers of 2 far out of range.
-/

namespace Sys2Proof.Claims

open Sys2Proof.Machine

variable {f : FFmt}

/-! ## Cells -/

/-- A magnitude lies inside the cell between two neighbouring multiples of a power of 2. -/
def InCell (q : Nat) (x : Int) (u : ℚ) : Prop := (q : ℚ) * 2 ^ x < u ∧ u < (q + 1 : ℚ) * 2 ^ x

/-- A multiple of the power is on one side of the whole cell. -/
theorem InCell.outside {q : Nat} {x : Int} {u : ℚ} (h : InCell q x u) (a : Int) :
    (a : ℚ) * 2 ^ x ≤ q * 2 ^ x ∧ (a : ℚ) * 2 ^ x < u ∨ (q + 1 : ℚ) * 2 ^ x ≤ a * 2 ^ x ∧ u < a * 2 ^ x := by
  have hpos : (0 : ℚ) < 2 ^ x := by positivity
  obtain hle | hle : a ≤ q ∨ (q : Int) + 1 ≤ a := by omega
  · have hcast : (a : ℚ) ≤ q := by exact_mod_cast hle
    have := mul_le_mul_of_nonneg_right hcast hpos.le
    exact .inl ⟨this, this.trans_lt h.1⟩
  · have hcast : (q + 1 : ℚ) ≤ a := by exact_mod_cast hle
    have := mul_le_mul_of_nonneg_right hcast hpos.le
    exact .inr ⟨this, h.2.trans_le this⟩

theorem InCell.lt_iff {q : Nat} {x : Int} {u v : ℚ} (hu : InCell q x u) (hv : InCell q x v) (a : Int) :
    ((a : ℚ) * 2 ^ x < u ↔ (a : ℚ) * 2 ^ x < v) ∧ (a : ℚ) * 2 ^ x ≠ u := by
  obtain ⟨-, h⟩ | ⟨-, h⟩ := hu.outside a <;> obtain ⟨h1, h'⟩ | ⟨h1, h'⟩ := hv.outside a
  · exact ⟨iff_of_true h h', h.ne⟩
  · linarith [hu.2]
  · linarith [hu.1]
  · exact ⟨iff_of_false h.not_gt h'.not_gt, h.ne'⟩

/-- The middle of a cell. -/
theorem inCell_middle (q : Nat) (x : Int) : InCell q x (rat false (2 * q + 1) (x - 1)) := by
  have hpos : (0 : ℚ) < 2 ^ x := by positivity
  have hmid : rat false (2 * q + 1) (x - 1) = (q + 1 / 2) * 2 ^ x := by
    rw [rat, zpow_sub_one₀ two_ne_zero]
    push_cast
    ring
  rw [hmid]
  constructor <;> nlinarith

/-! ## Steps of a format around a cell -/

/-- The code below a cell of many digits, the next one and the place between them are multiples of the cell's power. -/
theorem steps_of_cell {q lo : Nat} {x : Int} {u : ℚ} (hq : 2 ^ (f.mb + 1) ≤ q) (hu : InCell q x u) (hlt : u < f.mag (lo + 1)) :
    ∃ a b : Int, f.mag lo = a * 2 ^ x ∧ f.mag (lo + 1) = b * 2 ^ x ∧ ∃ c : Int, (f.mag lo + f.mag (lo + 1)) / 2 = c * 2 ^ x := by
  obtain ⟨k, d, rfl, hd, hk⟩ := f.exists_scaled lo
  have hlo : f.mag (k * 2 ^ f.mb + d) = d * 2 ^ (k + f.least) := FFmt.mag_scaled hd.le hk
  have hnext : f.mag (k * 2 ^ f.mb + d + 1) = (d + 1 : Nat) * 2 ^ (k + f.least) := FFmt.mag_scaled hd (by omega)
  have hfine : x < k + f.least := by
    have hcast : (2 : ℚ) ^ (f.mb + 1) ≤ q := by exact_mod_cast hq
    have hdle : ((d + 1 : Nat) : ℚ) ≤ 2 ^ (f.mb + 1) := by exact_mod_cast hd
    have hpos : (0 : ℚ) < 2 ^ (f.mb + 1) := by positivity
    have hchain : (2 : ℚ) ^ (f.mb + 1) * 2 ^ x < 2 ^ (f.mb + 1) * 2 ^ (k + f.least) := calc
      _ ≤ (q : ℚ) * 2 ^ x := by gcongr
      _ < u := hu.1
      _ < (d + 1 : Nat) * 2 ^ (k + f.least) := hnext ▸ hlt
      _ ≤ _ := by gcongr
    exact (zpow_lt_zpow_iff_right₀ one_lt_two).1 (lt_of_mul_lt_mul_left hchain hpos.le)
  obtain ⟨n, hn⟩ : ∃ n : Nat, k + f.least = x + (n + 1 : Nat) := ⟨(k + f.least - x - 1).toNat, by omega⟩
  have hscale : (2 : ℚ) ^ (k + f.least) = 2 ^ (n + 1) * 2 ^ x := by
    rw [hn, zpow_add₀ two_ne_zero, zpow_natCast, mul_comm]
  rw [hlo, hnext, hscale]
  refine ⟨d * 2 ^ (n + 1), (d + 1) * 2 ^ (n + 1), by push_cast; ring, by push_cast; ring, (2 * d + 1) * 2 ^ n, ?_⟩
  push_cast
  ring

/-! ## Nearest results -/

/-- A number is nearest to one between the magnitudes of two adjacent codes when it is the one on its side of their middle. -/
theorem nearest_of_side {lo code : Nat} {u z : ℚ} (hcode : code = if (f.mag lo + f.mag (lo + 1)) / 2 < u then lo + 1 else lo)
    (hlo : f.mag lo ≤ u) (hnext : u ≤ f.mag (lo + 1)) (hz : z ≤ f.mag lo ∨ f.mag (lo + 1) ≤ z) : |f.mag code - u| ≤ |z - u| := by
  rw [hcode]
  split
  next h =>
    rw [abs_of_nonneg (sub_nonneg.2 hnext)]
    obtain hz | hz := hz
    · rw [abs_of_nonpos (by linarith)]; linarith
    · rw [abs_of_nonneg (by linarith)]; linarith
  next h =>
    rw [abs_of_nonpos (sub_nonpos.2 hlo)]
    obtain hz | hz := hz
    · rw [abs_of_nonpos (by linarith)]; linarith
    · rw [abs_of_nonneg (by linarith)]; linarith

/-- What the middle of a cell rounds to is nearest to every number of the cell. -/
theorem nearest_cell (h : PlainIeee f) (heb : f.eb ≠ 0) {q : Nat} {x : Int} {u : ℚ} (hq : 2 ^ (f.mb + 1) ≤ q) (hu : InCell q x u)
    (neg : Bool) : Nearest f (signFactor neg * u) (f.round .rn neg (2 * q + 1) (x - 1)) := by
  obtain ⟨lo, rem, sh, part, hx, hround⟩ := exists_between (e := x - 1) h (m := 2 * q + 1) (by omega)
  have hmiddle := inCell_middle q x
  obtain ⟨a, b, ha, hb, c, hc⟩ := steps_of_cell hq hmiddle hx.lt_next
  obtain ⟨hlo, hlone⟩ := hu.lt_iff hmiddle a
  obtain ⟨hnext, hnextne⟩ := hu.lt_iff hmiddle b
  obtain ⟨hhalf, hhalfne⟩ := hmiddle.lt_iff hu c
  rw [← ha] at hlo hlone
  rw [← hb] at hnext hnextne
  rw [← hc] at hhalf hhalfne
  have hmne : f.mag lo ≠ rat false (2 * q + 1) (x - 1) := ha ▸ (hmiddle.lt_iff hu a).2
  have hrem : rem ≠ 0 := hx.lower_eq_iff.not.1 hmne
  have hcode : chosen .rn neg lo rem sh = if (f.mag lo + f.mag (lo + 1)) / 2 < u then lo + 1 else lo := by
    rw [hx.chosen_rn]
    refine if_congr (Iff.trans ?_ hhalf) rfl rfl
    constructor
    · rintro (hlt | ⟨heq, -⟩)
      · linarith
      · exact absurd (by linarith) hhalfne
    · exact fun hlt => .inl (by linarith)
  rw [hround]
  intro hof
  obtain ⟨hfinite, hres, hnx⟩ := packed_of_not_overflow h heb hof
  obtain ⟨k, g, hunpack, hval⟩ := unpack_sign (neg := neg) h hfinite
  have hulo : f.mag lo < u := hlo.2 (lt_of_le_of_ne hx.lower_le hmne)
  have hunext : u < f.mag (lo + 1) := lt_of_le_of_ne (not_lt.1 fun hlt => hx.lt_next.not_gt (hnext.1 hlt)) hnextne.symm
  rw [hres, hunpack]
  refine ⟨_, rfl, ?_, fun z _ w hw => ?_⟩
  · rw [hnx, hval, ne_eq, ne_eq, mul_right_inj' (signFactor_ne_zero neg), hcode]
    refine iff_of_true hrem ?_
    split
    · exact hnextne
    · exact hlone
  · cases hz : f.unpack z with
    | fin n j e =>
      rw [hz] at hw
      obtain rfl : rat n j e = w := Option.some.inj hw
      rw [hval, abs_sub_signFactor, abs_sub_signFactor, signFactor_signFactor]
      exact nearest_of_side hcode hulo.le hunext.le (signed_outside (abs_finite_outside h.style hz lo) neg)
    | inf _ => rw [hz] at hw; cases hw
    | nan => rw [hz] at hw; cases hw
    | poison => rw [hz] at hw; cases hw

/-- What an exact number rounds to is nearest to it. -/
theorem nearest_exact (hf : f ∈ [fp64, fp32, fp16, bf16]) (neg : Bool) {m : Nat} (hm : m ≠ 0) (e : Int) :
    Nearest f (rat neg m e) (f.round .rn neg m e) := by
  intro hof
  obtain ⟨k, g, hunpack, hnx, hnear⟩ := correctRounding f hf 0 neg m e hm hof
  refine ⟨rat neg k g, by rw [show f.unpack (f.round .rn neg m e).1 = _ from hunpack]; rfl, hnx, fun z hz w hw => ?_⟩
  cases hc : f.unpack z with
  | fin n j h =>
    rw [hc] at hw
    obtain rfl : rat n j h = w := Option.some.inj hw
    exact ((hnear z hz n j h hc).1 rfl).1
  | inf _ => rw [hc] at hw; cases hw
  | nan => rw [hc] at hw; cases hw
  | poison => rw [hc] at hw; cases hw

/-! ## Reciprocals -/

theorem rat_inv (neg : Bool) (m : Nat) (e : Int) : (rat neg m e)⁻¹ = signFactor neg * ((m : ℚ)⁻¹ * 2 ^ (-e)) := by
  rw [rat_signed, mul_inv, rat, mul_inv, mul_inv, ← zpow_neg]
  cases neg <;> simp

/-- The reciprocal's quotient has room below every format's digits. -/
theorem rcp_quotient {m : Nat} (hm : m ≠ 0) : 2 ^ 63 ≤ 2 ^ (2 * m.log2 + 64) / m := by
  rw [Nat.le_div_iff_mul_le (Nat.pos_of_ne_zero hm)]
  calc 2 ^ 63 * m ≤ 2 ^ 63 * 2 ^ (m.log2 + 1) := Nat.mul_le_mul_left _ Nat.lt_log2_self.le
    _ = 2 ^ (63 + (m.log2 + 1)) := (Nat.pow_add ..).symm
    _ ≤ _ := Nat.pow_le_pow_right two_pos (by omega)

theorem nearest_rcp (hf : f ∈ [fp64, fp32, fp16, bf16]) (neg : Bool) {m : Nat} (hm : m ≠ 0) (e : Int) (c : Nat) :
    Nearest f (rat neg m e)⁻¹ (f.funRes .rcp c (rcpOf neg m e)) := by
  obtain ⟨hplain, heb⟩ := plainIeee_of_mem hf
  have hmb : f.mb + 1 ≤ 63 := by
    simp only [List.mem_cons, List.not_mem_nil, or_false] at hf
    obtain rfl | rfl | rfl | rfl := hf <;> decide
  have hquot := rcp_quotient hm
  unfold rcpOf
  extract_lets s q x
  have hmq : (m : ℚ) ≠ 0 := by exact_mod_cast hm
  have hpow : (2 : ℚ) ^ (-e) = 2 ^ s * 2 ^ x := by
    rw [← zpow_natCast, ← zpow_add₀ two_ne_zero]; congr 1; omega
  rw [rat_inv, hpow]
  split
  next h =>
    have hinv : (m : ℚ)⁻¹ * (2 ^ s * 2 ^ x) = rat false q x := by
      have hcast : (q : ℚ) * m = 2 ^ s := by exact_mod_cast h
      rw [← hcast, rat]
      field_simp
      simp
    rw [hinv, ← rat_signed]
    exact nearest_exact hf neg (by have : 2 ^ 63 ≤ q := hquot; omega) x
  next h =>
    refine nearest_cell hplain heb ((Nat.pow_le_pow_right two_pos hmb).trans hquot) ?_ neg
    have hpos : (0 : ℚ) < m := by exact_mod_cast Nat.pos_of_ne_zero hm
    have hlo : q * m < 2 ^ s := lt_of_le_of_ne (Nat.div_mul_le_self ..) h
    have hhi : 2 ^ s < (q + 1) * m := by
      rw [Nat.mul_comm]
      exact Nat.lt_mul_div_succ _ (Nat.pos_of_ne_zero hm)
    have hloq : (q : ℚ) < (m : ℚ)⁻¹ * 2 ^ s := by rw [lt_inv_mul_iff₀ hpos, mul_comm]; exact_mod_cast hlo
    have hhiq : (m : ℚ)⁻¹ * 2 ^ s < q + 1 := by rw [inv_mul_lt_iff₀ hpos, mul_comm]; exact_mod_cast hhi
    rw [← mul_assoc]
    exact ⟨by gcongr, by gcongr⟩

/-! ## Reciprocal square roots -/

/-- The integer square root by bits. -/
theorem isqrt_spec {x n r : Nat} (hlo : r * r ≤ x) (hhi : x < (r + 2 ^ n) * (r + 2 ^ n)) :
    isqrt x n r * isqrt x n r ≤ x ∧ x < (isqrt x n r + 1) * (isqrt x n r + 1) := by
  induction n generalizing r with
  | zero => exact ⟨hlo, hhi⟩
  | succ n ih =>
    rw [isqrt]
    split
    next h =>
      refine ih h ?_
      rw [show r + 2 ^ n + 2 ^ n = r + 2 ^ (n + 1) by rw [Nat.pow_succ]; omega]
      exact hhi
    next h => exact ih hlo (not_le.1 h)

/-- The root of a quotient of 2^256, for an even exponent. -/
theorem nearest_rsq_even (hf : f ∈ [fp64, fp32, fp16, bf16]) {m : Nat} (hm : m ≠ 0) (hlt : m < 2 ^ 64) {h : Int} {z : ℚ} (hz : 0 < z)
    (hzq : z * z * rat false m (2 * h) = 1) (c : Nat) : let q := isqrt (2 ^ 256 / m) 129 0
    Nearest f z (f.funRes .rsq c (if q * q * m = 2 ^ 256 then .exact false q (-128 - h) else between false q (-128 - h))) := by
  obtain ⟨hplain, heb⟩ := plainIeee_of_mem hf
  have hmb : f.mb + 1 ≤ 63 := by
    simp only [List.mem_cons, List.not_mem_nil, or_false] at hf
    obtain rfl | rfl | rfl | rfl := hf <;> decide
  intro q
  have hpos : 0 < m := Nat.pos_of_ne_zero hm
  have hposq : (0 : ℚ) < m := by exact_mod_cast hpos
  have hdiv : 2 ^ 192 ≤ 2 ^ 256 / m := by
    rw [Nat.le_div_iff_mul_le hpos]
    calc 2 ^ 192 * m ≤ 2 ^ 192 * 2 ^ 64 := Nat.mul_le_mul_left _ hlt.le
      _ = 2 ^ 256 := (Nat.pow_add ..).symm
  obtain ⟨hlo, hhi⟩ : q * q ≤ 2 ^ 256 / m ∧ 2 ^ 256 / m < (q + 1) * (q + 1) :=
    isqrt_spec (Nat.zero_le _) ((Nat.div_le_self ..).trans_lt (by decide))
  have hbig : 2 ^ 63 ≤ q := by
    by_contra hsmall
    have hle : (q + 1) * (q + 1) ≤ 2 ^ 63 * 2 ^ 63 := Nat.mul_le_mul (by omega) (by omega)
    omega
  -- the root counted in the cell's power
  obtain ⟨w, hw⟩ : ∃ w : ℚ, z = w * 2 ^ (-128 - h) := ⟨z * 2 ^ (128 + h), by
    rw [mul_assoc, ← zpow_add₀ two_ne_zero, show 128 + h + (-128 - h) = 0 by omega, zpow_zero, mul_one]⟩
  have hpow : (0 : ℚ) < 2 ^ (-128 - h) := by positivity
  have hwpos : 0 < w := by rw [hw] at hz; exact (mul_pos_iff_of_pos_right hpow).1 hz
  have hsq : w * w * m = 2 ^ 256 := by
    have hscale : (2 : ℚ) ^ (-128 - h) * 2 ^ (-128 - h) * 2 ^ (2 * h) * 2 ^ 256 = 1 := by
      rw [← zpow_natCast, ← zpow_add₀ two_ne_zero, ← zpow_add₀ two_ne_zero, ← zpow_add₀ two_ne_zero]
      convert zpow_zero (2 : ℚ) using 2
      push_cast
      ring
    rw [hw, rat] at hzq
    simp only [Bool.false_eq_true, if_false, one_mul] at hzq
    calc w * w * m = w * w * m * (2 ^ (-128 - h) * 2 ^ (-128 - h) * 2 ^ (2 * h) * 2 ^ 256) := by rw [hscale, mul_one]
      _ = w * 2 ^ (-128 - h) * (w * 2 ^ (-128 - h)) * (m * 2 ^ (2 * h)) * 2 ^ 256 := by ring
      _ = _ := by rw [hzq, one_mul]
  have hqle : q * q * m ≤ 2 ^ 256 := (Nat.mul_le_mul_right m hlo).trans (Nat.div_mul_le_self ..)
  have hqlt : 2 ^ 256 < (q + 1) * (q + 1) * m := by
    have := Nat.lt_mul_div_succ (2 ^ 256) hpos
    calc 2 ^ 256 < m * (2 ^ 256 / m + 1) := this
      _ ≤ m * ((q + 1) * (q + 1)) := Nat.mul_le_mul_left _ hhi
      _ = _ := Nat.mul_comm ..
  have hwlt : w < q + 1 := by
    have hcast : w * w * m < (q + 1 : ℚ) * (q + 1) * m := by rw [hsq]; exact_mod_cast hqlt
    nlinarith [lt_of_mul_lt_mul_right hcast hposq.le, (Nat.cast_nonneg q : (0 : ℚ) ≤ q)]
  split
  next heq =>
    have hweq : w = q := by
      have hcast : (q : ℚ) * q * m = w * w * m := by rw [hsq]; exact_mod_cast heq
      have hmul := mul_right_cancel₀ hposq.ne' hcast
      nlinarith [mul_self_eq_mul_self_iff.1 hmul, (Nat.cast_nonneg q : (0 : ℚ) ≤ q)]
    have hz' : z = rat false q (-128 - h) := by rw [hw, hweq]; simp [rat]
    rw [hz']
    exact nearest_exact hf false (by omega) _
  next hne =>
    have hqw : (q : ℚ) < w := by
      have hcast : (q : ℚ) * q * m < w * w * m := by rw [hsq]; exact_mod_cast lt_of_le_of_ne hqle hne
      nlinarith [lt_of_mul_lt_mul_right hcast hposq.le, (Nat.cast_nonneg q : (0 : ℚ) ≤ q)]
    have hcell : InCell q (-128 - h) z := by rw [hw]; exact ⟨by gcongr, by gcongr⟩
    have hnear := nearest_cell hplain heb ((Nat.pow_le_pow_right two_pos hmb).trans hbig) hcell false
    rwa [signFactor_false, one_mul] at hnear

end Sys2Proof.Claims
end

section
/-!
PROOF. The transcendentals on the operands whose result the spec gives (R153).
-/

namespace Sys2Proof.Claims
open Sys2Proof.Machine

/-! ## Special operands -/

section
variable {f : FFmt} {g : VFun} {x : Nat}

theorem rat_false (m : Nat) (e : Int) : rat false m e = m * 2 ^ e := by simp [rat]

theorem sign_infCode_eq (f : FFmt) (neg : Bool) : f.sign neg f.infCode = infinity f neg := by
  cases neg <;> simp [FFmt.sign, FFmt.infCode, infinity, FFmt.width, Nat.add_comm]

/-- An ordinary NaN gives the canonical one without a flag. -/
theorem apply_nan (h : f.unpack x = .nan) : f.apply g x = (f.nanCode, 0) := by
  simp only [FFmt.apply, h]
  rfl

/-- A number other than zero that the function takes gives the function's value. -/
theorem apply_number {a : Bool} {m : Nat} {e : Int} (h : f.unpack x = .fin a m e) (hm : m ≠ 0) (hg : a = true → g ≠ .log2 ∧ g ≠ .rsq) :
    f.apply g x = f.funRes g x (g.at_ a m e) := by
  have hbranch : (a && (decide (g = .log2) || decide (g = .rsq))) = false := by
    cases a
    · rfl
    · simp [hg rfl]
  simp only [FFmt.apply, h, hm, hbranch, if_false, Bool.false_eq_true]

/-- A number by its parts. -/
theorem exists_of_number {v : FVal} {q : ℚ} (hx : number v = some q) : ∃ a m e, v = .fin a m e ∧ rat a m e = q := by
  cases v with
  | fin a m e => exact ⟨a, m, e, rfl, Option.some.inj hx⟩
  | inf a => cases hx
  | nan => cases hx
  | poison => cases hx

theorem rat_ne_zero_iff {a : Bool} {m : Nat} {e : Int} : rat a m e ≠ 0 ↔ m ≠ 0 := by
  cases a <;> simp [rat, zpow_ne_zero]

/-- A negative number has neither a logarithm nor a root. -/
theorem apply_negative {q : ℚ} (hx : number (f.unpack x) = some q) (hq : q < 0) (hg : g = .log2 ∨ g = .rsq) :
    f.apply g x = (f.nanCode, flNV) := by
  obtain ⟨a, m, e, h, rfl⟩ := exists_of_number hx
  have hneg : a = true := by
    cases a
    · exact absurd hq (not_lt.2 (by rw [rat_false]; positivity))
    · rfl
  have hm : m ≠ 0 := rat_ne_zero_iff.1 hq.ne
  obtain rfl | rfl := hg <;> simp [FFmt.apply, h, hm, hneg, FFmt.invalid]

/-- A positive number has no sign. -/
theorem sign_of_rat_pos {a : Bool} {m : Nat} {e : Int} (h : 0 < rat a m e) : a = false := by
  cases a
  · rfl
  · rw [rat_signed, signFactor_true, neg_one_mul, neg_pos, rat_false] at h
    exact absurd h (not_lt.2 (by positivity))

end

/-! ## Powers and logarithms of two -/

theorem natAbs_signed (a : Bool) (m : Nat) : (signed a m).natAbs = m := by cases a <;> simp [signed]

/-- An operand that is an integer, by its magnitude. -/
theorem natAbs_of_rat {a : Bool} {m : Nat} {e n : Int} (hx : rat a m e = n) :
    n = signed a n.natAbs ∧ n.natAbs * 2 ^ (-e).toNat = m * 2 ^ e.toNat := by
  have hscaled : n * (2 : Int) ^ (-e).toNat = signed a m * 2 ^ e.toNat := by
    have hpow : (2 : ℚ) ^ e * 2 ^ (-e).toNat = 2 ^ e.toNat := by
      rw [← zpow_natCast, ← zpow_natCast, ← zpow_add₀ two_ne_zero]
      congr 1
      omega
    have hq : (n : ℚ) * 2 ^ (-e).toNat = signed a m * 2 ^ e.toNat := by rw [← hx, rat_eq_signed, mul_assoc, hpow]
    exact_mod_cast hq
  have habs : n.natAbs * 2 ^ (-e).toNat = m * 2 ^ e.toNat := by
    have := congrArg Int.natAbs hscaled
    simpa [Int.natAbs_mul, Int.natAbs_pow, natAbs_signed] using this
  have hpos : (0 : Int) < 2 ^ (-e).toNat := by positivity
  refine ⟨?_, habs⟩
  apply mul_right_cancel₀ hpos.ne'
  rw [hscaled]
  have hcast : ((n.natAbs : Int)) * 2 ^ (-e).toNat = m * 2 ^ e.toNat := by exact_mod_cast habs
  cases a <;> simp only [signed, Bool.false_eq_true, if_false, if_true, neg_mul, hcast]

/-- An integer is at least the power of its leading bit. -/
theorem le_natAbs_of_log2 {i m : Nat} {e : Int} (hm : m ≠ 0) (h : i * 2 ^ (-e).toNat = m * 2 ^ e.toNat) (hbig : (m.log2 : Int) + e ≥ 9) :
    512 ≤ i := by
  refine Nat.le_of_mul_le_mul_right (c := 2 ^ (-e).toNat) ?_ (Nat.two_pow_pos _)
  rw [h]
  calc 512 * 2 ^ (-e).toNat = 2 ^ (9 + (-e).toNat) := (Nat.pow_add 2 9 _).symm
    _ ≤ 2 ^ (m.log2 + e.toNat) := Nat.pow_le_pow_right two_pos (by omega)
    _ = 2 ^ m.log2 * 2 ^ e.toNat := Nat.pow_add ..
    _ ≤ _ := Nat.mul_le_mul_right _ (Nat.log2_self_le hm)

/-- An operand that is a power of two, by its parts. -/
theorem parts_of_two_zpow {a : Bool} {m : Nat} {e n : Int} (hx : rat a m e = 2 ^ n) : a = false ∧ m = 2 ^ m.log2 ∧ (m.log2 : Int) + e = n := by
  have ha : a = false := sign_of_rat_pos (hx ▸ zpow_pos two_pos n)
  subst ha
  have hpow : (m : ℚ) = 2 ^ (n - e) := by
    rw [zpow_sub₀ two_ne_zero, ← hx, rat_false, mul_div_cancel_right₀ _ (zpow_ne_zero _ two_ne_zero)]
  have hnn : 0 ≤ n - e := by
    by_contra hneg
    have hlt : (m : ℚ) < 1 := hpow ▸ zpow_lt_one_of_neg₀ one_lt_two (not_le.1 hneg)
    have hpos : (0 : ℚ) < m := hpow ▸ zpow_pos two_pos _
    have hlt' : m < 1 := by exact_mod_cast hlt
    have hpos' : 0 < m := by exact_mod_cast hpos
    omega
  obtain ⟨k, hk⟩ := Int.eq_ofNat_of_zero_le hnn
  rw [hk, zpow_natCast] at hpow
  obtain rfl : m = 2 ^ k := by exact_mod_cast hpow
  rw [Nat.log2_two_pow]
  exact ⟨rfl, rfl, by omega⟩

/-! ## The three formats -/

section
variable {f : FFmt}

theorem tyFormat_mem {t : BitVec 4} (ht : t = 6 ∨ t = 7 ∨ t = 8) : tyFormat t ∈ [fp32, fp16, bf16] := by
  obtain rfl | rfl | rfl := ht <;> decide

variable (hf : f ∈ [fp32, fp16, bf16])
include hf

theorem round_one : f.round .rn false 1 0 = (oneOf f, 0) := by
  simp only [List.mem_cons, List.not_mem_nil, or_false] at hf
  obtain rfl | rfl | rfl := hf <;> decide

theorem round_half : f.round .rn false 1 (-1) = (halfOf f, 0) := by
  simp only [List.mem_cons, List.not_mem_nil, or_false] at hf
  obtain rfl | rfl | rfl := hf <;> decide

/-- The exponents and mantissas of the three formats are short. -/
theorem format_bounds : f.eb ≤ 8 ∧ 1 ≤ f.bias ∧ f.bias ≤ 127 ∧ f.mb ≤ 23 := by
  simp only [List.mem_cons, List.not_mem_nil, or_false] at hf
  obtain rfl | rfl | rfl := hf <;> decide

theorem unpack_mantissa_lt {x : Nat} {a : Bool} {m : Nat} {e : Int} (h : f.unpack x = .fin a m e) : m < 2 ^ 24 := by
  have hmod : x % 2 ^ f.mb < 2 ^ f.mb := Nat.mod_lt _ (Nat.two_pow_pos _)
  have hmb : 2 * 2 ^ f.mb ≤ 2 ^ 24 := by
    rw [← Nat.pow_succ']
    exact Nat.pow_le_pow_right two_pos (by have := format_bounds hf; omega)
  unfold FFmt.unpack at h
  extract_lets neg e' m' top at h
  split_ifs at h <;> injection h <;> omega

/-! ## Powers of two beyond the range -/

omit hf in
theorem log2_one : Nat.log2 1 = 0 := by decide

theorem round_two_pow_high {n : Int} (hn : 512 ≤ n) : f.round .rn false 1 n = f.overflow .rn false := by
  obtain ⟨hplain, -⟩ := plainIeee_of_mem (List.mem_cons_of_mem _ hf)
  obtain ⟨heb, hbias, hbias', hmb⟩ := format_bounds hf
  have hscale : scaleOf f 1 n = (n - 1 + f.bias).toNat := by simp only [scaleOf, log2_one]; omega
  have hwide : 2 ^ f.eb ≤ scaleOf f 1 n := (Nat.pow_le_pow_right two_pos heb).trans (by omega)
  rw [round_of_fine hplain one_ne_zero (n := f.mb) (by unfold FFmt.least; omega) (by have := hplain.mantissa; omega), packed, if_pos]
  simp only [chosen, ne_eq, not_true_eq_false, decide_false, Bool.false_and, Bool.false_eq_true, if_false, FFmt.maxCode, hplain.style]
  calc (2 ^ f.eb - 1) * 2 ^ f.mb - 1 ≤ 2 ^ f.eb * 2 ^ f.mb := (Nat.sub_le ..).trans (Nat.mul_le_mul_right _ (Nat.sub_le ..))
    _ ≤ scaleOf f 1 n * 2 ^ f.mb := Nat.mul_le_mul_right _ hwide
    _ < _ := by have := Nat.two_pow_pos f.mb; omega

theorem round_two_pow_low {n : Int} (hn : n ≤ -512) : f.round .rn false 1 n = packed f .rn false 0 1 := by
  obtain ⟨hplain, -⟩ := plainIeee_of_mem (List.mem_cons_of_mem _ hf)
  obtain ⟨heb, hbias, hbias', hmb⟩ := format_bounds hf
  have hscale : scaleOf f 1 n = 0 := by simp only [scaleOf, log2_one]; omega
  obtain ⟨sh, hsh⟩ : ∃ sh : Nat, f.least = n + (sh + 2 : Nat) := ⟨(f.least - n - 2).toNat, by unfold FFmt.least; omega⟩
  have hbig : 2 < 2 ^ (sh + 2) := by rw [Nat.pow_add]; have := Nat.two_pow_pos sh; omega
  rw [round_of_coarse hplain one_ne_zero (sh := sh + 2) (by rw [hscale, ← hsh]; simp), hscale, Nat.div_eq_of_lt (by omega),
    Nat.mod_eq_of_lt (by omega)]
  congr 1
  simp [chosen, roundsUp, hbig.not_gt, hbig.ne]

/-- 2 to an integer operand is the rounded power. -/
theorem exp2_spec {c : Nat} {a : Bool} {m : Nat} {e n : Int} (hm : m ≠ 0) (hx : rat a m e = n) :
    f.funRes .exp2 c (exp2Of a m e) = f.round .rn false 1 n := by
  obtain ⟨hn, habs⟩ := natAbs_of_rat hx
  unfold exp2Of
  split
  next hbig =>
    have hlarge := le_natAbs_of_log2 hm habs hbig
    cases a
    · have hpos : n = n.natAbs := hn
      exact (round_two_pow_high hf (by decide)).trans (round_two_pow_high hf (by omega)).symm
    · have hneg : n = -n.natAbs := hn
      exact (round_two_pow_low hf (by decide)).trans (round_two_pow_low hf (by omega)).symm
  next =>
    have hint : (if 0 ≤ e then m * 2 ^ e.toNat else m / 2 ^ (-e).toNat) = n.natAbs := by
      split
      next he => simpa [show (-e).toNat = 0 by omega] using habs.symm
      next he =>
        rw [show e.toNat = 0 by omega, Nat.pow_zero, Nat.mul_one] at habs
        rw [← habs, Nat.mul_div_cancel _ (Nat.two_pow_pos _)]
    extract_lets i
    rw [show i = n.natAbs from hint, if_pos habs]
    conv_rhs => rw [hn]
    rfl

omit hf in
/-- The logarithm of a power of two is its exponent. -/
theorem log2_spec {c m : Nat} {e : Int} (hm : m = 2 ^ m.log2) : let n := (m.log2 : Int) + e
    f.funRes .log2 c (log2Of m e) = f.round .rn (n < 0) n.natAbs 0 := by
  intro n
  unfold log2Of
  rw [if_pos hm]
  rfl

omit hf in
theorem rsqOf_even (m : Nat) (h : Int) : rsqOf m (2 * h) =
    let q := isqrt (2 ^ 256 / m) 129 0
    if q * q * m = 2 ^ 256 then .exact false q (-128 - h) else between false q (-128 - h) := by
  have hhalf : 2 * h / 2 = h := by omega
  unfold rsqOf
  rw [if_pos (by omega)]
  dsimp only
  rw [hhalf]

omit hf in
theorem rsqOf_odd (m : Nat) (h : Int) : rsqOf m (2 * h + 1) = rsqOf (2 * m) (2 * h) := by
  unfold rsqOf
  rw [if_neg (by omega), if_pos (by omega), Int.add_sub_cancel]

/-- The reciprocal square root is the code nearest to its exact value. -/
theorem nearest_rsq {c m : Nat} {e : Int} {z : ℚ} (hm : m ≠ 0) (hlt : m < 2 ^ 24) (hz : 0 < z) (hzq : z * z * rat false m e = 1) :
    Nearest f z (f.funRes .rsq c (rsqOf m e)) := by
  have hmem : f ∈ [fp64, fp32, fp16, bf16] := List.mem_cons_of_mem _ hf
  obtain ⟨h, he⟩ := e.even_or_odd'
  obtain rfl | rfl := he
  · rw [rsqOf_even]
    exact nearest_rsq_even hmem hm (by omega) hz hzq c
  · have hdouble : rat false m (2 * h + 1) = rat false (2 * m) (2 * h) := by
      rw [rat_false, rat_false, zpow_add_one₀ two_ne_zero]
      push_cast
      ring
    rw [rsqOf_odd, rsqOf_even]
    exact nearest_rsq_even hmem (by omega) (by omega) hz (hdouble ▸ hzq) c

end

/-! ## The forms -/

/-- What a function gives at a zero (R153). -/
def atZero (f : FFmt) (g : VFun) (neg : Bool) : FRes :=
  match g with
  | .exp2 | .cos => (oneOf f, 0)
  | .log2 => (infinity f true, flDZ)
  | .rcp | .rsq => (infinity f neg, flDZ)
  | .sin | .tanh => (zero f neg, 0)
  | .sigm => (halfOf f, 0)

/-- What a function gives at an infinity (R153). -/
def atInfinity (f : FFmt) (g : VFun) (neg : Bool) : FRes :=
  match g with
  | .exp2 => if neg then (0, 0) else (infinity f false, 0)
  | .log2 => if neg then (f.nanCode, flNV) else (infinity f false, 0)
  | .rcp => (zero f neg, 0)
  | .rsq => if neg then (f.nanCode, flNV) else (0, 0)
  | .sin | .cos => (f.nanCode, flNV)
  | .tanh => (if neg then zero f true + oneOf f else oneOf f, 0)
  | .sigm => if neg then (0, 0) else (oneOf f, 0)

/-- What a function gives at a negative number, where its table says so (R153). -/
def atNegative (f : FFmt) (g : VFun) : Option FRes :=
  match g with
  | .log2 | .rsq => some (f.nanCode, flNV)
  | _ => none

section
variable {f : FFmt} (hf : f ∈ [fp32, fp16, bf16]) {g : VFun} {x : Nat} {neg : Bool}
include hf

theorem apply_zero {e : Int} (h : f.unpack x = .fin neg 0 e) : f.apply g x = atZero f g neg := by
  cases g <;> simp [FFmt.apply, h, atZero, round_one hf, round_half hf, sign_infCode_eq, sign_zero]

theorem apply_infinity (h : f.unpack x = .inf neg) : f.apply g x = atInfinity f g neg := by
  have hone : f.sign true (oneOf f) = zero f true + oneOf f := by rw [← sign_zero]; rfl
  have hpos : f.sign false (oneOf f) = oneOf f := Nat.zero_add _
  cases g <;> cases neg <;>
    simp [FFmt.apply, h, atInfinity, round_one hf, sign_infCode_eq, sign_zero, FFmt.invalid, hone, hpos]

/-- Every function follows its table of special operands. -/
theorem specials_apply (g : VFun) (x : Nat) : Specials (f.unpack x) (f.apply g x) (atZero f g) (atInfinity f g false)
    (atInfinity f g true) (atNegative f g) := by
  refine ⟨fun _ _ => apply_zero hf, apply_infinity hf, apply_infinity hf, fun q v hx hq hv => ?_⟩
  cases g <;> cases hv
  · exact apply_negative hx hq (.inl rfl)
  · exact apply_negative hx hq (.inr rfl)

theorem funRes_lt (g : VFun) (x : Nat) (r : FunRes) : (f.funRes g x r).1 < 2 ^ f.width := by
  obtain ⟨hplain, -⟩ := plainIeee_of_mem (List.mem_cons_of_mem _ hf)
  cases r with
  | exact neg m e => exact hplain.round_lt ..
  | encl v =>
    dsimp only [FFmt.funRes]
    split
    · exact hplain.round_lt ..
    · exact Nat.mod_lt _ (Nat.two_pow_pos _)

theorem special_codes_lt (g : VFun) (neg : Bool) : (atZero f g neg).1 < 2 ^ f.width ∧ (atInfinity f g neg).1 < 2 ^ f.width := by
  simp only [List.mem_cons, List.not_mem_nil, or_false] at hf
  obtain rfl | rfl | rfl := hf <;> revert neg <;> cases g <;> decide

/-- A function's codes fit its format. -/
theorem apply_lt (g : VFun) (x : Nat) : (f.apply g x).1 < 2 ^ f.width := by
  obtain ⟨hplain, -⟩ := plainIeee_of_mem (List.mem_cons_of_mem _ hf)
  have hnan : f.nanCode < 2 ^ f.width := magnitude_lt hplain.nanCode_lt
  cases h : f.unpack x with
  | poison =>
    simp only [FFmt.apply, h]
    exact magnitude_lt hplain.poisonCode_lt
  | nan => exact apply_nan h ▸ hnan
  | inf a => exact apply_infinity hf h ▸ (special_codes_lt hf g a).2
  | fin a m e =>
    by_cases hm : m = 0
    · subst hm
      exact apply_zero hf h ▸ (special_codes_lt hf g a).1
    · simp only [FFmt.apply, h, hm, if_false]
      split
      · exact hnan
      · exact funRes_lt hf ..

/-- 2 to an integer. -/
theorem apply_exp2 {n : Int} (hx : number (f.unpack x) = some (n : ℚ)) : RoundsTo f .rn (2 ^ n) (f.apply .exp2 x) := by
  refine ⟨false, 1, n, one_ne_zero, by rw [rat_false]; simp, ?_⟩
  obtain ⟨a, m, e, hu, hr⟩ := exists_of_number hx
  by_cases hm : m = 0
  · subst hm
    obtain rfl : n = 0 := by simpa [rat, eq_comm] using hr
    exact (round_one hf).trans (apply_zero (g := .exp2) hf hu).symm
  · rw [apply_number hu hm (fun _ => by decide)]
    exact (exp2_spec hf hm hr).symm

omit hf in
/-- The logarithm of a power of two. -/
theorem apply_log2 {n : Int} (hx : number (f.unpack x) = some (2 ^ n)) :
    if n = 0 then f.apply .log2 x = (0, 0) else RoundsTo f .rn n (f.apply .log2 x) := by
  obtain ⟨a, m, e, hu, hr⟩ := exists_of_number hx
  have hm : m ≠ 0 := rat_ne_zero_iff.1 (hr ▸ zpow_ne_zero n two_ne_zero)
  obtain ⟨rfl, htwo, rfl⟩ := parts_of_two_zpow hr
  rw [apply_number hu hm (fun h => absurd h Bool.false_ne_true), show VFun.at_ .log2 false m e = log2Of m e from rfl, log2_spec htwo]
  split
  next h => rw [h]; exact round_zero ..
  next h =>
    refine ⟨_, _, _, by simpa using h, ?_, rfl⟩
    rw [rat_eq_signed, signed_natAbs, zpow_zero, mul_one]

/-- The reciprocal of a number. -/
theorem apply_rcp {q : ℚ} (hx : number (f.unpack x) = some q) (hq : q ≠ 0) : Nearest f q⁻¹ (f.apply .rcp x) := by
  obtain ⟨a, m, e, hu, rfl⟩ := exists_of_number hx
  have hm : m ≠ 0 := rat_ne_zero_iff.1 hq
  rw [apply_number hu hm (fun _ => by decide)]
  exact nearest_rcp (List.mem_cons_of_mem _ hf) a hm e x

/-- The reciprocal square root of a number. -/
theorem apply_rsq {q z : ℚ} (hx : number (f.unpack x) = some q) (hz : 0 < z) (hzq : z * z * q = 1) : Nearest f z (f.apply .rsq x) := by
  have hq : 0 < q := (mul_pos_iff_of_pos_left (mul_pos hz hz)).1 (hzq ▸ one_pos)
  obtain ⟨a, m, e, hu, rfl⟩ := exists_of_number hx
  have hm : m ≠ 0 := rat_ne_zero_iff.1 hq.ne'
  obtain rfl := sign_of_rat_pos hq
  rw [apply_number hu hm (fun h => absurd h Bool.false_ne_true)]
  exact nearest_rsq hf hm (unpack_mantissa_lt hf hu) hz hzq

end

/-- A function of R153 from what it gives at each code. -/
theorem transcendental_of {mk : Reg → Reg → BitVec 3 → BitVec 4 → Instr} {R : FFmt → FVal → FRes → Prop} (g : VFun)
    (hR : ∀ f ∈ [fp32, fp16, bf16], ∀ x, R f (f.unpack x) (f.apply g x))
    (he : ∀ d a k t s, exec (mk d a k t) s = s.taskOnly (s.vfun g d a k t) := by intros; rfl) : Transcendental mk R := by
  intro t ht
  obtain ⟨h15, hfp, -, -⟩ := floatTy ht
  refine elementwise_of (op := fun l => (tyFormat t).apply g (arg l 0)) h15
    (fun l _ => ⟨?_, apply_nan, hR _ (tyFormat_mem ht) _⟩) fun d a b k s => ?_
  · rw [← format_width h15 hfp]
    exact apply_lt (tyFormat_mem ht) g _
  · rw [he, State.vfun, of_float h15 hfp]
    rfl

/-- Settles O26: every function is its table of special operands and, at the operands whose result the spec gives, a value that is
rounded once. -/
theorem transcendentals : Obligations.Transcendentals := by
  exact ⟨transcendental_of .exp2 fun f hf x => ⟨specials_apply hf .exp2 x, fun _ => apply_exp2 hf⟩,
    transcendental_of .log2 fun f hf x => ⟨specials_apply hf .log2 x, fun _ => apply_log2⟩,
    transcendental_of .rcp fun f hf x => ⟨specials_apply hf .rcp x, fun _ => apply_rcp hf⟩,
    transcendental_of .rsq fun f hf x => ⟨specials_apply hf .rsq x, fun _ _ => apply_rsq hf⟩,
    transcendental_of .sin fun f hf x => specials_apply hf .sin x,
    transcendental_of .cos fun f hf x => specials_apply hf .cos x,
    transcendental_of .tanh fun f hf x => specials_apply hf .tanh x,
    transcendental_of .sigm fun f hf x => specials_apply hf .sigm x⟩

end Sys2Proof.Claims
end

section
/-!
PROOF. Conversions of values into elements (R105-R108, R156), and the blocks of the MX formats (R103, R157).
-/

namespace Sys2Proof.Claims
open Sys2Proof.Machine

/-! ## Rounding to an integer under every mode (R104, R106) -/

theorem roundToInt_flag (mode mode' : RMode) (neg : Bool) (m : Nat) (e : Int) :
    (roundToInt mode neg m e).2 = (roundToInt mode' neg m e).2 := by
  unfold roundToInt
  split <;> rfl

/-- A number that needs no rounding is itself under every mode. -/
theorem roundToInt_of_exact {neg : Bool} {m : Nat} {e : Int} {mode : RMode} (h : (roundToInt mode neg m e).2 = false) (mode' : RMode) :
    (roundToInt mode neg m e).1 = (roundToInt mode' neg m e).1 := by
  unfold roundToInt at h ⊢
  split
  · rfl
  · next he =>
    rw [if_neg he, decide_eq_false_iff_not, not_not] at h
    simp [h]

/-- The flag of inexactness tells whether the number is the integer that it was rounded to. -/
theorem roundToInt_exact (mode : RMode) (neg : Bool) (m : Nat) (e : Int) :
    (roundToInt mode neg m e).2 = false ↔ rat neg m e = (roundToInt mode neg m e).1 := by
  obtain ⟨⟨-, hnear, -⟩, hexact⟩ : RoundsToInt .rz _ _ ∧ _ := roundToInt_spec 1 neg m e
  rw [roundToInt_flag mode (rmode 1)]
  refine ⟨fun h => ?_, fun h => hexact.2 ?_⟩
  · rw [hexact.1 h, roundToInt_of_exact h mode]
  · rw [h] at hnear ⊢
    have hlt : |(roundToInt mode neg m e).1 - (roundToInt (rmode 1) neg m e).1| < 1 := by exact_mod_cast hnear
    exact_mod_cast sub_eq_zero.1 (Int.abs_lt_one_iff.1 hlt)

/-- Every mode of a conversion rounds to an integer as R104 asks. -/
theorem roundsToInt_roundToInt {mode : RMode} (h : (∃ r, mode = rmode r) ∨ ∃ n, mode = .rs n) (neg : Bool) (m : Nat) (e : Int) :
    RoundsToInt mode (rat neg m e) (roundToInt mode neg m e).1 := by
  obtain ⟨r, rfl⟩ | ⟨n, rfl⟩ := h
  · exact (roundToInt_spec r neg m e).1
  · trivial

/-! ## Values as elements -/

section
variable {t : BitVec 4}

theorem tyLow_le_zero (t : BitVec 4) : tyLow t ≤ 0 := by revert t; decide

theorem zero_le_tyHigh (t : BitVec 4) : 0 ≤ tyHigh t := by revert t; decide

/-- A value as an element of an integer type. -/
def intElem (t : BitVec 4) (mode : RMode) (v : FVal) : FRes :=
  (wrapped t (toInteger (tyWidth t) (decide (t.toNat % 2 = 0)) mode v).1, (toInteger (tyWidth t) (decide (t.toNat % 2 = 0)) mode v).2)

theorem toElement_intElem {mode : RMode} (hmode : (∃ r, mode = rmode r) ∨ ∃ n, mode = .rs n) (v : FVal) :
    ToElement t mode v (intElem t mode v) := by
  have hbounds := tyLow_le_tyHigh t
  have hlow := tyInt_wrapped t le_rfl hbounds
  have hhigh := tyInt_wrapped t hbounds le_rfl
  unfold intElem toInteger
  simp only [decide_eq_true_eq, ← tyLow_eq, ← tyHigh_eq]
  cases v with
  | poison => trivial
  | nan => exact ⟨tyInt_wrapped t (tyLow_le_zero t) (zero_le_tyHigh t), rfl⟩
  | inf neg => cases neg <;> exact ⟨by assumption, rfl⟩
  | fin neg m e =>
    refine ⟨_, roundsToInt_roundToInt hmode neg m e, fun h => ?_, fun h => ?_, fun h h' => ?_⟩
    · simp [h, hlow]
    · simp [h, (hbounds.trans_lt h).not_gt, hhigh]
    · simp only [h.not_gt, h'.not_gt, if_false, tyInt_wrapped t h h', ← roundToInt_exact, true_and]
      cases (roundToInt mode neg m e).2 <;> rfl

/-- The codes of a format's special results fit it. -/
theorem format_codes_lt (hf : tyFloat t = true) : let f := tyFormat t
    f.poisonCode < 2 ^ (f.eb + f.mb) ∧ f.nanCode < 2 ^ (f.eb + f.mb) ∧ f.infCode < 2 ^ (f.eb + f.mb) ∧ f.maxCode < 2 ^ (f.eb + f.mb) := by
  revert t; decide

theorem format_overflow_lt (hf : tyFloat t = true) (mode : RMode) (neg : Bool) :
    ((tyFormat t).overflow mode neg).1 < 2 ^ (tyFormat t).width := by
  obtain ⟨-, -, hinf, hmax⟩ := format_codes_lt hf
  unfold FFmt.overflow
  extract_lets toInf
  refine sign_lt ?_
  split
  · exact hinf
  · exact hmax

theorem format_round_lt (hf : tyFloat t = true) (mode : RMode) (neg : Bool) (m : Nat) (e : Int) :
    ((tyFormat t).round mode neg m e).1 < 2 ^ (tyFormat t).width := by
  obtain ⟨-, -, -, hmax⟩ := format_codes_lt hf
  unfold FFmt.round
  extract_lets top emin big q sh base rem r code inexact tiny
  split
  · exact sign_lt (Nat.two_pow_pos _)
  · split <;> rename_i hcode
    · exact format_overflow_lt hf ..
    · exact sign_lt (lt_of_le_of_lt (not_lt.1 hcode) hmax)

theorem format_ofVal_lt (hf : tyFloat t = true) (mode : RMode) (v : FVal) :
    ((tyFormat t).ofVal mode v).1 < 2 ^ (tyFormat t).width := by
  obtain ⟨hpoison, hnan, hinf, hmax⟩ := format_codes_lt hf
  cases v with
  | fin a m e => exact format_round_lt hf ..
  | inf a =>
    dsimp only [FFmt.ofVal]
    split
    · exact sign_lt hinf
    · exact sign_lt hmax
  | nan =>
    dsimp only [FFmt.ofVal]
    split
    · exact Nat.two_pow_pos _
    · exact magnitude_lt hnan
  | poison => exact magnitude_lt hpoison

/-- A value as an element of a floating-point format is the one of R105 to R108. -/
theorem fromValue_ofVal (ht : t.toNat < 15) (hf : tyFloat t = true) (mode : RMode) (v : FVal) :
    FromValue t mode v ((tyFormat t).ofVal mode v) := by
  cases v with
  | poison => trivial
  | nan =>
    exact (by decide : ∀ t : BitVec 4, t.toNat < 15 → tyFloat t = true →
      (tyFormat t).ofVal .rn .nan = if t = 11 ∨ t = 14 then (0, flNV) else ((tyFormat t).nanCode, 0)) t ht hf
  | inf neg =>
    exact (by decide : ∀ (t : BitVec 4) (neg : Bool), t.toNat < 15 → tyFloat t = true → (tyFormat t).ofVal .rn (.inf neg) =
      if t = 9 ∨ t = 13 then ((if neg then 0xFE else 0x7E), flNV)
      else if t = 11 ∨ t = 14 then ((if neg then 0xF else 0x7), flNV) else (infinity (tyFormat t) neg, 0)) t neg ht hf
  | fin neg m e =>
    dsimp only [FromValue, FFmt.ofVal]
    split
    next hm => rw [hm, round_zero]
    next hm => exact roundsTo_round hm

end

/-! ## The values of elements -/

section
variable {t u : BitVec 4}

theorem of_value (hu : u.toNat < 15) (c : Nat) : (VTy.of u).value c =
    if tyFloat u then (tyFormat u).unpack c else .fin (decide (tyInt u c < 0)) (tyInt u c).natAbs 0 := by
  cases hf : tyFloat u
  · rw [← of_toInt hu hf, of_int hu hf]; rfl
  · rw [of_float hu hf]; rfl

/-- An element converted without a scale. -/
def plainElem (t u : BitVec 4) (mode : RMode) (v : FVal) : FRes := (VTy.of t).ofVal (!tyFloat u) mode v

theorem plainElem_float (ht : t.toNat < 15) (hf : tyFloat t = true) (mode : RMode) (v : FVal) :
    plainElem t u mode v = (tyFormat t).ofVal mode v := by
  rw [plainElem, of_float ht hf]; rfl

theorem plainElem_ofFloat (ht : t.toNat < 15) (hf : tyFloat t = false) (hu : tyFloat u = true) (mode : RMode) (v : FVal) :
    plainElem t u mode v = intElem t mode v := by
  rw [plainElem, of_int ht hf, hu]; rfl

/-- An integer between integer types saturates (R156). -/
theorem plainElem_ofInt (ht : t.toNat < 15) (hf : tyFloat t = false) (hu : tyFloat u = false) (mode : RMode) (q : Int) (e : Int) :
    plainElem t u mode (.fin (decide (q < 0)) q.natAbs e) = intResult (tyWidth t) (decide (t.toNat % 2 = 0)) (decide True) q := by
  rw [plainElem, of_int ht hf, hu]
  show intResult _ _ true (signed (decide (q < 0)) q.natAbs) = _
  rw [signed_natAbs, decide_true]

theorem plainElem_lt (ht : t.toNat < 15) {mode : RMode} {v : FVal} (hv : tyFloat u = false → ∃ q : Int, v = .fin (decide (q < 0)) q.natAbs 0) :
    (plainElem t u mode v).1 < 2 ^ tyWidth t := by
  cases hf : tyFloat t
  · cases hu : tyFloat u
    · obtain ⟨q, rfl⟩ := hv hu
      rw [plainElem_ofInt ht hf hu]
      exact (intResult_spec t True q).1
    · rw [plainElem_ofFloat ht hf hu]
      exact wrapped_lt ..
  · rw [plainElem_float ht hf, ← format_width ht hf]
    exact format_ofVal_lt hf ..

end

/-! ## Blocks (R103) -/

/-- The place of the leading bit of a finite nonzero value. -/
def leadingBit : Option FVal → Option Int
  | some (.fin _ m e) => if m = 0 then none else some ((m.log2 : Int) + e)
  | _ => none

/-- One value more in the greatest leading bit. -/
def joinLeading (a : Option Int) (x : Option FVal) : Option Int :=
  match leadingBit x with
  | none => a
  | some n => match a with
    | some b => some (if b < n then n else b)
    | none => some n

theorem blockLog_eq (l : List (Option FVal)) : blockLog l = l.foldl joinLeading none := by
  unfold blockLog
  congr
  funext a x
  unfold joinLeading
  cases x with
  | none => rfl
  | some v =>
    cases v with
    | fin b m e => cases a <;> by_cases hm : m = 0 <;> simp [leadingBit, hm]
    | inf b => rfl
    | nan => rfl
    | poison => rfl

/-- The greatest leading bit of a block. -/
theorem foldl_joinLeading {k : Int} {l : List (Option FVal)} {a : Option Int} (hle : ∀ x ∈ l, ∀ n, leadingBit x = some n → n ≤ k)
    (ha : ∀ c, a = some c → c ≤ k) (h : a = some k ∨ ∃ x ∈ l, leadingBit x = some k) : l.foldl joinLeading a = some k := by
  induction l generalizing a with
  | nil => simpa using h
  | cons x l ih =>
    have hx := hle x List.mem_cons_self
    refine ih (fun y hy => hle y (List.mem_cons_of_mem _ hy)) ?_ ?_
    · intro c hc
      unfold joinLeading at hc
      grind
    · unfold joinLeading
      grind

/-- A block without a finite value other than zero has none. -/
theorem foldl_joinLeading_none {l : List (Option FVal)} (h : ∀ x ∈ l, leadingBit x = none) : l.foldl joinLeading none = none := by
  induction l with
  | nil => rfl
  | cons x l ih =>
    rw [List.foldl_cons, joinLeading, h x List.mem_cons_self]
    exact ih fun y hy => h y (List.mem_cons_of_mem _ hy)

/-- The leading bit of a number bounds it. -/
theorem leadingBit_spec {b : Bool} {m : Nat} {e n : Int} (h : leadingBit (some (.fin b m e)) = some n) :
    (2 : ℚ) ^ n ≤ |rat b m e| ∧ |rat b m e| < 2 ^ (n + 1) := by
  have hm : m ≠ 0 := by rintro rfl; cases h
  obtain rfl : (m.log2 : Int) + e = n := by simpa [leadingBit, hm] using h
  have habs : |rat b m e| = m * 2 ^ e := by
    rw [rat_signed, abs_mul, rat_false, abs_of_nonneg (by positivity : (0 : ℚ) ≤ m * 2 ^ e)]
    cases b <;> simp
  have hlo : (2 : ℚ) ^ m.log2 ≤ m := by exact_mod_cast Nat.log2_self_le hm
  have hhi : (m : ℚ) < 2 ^ (m.log2 + 1) := by exact_mod_cast Nat.lt_log2_self
  rw [habs, add_right_comm, zpow_add₀ two_ne_zero, zpow_add₀ two_ne_zero _ e]
  exact ⟨by gcongr; exact_mod_cast hlo, by gcongr; exact_mod_cast hhi⟩

/-- Only a number other than zero has a leading bit. -/
theorem exists_leadingBit {x : Option FVal} {n : Int} (h : leadingBit x = some n) : ∃ b m e, x = some (.fin b m e) := by
  cases x with
  | none => cases h
  | some v =>
    cases v with
    | fin b m e => exact ⟨b, m, e, rfl⟩
    | inf b => cases h
    | nan => cases h
    | poison => cases h

theorem leadingBit_of_number {v : FVal} {q : ℚ} (h : number v = some q) (hq : q ≠ 0) : ∃ n, leadingBit (some v) = some n := by
  obtain ⟨b, m, e, rfl, rfl⟩ := exists_of_number h
  exact ⟨(m.log2 : Int) + e, by simp [leadingBit, rat_ne_zero_iff.1 hq]⟩

theorem leadingBit_of_zero {v : FVal} (h : number v = some 0) : leadingBit (some v) = none := by
  obtain ⟨b, m, e, rfl, hr⟩ := exists_of_number h
  have hm : m = 0 := by_contra fun hm => rat_ne_zero_iff.2 hm hr
  simp [leadingBit, hm]

/-- The leading bit of a block whose greatest magnitude has it is that one (R103). -/
theorem blockLog_spec {l : List (Option FVal)} {k : Int} (hlt : ∀ v ∈ l.reduceOption, ∀ q, number v = some q → |q| < 2 ^ (k + 1))
    (hge : ∃ v ∈ l.reduceOption, ∃ q, number v = some q ∧ 2 ^ k ≤ |q|) : blockLog l = some k := by
  have hle : ∀ x ∈ l, ∀ n, leadingBit x = some n → n ≤ k := by
    intro x hx n hn
    obtain ⟨b, m, e, rfl⟩ := exists_leadingBit hn
    have := (leadingBit_spec hn).1.trans_lt (hlt _ (List.reduceOption_mem_iff.2 hx) _ rfl)
    exact Int.lt_add_one_iff.1 ((zpow_lt_zpow_iff_right₀ one_lt_two).1 this)
  rw [blockLog_eq]
  refine foldl_joinLeading hle (by simp) (.inr ?_)
  obtain ⟨v, hv, q, hq, hk⟩ := hge
  have hpos : (0 : ℚ) < |q| := (zpow_pos two_pos k).trans_le hk
  obtain ⟨n, hn⟩ := leadingBit_of_number hq (abs_pos.1 hpos)
  have hx : some v ∈ l := List.reduceOption_mem_iff.1 hv
  obtain ⟨b, m, e, rfl, rfl⟩ := exists_of_number hq
  have hkn : k < n + 1 := (zpow_lt_zpow_iff_right₀ one_lt_two).1 (hk.trans_lt (leadingBit_spec hn).2)
  exact ⟨_, hx, by rw [hn, show n = k by have := hle _ hx n hn; omega]⟩

/-- The scale of a block is R103's. -/
theorem blockScale_spec {t : BitVec 4} (ht : isMX t = true) (l : List (Option FVal)) :
    BlockScale t l.reduceOption (blockScale (VTy.of t) l) := by
  have hemax : (VTy.of t).emax = if t = 13 then 8 else 2 := by revert t; decide
  unfold blockScale
  split
  next h =>
    obtain ⟨x, hx, hspecial⟩ := List.any_eq_true.1 h
    refine ⟨fun _ => rfl, fun hfin => absurd hspecial ?_⟩
    cases x with
    | none => exact Bool.false_ne_true
    | some v =>
      obtain ⟨q, hq⟩ := hfin v (List.reduceOption_mem_iff.2 hx)
      obtain ⟨b, m, e, rfl, -⟩ := exists_of_number hq
      exact Bool.false_ne_true
  next h =>
    refine ⟨fun ⟨v, hv, hspecial⟩ => absurd (List.any_eq_true.2 ⟨some v, List.reduceOption_mem_iff.1 hv, ?_⟩) h, fun hfin =>
      ⟨fun hzero => ?_, fun k hlt hge => ?_⟩⟩
    · obtain rfl | ⟨neg, rfl⟩ := hspecial <;> rfl
    · rw [blockLog_eq, foldl_joinLeading_none fun x hx => ?_]
      cases x with
      | none => rfl
      | some v => exact leadingBit_of_zero (hzero v (List.reduceOption_mem_iff.2 hx))
    · rw [blockLog_spec hlt hge, hemax]
      generalize (if t = 13 then (8 : Int) else 2) = c
      show ((if k - c + 127 < 0 then 0 else if 254 < k - c + 127 then 254 else (k - c + 127).toNat : Nat) : Int) = _
      split
      · omega
      · split <;> omega

theorem blockScale_lt (t : VTy) (l : List (Option FVal)) : blockScale t l < 256 := by
  unfold blockScale
  split
  · decide
  · split
    · decide
    · extract_lets x
      split
      · decide
      · split <;> omega

end Sys2Proof.Claims
end

section
/-!
PROOF. VCVT and the packing forms (R156, R157, R110, R158).
-/

namespace Sys2Proof.Claims
open Sys2Proof.Machine

/-! ## The stochastic generator (R110) -/

theorem srStates_eq (n : Nat) (x : BitVec 32) : srStates n x = (List.range n).map fun i => galois^[i + 1] x := by
  induction n generalizing x with
  | zero => rfl
  | succ n ih =>
    rw [srStates, ih, List.range_succ_eq_map, List.map_cons, List.map_map]
    rfl

theorem srStates_last {n : Nat} (x : BitVec 32) : ((srStates n x).getLast?).getD x = galois^[n] x := by
  rw [srStates_eq]
  cases n with
  | zero => rfl
  | succ n => simp [List.range_succ]

/-! ## Pieces of lists over a range -/

theorem take_drop_map_range {α : Type} {n a b : Nat} (h : a + b ≤ n) (f : Nat → α) :
    (((List.range n).map f).drop a).take b = (List.range b).map fun i => f (a + i) := by
  refine List.ext_getElem (by simp; omega) fun i _ _ => ?_
  simp

theorem zip_map_range {α β : Type} (n : Nat) (f : Nat → α) (g : Nat → β) :
    ((List.range n).map f).zip ((List.range n).map g) = (List.range n).map fun i => (f i, g i) :=
  List.zip_map' ..

/-- The bytes of a lane that is written from a list of bytes. -/
theorem elem_bytes {v : VReg} {i : Nat} {l : List Nat} (hl : l.length ≤ 4) (hlt : ∀ x ∈ l, x < 256)
    (h : v.lane i = BitVec.ofNat 32 (leNat (l.map fun z => BitVec.ofNat 8 z))) (j : Nat) : elem 8 v i j = (l[j]?).getD 0 := by
  have hsize : leNat (l.map fun z => BitVec.ofNat 8 z) < 2 ^ 32 := by
    refine leNat_lt.trans_le ?_
    rw [List.length_map, show 2 ^ 32 = 256 ^ 4 from rfl]
    exact Nat.pow_le_pow_right (by decide) hl
  have hhead (l : List Byte) : leNat l % 256 = ((l[0]?).getD 0).toNat := by
    cases l with
    | nil => rfl
    | cons x l => simpa [leNat] using x.isLt
  rw [elem, lane_eq, h, BitVec.toNat_ofNat, Nat.mod_eq_of_lt hsize, Nat.mul_comm, Nat.pow_mul, show 2 ^ 8 = 256 from rfl, ← leNat_drop,
    hhead, List.getElem?_drop, Nat.add_zero, List.getElem?_map]
  cases hj : l[j]? with
  | none => rfl
  | some z => simpa using hlt z (List.mem_of_getElem? hj)

/-! ## The elements of VCVT -/

section
variable (t u : BitVec 4) (x : VReg)

/-- Source element `k`: its value, or none where it is poison. -/
def cvtRead (k : Nat) : Option FVal := if cvtBad t u x k then none else some (cvtValue t u x k)

omit x t in
theorem isMx_eq : isMx u = isMX u := rfl

omit x u in
variable {t} in
theorem float_of_isMX (h : isMX t = true) : tyFloat t = true := by
  revert t; decide

theorem cvtSource_eq (hu : u.toNat < 15) (k : Nat) :
    cvtSource (VTy.of u) (isMx u) (cvtCount t u / (32 / tyWidth u)) x k = cvtRead t u x k := by
  have hscaled (v : FVal) (e : Int) : v.scaleBy e = scaled v e := by cases v <;> rfl
  have hlane : cvtCount t u / (32 / tyWidth u) + k / 32 / 4 = scaleLane t u k := rfl
  have hz : (x.lane (scaleLane t u k)).toNat / 2 ^ (8 * (k / 32 % 4)) % 256 = elem 8 x (scaleLane t u k) (k / 32 % 4) := by
    rw [elem, lane_eq, Nat.mul_comm]
    rfl
  rw [cvtSource, of_epl hu, of_read hu, cvtRead, cvtBad, cvtValue, isMx_eq]
  simp only [hlane, hz, ← badLane_eq, hscaled]
  cases badElem u x (k / (32 / tyWidth u)) (k % (32 / tyWidth u))
  · cases hmx : isMX u
    · simp [of_value hu]
    · cases badLane x (scaleLane t u k) <;> simp [of_value hu, float_of_isMX hmx]
  · simp

/-- An element under the scale of its block (R103). -/
def scaledElem (t : BitVec 4) (z : Nat) (mode : RMode) (v : FVal) : FRes :=
  if z = 255 then (if t = 13 then 0x7F else 0, if v = .inf false ∨ v = .inf true then flNV else 0)
  else (tyFormat t).ofVal mode (scaled v (127 - z))

/-- The scale of block `b`. -/
def cvtScale (b : Nat) : Nat := blockScale (VTy.of t) ((List.range 32).map fun i => cvtRead t u x (32 * b + i))

/-- The result of element `k`. -/
def cvtElem (mode : Nat → RMode) (k : Nat) : FRes :=
  if isMX t then scaledElem t (cvtScale t u x (k / 32)) (mode k) (cvtValue t u x k) else plainElem t u (mode k) (cvtValue t u x k)

theorem blockElems_eq (ht : t.toNat < 15) (hmx : isMX t = true) (z : Nat) (l : List (Option FVal × RMode)) :
    blockElems (VTy.of t) z l = l.map fun p => p.1.map (scaledElem t z p.2) := by
  have hf := float_of_isMX hmx
  have hnan : (tyFormat t).nanCode = if t = 13 then 0x7F else 0 := by revert t; decide
  rw [of_float ht hf]
  unfold blockElems
  refine List.map_congr_left fun p _ => ?_
  congr 1
  funext v
  rw [scaledElem, ← hnan]
  by_cases hz : z = 255
  · rw [if_pos hz, if_pos hz]
    cases v with
    | inf b => cases b <;> rfl
    | fin b m e => rfl
    | nan => rfl
    | poison => rfl
  · rw [if_neg hz, if_neg hz]
    cases v <;> rfl

theorem cvtElems_eq (ht : t.toNat < 15) (hu : u.toNat < 15) (mode : Nat → RMode) {n : Nat} (hn : n % 32 = 0) :
    cvtElems t u ((List.range n).map (cvtRead t u x)) ((List.range n).map mode) =
      ((List.range n).map fun k => if cvtBad t u x k then none else some (cvtElem t u x mode k),
        if isMX t then (List.range (n / 32)).map (cvtScale t u x) else []) := by
  have hmap (f : FVal → FRes) (k : Nat) : (cvtRead t u x k).map f = if cvtBad t u x k then none else some (f (cvtValue t u x k)) := by
    rw [cvtRead]; split <;> rfl
  have hblocks : ((List.range (n / 32)).map fun b => (((List.range n).map fun i => (cvtRead t u x i, mode i)).drop (32 * b)).take 32) =
      (List.range (n / 32)).map fun b => (List.range 32).map fun i => (cvtRead t u x (32 * b + i), mode (32 * b + i)) :=
    List.map_congr_left fun b hb => take_drop_map_range (by have := List.mem_range.1 hb; omega) _
  unfold cvtElems
  rw [zip_map_range, isMx_eq, List.length_map, List.length_range]
  extract_lets ty l blocks scales
  split
  next hmx =>
    have hb : blocks = _ := hblocks
    have hscales : scales = (List.range (n / 32)).map (cvtScale t u x) := by
      simp only [scales, hb, List.map_map]
      rfl
    simp only [hscales, hb]
    rw [zip_map_range, List.flatMap_map]
    simp only [ty, blockElems_eq t ht hmx, List.map_map, Function.comp_def]
    rw [flatMap_range, Nat.div_mul_cancel (Nat.dvd_of_mod_eq_zero hn)]
    refine Prod.ext (List.map_congr_left fun k _ => ?_) rfl
    simp only [Nat.div_add_mod, hmap, cvtElem, hmx, if_true]
  next hmx =>
    rw [List.map_map]
    refine Prod.ext (List.map_congr_left fun k _ => ?_) rfl
    simp only [Function.comp_apply, hmap, of_isFp hu, cvtElem, hmx, if_false, Bool.false_eq_true]
    rfl

theorem exists_cvtValue_int (hu : tyFloat u = false) (k : Nat) : ∃ c : Int, cvtValue t u x k = .fin (decide (c < 0)) c.natAbs 0 :=
  ⟨tyInt u (elem (tyWidth u) x (k / (32 / tyWidth u)) (k % (32 / tyWidth u))), by simp [cvtValue, hu]⟩

theorem cvtElem_lt (ht : t.toNat < 15) (mode : Nat → RMode) (k : Nat) : (cvtElem t u x mode k).1 < 2 ^ tyWidth t := by
  unfold cvtElem
  split
  next hmx =>
    have hf := float_of_isMX hmx
    rw [← format_width ht hf, scaledElem]
    split
    · exact (by decide : ∀ t : BitVec 4, isMX t = true → (if t = 13 then 0x7F else 0) < 2 ^ (tyFormat t).width) t hmx
    · exact format_ofVal_lt hf ..
  next hmx =>
    exact plainElem_lt ht fun hu => exists_cvtValue_int t u x hu k

end

/-- Lanes that a form writes behind its elements do not change the elements. -/
theorem Elements.of_more {t : BitVec 4} {act all : BitVec 64} {bad : Nat → Nat → Bool} {g : Nat → Nat → FRes} {f : Nat → LaneRes}
    (h : Elements t act bad g (buildVec act f).1 (buildVec act f).2) (hsub : ∀ i < 64, act.getLsbD i = true → all.getLsbD i = true)
    (hflags : ∀ i < 64, act.getLsbD i = false → (f i).flags = 0) : Elements t act bad g (buildVec all f).1 (buildVec all f).2 := by
  obtain ⟨-, helem, hfl⟩ := h
  refine ⟨buildVec_spec .., fun i hi hact => ?_, fun b hb => ?_⟩
  · have h := helem i hi hact
    simpa only [elem, lane_eq, buildVec_lane _ _ hi, buildVec_side _ _ hi, hact, hsub i hi hact] using h
  · rw [← hfl b hb, buildVec_flags, buildVec_flags]
    refine exists_congr fun i => and_congr_right fun hi => ?_
    cases hact : act.getLsbD i
    · simp [hflags i hi hact]
    · simp [hsub i hi hact]

/-! ## VCVT -/

/-- The rounding mode of each element (R104, R106, R110). -/
def cvtMode (s : State) (m : BitVec 3) (k : Nat) : RMode :=
  if m = 4 then .rs ((galois^[k + 1] s.ctx.csr.srstate).toNat % 65536) else rmode (m.setWidth 2)

/-- The state with the generator stepped once for each element (R110). -/
def cvtState (s : State) (m : BitVec 3) (n : Nat) : State :=
  if m = 4 then s.onCtx fun c => { c with csr := { c.csr with srstate := galois^[n] s.ctx.csr.srstate } } else s

/-- The scales behind the elements. -/
def cvtScales (t u : BitVec 4) (x : VReg) : List Nat := if isMX t then (List.range (cvtCount t u / 32)).map (cvtScale t u x) else []

/-- A lane that VCVT writes: elements, then scales. -/
def cvtLane (t u : BitVec 4) (x : VReg) (mode : Nat → RMode) (i : Nat) : LaneRes :=
  let e := 32 / tyWidth t
  let used := cvtCount t u / e
  if i < used then
    (VTy.of t).result ((List.range e).map fun j => if cvtBad t u x (i * e + j) then none else some (cvtElem t u x mode (i * e + j)))
  else LaneRes.of (BitVec.ofNat 32 (leNat ((((cvtScales t u x).drop (4 * (i - used))).take 4).map fun z => BitVec.ofNat 8 z)))

theorem cvtModes_eq (s : State) (m : BitVec 3) (n : Nat) :
    (if m = 4 then (srStates n s.ctx.csr.srstate).map fun y => RMode.rs (y.toNat % 65536)
      else List.replicate n (rmode (m.setWidth 2))) = (List.range n).map (cvtMode s m) := by
  unfold cvtMode
  split
  · rw [srStates_eq, List.map_map]
    rfl
  · simp

section
variable {t u : BitVec 4} (ht : t.toNat < 15) (hu : u.toNat < 15)
include ht hu

theorem execVcvt_eq (d a : Reg) (m : BitVec 3) (s : State) : let n := cvtCount t u
    execVcvt d a t u m s = s.taskOnly (s.needsLanes
      [s.vsrc a (laneMask fun i => i < n / (32 / tyWidth u) + if isMX u then (n / 32 + 3) / 4 else 0)]
      ((cvtState s m n).vecOut 3 d (BitVec.allOnes 64) [] (cvtLane t u (s.ctx.vec.read a) (cvtMode s m)))) := by
  intro n
  have hcount : 64 * Nat.min (32 / tyWidth u) (32 / tyWidth t) = n := rfl
  have hsource : (List.range n).map (fun i => cvtSource (VTy.of u) (isMX u) (n / (32 / tyWidth u)) (s.ctx.vec.read a) i) =
      (List.range n).map (cvtRead t u (s.ctx.vec.read a)) := List.map_congr_left fun i _ => cvtSource_eq t u _ hu i
  have hblocks : n % 32 = 0 := by
    rw [← hcount]
    omega
  have hval (need : BitVec 64) : (s.vsrc a need).val = s.ctx.vec.read a := rfl
  unfold execVcvt
  simp only [of_epl ht, of_epl hu, hcount, isMx_eq, srStates_last, cvtModes_eq, hval, hsource, cvtElems_eq t u _ ht hu _ hblocks]
  refine congrArg (fun f => s.taskOnly (s.needsLanes _ ((cvtState s m n).vecOut 3 d (BitVec.allOnes 64) [] f))) (funext fun i => ?_)
  unfold cvtLane
  extract_lets e used
  split
  next hi =>
    have hle : i * e + e ≤ n := calc
      i * e + e = (i + 1) * e := (Nat.succ_mul ..).symm
      _ ≤ n / e * e := Nat.mul_le_mul_right _ hi
      _ ≤ n := Nat.div_mul_le_self ..
    rw [take_drop_map_range hle]
  next => rfl

end

/-- The lanes that hold elements. -/
def usedLanes (n : Nat) : BitVec 64 := BitVec.ofNat 64 (2 ^ n - 1)

theorem getLsbD_usedLanes (n i : Nat) : (usedLanes n).getLsbD i = (decide (i < 64) && decide (i < n)) := by
  simp [usedLanes, BitVec.getLsbD_ofNat]

section
variable {t u : BitVec 4} (ht : t.toNat < 15) (x : VReg) (mode : Nat → RMode)

theorem cvtLane_scales {i : Nat} (hi : cvtCount t u / (32 / tyWidth t) ≤ i) : (cvtLane t u x mode i).side = false ∧
    (cvtLane t u x mode i).flags = 0 := by
  rw [cvtLane, if_neg (not_lt.2 hi)]
  exact ⟨rfl, rfl⟩

include ht

/-- The elements that VCVT writes. -/
theorem elements_cvtLane : Elements t (usedLanes (cvtCount t u / (32 / tyWidth t)))
    (fun i j => cvtBad t u x (i * (32 / tyWidth t) + j)) (fun i j => cvtElem t u x mode (i * (32 / tyWidth t) + j))
    (buildVec (BitVec.allOnes 64) (cvtLane t u x mode)).1 (buildVec (BitVec.allOnes 64) (cvtLane t u x mode)).2 := by
  refine Elements.of_more (elements_buildVec ht (fun i _ j _ _ _ => cvtElem_lt _ _ _ ht ..) fun i hi hact => ?_) (fun i hi _ => allOnes_getLsbD hi)
    fun i hi hact => ?_ <;> rw [getLsbD_usedLanes, decide_eq_true hi, Bool.true_and] at hact
  · rw [cvtLane, if_pos (of_decide_eq_true hact)]
  · exact (cvtLane_scales x mode (not_lt.1 (of_decide_eq_false hact))).2

omit ht

/-- The bytes behind the elements. -/
theorem scales_cvtLane {i : Nat} (hi : i < 64) (hused : cvtCount t u / (32 / tyWidth t) ≤ i) (j : Nat) (hj : j < 4) :
    let k := 4 * (i - cvtCount t u / (32 / tyWidth t)) + j
    elem 8 (buildVec (BitVec.allOnes 64) (cvtLane t u x mode)).1 i j =
      if isMX t = true ∧ k < cvtCount t u / 32 then cvtScale t u x k else 0 := by
  intro k
  have hlt : ∀ z ∈ cvtScales t u x, z < 256 := by
    unfold cvtScales
    split
    · simp only [List.mem_map, List.mem_range]
      rintro - ⟨b, -, rfl⟩
      exact blockScale_lt ..
    · simp
  rw [elem_bytes (l := ((cvtScales t u x).drop (4 * (i - cvtCount t u / (32 / tyWidth t)))).take 4) (by simp)
    (fun z hz => hlt z (List.mem_of_mem_drop (List.mem_of_mem_take hz))) ?_, List.getElem?_take_of_lt hj, List.getElem?_drop]
  · show ((cvtScales t u x)[k]?).getD 0 = _
    unfold cvtScales
    by_cases hmx : isMX t = true
    · by_cases hk : k < cvtCount t u / 32 <;> simp [hmx, hk]
    · simp [hmx]
  · rw [buildVec_lane _ _ hi, if_pos (allOnes_getLsbD hi), cvtLane, if_neg (not_lt.2 hused)]
    rfl

end

/-- What VCVT makes of an element (R156, R157, R103). -/
theorem cvtElem_spec {t u : BitVec 4} (ht : t.toNat < 15) (x : VReg) {mode : Nat → RMode} {k : Nat}
    (hmode : (∃ r, mode k = rmode r) ∨ ∃ n, mode k = .rs n) :
    let y := cvtValue t u x k
    let g := cvtElem t u x mode k
    let z := cvtScale t u x (k / 32)
    (isMX t = false → tyFloat t = true → FromValue t (mode k) y g) ∧
    (tyFloat t = false → tyFloat u = true → ToElement t (mode k) y g) ∧
    (tyFloat t = false → tyFloat u = false → ∀ q : Int, number y = some (q : ℚ) → IntResult t True q g) ∧
    (isMX t = true → if z = 255 then g = (if t = 13 then 0x7F else 0, if y = .inf false ∨ y = .inf true then flNV else 0)
      else FromValue t (mode k) (scaled y (127 - z)) g) := by
  intro y g z
  have hplain (hmx : isMX t = false) : g = plainElem t u (mode k) y := if_neg (by simp [hmx])
  have hint (hf : tyFloat t = false) : isMX t = false := by
    cases hmx : isMX t
    · rfl
    · rw [float_of_isMX hmx] at hf; cases hf
  refine ⟨fun hmx hf => ?_, fun hf hu => ?_, fun hf hu q hq => ?_, fun hmx => ?_⟩
  · rw [hplain hmx, plainElem_float ht hf]
    exact fromValue_ofVal ht hf ..
  · rw [hplain (hint hf), plainElem_ofFloat ht hf hu]
    exact toElement_intElem hmode y
  · rw [hplain (hint hf)]
    obtain ⟨c, hy⟩ : ∃ c : Int, y = .fin (decide (c < 0)) c.natAbs 0 := exists_cvtValue_int t u x hu k
    rw [hy] at hq ⊢
    have hcast := Option.some.inj hq
    rw [rat_eq_signed, signed_natAbs, zpow_zero, mul_one, Int.cast_inj] at hcast
    rw [plainElem_ofInt ht hf hu, hcast]
    exact intResult_spec t True q
  · have hg : g = scaledElem t z (mode k) y := if_pos hmx
    rw [hg, scaledElem]
    split
    · rfl
    · exact fromValue_ofVal ht (float_of_isMX hmx) ..

/-- The scale of a block is R103's for its values that are not poison. -/
theorem cvtScale_spec {t : BitVec 4} (hmx : isMX t = true) (u : BitVec 4) (x : VReg) (b : Nat) :
    BlockScale t (((List.range 32).filter fun i => !cvtBad t u x (32 * b + i)).map fun i => cvtValue t u x (32 * b + i))
      (cvtScale t u x b) := by
  have hvals (l : List Nat) : (l.filter fun i => !cvtBad t u x (32 * b + i)).map (fun i => cvtValue t u x (32 * b + i)) =
      (l.map fun i => cvtRead t u x (32 * b + i)).reduceOption := by
    induction l with
    | nil => rfl
    | cons i l ih =>
      rw [List.map_cons, cvtRead]
      cases hb : cvtBad t u x (32 * b + i) <;> simp [hb, ih]
  rw [hvals]
  exact blockScale_spec hmx _

/-- VCVT (R156, R157, R103, R110). -/
theorem vcvt_commits {s : State} {d a : Reg} {t u : BitVec 4} {m : BitVec 3} (hin : s.ctx.inHandler = false) (ht : t.toNat < 15)
    (hu : u.toNat < 15) (hx : (s.ctx.vec.read a).spec = true → ∀ i < cvtCount t u / (32 / tyWidth u) +
      (if isMX u then (cvtCount t u / 32 + 3) / 4 else 0), (s.ctx.vec.read a).side.getLsbD i = false) :
    let r := buildVec (BitVec.allOnes 64) (cvtLane t u (s.ctx.vec.read a) (cvtMode s m))
    exec (.vcvt d a t u m) s = .next (commitsC (cvtState s m (cvtCount t u)) 3 d r.1 (BitVec.allOnes 64) r.2) := by
  show execVcvt d a t u m s = _
  rw [execVcvt_eq ht hu, State.taskOnly_task hin, needsLanes_go, vecOut_commits _ (by simp)]
  simp only [List.mem_singleton, forall_eq]
  refine undeferred_of_lanes fun i _ hi hs => hx hs i ?_
  have hmask := (getLsbD_laneMask _ i).symm.trans hi
  rw [Bool.and_eq_true] at hmask
  exact of_decide_eq_true hmask.2

theorem cvtMode_cases (s : State) (m : BitVec 3) (k : Nat) : (∃ r, cvtMode s m k = rmode r) ∨ ∃ n, cvtMode s m k = .rs n := by
  unfold cvtMode
  split
  · exact .inr ⟨_, rfl⟩
  · exact .inl ⟨_, rfl⟩

/-! ## Packing (R158) -/

theorem getLsbD_foldl_shifts (l : List Nat) (a : BitVec 64) {b : Nat} (hb : b < 64) :
    (l.foldl (fun m p => m ||| (1#64 <<< p)) a).getLsbD b = (a.getLsbD b || decide (b ∈ l)) := by
  induction l generalizing a with
  | nil => simp
  | cons p l ih =>
    rw [List.foldl_cons, ih, BitVec.getLsbD_or, Bool.or_assoc]
    congr 1
    obtain rfl | hp := eq_or_ne b p
    · simp [hb]
    · obtain hlt | hle := Nat.lt_or_ge b p
      · simp [hp, hlt]
      · simp [hp, show b - p ≠ 0 by omega]

/-- An element narrowed or widened (R158). -/
theorem packed_spec {t u : BitVec 4} (ht : t.toNat < 9) (hu : u.toNat < 15) (hkind : tyFloat u = tyFloat t) (c : Nat) :
    let r := (VTy.of t).ofVal (!(VTy.of u).isFp) .rn ((VTy.of u).value c)
    r.1 < 2 ^ tyWidth t ∧ if t.toNat < 6 then IntResult t True (tyInt u c) r else FromValue t .rn ((tyFormat u).unpack c) r := by
  have h15 : t.toNat < 15 := by omega
  have hr : (VTy.of t).ofVal (!(VTy.of u).isFp) .rn ((VTy.of u).value c) = plainElem t u .rn ((VTy.of u).value c) := by
    rw [of_isFp hu]; rfl
  intro r
  by_cases h6 : t.toNat < 6
  · have hf := tyFloat_of_lt h6
    have hspec : IntResult t True (tyInt u c) r := by
      rw [show r = _ from hr, of_value hu, hkind, hf]
      simp only [Bool.false_eq_true, if_false]
      rw [plainElem_ofInt h15 hf (hkind.trans hf)]
      exact intResult_spec t True _
    rw [if_pos h6]
    exact ⟨hspec.1, hspec⟩
  · have hf : tyFloat t = true := by clear r hr hkind; revert t; decide
    rw [if_neg h6, show r = _ from hr, plainElem_float h15 hf, of_value hu, hkind, hf, if_pos rfl, ← format_width h15 hf]
    exact ⟨format_ofVal_lt hf .., fromValue_ofVal h15 hf ..⟩

/-- The lanes of source `q` that a packing form reads. -/
def packNeed (act : BitVec 64) (e eu : Nat) (ix : Nat → Nat × Nat) (q : Nat) : BitVec 64 :=
  (((List.range 64).flatMap fun i => if act.getLsbD i then (List.range e).map fun j => ix (i * e + j) else []).filter
    fun p => p.1 = q).foldl (fun m p => m ||| (1#64 <<< (p.2 / eu))) 0

theorem exists_of_packNeed {act : BitVec 64} {e eu : Nat} {ix : Nat → Nat × Nat} {q l : Nat} (hl : l < 64)
    (h : (packNeed act e eu ix q).getLsbD l = true) :
    ∃ i < 64, act.getLsbD i = true ∧ ∃ j < e, (ix (i * e + j)).1 = q ∧ (ix (i * e + j)).2 / eu = l := by
  rw [packNeed, ← List.foldl_map (f := fun p : Nat × Nat => p.2 / eu) (g := fun m l => m ||| (1#64 <<< l)), getLsbD_foldl_shifts _ _ hl] at h
  obtain ⟨n, ⟨i, hi, hact, j, hj, hix⟩, rfl⟩ : ∃ n, (∃ i < 64, act.getLsbD i = true ∧ ∃ j < e, ix (i * e + j) = (q, n)) ∧ n / eu = l := by
    simpa using h
  exact ⟨i, hi, hact, j, hj, by rw [hix], by rw [hix]⟩

/-- The sources of a packing form with the lanes that it reads. -/
def packSources (s : State) (rs : List Reg) (act : BitVec 64) (e eu : Nat) (ix : Nat → Nat × Nat) : List VSrc :=
  rs.zipIdx.map fun p => s.vsrc p.1 (packNeed act e eu ix p.2)

section
variable {t u : BitVec 4} {rs : List Reg} {ix : Nat → Nat × Nat} {reg : Nat → Reg} (hrs : ∀ n, rs[(ix n).1]? = some (reg n))
include hrs

theorem packSources_go {s : State} {act : BitVec 64} {e eu : Nat} (hx : ∀ i < 64, act.getLsbD i = true → ∀ j < e,
    (s.ctx.vec.read (reg (i * e + j))).spec = true → (s.ctx.vec.read (reg (i * e + j))).side.getLsbD ((ix (i * e + j)).2 / eu) = false) :
    ∀ y ∈ packSources s rs act e eu ix, Undeferred y.val y.need := by
  simp only [packSources, List.mem_map]
  rintro y ⟨⟨r, q⟩, hp, rfl⟩
  refine undeferred_of_lanes fun l hl hbit hs => ?_
  obtain ⟨i, hi, hact, j, hj, rfl, rfl⟩ := exists_of_packNeed hl hbit
  obtain rfl : reg (i * e + j) = r := Option.some.inj ((hrs _).symm.trans (List.mem_zipIdx_iff_getElem?.1 hp))
  exact hx i hi hact j hj hs

theorem vpackForm_eq (ht : t.toNat < 15) (hu : u.toNat < 15) (s : State) (d : Reg) (k : BitVec 3) :
    let act := s.ctx.vec.active k
    let e := 32 / tyWidth t
    let eu := 32 / tyWidth u
    s.vpackForm d k t (VTy.of u) rs ix = s.vecOut 3 d act (packSources s rs act e eu ix) fun i =>
      (VTy.of t).result ((List.range e).map fun j =>
        let x := s.ctx.vec.read (reg (i * e + j))
        let n := (ix (i * e + j)).2
        if badElem u x (n / eu) (n % eu) then none
        else some ((VTy.of t).ofVal (!(VTy.of u).isFp) .rn ((VTy.of u).value (elem (tyWidth u) x (n / eu) (n % eu))))) := by
  intro act e eu
  have hsrc (n : Nat) : (packSources s rs act e eu ix)[(ix n).1]? = some (s.vsrc (reg n) (packNeed act e eu ix (ix n).1)) := by
    simp [packSources, List.getElem?_zipIdx, hrs]
  unfold State.vpackForm
  simp only [of_epl ht, of_epl hu]
  refine congrArg (s.vecOut 3 d act (packSources s rs act e eu ix)) (funext fun i => congrArg _ (List.map_congr_left fun j _ => ?_))
  have h := hsrc (i * e + j)
  unfold packSources packNeed at h
  rw [h]
  dsimp only
  rw [of_read hu]
  exact apply_ite (Option.map _) ..

end

/-- A packing form of the model is the one of R158. -/
theorem packs_of {mk : Reg → Reg → Reg → BitVec 3 → BitVec 4 → Instr} {t u : BitVec 4} {pick : Nat → Bool × Nat} {up : Bool}
    {rs : Reg → Reg → List Reg} {ix : Nat → Nat × Nat} (ht : t.toNat < 9) (hu : u.toNat < 15) (hkind : tyFloat u = tyFloat t)
    (hsource : packSource t up = VTy.of u) (hrs : ∀ a b n, (rs a b)[(ix n).1]? = some (if (pick n).1 then b else a))
    (hix : ∀ n, (ix n).2 = (pick n).2)
    (he : ∀ d a b k s, exec (mk d a b k t) s = s.taskOnly (s.vpackForm d k t (packSource t up) (rs a b) ix)) : Packs mk t u pick := by
  intro s d a b k hin act e eu src at_ bad hx
  have h15 : t.toNat < 15 := by omega
  rw [he, State.taskOnly_task hin, hsource, vpackForm_eq (hrs a b) h15 hu, vecOut_commits _ (packSources_go (hrs a b) (by simpa only [hix] using hx))]
  refine ⟨_, _, fun i j => (VTy.of t).ofVal (!(VTy.of u).isFp) .rn ((VTy.of u).value (elem (tyWidth u) (src i j) (at_ i j / eu) (at_ i j % eu))),
    rfl, elements_buildVec h15 (fun i _ j _ _ _ => (packed_spec ht hu hkind _).1) fun i _ _ => ?_,
    fun i _ j _ _ _ => (packed_spec ht hu hkind _).2⟩
  simp only [hix]
  rfl

/-- Settles O27: VCVT element by element with the scales of its blocks, and the packing forms. -/
theorem vectorConversions : Obligations.VectorConversions := by
  refine ⟨fun s d a t u m hin ht hu hm => ?_, fun t ht => ?_, fun t ht => ?_⟩
  · intro x n e eu mode s' hx
    refine ⟨_, _, fun i j => cvtElem t u x (cvtMode s m) (i * e + j), cvtScale t u x, vcvt_commits hin ht hu hx,
      elements_cvtLane ht x (cvtMode s m), fun i _ j _ _ => ?_, fun hmx b _ => cvtScale_spec hmx u x b, fun i hi hused => ⟨?_, fun j hj => ?_⟩⟩
    · exact cvtElem_spec ht x (cvtMode_cases s m _)
    · rw [buildVec_side _ _ hi, (cvtLane_scales x _ hused).1, Bool.and_false]
    · exact scales_cvtLane x _ hi hused j hj
  · intro half
    refine packs_of (up := false) (rs := fun a b => [a, b]) (ix := fun n => if n < half then (0, n) else (1, n - half)) ?_ ?_ ?_ ?_
      (fun a b n => ?_) (fun n => ?_) fun d a b k s => ?_
    · revert t; decide
    · revert t; decide
    · revert t; decide
    · revert t; decide
    · split <;> rfl
    · split <;> rfl
    · have hhalf : 64 * (VTy.of t).epl / 2 = half := by
        rw [of_epl (by revert t; decide)]
        omega
      show s.taskOnly (s.vpackForm _ _ _ _ _ _) = _
      rw [hhalf]
  · have h9 : t.toNat < 9 := by revert t; decide
    have hu : (if t.toNat < 4 then t + 2 else 7).toNat < 15 := by revert t; decide
    have hkind : tyFloat (if t.toNat < 4 then t + 2 else 7) = tyFloat t := by revert t; decide
    have hsource : packSource t true = VTy.of (if t.toNat < 4 then t + 2 else 7) := by revert t; decide
    have hepl : (VTy.of t).epl = 32 / tyWidth t := of_epl (by omega)
    refine ⟨packs_of (up := true) (rs := fun a _ => [a]) (ix := fun n => (0, n)) h9 hu hkind hsource (fun _ _ _ => rfl) (fun _ => rfl)
      fun _ _ _ _ _ => rfl, packs_of (up := true) (rs := fun a _ => [a]) (ix := fun n => (0, n + 64 * (32 / tyWidth t))) h9 hu hkind hsource
      (fun _ _ _ => rfl) (fun _ => rfl) fun d a b k s => ?_⟩
    show s.taskOnly (s.vpackForm _ _ _ _ _ _) = _
    rw [hepl]

end Sys2Proof.Claims
end

section
/-!
PROOF. VLDS and VLDSP (R164, R166): reads of the scratchpad without a report, the lanes that they load, the addresses and the checks of 64
words.
-/

namespace Sys2Proof.Claims
open Sys2Proof.Machine

/-! ## Reads without a report -/

/-- Bytes over a range spell a number. -/
theorem leNat_map_range (n : Nat) (f : Nat → Byte) : leNat ((List.range n).map f) = spelled n f := by
  have hlt : leNat ((List.range n).map f) < 256 ^ n := by simpa using leNat_lt (l := (List.range n).map f)
  rw [← Nat.mod_eq_of_lt hlt, ← spelled_getD]
  refine Finset.sum_congr rfl fun i hi => ?_
  have h := getD_map_range n f 0 (Finset.mem_range.1 hi)
  rw [← List.getD_eq_getElem?_getD] at h
  simp only [h]

theorem spelled_lt (n : Nat) (f : Nat → Byte) : spelled n f < 256 ^ n := by
  rw [← leNat_map_range]
  simpa using leNat_lt (l := (List.range n).map f)

/-- A scratchpad without an uncorrected error is read without a report. -/
theorem readSpad_quiet {s : State} {c : CoreNum} (h : (s.core c).spadErr = []) (a n : Nat) :
    s.readSpad c a n = (readBytes (s.core c).spad a n, (s.core c).spadBad a n, s) := by
  simp [State.readSpad, h]

/-- 64 words of a scratchpad as lanes (R166). -/
def loadedReg (k : Core) (a : Nat) : VReg :=
  let bad := laneMask fun i => k.spadBad (a + 4 * i) 4
  ⟨Vector.ofFn fun i => if bad.getLsbD i.val then 0 else (lanesOf (readBytes k.spad a 256))[i], bad, false⟩

theorem readLanes_quiet {s : State} (h : (s.core s.cur).spadErr = []) (a : Nat) :
    s.readLanes a = (loadedReg (s.core s.cur) a, s) := by
  unfold State.readLanes
  rw [readSpad_quiet h]
  rfl

theorem lanesOf_lane (k : Core) (a : Nat) {i : Nat} (hi : i < 64) :
    ((lanesOf (readBytes k.spad a 256))[(⟨i, hi⟩ : Fin 64)]).toNat = spelled 4 fun j => smGet 0 (a + 4 * i + j) k.spad := by
  have hlane : leNat (((readBytes k.spad a 256).drop (4 * i)).take 4) = spelled 4 fun j => smGet 0 (a + 4 * i + j) k.spad := by
    rw [readBytes, take_drop_map_range (by omega), leNat_map_range]
    simp only [Nat.add_assoc]
  have hlt := spelled_lt 4 fun j => smGet 0 (a + 4 * i + j) k.spad
  rw [lanesOf, Fin.getElem_fin, Vector.getElem_ofFn, hlane, BitVec.toNat_ofNat]
  exact Nat.mod_eq_of_lt hlt

theorem loadedLanes_loadedReg (s : State) (a : Nat) (act : BitVec 64) : LoadedLanes s a act (loadedReg (s.core s.cur) a) := by
  intro i hi _
  have hbad : (loadedReg (s.core s.cur) a).side.getLsbD i = (s.core s.cur).spadBad (a + 4 * i) 4 := by
    rw [loadedReg, getLsbD_laneMask, decide_eq_true hi, Bool.true_and]
  refine ⟨hbad, ?_⟩
  rw [← hbad, lane_eq, loadedReg, VReg.lane_ofFn _ _ _ hi, apply_ite BitVec.toNat, lanesOf_lane]
  rfl

/-! ## Addresses (R61, R166) -/

theorem immS_toInt (s : State) (i : BitVec 16) : (s.thr.immS .c i).toInt = immediateC s i := by
  have hwide (x : BitVec 8) : ((x ++ i).signExtend 64).toInt = (x ++ i).toInt := BitVec.toInt_signExtend_of_le (by decide)
  have hplain : (i.signExtend 64).toInt = i.toInt := BitVec.toInt_signExtend_of_le (by decide)
  unfold Thread.immS Thread.lent immediateC
  cases s.thr.issue with
  | none => exact hplain
  | some j =>
    dsimp only
    cases isHdrX j.wa
    · exact hplain
    · exact hwide _

theorem vldsAddr_eq (s : State) (t : TVal) (i : BitVec 16) : s.vldsAddr t i = loadAddress s t i := by
  rw [State.vldsAddr, laneAddr, loadAddress, ← immS_toInt, BitVec.toInt_eq_toNat_cond, BitVec.toNat_shiftLeft, Nat.shiftLeft_eq]
  split <;> omega

theorem loadAddress_lt (s : State) (t : TVal) (i : BitVec 16) : loadAddress s t i < 2 ^ 32 := by
  unfold loadAddress
  omega

/-! ## Checks (R164) -/

section
variable {s : State} {l : List Nat}

/-- Words that are whole and within the declared scratchpad let a form go on. -/
theorem checkWords_go (h : ∀ a ∈ l, a % 4 = 0 ∧ a + 4 ≤ s.ctx.kern.spad) (k : SlotOut) : s.checkWords l k = k := by
  have halign : l.find? (fun a => a % 4 ≠ 0) = none := List.find?_eq_none.2 fun a ha => by simpa using (h a ha).1
  have hrange : l.find? (fun a => s.ctx.kern.spad < a + 4) = none := List.find?_eq_none.2 fun a ha => by simpa using (h a ha).2
  simp only [State.checkWords, halign, hrange]

theorem wordsFail_eq_false (h : ∀ a ∈ l, a % 4 = 0 ∧ a + 4 ≤ s.ctx.kern.spad) : s.wordsFail l = false := by
  rw [State.wordsFail, List.any_eq_false]
  intro a ha
  obtain ⟨halign, hrange⟩ := h a ha
  simp [halign, hrange]

theorem mem_wordsAt {p a : Nat} : a ∈ wordsAt p ↔ ∃ i < 64, (p + 4 * i) % 2 ^ 32 = a := by simp [wordsAt]

/-- The first of 64 words that breaks a check is named (R164). -/
theorem checkWords_first {p : Nat} (hp : p < 2 ^ 32) (h : p % 4 ≠ 0 ∨ s.ctx.kern.spad < p + 4) (k : SlotOut) :
    s.checkWords (wordsAt p) k = .trap s (if p % 4 ≠ 0 then 0x07 else 0x08) (BitVec.ofNat 64 p) := by
  have hcons : wordsAt p = p :: (wordsAt p).tail := by
    rw [wordsAt, List.range_succ_eq_map, List.map_cons, List.tail_cons, Nat.mul_zero, Nat.add_zero, Nat.mod_eq_of_lt hp]
  rw [State.checkWords]
  by_cases halign : p % 4 = 0
  · have hnone : (wordsAt p).find? (fun a => a % 4 ≠ 0) = none := List.find?_eq_none.2 fun a ha => by
      obtain ⟨i, -, rfl⟩ := mem_wordsAt.1 ha
      simp
      omega
    have hrange : s.ctx.kern.spad < p + 4 := h.resolve_left (not_not.2 halign)
    have hsome : (wordsAt p).find? (fun a => s.ctx.kern.spad < a + 4) = some p := by rw [hcons]; simp [hrange]
    simp only [hnone, hsome, halign, ne_eq, not_true_eq_false, if_false]
  · have hsome : (wordsAt p).find? (fun a => a % 4 ≠ 0) = some p := by rw [hcons]; simp [halign]
    simp only [hsome, ne_eq, halign, not_false_eq_true, if_true]

theorem wordsFail_first {p : Nat} (hp : p < 2 ^ 32) (h : p % 4 ≠ 0 ∨ s.ctx.kern.spad < p + 4) : s.wordsFail (wordsAt p) = true := by
  rw [State.wordsFail, List.any_eq_true]
  exact ⟨p, mem_wordsAt.2 ⟨0, by decide, Nat.mod_eq_of_lt hp⟩, by simpa using h⟩

theorem inOrder_go (h : Free s 0) (k : SlotOut) : s.inOrder 0 none k = k := by
  rw [State.inOrder, if_neg (by rw [show s.ctx.kept 0 none = false from h]; exact Bool.false_ne_true)]

end

/-! ## The forms -/

theorem deferred_eq_blank : { VReg.allBad with spec := true } = blank true := rfl

section
variable {s : State} {d a : Reg} {i : BitVec 16} {t : TVal} (hin : s.ctx.inHandler = false) (ht : ScalarC s a false t)
include hin ht

/-- 64 words that fit are loaded (R166). -/
theorem loads_of_fit (htag : t.tag = 0) (halign : loadAddress s t i % 4 = 0) (hrange : loadAddress s t i + 256 ≤ s.ctx.kern.spad)
    (hend : loadAddress s t i + 256 ≤ 2 ^ 32) (hfree : Free s 0) {s1 : State} (htouch : s.touch (loadAddress s t i) 256 = (.ok (), s1))
    (herr : (s1.core s1.cur).spadErr = []) : let v := loadedReg (s1.core s1.cur) (loadAddress s t i)
    exec (.vlds d a i) s = .next (commitsC s1 5 d v (BitVec.allOnes 64)) ∧
      exec (.vldsp d a i) s = .next (commitsC s1 5 d { v with spec := true } (BitVec.allOnes 64)) := by
  have hfit : ∀ w ∈ wordsAt (loadAddress s t i), w % 4 = 0 ∧ w + 4 ≤ s.ctx.kern.spad := by
    intro w hw
    obtain ⟨k, hk, rfl⟩ := mem_wordsAt.1 hw
    omega
  have hpoison : t.poison = false := by simp [TVal.poison, htag]
  have hdeferred : t.deferred = false := by simp [TVal.deferred, htag]
  constructor
  · show execVlds d a i s = _
    rw [execVlds, State.taskOnly_task hin, needsScalar_go ht (by simp [htag]), hpoison, if_neg Bool.false_ne_true, vldsAddr_eq,
      checkWords_go hfit, inOrder_go hfree, htouch]
    dsimp only
    rw [readLanes_quiet herr]
    exact putC_commits ..
  · show execVldsp d a i s = _
    rw [execVldsp, State.taskOnly_task hin, scalar_eq ht, hpoison, if_neg Bool.false_ne_true, vldsAddr_eq, wordsFail_eq_false hfit, hdeferred,
      if_neg (by simp), inOrder_go hfree, htouch]
    dsimp only
    rw [readLanes_quiet herr]
    exact putC_commits ..

/-- A check that fails traps VLDS, and makes VLDSP's lanes deferred (R164, R166). -/
theorem loads_of_not_fit (htag : t.tag = 0) (h : loadAddress s t i % 4 ≠ 0 ∨ s.ctx.kern.spad < loadAddress s t i + 4) :
    exec (.vldsp d a i) s = .next (commitsC s 5 d (blank true) (BitVec.allOnes 64)) ∧
      exec (.vlds d a i) s = .next (traps s (if loadAddress s t i % 4 ≠ 0 then 0x07 else 0x08) (BitVec.ofNat 64 (loadAddress s t i))) := by
  have hpoison : t.poison = false := by simp [TVal.poison, htag]
  have hlt := loadAddress_lt s t i
  constructor
  · show execVldsp d a i s = _
    rw [execVldsp, State.taskOnly_task hin, scalar_eq ht, hpoison, if_neg Bool.false_ne_true, vldsAddr_eq, wordsFail_first hlt h,
      Bool.or_true, if_pos rfl, deferred_eq_blank, putC_commits]
  · show execVlds d a i s = _
    rw [execVlds, State.taskOnly_task hin, needsScalar_go ht (by simp [htag]), hpoison, if_neg Bool.false_ne_true, vldsAddr_eq,
      checkWords_first hlt h]
    rfl

/-- A deferred address makes VLDSP's lanes deferred (R166). -/
theorem vldsp_of_deferred (htag : t.tag = 1) :
    exec (.vldsp d a i) s = .next (commitsC s 5 d (blank true) (BitVec.allOnes 64)) := by
  have hpoison : t.poison = false := by simp [TVal.poison, htag]
  have hdeferred : t.deferred = true := by simp [TVal.deferred, htag]
  show execVldsp d a i s = _
  rw [execVldsp, State.taskOnly_task hin, scalar_eq ht, hpoison, if_neg Bool.false_ne_true, hdeferred, Bool.true_or, if_pos rfl,
    deferred_eq_blank, putC_commits]

/-- A poison address makes the lanes poison (R166, R190). -/
theorem loads_of_bad (h : bad t = true) :
    exec (.vlds d a i) s = .next (commitsC s 5 d (blank false) (BitVec.allOnes 64)) ∧
      exec (.vldsp d a i) s = .next (commitsC s 5 d (blank false) (BitVec.allOnes 64)) := by
  have hpoison : t.poison = true := h
  have htag : t.tag ≠ 1 := by
    intro h1
    simp [TVal.poison, h1] at hpoison
  constructor
  · show execVlds d a i s = _
    rw [execVlds, State.taskOnly_task hin, needsScalar_go ht htag, hpoison, if_pos rfl, putC_commits]
    rfl
  · show execVldsp d a i s = _
    rw [execVldsp, State.taskOnly_task hin, scalar_eq ht, hpoison, if_pos rfl, putC_commits]
    rfl

end

end Sys2Proof.Claims
end

section
/-!
PROOF. Stores of words to the core's own scratchpad (R167, R168, R191, R210): one write within a block, the words of a block, and the words
of many blocks.
-/

namespace Sys2Proof.Claims
open Sys2Proof.Machine

/-! ## Marks -/

theorem mem_setIns {k b : Nat} {l : List Nat} : b ∈ setIns k l ↔ b = k ∨ b ∈ l := by
  induction l with
  | nil => simp [setIns]
  | cons j l ih =>
    rw [setIns]
    split
    · rw [List.mem_cons, ih, List.mem_cons]
      tauto
    · split
      · next h => simp [h]
      · simp

theorem mem_setDel {k b : Nat} {l : List Nat} : b ∈ setDel k l ↔ b ∈ l ∧ b ≠ k := by simp [setDel]

/-! ## Dirty blocks (R210) -/

theorem blocksOf_within {a n : Nat} (hn : 0 < n) (h : a % 64 + n ≤ 64) : blocksOf a n = [a / 64 * 64] := by
  have hlast : (a + n - 1) / 64 = a / 64 := by omega
  simp [blocksOf, blockOf, hn.ne', hlast]

/-- Exactly the filled granules' blocks among `l` have become dirty, and nothing else of a context changed. -/
structure MadeDirty (c d : Ctx) (l : List Nat) : Prop where
  rest : d = { c with maps := d.maps }
  desc : ∀ m : Fin 16, (d.maps[m]).desc = (c.maps[m]).desc
  empty : ∀ (m : Fin 16) (g : Nat), (c.maps[m]).gran? g = none → (d.maps[m]).gran? g = none
  filled : ∀ (m : Fin 16) (g : Nat) (x : Granule), (c.maps[m]).gran? g = some x → ∃ y, (d.maps[m]).gran? g = some y ∧
    y = { x with dirty := y.dirty } ∧ ∀ n < 64, y.dirty.getLsbD n = true ↔ x.dirty.getLsbD n = true ∨
      ∃ b ∈ l, ∃ e, c.mapAt b = some (m, e) ∧ e.granOf b = g ∧ e.blockIn b = n

namespace MadeDirty
variable {c d e : Ctx} {l l' : List Nat}

theorem refl (c : Ctx) : MadeDirty c c [] :=
  ⟨rfl, fun _ => rfl, fun _ _ h => h, fun _ _ x h => ⟨x, h, rfl, by simp⟩⟩

theorem mapAt (h : MadeDirty c d l) (b : Nat) : d.mapAt b = c.mapAt b := by
  unfold Ctx.mapAt
  simp only [h.desc]

theorem trans (h : MadeDirty c d l) (k : MadeDirty d e l') : MadeDirty c e (l ++ l') where
  rest := by rw [k.rest, h.rest]
  desc m := (k.desc m).trans (h.desc m)
  empty m g hg := k.empty m g (h.empty m g hg)
  filled m g x hx := by
    obtain ⟨y, hy, hyx, hdirty⟩ := h.filled m g x hx
    obtain ⟨z, hz, hzy, hdirty'⟩ := k.filled m g y hy
    refine ⟨z, hz, by rw [hzy, hyx], fun n hn => ?_⟩
    simp only [hdirty' n hn, hdirty n hn, h.mapAt, List.mem_append, or_and_right, exists_or, or_assoc]

/-- A list with the same blocks. -/
theorem congr (h : MadeDirty c d l) (hl : ∀ b, b ∈ l ↔ b ∈ l') : MadeDirty c d l' where
  rest := h.rest
  desc := h.desc
  empty := h.empty
  filled m g x hx := by simpa only [hl] using h.filled m g x hx

end MadeDirty

theorem blockIn_lt (d : MapDesc) (a : Nat) : d.blockIn a < 64 := by
  unfold MapDesc.blockIn
  omega

theorem getLsbD_shift_one {k n : Nat} (hk : k < 64) (hn : n < 64) : (1#64 <<< k).getLsbD n = decide (k = n) := by
  obtain hlt | rfl | hgt := Nat.lt_trichotomy n k
  · simp [hlt, hlt.ne']
  · simp [hn]
  · simp [hn, hgt.not_gt, hgt.ne, show n - k ≠ 0 by omega]

/-- A map unit with a block of a granule made dirty. -/
def dirtied (u : MapUnit) (g n : Nat) : MapUnit :=
  { u with grans := u.grans.map fun e => if e.1 == g then (e.1, { e.2 with dirty := e.2.dirty ||| (1#64 <<< n) }) else e }

theorem gran_dirtied (u : MapUnit) (g n k : Nat) : (dirtied u g n).gran? k =
    (u.gran? k).map fun x => if k = g then { x with dirty := x.dirty ||| (1#64 <<< n) } else x := by
  have hkey (e : Nat × Granule) : (if e.1 == g then (e.1, { e.2 with dirty := e.2.dirty ||| (1#64 <<< n) }) else e).1 = e.1 := by
    split <;> rfl
  have hsame : ((fun e : Nat × Granule => e.1 == k) ∘ fun e => if e.1 == g then (e.1, { e.2 with dirty := e.2.dirty ||| (1#64 <<< n) }) else e) =
      fun e => e.1 == k := by
    funext e
    rw [Function.comp_apply, hkey]
  rw [MapUnit.gran?, MapUnit.gran?, dirtied, List.find?_map, hsame, Option.map_map, Option.map_map]
  cases h : u.grans.find? fun e => e.1 == k with
  | none => rfl
  | some e =>
    obtain rfl : e.1 = k := by simpa using List.find?_some h
    by_cases hg : e.1 = g <;> simp [hg]

/-- A write within one block makes that block dirty. -/
theorem madeDirty_markDirty (c : Ctx) {a n : Nat} (hn : 0 < n) (h : a % 64 + n ≤ 64) : MadeDirty c (c.markDirty a n) [a / 64 * 64] := by
  rw [Ctx.markDirty, blocksOf_within hn h, List.foldl_cons, List.foldl_nil]
  generalize a / 64 * 64 = b
  split
  next hmap =>
    refine ⟨rfl, fun _ => rfl, fun _ _ h => h, fun _ _ x hx => ⟨x, hx, rfl, fun n _ => ?_⟩⟩
    simp [hmap]
  next i e hmap =>
    have hunit (m : Fin 16) : (c.maps.set i (dirtied c.maps[i] (e.granOf b) (e.blockIn b)))[m] =
        if i = m then dirtied c.maps[m] (e.granOf b) (e.blockIn b) else c.maps[m] := by
      simp only [Fin.getElem_fin, Vector.getElem_set, Fin.ext_iff]
      split
      next h => simp only [h]
      next => rfl
    have hgran (m : Fin 16) (g : Nat) : ((c.maps.set i (dirtied c.maps[i] (e.granOf b) (e.blockIn b)))[m]).gran? g =
        ((c.maps[m]).gran? g).map fun x => if i = m ∧ g = e.granOf b then { x with dirty := x.dirty ||| (1#64 <<< e.blockIn b) } else x := by
      rw [hunit]
      split
      next h => simp [gran_dirtied, h]
      next h => simp [h]
    refine ⟨rfl, fun m => ?_, fun m g hg => ?_, fun m g x hx => ?_⟩
    · show ((c.maps.set i (dirtied c.maps[i] (e.granOf b) (e.blockIn b)))[m]).desc = _
      rw [hunit]
      split <;> rfl
    · show ((c.maps.set i (dirtied c.maps[i] (e.granOf b) (e.blockIn b)))[m]).gran? g = none
      rw [hgran, hg]
      rfl
    · refine ⟨_, (hgran m g).trans (by rw [hx]; rfl), by split <;> rfl, fun n hn => ?_⟩
      simp only [List.mem_singleton, exists_eq_left, hmap, Option.some.injEq, Prod.mk.injEq, and_assoc, exists_and_left, exists_eq_left']
      split
      next h =>
        obtain ⟨rfl, rfl⟩ := h
        simp only [BitVec.getLsbD_or, getLsbD_shift_one (blockIn_lt e b) hn, Bool.or_eq_true, decide_eq_true_eq, true_and]
      next h => exact (or_iff_left fun ⟨hi, hg, _⟩ => h ⟨hi, hg.symm⟩).symm

/-! ## One write within a block (R191) -/

/-- What a write of the core's own scratchpad leaves alone. -/
structure StoreFrame (s u : State) : Prop where
  cur : u.cur = s.cur
  other : ∀ e, e ≠ s.cur → (u.core e).spad = (s.core e).spad
  mem : u.mem = s.mem
  parts : u.parts = s.parts
  rest : SameRest s u

namespace StoreFrame
variable {s t u : State}

theorem refl (s : State) : StoreFrame s s := ⟨rfl, fun _ _ => rfl, rfl, rfl, rfl, rfl, rfl, rfl, rfl, rfl, rfl, rfl, rfl⟩

theorem trans (h : StoreFrame s t) (k : StoreFrame t u) : StoreFrame s u where
  cur := k.cur.trans h.cur
  other e he := (k.other e (by rwa [h.cur])).trans (h.other e he)
  mem := k.mem.trans h.mem
  parts := k.parts.trans h.parts
  rest := by
    obtain ⟨a1, a2, a3, a4, a5, a6, a7, a8, a9⟩ := h.rest
    obtain ⟨b1, b2, b3, b4, b5, b6, b7, b8, b9⟩ := k.rest
    exact ⟨b1.trans a1, b2.trans a2, b3.trans a3, b4.trans a4, b5.trans a5, b6.trans a6, b7.trans a7, b8.trans a8, b9.trans a9⟩

end StoreFrame

theorem splitBlocks_within {n a : Nat} {l : List Byte} (hn : 0 < n) (hl : l ≠ []) (h : a % 64 + l.length ≤ 64) :
    splitBlocks n a l = [(a, l)] := by
  cases n with
  | zero => omega
  | succ n =>
    have htake : l.take (64 - a % 64) = l := List.take_of_length_le (by omega)
    have hdrop : l.drop (64 - a % 64) = [] := List.drop_eq_nil_of_le (by omega)
    have hnil : splitBlocks n (a + (64 - a % 64)) [] = [] := by cases n <;> simp [splitBlocks]
    rw [splitBlocks, if_neg (by simpa using hl)]
    dsimp only
    rw [htake, hdrop, hnil]

section
variable (s : State) {a : Nat} {l : List Byte} (p : Bool)

theorem storeFrame_ownWrite : StoreFrame s (s.ownWrite a l p) where
  cur := rfl
  other e he := by
    rw [State.ownWrite, State.writeSpad, State.core_onCore_other _ _ he]
    exact congrArg Core.spad (State.core_setCtx_other _ _ he)
  mem := rfl
  parts := rfl
  rest := ⟨rfl, rfl, rfl, rfl, rfl, rfl, rfl, rfl, rfl⟩

theorem ctx_ownWrite : (s.ownWrite a l p).ctx = s.ctx.markDirty a l.length := by
  rw [State.ownWrite, State.ctx_writeSpad, State.ctx_onCtx]

variable (hl : l ≠ []) (h : a % 64 + l.length ≤ 64)
include hl h

theorem core_ownWrite : (s.ownWrite a l p).core s.cur = ({ s.core s.cur with ctx := s.ctx.markDirty a l.length }).putSpad a l p := by
  have hpos : 0 < l.length := List.length_pos_iff.2 hl
  rw [State.ownWrite, State.writeSpad, State.core_onCore_same, splitBlocks_within hpos hl h, List.foldl_cons, List.foldl_nil]
  exact congrArg (Core.putSpad · a l p) (State.core_setCtx_cur ..)

theorem spad_ownWrite : ((s.ownWrite a l p).core s.cur).spad = writeBytes (s.core s.cur).spad a l := by
  rw [core_ownWrite s p hl h]
  rfl

theorem mem_mark_ownWrite {b : Nat} : b ∈ ((s.ownWrite a l p).core s.cur).spadMark ↔
    if p then b = a / 64 ∨ b ∈ (s.core s.cur).spadMark
    else b ∈ (s.core s.cur).spadMark ∧ (l.length = 64 → b ≠ a / 64) := by
  rw [core_ownWrite s p hl h, Core.putSpad]
  dsimp only
  cases p with
  | true => exact mem_setIns
  | false =>
    simp only [Bool.false_eq_true, if_false, decide_eq_true_eq]
    split
    next hfull => rw [mem_setDel]; simp [hfull, blockOf]
    next hpart => simp [hpart]

end

theorem spadByte_ownWrite_out (s : State) {a k : Nat} {l : List Byte} (p : Bool) (hl : l ≠ []) (h : a % 64 + l.length ≤ 64)
    (hk : k < a ∨ a + l.length ≤ k) : spadByte (s.ownWrite a l p) s.cur k = spadByte s s.cur k := by
  rw [spadByte, spad_ownWrite s p hl h, smGet_writeBytes_out hk]
  rfl

theorem spadByte_ownWrite_in {s : State} {a i : Nat} {l : List Byte} (p : Bool) (hl : l ≠ []) (h : a % 64 + l.length ≤ 64)
    (hwf : smWf 0 (s.core s.cur).spad = true) (hi : i < l.length) : spadByte (s.ownWrite a l p) s.cur (a + i) = l[i] := by
  rw [spadByte, spad_ownWrite s p hl h, smGet_writeBytes_in hwf hi]

theorem smWf_ownWrite {s : State} {a : Nat} {l : List Byte} (p : Bool) (hl : l ≠ []) (h : a % 64 + l.length ≤ 64)
    (hwf : smWf 0 (s.core s.cur).spad = true) : smWf 0 ((s.ownWrite a l p).core s.cur).spad = true := by
  rw [spad_ownWrite s p hl h]
  exact smWf_writeBytes hwf

theorem smGet_forall {α : Type} {P : α → Prop} {d : α} {m : SMap α} (hd : P d) (h : ∀ e ∈ m, P e.2) (k : Nat) : P (smGet d k m) := by
  induction m with
  | nil => exact hd
  | cons e m ih =>
    rw [smGet]
    split
    · exact h e List.mem_cons_self
    · exact ih fun x hx => h x (List.mem_cons_of_mem _ hx)

/-- A run that keeps canonical form has every core's scratchpad in it. -/
theorem Canonical.spad {s : State} (h : Canonical s) (c : CoreNum) : smWf 0 (s.core c).spad = true := by
  obtain ⟨-, -, hcores, -⟩ := h
  exact smGet_forall (P := fun k : Core => smWf 0 k.spad = true) rfl hcores _

/-! ## Many words -/

/-- A word covers a byte. -/
def covers (w : WordW) (k : Nat) : Prop := w.addr ≤ k ∧ k < w.addr + 4
/-- The byte that a word puts where it covers. -/
def byteOf (w : WordW) (k : Nat) : Byte := BitVec.ofNat 8 (w.val.toNat / 256 ^ (k - w.addr))
/-- The marks of the running core. -/
def marks (s : State) (c : CoreNum) : List Nat := (s.core c).spadMark

/-- Words that are whole, and no two of them at one address. -/
def WordsApart (ws : List WordW) : Prop := ∀ w ∈ ws, w.addr % 4 = 0 ∧ ∀ x ∈ ws, w.addr = x.addr → w = x

theorem WordsApart.subset {ws l : List WordW} (h : WordsApart ws) (hl : ∀ w ∈ l, w ∈ ws) : WordsApart l :=
  fun w hw => ⟨(h w (hl w hw)).1, fun x hx => (h w (hl w hw)).2 x (hl x hx)⟩

theorem WordsApart.eq_of_covers {ws : List WordW} (h : WordsApart ws) {w x : WordW} (hw : w ∈ ws) (hx : x ∈ ws) {k : Nat} (hwk : covers w k)
    (hxk : covers x k) : w = x := by
  obtain ⟨hwa, heq⟩ := h w hw
  obtain ⟨hxa, -⟩ := h x hx
  unfold covers at hwk hxk
  exact heq x hx (by omega)

/-- What storing some words leaves (R167, R191, R210). -/
structure Stored (s u : State) (ws : List WordW) : Prop where
  frame : StoreFrame s u
  wf : smWf 0 (u.core s.cur).spad = true
  out : ∀ k, (∀ w ∈ ws, ¬covers w k) → spadByte u s.cur k = spadByte s s.cur k
  inn : ∀ w ∈ ws, ∀ k, covers w k → spadByte u s.cur k = byteOf w k
  marked : ∀ w ∈ ws, w.bad = true → w.addr / 64 ∈ marks u s.cur
  kept : ∀ b ∈ marks s s.cur, (∀ w ∈ ws, w.addr / 64 ≠ b) → b ∈ marks u s.cur
  only : ∀ b ∈ marks u s.cur, b ∈ marks s s.cur ∨ ∃ w ∈ ws, w.bad = true ∧ b = w.addr / 64
  dirty : MadeDirty s.ctx u.ctx (ws.map fun w => w.addr / 64 * 64)

namespace Stored
variable {s t u : State} {ws l : List WordW}

theorem refl (hwf : smWf 0 (s.core s.cur).spad = true) : Stored s s [] where
  frame := StoreFrame.refl s
  wf := hwf
  out _ _ := rfl
  inn := by simp
  marked := by simp
  kept _ hb _ := hb
  only _ hb := .inl hb
  dirty := MadeDirty.refl _

/-- Words stored after others, of whose bytes they change none and whose marks they leave. -/
theorem trans (h : Stored s t ws) (k : Stored t u l) (hsame : ∀ w ∈ ws, ∀ x ∈ l, ∀ k, covers w k → covers x k → w = x)
    (hmark : ∀ w ∈ ws, w.addr / 64 ∈ marks t s.cur → w.addr / 64 ∈ marks u s.cur) : Stored s u (ws ++ l) := by
  have hcur := h.frame.cur
  refine ⟨h.frame.trans k.frame, hcur ▸ k.wf, fun i hi => ?_, fun w hw i hi => ?_, fun w hw hbad => ?_, fun b hb hne => ?_, fun b hb => ?_,
    by simpa using h.dirty.trans k.dirty⟩
  · have hout := k.out i fun w hw => hi w (List.mem_append_right _ hw)
    rw [hcur] at hout
    exact hout.trans (h.out i fun w hw => hi w (List.mem_append_left _ hw))
  · have hout := k.out i
    have hinn := k.inn
    rw [hcur] at hout hinn
    obtain hw | hw := List.mem_append.1 hw
    · by_cases hex : ∃ x ∈ l, covers x i
      · obtain ⟨x, hx, hxi⟩ := hex
        rw [hsame w hw x hx i hi hxi]
        exact hinn x hx i hxi
      · exact (hout fun x hx hxi => hex ⟨x, hx, hxi⟩).trans (h.inn w hw i hi)
    · exact hinn w hw i hi
  · obtain hw | hw := List.mem_append.1 hw
    · exact hmark w hw (h.marked w hw hbad)
    · exact hcur ▸ k.marked w hw hbad
  · have ht := h.kept b hb fun w hw => hne w (List.mem_append_left _ hw)
    exact hcur ▸ k.kept b (hcur.symm ▸ ht) fun w hw => hne w (List.mem_append_right _ hw)
  · obtain hb | ⟨w, hw, hbad⟩ := k.only b (hcur.symm ▸ hb)
    · obtain hb | ⟨w, hw, hbad⟩ := h.only b (hcur ▸ hb)
      · exact .inl hb
      · exact .inr ⟨w, List.mem_append_left _ hw, hbad⟩
    · exact .inr ⟨w, List.mem_append_right _ hw, hbad⟩

/-- The same words in another order. -/
theorem congr (h : Stored s u ws) (hl : ∀ w, w ∈ ws ↔ w ∈ l) : Stored s u l := by
  obtain ⟨frame, wf, out, inn, marked, kept, only, dirty⟩ := h
  simp only [hl] at out inn marked kept only
  exact ⟨frame, wf, out, inn, marked, kept, only, dirty.congr fun b => by simp only [List.mem_map, hl]⟩

end Stored

theorem leBytes_eq (n x : Nat) : leBytes n x = (List.range n).map fun j => BitVec.ofNat 8 (x / 256 ^ j) := by
  induction n generalizing x with
  | zero => rfl
  | succ n ih =>
    rw [leBytes, ih, List.range_succ_eq_map, List.map_cons, List.map_map]
    refine congrArg₂ _ (by simp) (List.map_congr_left fun j _ => ?_)
    rw [Function.comp_apply, Nat.pow_succ', Nat.div_div_eq_div_mul]

/-- One word of the core's own. -/
theorem stored_word {s : State} (hwf : smWf 0 (s.core s.cur).spad = true) {w : WordW} (ha : w.addr % 4 = 0) :
    Stored s (s.ownWrite w.addr (wordBytes w.val) w.bad) [w] ∧
      ∀ b ∈ marks s s.cur, b ∈ marks (s.ownWrite w.addr (wordBytes w.val) w.bad) s.cur := by
  have hlen : (wordBytes w.val).length = 4 := leBytes_length
  have hne : wordBytes w.val ≠ [] := List.length_pos_iff.1 (by omega)
  have hin : w.addr % 64 + (wordBytes w.val).length ≤ 64 := by omega
  have hmark (b : Nat) := mem_mark_ownWrite s w.bad hne hin (b := b)
  have hsub : ∀ b ∈ marks s s.cur, b ∈ marks (s.ownWrite w.addr (wordBytes w.val) w.bad) s.cur := by
    intro b hb
    refine (hmark b).2 ?_
    split
    · exact .inr hb
    · exact ⟨hb, by omega⟩
  refine ⟨⟨storeFrame_ownWrite .., smWf_ownWrite _ hne hin hwf, fun k hk => ?_, ?_, ?_, fun b hb _ => hsub b hb, fun b hb => ?_, ?_⟩, hsub⟩
  · refine spadByte_ownWrite_out s _ hne hin ?_
    have : ¬covers w k := hk w List.mem_cons_self
    unfold covers at this
    omega
  · simp only [List.mem_singleton, forall_eq]
    rintro k ⟨hlo, hhi⟩
    obtain ⟨j, rfl⟩ := Nat.exists_eq_add_of_le hlo
    rw [spadByte_ownWrite_in _ hne hin hwf (by omega), byteOf, Nat.add_sub_cancel_left]
    simp [wordBytes, leBytes_eq]
  · simp only [List.mem_singleton, forall_eq]
    intro hbad
    exact (hmark _).2 (by rw [hbad]; exact .inl rfl)
  · have h := (hmark b).1 hb
    split at h
    next hbad => exact h.symm.imp_right fun h => ⟨w, List.mem_cons_self, hbad, h⟩
    next => exact .inl h.1
  · rw [ctx_ownWrite, List.map_singleton]
    exact madeDirty_markDirty _ (by omega) hin

/-- Words one after another. -/
theorem stored_foldl {s : State} (hwf : smWf 0 (s.core s.cur).spad = true) {ws : List WordW} (h : WordsApart ws) :
    let u := ws.foldl (fun s w => s.ownWrite w.addr (wordBytes w.val) w.bad) s
    Stored s u ws ∧ ∀ b ∈ marks s s.cur, b ∈ marks u s.cur := by
  induction ws generalizing s with
  | nil => exact ⟨Stored.refl hwf, fun _ hb => hb⟩
  | cons w ws ih =>
    obtain ⟨hone, hmark⟩ := stored_word hwf (h w List.mem_cons_self).1
    have hcur := hone.frame.cur
    obtain ⟨hrest, hmark'⟩ := ih (by rw [hcur]; exact hone.wf) (h.subset fun x hx => List.mem_cons_of_mem _ hx)
    rw [hcur] at hmark'
    refine ⟨hone.trans hrest (fun x hx y hy k hxk hyk => h.eq_of_covers ?_ (List.mem_cons_of_mem _ hy) hxk hyk) fun x _ => hmark' _,
      fun b hb => hmark' b (hmark b hb)⟩
    exact List.mem_singleton.1 hx ▸ List.mem_cons_self

/-- The bytes of 16 words. -/
theorem wordBytes_flatMap (f : Nat → BitVec 32) : ((List.range 16).flatMap fun i => wordBytes (f i)) =
    (List.range 64).map fun k => BitVec.ofNat 8 ((f (k / 4)).toNat / 256 ^ (k % 4)) := by
  simp only [wordBytes, leBytes_eq]
  exact flatMap_range 16 4 fun i j => BitVec.ofNat 8 ((f i).toNat / 256 ^ j)

section
variable {s : State} (hwf : smWf 0 (s.core s.cur).spad = true) {ws : List WordW} (h : WordsApart ws) {blk : Nat}
  (hblk : ∀ w ∈ ws, w.addr / 64 = blk)
include hwf h hblk

/-- A block that is filled clean by one write: `f` gives its words in order. -/
theorem stored_fullBlock {f : Nat → WordW} (hf : ∀ i < 16, f i ∈ ws ∧ (f i).addr = blk * 64 + 4 * i) (hclean : ∀ w ∈ ws, w.bad = false) :
    Stored s (s.ownWrite (blk * 64) ((List.range 16).flatMap fun i => wordBytes (f i).val) false) ws := by
  rw [wordBytes_flatMap]
  generalize hl : ((List.range 64).map fun k => BitVec.ofNat 8 ((f (k / 4)).val.toNat / 256 ^ (k % 4))) = l
  have hlen : l.length = 64 := by simp [← hl]
  have hne : l ≠ [] := List.length_pos_iff.1 (by omega)
  have hin : blk * 64 % 64 + l.length ≤ 64 := by omega
  have hmark (b : Nat) := mem_mark_ownWrite s false hne hin (b := b)
  refine ⟨storeFrame_ownWrite .., smWf_ownWrite _ hne hin hwf, fun k hk => ?_, fun w hw k hwk => ?_, fun w hw hbad => ?_, fun b hb hother => ?_,
    fun b hb => ?_, ?_⟩
  · refine spadByte_ownWrite_out s _ hne hin (by_contra fun hin => ?_)
    obtain ⟨hmem, haddr⟩ := hf ((k - blk * 64) / 4) (by omega)
    exact hk _ hmem ⟨by omega, by omega⟩
  · obtain ⟨hlo, hhi⟩ := hwk
    have halign := (h w hw).1
    have hb := hblk w hw
    obtain ⟨hmem, haddr⟩ := hf ((w.addr - blk * 64) / 4) (by omega)
    have hfw : f ((w.addr - blk * 64) / 4) = w := ((h w hw).2 _ hmem (by omega)).symm
    have hk : k = blk * 64 + (k - blk * 64) := by omega
    have hplace : (k - blk * 64) / 4 = (w.addr - blk * 64) / 4 ∧ (k - blk * 64) % 4 = k - w.addr := by omega
    rw [hk, spadByte_ownWrite_in _ hne hin hwf (by omega), ← hk]
    simp only [← hl, List.getElem_map, List.getElem_range, hplace.1, hplace.2, hfw, byteOf]
  · rw [hclean w hw] at hbad
    cases hbad
  · refine (hmark b).2 ⟨hb, fun _ hbb => ?_⟩
    obtain ⟨hmem, -⟩ := hf 0 (by decide)
    exact hother _ hmem (by rw [hblk _ hmem, hbb, Nat.mul_div_cancel _ (by decide)])
  · exact .inl ((hmark b).1 hb).1
  · rw [ctx_ownWrite, hlen]
    refine (madeDirty_markDirty s.ctx (by decide) (by omega)).congr fun b => ?_
    obtain ⟨hmem, -⟩ := hf 0 (by decide)
    rw [Nat.mul_div_cancel _ (by decide), List.mem_singleton, List.mem_map]
    exact ⟨fun hb => ⟨_, hmem, by rw [hblk _ hmem, hb]⟩, fun ⟨w, hw, hb⟩ => by rw [← hb, hblk w hw]⟩

/-- The words of one block: where they fill it clean they are one write, which clears its mark (R191). -/
theorem stored_storeBlock : Stored s (s.storeBlock blk ws) ws := by
  unfold State.storeBlock
  extract_lets last
  split
  next hfull =>
    rw [Bool.and_eq_true, List.all_eq_true, Bool.not_eq_true', List.any_eq_false] at hfull
    obtain ⟨hall, hclean⟩ := hfull
    have hlast : ∀ i < 16, ((last i).getD ⟨0, 0, false⟩) ∈ ws ∧ ((last i).getD ⟨0, 0, false⟩).addr = blk * 64 + 4 * i := by
      intro i hi
      obtain ⟨w, hw⟩ := Option.isSome_iff_exists.1 (hall i (List.mem_range.2 hi))
      obtain ⟨hmem, ha⟩ := List.mem_filter.1 (List.mem_of_getLast? hw)
      rw [hw]
      exact ⟨hmem, of_decide_eq_true ha⟩
    have hvals : (fun i => wordBytes (((last i).map (·.val)).getD 0)) = fun i => wordBytes ((last i).getD ⟨0, 0, false⟩).val := by
      funext i
      cases last i <;> rfl
    rw [hvals]
    exact stored_fullBlock hwf h hblk hlast fun w hw => Bool.eq_false_of_not_eq_true (hclean w hw)
  next => exact (stored_foldl hwf h).1

end

/-- Words of many blocks, block by block. -/
theorem stored_blocks {ws : List WordW} (h : WordsApart ws) {bs : List Nat} (hbs : bs.Nodup) {s : State} (hwf : smWf 0 (s.core s.cur).spad = true) :
    Stored s (bs.foldl (fun s b => s.storeBlock b (ws.filter fun w => w.addr / 64 = b)) s)
      (bs.flatMap fun b => ws.filter fun w => w.addr / 64 = b) := by
  induction bs generalizing s with
  | nil => exact Stored.refl hwf
  | cons b bs ih =>
    obtain ⟨hnot, hbs⟩ := List.nodup_cons.1 hbs
    have hblock : Stored s (s.storeBlock b (ws.filter fun w => w.addr / 64 = b)) (ws.filter fun w => w.addr / 64 = b) := by
      exact stored_storeBlock hwf (h.subset fun w hw => List.mem_of_mem_filter hw) fun w hw => of_decide_eq_true (List.mem_filter.1 hw).2
    have hcur := hblock.frame.cur
    have hrest := ih hbs (by rw [hcur]; exact hblock.wf)
    have hother {x : WordW} (hx : x ∈ bs.flatMap fun b => ws.filter fun w => w.addr / 64 = b) : x ∈ ws ∧ x.addr / 64 ≠ b := by
      obtain ⟨c, hc, hx⟩ := List.mem_flatMap.1 hx
      obtain ⟨hx, hxc⟩ := List.mem_filter.1 hx
      exact ⟨hx, fun hxb => hnot (hxb ▸ of_decide_eq_true hxc ▸ hc)⟩
    refine hblock.trans hrest (fun w hw x hx k hwk hxk => h.eq_of_covers (List.mem_of_mem_filter hw) (hother hx).1 hwk hxk) fun w hw hmark => ?_
    have hkept := hrest.kept (w.addr / 64)
    rw [hcur] at hkept
    refine hkept hmark fun x hx => ?_
    rw [show w.addr / 64 = b by simpa using (List.mem_filter.1 hw).2]
    exact (hother hx).2

theorem stored_storeWords {s : State} (hwf : smWf 0 (s.core s.cur).spad = true) {ws : List WordW} (h : WordsApart ws) :
    Stored s (s.storeWords ws) ws := by
  refine (stored_blocks h (nodup_eraseDups _) hwf).congr fun w => ?_
  simp only [List.mem_flatMap, List.mem_eraseDups, List.mem_map, List.mem_filter, decide_eq_true_eq]
  exact ⟨fun ⟨_, _, hw, _⟩ => hw, fun hw => ⟨_, ⟨w, hw, rfl⟩, hw, rfl⟩⟩

end Sys2Proof.Claims
end

section
/-!
PROOF. VSTS, and the issue of VGATH and VSCAT (R164, R165, R167, R168).
-/

namespace Sys2Proof.Claims
open Sys2Proof.Machine

/-! ## Lanes as words -/

theorem mem_lanesIn {m : BitVec 64} {i : Nat} : i ∈ lanesIn m ↔ i < 64 ∧ m.getLsbD i = true := by
  simp [lanesIn, List.mem_filter]

/-- The words that lanes store. -/
def laneWords (x : VReg) (lanes : BitVec 64) (addr : Nat → Nat) : List WordW :=
  (lanesIn lanes).map fun i => ⟨addr i, x.lane i, x.poisonSide.getLsbD i⟩

theorem MadeDirty.dirtied {c d : Ctx} {l : List Nat} {lanes : BitVec 64} {addr : Nat → Nat} (h : MadeDirty c d l)
    (hl : ∀ b, b ∈ l ↔ ∃ i < 64, lanes.getLsbD i = true ∧ addr i / 64 * 64 = b) : Dirtied c d lanes addr := by
  refine ⟨h.rest, fun m => ⟨h.desc m, fun g => ?_⟩⟩
  cases hx : (c.maps[m]).gran? g with
  | none =>
    rw [h.empty m g hx]
    trivial
  | some x =>
    obtain ⟨y, hy, hyx, hdirty⟩ := h.filled m g x hx
    rw [hy]
    refine ⟨hyx, fun n hn => ?_⟩
    rw [hdirty n hn]
    refine or_congr_right ⟨fun ⟨b, hb, e, he⟩ => ?_, fun ⟨i, hi, hact, e, he⟩ => ⟨_, (hl _).2 ⟨i, hi, hact, rfl⟩, e, he⟩⟩
    obtain ⟨i, hi, hact, rfl⟩ := (hl b).1 hb
    exact ⟨i, hi, hact, e, he⟩

/-- Stored words of lanes at distinct addresses are stored lanes (R167). -/
theorem Stored.lanes {s u : State} {x : VReg} {lanes : BitVec 64} {addr : Nat → Nat} (h : Stored s u (laneWords x lanes addr)) :
    StoredLanes s u x lanes addr := by
  have hword {P : WordW → Prop} : (∀ w ∈ laneWords x lanes addr, P w) ↔
      ∀ i < 64, lanes.getLsbD i = true → P ⟨addr i, x.lane i, x.poisonSide.getLsbD i⟩ := by
    simp only [laneWords, List.forall_mem_map, mem_lanesIn, and_imp]
  have hexists {P : WordW → Prop} : (∃ w ∈ laneWords x lanes addr, P w) ↔
      ∃ i < 64, lanes.getLsbD i = true ∧ P ⟨addr i, x.lane i, x.poisonSide.getLsbD i⟩ := by
    simp [laneWords, mem_lanesIn, and_assoc]
  obtain ⟨⟨-, hother, hmem, hparts, hrest⟩, -, hout, hinn, hmarked, -, honly, hdirty⟩ := h
  rw [hword] at hinn hmarked
  refine ⟨fun k hk => hout k (hword.2 fun i hi hl hc => hk i hi ⟨hl, hc⟩), fun k i hi hc _ => ?_, fun i hi hl hb => ?_, fun b hb => ?_,
    hother, hmem, hparts, hdirty.dirtied fun b => ?_, hrest⟩
  · obtain ⟨hl, hc⟩ := hc
    rw [lane_eq]
    exact hinn i hi hl k hc
  · exact hmarked i hi hl (by rwa [← badLane_eq])
  · refine (honly b hb).imp_right fun h => ?_
    simpa only [badLane_eq] using hexists.1 h
  · rw [List.mem_map]
    exact hexists

/-! ## VSTS (R167) -/

/-- A store whose words fit and are ready is performed (R165). -/
theorem storing_go {s s1 : State} {l : List Nat} (h : ∀ a ∈ l, a % 4 = 0 ∧ a + 4 ≤ s.ctx.kern.spad) (hfree : Free s 0)
    (hready : s.readyWords l = (.ok (), s1)) (k : State → SlotOut) : s.storing l k = k s1 := by
  rw [State.storing, checkWords_go h, inOrder_go hfree, hready]

theorem WordsFit.words {s : State} {lanes : BitVec 64} {addr : Nat → Nat} (h : WordsFit s lanes addr) :
    ∀ a ∈ (lanesIn lanes).map addr, a % 4 = 0 ∧ a + 4 ≤ s.ctx.kern.spad := by
  simp only [List.mem_map, mem_lanesIn]
  rintro a ⟨i, ⟨hi, hl⟩, rfl⟩
  exact h i hi hl

theorem vsts_stores {s s1 : State} {a b : Reg} {k : BitVec 3} {t : TVal} (hin : s.ctx.inHandler = false) (ht : ScalarC s b false t)
    (htag : t.tag = 0) (hx : Undeferred (s.ctx.vec.read a) (s.ctx.vec.active k)) :
    let act := s.ctx.vec.active k
    let addr (i : Nat) : Nat := (t.val.toNat + 4 * i) % 2 ^ 32
    WordsFit s act addr → Free s 0 → s.readyWords ((lanesIn act).map addr) = (.ok (), s1) → Canonical s1 → s1.cur = s.cur →
      ∃ u : State, exec (.vsts a b k) s = .next u.slotDone ∧ StoredLanes s1 u (s.ctx.vec.read a) act addr := by
  intro act addr hfit hfree hready hcanon hcur
  have hpoison : t.poison = false := by simp [TVal.poison, htag]
  refine ⟨s1.storeWords (laneWords (s.ctx.vec.read a) act addr), ?_, ?_⟩
  · show execVsts a b k s = _
    rw [execVsts, State.taskOnly_task hin, needsLanes_go (List.forall_mem_singleton.2 hx), needsScalar_go ht (by simp [htag]), hpoison,
      if_neg Bool.false_ne_true]
    exact congrArg SlotOut.out (storing_go hfit.words hfree hready _)
  · have hinj : ∀ i < 64, ∀ j < 64, addr i = addr j → i = j := fun i hi j hj (h : (t.val.toNat + 4 * i) % 2 ^ 32 = (t.val.toNat + 4 * j) % 2 ^ 32) => by
      omega
    refine (stored_storeWords (hcanon.spad _) ?_).lanes
    simp only [WordsApart, laneWords, List.mem_map, mem_lanesIn]
    rintro w ⟨i, ⟨hi, hl⟩, rfl⟩
    refine ⟨(hfit i hi hl).1, ?_⟩
    rintro x ⟨j, ⟨hj, -⟩, rfl⟩ hij
    rw [hinj i hi j hj hij]

/-- VLDS, VLDSP and VSTS (R164, R166, R167). -/
theorem vectorScratchpad : VectorScratchpad := by
  intro s d a b k i t hin act p
  refine ⟨fun ht => ⟨fun htag halign hrange hend hfree s1 htouch herr => ?_, fun htag h => loads_of_not_fit hin ht htag h,
    fun htag => vldsp_of_deferred hin ht htag, fun hbad => loads_of_bad hin ht hbad⟩, fun ht htag hx hfit hfree s1 hready hcanon hcur =>
    vsts_stores hin ht htag hx hfit hfree hready hcanon hcur⟩
  exact ⟨_, loadedLanes_loadedReg _ _ _, rfl, loads_of_fit hin ht htag halign hrange hend hfree htouch herr⟩

/-! ## Scoreboarded vector results (R143) -/

/-- A vector result with what its destination holds in the lanes outside the mask. -/
def heldVec (s : State) (d : Reg) (v : VReg) (act : BitVec 64) : VReg :=
  if h : d.toNat < 16 then (s.ctx.vec.c[(⟨d.toNat, h⟩ : Fin 16)]).merge v act else v

theorem merge_spec (old new : VReg) (m : BitVec 64) : (old.merge new m).spec = new.spec := by rw [VReg.merge]

theorem heldVec_spec (s : State) (d : Reg) (v : VReg) (act : BitVec 64) : (heldVec s d v act).spec = v.spec := by
  by_cases h : d.toNat < 16
  · rw [heldVec, dif_pos h, merge_spec]
  · rw [heldVec, dif_neg h]

theorem heldVec_keeps (s : State) (d : Reg) (v : VReg) (act : BitVec 64) : Keeps s d act (heldVec s d v act) := by
  intro h i hi hact
  rw [heldVec, dif_pos h, lane_eq, lane_eq, VReg.lane_merge _ _ _ hi, VReg.side_merge _ _ _ hi, hact]
  exact ⟨rfl, rfl⟩

theorem heldVec_lane (s : State) (d : Reg) (v : VReg) {act : BitVec 64} {i : Nat} (hi : i < 64) (hact : act.getLsbD i = true) :
    lane (heldVec s d v act) i = lane v i ∧ (heldVec s d v act).side.getLsbD i = v.side.getLsbD i := by
  unfold heldVec
  split
  · rw [lane_eq, lane_eq, VReg.lane_merge _ _ _ hi, VReg.side_merge _ _ _ hi, hact]
    exact ⟨rfl, rfl⟩
  · exact ⟨rfl, rfl⟩

theorem awaitVec_out (s : State) (d : Reg) (v : VReg) (act : BitVec 64) (gather atomic : Bool) (way : Way) :
    (s.awaitVec d v act gather atomic way).out =
      .next (s.await (boardC d) (.vec (heldVec s d v act) act) 0 atomic gather way).slotDone := by
  unfold State.awaitVec heldVec
  rw [pdestC_eq, SlotOut.out_done]
  by_cases hd : d.toNat < 16 <;> simp only [boardC, hd, dif_pos, dif_neg, not_false_eq_true]

/-! ## VGATH and VSCAT (R168) -/

section
variable (act : BitVec 64) (base : BitVec 64) (y : VReg)

/-- The lanes of a long form. -/
def longLanes : BitVec 64 := act &&& (if y.spec then BitVec.allOnes 64 else ~~~y.side)
/-- The address of a lane of a long form. -/
def longAddr (i : Nat) : Nat := (base.toNat + (lane y i).toNat * 4) % 2 ^ 32

theorem gatherLanes_eq : gatherLanes act y = lanesIn (longLanes act y) := by
  rw [gatherLanes, longLanes, VReg.poisonSide]
  cases y.spec <;> simp

theorem gatherAddr_eq : gatherAddr base y = longAddr base y := by
  funext i
  rw [gatherAddr, laneAddr, longAddr, lane_eq]

theorem lanesIn_zip (m : BitVec 64) (addr : Nat → Nat) : (lanesIn m).zip ((lanesIn m).map addr) = (lanesIn m).map fun i => (i, addr i) :=
  List.map_prod_left_eq_zip.symm

theorem lanesIn_eq_nil {m : BitVec 64} : lanesIn m = [] ↔ m = 0 := by
  rw [List.eq_nil_iff_forall_not_mem]
  simp only [mem_lanesIn, not_and, Bool.not_eq_true]
  exact ⟨fun h => BitVec.eq_of_getLsbD_eq fun i hi => by simpa using h i hi, fun h => by simp [h]⟩

theorem gatherStart_lane (l : List Nat) {i : Nat} (hi : i < 64) : lane (gatherStart l) i = 0 ∧
    (gatherStart l).side.getLsbD i = !l.contains i := by
  rw [lane_eq, gatherStart, VReg.lane_replicate _ _ _ hi, getLsbD_laneMask, decide_eq_true hi, Bool.true_and]
  exact ⟨rfl, rfl⟩

end

section
variable {s : State} {d a b : Reg} {k : BitVec 3} {t : TVal} (hin : s.ctx.inHandler = false) (ht : ScalarC s a false t) (htag : t.tag = 0)
  (hy : Undeferred (s.ctx.vec.read b) (s.ctx.vec.active k))
include hin ht htag hy

/-- A gather without a lane answers at once. -/
theorem vgath_none (hl : longLanes (s.ctx.vec.active k) (s.ctx.vec.read b) = 0) : let act := s.ctx.vec.active k
    ∃ v : VReg, exec (.vgath d a b k) s = .next (s.await (boardC d) (.vec v act) 0 false true).slotDone ∧
      v.spec = false ∧ Keeps s d act v ∧ ∀ i < 64, act.getLsbD i = true → v.side.getLsbD i = true ∧ lane v i = 0 := by
  intro act
  have hpoison : t.poison = false := by simp [TVal.poison, htag]
  refine ⟨heldVec s d (gatherStart []) act, ?_, heldVec_spec _ _ _ _, heldVec_keeps _ _ _ _, fun i hi hact => ?_⟩
  · show execVgath d a b k s = _
    rw [execVgath, State.taskOnly_task hin, needsLanes_go (List.forall_mem_singleton.2 hy), needsScalar_go ht (by simp [htag]), hpoison,
      if_neg Bool.false_ne_true, ← awaitVec_out s d (gatherStart []) act true false .none]
    dsimp only
    rw [show gatherLanes (s.ctx.vec.active k) (s.vsrc b (s.ctx.vec.active k)).val = [] from (gatherLanes_eq ..).trans (lanesIn_eq_nil.2 hl)]
    rfl
  · obtain ⟨hlane, hside⟩ := heldVec_lane s d (gatherStart []) hi hact
    obtain ⟨hzero, hset⟩ := gatherStart_lane [] hi
    exact ⟨hside.trans hset, hlane.trans hzero⟩

/-- A gather's checks and fills are made at issue. -/
theorem vgath_issues {s1 : State} (hl : longLanes (s.ctx.vec.active k) (s.ctx.vec.read b) ≠ 0) : let act := s.ctx.vec.active k
    let lanes := longLanes act (s.ctx.vec.read b)
    let addr := longAddr t.val (s.ctx.vec.read b)
    WordsFit s lanes addr → Free s 0 → s.touchWords ((lanesIn lanes).map addr) = (.ok (), s1) →
      exec (.vgath d a b k) s = .next (s1.await (boardC d)
        (.long none ((lanesIn lanes).map fun i => (i, addr i)) (gatherStart (lanesIn lanes)) act 0) 0 false true).slotDone := by
  intro act lanes addr hfit hfree htouch
  have hpoison : t.poison = false := by simp [TVal.poison, htag]
  have hne : (lanesIn lanes).isEmpty = false := by
    rw [List.isEmpty_eq_false_iff, ne_eq, lanesIn_eq_nil]
    exact hl
  show execVgath d a b k s = _
  rw [execVgath, State.taskOnly_task hin, needsLanes_go (List.forall_mem_singleton.2 hy), needsScalar_go ht (by simp [htag]), hpoison,
    if_neg Bool.false_ne_true]
  dsimp only
  rw [show gatherLanes (s.ctx.vec.active k) (s.vsrc b (s.ctx.vec.active k)).val = lanesIn lanes from gatherLanes_eq ..,
    show gatherAddr t.val (s.vsrc b (s.ctx.vec.active k)).val = addr from gatherAddr_eq .., hne, if_neg Bool.false_ne_true,
    checkWords_go hfit.words, inOrder_go hfree, htouch, lanesIn_zip, pdestC_eq]
  rfl

variable (hx : Undeferred (s.ctx.vec.read d) (s.ctx.vec.active k))
include hx

theorem vscat_none (hl : longLanes (s.ctx.vec.active k) (s.ctx.vec.read b) = 0) : exec (.vscat d a b k) s = .next s.slotDone := by
  have hpoison : t.poison = false := by simp [TVal.poison, htag]
  show execVscat d a b k s = _
  rw [execVscat, State.taskOnly_task hin, needsLanes_go (by simpa using ⟨hy, hx⟩), needsScalar_go ht (by simp [htag]), hpoison,
    if_neg Bool.false_ne_true]
  dsimp only
  rw [show gatherLanes (s.ctx.vec.active k) (s.vsrc b (s.ctx.vec.active k)).val = [] from (gatherLanes_eq ..).trans (lanesIn_eq_nil.2 hl)]
  rfl

theorem vscat_issues {s1 : State} (hl : longLanes (s.ctx.vec.active k) (s.ctx.vec.read b) ≠ 0) : let act := s.ctx.vec.active k
    let lanes := longLanes act (s.ctx.vec.read b)
    let addr := longAddr t.val (s.ctx.vec.read b)
    let x := s.ctx.vec.read d
    WordsFit s lanes addr → Free s 0 → s.readyWords ((lanesIn lanes).map addr) = (.ok (), s1) →
      exec (.vscat d a b k) s = .next (s1.await .discard
        (.long (some { x with side := x.poisonSide }) ((lanesIn lanes).map fun i => (i, addr i)) .zero act 0) 0 false true).slotDone := by
  intro act lanes addr x hfit hfree hready
  have hpoison : t.poison = false := by simp [TVal.poison, htag]
  have hne : (lanesIn lanes).isEmpty = false := by
    rw [List.isEmpty_eq_false_iff, ne_eq, lanesIn_eq_nil]
    exact hl
  show execVscat d a b k s = _
  rw [execVscat, State.taskOnly_task hin, needsLanes_go (by simpa using ⟨hy, hx⟩), needsScalar_go ht (by simp [htag]), hpoison,
    if_neg Bool.false_ne_true]
  dsimp only
  rw [show gatherLanes (s.ctx.vec.active k) (s.vsrc b (s.ctx.vec.active k)).val = lanesIn lanes from gatherLanes_eq ..,
    show gatherAddr t.val (s.vsrc b (s.ctx.vec.active k)).val = addr from gatherAddr_eq .., hne, if_neg Bool.false_ne_true,
    storing_go hfit.words hfree hready, lanesIn_zip]
  rfl

end

/-- VGATH and VSCAT at issue (R168, R46, R148). -/
theorem longForms : LongForms := by
  intro s d a b k t hin ht htag act y x addr lanes todo hy
  refine ⟨fun hl => ⟨vgath_none hin ht htag hy hl, fun hx => vscat_none hin ht htag hy hx hl⟩, fun hl hfit hfree =>
    ⟨fun s1 htouch => ⟨gatherStart (lanesIn lanes), rfl, fun i hi => ?_, vgath_issues hin ht htag hy hl hfit hfree htouch⟩,
      fun s1 hready hx => ⟨{ x with side := x.poisonSide }, fun i hi => ⟨?_, (badLane_eq x i).symm⟩,
        vscat_issues hin ht htag hy hx hl hfit hfree hready⟩⟩⟩
  · obtain ⟨hzero, hside⟩ := gatherStart_lane (lanesIn lanes) hi
    refine ⟨hzero, hside.trans (congrArg _ ?_)⟩
    rw [Bool.eq_iff_iff, List.contains_iff_mem, mem_lanesIn]
    exact and_iff_right hi
  · rw [lane_eq, lane_eq]
    rfl

end Sys2Proof.Claims
end

section
/-!
PROOF. The steps of VGATH and VSCAT (R46, R148, R168): a lane that is read or stored, the request that counts on, and the one that is done.
-/

namespace Sys2Proof.Claims
open Sys2Proof.Machine

/-! ## Answers to the running core -/

theorem asCore_own {s t : State} {f : State → State} (h : f s = t) (hcur : t.cur = s.cur) : s.asCore s.cur f = t := by
  show { f s with cur := s.cur } = t
  rw [h, ← hcur]

section
variable {s : State} {p : Pend} (hreq : s.ctx.request? p.id = some (false, p)) (hbusy : (s.core s.cur).busy = true)
  (hway : p.way.waiting = false) (hsite : p.way.site = none)
include hreq hbusy hway hsite

/-- A request that may be answered takes its answer (R42). -/
theorem exec_loadComplete {data : BitVec 64} {poison : Bool} (h : (s.answer false p data poison).cur = s.cur) :
    exec (.loadComplete s.cur p.id data poison) s = .next (s.answer false p data poison) := by
  refine congrArg Host.Outcome.next (asCore_own ?_ h)
  rw [hreq]
  simp [hbusy, hway, hsite, State.siteShed]

end

/-! ## Contexts -/

theorem deliver_vec_task (c : Ctx) (d : PDest) (x : VReg) (m : BitVec 64) : (c.deliver false d (.vec x m)).task = c.task := by
  cases d <;> rfl

theorem board_completeWith (c : Ctx) (p : Pend) (x : VReg) (m : BitVec 64) :
    (c.completeWith false p (.vec x m)).task.board = c.task.board.filter fun q => q.id ≠ p.id := by
  show ((c.deliver false p.dest (.vec x m)).task.retire p.id).board = _
  rw [deliver_vec_task, Thread.retire]
  refine List.filter_congr fun q _ => ?_
  by_cases h : q.id = p.id <;> simp [h]

/-- A vector register after the request that awaited it. -/
theorem vec_completeWith (c : Ctx) {p : Pend} {r : Fin 16} (hdest : p.dest = .c r) (x : VReg) (m : BitVec 64) :
    (c.completeWith false p (.vec x m)).vec.c[r] = x ∧ ∀ e, e ≠ r → (c.completeWith false p (.vec x m)).vec.c[e] = c.vec.c[e] := by
  have hvec : (c.completeWith false p (.vec x m)).vec.c = c.vec.c.set r x := by
    rw [Ctx.completeWith, hdest]
    rfl
  rw [hvec]
  refine ⟨by simp, fun e he => ?_⟩
  have hne : r.val ≠ e.val := fun h => he (Fin.ext h.symm)
  simp [hne]

theorem board_onRequest (c : Ctx) (i : Nat) (f : Pend → Pend) :
    (c.onRequest i f).task.board = c.task.board.map fun q => if q.id = i then f q else q := by
  simp [Ctx.onRequest]

theorem spad_onCtx (s : State) (f : Ctx → Ctx) (e : CoreNum) : ((s.onCtx f).core e).spad = (s.core e).spad ∧
    ((s.onCtx f).core e).spadMark = (s.core e).spadMark := by
  by_cases h : e = s.cur
  · subst h
    rw [State.onCtx, State.core_setCtx_cur]
    exact ⟨rfl, rfl⟩
  · rw [State.onCtx, State.core_setCtx_other _ _ h]
    exact ⟨rfl, rfl⟩

theorem task_markDirty (c : Ctx) (a n : Nat) : (c.markDirty a n).task = c.task :=
  foldl_keeps (P := fun d : Ctx => d.task = c.task) _ rfl fun d b h => by
    split
    · exact h
    · exact h

/-! ## One lane -/

/-- What a gather has after a lane. -/
def gathered (k : Core) (i ad : Nat) (got : VReg) : VReg :=
  ⟨Vector.ofFn fun j => if j.val = i then (if k.spadBad ad 4 then 0 else BitVec.ofNat 32 (leNat (readBytes k.spad ad 4))) else got.lanes[j],
    if k.spadBad ad 4 then got.side ||| (1#64 <<< i) else got.side, got.spec⟩

theorem gathered_spec (k : Core) (i ad : Nat) (got : VReg) : (gathered k i ad got).spec = got.spec := by rw [gathered]

theorem longLane_gather {s : State} (h : (s.core s.cur).spadErr = []) (i ad : Nat) (got : VReg) :
    s.longLane none i ad got = (gathered (s.core s.cur) i ad got, s) := by
  rw [State.longLane, readSpad_quiet h]
  rfl

theorem gathered_other (k : Core) {i j : Nat} (ad : Nat) (got : VReg) (hi : i < 64) (hj : j < 64) (hne : j ≠ i) :
    lane (gathered k i ad got) j = lane got j ∧ (gathered k i ad got).side.getLsbD j = got.side.getLsbD j := by
  constructor
  · rw [lane_eq, lane_eq, gathered, VReg.lane_ofFn _ _ _ hj, if_neg hne, VReg.lane, dif_pos hj]
    rfl
  · rw [gathered]
    dsimp only
    split
    · rw [BitVec.getLsbD_or, getLsbD_shift_one hi hj, decide_eq_false hne.symm, Bool.or_false]
    · rfl

theorem gathered_bad {k : Core} {i ad : Nat} (got : VReg) (hi : i < 64) (hbad : k.spadBad ad 4 = true) :
    lane (gathered k i ad got) i = 0 ∧ (gathered k i ad got).side.getLsbD i = true := by
  rw [lane_eq, gathered, VReg.lane_ofFn _ _ _ hi, if_pos rfl, if_pos hbad, if_pos hbad, BitVec.getLsbD_or, getLsbD_shift_one hi hi,
    decide_eq_true rfl, Bool.or_true]
  exact ⟨rfl, rfl⟩

theorem gathered_good {k : Core} {i ad : Nat} (got : VReg) (hi : i < 64) (hbad : k.spadBad ad 4 = false) :
    (lane (gathered k i ad got) i).toNat = (spelled 4 fun j => smGet 0 (ad + j) k.spad) ∧
      (gathered k i ad got).side.getLsbD i = got.side.getLsbD i := by
  have hlt := spelled_lt 4 fun j => smGet 0 (ad + j) k.spad
  rw [lane_eq, gathered, VReg.lane_ofFn _ _ _ hi, if_pos rfl, hbad, if_neg Bool.false_ne_true, if_neg Bool.false_ne_true, readBytes,
    leNat_map_range, BitVec.toNat_ofNat]
  exact ⟨Nat.mod_eq_of_lt hlt, rfl⟩

/-! ## A write that may end in the next block -/

theorem writeBytes_append (m : SMap Byte) (a : Nat) (l r : List Byte) :
    writeBytes m a (l ++ r) = writeBytes (writeBytes m a l) (a + l.length) r := by
  induction l generalizing m a with
  | nil => rfl
  | cons x l ih => rw [List.cons_append, writeBytes, writeBytes, ih, List.length_cons, Nat.add_assoc, Nat.add_comm 1]

theorem spad_foldl_putSpad {n a : Nat} {l : List Byte} (p : Bool) (hn : l.length ≤ n) (k : Core) :
    ((splitBlocks n a l).foldl (fun k x => k.putSpad x.1 x.2 p) k).spad = writeBytes k.spad a l := by
  induction n generalizing a l k with
  | zero =>
    obtain rfl := List.length_eq_zero_iff.1 (Nat.le_zero.1 hn)
    rfl
  | succ n ih =>
    rw [splitBlocks]
    split
    next h =>
      obtain rfl := List.isEmpty_iff.1 h
      rfl
    next h =>
      have hpos : 0 < l.length := List.length_pos_iff.2 (by simpa using h)
      have hmod := Nat.mod_lt a (show 0 < 64 by decide)
      rw [List.foldl_cons, ih (by rw [List.length_drop]; omega)]
      show writeBytes (writeBytes k.spad a (l.take (64 - a % 64))) _ _ = _
      conv_rhs => rw [← List.take_append_drop (64 - a % 64) l, writeBytes_append]
      obtain hle | hlt := Nat.le_total (64 - a % 64) l.length
      · rw [List.length_take_of_le hle]
      · rw [List.drop_eq_nil_of_le hlt]
        rfl

theorem spad_ownWrite_all (s : State) (a : Nat) (l : List Byte) (p : Bool) :
    ((s.ownWrite a l p).core s.cur).spad = writeBytes (s.core s.cur).spad a l := by
  have hspad : ((s.onCtx fun c => c.markDirty a l.length).core s.cur).spad = (s.core s.cur).spad := (spad_onCtx ..).1
  rw [State.ownWrite, State.writeSpad, State.core_onCore_same, spad_foldl_putSpad p le_rfl]
  exact congrArg (writeBytes · a l) hspad

/-- A poison write marks its first block (R191). -/
theorem mark_ownWrite_poison (s : State) (a : Nat) {l : List Byte} (hl : l ≠ []) : a / 64 ∈ ((s.ownWrite a l true).core s.cur).spadMark := by
  have hfold (b : Nat) (xs : List (Nat × List Byte)) (k : Core) (hk : b ∈ k.spadMark) :
      b ∈ (xs.foldl (fun k x => k.putSpad x.1 x.2 true) k).spadMark :=
    foldl_keeps (P := fun k : Core => b ∈ k.spadMark) _ hk fun k x hk => mem_setIns.2 (.inr hk)
  obtain ⟨n, hn⟩ : ∃ n, l.length = n + 1 := Nat.exists_eq_succ_of_ne_zero fun h => hl (List.length_eq_zero_iff.1 h)
  rw [State.ownWrite, State.writeSpad, State.core_onCore_same, hn, splitBlocks, if_neg (by simpa using hl)]
  dsimp only
  rw [List.foldl_cons]
  exact hfold _ _ _ (mem_setIns.2 (.inl rfl))

/-! ## Steps (R148) -/

section
variable {s : State} {p : Pend} {src : Option VReg} {i ad n : Nat} {rest : List (Nat × Nat)} {got : VReg} {act : BitVec 64}
  (hval : p.val = .long src ((i, ad) :: rest) got act n)
include hval

theorem answer_long (data : BitVec 64) (poison : Bool) : s.answer false p data poison = s.longStep false p := by
  rw [State.answer, hval]

/-- A step with lanes left to do counts on. -/
theorem longStep_more (hrest : rest ≠ []) : s.longStep false p = (s.longLane src i ad got).2.onCtx fun c =>
    c.onRequest p.id fun q => { q with val := .long src rest (s.longLane src i ad got).1 act (n + 1) } := by
  rw [State.longStep, hval]
  dsimp only
  rw [if_neg (by simpa using hrest)]

end

section
variable {s : State} {p : Pend} {src : Option VReg} {i ad n : Nat} {got : VReg} {act : BitVec 64}
  (hval : p.val = .long src [(i, ad)] got act n)
include hval

/-- What the last step of a long form delivers. -/
def longResult (c : Ctx) (p : Pend) (got : VReg) (act : BitVec 64) : VReg :=
  match p.dest with
  | .c r => (c.vec.c[r]).merge got act
  | _ => got

theorem longStep_last : s.longStep false p = (s.longLane src i ad got).2.onCtx fun c =>
    c.completeWith false p (.vec (longResult c p (s.longLane src i ad got).1 act) act) := by
  rw [State.longStep, hval]
  rfl

end

/-- One step of VGATH. -/
theorem vgath_step {s : State} {p : Pend} {i ad n : Nat} {rest : List (Nat × Nat)} {got : VReg} {act data : BitVec 64} {poison : Bool}
    (hreq : s.ctx.request? p.id = some (false, p)) (hbusy : (s.core s.cur).busy = true) (hway : p.way.waiting = false)
    (hsite : p.way.site = none) (hval : p.val = .long none ((i, ad) :: rest) got act n) (herr : (s.core s.cur).spadErr = []) :
    let v := gathered (s.core s.cur) i ad got
    (rest ≠ [] → exec (.loadComplete s.cur p.id data poison) s = .next (s.onCtx fun c =>
      c.onRequest p.id fun q => { q with val := .long none rest v act (n + 1) })) ∧
    (rest = [] → ∀ r, p.dest = .c r → ∃ u : State, exec (.loadComplete s.cur p.id data poison) s = .next u ∧
      u.ctx.task.board = s.ctx.task.board.filter (fun q => q.id ≠ p.id) ∧ u.mem = s.mem ∧
      (∀ e, e ≠ r → u.ctx.vec.c[e] = s.ctx.vec.c[e]) ∧
      ∀ j < 64, lane u.ctx.vec.c[r] j = (if act.getLsbD j then lane v j else lane s.ctx.vec.c[r] j) ∧
        (u.ctx.vec.c[r]).side.getLsbD j = if act.getLsbD j then v.side.getLsbD j else (s.ctx.vec.c[r]).side.getLsbD j) := by
  intro v
  have hlane : s.longLane none i ad got = (v, s) := longLane_gather herr i ad got
  refine ⟨fun hrest => ?_, fun hrest r hdest => ?_⟩
  · have hanswer := (answer_long (s := s) hval data poison).trans (longStep_more hval hrest)
    rw [hlane] at hanswer
    rw [exec_loadComplete hreq hbusy hway hsite (by rw [hanswer]; rfl), hanswer]
  · subst hrest
    have hanswer := (answer_long (s := s) hval data poison).trans (longStep_last hval)
    rw [hlane] at hanswer
    have hvec := vec_completeWith s.ctx hdest (longResult s.ctx p v act) act
    have hmerge : longResult s.ctx p v act = (s.ctx.vec.c[r]).merge v act := by rw [longResult, hdest]
    refine ⟨s.onCtx fun c => c.completeWith false p (.vec (longResult c p v act) act), ?_, ?_, rfl, fun e he => ?_, fun j hj => ?_⟩
    · rw [exec_loadComplete hreq hbusy hway hsite (by rw [hanswer]; rfl), hanswer]
    · rw [State.ctx_onCtx]
      exact board_completeWith ..
    · rw [State.ctx_onCtx, hvec.2 e he]
    · rw [State.ctx_onCtx, hvec.1, hmerge, lane_eq, lane_eq, lane_eq, VReg.lane_merge _ _ _ hj, VReg.side_merge _ _ _ hj]
      exact ⟨rfl, rfl⟩

/-- One step of VSCAT. -/
theorem vscat_step {s : State} {p : Pend} {i ad n : Nat} {rest : List (Nat × Nat)} {got x : VReg} {act data : BitVec 64} {poison : Bool}
    (hreq : s.ctx.request? p.id = some (false, p)) (hbusy : (s.core s.cur).busy = true) (hway : p.way.waiting = false)
    (hsite : p.way.site = none) (hval : p.val = .long (some x) ((i, ad) :: rest) got act n) (hcanon : Canonical s) :
    ∃ u : State, exec (.loadComplete s.cur p.id data poison) s = .next u ∧
      (∀ j, spadByte u s.cur j = if ad ≤ j ∧ j < ad + 4 then BitVec.ofNat 8 ((lane x i).toNat / 256 ^ (j - ad))
        else spadByte s s.cur j) ∧
      (x.side.getLsbD i = true → ad / 64 ∈ (u.core s.cur).spadMark) ∧ u.mem = s.mem ∧
      (∀ e, e ≠ s.cur → (u.core e).spad = (s.core e).spad) ∧
      (rest ≠ [] → u.ctx.task.board = s.ctx.task.board.map fun q =>
        if q.id = p.id then { q with val := .long (some x) rest got act (n + 1) } else q) ∧
      (rest = [] → u.ctx.task.board = s.ctx.task.board.filter fun q => q.id ≠ p.id) := by
  let t := s.ownWrite ad (leBytes 4 (x.lane i).toNat) (x.side.getLsbD i)
  have hlane : s.longLane (some x) i ad got = (got, t) := rfl
  have hlen : (leBytes 4 (x.lane i).toNat).length = 4 := leBytes_length
  have hne : leBytes 4 (x.lane i).toNat ≠ [] := List.length_pos_iff.1 (by omega)
  have hboard : t.ctx.task.board = s.ctx.task.board := by rw [ctx_ownWrite, task_markDirty]
  obtain ⟨f, hf, hmore, hlast⟩ : ∃ f : Ctx → Ctx, s.longStep false p = t.onCtx f ∧
      (rest ≠ [] → (f t.ctx).task.board = t.ctx.task.board.map fun q =>
        if q.id = p.id then { q with val := .long (some x) rest got act (n + 1) } else q) ∧
      (rest = [] → (f t.ctx).task.board = t.ctx.task.board.filter fun q => q.id ≠ p.id) := by
    by_cases hrest : rest = []
    · subst hrest
      exact ⟨_, longStep_last hval, fun h => absurd rfl h, fun _ => board_completeWith ..⟩
    · exact ⟨_, longStep_more hval hrest, fun _ => board_onRequest .., fun h => absurd h hrest⟩
  have hanswer := (answer_long (s := s) hval data poison).trans hf
  refine ⟨t.onCtx f, by rw [exec_loadComplete hreq hbusy hway hsite (by rw [hanswer]; rfl), hanswer], fun j => ?_, fun hbad => ?_, rfl,
    fun e he => (spad_onCtx ..).1.trans ((storeFrame_ownWrite ..).other e he), fun h => ?_, fun h => ?_⟩
  · have hspad : spadByte (t.onCtx f) s.cur j = smGet 0 j (writeBytes (s.core s.cur).spad ad (leBytes 4 (x.lane i).toNat)) := by
      rw [spadByte, (spad_onCtx ..).1, spad_ownWrite_all]
    rw [hspad]
    split
    next hj =>
      obtain ⟨k, rfl⟩ := Nat.exists_eq_add_of_le hj.1
      rw [smGet_writeBytes_in (hcanon.spad _) (by omega), Nat.add_sub_cancel_left, lane_eq]
      simp [leBytes_eq]
    next hj => exact smGet_writeBytes_out (by omega)
  · rw [(spad_onCtx ..).2]
    simp only [t, hbad]
    exact mark_ownWrite_poison s ad hne
  · rw [State.ctx_onCtx, hmore h, hboard]
  · rw [State.ctx_onCtx, hlast h, hboard]

/-- One step of VGATH or VSCAT (R46, R148, R168). -/
theorem longSteps : LongSteps := by
  intro s p i n act ad rest got data poison hi hreq hbusy hway hsite hspec
  refine ⟨fun hval herr => ?_, fun x hval hcanon => vscat_step hreq hbusy hway hsite hval hcanon⟩
  obtain ⟨hmore, hlast⟩ := vgath_step (data := data) (poison := poison) hreq hbusy hway hsite hval herr
  exact ⟨gathered (s.core s.cur) i ad got, (gathered_spec ..).trans hspec, fun j hj hne => gathered_other _ ad got hi hj hne, fun hbad => gathered_bad got hi hbad,
    fun hbad => gathered_good got hi hbad, hmore, hlast⟩

end Sys2Proof.Claims
end

section
/-!
PROOF. VRRD (R169, R277): the request of a ring read, and its value where the row has arrived.
-/

namespace Sys2Proof.Claims
open Sys2Proof.Machine

/-! ## Requests -/

section
variable {s : State} (hin : s.ctx.inHandler = false)
include hin

/-- The context with a request more. -/
theorem await_eq (dest : PDest) (val : PVal) : s.await dest val 0 = s.setCtx { s.ctx with
    task := s.ctx.task.await ⟨s.ctx.nextId, dest, val, 0, false, false, .none, false⟩, nextId := s.ctx.nextId + 1 } := by
  have hthr (f : Thread → Thread) : s.ctx.onThr f = { s.ctx with task := f s.ctx.task } := by
    simp [Ctx.onThr, Ctx.setThr, Ctx.thr, hin]
  rw [State.await, State.onCtx]
  dsimp only
  rw [hthr]

theorem ctx_await (dest : PDest) (val : PVal) : (s.await dest val 0).ctx = { s.ctx with
    task := s.ctx.task.await ⟨s.ctx.nextId, dest, val, 0, false, false, .none, false⟩, nextId := s.ctx.nextId + 1 } := by
  rw [await_eq hin, State.ctx_setCtx]

/-- A request alone on its scoreboard whose value is put. -/
theorem await_put (hboard : s.ctx.task.board = []) (dest : PDest) (val val' : PVal) :
    ((s.await dest val 0).onCtx fun c => { c with task := { c.task with
      board := c.task.board.map fun q => if q.id = s.ctx.nextId then { q with val := val' } else q } }) = s.await dest val' 0 := by
  rw [State.onCtx, ctx_await hin, await_eq hin, await_eq hin, State.setCtx_setCtx]
  simp [Thread.await, hboard]

variable (hboard : s.ctx.task.board = []) {d : Reg} {h : BitVec 4} {k a : Nat} {act : BitVec 64}
include hboard

theorem resolveRings_await (dest : PDest) (val : PVal) : (s.await dest val 0).resolveRings h =
    (s.await dest val 0).resolveRing h ⟨s.ctx.nextId, dest, val, 0, false, false, .none, false⟩ := by
  have hone : (s.await dest val 0).ctx.task.board = [⟨s.ctx.nextId, dest, val, 0, false, false, .none, false⟩] := by
    rw [ctx_await hin]
    simp [Thread.await, hboard]
  rw [State.resolveRings, hone]
  rfl

/-- A ring read whose row has not arrived waits. -/
theorem resolveRings_waits (hfill : (s.ctx.h[fin4 h]).fill.toNat ≤ k) (dest : PDest) :
    (s.await dest (.vring (fin4 h) k a act) 0).resolveRings h = s.await dest (.vring (fin4 h) k a act) 0 := by
  have hnot : ((s.await dest (.vring (fin4 h) k a act) 0).ctx.h[fin4 h]).fill.toNat ≤ k := by rwa [ctx_await hin]
  have hcond : (decide (fin4 h = fin4 h) && decide (k < ((s.await dest (.vring (fin4 h) k a act) 0).ctx.h[fin4 h]).fill.toNat)) = false := by
    rw [decide_eq_false (not_lt.2 hnot), Bool.and_false]
  rw [resolveRings_await hin hboard, State.resolveRing]
  dsimp only
  rw [hcond, if_neg Bool.false_ne_true]

/-- A ring read whose row has arrived has its lanes (R169). -/
theorem resolveRings_arrived (hfill : k < (s.ctx.h[fin4 h]).fill.toNat) (herr : (s.core s.cur).spadErr = []) :
    (s.await (boardC d) (.vring (fin4 h) k a act) 0).resolveRings h =
      s.await (boardC d) (.vec (heldVec s d (loadedReg (s.core s.cur) a) act) act) 0 := by
  let t := s.await (boardC d) (.vring (fin4 h) k a act) 0
  have hctx : t.ctx = { s.ctx with
      task := s.ctx.task.await ⟨s.ctx.nextId, boardC d, .vring (fin4 h) k a act, 0, false, false, .none, false⟩, nextId := s.ctx.nextId + 1 } :=
    ctx_await hin ..
  have hcore : t.core t.cur = { s.core s.cur with ctx := t.ctx } := by
    rw [hctx]
    show (s.await _ _ 0).core s.cur = _
    rw [await_eq hin, State.core_setCtx_cur]
  have hlanes : t.readLanes a = (loadedReg (s.core s.cur) a, t) := by
    rw [readLanes_quiet (by rw [hcore]; exact herr), hcore]
    rfl
  have hcond : (decide (fin4 h = fin4 h) && decide (k < (t.ctx.h[fin4 h]).fill.toNat)) = true := by
    rw [hctx, decide_eq_true rfl, decide_eq_true hfill, Bool.and_true]
  have hvec : t.ctx.vec = s.ctx.vec := by rw [hctx]
  rw [resolveRings_await hin hboard, State.resolveRing]
  dsimp only
  rw [hcond, if_pos rfl, hlanes, hvec,
    ← await_put hin hboard (boardC d) (.vring (fin4 h) k a act) (.vec (heldVec s d (loadedReg (s.core s.cur) a) act) act)]
  show _ = t.onCtx _
  by_cases hd : d.toNat < 16
  · rw [heldVec, dif_pos hd, boardC, dif_pos hd]
  · rw [heldVec, dif_neg hd, boardC, dif_neg hd]

end

/-! ## VRRD (R169) -/

theorem loadedReg_spec (c : Core) (a : Nat) : (loadedReg c a).spec = false := by rw [loadedReg]

section
variable {s : State} {d : Reg} {k : BitVec 3} {h : BitVec 4} {r : Handle} (hin : s.ctx.inHandler = false)
  (hh : s.ctx.h[h.toNat]? = some r) (hrow : r.rowb ≠ 0) (halign : r.rowb.toNat % 16 = 0) (hcursor : r.cursor.toNat % 256 = 0)

theorem fin4_eq (h : BitVec 4) : fin4 h = ⟨h.toNat, h.isLt⟩ := Fin.ext (by simp [fin4])

include hh in
theorem handle_eq : s.ctx.h[fin4 h] = r := by
  obtain ⟨_, hr⟩ := Vector.getElem?_eq_some_iff.1 hh
  exact (congrArg (fun i : Fin 16 => s.ctx.h[i]) (fin4_eq h)).trans hr

include hin hh hrow halign hcursor

/-- VRRD of a handle whose rows and cursor are whole reads the ring. -/
theorem exec_vrrd : exec (.vrrd d k h) s =
    (s.ringRead h 256 (boardC d) fun n a => .vring (fin4 h) n a (s.ctx.vec.active k)).out := by
  have hrb : (r.rowb = 0 || decide (r.rb % 256 ≠ 0) || decide (r.cursor.toNat % 256 ≠ 0)) = false := by
    have hrb : r.rb % 256 = 0 := by unfold Handle.rb; omega
    rw [decide_eq_false hrow, decide_eq_false (not_not.2 hrb), decide_eq_false (not_not.2 hcursor)]
    rfl
  show execVrrd d k h s = _
  rw [execVrrd, handle_eq hh, hrb, State.taskOnly_task hin, if_neg Bool.false_ne_true, pdestC_eq]

theorem vrrd_ends (hend : r.rowsM1.toNat + 1 ≤ r.cursor.toNat / (r.rowb.toNat * 16)) :
    exec (.vrrd d k h) s = .next (traps s 0x0D (h.setWidth 64)) := by
  have hrows : r.rows ≤ r.cursor.toNat / r.rb := hend
  rw [exec_vrrd hin hh hrow halign hcursor, State.ringRead, handle_eq hh, Handle.next]
  dsimp only
  rw [if_pos hrows]
  rfl

variable (hin_ring : r.cursor.toNat / (r.rowb.toNat * 16) < r.rowsM1.toNat + 1)
include hin_ring

theorem vrrd_issues : let n := r.cursor.toNat / (r.rowb.toNat * 16)
    let p := r.base.toNat * 64 + (r.head.toNat + n) % (r.rowsM1.toNat + 1) * (r.rowb.toNat * 16) + r.cursor.toNat % (r.rowb.toNat * 16)
    let u := s.onHandle h fun r => { r with cursor := r.cursor + 256 }
    s.touch p 256 = (.ok (), s) → exec (.vrrd d k h) s =
      .next ((u.await (boardC d) (.vring (fin4 h) n p (s.ctx.vec.active k)) 0).resolveRings h).slotDone := by
  intro n p u htouch
  have hrows : ¬r.rows ≤ r.cursor.toNat / r.rb := not_le.2 hin_ring
  rw [exec_vrrd hin hh hrow halign hcursor, State.ringRead, handle_eq hh, Handle.next]
  dsimp only
  rw [if_neg hrows, show s.touch (r.rowAddr ((r.head.toNat + r.cursor.toNat / r.rb) % r.rows) + r.cursor.toNat % r.rb) 256 = (.ok (), s)
    from htouch]
  rfl

end

/-- VRRD (R169). -/
theorem vrrd_spec {s : State} {d : Reg} {k : BitVec 3} {h : BitVec 4} {r : Handle} (hin : s.ctx.inHandler = false)
    (hh : s.ctx.h[h.toNat]? = some r) (hrow : r.rowb ≠ 0) (halign : r.rowb.toNat % 16 = 0) (hcursor : r.cursor.toNat % 256 = 0)
    (hring : r.cursor.toNat / (r.rowb.toNat * 16) < r.rowsM1.toNat + 1) (hboard : s.thr.board = []) (herr : (s.core s.cur).spadErr = []) :
    let act := s.ctx.vec.active k
    let n := r.cursor.toNat / (r.rowb.toNat * 16)
    let p := r.base.toNat * 64 + (r.head.toNat + n) % (r.rowsM1.toNat + 1) * (r.rowb.toNat * 16) + r.cursor.toNat % (r.rowb.toNat * 16)
    let u := s.onHandle h fun r => { r with cursor := r.cursor + 256 }
    s.touch p 256 = (.ok (), s) →
    (r.fill.toNat ≤ n → exec (.vrrd d k h) s = .next (u.await (boardC d) (.vring ⟨h.toNat, h.isLt⟩ n p act) 0).slotDone) ∧
    (n < r.fill.toNat → ∃ v : VReg, exec (.vrrd d k h) s = .next (u.await (boardC d) (.vec v act) 0).slotDone ∧
      v.spec = false ∧ Keeps s d act v ∧ LoadedLanes s p act v) := by
  intro act n p u htouch
  have hissue := vrrd_issues (d := d) (k := k) hin hh hrow halign hcursor hring htouch
  have hctx : u.ctx = { s.ctx with h := s.ctx.h.set (fin4 h) { s.ctx.h[fin4 h] with cursor := (s.ctx.h[fin4 h]).cursor + 256 } } :=
    State.ctx_onCtx ..
  have hu : u.ctx.inHandler = false := by rw [hctx]; exact hin
  have hub : u.ctx.task.board = [] := by
    rw [hctx]
    simpa [State.thr, Ctx.thr, hin] using hboard
  have hfill : (u.ctx.h[fin4 h]).fill = r.fill := by
    rw [hctx]
    simp [handle_eq hh]
  have hcore : u.core u.cur = { s.core s.cur with ctx := u.ctx } := by
    show (s.onCtx _).core s.cur = _
    rw [State.onCtx, State.core_setCtx_cur]
    rw [hctx]
  refine ⟨fun hle => ?_, fun hlt => ?_⟩
  · rw [hissue, resolveRings_waits hu hub (by rw [hfill]; exact hle), fin4_eq]
  · have hvec : u.ctx.vec = s.ctx.vec := by rw [hctx]
    have harrived := resolveRings_arrived hu hub (d := d) (a := p) (act := act) (h := h) (k := n) (by rw [hfill]; exact hlt) (by rw [hcore]; exact herr)
    refine ⟨heldVec u d (loadedReg (u.core u.cur) p) act, by rw [hissue, ← harrived], ?_, ?_, ?_⟩
    · rw [heldVec_spec, loadedReg_spec]
    · have hkeeps := heldVec_keeps u d (loadedReg (u.core u.cur) p) act
      unfold Keeps at hkeeps ⊢
      rwa [hvec] at hkeeps
    · have hreg : loadedReg (u.core u.cur) p = loadedReg (s.core s.cur) p := by
        rw [hcore]
        rfl
      intro i hi hact
      rw [(heldVec_lane u d _ hi hact).1, (heldVec_lane u d _ hi hact).2, hreg]
      exact loadedLanes_loadedReg s p act i hi hact

end Sys2Proof.Claims
end

section
/-!
PROOF. VATOMADD (R170): the running sums of the lanes, the atomic addition at its home, and the forms without an access. Vector memory
together.
-/

namespace Sys2Proof.Claims
open Sys2Proof.Machine

/-! ## Sums of lanes -/

/-- The sum of the active lanes below a lane. -/
def lanesBelow (y : VReg) (act : BitVec 64) (i : Nat) : Nat :=
  ∑ j ∈ Finset.range i, if act.getLsbD j = true then (lane y j).toNat else 0

/-- One addend more. -/
theorem ofNat_lanesBelow_succ (y : VReg) (act : BitVec 64) (o : BitVec 32) (i : Nat) :
    o + BitVec.ofNat 32 (lanesBelow y act (i + 1)) =
      if act.getLsbD i then o + BitVec.ofNat 32 (lanesBelow y act i) + y.lane i else o + BitVec.ofNat 32 (lanesBelow y act i) := by
  rw [lanesBelow, Finset.sum_range_succ, ← lanesBelow]
  cases act.getLsbD i
  · simp
  · simp [lane_eq, BitVec.ofNat_add, BitVec.add_assoc]

theorem addSum_eq (y : VReg) (act : BitVec 64) : addSum y act = BitVec.ofNat 32 (lanesBelow y act 64) := by
  have hfold (n : Nat) : (List.range n).foldl (fun a i => if act.getLsbD i then a + y.lane i else a) (0 : BitVec 32) =
      0 + BitVec.ofNat 32 (lanesBelow y act n) := by
    induction n with
    | zero => rfl
    | succ n ih => rw [List.range_succ, List.foldl_append, ih, ofNat_lanesBelow_succ]; rfl
  rw [addSum, hfold, zero_add]

/-- The old word with the lanes below added, lane by lane (R170). -/
theorem atomSums_some (y : VReg) (act : BitVec 64) (o : BitVec 32) {i : Nat} (hi : i < 64) :
    lane (atomSums y act (some o)) i = o + BitVec.ofNat 32 (lanesBelow y act i) := by
  have hfold (n : Nat) : (List.range n).foldl (fun (p : BitVec 32 × List (BitVec 32)) i =>
      ((if act.getLsbD i then p.1 + y.lane i else p.1), p.2 ++ [p.1])) (o, []) =
      (o + BitVec.ofNat 32 (lanesBelow y act n), (List.range n).map fun i => o + BitVec.ofNat 32 (lanesBelow y act i)) := by
    induction n with
    | zero => simp [lanesBelow]
    | succ n ih =>
      rw [List.range_succ, List.foldl_append, ih, List.map_append, ofNat_lanesBelow_succ]
      rfl
  rw [lane_eq, atomSums, hfold, VReg.lane_ofFn _ _ _ hi]
  exact getD_map_range _ _ _ hi

theorem atomSums_none (y : VReg) (act : BitVec 64) {i : Nat} (hi : i < 64) (hact : act.getLsbD i = true) :
    lane (atomSums y act none) i = 0 ∧ (atomSums y act none).side.getLsbD i = true := by
  rw [lane_eq, atomSums, VReg.lane_replicate _ _ _ hi]
  exact ⟨rfl, hact⟩

theorem atomSums_spec (y : VReg) (act : BitVec 64) (o : Option (BitVec 32)) : (atomSums y act o).spec = false := by
  cases o <;> rw [atomSums]

theorem atomSums_side (y : VReg) (act : BitVec 64) (o : BitVec 32) : (atomSums y act (some o)).side = 0 := by rw [atomSums]

theorem atomLanes_eq (s : State) (d : Reg) (y : VReg) (act : BitVec 64) (o : Option (BitVec 32)) :
    s.ctx.atomLanes (boardC d) y act o = heldVec s d (atomSums y act o) act := by
  unfold Ctx.atomLanes
  by_cases hd : d.toNat < 16
  · rw [heldVec, dif_pos hd, boardC, dif_pos hd]
  · rw [heldVec, dif_neg hd, boardC, dif_neg hd]

/-! ## Issue -/

section
variable {s : State} {d a b : Reg} {k : BitVec 3} {t : TVal} (hin : s.ctx.inHandler = false) (ht : ScalarC s a true t) (htag : t.tag = 0)
  (halign : t.val.toNat % 4 = 0) (hy : Undeferred (s.ctx.vec.read b) (s.ctx.vec.active k))
include hin ht htag halign hy

theorem exec_vatomadd : exec (.vatomadd d a b k) s = (if s.ctx.vec.active k = 0 then SlotOut.done s
    else match s.xlateRange s.ctx.agent .atomic t.val 4 with
    | (.error e, t) => e.slot t
    | (.ok xs, u) =>
      if (s.ctx.vec.read b).poisonSide &&& s.ctx.vec.active k ≠ 0 then
        u.awaitVec d (atomSums (s.ctx.vec.read b) (s.ctx.vec.active k) none) (s.ctx.vec.active k) false true
      else s.inOrder 0 (homeOf xs) (u.vatomPieces d t.val (s.ctx.vec.read b) (s.ctx.vec.active k) xs)).out := by
  have hpoison : t.poison = false := by simp [TVal.poison, htag]
  show execVatomadd d a b k s = _
  rw [execVatomadd, State.taskOnly_task hin, needsLanes_go (List.forall_mem_singleton.2 hy), needsScalar_go ht (by simp [htag]), hpoison,
    if_neg Bool.false_ne_true, if_neg (not_not.2 halign)]
  rfl

/-- Without an active lane VATOMADD only commits. -/
theorem vatomadd_none (hact : s.ctx.vec.active k = 0) : exec (.vatomadd d a b k) s = .next s.slotDone := by
  rw [exec_vatomadd hin ht htag halign hy, if_pos hact, SlotOut.out_done]

variable (hact : s.ctx.vec.active k ≠ 0) {x : Xlat} {s1 : State} (hx : s.xlateRange s.ctx.agent .atomic t.val 4 = (.ok [(x, 4)], s1))
include hact hx

/-- A poison lane keeps VATOMADD from its access. -/
theorem vatomadd_poison (hbad : ∃ i < 64, (s.ctx.vec.active k).getLsbD i = true ∧ badLane (s.ctx.vec.read b) i = true) :
    let v := heldVec s1 d (atomSums (s.ctx.vec.read b) (s.ctx.vec.active k) none) (s.ctx.vec.active k)
    exec (.vatomadd d a b k) s = .next (s1.await (boardC d) (.vec v (s.ctx.vec.active k)) 0 true).slotDone := by
  intro v
  obtain ⟨i, hi, hacti, hb⟩ := hbad
  have hne : (s.ctx.vec.read b).poisonSide &&& s.ctx.vec.active k ≠ 0 := fun h => by
    have hbit := congrArg (fun m : BitVec 64 => m.getLsbD i) h
    simp [← badLane_eq, hb, hacti] at hbit
  rw [exec_vatomadd hin ht htag halign hy, if_neg hact, hx]
  dsimp only
  rw [if_pos hne, awaitVec_out]

/-- A clean VATOMADD goes to its home (R170, R267). -/
theorem vatomadd_access (hgood : ∀ i < 64, (s.ctx.vec.active k).getLsbD i = true → badLane (s.ctx.vec.read b) i = false) (hfree : Free s 0)
    (hlocal : x.remote = none) : exec (.vatomadd d a b k) s =
      (s1.vatomPieces d t.val (s.ctx.vec.read b) (s.ctx.vec.active k) [(x, 4)]).out := by
  have hzero : (s.ctx.vec.read b).poisonSide &&& s.ctx.vec.active k = 0 := BitVec.eq_of_getLsbD_eq fun i hi => by
    rw [BitVec.getLsbD_and, ← badLane_eq]
    cases hacti : (s.ctx.vec.active k).getLsbD i
    · simp
    · simp [hgood i hi hacti]
  have hhome : homeOf [(x, 4)] = none := by simp [homeOf, hlocal]
  rw [exec_vatomadd hin ht htag halign hy, if_neg hact, hx]
  dsimp only
  rw [if_neg (not_not.2 hzero), hhome, inOrder_go hfree]

end

/-! ## The access at its home (R225, R267, R268) -/

theorem leBytes_mod (n x : Nat) : leBytes n (x % 256 ^ n) = leBytes n x := by
  rw [leBytes_eq, leBytes_eq]
  refine List.map_congr_left fun j hj => BitVec.eq_of_toNat_eq ?_
  have hj : j < n := List.mem_range.1 hj
  rw [BitVec.toNat_ofNat, BitVec.toNat_ofNat, show 2 ^ 8 = 256 from rfl]
  obtain ⟨m, rfl⟩ : ∃ m, n = j + (m + 1) := ⟨n - j - 1, by omega⟩
  rw [Nat.pow_add, Nat.mod_mul_right_div_self, Nat.pow_succ, Nat.mod_mod_of_dvd _ (Dvd.intro_left _ rfl)]

section
variable {s s2 : State} {x : Xlat} {part : PartNum} {l : List Byte} {poison : Bool}
  (h : (homeState s x).readPhys (some part) x.pa 4 (x.pol = 0) = (l, poison, s2))
include h

/-- What an atomic at its home reads, and the new word that it writes where the old one is clean. -/
theorem atomAt_eq (who : Option TaskId) (c : BitVec 64) : s.atomAt who part x 4 (fun old => some (old + c)) =
    (l, poison, if poison then s2 else s2.writePhys who x.pa (leBytes 4 (BitVec.ofNat 64 (leNat l) + c).toNat) false (x.pol = 0)) := by
  have hhome : (if target x.pa = .pool && !x.cached then s.onMem fun m => m.writeBack (blockOf x.pa) else s) = homeState s x := by
    unfold homeState
    by_cases ht : target x.pa = .pool <;> by_cases hp : x.pol = 0 <;> simp [ht, hp, Xlat.cached, blockOf]
  rw [State.atomAt, hhome, show x.cached = decide (x.pol = 0) from rfl, h]
  cases poison <;> rfl

end

theorem untouched_homeState (s : State) (x : Xlat) : Untouched s (homeState s x) := by
  unfold homeState
  split
  · exact Untouched.onMem ..
  · exact Untouched.refl s

theorem thr_onCtx (s : State) {f : Ctx → Ctx} (hf : ∀ c, (f c).thr = c.thr) : (s.onCtx f).thr = s.thr := by
  rw [State.thr, State.ctx_onCtx, hf]
  rfl

/-- The state after an atomic that may have marked its interval irrevocable. -/
theorem irrevocable_facts (t : State) (b : Bool) : let u := if b then t.irrevocable else t
    u.ctx.acks = t.ctx.acks ∧ u.thr = t.thr ∧ u.mem = t.mem ∧ ∀ c, (u.core c).spad = (t.core c).spad := by
  cases b
  · exact ⟨rfl, rfl, rfl, fun _ => rfl⟩
  · show t.irrevocable.ctx.acks = _ ∧ t.irrevocable.thr = _ ∧ t.irrevocable.mem = _ ∧ ∀ c, (t.irrevocable.core c).spad = _
    exact ⟨by rw [State.irrevocable, State.ctx_onCtx], thr_onCtx _ fun _ => rfl, rfl, fun c => (spad_onCtx ..).1⟩

/-- An atomic's request, with what it leaves behind it (R229, R268). -/
theorem awaitAcked_out (t : State) (dest : PDest) (val : PVal) (addr : BitVec 56) (way : Way) (ack : Bool) : ∃ u : State,
    (t.awaitAcked dest val addr way ack).out = .next (u.await dest val addr true false way).slotDone ∧ u.thr = t.thr ∧ u.mem = t.mem ∧
      (∀ c, (u.core c).spad = (t.core c).spad) ∧ Awaits t.ctx u.ctx (if ack then [addr] else []) := by
  cases ack
  · exact ⟨t, rfl, rfl, rfl, fun _ => rfl, by simp [Awaits]⟩
  · refine ⟨t.onCtx fun c => { c with acks := c.acks ++ [⟨c.nextId, addr, way⟩] }, rfl, thr_onCtx _ fun _ => rfl, rfl,
      fun c => (spad_onCtx ..).1, ?_⟩
    rw [State.ctx_onCtx]
    simp [Awaits]

section
variable {s s2 : State} {x : Xlat} {l : List Byte} {poison : Bool} (hlocal : x.remote = none) (hshed : s.shedPieces [(x, 4)] = false)
  (h : (homeState s x).readPhys (some s.ctx.part) x.pa 4 (x.pol = 0) = (l, poison, s2))
include hlocal hshed h

/-- VATOMADD at its home (R170). -/
theorem vatomPieces_local (d : Reg) (v : BitVec 64) (y : VReg) (act : BitVec 64) :
    let t := if poison then s2
      else s2.writePhys (some s.ctx.id) x.pa (leBytes 4 (BitVec.ofNat 64 (leNat l) + (addSum y act).setWidth 64).toNat) false (x.pol = 0)
    let r := heldVec t d (atomSums y act (if poison then none else some (BitVec.ofNat 32 (leNat l)))) act
    s.vatomPieces d v y act [(x, 4)] = (if !poison && externalWrite [(x, 4)] then t.irrevocable else t).awaitAcked (boardC d) (.vec r act)
      (v.setWidth 56) (s.wayOf [(x, 4)] []) (!poison) := by
  intro t r
  rw [State.vatomPieces]
  dsimp only
  rw [hlocal]
  dsimp only
  rw [hshed, if_neg Bool.false_ne_true, atomAt_eq h, pdestC_eq]
  dsimp only
  rw [atomLanes_eq]

/-- What VATOMADD's access at its home leaves, and the request that it makes (R170, R268). -/
theorem vatomPieces_spec (d : Reg) (v : BitVec 64) (y : VReg) (act : BitVec 64) (hlen : l.length = 4) :
    ∃ (u : State) (r : VReg) (way : Way),
      (s.vatomPieces d v y act [(x, 4)]).out = .next (u.await (boardC d) (.vec r act) (v.setWidth 56) true false way).slotDone ∧
      Keeps s d act r ∧ u.thr = s.thr ∧ (∀ c, (u.core c).spad = (s.core c).spad) ∧
      (poison = true → u.mem = s2.mem ∧ Awaits s.ctx u.ctx [] ∧ r.spec = false ∧
        ∀ i < 64, act.getLsbD i = true → lane r i = 0 ∧ r.side.getLsbD i = true) ∧
      (poison = false → r.spec = false ∧ Awaits s.ctx u.ctx [v.setWidth 56] ∧
        u.mem = (s2.writePhys (some s.ctx.id) x.pa
          (leBytes 4 ((spelled 4 (fun j => l.getD j 0) + lanesBelow y act 64) % 2 ^ 32)) false (x.pol = 0)).mem ∧
        ∀ i < 64, act.getLsbD i = true → r.side.getLsbD i = false ∧
          (lane r i).toNat = (spelled 4 (fun j => l.getD j 0) + lanesBelow y act i) % 2 ^ 32) := by
  have hword : leNat l < 2 ^ 32 := by
    have := leNat_lt (l := l)
    rwa [hlen] at this
  have hspelled : spelled 4 (fun j => l.getD j 0) = leNat l := by rw [spelled_getD]; exact Nat.mod_eq_of_lt hword
  have hread : Untouched s s2 := by
    have := Untouched.readPhys (homeState s x) (some s.ctx.part) x.pa 4 (x.pol = 0)
    rw [h] at this
    exact (untouched_homeState s x).trans this
  have hpieces := vatomPieces_local hlocal hshed h d v y act
  extract_lets t r at hpieces
  have hsame : Untouched s t := by
    unfold t
    split
    · exact hread
    · exact hread.trans (Untouched.writePhys ..)
  have hvec : t.ctx.vec = s.ctx.vec := by rw [hsame.ctx]
  obtain ⟨hacks, hthr, hmem, hspad⟩ := irrevocable_facts t (!poison && externalWrite [(x, 4)])
  obtain ⟨u, hout, huthr, humem, huspad, huacks⟩ := awaitAcked_out (if !poison && externalWrite [(x, 4)] then t.irrevocable else t) (boardC d)
    (.vec r act) (v.setWidth 56) (s.wayOf [(x, 4)] []) (!poison)
  have hawaits : Awaits s.ctx u.ctx (if !poison then [v.setWidth 56] else []) := by
    unfold Awaits at huacks ⊢
    rw [huacks, hacks, hsame.ctx]
  have hkeeps : Keeps s d act r := by
    have := heldVec_keeps t d (atomSums y act (if poison then none else some (BitVec.ofNat 32 (leNat l)))) act
    unfold Keeps at this ⊢
    rwa [hvec] at this
  refine ⟨u, r, _, by rw [hpieces, hout], hkeeps, huthr.trans (hthr.trans hsame.thr),
    fun c => (huspad c).trans ((hspad c).trans (by rw [hsame.core])), ?_, ?_⟩ <;> rintro rfl
  · refine ⟨humem.trans hmem, hawaits, (heldVec_spec ..).trans (atomSums_spec ..), fun i hi hact => ?_⟩
    obtain ⟨hlane, hside⟩ := heldVec_lane t d (atomSums y act none) hi hact
    obtain ⟨hz, hs⟩ := atomSums_none y act hi hact
    exact ⟨hlane.trans hz, hside.trans hs⟩
  · refine ⟨(heldVec_spec ..).trans (atomSums_spec ..), hawaits, (humem.trans hmem).trans ?_, fun i hi hact => ?_⟩
    · have hnew : (BitVec.ofNat 64 (leNat l) + (addSum y act).setWidth 64).toNat % 256 ^ 4 = (leNat l + lanesBelow y act 64) % 2 ^ 32 := by
        rw [addSum_eq, BitVec.toNat_add, BitVec.toNat_setWidth, BitVec.toNat_ofNat, BitVec.toNat_ofNat]
        omega
      rw [hspelled, ← hnew, leBytes_mod]
      rfl
    · obtain ⟨hlane, hside⟩ := heldVec_lane t d (atomSums y act (some (BitVec.ofNat 32 (leNat l)))) hi hact
      refine ⟨hside.trans (by rw [atomSums_side]; simp), ?_⟩
      rw [show lane r i = _ from hlane, atomSums_some y act _ hi, hspelled, ← BitVec.ofNat_add, BitVec.toNat_ofNat]

end

/-- VRRD and VATOMADD (R169, R170). -/
theorem vectorRingAndAtomic : VectorRingAndAtomic := by
  intro s d a b k h hin act
  refine ⟨fun r hh hrow halign hcursor => ⟨fun hend => vrrd_ends hin hh hrow halign hcursor hend,
    fun hring hboard htouch herr => vrrd_spec hin hh hrow halign hcursor hring hboard herr htouch⟩, fun t ht htag halign hy =>
    ⟨fun hact => vatomadd_none hin ht htag halign hy hact, fun hact x s1 hx hlocal => ⟨fun hbad => ?_, fun hgood hfree hshed l poison s2 hread hlen => ?_⟩⟩⟩
  · refine ⟨_, vatomadd_poison hin ht htag halign hy hact hx hbad, heldVec_keeps _ _ _ _, (heldVec_spec ..).trans (atomSums_spec ..),
      fun i hi hacti => ?_⟩
    obtain ⟨hlane, hside⟩ := heldVec_lane s1 d (atomSums (s.ctx.vec.read b) act none) hi hacti
    obtain ⟨hz, hs⟩ := atomSums_none (s.ctx.vec.read b) act hi hacti
    exact ⟨hlane.trans hz, hside.trans hs⟩
  · obtain ⟨u, v, way, hout, hrest⟩ := vatomPieces_spec hlocal hshed hread d t.val (s.ctx.vec.read b) act hlen
    exact ⟨u, v, _, way, (vatomadd_access hin ht htag halign hy hact hx hgood hfree hlocal).trans hout, hrest⟩

/-- Settles O28: scratchpad forms by the words that they read and write, long forms at issue and step by step, ring reads and the
aggregated atomic. -/
theorem vectorMemory : Obligations.VectorMemory := ⟨vectorScratchpad, longForms, longSteps, vectorRingAndAtomic⟩

end Sys2Proof.Claims
end

section
/-!
PROOF. Every step keeps the memory's canonical form (O57; R191, R314, R451, R452): the form as a predicate of states, and the
operations of the state that many others are made of. An operation that leaves memory alone keeps it by `congr`; the chains
`h.f.g` follow an operation's own order. The proofs are elaborated one after another: the default of `congr`'s last argument is read
from the declarations before it, and proofs in parallel would each hold a thread while they wait for those.
-/

set_option Elab.async false

namespace Sys2Proof.Machine

/-- The memory of a state is in its canonical form. -/
def State.Formed (s : State) : Prop := Memory.wf s.mem = true

namespace State.Formed

variable {s : State}

/-- The form is a matter of memory alone. -/
theorem congr {t : State} (h : s.Formed) (e : t.mem = s.mem := by rfl) : t.Formed := by unfold State.Formed at h ⊢; rwa [e]

/-- What an operation that answers a result beside its state leaves, where the answer is known. -/
theorem of_eq {α : Type} {x : α × State} {a : α} {t : State} (h : x.2.Formed) (e : x = (a, t)) : t.Formed := by rwa [e] at h
theorem of_eq₂ {α β : Type} {x : α × β × State} {a : α} {b : β} {t : State} (h : x.2.2.Formed) (e : x = (a, b, t)) : t.Formed := by
  rwa [e] at h

theorem foldl {β : Type} {f : State → β → State} {l : List β} (h : s.Formed) (hf : ∀ t b, t.Formed → (f t b).Formed) :
    (l.foldl f s).Formed := foldl_keeps l h hf

/-- Whichever of two states a condition chooses has the form that both have. -/
theorem either {c : Prop} [Decidable c] {t u : State} (ht : t.Formed) (hu : u.Formed) : (if c then t else u).Formed := by
  split
  · exact ht
  · exact hu

variable (h : s.Formed)
include h

/-! ## Shared operations -/

theorem onPhaser {e : BitVec 4} {i : BitVec 12} {f : Phaser → Phaser} : (s.onPhaser e i f).Formed := h.congr
theorem onCore {c : CoreNum} {f : Core → Core} : (s.onCore c f).Formed := h.congr
theorem onCtx {f : Ctx → Ctx} : (s.onCtx f).Formed := h.congr
theorem onPart {p : PartNum} {f : Part → Part} : (s.onPart p f).Formed := h.congr
theorem onTrunk {f : Trunk → Trunk} : (s.onTrunk f).Formed := h.congr
theorem fresh : s.fresh.2.Formed := h.congr
theorem unelide {pa : Nat} : (s.unelide pa).Formed := Memory.wf_unelide h
theorem writePhys {who : Option TaskId} {pa : Nat} {l : List Byte} {p c : Bool} : (s.writePhys who pa l p c).Formed :=
  Memory.wf_writePhys h
theorem enqueue {p : PartNum} {r : List Byte} {t : BitVec 64} : (s.enqueue p r t).Formed := Memory.wf_enqueue h
theorem power {p : PartNum} {r : PowerRec} {b : Bool} : (s.power p r b).Formed := Memory.wf_power h
theorem errRecord {p : Option PartNum} {r : ErrRec} : (s.errRecord p r).Formed := Memory.wf_errRecord h
theorem readPhys {p : Option PartNum} {pa n : Nat} {c : Bool} : (s.readPhys p pa n c).2.2.Formed := Memory.wf_readPhys h
theorem readSpad {c : CoreNum} {a n : Nat} : (s.readSpad c a n).2.2.Formed := Memory.wf_readSpad h
theorem xlateSpan {a : Agent} {k : Kind} {va : BitVec 64} {n : Nat} : (s.xlateSpan a k va n).2.Formed := Memory.wf_xlateSpan h
theorem sendAll {l : List Sent} : (s.sendAll l).Formed := h.congr (s.mem_sendAll l)
theorem readMarked {p : PartNum} {l : List (Xlat × Nat)} : (s.readMarked p l).2.Formed := Memory.wf_readMarked h

/-! ## Leases, phasers, reports -/

theorem regrant {g : GroveNum} : (s.regrant g).Formed := h.foldl fun _ _ ht => either ht.congr ht

theorem endLease {c : CoreNum} {n : Nat} : (s.endLease c n).Formed := either h.congr.power.regrant h

theorem announcePhase {p : Phaser} : (s.announcePhase p).Formed := either h.congr h

theorem cutInstant {p : Phaser} : (s.cutInstant p).Formed := by
  unfold State.cutInstant
  split
  · exact h
  · extract_lets
    exact either h.congr h

theorem tryPhase {e : BitVec 4} {i : BitVec 12} : (s.tryPhase e i).Formed := by
  unfold State.tryPhase
  split
  · exact h
  · extract_lets
    exact either h.announcePhase.congr.cutInstant h.announcePhase

theorem settleGroup {p : PartNum} {g : Nat} : (s.settleGroup p g).Formed := h.foldl fun _ _ ht => ht.tryPhase

theorem dropMember {t : TaskId} {e : BitVec 4} {i : BitVec 12} : (s.dropMember t e i).Formed :=
  h.onPhaser.tryPhase.congr
theorem dropAll {t : TaskId} : (s.dropAll t).Formed := h.foldl fun _ _ ht => ht.dropMember

theorem sendReport {m : BitVec 18} {l : List Byte} : (s.sendReport m l).Formed := by
  unfold State.sendReport
  split
  · exact h.congr
  · exact h

theorem report {l : Launch} {t c : Nat} : (s.report l t c).Formed := by
  unfold State.report
  simp only []
  split
  · exact h.congr.enqueue.sendReport
  · exact h.congr.enqueue

end State.Formed
end Sys2Proof.Machine
end

section
/-!
PROOF. The canonical form, continued: what ends launches and tasks, zeroes ranges and clears keys (R351, R371, R419), and what the
heads of queues read and write.
-/

set_option Elab.async false

namespace Sys2Proof.Machine

theorem Memory.wf_zero {m : Mem} {lo n : Nat} (h : Memory.wf m = true) : Memory.wf (m.zero lo n) = true := by
  obtain ⟨hb, hc, hd, hq⟩ := Memory.wf_iff.1 h
  exact Memory.wf_iff.2 ⟨smWf_smClear hb, smWf_smClear hc, hd, hq⟩

/-- The state that a slot's outcome carries has its memory in canonical form. -/
def SlotOut.Formed : SlotOut → Prop
  | .done s | .trap s _ _ | .stall s _ | .page s _ _ _ => s.Formed

namespace State.Formed

variable {s : State}

theorem onMem {f : Mem → Mem} (h : s.Formed) (hf : ∀ m, Memory.wf m = true → Memory.wf (f m) = true) : (s.onMem f).Formed :=
  hf _ h

theorem asCore {c : CoreNum} {f : State → State} (h : s.Formed) (hf : ∀ t, t.Formed → (f t).Formed) : (s.asCore c f).Formed :=
  (hf _ (h.congr (t := { s with cur := c }))).congr

variable (h : s.Formed)
include h

/-! ## The end of launches and tasks -/

theorem zeroRange {lo n : Nat} : (s.zeroRange lo n).Formed := by
  unfold State.zeroRange
  extract_lets t
  have ht : t.Formed := either h (h.foldl fun _ _ hu => hu.unelide)
  exact (ht.onMem fun _ => Memory.wf_zero).congr

theorem clearRange {p : PartNum} {i : Fin 16} : (s.clearRange p i).Formed := by
  unfold State.clearRange
  split
  · exact h
  · exact (h.onMem fun _ => Memory.wf_zero).congr

theorem clearKeys {p : PartNum} {f : BitVec 32 → Bool} : (s.clearKeys p f).Formed := by
  refine h.congr.foldl fun t n ht => ?_
  extract_lets
  split
  · exact either ht.clearRange ht
  · exact ht

theorem launchEnd {p : PartNum} {l : BitVec 32} {c : Nat} : (s.launchEnd p l c).Formed := by
  unfold State.launchEnd
  split
  · exact h
  · extract_lets _ _ t
    have ht : t.Formed := h.congr
    exact ht.report.clearKeys

theorem taskEnded {t : TaskId} {b : Bool} : (s.taskEnded t b).Formed := by
  unfold State.taskEnded
  extract_lets _ _ u v
  have hv : v.Formed := h.congr
  split
  · exact either hv.launchEnd hv
  · exact hv

theorem endTask {c : CoreNum} {b : Bool} : (s.endTask c b).Formed := either h.congr h.endLease.dropAll.congr.taskEnded

theorem loseTask {c : CoreNum} {n m : Nat} : (s.loseTask c n m).Formed := h.errRecord.endTask

theorem savedLease {x : Task} : (s.savedLease x).Formed := either h.power h

theorem endSaved {t : TaskId} {b : Bool} : (s.endSaved t b).Formed := by
  unfold State.endSaved
  split
  · exact h
  · exact h.savedLease.dropAll.taskEnded

theorem reap {c : CoreNum} : (s.reap c).Formed := either h.endTask h

theorem killLaunch {p : PartNum} {l : BitVec 32} {c : Nat} : (s.killLaunch p l c).Formed := by
  unfold State.killLaunch
  extract_lets _ _ s1 s2 runs s3 s4
  have h2 : s2.Formed := h.congr.foldl fun _ _ ht => ht.endLease.dropAll.congr
  clear_value s2
  have h3 : s3.Formed := h2.foldl fun _ _ ht => ht.savedLease.dropAll
  clear_value s3
  exact either (launchEnd h3.congr) h3.congr

/-! ## Scratchpads and the spaces of queues -/

theorem spadMarked {c : CoreNum} {a n : Nat} : (s.spadMarked c a n).2.Formed := h.readSpad
theorem putMarked {c : CoreNum} {a : Nat} {l : List (Byte × Bool)} : (s.putMarked c a l).Formed :=
  h.foldl fun _ _ ht => ht.congr
theorem writeMarked {who : Option TaskId} {xs : List (Xlat × Nat)} {l : List (Byte × Bool)} : (s.writeMarked who xs l).Formed :=
  Memory.wf_writeMarked h

theorem spaceRead {sp : BitVec 4} {a : BitVec 64} {n : Nat} {l : List (Byte × Bool)} : (s.spaceRead sp a n l).2.Formed := by
  unfold State.spaceRead
  split
  · split
    · exact h
    · exact h.spadMarked
  · split
    · split
      · exact h
      · split
        · exact h
        · exact h.spadMarked
    · exact h
  · split
    next e => exact h.xlateSpan.of_eq e
    next e =>
      have hx := h.xlateSpan.of_eq e
      split
      · exact hx
      · split
        · exact hx.sendAll
        · exact hx.readMarked
  · simp only []
    split
    · exact h
    · exact h

theorem spaceWrite {sp : BitVec 4} {a : BitVec 64} {l : List (Byte × Bool)} {b : List Nat} : (s.spaceWrite sp a l b).2.Formed := by
  unfold State.spaceWrite
  split
  · split
    · exact h
    · exact h.putMarked
  · split
    · split
      · exact h
      · split
        · exact h
        · simp only []
          split
          · exact h.putMarked
          · exact h.putMarked.congr
    · exact h
  · split
    next e => exact h.xlateSpan.of_eq e
    next e =>
      have hx := h.xlateSpan.of_eq e
      split
      · exact hx
      · simp only []
        split
        · exact hx.writeMarked.congr
        · exact hx.writeMarked
  · simp only []
    split
    · exact h
    · exact h.congr

/-! ## Heads of queues -/

theorem endHead {i : Fin 16} {x : BitVec 4} : (s.endHead i x).Formed := h.congr

theorem failHead {i : Fin 16} {u : UStop} {a : BitVec 64} : (s.failHead i u a).Formed := by
  cases u with
  | held => exact h.congr
  | fail _ => exact h.congr.endHead

theorem readKey {i : Fin 16} : (s.readKey i).Formed := by
  unfold State.readKey
  split
  · exact either h.congr h
  · exact h

theorem putUnit {i : Fin 16} {e : QEntry} {l : List (Byte × Bool)} : (s.putUnit i e l).Formed := by
  unfold State.putUnit
  split
  · exact h.endHead
  · split
    next e => exact (h.spaceWrite.of_eq e).failHead
    next e =>
      have hw := h.spaceWrite.of_eq e
      extract_lets
      exact either hw.congr.endHead hw.congr

theorem collFinish {i : Fin 16} {e : QEntry} {c : CollInfo} : (s.collFinish i e c).Formed := h.congr

omit h in
theorem putRest {n : Nat} {i : Fin 16} (h : s.Formed) : (State.putRest n i s).Formed := by
  induction n generalizing s with
  | zero => exact h
  | succ n ih =>
    unfold State.putRest
    split
    · split
      · exact either h (ih h.putUnit)
      · exact h
    · exact h

theorem collWithdraw {i : Fin 16} {e : QEntry} {c : CollInfo} : (s.collWithdraw i e c).Formed :=
  .either h.putRest (either h.collFinish.putRest h.congr)

theorem queueStop {i : Fin 16} : (s.queueStop i).Formed := by
  unfold State.queueStop
  split
  · split
    · exact h
    · split
      · exact either h.putRest h.congr
      · exact either h.putRest h.congr
      · split
        · exact either h.collWithdraw h
        · exact h
      · exact h
  · exact h

theorem queuesStop : s.queuesStop.Formed := h.foldl fun _ _ ht => ht.queueStop

theorem writeImage {lo n : Nat} {c : Ctx} {f : Nat} {sp : SMap Byte} {m : List Nat} : (s.writeImage lo n c f sp m).Formed :=
  h.congr.zeroRange.foldl fun _ _ ht => ht.writePhys

end State.Formed
end Sys2Proof.Machine
end

section
/-!
PROOF. The canonical form, continued: ring rows, accesses performed when they answer, stops, traps, the ends of slots; hence the
outcome of a slot keeps the form where the state that it carries has it (R66, R426).
-/

set_option Elab.async false

namespace Sys2Proof.Machine

namespace State.Formed

variable {s : State}

section
variable (h : s.Formed)
include h

theorem readPieces {p : PartNum} {l : List (Xlat × Nat)} : (s.readPieces p l).2.2.Formed := Memory.wf_readPieces h

/-! ## Rows and rings -/

theorem readLanes {a : Nat} : (s.readLanes a).2.Formed := h.readSpad

theorem resolveRing {i : BitVec 4} {p : Pend} : (s.resolveRing i p).Formed := by
  unfold State.resolveRing
  extract_lets
  split
  · split
    · exact h.readSpad.congr
    · exact h
  · split
    · simp only []
      split
      · exact h.readLanes.congr
      · exact h.readLanes.congr
    · exact h
  · exact h

theorem resolveRings {i : BitVec 4} : (s.resolveRings i).Formed := h.foldl fun _ _ ht => ht.resolveRing

omit h in
theorem writeRow {l : List (Nat × List Byte)} {m : List Bool} (h : s.Formed) : (s.writeRow l m).Formed := by
  induction l generalizing s m with
  | nil => exact h
  | cons x t ih => exact ih (s := s.writeSpad s.cur x.1 x.2 _) h.congr

theorem rowArrives {i : BitVec 4} : (s.rowArrives i).Formed := by
  unfold State.rowArrives
  extract_lets
  split
  · split
    · exact h.writeRow.congr.resolveRings
    · exact h
  · exact h

theorem rowsArrive : s.rowsArrive.Formed := h.foldl fun t n ht => by
  extract_lets
  split
  · exact ht.foldl fun _ _ hu => hu.rowArrives
  · exact ht

/-! ## Accesses performed when they answer -/

theorem atomAt {who : Option TaskId} {p : PartNum} {x : Xlat} {n : Nat} {f : BitVec 64 → Option (BitVec 64)} :
    (s.atomAt who p x n f).2.2.Formed := by
  unfold State.atomAt
  extract_lets t
  have ht : t.Formed := by
    simp only [t]
    split
    · exact h.onMem fun _ => Memory.wf_writeBack
    · exact h
  simp only []
  split
  · exact ht.readPhys.writePhys
  · exact ht.readPhys

theorem atomSpad {c : CoreNum} {a n : Nat} {f : BitVec 64 → Option (BitVec 64)} : (s.atomSpad c a n f).2.2.Formed := by
  unfold State.atomSpad
  simp only []
  split
  · exact either h.readSpad.congr h.readSpad.congr
  · exact h.readSpad

theorem atomPlace {p : Place} {f : Nat → BitVec 64 → Option (BitVec 64)} : (s.atomPlace p f).2.2.Formed := by
  unfold State.atomPlace
  extract_lets
  split
  · exact h.atomAt
  · exact h
  · exact h.atomSpad

theorem performAt {p : Pend} {l : Place} {a : Access} : (s.performAt p l a).2.Formed := by
  unfold State.performAt
  extract_lets
  split
  · cases l with
    | memory => exact h.readPieces
    | spad => exact h.readSpad
  · exact h.atomPlace
  · exact h.atomPlace

theorem drainOne {n : Nat} : (s.drainOne n).Formed := by
  unfold State.drainOne
  split
  · split
    · exact either h.congr h.congr
    · split
      · exact h.congr
      · exact h.congr
      · exact h.performAt.congr
      · exact either h.congr h
  · exact h

theorem drainLoads : s.drainLoads.Formed := h.foldl fun _ _ ht => ht.drainOne

/-! ## Stops -/

theorem saveStatus {t : TaskId} {x : TStatus} : (s.saveStatus t x).2.Formed := by
  unfold State.saveStatus
  extract_lets
  split
  · exact h
  · exact h.errRecord

theorem saveMarks {c : CoreNum} : (s.saveMarks c).2.Formed := h.foldl fun _ _ ht => ht.errRecord

theorem saveFrame {c : Ctx} {p : Bool} {sp : SMap Byte} {m : List Nat} : (s.saveFrame c p sp m).Formed :=
  either h h.writeImage

theorem finishSave {c : CoreNum} {x : TStatus} : (s.finishSave c x).Formed := by
  unfold State.finishSave
  simp only []
  exact h.saveStatus.saveMarks.saveFrame.congr.regrant

theorem stop {c : CoreNum} {x : TStatus} : (s.stop c x).Formed := by
  unfold State.stop
  extract_lets _ st t
  have ht : t.Formed := h.asCore fun _ hu => hu.rowsArrive.drainLoads.queuesStop
  clear_value t
  exact either h (.either h.endTask (either ht.congr ht.finishSave))

theorem saveDone {c : CoreNum} : (s.saveDone c).Formed := either h.finishSave h

theorem pageStop {va : BitVec 56} {k : Kind} {l : BitVec 2} : (s.pageStop va k l).Formed := h.congr.enqueue.stop

/-! ## Traps and the end of a slot -/

theorem takeTrap {n : BitVec 2} {c : BitVec 8} {d : BitVec 64} : (s.takeTrap n c d).Formed := by
  unfold State.takeTrap
  extract_lets _ _ _ t
  have ht : t.Formed := h.congr
  exact .either h.loseTask (either ht.loseTask (.either (either ht.loseTask ht.congr.stop) (either ht.loseTask ht.congr)))

theorem trapAt {n : BitVec 2} {c : BitVec 8} {d : BitVec 64} : (s.trapAt n c d).Formed := either h.endTask h.takeTrap

theorem expireLease {c : CoreNum} : (s.expireLease c).Formed := either h.endLease h

theorem slotDone : s.slotDone.Formed := by
  unfold State.slotDone
  extract_lets
  split
  · exact h
  · exact either h.congr (.either h.congr.reap (either h.congr.loseTask h.congr.expireLease.reap))

end
end State.Formed

/-! ## Outcomes of slots -/

/-- However a slot's outcome leaves the machine, memory has its form there (R66). -/
theorem SlotOut.Formed.fin {o : SlotOut} (h : o.Formed) : o.fin.Formed := by
  cases o with
  | done s => exact State.Formed.slotDone h
  | trap s c d => exact State.Formed.trapAt h
  | stall s w => exact State.Formed.congr h
  | page s va k l => exact State.Formed.pageStop h

theorem SlotOut.Formed.either {c : Prop} [Decidable c] {o k : SlotOut} (ho : o.Formed) (hk : k.Formed) :
    (if c then o else k).Formed := by
  split
  · exact ho
  · exact hk

/-- The state that an outcome of an instruction or a step answers has its memory in canonical form. -/
def Out.Formed (o : Out) : Prop := ∀ t, o = .next t → t.Formed

theorem Out.Formed.next {s : State} (h : s.Formed) : Out.Formed (.next s) := fun _ e => Host.Outcome.next.inj e ▸ h

theorem SlotOut.Formed.out {o : SlotOut} (h : o.Formed) : o.out.Formed := Out.Formed.next h.fin

namespace State.Formed

variable {s : State} (h : s.Formed)
include h

theorem taskForm {o : SlotOut} (ho : o.Formed) : (s.taskForm o).Formed := by
  unfold State.taskForm
  split
  · split
    · exact .either ho h
    · exact h
  · exact ho

theorem taskOnly {o : SlotOut} (ho : o.Formed) : (s.taskOnly o).Formed := (h.taskForm ho).out

theorem slot {e : Stop} : (e.slot s).Formed := by
  cases e <;> exact h

theorem inOrder {c : BitVec 3} {m : Option (BitVec 18)} {o : SlotOut} (ho : o.Formed) : (s.inOrder c m o).Formed :=
  .either h ho

theorem orderWait {o : SlotOut} (e : s.orderWait = some o) : o.Formed := by
  unfold State.orderWait at e
  extract_lets at e
  split at e
  · exact Option.some.inj e ▸ h.congr
  · split at e
    · exact Option.some.inj e ▸ h.congr
    · split at e
      · exact Option.some.inj e ▸ h
      · exact absurd e (by simp)

theorem satisfy {p : PartNum} {l : BitVec 32} : (s.satisfy p l).Formed := either h h.congr

theorem refuse {p : PartNum} {q : BitVec 4} {k : Packet} {c : Nat} {x : Kernel} : (s.refuse p q k c x).Formed := h.report.satisfy

end State.Formed
end Sys2Proof.Machine
end

section
/-!
PROOF. The canonical form, continued: the heads of launch queues, severed requests (R314), the checks and results that slots share,
and the map units (R210, R282-R284).
-/

set_option Elab.async false

namespace Sys2Proof.Machine

namespace State.Formed

variable {s : State}

/-! ## Launch queues, ends of launches, routes -/

theorem checkHead {n : Nat} {p : PartNum} {q : BitVec 4} (h : s.Formed) : (State.checkHead n p q s).Formed := by
  induction n generalizing s with
  | zero => exact h
  | succ n ih =>
    unfold State.checkHead
    split
    · exact h
    · split
      · exact h
      · simp only []
        exact either h.congr (ih h.congr.refuse)

section
variable (h : s.Formed)
include h

theorem headCheck {p : PartNum} {q : BitVec 4} : (s.headCheck p q).Formed := h.checkHead

theorem acceptPacket {p : PartNum} {q : BitVec 4} {l : List Byte} {r : Route} : (s.acceptPacket p q l r).Formed := by
  unfold State.acceptPacket
  simp only []
  exact either h.congr.refuse h.congr.headCheck

theorem written {w : Writer} {ok : Bool} {t : State} (ht : t.Formed) : (s.written w ok t).Formed :=
  .either h.congr (either ht h)

theorem endLaunches {p : PartNum} {c : Nat} : (s.endLaunches p c).Formed := h.congr.foldl fun _ _ ht => by
  split
  · exact ht.report
  · exact ht.killLaunch

theorem enterError {p : PartNum} : (s.enterError p).Formed := h.onPart.endLaunches.onPart

theorem unlessLocked {p : PartNum} {t : State} (ht : t.Formed) : (s.unlessLocked p t).Formed := either h.enterError ht

theorem writeModid {v : BitVec 32} : (s.writeModid v).Formed := either h h.congr

theorem severRequest {c : CoreNum} {n : Nat} : (s.severRequest c n).Formed := by
  unfold State.severRequest
  extract_lets
  split
  · exact h.congr.power
  · exact h

theorem severCore {c : CoreNum} : (s.severCore c).Formed := by
  unfold State.severCore
  extract_lets _ l t
  have ht : t.Formed := h.foldl fun _ _ hu => hu.severRequest
  clear_value t
  exact ht.congr

theorem sharerWrite {b : Nat} {w : Option (BitVec 6 × List (BitVec 8))} : (s.sharerWrite b w).Formed := by
  unfold State.sharerWrite
  split
  · exact h
  · exact (h.onMem fun _ => Memory.wf_putBlock).congr

theorem writePoolq {v : BitVec 64} : (s.writePoolq v).Formed := either h (.either h.congr (either h.congr h.congr))

/-! ## Checks and results of slots -/

theorem needs {l : List (Reg × TVal)} {o : SlotOut} (ho : o.Formed) : (s.needs l o).Formed := by
  unfold State.needs
  split
  · exact h
  · exact ho

theorem needsClean {c : BitVec 8} {l : List (Reg × TVal)} {o : SlotOut} (ho : o.Formed) : (s.needsClean c l o).Formed := by
  unfold State.needsClean
  refine h.needs ?_
  split
  · exact h
  · exact ho

theorem land {n : Nat} {d : LDest} {v : LVal} {f : BitVec 7} {m : Bool} : (s.land n d v f m).Formed := h.congr
theorem putA {n : Nat} {d : Reg} {v : TVal} {f : BitVec 7} : (s.putA n d v f).Formed := h.land
theorem putB {n : Nat} {d : Reg} {v : TVal} : (s.putB n d v).Formed := h.land
theorem putD {n : Nat} {d : Reg} {v : TVal} : (s.putD n d v).Formed := h.land
theorem putC {n : Nat} {d : Reg} {v : VReg} {m : BitVec 64} {f : BitVec 7} : (s.putC n d v m f).Formed := h.land
theorem putK {n : Nat} {d : Reg} {m : BitVec 64} {f : BitVec 7} : (s.putK n d m f).Formed := h.land
theorem putTile {n : Nat} {d : Reg} {v : LVal} {f : BitVec 7} {m : Bool} : (s.putTile n d v f m).Formed := h.land

theorem intA1 {n : Nat} {d a : Reg} {f : BitVec 64 → BitVec 64} : (s.intA1 n d a f).Formed := h.needs h.putA
theorem intA2 {n : Nat} {d a b : Reg} {f : BitVec 64 → BitVec 64 → BitVec 64} : (s.intA2 n d a b f).Formed := h.needs h.putA
theorem intA3 {n : Nat} {d a b : Reg} {f : BitVec 64 → BitVec 64 → BitVec 64 → BitVec 64} : (s.intA3 n d a b f).Formed :=
  h.needs h.putA
theorem fpA1 {f : FFmt} {d a : Reg} {g : Nat → FRes} : (s.fpA1 f d a g).Formed := h.needs h.putA
theorem fpA2 {f : FFmt} {d a b : Reg} {g : FVal → FVal → FRes} : (s.fpA2 f d a b g).Formed := h.needs h.putA
theorem fpA3 {f : FFmt} {d a b : Reg} {g : FVal → FVal → FVal → FRes} : (s.fpA3 f d a b g).Formed := h.needs h.putA
theorem fpCmp {f : FFmt} {d a b : Reg} {x : Bool} {g : FVal → FVal → Bool} : (s.fpCmp f d a b x g).Formed := h.needs h.putA

theorem checkLocal {a n k : Nat} {o : SlotOut} (ho : o.Formed) : (s.checkLocal a n k o).Formed := .either h (.either h ho)

end

/-! ## Maps -/

theorem xlateBlocks {a : Agent} {k : Kind} {l : List (Nat × BitVec 64)} (h : s.Formed) : (s.xlateBlocks a k l).2.Formed := by
  induction l generalizing s with
  | nil => exact h
  | cons x t ih =>
    unfold State.xlateBlocks
    split
    next e => exact h.xlateSpan.of_eq e
    next e =>
      have ht := ih (h.xlateSpan.of_eq e)
      split
      next e' => exact ht.of_eq e'
      next e' => exact ht.of_eq e'

theorem fillBlocks {p : PartNum} {b : Nat} {l : List (Nat × List (Xlat × Nat))} (h : s.Formed) : (s.fillBlocks p b l).Formed := by
  induction l generalizing s with
  | nil => exact h
  | cons x t ih => exact ih h.readPieces.congr

theorem fillGranule {i : Fin 16} {d : MapDesc} {g : Nat} (h : s.Formed) : (s.fillGranule i d g).2.Formed := by
  unfold State.fillGranule
  split
  · exact h
  · split
    next e => exact h.xlateBlocks.of_eq e
    next e =>
      have hx := h.xlateBlocks.of_eq e
      split
      · exact h
      · exact hx.fillBlocks.congr

theorem touchAll {l : List Nat} (h : s.Formed) : (s.touchAll l).2.Formed := by
  induction l generalizing s with
  | nil => exact h
  | cons a t ih =>
    unfold State.touchAll
    split
    · exact ih h
    · split
      · exact ih h
      · split
        next e => exact h.fillGranule.of_eq e
        next e => exact ih (h.fillGranule.of_eq e)

theorem writePieces {who : Option TaskId} {b g : Bool} {l : List (Xlat × Nat)} {d : List Byte} (h : s.Formed) :
    (s.writePieces who b g l d).Formed := Memory.wf_writePieces h

section
variable (h : s.Formed)
include h

theorem touch {a n : Nat} : (s.touch a n).2.Formed := h.touchAll

theorem walk {a : Agent} {k : Kind} {va : BitVec 56} : (s.walk a k va).2.Formed :=
  State.Formed.congr (s := (s.walkTables a k va).2) (Memory.wf_walkTables h) (s.mem_walk a k va)

theorem mapProt {va : BitVec 64} : (s.mapProt va).2.Formed := by
  unfold State.mapProt
  split
  next e => exact h.walk.of_eq e
  next e => exact (h.walk.of_eq e).congr

theorem readyWrite {a n : Nat} : (s.readyWrite a n).2.Formed := by
  unfold State.readyWrite
  split
  next e => exact h.touch.of_eq e
  next e =>
    split
    · exact (h.touch.of_eq e).mapProt
    · exact h.touch.of_eq e

theorem ownWrite {a : Nat} {l : List Byte} {p : Bool} : (s.ownWrite a l p).Formed := h.congr

theorem localRead {a n : Nat} : (s.localRead a n).2.Formed := by
  unfold State.localRead
  split
  next e => exact h.touch.of_eq e
  next e => exact (h.touch.of_eq e).readSpad

theorem localWrite {a : Nat} {l : List Byte} {p : Bool} : (s.localWrite a l p).2.Formed := by
  unfold State.localWrite
  split
  next e => exact h.readyWrite.of_eq e
  next e => exact (h.readyWrite.of_eq e).ownWrite

theorem addAcks {g : Bool} {c : BitVec 3} {p : Bool} {va : BitVec 64} {l : List (Xlat × Nat)} {d : List Byte} :
    (s.addAcks g c p va l d).Formed := either h.congr h

theorem writeBackBlock {i : Fin 16} {d : MapDesc} {g b : Nat} : (s.writeBackBlock i d g b).2.Formed := by
  unfold State.writeBackBlock
  extract_lets
  split
  next e => exact h.xlateSpan.of_eq e
  next e =>
    simp only []
    split
    · exact (h.xlateSpan.of_eq e).readSpad.writePieces.addAcks.congr
    · exact (h.xlateSpan.of_eq e).readSpad.writePieces.addAcks.congr

omit h in
theorem writeBackList {i : Fin 16} {d : MapDesc} {l : List (Nat × Nat)} (h : s.Formed) : (s.writeBackList i d l).2.Formed := by
  induction l generalizing s with
  | nil => exact h
  | cons x t ih =>
    unfold State.writeBackList
    split
    next e => exact h.writeBackBlock.of_eq e
    next e => exact ih (h.writeBackBlock.of_eq e)

theorem writeBackMap {i : Fin 16} : (s.writeBackMap i).2.Formed := by
  unfold State.writeBackMap
  split
  · exact h
  · extract_lets
    split
    · exact h
    · exact h.writeBackList

omit h in
theorem writeBackMaps {l : List (Fin 16)} (h : s.Formed) : (s.writeBackMaps l).2.Formed := by
  induction l generalizing s with
  | nil => exact h
  | cons i t ih =>
    unfold State.writeBackMaps
    split
    next e => exact h.writeBackMap.of_eq e
    next e => exact ih (h.writeBackMap.of_eq e)

end
end State.Formed
end Sys2Proof.Machine
end

section
/-!
PROOF. The canonical form, continued: invalidation and migration (R402, R405, R406), the shared forms of slots C and D, phasers,
rings and windows.
-/

set_option Elab.async false

namespace Sys2Proof.Machine

namespace State.Formed

variable {s : State}

section
variable (h : s.Formed)
include h

/-! ## Invalidation and migration -/

theorem writeHome {t : TaskId} {k : Core} {b : Nat} {g : Granule} : (s.writeHome t k b g).Formed :=
  h.foldl fun _ _ ht => ht.writePieces

theorem flushMaps {v : Inval} {t : TaskId} {k : Core} {m : Vector MapUnit 16} : (s.flushMaps v t k m).Formed :=
  h.foldl fun _ _ ht => by
    split
    · exact ht
    · exact ht.foldl fun _ _ hu => hu.writeHome

theorem invalidateContexts {p : PartNum} {v : Inval} : (s.invalidateContexts p v).Formed := by
  unfold State.invalidateContexts
  extract_lets _ t _ _ u
  have ht : t.Formed := h.foldl fun _ _ hv => hv.flushMaps.onCore
  clear_value t
  have hu : u.Formed := ht.foldl fun _ _ hv => hv.flushMaps
  clear_value u
  exact hu.congr

theorem plainRecord {p : PartNum} {r : ErrRec} : (s.plainRecord p r).Formed := h.congr.enqueue

theorem migLeaf {p : PartNum} : (s.migLeaf p).2.Formed := by
  unfold State.migLeaf
  split
  next e => exact h.walk.of_eq e
  next e => exact h.walk.of_eq e

theorem writeMigctl {p : PartNum} {v : BitVec 64} : (s.writeMigctl p v).Formed := by
  unfold State.writeMigctl
  extract_lets _ t
  have ht : t.Formed := h.congr
  split
  · exact ht
  · split
    next e => exact (ht.migLeaf.of_eq e).congr
    next e =>
      extract_lets
      exact either (ht.migLeaf.of_eq e).congr (ht.migLeaf.of_eq e).congr

omit h in
theorem copyFrame {p : PartNum} {a b n : Nat} (h : s.Formed) : (s.copyFrame p a b n).Formed := by
  induction n with
  | zero => exact h
  | succ n ih => exact ih.readPhys.writePhys

theorem migAbort {p : PartNum} {m : Migration} {r : BitVec 4} : (s.migAbort p m r).Formed := h.congr.writePhys.plainRecord

/-! ## Forms of slots C and D -/

theorem needsLanes {l : List VSrc} {o : SlotOut} (ho : o.Formed) : (s.needsLanes l o).Formed := by
  unfold State.needsLanes
  split
  · exact h
  · exact ho

theorem vecOut {n : Nat} {d : Reg} {m : BitVec 64} {l : List VSrc} {f : Nat → LaneRes} : (s.vecOut n d m l f).Formed :=
  h.needsLanes h.putC
theorem elemForm {t : VTy} {n : Nat} {d : Reg} {k : BitVec 3} {l : List Reg} {f : List Nat → FRes} :
    (s.elemForm t n d k l f).Formed := h.vecOut

theorem needsScalar {r : Reg} {w : Bool} {k : TVal → SlotOut} (hk : ∀ v, (k v).Formed) : (s.needsScalar r w k).Formed :=
  .either h (hk _)

theorem matTrap {n : Nat} {r : Reg} : (s.matTrap n r).Formed := h

theorem matLimits {l : List Reg} {w : List (BitVec 2)} {o : SlotOut} (ho : o.Formed) : (s.matLimits l w o).Formed := by
  unfold State.matLimits
  extract_lets
  split
  · exact h.matTrap
  · exact .either h.matTrap (.either h ho)

theorem matRoom {d : Reg} {o : SlotOut} (ho : o.Formed) : (s.matRoom d o).Formed := .either h.matTrap ho

theorem matSource {a : Reg} {k : Tile → SlotOut} (hk : ∀ t, (k t).Formed) : (s.matSource a k).Formed :=
  .either h.matTrap (hk _)

theorem imageRead {a n : Nat} : (s.imageRead a n).2.Formed := by
  unfold State.imageRead
  split
  next e => exact h.touch.of_eq e
  next e => exact (h.touch.of_eq e).readSpad

theorem withImage {r : Reg} {n : Nat} {c : State → SlotOut → SlotOut} {k : State → Option (List (Byte × Bool)) → SlotOut}
    (hc : ∀ o : SlotOut, o.Formed → (c s o).Formed) (hk : ∀ t l, t.Formed → (k t l).Formed) : (s.withImage r n c k).Formed := by
  unfold State.withImage
  extract_lets
  refine h.needs ?_
  split
  · exact hc _ (hk _ _ h)
  · refine h.checkLocal (hc _ ?_)
    split
    · exact h
    · refine h.inOrder ?_
      split
      next e => exact (h.imageRead.of_eq e).slot
      next e => exact hk _ _ (h.imageRead.of_eq e)

/-! ## Phasers -/

theorem phTrap {r : BitVec 4} {x : BitVec 32} : (s.phTrap r x).Formed := h

theorem withPhaser {x : BitVec 32} {k : Phaser → SlotOut} (hk : ∀ p, (k p).Formed) : (s.withPhaser x k).Formed := by
  unfold State.withPhaser
  split
  · exact h.phTrap
  · exact .either h.phTrap (.either h.phTrap (hk _))

theorem phaserForm {a : Reg} {k : Phaser → SlotOut} (hk : ∀ p, (k p).Formed) : (s.phaserForm a k).Formed :=
  h.needsClean (h.withPhaser hk)

theorem memberForm {a : Reg} {f : BitVec 2 → Bool} {k : Phaser → Member → SlotOut} (hk : ∀ p m, (k p m).Formed) :
    (s.memberForm a f k).Formed := h.phaserForm fun p => by
  split
  · exact .either (hk _ _) h.phTrap
  · exact h.phTrap

theorem signalMember {p : Phaser} {t : TaskId} : (s.signalMember p t).Formed := h.onPhaser.tryPhase

theorem signalThen {p : Phaser} {k : State → SlotOut} (hk : ∀ t, t.Formed → (k t).Formed) : (s.signalThen p k).Formed := by
  unfold State.signalThen
  split
  next e => exact h.orderWait e
  next =>
    split
    · exact hk _ h.congr
    · split
      · exact .either (hk _ h.signalMember.congr) h
      · exact h.phTrap

theorem waitPhase {x : BitVec 32} : (s.waitPhase x).Formed := by
  unfold State.waitPhase
  split
  · exact h.congr
  · split
    · exact h.phTrap
    · split
      · exact h.phTrap
      · exact .either h.congr h

/-! ## Rings and windows -/

theorem ringFormat {i : BitVec 4} : (s.ringFormat i).Formed := h
theorem ringCount {i : BitVec 4} : (s.ringCount i).Formed := h

theorem ringForm {i : BitVec 4} {a : Reg} {k : Handle → Nat → SlotOut} (hk : ∀ r n, (k r n).Formed) :
    (s.ringForm i a k).Formed := by
  unfold State.ringForm
  extract_lets
  exact h.needsClean (.either h.ringFormat (hk _ _))

theorem descriptor {a : Reg} {n : Nat} {k : State → List Byte → SlotOut} (hk : ∀ t l, t.Formed → (k t l).Formed) :
    (s.descriptor a n k).Formed := by
  unfold State.descriptor
  extract_lets
  refine h.needsClean (h.checkLocal ?_)
  split
  next e => exact (h.localRead.of_eq e).slot
  next e => exact hk _ _ (h.localRead.of_eq e)

theorem retireRows {i : BitVec 4} {r : Handle} {n : Nat} {k : State → State} (hk : ∀ t, t.Formed → (k t).Formed) :
    (s.retireRows i r n k).Formed := .either h.ringCount (.either h (hk _ h.congr))

theorem ringRead {i : BitVec 4} {n : Nat} {d : PDest} {v : Nat → Nat → PVal} : (s.ringRead i n d v).Formed := by
  unfold State.ringRead
  simp only []
  split
  · exact h.ringCount
  · split
    next e => exact (h.touch.of_eq e).slot
    next e => exact State.Formed.resolveRings (h.touch.of_eq e).congr

end

theorem refuses {l : List (Xlat × Nat)} (h : s.Formed) : (s.refuses l).2.Formed := by
  unfold State.refuses
  split
  · exact h.congr
  · exact h

theorem fetchRows {n : Nat} {i : BitVec 4} (h : s.Formed) : (State.fetchRows n i s).Formed := by
  induction n generalizing s with
  | zero => exact h
  | succ n ih =>
    unfold State.fetchRows
    extract_lets
    split
    · exact h
    · extract_lets
      split
      · exact h
      · split
        · exact h.congr
        · split
          next e => exact (h.xlateSpan.of_eq e).congr
          next e =>
            have hx {l : List (Xlat × Nat)} := (h.xlateSpan.of_eq e).refuses (l := l)
            simp only []
            exact either hx.congr (ih hx.readMarked.congr)

section
variable (h : s.Formed)
include h

theorem enableRows {i : BitVec 4} : (s.enableRows i).Formed := h.fetchRows
theorem bindWindow {i : BitVec 4} {d : WinDesc} : (s.bindWindow i d).Formed := (h.congr (t := s.onHandle i _)).enableRows
theorem retryWindow {i : BitVec 4} : (s.retryWindow i).Formed := (h.congr (t := s.onWindow i _)).enableRows

end
end State.Formed
end Sys2Proof.Machine
end

section
/-!
PROOF. The canonical form, continued: acceptance, units and ends of queue entries (R288-R306), and the starting and restoring of
tasks.
-/

set_option Elab.async false

namespace Sys2Proof.Machine

namespace State.Formed

variable {s : State}

section
variable (h : s.Formed)
include h

/-! ## Acceptance of queue entries -/

theorem queueFormat {q : BitVec 4} : (s.queueFormat q).Formed := h
theorem queueTrap {q : Queue} : (q.trap s).Formed := h

theorem accept {q : BitVec 4} {e : QEntry} : (s.accept q e).Formed := by
  unfold State.accept
  split
  · exact h
  · extract_lets t
    have ht : t.Formed := (h.congr (t := s.onQueue (fin4 q) _)).readKey
    clear_value t
    exact State.Formed.either ht.congr ht

theorem blockForm {k : QKind} {q : BitVec 4} {a : Reg} {b : Option Reg} {c : Reg} {x : Bool} :
    (s.blockForm k q a b c x).Formed := by
  unfold State.blockForm
  extract_lets _ _ ix
  clear_value ix
  simp only []
  refine h.needsClean ?_
  split
  · exact h
  · split
    · exact h
    · refine h.checkLocal (h.inOrder ?_)
      split
      next e => exact (h.localRead.of_eq e).slot
      next e =>
        have hr := h.localRead.of_eq e
        exact .either hr.queueTrap (.either hr.queueFormat hr.accept)

theorem unhalt {i : Fin 16} : (s.unhalt i).Formed := (h.congr (t := s.onQueue i _)).readKey

/-! ## Units of queue entries -/

theorem xlate {a : Agent} {k : Kind} {va : BitVec 64} : (s.xlate a k va).2.Formed := Memory.wf_xlate h

theorem sourceSpan {a : BitVec 64} : (s.sourceSpan a).2.Formed := by
  unfold State.sourceSpan
  split
  next e => exact h.xlate.of_eq e
  next e => exact h.xlate.of_eq e

theorem cutUnit {e : QEntry} {a b : BitVec 64} {n : Nat} : (s.cutUnit e a b n).2.Formed := by
  unfold State.cutUnit
  extract_lets
  split
  · exact h.sourceSpan
  · exact h

theorem nextUnit {e : QEntry} : (s.nextUnit e).2.Formed := by
  unfold State.nextUnit
  simp only []
  split
  · split
    · exact h.spadMarked
    · exact h.spadMarked.cutUnit
  · split
    · exact h.spadMarked
    · exact h.spadMarked.cutUnit
  · exact h.cutUnit

theorem unitDone {i : Fin 16} {e : QEntry} {n : Nat} : (s.unitDone i e n).Formed := either h.congr h.congr

omit h in
theorem markUnits {n : Nat} {e : QEntry} (h : s.Formed) : (State.markUnits n e s).Formed := by
  induction n generalizing s e with
  | zero => exact h
  | succ n ih =>
    unfold State.markUnits
    split
    · exact h
    · simp only []
      exact ih (either h.nextUnit h.nextUnit.spaceWrite)

omit h in
theorem markSinks {n : Nat} {e : QEntry} (h : s.Formed) : (State.markSinks n e s).Formed := by
  induction n generalizing s e with
  | zero => exact h
  | succ n ih =>
    unfold State.markSinks
    split
    · exact h
    · exact ih h.spaceWrite

theorem sourceFails {i : Fin 16} {e : QEntry} {f : UStop} {a : BitVec 64} : (s.sourceFails i e f a).Formed := by
  unfold State.sourceFails
  split
  · exact h.failHead
  · refine State.Formed.failHead ?_
    split
    · exact h
    · exact h.markSinks
    · exact h.markSinks
    · exact h.markUnits

theorem unitBytes {e : QEntry} {u : QUnit} {l : List (Byte × Bool)} : (s.unitBytes e u l).2.Formed := by
  unfold State.unitBytes
  split
  · exact h
  · split
    · exact h
    · exact h.spaceRead

theorem landUnit {i : Fin 16} {e : QEntry} {u : QUnit} {l : List (Byte × Bool)} : (s.landUnit i e u l).Formed := by
  unfold State.landUnit
  split
  next e => exact (h.spaceWrite.of_eq e).failHead
  next e =>
    exact unitDone (either (h.spaceWrite.of_eq e).congr (h.spaceWrite.of_eq e))

theorem moveUnit {i : Fin 16} {e : QEntry} {l : List (Byte × Bool)} : (s.moveUnit i e l).Formed := by
  unfold State.moveUnit
  simp only []
  split
  · exact h.nextUnit.unitDone
  · split
    next e => exact (h.nextUnit.unitBytes.of_eq e).sourceFails
    next e => exact (h.nextUnit.unitBytes.of_eq e).landUnit

theorem takeBytes {i : Fin 16} {l : List (Byte × Bool)} : (s.takeBytes i l).Formed := h.congr
theorem readyHead {i : Fin 16} {l : List (Byte × Bool)} {x : BitVec 4} : (s.readyHead i l x).Formed := h.congr

/-! ## Confidential copies and collectives -/

omit h in
theorem firstStop {a : Agent} {k : Kind} {l : List (BitVec 64 × Nat)} (h : s.Formed) : (s.firstStop a k l).2.Formed := by
  induction l generalizing s with
  | nil => exact h
  | cons x t ih =>
    unfold State.firstStop
    split
    next e => exact h.xlate.of_eq e
    next e => exact ih (h.xlate.of_eq e)

omit h in
theorem someUnkeyed {l : List (BitVec 64 × Nat)} (h : s.Formed) : (s.someUnkeyed l).2.Formed := by
  induction l generalizing s with
  | nil => exact h
  | cons x t ih =>
    unfold State.someUnkeyed
    split
    next e =>
      split
      · exact ih (h.xlate.of_eq e)
      · exact h.xlate.of_eq e
    next e => exact ih (h.xlate.of_eq e)

theorem decryptTo {i : Fin 16} {b : Block} {p : List Byte} : (s.decryptTo i b p).Formed := by
  unfold State.decryptTo
  extract_lets
  split
  next e => exact (h.someUnkeyed.of_eq e).endHead
  next e =>
    split
    next e' => exact ((h.someUnkeyed.of_eq e).firstStop.of_eq e').failHead
    next e' => exact ((h.someUnkeyed.of_eq e).firstStop.of_eq e').readyHead

theorem cipherHead {i : Fin 16} {e : QEntry} {k : List Byte} : (s.cipherHead i e k).Formed := by
  unfold State.cipherHead
  extract_lets
  split
  · exact h.endHead
  · split
    · exact h.readyHead
    · split
      · exact h.endHead
      · exact h.decryptTo

theorem cryptUnit {i : Fin 16} {e : QEntry} {l : List (Byte × Bool)} : (s.cryptUnit i e l).Formed := by
  unfold State.cryptUnit
  split
  · exact h.endHead
  · exact h.putUnit
  · split
    · exact h.cipherHead
    · split
      next e => exact (h.spaceRead.of_eq e).sourceFails
      next e => exact (h.spaceRead.of_eq e).takeBytes

theorem collRefuse {i : Fin 16} {e : QEntry} {c : CollInfo} {x : BitVec 4} : (s.collRefuse i e c x).Formed := h.congr
theorem collStart {i : Fin 16} {e : QEntry} : (s.collStart i e).Formed := h.congr
theorem contribute {e : QEntry} {c : CollInfo} {l : List (Byte × Bool)} : (s.contribute e c l).Formed := h.congr

theorem collTake {i : Fin 16} {e : QEntry} {c : CollInfo} {l : List (Byte × Bool)} : (s.collTake i e c l).Formed :=
  either h.takeBytes.contribute h.takeBytes

theorem collRead {i : Fin 16} {e : QEntry} {c : CollInfo} {l : List (Byte × Bool)} : (s.collRead i e c l).Formed := by
  unfold State.collRead
  split
  · exact h.contribute
  · split
    next e => exact (h.spaceRead.of_eq e).sourceFails
    next e => exact (h.spaceRead.of_eq e).collTake

theorem collUnit {i : Fin 16} {e : QEntry} {c : CollInfo} {l : List (Byte × Bool)} : (s.collUnit i e c l).Formed := by
  unfold State.collUnit
  split
  · exact h.putUnit
  · split
    · split
      · exact h.collRefuse
      · exact either h.collStart.collRead h.failHead
    · split
      · exact h.collRead
      · exact either h h.collFinish

/-! ## The steps of queues -/

theorem queueUnit {i : Fin 16} {l : List (Byte × Bool)} : (s.queueUnit i l).Formed := by
  unfold State.queueUnit
  split
  · exact h
  · split
    · exact h
    · exact h
    · exact h.cryptUnit
    · exact h.cryptUnit
    · split
      · exact h.collUnit
      · exact h
    · exact h.moveUnit

theorem queueStep {c : CoreNum} {f : State → State} (hf : ∀ t, t.Formed → (f t).Formed) : (s.queueStep c f).Formed := by
  unfold State.queueStep
  exact .next (either (h.asCore hf).saveDone h)

theorem queueSignal {q : BitVec 4} {x : BitVec 32} {t : State} (e : s.queueSignal q x = some t) : t.Formed := by
  unfold State.queueSignal at e
  extract_lets _ lost at e
  have hl : lost.Formed := h.power
  clear_value lost
  split at e
  · exact Option.some.inj e ▸ h.congr
  · split at e
    · exact Option.some.inj e ▸ hl
    · split at e
      · exact Option.some.inj e ▸ hl
      · split at e
        · exact Option.some.inj e ▸ hl
        · split at e
          · exact Option.some.inj e ▸ hl
          · split at e
            · exact absurd e (by simp)
            · exact Option.some.inj e ▸ h.signalMember.congr

theorem writeWord {i : Fin 16} {e : QEntry} : (s.writeWord i e).Formed := either h h.putMarked.congr

theorem completeHead {q : BitVec 4} : (s.completeHead q).Formed := by
  unfold State.completeHead
  extract_lets i
  split
  · exact h
  next e _ _ =>
    split
    · exact h
    · extract_lets t
      have ht : t.Formed := h.writeWord
      clear_value t
      split
      · exact ht
      next u he =>
        have hu : u.Formed := by
          split at he
          · exact ht.queueSignal he
          · exact Option.some.inj he ▸ ht
        exact (hu.congr (t := u.onQueue i _)).readKey

theorem headAccess {e : QEntry} : (s.headAccess e).2.2.2.Formed := by
  unfold State.headAccess
  extract_lets
  split
  · exact h
  · exact h
  case h_3 | h_4 | h_5 =>
    split
    · exact h
    · split
      · exact h
      · exact h
  case h_6 => exact h.nextUnit

theorem readLost {i : Fin 16} {e : QEntry} {u : Option QUnit} : (s.readLost i e u).Formed := by
  unfold State.readLost
  split
  · exact h.landUnit
  · split
    · exact h.collTake
    · exact h.takeBytes
  · exact h

theorem writeLost {i : Fin 16} {e : QEntry} {u : Option QUnit} {a : BitVec 64} : (s.writeLost i e u a).Formed := by
  unfold State.writeLost
  simp only []
  refine State.Formed.failHead ?_
  split
  · exact h.fresh
  · split
    · split
      next e => exact (h.fresh.unitBytes.of_eq e).spaceWrite
      next e => exact h.fresh.unitBytes.of_eq e
    · split
      · exact h.fresh.spaceWrite
      · exact h.fresh
    · exact h.fresh

theorem unhold {i : Fin 16} : (s.unhold i).Formed := h.congr

theorem unitTimeout {i : Fin 16} : (s.unitTimeout i).Formed := by
  unfold State.unitTimeout
  split
  · exact h
  · simp only []
    split
    · exact h.headAccess.fresh.unhold.readLost
    · exact h.headAccess.fresh.unhold.writeLost
    · split
      · exact h.headAccess.fresh.unhold.writeLost
      · exact h.headAccess.fresh.unhold.readLost
    · exact h.headAccess.fresh

theorem unitRefused {i : Fin 16} : (s.unitRefused i).Formed := by
  unfold State.unitRefused
  split
  · exact h
  · simp only []
    split
    · exact h.headAccess.unhold.sourceFails
    · exact h.headAccess.unhold.failHead
    · exact h.headAccess

/-! ## Starting and restoring tasks -/

theorem onTask {t : TaskId} {f : Task → Task} : (s.onTask t f).Formed := h.congr

theorem wake : s.wake.Formed := either h.congr h

theorem checkBlock {p : Option PartNum} {c : Bool} {pa : Nat} : (s.checkBlock p c pa).2.Formed := Memory.wf_checkBlock h

theorem loadConsts {c : CoreNum} {l : Launch} : (s.loadConsts c l).Formed := by
  unfold State.loadConsts
  extract_lets _ t
  have ht : t.Formed := h.foldl fun _ _ hu => hu.checkBlock
  clear_value t
  exact ht.congr

theorem startTask {l : Launch} {n : Nat} {c : CoreNum} : (s.startTask l n c).Formed := by
  unfold State.startTask
  split
  next e =>
    have hf := h.fresh.of_eq e
    extract_lets _ _ _ _ placed loaded bound saved
    have hp : placed.Formed := hf.congr
    clear_value placed
    have hb : bound.Formed := hp.loadConsts.asCore fun _ ht => ht.foldl fun _ _ hu => hu.bindWindow
    clear_value bound
    have hs : saved.Formed := either hb.congr hb
    clear_value saved
    exact hs.congr

theorem restoreLease {c d : CoreNum} : (s.restoreLease c d).Formed := either h (.either h.onCore.power (either h h.congr))

theorem restoreTask {l : Launch} {t : Task} {c : CoreNum} : (s.restoreTask l t c).Formed := by
  unfold State.restoreTask
  exact State.Formed.asCore (State.Formed.restoreLease (State.Formed.loadConsts h.congr)) fun _ ht =>
    ht.foldl fun _ _ hu => hu.retryWindow.unhold

theorem restoreFails {l : Launch} {t : Task} : (s.restoreFails l t).Formed := h.errRecord.onTask

theorem giveCore {p : PartNum} {c : CoreNum} : (s.giveCore p c).Formed := by
  unfold State.giveCore
  split
  · exact h
  · split
    · exact h
    · split
      · exact h.startTask
      · split
        · exact h
        · exact either h.restoreFails h.restoreTask

end
end State.Formed
end Sys2Proof.Machine
end

section
/-!
PROOF. The canonical form, continued: records, images, partitions, admission, the march test, dormancy and cuts.
-/

set_option Elab.async false

namespace Sys2Proof.Machine

namespace State.Formed

variable {s : State}

section
variable (h : s.Formed)
include h

/-! ## Power and records -/

theorem errRecords {l : List PartNum} {r : ErrRec} : (s.errRecords l r).Formed := Memory.wf_errRecords h
theorem dieRecord {n : Nat} {d : BitVec 2} : (s.dieRecord n d).Formed := h.errRecords

theorem levelRecord {g : GroveNum} {t c : Nat} {a b : BitVec 2} {v : Nat} : (s.levelRecord g t c a b v).Formed := by
  unfold State.levelRecord
  split
  · exact h.power
  · exact h

theorem writeGrovepwr {g : GroveNum} {v : BitVec 64} : (s.writeGrovepwr g v).Formed := by
  unfold State.writeGrovepwr
  extract_lets _ _ _ _ t u
  have ht : t.Formed := h.congr
  clear_value t
  have hu : u.Formed := either ht ht.levelRecord
  exact hu.regrant

theorem doubtTask {t : Task} : (s.doubtTask t).Formed := by
  unfold State.doubtTask
  split
  · exact h.congr
  · exact State.Formed.saveFrame h.congr

theorem writeEvqbase {p : PartNum} {v : BitVec 64} : (s.writeEvqbase p v).Formed := h.unlessLocked h.congr

/-! ## Images -/

theorem readImg {p : PartNum} {va : BitVec 64} {n : Nat} : (s.readImg p va n).2.Formed := by
  unfold State.readImg
  split
  · exact h
  · split
    next e => exact h.xlateSpan.of_eq e
    next e => exact h.xlateSpan.of_eq e
    next e => exact h.xlateSpan.of_eq e
    next e =>
      split
      · exact h.xlateSpan.of_eq e
      · exact (h.xlateSpan.of_eq e).refuses.readPieces

omit h in
theorem readAreas {p : PartNum} {va : BitVec 64} {l : List (Nat × Nat)} (h : s.Formed) : (s.readAreas p va l).2.Formed := by
  induction l generalizing s with
  | nil => exact h
  | cons x t ih =>
    unfold State.readAreas
    split
    next e => exact h.readImg.of_eq e
    next e =>
      have ht := ih (h.readImg.of_eq e)
      split
      next e' => exact ht.of_eq e'
      next e' => exact ht.of_eq e'

theorem readKernel {p : PartNum} {k : Packet} : (s.readKernel p k).2.Formed := by
  unfold State.readKernel
  extract_lets va
  have hv : (if va.toNat % 256 = 0 then s.readImg p va 128 else (.error .bad, s)).2.Formed := by
    split
    · exact h.readImg
    · exact h
  split
  next e => exact hv.of_eq e
  next e =>
    split
    · exact hv.of_eq e
    · split
      next e' => exact (hv.of_eq e).readAreas.of_eq e'
      next e' =>
        split
        · exact (hv.of_eq e).readAreas.of_eq e'
        · exact (hv.of_eq e).readAreas.of_eq e'

theorem readRanges {p : PartNum} {k : Packet} {l : List RangeRec} : (s.readRanges p k l).2.Formed := by
  unfold State.readRanges
  extract_lets
  split
  · exact h
  · split
    · exact h
    · split
      next e => exact h.readImg.of_eq e
      next e => exact h.readImg.of_eq e

/-! ## Partitions -/

theorem partError {p : PartNum} {e : BitVec 4} : (s.partError p e).Formed := h.congr
theorem clearAllKeys {p : PartNum} : (s.clearAllKeys p).Formed := h.clearKeys
theorem teardown {p : PartNum} : (s.teardown p).Formed := h.endLaunches.clearAllKeys.onPart

theorem writePartctl {w : Writer} {p : PartNum} {v : BitVec 64} : (s.writePartctl w p v).Formed :=
  either h (.either h.teardown (either h.partError.enterError (.either h.partError (either h.partError h.congr))))

theorem zeroGrove {g : GroveNum} : (s.zeroGrove g).Formed :=
  foldl_keeps (P := State.Formed) _ h.congr fun _ _ ht => ht.onCore

theorem zeroGranule {g : Nat} : (s.zeroGranule g).Formed := either (h.onMem fun _ => Memory.wf_zero).congr h

theorem writeCfgdata {p : PartNum} {v : BitVec 64} : (s.writeCfgdata p v).Formed := by
  unfold State.writeCfgdata
  split
  · exact h
  · extract_lets t u
    have ht : t.Formed := h.congr
    have hu : u.Formed := h.congr
    exact either (either hu.settleGroup hu) ht

theorem writeMemown {v : BitVec 64} : (s.writeMemown v).Formed := by
  unfold State.writeMemown
  extract_lets _ _ _ put
  have hp (o : BitVec 4) : (put o).Formed := h.congr
  refine either h (either ?_ (either (hp _) (hp _).onTrunk))
  split
  · exact h.enterError
  · exact h

theorem tdispError : s.tdispError.Formed := h.congr
theorem vendor {c : BitVec 8} : (s.vendor c).Formed := h.congr

/-! ## Admission -/

theorem popHead {p : PartNum} {q : BitVec 4} : (s.popHead p q).Formed := h.congr
theorem refuseHead {p : PartNum} {q : BitVec 4} {k : Packet} {c : Nat} {x : Kernel} : (s.refuseHead p q k c x).Formed :=
  h.popHead.refuse.headCheck
theorem headPage {p : PartNum} {q : BitVec 4} {k : Packet} {c : BitVec 8} {va : BitVec 56} : (s.headPage p q k c va).Formed :=
  h.congr.enqueue

theorem headStop {p : PartNum} {q : BitVec 4} {k : Packet} {c : BitVec 8} {e : ImgStop} {x : Kernel} :
    (s.headStop p q k c e x).Formed := by
  cases e with
  | bad => exact h.refuseHead
  | page => exact h.headPage
  | later => exact h

theorem imageDigest {p : PartNum} {k : Packet} {n : Nat} : (s.imageDigest p k n).2.Formed := by
  unfold State.imageDigest
  split
  · split
    next e => exact h.readImg.of_eq e
    next e => exact h.readImg.of_eq e
  · exact h

theorem reserveSlots {p : PartNum} {l : BitVec 32} {b f : Nat} : (s.reserveSlots p l b f).2.Formed := by
  unfold State.reserveSlots
  split
  · exact h
  · split
    · exact h
    · exact h.errRecord

theorem enterLaunch {p : PartNum} {q : BitVec 4} {k : Packet} {x : Kernel} {g : BitVec 16} {b : Nat} {d : BitVec 256} :
    (s.enterLaunch p q k x g b d).Formed := by
  unfold State.enterLaunch
  extract_lets _ _ _ _ _ _ t u v w
  have hv : v.Formed := h.onPart.zeroRange.writePhys
  clear_value v
  have hw : w.Formed := either hv.congr hv
  clear_value w
  split
  next e =>
    have hr := hw.reserveSlots.of_eq e
    extract_lets _ y
    have hy : y.Formed := State.Formed.popHead (State.Formed.report hr.congr)
    clear_value y
    exact State.Formed.headCheck hy.congr

theorem admitRead {p : PartNum} {q : BitVec 4} {k : Packet} {x : Kernel}
    {b : List (BitVec 64 × BitVec 64 × BitVec 64 × BitVec 64)} {d : BitVec 256} : (s.admitRead p q k x b d).Formed := by
  unfold State.admitRead
  extract_lets
  split
  · exact h.refuseHead
  · split
    · exact h.refuseHead
    · split
      · exact h.refuseHead
      · split
        · exact h.refuseHead
        · split
          · exact h.congr
          · exact h.enterLaunch

theorem checkAdmit {p : PartNum} {q : BitVec 4} {k : Packet} : (s.checkAdmit p q k).Formed := by
  unfold State.checkAdmit
  split
  · exact h.refuseHead
  · split
    next e => exact (h.readKernel.of_eq e).headStop
    next e =>
      split
      next e' => exact ((h.readKernel.of_eq e).imageDigest.of_eq e').headStop
      next e' =>
        have hd := (h.readKernel.of_eq e).imageDigest.of_eq e'
        split
        next e'' => exact (hd.readRanges.of_eq e'').headStop
        next e'' => exact (hd.readRanges.of_eq e'').admitRead

theorem pfdone {p : PartNum} {v : BitVec 64} : (s.pfdone p v).Formed := by
  unfold State.pfdone
  extract_lets
  split
  · exact h.congr
  · split
    · exact .either h (either h.refuseHead h.congr)
    · exact h

theorem dropPacket {p : PartNum} {q : BitVec 4} {k : Packet} : (s.dropPacket p q k).Formed := by
  unfold State.dropPacket
  extract_lets _ t u
  have hu : u.Formed := either h.congr h.congr
  clear_value u
  exact hu.report.satisfy.headCheck

theorem kill {p : PartNum} {l : BitVec 32} : (s.kill p l).Formed := by
  unfold State.kill
  split
  · exact h.killLaunch
  · split
    · exact h.dropPacket
    · exact h

theorem portPacket {p : PartNum} {q : BitVec 4} {l : List Byte} : (s.portPacket p q l).Formed :=
  either h.acceptPacket h.onPart.refuse

theorem readVirt {a : Agent} {va : BitVec 64} {n : Nat} : (s.readVirt a va n).2.Formed := Memory.wf_readVirt h

theorem hostAccess {p : PartNum} {va : BitVec 64} {x : HostAcc} : (s.hostAccess p va x).Formed := by
  unfold State.hostAccess
  split
  · split
    next e => exact (h.readVirt.of_eq e).congr
    next e => exact (h.readVirt.of_eq e).congr
  · split
    next e => exact (h.xlateSpan.of_eq e).writePieces
    next e => exact (h.xlateSpan.of_eq e).congr

/-! ## The march test -/

theorem bootCores {l : List CoreNum} : (s.bootCores l).Formed := h.foldl fun _ _ ht => ht.onCore
theorem enterMarch : s.enterMarch.Formed := h.onTrunk.writePhys.bootCores

theorem marchResult {g : BitVec 16} : (s.marchResult g).1.Formed := by
  unfold State.marchResult
  split
  · refine foldl_keeps (P := fun p : State × BitVec 16 × List CoreNum => p.1.Formed) _ h fun p c hp => ?_
    unfold State.repairCore
    extract_lets
    split
    · exact hp
    · split
      · exact hp
      · split
        · exact hp
        · split
          · exact hp.congr
          · exact hp
  · exact h

/-! ## Dormancy and cuts -/

theorem cutFails {p : PartNum} {n : BitVec 32} {r : BitVec 4} : (s.cutFails p n r).Formed := h.onTrunk.errRecord

theorem cutInterrupted : s.cutInterrupted.Formed := by
  unfold State.cutInterrupted
  split
  · exact h.cutFails
  · exact h

theorem stopAll : s.stopAll.Formed := h.foldl fun _ _ ht => ht.stop

theorem warn {c : BitVec 8} : (s.warn c).Formed := either h ((h.congr (t := s.stamp.2.onTrunk _)).cutInterrupted.stopAll)

theorem writeDormctl {v : BitVec 64} : (s.writeDormctl v).Formed := by
  unfold State.writeDormctl
  split
  · exact h
  · extract_lets t u
    have hu : u.Formed := either h.congr h.congr
    clear_value u
    exact either hu.warn hu

theorem flushPool : s.flushPool.Formed := h.foldl fun t e ht => by
  split
  · refine ht.onMem fun m hm => ?_
    obtain ⟨hb, hc, hd, hq⟩ := Memory.wf_iff.1 hm
    exact Memory.wf_iff.2 ⟨hb, hc, smSorted_smDel hd, smSorted_smPut hq (by simp)⟩
  · exact ht.onMem fun _ => Memory.wf_writeBack

theorem drainEnds {n : Nat} : (s.drainEnds n).Formed := h.congr

theorem cutArm {v : BitVec 64} : (s.cutArm v).Formed := either h.cutFails h.congr

theorem cutStop : s.cutStop.Formed := by
  unfold State.cutStop
  split
  · exact h.cutFails
  · exact h

theorem cutCompletes {c : Cut} : (s.cutCompletes c).Formed := by
  unfold State.cutCompletes
  extract_lets _ _ _ _ _ t u
  have ht : t.Formed := either h.congr h
  clear_value t
  have hu : u.Formed := either ht.congr ht
  clear_value u
  exact hu.onTrunk.errRecord

end
end State.Formed

/-- Writing a list of values one by one keeps a table's canonical form. -/
theorem smWf_foldl_smSet {α β : Type} [DecidableEq α] {d : α} {k : β → Nat} {v : β → α} {l : List β} {m : SMap α}
    (h : smWf d m = true) : smWf d (l.foldl (fun m e => smSet d (k e) (v e) m) m) = true :=
  foldl_keeps (P := fun m => smWf d m = true) l h fun _ _ hm => smWf_smSet hm

namespace State.Formed

variable {s : State} (h : s.Formed)
include h

theorem putCut {c : Cut} : (s.putCut c).Formed := by
  refine State.Formed.onMem (h.foldl fun t r ht => ?_) fun m hm => ?_
  · split
    · exact (ht.onMem fun _ => Memory.wf_zero).foldl fun _ _ hu => either hu.unelide hu
    · exact ht
  · obtain ⟨hb, hc, hd, hq⟩ := Memory.wf_iff.1 hm
    exact Memory.wf_iff.2 ⟨smWf_foldl_smSet hb, smWf_foldl_smSet hc, hd, hq⟩

theorem cutPutBack {p : PartNum} {n : BitVec 32} : (s.cutPutBack p n).Formed := by
  unfold State.cutPutBack
  split
  · exact h
  · split
    · exact h.putCut.congr
    · exact h.cutFails

theorem writeCutctl {v : BitVec 64} : (s.writeCutctl v).Formed := by
  unfold State.writeCutctl
  split
  · exact h
  · extract_lets _ t _
    have ht : t.Formed := h.congr
    clear_value t
    exact either ht (.either ht.cutStop (either ht (.either ht.cutArm (either ht.cutPutBack ht))))

end State.Formed
end Sys2Proof.Machine
end

section
/-!
PROOF. The canonical form, continued: elision and rollback (R455-R461), restoring and resets, configuration space (R8), and accesses
to global memory.
-/

set_option Elab.async false

namespace Sys2Proof.Machine

namespace State.Formed

variable {s : State}

section
variable (h : s.Formed)
include h

/-! ## Refresh elision, checkpoints, rollback -/

theorem writeElidemap {v : BitVec 64} : (s.writeElidemap v).Formed := by
  unfold State.writeElidemap
  extract_lets _ _ _ t u
  refine either h ?_
  have ht : t.Formed := h.foldl fun _ _ hx => hx.unelide
  clear_value t
  have hu : u.Formed := ht.foldl fun _ _ hx => hx.congr
  clear_value u
  exact hu.congr

theorem putCheckpoint {x : Ctx} {sp : SMap Byte} {m : List Nat} : (s.putCheckpoint x sp m).Formed := h.congr

theorem boundaryCore {c : CoreNum} : (s.boundaryCore c).Formed := by
  unfold State.boundaryCore
  extract_lets t _
  refine either h ?_
  have ht : t.Formed := h.asCore fun _ hu => hu.rowsArrive.drainLoads
  clear_value t
  exact ht.saveMarks.putCheckpoint.onCore

theorem boundaryTask {t : Task} : (s.boundaryTask t).Formed := either h h.congr

theorem undoBlock {u : Undo} : (s.undoBlock u).Formed := either h.writePhys (h.foldl fun _ _ ht => either ht.writePhys ht)

theorem rollBack {t : Task} {c : BitVec 8} : (s.rollBack t c).Formed := by
  unfold State.rollBack
  extract_lets _ _ _ _ u v _ w
  have hu : u.Formed := h.foldl fun _ _ hx => hx.undoBlock
  clear_value u
  have hw : w.Formed := State.Formed.errRecord (s := v) hu.congr
  clear_value w
  split
  · exact either h.errRecord.endSaved (either hw.saveFrame.congr hw.endSaved)
  · exact h.errRecord.endSaved

/-! ## Restoring after a power failure -/

theorem discardSlots : s.discardSlots.Formed := h.foldl fun _ _ ht => by
  split
  · exact either ht ht.errRecord
  · exact ht

theorem putManifest {m : Manifest} : (s.putManifest m).Formed := by
  have hp : (m.parts.foldl (fun s x => s.setPart x.1 x.2.resumed) s).Formed := h.foldl fun _ _ ht => ht.congr
  obtain ⟨hb, hc, hd, hq⟩ := Memory.wf_iff.1 hp
  exact Memory.wf_iff.2 ⟨smWf_foldl_smSet (smWf_filter _ hb), smWf_foldl_smSet (smWf_filter _ hc), hd, hq⟩

theorem restoreRecords {n : Nat} {m : Manifest} {p : PartNum} : (s.restoreRecords n m p).Formed := h.errRecord.errRecord
theorem shortRecords {m : Manifest} : (s.shortRecords m).Formed := h.foldl fun _ _ ht => ht.errRecord
theorem discardPart {p : PartNum} {t : BitVec 3} : (s.discardPart p t).Formed := h.errRecord.teardown

theorem restoreManifest {n : Nat} {m : Manifest} : (s.restoreManifest n m).Formed := by
  unfold State.restoreManifest
  simp only []
  refine State.Formed.foldl (State.Formed.foldl (State.Formed.foldl (State.Formed.shortRecords
    (h.putManifest.foldl fun _ _ ht => ht.restoreRecords)) fun _ _ ht => ht.killLaunch)
    fun _ _ ht => ht.discardPart) fun _ _ ht => ht.congr

theorem restoreStep : s.restoreStep.Formed := by
  unfold State.restoreStep
  extract_lets t _ u
  have ht : t.Formed := h.discardSlots
  clear_value t
  split
  · exact ht.restoreManifest
  · exact ht.onTrunk.foldl fun _ _ hu => hu.congr

/-! ## Resets and starts -/

theorem resetDomains : s.resetDomains.Formed := by
  obtain ⟨hb, hc, -, -⟩ := Memory.wf_iff.1 h
  exact Memory.wf_iff.2 ⟨smWf_filter _ hb, smWf_filter _ hc, rfl, rfl⟩

theorem beginStart : s.beginStart.Formed := h.resetDomains.fresh.onTrunk

theorem loseState : s.loseState.Formed := h.resetDomains.onTrunk

theorem writeStartctl {v : BitVec 64} : (s.writeStartctl v).Formed := either h.onTrunk.beginStart h

theorem startFails {r : BitVec 8} : (s.startFails r).Formed := h.onTrunk.beginStart

theorem marchStep {g : BitVec 16} : (s.marchStep g).Formed := by
  unfold State.marchStep
  refine either h ?_
  have hm := h.marchResult (g := g)
  simp only []
  exact either hm.onTrunk.startFails (either hm.onTrunk.onTrunk.bootCores hm.congr)

/-! ## Configuration space -/

theorem putSched {p : PartNum} {k : Nat} {v : BitVec 64} : (s.putSched p k v).Formed := by
  unfold State.putSched
  split
  · exact h.congr
  · exact h.unlessLocked (either h h.congr)
  · exact h.kill
  · exact h.pfdone
  · exact h.writeEvqbase
  · exact h.congr
  · exact h.congr
  · exact h

theorem putTrans {p : PartNum} {k : Nat} {v : BitVec 64} : (s.putTrans p k v).Formed := by
  unfold State.putTrans
  split
  · exact h.unlessLocked h.congr
  · exact h.congr
  · exact h.congr
  · exact h.congr
  · exact h.congr
  · exact h.writeMigctl
  · exact h.congr
  · exact h

theorem writeCkptctl {p : PartNum} {v : BitVec 64} : (s.writeCkptctl p v).Formed := either h.congr h.congr

theorem putPart {w : Writer} {p : PartNum} {k : Nat} {v : BitVec 64} : (s.putPart w p k v).Formed := by
  unfold State.putPart
  split
  · exact either h.writePartctl h
  · exact h.congr
  · exact h.writeCfgdata
  · exact h.writeCkptctl
  · exact h.unlessLocked (either h h.congr)
  · exact h

theorem putOwner {k : Nat} {v : BitVec 64} : (s.putOwner k v).Formed := by
  unfold State.putOwner
  split
  · exact h.congr
  · exact h.writeMemown
  · exact h.congr
  · exact h.writeElidemap
  · exact h

theorem writePollctl {v : BitVec 64} : (s.writePollctl v).Formed := either h h.congr

theorem putDorm {k : Nat} {v : BitVec 64} : (s.putDorm k v).Formed := by
  unfold State.putDorm
  split
  · exact h.writeDormctl
  · exact h.congr
  · exact h.congr
  · exact h.congr
  · exact h.writePollctl
  · exact h.writeCutctl
  · exact h.congr
  · exact h

theorem putStart {k : Nat} {v : BitVec 64} : (s.putStart k v).Formed := by
  unfold State.putStart
  split
  · exact h.writeStartctl
  · exact h.congr
  · exact h

theorem writePoolrte {n : Nat} {v : BitVec 64} : (s.writePoolrte n v).Formed := either h h.congr
theorem writeRoute {n : Nat} {b : Bool} {v : BitVec 64} : (s.writeRoute n b v).Formed := either h h.congr

theorem cfgPut {w : Writer} {a : Nat} {v : BitVec 64} {lo hi : Bool} : (s.cfgPut w a v lo hi).Formed := by
  unfold State.cfgPut
  extract_lets
  split
  · exact either h.writeModid h
  · exact either h.congr h
  · exact either h.writePoolrte h
  · exact either h.writePoolq h
  · exact either h.putSched h
  · exact either (either h.writeGrovepwr h.congr) h
  · exact either h.putTrans h
  · exact either h.putPart (either h.putOwner h)
  · exact h.putDorm
  · exact h.putStart
  · exact either h.writeRoute h
  · exact h

omit h in
theorem cfgWrites {n : Nat} {w : Writer} {a : Nat} {l : List Byte} (h : s.Formed) : (State.cfgWrites n w a l s).Formed := by
  induction n generalizing s a l with
  | zero => exact h
  | succ n ih => exact either h (ih h.cfgPut)

theorem configWrite {w : Writer} {a : Nat} {l : List Byte} : (s.configWrite w a l).Formed := either h.cfgWrites h

theorem clearRead {a n : Nat} : (s.clearRead a n).Formed :=
  State.Formed.foldl (h.foldl fun _ _ ht => ht.congr) fun _ _ ht => ht.congr

theorem configRead {w : Writer} {a n : Nat} : (s.configRead w a n).2.Formed := by
  unfold State.configRead
  split
  · exact h.clearRead.fresh
  · exact h

theorem readPort {a : BitVec 16} : (s.readPort a).2.Formed := by
  unfold State.readPort
  extract_lets
  split
  · exact h
  · exact h.congr

/-! ## Global accesses -/

omit h in
theorem readMixed {l : List (Xlat × Nat)} (h : s.Formed) : (s.readMixed l).2.2.Formed := by
  induction l generalizing s with
  | nil => exact h
  | cons x t ih =>
    unfold State.readMixed
    simp only []
    refine ih ?_
    split
    · exact h.configRead
    · exact h.readPieces (l := [x])

theorem readAccess {l : List (Xlat × Nat)} : (s.readAccess l).2.2.Formed := by
  unfold State.readAccess
  split
  · exact h.readMixed
  · exact h.readPieces

omit h in
theorem writeMixed {p g : Bool} {l : List (Xlat × Nat)} {d : List Byte} (h : s.Formed) : (s.writeMixed p g l d).Formed := by
  induction l generalizing s d with
  | nil => exact h
  | cons x t ih => exact ih (either h.configWrite h.writePieces)

theorem writeAccess {l : List (Xlat × Nat)} {d : List Byte} {p g : Bool} : (s.writeAccess l d p g).Formed :=
  either h.writeMixed (either h.writePieces.congr h.writePieces)

omit h in
theorem readHere {l : List (Xlat × Nat)} (h : s.Formed) : (s.readHere l).2.2.Formed := by
  induction l generalizing s with
  | nil => exact h
  | cons x t ih =>
    unfold State.readHere
    simp only []
    refine ih ?_
    split
    · exact h
    · exact h.readAccess

end
end State.Formed
end Sys2Proof.Machine
end

section
/-!
PROOF. The canonical form, continued: loads, stores and atomics, the ways of their answers (R229, R263), ordering points, locks and
lines (R269-R271), and the issue of bundles.
-/

set_option Elab.async false

namespace Sys2Proof.Machine

namespace State.Formed

variable {s : State} (h : s.Formed)
include h

/-! ## Loads -/

theorem loadLocal {d b : Reg} {c : BitVec 3} {z : BitVec 2} {o : BitVec 10} {x : Bool} : (s.loadLocal d b c z o x).Formed := by
  unfold State.loadLocal
  extract_lets
  refine h.needs (.either h.putB (h.checkLocal (h.inOrder ?_)))
  split
  next e => exact (h.localRead.of_eq e).slot
  next e => exact (h.localRead.of_eq e).putB

theorem await {d : PDest} {v : PVal} {a : BitVec 56} {x y : Bool} {w : Way} : (s.await d v a x y w).Formed := h.congr

theorem loadRemote {d b : Reg} {c : BitVec 3} {z : BitVec 2} {o : BitVec 10} {x : Bool} : (s.loadRemote d b c z o x).Formed := by
  unfold State.loadRemote
  extract_lets
  refine h.needs (.either h.await (.either h ?_))
  split
  · exact h
  · exact h.inOrder (.either h.await h.readSpad.await)

theorem requestLoad {d : Reg} {v : BitVec 64} {n : Nat} {x : Bool} {c : BitVec 3} {l : List (Xlat × Nat)} :
    (s.requestLoad d v n x c l).Formed := either h.await (either h.readHere.sendAll.await h.readHere.await)

theorem xlateRange {a : Agent} {k : Kind} {va : BitVec 64} {n : Nat} : (s.xlateRange a k va n).2.Formed := Memory.wf_xlateRange h

theorem loadGlobal {d b : Reg} {c : BitVec 3} {z : BitVec 2} {o : BitVec 10} {x : Bool} : (s.loadGlobal d b c z o x).Formed := by
  unfold State.loadGlobal
  extract_lets
  refine h.needs (.either h.await ?_)
  split
  next e => exact (h.xlateRange.of_eq e).slot
  next e =>
    split
    · exact h.xlateRange.of_eq e
    · exact h.inOrder (h.xlateRange.of_eq e).requestLoad

theorem loadSpec {d b : Reg} {c : BitVec 3} {z : BitVec 2} {o : BitVec 10} {x : Bool} : (s.loadSpec d b c z o x).Formed := by
  unfold State.loadSpec
  extract_lets
  refine .either h.await (.either h.await ?_)
  split
  next e => exact h.xlateRange.of_eq e
  next e => exact (h.xlateRange.of_eq e).await
  next e => exact .either (h.xlateRange.of_eq e).await (h.inOrder (h.xlateRange.of_eq e).requestLoad)

theorem loadConst {d b : Reg} {z : BitVec 2} {o : BitVec 10} : (s.loadConst d b z o).Formed :=
  h.needs (.either h.putB (.either h (.either h h.putB)))

/-! ## Stores -/

theorem storeLocal {d b : Reg} {c : BitVec 3} {z : BitVec 2} {o : BitVec 10} : (s.storeLocal d b c z o).Formed := by
  unfold State.storeLocal
  extract_lets
  refine h.needs (.either h (h.checkLocal (h.inOrder ?_)))
  split
  next e => exact (h.localWrite.of_eq e).slot
  next e => exact h.localWrite.of_eq e

theorem ackSpad {g : Bool} {a : BitVec 56} {c : CoreNum} {k : BitVec 3} : (s.ackSpad g a c k).Formed := either h.congr h

theorem storeRemote {d b : Reg} {g : BitVec 1} {c : BitVec 3} {z : BitVec 2} {o : BitVec 10} :
    (s.storeRemote d b g c z o).Formed := by
  unfold State.storeRemote
  extract_lets
  refine h.needs (.either h (.either h ?_))
  split
  · exact h
  · exact h.inOrder (ackSpad (either h.congr h.congr))

theorem storeGlobal {d b : Reg} {g : BitVec 1} {c : BitVec 3} {z : BitVec 2} {o : BitVec 10} :
    (s.storeGlobal d b g c z o).Formed := by
  unfold State.storeGlobal
  extract_lets
  refine h.needs (.either h ?_)
  split
  next e => exact (h.xlateRange.of_eq e).slot
  next e =>
    split
    · exact h.xlateRange.of_eq e
    · exact h.inOrder (.either h (h.xlateRange.of_eq e).writeAccess.addAcks)

/-! ## Atomics -/

theorem awaitAcked {d : PDest} {v : PVal} {a : BitVec 56} {w : Way} {b : Bool} : (s.awaitAcked d v a w b).Formed :=
  await (either h.congr h)

theorem atomLocal {r : AtomArgs} : (s.atomLocal r).Formed := by
  unfold State.atomLocal
  extract_lets
  refine h.needs (.either h (h.checkLocal (.either h.awaitAcked (h.inOrder ?_))))
  split
  next e => exact (h.localRead.of_eq e).slot
  next e =>
    have hr := h.localRead.of_eq e
    extract_lets
    split
    · exact hr.awaitAcked
    · split
      next e' => exact (hr.readyWrite.of_eq e').slot
      next e' => exact (hr.readyWrite.of_eq e').ownWrite.awaitAcked

theorem atomRemote {r : AtomArgs} : (s.atomRemote r).Formed := by
  unfold State.atomRemote
  extract_lets
  refine h.needs (.either h (.either h ?_))
  split
  · exact h
  · exact .either h.awaitAcked (h.inOrder (.either h.awaitAcked h.atomSpad.awaitAcked))

theorem atomPieces {r : AtomArgs} {v : BitVec 64} {l : List (Xlat × Nat)} : (s.atomPieces r v l).Formed := by
  unfold State.atomPieces
  extract_lets
  split
  · split
    · exact awaitAcked h.sendAll.congr
    · exact .either h.awaitAcked (awaitAcked (either h.atomAt.congr h.atomAt))
  · exact h

theorem atomGlobal {r : AtomArgs} : (s.atomGlobal r).Formed := by
  unfold State.atomGlobal
  extract_lets
  refine h.needs (.either h (.either h ?_))
  split
  next e => exact (h.xlateRange.of_eq e).slot
  next e => exact .either (h.xlateRange.of_eq e).awaitAcked (h.inOrder (h.xlateRange.of_eq e).atomPieces)

/-! ## Long forms and answers -/

theorem longLane {d : Option VReg} {i a : Nat} {v : VReg} : (s.longLane d i a v).2.Formed := by
  cases d with
  | some => exact h.ownWrite
  | none => exact h.readSpad

theorem longStep {b : Bool} {p : Pend} : (s.longStep b p).Formed := by
  unfold State.longStep
  split
  · exact either h.longLane.onCtx h.longLane.onCtx
  · exact h

theorem answer {b : Bool} {p : Pend} {d : BitVec 64} {x : Bool} : (s.answer b p d x).Formed := by
  unfold State.answer
  split
  · exact h.congr
  · exact h.congr
  · exact h.performAt.onCtx
  · exact h.longStep
  · exact either h.congr h

theorem endRecord {n : Nat} {a : BitVec 56} : (s.endRecord n a).Formed := h.power

theorem endRequest {b : Bool} {p : Pend} {n : Nat} : (s.endRequest b p n).Formed :=
  either h.onCtx.endRecord.onCtx h.onCtx.endRecord

theorem loseAck {n : Nat} : (s.loseAck n).Formed := by
  unfold State.loseAck
  split
  · exact h.congr
  · exact h

theorem lockBad {va : BitVec 64} : (s.lockBad va).Formed := h
theorem lockLate {va : BitVec 56} {b : Bool} : (s.lockLate va b).Formed := either h.endRecord.onCtx h.endRecord

theorem onLock {f : BitVec 56 → State → State} (hf : ∀ va t, t.Formed → (f va t).Formed) : (s.onLock f).Formed := by
  unfold State.onLock
  split
  · exact either (hf _ _ h) h
  · exact h

theorem lockTimeout {b : Bool} : (s.lockTimeout b).Formed := h.onLock fun _ _ ht => by
  split
  · exact either ht (SlotOut.Formed.fin ht.lockLate.lockBad)
  · exact ht

theorem onUnit {q : BitVec 4} {f : Fin 16 → State → State} (hf : ∀ i t, t.Formed → (f i t).Formed) : (s.onUnit q f).Formed :=
  (hf _ _ h).saveDone

theorem sendAgain {w : Way} : (s.sendAgain w).2.Formed := by
  unfold State.sendAgain
  split
  · exact h
  · exact h.sendAll

theorem nackWay {w : Way} : (s.nackWay w).2.Formed := by
  unfold State.nackWay
  split
  · exact h
  · split
    · exact h.sendAgain
    · exact h

theorem onWay {r : ReqRef} {f : Way → State → Way × State} (hf : ∀ w t, t.Formed → (f w t).2.Formed) : (s.onWay r f).Formed := by
  unfold State.onWay
  split
  · split
    · exact (hf _ _ h).onCtx
    · exact h
  · split
    · exact (hf _ _ h).onCtx
    · exact h
  · exact h

theorem nackUnit {i : Fin 16} : (s.nackUnit i).Formed := by
  unfold State.nackUnit
  split
  · exact h
  · exact either h.unhold (either h.headAccess.congr h)

theorem resendReport {n : Nat} {c : BitVec 4} : (s.resendReport n c).Formed := by
  unfold State.resendReport
  split
  · exact either h.sendReport h
  · exact h

theorem noteDormant {r : ReqRef} : (s.noteDormant r).Formed := by
  unfold State.noteDormant
  split
  · exact h.congr
  · exact h

theorem serve {r : FabricReq} : (s.serve r).Formed := by
  unfold State.serve
  extract_lets
  split
  · exact h.readPhys.congr
  · exact either h.writePhys.congr h.writePhys
  · simp only []
    split
    · exact h.readPhys.writePhys.congr
    · exact h.readPhys.congr

/-! ## Ordering points, locks, cache lines -/

theorem poolFlush {t : State} (e : s.poolFlush = .ok t) : t.Formed := by
  unfold State.poolFlush at e
  extract_lets at e
  split at e
  · exact absurd e (by simp)
  · exact absurd e (by simp)
  · refine Except.ok.inj e ▸ h.onMem fun m hm => ?_
    exact foldl_keeps (P := fun m => Memory.wf m = true) _ hm fun _ _ => Memory.wf_writeBack

theorem orderWaitElse {o : SlotOut} (ho : o.Formed) : ((s.orderWait).getD o).Formed := by
  cases e : s.orderWait with
  | none => exact ho
  | some => exact h.orderWait e

theorem ordered {x : BitVec 3} {k : State → SlotOut} (hk : ∀ t, t.Formed → (k t).Formed) : (s.ordered x k).Formed := by
  unfold State.ordered
  split
  · split
    next => exact h
    next e => exact h.orderWaitElse (hk _ (h.poolFlush e))
  · exact h.orderWaitElse (hk _ h)

theorem noteRelease {b : Bool} : (s.noteRelease b).Formed := either h.congr h

theorem lockPoison {va : BitVec 64} {b : Bool} : (s.lockPoison va b).Formed := either h.fresh.lockLate h.fresh

theorem irrevocable : s.irrevocable.Formed := h.congr
theorem remoteBytes {n : Nat} : (s.remoteBytes n).2.2.Formed := h.congr

theorem lockAway {va : BitVec 64} {l : List (Xlat × Nat)} {m : BitVec 18} {pa : Nat} : (s.lockAway va l m pa).Formed := by
  unfold State.lockAway
  extract_lets wait refused cas
  have hrefused {t : State} (ht : t.Formed) : (refused t).Formed := ht.endRecord
  refine .either h ?_
  split
  next e =>
    have hr := h.refuses.of_eq e
    refine .either (hrefused hr) ?_
    split
    next e =>
      have hp := hr.readPieces.of_eq₂ e
      refine .either hp.lockPoison (.either hp ?_)
      split
      next e =>
        have hs := (State.Formed.refuses (hp.sendAll.irrevocable)).of_eq e
        refine .either (hrefused hs.onCtx) ?_
        split
        next e =>
          have hb := hs.remoteBytes.of_eq₂ e
          exact .either hb.lockPoison (.either hb hb.onCtx)

theorem lockTry {va : BitVec 64} {l : List (Xlat × Nat)} : (s.lockTry va l).Formed := by
  unfold State.lockTry
  split
  · split
    · exact h.lockAway
    · refine .either h ?_
      split
      next e =>
        have ha := h.atomAt.of_eq₂ e
        exact .either ha.lockBad (.either ha (onCtx (either ha.congr ha)))
  · exact h

theorem acquire {va : BitVec 64} : (s.acquire va).Formed := by
  unfold State.acquire
  split
  next e => exact (h.xlateRange.of_eq e).slot
  next e => exact h.inOrder (h.xlateRange.of_eq e).lockTry

theorem lockWord {b : Reg} {k : BitVec 64 → SlotOut} (hk : ∀ v, (k v).Formed) : (s.lockWord b k).Formed :=
  h.needsClean (.either h (hk _))

theorem releaseLock {g : BitVec 1} {x : BitVec 3} {va : BitVec 64} {l : List (Xlat × Nat)} : (s.releaseLock g x va l).Formed :=
  .either h h.writeAccess.addAcks.noteRelease

theorem lineForm {b : Reg} {c : BitVec 3} {w : Bool} : (s.lineForm b c w).Formed := by
  unfold State.lineForm
  extract_lets
  refine h.needsClean ?_
  split
  next e => exact (h.xlateRange.of_eq e).slot
  next e =>
    have hx := h.xlateRange.of_eq e
    split
    · exact .either (h.inOrder (hx.onMem fun _ => Memory.wf_writeBack).onCtx) hx
    · exact hx

theorem deliverTo {g : GroveNum} {a : Nat} {x y : List Byte × Bool} : (s.deliverTo g a x y).Formed :=
  h.foldl fun _ _ ht => ht.congr

theorem mcDeliver {va : BitVec 64} {a : Nat} {g : List GroveNum} {l : List (Xlat × Nat)} : (s.mcDeliver va a g l).Formed := by
  unfold State.mcDeliver
  split
  next no t e =>
    have hr := h.refuses.of_eq e
    extract_lets u
    have hu : u.Formed := either hr.endRecord hr
    clear_value u
    have hl : (if no then (List.replicate 128 (0, true), u) else u.readMarked u.ctx.part l).2.Formed := by
      split
      · exact hu
      · exact hu.readMarked
    split
    next e =>
      extract_lets v
      have hv : v.Formed := (hl.of_eq e).foldl fun _ _ hx => hx.deliverTo
      clear_value v
      exact either hv hv.congr

theorem multicast {va : BitVec 64} {a : Nat} {m : BitVec 16} {c : BitVec 3} : (s.multicast va a m c).Formed := by
  unfold State.multicast
  simp only []
  refine .either h.onCtx ?_
  split
  next e => exact (h.xlateSpan.of_eq e).slot
  next e => exact .either h (h.inOrder (h.xlateSpan.of_eq e).mcDeliver.onCtx)

/-! ## Issue -/

theorem issueStall {w : Wait} : (s.issueStall w).Formed := either h.congr h.congr

theorem issueWords {a b c d : BitVec 32} : (s.issueWords a b c d).Formed := by
  unfold State.issueWords
  extract_lets
  split
  · exact h.takeTrap
  · exact either h.issueStall (either h.issueStall (either h.issueStall.onCore h.congr))

theorem fetchWords {a : Nat} {n : BitVec 128} : (s.fetchWords a n).2.Formed := by
  unfold State.fetchWords
  extract_lets
  split
  · exact h.congr
  · split
    · exact h
    · simp only []
      split
      · exact h.fresh
      · exact h.congr

theorem fetchPieces {l : List (Xlat × Nat)} {n : BitVec 128} : (s.fetchPieces l n).2.Formed := by
  unfold State.fetchPieces
  split
  · split
    · exact h
    · exact h.fetchWords
  · exact h

theorem fetch : s.fetch.Formed := by
  unfold State.fetch
  extract_lets
  split
  next e => exact (h.xlateSpan.of_eq e).takeTrap
  next e => exact (h.xlateSpan.of_eq e).pageStop
  next e => exact (h.xlateSpan.of_eq e).issueStall
  next e => exact (h.xlateSpan.of_eq e).issueStall
  next e =>
    have hx := h.xlateSpan.of_eq e
    exact either hx.issueStall (either hx.refuses.takeTrap
      (either hx.refuses.readPieces.takeTrap hx.refuses.readPieces.fetchPieces.issueWords))

theorem issueNext : s.issueNext.Formed := by
  unfold State.issueNext
  extract_lets
  refine either h (either h.stop ?_)
  split
  · exact h.onCore.onCtx.takeTrap
  · exact either (either h.onCore.issueStall h.onCore.onCtx.fetch) h.onCore.fetch

/-! ## Ends of runs and tasks -/

theorem endForm {o : SlotOut} (ho : o.Formed) : (s.endForm o).Formed := .either ho h

theorem taskEnd : s.taskEnd.Formed := by
  unfold State.taskEnd
  split
  next e => exact h.orderWait e
  next =>
    refine .either h ?_
    split
    next e => exact (h.writeBackMaps.of_eq e).slot
    next e =>
      have hw := h.writeBackMaps.of_eq e
      exact .either hw hw.drainLoads.endTask

end State.Formed
end Sys2Proof.Machine
end

section
/-!
PROOF. The canonical form, continued: the instructions of slots whose meaning is more than one shared form.
-/

set_option Elab.async false

namespace Sys2Proof.Machine

namespace State.Formed

variable {s : State}

section
variable (h : s.Formed)
include h

/-! ## Scalar forms -/

theorem transfer {a : BitVec 52} : (s.transfer a).Formed := h.congr

theorem jump {a : Reg} {k : State → SlotOut} (hk : ∀ t, t.Formed → (k t).Formed) : (s.jump a k).Formed :=
  h.needsClean (.either h (hk _ h.transfer))

theorem branch {t : Reg} {a : BitVec 52} {c : Prop} [Decidable c] :
    (s.needsClean 0x04 [s.srcA t] (.done (if c then s.transfer a else s))).Formed :=
  h.needsClean (o := .done _) (either h.transfer h)

theorem csrWrite {o : CsrOp} {n : BitVec 12} {x : BitVec 64} : (s.csrWrite o n x).Formed := by
  unfold State.csrWrite
  extract_lets
  split
  case h_10 | h_11 | h_12 | h_13 => exact either h.onCore h
  case h_15 | h_16 | h_17 => exact either h.congr h
  all_goals exact h.congr

theorem csrForm {o : CsrOp} {d r : Reg} {n : BitVec 12} : (s.csrForm o d r n).Formed :=
  h.needsClean (.either h (.either h h.csrWrite.putA))

theorem csrRead {d : Reg} {n : BitVec 12} :
    (if s.csrForbidden n then s.privilege else if s.csrWaits n then .stall s .board
      else s.putA 1 d (.clean (s.csrRead n))).Formed := .either h (.either h h.putA)

/-! ## Vector forms -/

theorem vcmp {r : VRel} {d a b : Reg} {k : BitVec 3} {t : BitVec 4} : (s.vcmp r d a b k t).Formed := h.needsLanes h.putK
theorem vlogic {d : Reg} {k : BitVec 3} {l : List Reg} {f : Nat → Nat → Nat} : (s.vlogic d k l f).Formed := h.elemForm
theorem vshift {d a b : Reg} {k : BitVec 3} {t : BitVec 4} {f : Nat → Nat → Nat → Nat} : (s.vshift d a b k t f).Formed :=
  h.elemForm
theorem permute {d a : Reg} {m : BitVec 64} {l : List VSrc} {b : Nat → Bool} {f : Nat → Option Nat} :
    (s.permute d a m l b f).Formed := h.needsLanes h.vecOut
theorem permuteBy {d a b : Reg} {k : BitVec 3} {f : Nat → Nat → Option Nat} : (s.permuteBy d a b k f).Formed := h.permute
theorem vscan {o : VFold} {e : Bool} {d a : Reg} {k : BitVec 3} {t : BitVec 4} : (s.vscan o e d a k t).Formed := h.vecOut
theorem vred {o : VFold} {d a : Reg} {k : BitVec 3} {t : BitVec 4} : (s.vred o d a k t).Formed := h.vecOut
theorem fillC {d : Reg} {f : Nat → BitVec 32} : (s.fillC d f).Formed := h.vecOut
theorem vfun {g : VFun} {d a : Reg} {k : BitVec 3} {t : BitVec 4} : (s.vfun g d a k t).Formed := h.elemForm
theorem vpackForm {d : Reg} {k : BitVec 3} {t : BitVec 4} {y : VTy} {l : List Reg} {f : Nat → Nat × Nat} :
    (s.vpackForm d k t y l f).Formed := h.vecOut

theorem vsplat {d a : Reg} {k : BitVec 3} : Out.Formed (execVsplat d a k s) :=
  h.taskOnly (h.needsScalar fun _ => h.vecOut)

theorem vcvt {d r : Reg} {t u : BitVec 4} {m : BitVec 3} : Out.Formed (execVcvt d r t u m s) :=
  h.taskOnly (h.needsLanes (vecOut (either h.onCtx h)))

/-! ## Vector memory -/

theorem checkWords {l : List Nat} {o : SlotOut} (ho : o.Formed) : (s.checkWords l o).Formed := by
  unfold State.checkWords
  split
  · exact h
  · split
    · exact h
    · exact ho

theorem touchWords {l : List Nat} : (s.touchWords l).2.Formed := h.touchAll

theorem readyWords {l : List Nat} : (s.readyWords l).2.Formed := by
  unfold State.readyWords
  split
  next e => exact h.touchWords.of_eq e
  next e =>
    split
    · exact (h.touchWords.of_eq e).mapProt
    · exact h.touchWords.of_eq e

theorem storeBlock {b : Nat} {l : List WordW} : (s.storeBlock b l).Formed :=
  either h.ownWrite (h.foldl fun _ _ ht => ht.ownWrite)

theorem storeWords {l : List WordW} : (s.storeWords l).Formed := h.foldl fun _ _ ht => ht.storeBlock

theorem storing {l : List Nat} {k : State → SlotOut} (hk : ∀ t, t.Formed → (k t).Formed) : (s.storing l k).Formed := by
  unfold State.storing
  refine h.checkWords (h.inOrder ?_)
  split
  next e => exact (h.readyWords.of_eq e).slot
  next e => exact hk _ (h.readyWords.of_eq e)

theorem awaitVec {d : Reg} {v : VReg} {m : BitVec 64} {x y : Bool} {w : Way} : (s.awaitVec d v m x y w).Formed := h.await

theorem vatomPieces {d : Reg} {v : BitVec 64} {x : VReg} {m : BitVec 64} {l : List (Xlat × Nat)} :
    (s.vatomPieces d v x m l).Formed := by
  unfold State.vatomPieces
  extract_lets
  split
  · split
    · exact awaitAcked h.sendAll.irrevocable
    · refine .either h.awaitAcked ?_
      split
      next e => exact awaitAcked (either (h.atomAt.of_eq₂ e).irrevocable (h.atomAt.of_eq₂ e))
  · exact h

theorem vlds {d r : Reg} {i : BitVec 16} : Out.Formed (execVlds d r i s) := by
  refine h.taskOnly (h.needsScalar fun _ => .either h.putC (h.checkWords (h.inOrder ?_)))
  split
  next e => exact (h.touch.of_eq e).slot
  next e => exact (h.touch.of_eq e).readLanes.putC

theorem vldsp {d r : Reg} {i : BitVec 16} : Out.Formed (execVldsp d r i s) := by
  refine h.taskOnly (.either h.putC (.either h.putC (h.inOrder ?_)))
  split
  next e => exact (h.touch.of_eq e).slot
  next e => exact (h.touch.of_eq e).readLanes.putC

theorem vsts {a b : Reg} {k : BitVec 3} : Out.Formed (execVsts a b k s) :=
  h.taskOnly (h.needsLanes (h.needsScalar fun _ => .either h (h.storing fun _ ht => ht.storeWords)))

theorem vgath {d a b : Reg} {k : BitVec 3} : Out.Formed (execVgath d a b k s) := by
  refine h.taskOnly (h.needsLanes (h.needsScalar fun _ => .either h.awaitVec (.either h.awaitVec
    (h.checkWords (h.inOrder ?_)))))
  split
  next e => exact (h.touchWords.of_eq e).slot
  next e => exact (h.touchWords.of_eq e).await

theorem vscat {d a b : Reg} {k : BitVec 3} : Out.Formed (execVscat d a b k s) :=
  h.taskOnly (h.needsLanes (h.needsScalar fun _ => .either h (.either h (h.storing fun _ ht => ht.await))))

theorem vrrd {d : Reg} {k : BitVec 3} {i : BitVec 4} : Out.Formed (execVrrd d k i s) :=
  h.taskOnly (.either h.ringFormat h.ringRead)

theorem vatomadd {d a b : Reg} {k : BitVec 3} : Out.Formed (execVatomadd d a b k s) := by
  refine h.taskOnly (h.needsLanes (h.needsScalar fun _ => .either h (.either h (.either h ?_))))
  split
  next e => exact (h.xlateRange.of_eq e).slot
  next e => exact .either (h.xlateRange.of_eq e).awaitVec (h.inOrder (h.xlateRange.of_eq e).vatomPieces)

/-! ## Matrix forms -/

theorem deliver {w : BitVec 2} {n : Nat} : (s.deliver w n).Formed := h.onCore

theorem mmaChecks {d : Reg} {b : Bool} {f : TileFmt} {o : SlotOut} (ho : o.Formed) : (s.mmaChecks d b f o).Formed :=
  .either h.matTrap (h.matRoom ho)

theorem bload {a : Reg} {w : BitVec 2} : Out.Formed (execBload a w s) :=
  h.taskOnly (h.withImage (fun _ ho => h.matLimits (.either h.matTrap ho)) fun _ _ ht => ht.land)

theorem mma {d a : Reg} {n f : BitVec 1} {w : BitVec 2} : Out.Formed (execMma d a n f w s) := by
  refine h.taskOnly (h.withImage (fun _ ho => h.matLimits (.either h.matTrap (h.mmaChecks ho))) fun _ l ht => ?_)
  cases l with
  | none => exact ht.deliver.putTile
  | some => exact ht.deliver.putTile

theorem mmab {d a : Reg} {n f : BitVec 1} {w : BitVec 2} : Out.Formed (execMmab d a n f w s) := by
  refine h.taskOnly (h.withImage (fun _ ho => h.matLimits (h.mmaChecks ho)) fun _ l ht => ?_)
  cases l with
  | none => exact ht.deliver.putTile
  | some => exact ht.deliver.putTile

theorem dadd {d a b : Reg} : Out.Formed (execDadd d a b s) :=
  h.taskOnly (h.matLimits (h.matSource fun _ => h.matSource fun _ => .either h.matTrap (h.matRoom h.putTile)))

theorem dscl {d : Reg} {i : BitVec 8} : Out.Formed (execDscl d i s) :=
  h.taskOnly (h.matLimits (h.matRoom (.either h.putTile h.putTile)))

theorem drd {d a b : Reg} : Out.Formed (execDrd d a b s) :=
  h.taskOnly (h.needs (h.matLimits (h.matSource fun _ => h.putD)))

theorem dwr {d a b : Reg} : Out.Formed (execDwr d a b s) :=
  h.taskOnly (h.needs (h.matLimits (h.matRoom (.either h.putTile h.putTile))))

/-! ## Segments -/

theorem segbeg {i : BitVec 16} : Out.Formed (execSegbeg i s) := h.taskOnly (.either h h.onCtx)

theorem segend {a b : Reg} : Out.Formed (execSegend a b s) :=
  h.taskOnly (h.needs (h.orderWaitElse (.either h (.either h (.either h.onCtx h)))))

/-! ## Ordering points, locks and multicast -/

theorem fence {x : BitVec 3} : Out.Formed (execFence x s) := SlotOut.Formed.out (h.ordered fun _ ht => ht.noteRelease)

theorem ifence : Out.Formed (execIfence s) := SlotOut.Formed.out (.either h h.congr)

theorem rel {b : Reg} {g : BitVec 1} {x : BitVec 3} : Out.Formed (execRel b g x s) := by
  refine SlotOut.Formed.out (h.lockWord fun _ => ?_)
  split
  next e => exact (h.xlateRange.of_eq e).slot
  next e => exact (h.xlateRange.of_eq e).ordered fun _ ht => ht.releaseLock

theorem mcfill {d b i : Reg} {c : BitVec 3} : Out.Formed (execMcfill d b i c s) :=
  h.taskOnly (h.needsClean (.either h (.either h (.either h h.multicast))))

/-! ## Ends of runs, launches, leases -/

theorem tend : Out.Formed (execTend s) := by
  refine h.taskOnly (h.endForm ?_)
  split
  · exact h.taskEnd
  · exact h.fresh.onCtx

theorem launch {a : Reg} : Out.Formed (execLaunch a s) := by
  refine h.taskOnly (h.needsClean (h.checkLocal ?_))
  split
  next e => exact (h.localRead.of_eq e).slot
  next e => exact inOrder (h.localRead.of_eq e) (.either (h.localRead.of_eq e) (h.localRead.of_eq e).acceptPacket.irrevocable)

theorem swpt {n : BitVec 12} : Out.Formed (execSwpt n s) := by
  refine h.taskOnly (.either h ?_)
  split
  · exact h
  · exact .either h h.onCtx

theorem lease {a : Reg} : Out.Formed (execLease a s) := h.taskOnly (h.needsClean (.either h h.endLease.onCtx))

theorem leaserel : Out.Formed (execLeaserel s) := h.taskOnly h.endLease.congr

/-! ## Phasers -/

theorem phsig {a : Reg} : Out.Formed (execPhsig a s) := h.taskOnly (h.memberForm fun _ _ => h.signalThen fun _ ht => ht)

theorem phwait {a : Reg} : Out.Formed (execPhwait a s) :=
  h.taskOnly (h.memberForm fun _ _ => .either h.phTrap h.waitPhase)

theorem phsw {a : Reg} : Out.Formed (execPhsw a s) :=
  h.taskOnly (h.memberForm fun _ _ => .either (h.signalThen fun _ ht => ht.waitPhase) h.waitPhase)

theorem phnew {d a b : Reg} : Out.Formed (execPhnew d a b s) := by
  refine h.taskOnly (h.needsClean (.either h.phTrap (.either h.phTrap ?_)))
  extract_lets
  split
  next e =>
    have hf := (h.fresh.of_eq e).irrevocable
    extract_lets
    split
    · exact hf.putD
    · extract_lets _ _ _ t
      exact (State.Formed.tryPhase (s := t) hf.congr).congr.putD

theorem phreg {a : Reg} {m : BitVec 2} : Out.Formed (execPhreg a m s) :=
  h.taskOnly (h.phaserForm fun _ => .either h.phTrap (.either h.phTrap (.either h.phTrap h.onPhaser.tryPhase.irrevocable)))

theorem phdrop {a : Reg} : Out.Formed (execPhdrop a s) := h.taskOnly (h.memberForm fun _ _ => h.dropMember.irrevocable)

theorem phqry {d a b : Reg} : Out.Formed (execPhqry d a b s) :=
  h.taskOnly (h.needsClean (h.withPhaser fun _ => .either h.phTrap h.await))

/-! ## Rings, windows and maps -/

theorem ringset {a : Reg} {i : BitVec 4} : Out.Formed (execRingset a i s) :=
  h.taskOnly (h.descriptor fun _ _ ht => .either ht.ringFormat (.either ht ht.congr))

theorem rneed {a : Reg} {i : BitVec 4} : Out.Formed (execRneed a i s) :=
  h.taskOnly (h.ringForm fun _ _ => .either h.ringCount (.either h h))

theorem rfree {a : Reg} {i : BitVec 4} : Out.Formed (execRfree a i s) :=
  h.taskOnly (h.ringForm fun _ _ => .either h.ringFormat (.either h.ringCount (.either h h)))

theorem radv {a : Reg} {i : BitVec 4} : Out.Formed (execRadv a i s) :=
  h.taskOnly (h.ringForm fun _ _ => .either h.ringFormat (h.retireRows fun _ ht => ht))

theorem rpub {a : Reg} {i : BitVec 4} : Out.Formed (execRpub a i s) :=
  h.taskOnly (h.ringForm fun _ _ => .either h.ringFormat (.either h.ringCount
    (State.Formed.resolveRings (s := s.onHandle i _) h.congr)))

theorem rrd {d : Reg} {i : BitVec 4} : Out.Formed (execRrd d i s) := h.taskOnly (.either h.ringFormat h.ringRead)

theorem winset {a : Reg} {i : BitVec 4} : Out.Formed (execWinset a i s) :=
  h.taskOnly (h.descriptor fun _ _ ht => .either ht.ringFormat (.either ht ht.bindWindow))

theorem winadv {a : Reg} {i : BitVec 4} : Out.Formed (execWinadv a i s) :=
  h.taskOnly (h.ringForm fun _ _ => .either h.ringFormat (h.retireRows fun _ ht => ht.enableRows))

theorem mapset {a : Reg} {m : BitVec 4} : Out.Formed (execMapset a m s) := by
  refine h.taskOnly (h.descriptor fun t l ht => .either ht ?_)
  split
  next e => exact (ht.writeBackMap.of_eq e).slot
  next e => exact (ht.writeBackMap.of_eq e).congr

theorem mapflush {m : BitVec 4} : Out.Formed (execMapflush m s) := by
  refine h.taskOnly ?_
  split
  next e => exact (h.writeBackMap.of_eq e).slot
  next e => exact h.writeBackMap.of_eq e

/-! ## Queues -/

theorem qjoin {q : BitVec 4} {a c : Reg} {g : BitVec 1} : Out.Formed (execQjoin q a c g s) := by
  unfold execQjoin
  extract_lets
  split
  refine h.taskOnly (h.needsClean (.either h.queueTrap ?_))
  split
  next e => exact h.orderWait e
  next => exact h.accept

theorem qsig {q : BitVec 4} {c : Reg} : Out.Formed (execQsig q c s) := by
  unfold execQsig
  split
  exact h.taskOnly (h.needsClean (.either h.queueTrap h.accept))

theorem qstat {q : BitVec 4} {d b : Reg} : Out.Formed (execQstat q d b s) :=
  h.taskOnly (h.needsClean (putB (either h.unhalt h)))

end
end State.Formed
end Sys2Proof.Machine
end

section
/-!
PROOF. The canonical form, continued: the steps of the module's other agents and what the outside does. Three move lines between the
tables themselves: the loss of a link (R314), the end of POOLQ's work (R315), and the zeroing of a migrated frame (R406).
-/

set_option Elab.async false

namespace Sys2Proof.Machine
theorem Memory.wf_zeroFrame {m : Mem} {lo n : Nat} (h : Memory.wf m = true) : Memory.wf (m.zeroFrame lo n) = true := by
  obtain ⟨hb, hc, -, hq⟩ := Memory.wf_iff.1 (Memory.wf_zero (lo := lo) (n := n) h)
  obtain ⟨-, -, hd, -⟩ := Memory.wf_iff.1 h
  exact Memory.wf_iff.2 ⟨hb, hc, smSorted_filter _ hd, hq⟩

namespace State.Formed

variable {s : State} (h : s.Formed)
include h

/-! ## Answers to requests -/

theorem loadComplete {c : CoreNum} {n : Nat} {d : BitVec 64} {x : Bool} : Out.Formed (execLoadComplete c n d x s) :=
  .next (h.asCore fun _ ht => by
    split
    · exact either ht ht.answer
    · exact ht)

theorem writeAcknowledged {c : CoreNum} {n : Nat} : Out.Formed (execWriteAcknowledged c n s) :=
  .next (h.asCore fun _ ht => by
    split
    · exact either ht ht.onCtx
    · exact ht)

theorem requestTimeout {c : CoreNum} {r : ReqRef} : Out.Formed (execRequestTimeout c r s) :=
  .next (h.asCore fun _ ht => either ht (by
    cases r with
    | load =>
      dsimp only
      split
      · exact either ht ht.endRequest
      · exact ht
    | write =>
      dsimp only
      split
      · exact either ht ht.loseAck
      · exact ht
    | unit => exact ht.onUnit fun _ _ hu => hu.unitTimeout
    | lock => exact ht.lockTimeout
    | posted | report => exact ht))

theorem nackResend {c : CoreNum} {r : ReqRef} {x : BitVec 4} : Out.Formed (execNackResend c r x s) :=
  .next (State.Formed.asCore (s := s.fresh.2.countRetry _) h.congr fun _ ht => by
    cases r with
    | unit => exact ht.nackUnit
    | report => exact ht.resendReport
    | load | write | lock | posted => exact (either ht.noteDormant ht).onWay fun _ _ hu => hu.nackWay)

theorem dormantRetry {c : CoreNum} {r : ReqRef} : Out.Formed (execDormantRetry c r s) :=
  .next (h.asCore fun _ ht => by
    cases r with
    | unit =>
      dsimp only
      split
      · exact ht.congr
      · exact ht
    | load | write | lock | posted | report =>
      exact ht.noteDormant.onWay fun _ _ hu => by
        split
        · exact hu.sendAgain
        · exact hu)

theorem refusedResponse {c : CoreNum} {r : ReqRef} : Out.Formed (execRefusedResponse c r s) :=
  .next (h.asCore fun _ ht => either ht (by
    cases r with
    | load =>
      dsimp only
      split
      · exact either ht.endRequest ht
      · exact ht
    | write =>
      dsimp only
      split
      · exact either ht.loseAck ht
      · exact ht
    | unit => exact ht.onUnit fun _ _ hu => hu.unitRefused
    | posted => exact ht.endRecord
    | lock | report => exact ht))

theorem pageWaitRetry {c : CoreNum} {r : HeldRef} : Out.Formed (execPageWaitRetry c r s) :=
  .next (either (h.asCore fun _ ht => by
    cases r with
    | window => exact ht.retryWindow
    | queue => exact ht.onUnit fun _ _ hu => either hu.unhold.queueUnit hu) h)

theorem acqPoll {c : CoreNum} : Out.Formed (execAcqPoll c s) :=
  .next (h.asCore fun _ ht => ht.onLock fun _ _ hu => hu.acquire.fin)

/-! ## Fabric and pool -/

theorem send {m : OutMsg} : (s.send m).Formed := h.congr

theorem forgetUndo {lo n : Nat} : (s.forgetUndo lo n).Formed := h.congr

theorem unready {t : State} (e : s.unready = some t) : t.Formed := by
  unfold State.unready at e
  split at e
  · exact Option.some.inj e ▸ h.congr
  · split at e
    · exact Option.some.inj e ▸ h.congr
    · exact absurd e (by simp)

theorem fabricRequest {r : FabricReq} : Out.Formed (execFabricRequest r s) := .next (by
  split
  next e => exact h.unready e
  next => exact either h.congr (either h.congr (either h.congr h.serve)))

theorem cxlLinkLoss {p : BitVec 1} : Out.Formed (execCxlLinkLoss p s) := .next (by
  refine either h ?_
  extract_lets cut t held u v
  have hu : u.Formed := h.onTrunk.onMem fun m hm => by
    obtain ⟨hb, hc, hd, hq⟩ := Memory.wf_iff.1 hm
    exact Memory.wf_iff.2 ⟨hb, hc, smSorted_filter _ hd, 
      foldl_keeps (P := fun q => smSorted none q = true) _ hq fun _ _ hq => smSorted_smPut hq (by simp)⟩
  have hv : v.Formed := (hu.foldl fun _ _ ht => ht.severCore).congr
  exact hv.foldl fun _ _ ht => ht.errRecord)

theorem backInvalidationSnoop {l : Snoop} : Out.Formed (execBackInvalidationSnoop l s) := .next (by
  refine either h ?_
  extract_lets t
  have ht : t.Formed := by
    simp only [t]
    split
    · exact (h.onMem fun _ => Memory.wf_writeBack).send
    · exact h
  exact ht.sharerWrite)

theorem poolqDone : Out.Formed (execPoolqDone s) := .next (by
  split
  · exact h
  · extract_lets _ t lines u
    have hu : u.Formed := h.onTrunk.onMem fun m hm => by
      have hl : Memory.wf (lines.foldl Mem.releaseLine m) = true :=
        foldl_keeps (P := fun m => Memory.wf m = true) _ hm fun _ _ => Memory.wf_storeLine
      extract_lets m'
      have hm' : Memory.wf m' = true := by
        simp only [m']
        split
        · exact hl
        · exact hm
      obtain ⟨hb, hc, hd, hq⟩ := Memory.wf_iff.1 hm'
      exact Memory.wf_iff.2 ⟨hb, hc, hd, smSorted_filter _ hq⟩
    exact either h.onTrunk hu.onTrunk)

/-! ## Maps, invalidation and migration -/

theorem mapFill {c : CoreNum} {m : BitVec 4} {g : BitVec 9} : Out.Formed (execMapFill c m g s) :=
  .next (h.asCore fun _ ht => by
    extract_lets
    split
    · refine either ?_ ht
      split
      next e => exact ht.fillGranule.of_eq e
      next => exact ht
    · exact ht)

theorem invalidationComplete {p : PartNum} : Out.Formed (execInvalidationComplete p s) := .next (by
  split
  · exact h
  · extract_lets t u
    have ht : t.Formed := h.invalidateContexts.congr
    have hu : u.Formed := either
      (ht.onMem fun m hm => foldl_keeps (P := fun m => Memory.wf m = true) _ hm fun _ _ => Memory.wf_writeBack) ht
    exact either h hu.onPart)

theorem hotnessWindow {p : PartNum} {l : BitVec 32} {r : BitVec 6} {n : BitVec 32} : Out.Formed (execHotnessWindow p l r n s) :=
  .next (by
    split
    · exact h
    · split
      · exact h
      · extract_lets t
        have ht : t.Formed := h.congr
        exact either h (either ht.plainRecord ht))

theorem migrationSwitch {p : PartNum} : Out.Formed (execMigrationSwitch p s) := .next (by
  split
  · exact h
  · exact either h (either h.migAbort (either h.migAbort h.copyFrame.writePhys.onPart)))

theorem migrationDone {p : PartNum} : Out.Formed (execMigrationDone p s) := .next (by
  split
  · exact h
  · extract_lets t u
    have ht : t.Formed := h.onMem fun _ => Memory.wf_zeroFrame
    have hu : u.Formed := either ht.onTrunk ht
    exact either h hu.plainRecord)

theorem migrationAborted {p : PartNum} {b : Bool} : Out.Formed (execMigrationAborted p b s) := .next (by
  split
  · exact h
  · exact either h (either (either h.migAbort h) (either h.migAbort h)))

/-! ## Phasers and collectives -/

theorem phaseAnnounce {e : BitVec 4} {i : BitVec 12} {r : BitVec 16} {n : BitVec 32} {b : Bool} :
    Out.Formed (execPhaseAnnounce e i r n b s) := .next (by
  split
  next e => exact h.unready e
  next => exact h.onPhaser.tryPhase)

theorem collectiveContribution {p : PartNum} {g : BitVec 10} {n : BitVec 32} {r : BitVec 16} {l : List (BitVec 128 × Bool)} :
    Out.Formed (execCollectiveContribution p g n r l s) := .next (by
  split
  next e => exact h.unready e
  next => exact h.onPart)

theorem groupTimeout {c : CoreNum} {q : BitVec 4} : Out.Formed (execGroupTimeout c q s) := h.queueStep fun t ht => by
  extract_lets _ u
  have hu : u.Formed := ht.congr
  split
  · split
    · refine either ht ?_
      split
      · exact hu.collRefuse
      · exact (either hu hu.collStart).collFinish
    · exact ht
  · exact ht

/-! ## Cores, leases and power -/

theorem onGrove {g : GroveNum} {f : Grove → Grove} : (s.onGrove g f).Formed := h.congr

theorem leaseDecision {c : CoreNum} : Out.Formed (execLeaseDecision c s) := .next (by
  split
  · exact h
  · extract_lets
    exact either h.onCore.power h.onCore.power)

theorem mmaDeliveryEnd {c : CoreNum} : Out.Formed (execMmaDeliveryEnd c s) := .next (by
  extract_lets t
  exact either (either h.congr h.congr) h)

theorem slewStep {g : GroveNum} : Out.Formed (execSlewStep g s) := by
  unfold execSlewStep
  simp only []
  split
  · exact .next (foldl_keeps (P := State.Formed) _ h.congr fun _ _ ht => ht.congr)
  · refine .next (onGrove ?_)
    split
    · exact h.congr
    · exact h.congr

theorem dispatch {p : PartNum} {c : CoreNum} : Out.Formed (execDispatch p c s) := .next (either h h.giveCore)

theorem quantumExpiry {c : CoreNum} : Out.Formed (execQuantumExpiry c s) := by
  unfold execQuantumExpiry
  extract_lets _ _ t
  have ht : t.Formed := h.congr
  clear_value t
  exact .next (either h (either ht.stop ht))

theorem agingStep {p : PartNum} {l : BitVec 32} {n : Nat} : Out.Formed (execAgingStep p l n s) := .next (either h.congr h.congr)

theorem longWaitSwap {c : CoreNum} : Out.Formed (execLongWaitSwap c s) := .next (by
  refine either h ?_
  split
  · exact h.stop
  · exact h)

theorem dieShed {d : BitVec 2} : Out.Formed (execDieShed d s) := .next (by
  extract_lets t u
  have ht : t.Formed := h.foldl fun _ _ hv => hv.stop
  exact either h (either ht ht.onTrunk.dieRecord))

theorem dieRestore {d : BitVec 2} : Out.Formed (execDieRestore d s) := .next (by
  extract_lets _ t _ u
  have hu : u.Formed := h.congr
  exact either h hu.dieRecord)

theorem thermChange {g : GroveNum} {l : BitVec 2} {r : BitVec 64} : Out.Formed (execThermChange g l r s) := .next (by
  refine either h ?_
  split
  next e =>
    extract_lets t
    have ht : t.Formed := either (h.fresh.of_eq e).onTrunk (h.fresh.of_eq e)
    exact State.Formed.levelRecord (s := t.onGrove g _) ht.congr)

theorem droopTrip {g : GroveNum} {c : Trip} : Out.Formed (execDroopTrip g c s) := by
  refine .next (levelRecord (either ?_ h))
  exact (foldl_keeps (P := State.Formed) _ h.congr fun _ _ ht => ht.onCore).foldl fun _ _ ht => ht.doubtTask

/-! ## Partitions -/

theorem groveChangeDone {p : PartNum} : Out.Formed (execGroveChangeDone p s) := .next (by
  extract_lets t u
  have ht : t.Formed := h.foldl fun _ _ hv => hv.zeroGrove
  have hu : u.Formed := either (ht.foldl fun _ _ hv => hv.zeroGranule.onTrunk) ht
  exact either h hu.onPart)

theorem ownerChangeDone : Out.Formed (execOwnerChangeDone s) := .next (h.foldl fun _ _ ht => ht.zeroGranule).onTrunk

theorem stopInterface {p : PartNum} : Out.Formed (execStopInterface p s) :=
  .next (onPart (h.endLaunches.clearAllKeys.foldl fun _ _ ht => ht.zeroGranule.onTrunk)).send

theorem untaggedTlp {p : PartNum} {w : Bool} : Out.Formed (execUntaggedTlp p w s) := .next (either (either h.enterError h.congr) h)

theorem keyset {p : PartNum} {i : BitVec 8} {l : BitVec 32} {d k : BitVec 256} : Out.Formed (execKeyset p i l d k s) :=
  .next (either h (vendor (either h.onPart h)))

theorem ownset {p : PartNum} {i : BitVec 8} {b : BitVec 52} {n l : BitVec 32} : Out.Formed (execOwnset p i b n l s) :=
  .next (either h (vendor (either (h.onMem fun _ => Memory.wf_zero).forgetUndo.onPart h)))

theorem keyclr {p : PartNum} {r : Bool} {i : BitVec 8} : Out.Formed (execKeyclr p r i s) :=
  .next (either h (either h.vendor (either h.vendor (vendor (either h.clearRange h.onPart)))))

theorem spdmRequest {c : BitVec 8} {l : List (BitVec 8)} : Out.Formed (execSpdmRequest c l s) := .next (by
  extract_lets _ t
  have ht : t.Formed := h.onTrunk
  exact either h.send (send (either ht.congr ht)))

theorem admission {p : PartNum} : Out.Formed (execAdmission p s) := .next (by
  refine either h ?_
  split
  · exact h.checkAdmit
  · exact h)

theorem launchPortWrite {o : BitVec 15} {l : List (BitVec 8)} : Out.Formed (execLaunchPortWrite o l s) :=
  .next (either h.congr (either h (either h.portPacket (either h h.onPart))))

theorem launchMessage {e k : List (BitVec 8)} : Out.Formed (execLaunchMessage e k s) := .next (by
  split
  next e => exact h.unready e
  next =>
    extract_lets
    exact either h.congr (either (State.Formed.sendReport (s := s.stamp.2) h.congr)
      (either h.refuse (either h.congr h.acceptPacket))))

theorem launchReportMessage {l : List (BitVec 8)} : Out.Formed (execLaunchReportMessage l s) := .next (by
  split
  next e => exact h.unready e
  next =>
    extract_lets
    exact either (State.Formed.enqueue (s := s.stamp.2) h.congr) h)

theorem hostWindowAccess {p : PartNum} {o : BitVec 36} {a : HostAcc} {t : Bool} : Out.Formed (execHostWindowAccess p o a t s) :=
  .next (either h.congr (either (by
    cases a with
    | write => exact h.enterError
    | read => exact h.congr) h.hostAccess))

/-! ## Dormancy, cuts, checkpoints and start -/

theorem powerFailWarning {b : Bool} : Out.Formed (execPowerFailWarning b s) := .next (either h.warn h)

theorem stopPhaseEnd : Out.Formed (execStopPhaseEnd s) := .next (either h (h.foldl fun _ _ ht => ht.onCore).onTrunk)

theorem writeBackDone : Out.Formed (execWriteBackDone s) := .next (either h h.flushPool.onTrunk)

theorem cutDone {r : Bool} : Out.Formed (execCutDone r s) := .next (by
  split
  · split
    · exact either h.cutFails (either h.cutFails h.cutCompletes)
    · exact h
  · exact h)

theorem checkpointBoundary {p : PartNum} {f : Bool} : Out.Formed (execCheckpointBoundary p f s) := .next (by
  extract_lets t _ _ u v
  have ht : t.Formed := either h.errRecord h
  have hu : u.Formed := ht.foldl fun _ _ hw => hw.boundaryCore
  have hv : v.Formed := hu.foldl fun _ _ hw => hw.boundaryTask
  exact either h hv.onPart)

theorem rollback {p : PartNum} {l : BitVec 32} {n : Nat} : Out.Formed (execRollback p l n s) := .next (by
  split
  · split
    · exact either h h.rollBack
    · exact h
  · exact h)

theorem startStep {r : StartResult} : Out.Formed (execStartStep r s) := .next (by
  refine either h ?_
  cases r with
  | failed => exact either h.startFails h
  | ok => exact either h.enterMarch (either h.marchStep (either (onTrunk (either h h.restoreStep)) h.onTrunk)))

/-! ## Registers -/

theorem readClear {w : Writer} {b : Bool} {o : BitVec 16} : Out.Formed (execReadClear w b o s) := by
  unfold execReadClear
  extract_lets r
  have hr : r.2.Formed := by
    simp only [r]
    split
    · exact h.readPort
    · exact h.configRead
  exact .next (h.written (either hr.congr hr))

end State.Formed
end Sys2Proof.Machine
end

section
/-!
PROOF. The canonical form, continued: every instruction and every step of another agent keeps it.
-/

set_option Elab.async false

namespace Sys2Proof.Machine

/-! ## Instructions and steps -/

namespace State.Formed

variable {s : State} (h : s.Formed)
include h

/-- Every instruction and step of another agent keeps the form. -/
theorem afterExec (i : Instr) : Out.Formed (exec i s) := by
  cases i with
  | add | sub | and | or | xor | andn | shl | shr | sra | rotr | min | max | minu | maxu | mul | mulh | mulhu | ext | extu | insi
  | cmpeq | cmpne | cmplt | cmple | cmpltu | cmpleu => exact SlotOut.Formed.out h.intA2
  | clz | ctz | popc | brev | exti | extui | addi | andi | ori | xori | shli | shri | srai | rotri | liu =>
    exact SlotOut.Formed.out h.intA1
  | ins => exact SlotOut.Formed.out h.intA3
  | sel | tagp | tagc | fcvt => exact SlotOut.Formed.out (h.needs h.putA)
  | li | call | movmRead => exact SlotOut.Formed.out (h.congr.putA)
  | faddS | fsubS | fmulS | fminS | fmaxS | faddD | fsubD | fmulD | fminD | fmaxD => exact SlotOut.Formed.out h.fpA2
  | fmaS | fmaD => exact SlotOut.Formed.out h.fpA3
  | fabsS | fnegS | fabsD | fnegD => exact SlotOut.Formed.out h.fpA1
  | fcmpeqS | fcmpltS | fcmpleS | fcmpunS | fcmpeqD | fcmpltD | fcmpleD | fcmpunD => exact SlotOut.Formed.out h.fpCmp
  | nop => exact SlotOut.Formed.out (o := .done s) h
  | br => exact SlotOut.Formed.out (o := .done _) h.transfer
  | brz | brnz => exact SlotOut.Formed.out h.branch
  | chk => exact SlotOut.Formed.out (o := .done _) (either h.transfer h)
  | jr | ret => exact SlotOut.Formed.out (h.jump fun _ ht => ht)
  | callr => exact SlotOut.Formed.out (h.jump fun _ ht => ht.putA)
  | movmWriteA | movmWriteB => exact SlotOut.Formed.out (o := .done _) h.land
  | trap | svc => exact .next h.trapAt
  | rft | halt => exact SlotOut.Formed.out (.either (o := .done _) h.congr h)
  | csrrd => exact SlotOut.Formed.out h.csrRead
  | csrwr | csrset | csrclr => exact SlotOut.Formed.out h.csrForm
  | segbeg => exact h.segbeg
  | segend => exact h.segend
  | lds | ldsx => exact SlotOut.Formed.out h.loadLocal
  | ldr | ldrx => exact SlotOut.Formed.out h.loadRemote
  | ldg | ldgx => exact SlotOut.Formed.out h.loadGlobal
  | ldgs | ldgsx => exact SlotOut.Formed.out h.loadSpec
  | ldk => exact SlotOut.Formed.out h.loadConst
  | sts => exact SlotOut.Formed.out h.storeLocal
  | str => exact SlotOut.Formed.out h.storeRemote
  | stg => exact SlotOut.Formed.out h.storeGlobal
  | atsAdd | atsSwap | atsCas | atsAnd | atsOr | atsXor | atsSmin | atsSmax => exact SlotOut.Formed.out h.atomLocal
  | atrAdd | atrSwap | atrCas | atrAnd | atrOr | atrXor | atrSmin | atrSmax => exact SlotOut.Formed.out h.atomRemote
  | atgAdd | atgSwap | atgCas | atgAnd | atgOr | atgXor | atgSmin | atgSmax => exact SlotOut.Formed.out h.atomGlobal
  | fence => exact h.fence
  | acq => exact SlotOut.Formed.out (h.lockWord fun _ => h.acquire)
  | rel => exact h.rel
  | ringset => exact h.ringset
  | rneed => exact h.rneed
  | rfree => exact h.rfree
  | radv => exact h.radv
  | rpub => exact h.rpub
  | rrd => exact h.rrd
  | winset => exact h.winset
  | winadv => exact h.winadv
  | mapset => exact h.mapset
  | mapflush => exact h.mapflush
  | mapinv => exact h.taskOnly (o := .done _) h.congr
  | mcfill => exact h.mcfill
  | wbl | invl | wbinvl => exact SlotOut.Formed.out h.lineForm
  | qcopy | qgath | qscat | qfill | qdec | qenc | qcoll => exact h.taskOnly h.blockForm
  | qjoin => exact h.qjoin
  | qsig => exact h.qsig
  | qstat => exact h.qstat
  | vadd | vsub | vmul | vfma | vmin | vmax | vabs | vneg => exact h.taskOnly h.elemForm
  | vcmpeq | vcmpne | vcmplt | vcmple => exact h.taskOnly h.vcmp
  | vsel => exact h.taskOnly h.vecOut
  | vexp2 | vlog2 | vrcp | vrsq | vsin | vcos | vtanh | vsigm => exact h.taskOnly h.vfun
  | vand | vor | vxor | vandn | vnot => exact h.taskOnly h.vlogic
  | vshl | vshr | vsra | vrotl => exact h.taskOnly h.vshift
  | vcvt => exact h.vcvt
  | vpack | vunpkl | vunpkh => exact h.taskOnly h.vpackForm
  | vperm | vrev => exact h.taskOnly h.permute
  | vbcast | vslideup | vslidedn => exact h.taskOnly h.permuteBy
  | vsplat => exact h.vsplat
  | vscani | vscanx | vscanmax | vscanmin => exact h.taskOnly h.vscan
  | vredadd | vredmin | vredmax | vredand | vredor | vredxor => exact h.taskOnly h.vred
  | kand | kor | kxor | kandn | knot | kfromv => exact h.taskOnly h.putK
  | kpop | kfirst | ktov => exact h.taskOnly h.fillC
  | vlds => exact h.vlds
  | vldsp => exact h.vldsp
  | vsts => exact h.vsts
  | vgath => exact h.vgath
  | vscat => exact h.vscat
  | vrrd => exact h.vrrd
  | vatomadd => exact h.vatomadd
  | movmWriteC | fmtw | movmWriteD => exact h.taskOnly (o := .done _) h.land
  | mma => exact h.mma
  | mmab => exact h.mmab
  | bload => exact h.bload
  | bclr => exact h.taskOnly (h.matLimits (o := .done _) h.land)
  | dzero => exact h.taskOnly (h.matLimits (h.matRoom h.putTile))
  | dmov | dcvt => exact h.taskOnly (h.matLimits (h.matSource fun _ => h.matRoom h.putTile))
  | dadd => exact h.dadd
  | dscl => exact h.dscl
  | drd => exact h.drd
  | dwr => exact h.dwr
  | mstat => exact h.taskOnly h.putD
  | phnew => exact h.phnew
  | phreg => exact h.phreg
  | phdrop => exact h.phdrop
  | phsig => exact h.phsig
  | phwait => exact h.phwait
  | phsw => exact h.phsw
  | phqry => exact h.phqry
  | launch => exact h.launch
  | lease => exact h.lease
  | swpt => exact h.swpt
  | ifence => exact h.ifence
  | tend => exact h.tend
  | taskend => exact h.taskOnly (h.endForm h.taskEnd)
  | leaserel => exact h.leaserel
  | bundleIssue => exact .next (h.asCore fun _ ht => ht.issueNext)
  | acqPoll => exact h.acqPoll
  | windowRowArrival => exact .next (either (h.asCore fun _ ht => ht.rowArrives) h)
  | mapFill => exact h.mapFill
  | queueUnitDone => exact h.queueStep fun _ ht => ht.queueUnit
  | queueEntryComplete => exact h.queueStep fun _ ht => ht.completeHead
  | collectiveContribution => exact h.collectiveContribution
  | groupTimeout => exact h.groupTimeout
  | mmaDeliveryEnd => exact h.mmaDeliveryEnd
  | slewStep => exact h.slewStep
  | phaseComplete => exact .next h.tryPhase
  | phaseAnnounce => exact h.phaseAnnounce
  | leaseDecision => exact h.leaseDecision
  | leaseExpiry => exact .next h.expireLease
  | loadComplete => exact h.loadComplete
  | writeAcknowledged => exact h.writeAcknowledged
  | requestTimeout => exact h.requestTimeout
  | nackResend => exact h.nackResend
  | dormantRetry => exact h.dormantRetry
  | fabricRequest => exact h.fabricRequest
  | refusedResponse => exact h.refusedResponse
  | cxlLinkLoss => exact h.cxlLinkLoss
  | backInvalidationSnoop => exact h.backInvalidationSnoop
  | poolqDone => exact h.poolqDone
  | hostWindowAccess => exact h.hostWindowAccess
  | untaggedTlp => exact h.untaggedTlp
  | launchPortWrite => exact h.launchPortWrite
  | launchMessage => exact h.launchMessage
  | launchReportMessage => exact h.launchReportMessage
  | admission => exact h.admission
  | dispatch => exact h.dispatch
  | quantumExpiry => exact h.quantumExpiry
  | agingStep => exact h.agingStep
  | longWaitSwap => exact h.longWaitSwap
  | thermChange => exact h.thermChange
  | droopTrip => exact h.droopTrip
  | invalidationComplete => exact h.invalidationComplete
  | hotnessWindow => exact h.hotnessWindow
  | migrationSwitch => exact h.migrationSwitch
  | migrationDone => exact h.migrationDone
  | migrationAborted => exact h.migrationAborted
  | groveChangeDone => exact h.groveChangeDone
  | ownerChangeDone => exact h.ownerChangeDone
  | stopInterface => exact h.stopInterface
  | keyset => exact h.keyset
  | ownset => exact h.ownset
  | keyclr => exact h.keyclr
  | spdmRequest => exact h.spdmRequest
  | checkpointBoundary => exact h.checkpointBoundary
  | rollback => exact h.rollback
  | powerFailWarning => exact h.powerFailWarning
  | stopPhaseEnd => exact h.stopPhaseEnd
  | writeBackDone => exact h.writeBackDone
  | drainDone | reserveAtSealres => exact .next (either h.drainEnds h)
  | dieShed => exact h.dieShed
  | dieRestore => exact h.dieRestore
  | cutDone => exact h.cutDone
  | powerOn | fundamentalReset => exact .next (either h.beginStart h)
  | supplyLoss | hardThermalTrip => exact .next (either h.loseState h)
  | startStep => exact h.startStep
  | startTimeout => exact .next (either h.startFails h)
  | readClear => exact h.readClear
  | pageWaitRetry => exact h.pageWaitRetry
  | fabricLinkTrained | reserveSpent | reserveCharged | cxlLinkTrained => exact .next (either h.onTrunk h)
  | sealWritten => exact .next (either h h.congr)
  | lockInterface | getDeviceInterfaceReport | startInterface => exact .next (either h.congr h.tdispError)
  | ideKm => exact .next (either h.congr h)
  | droopWindowEnd | rowIdleTimer | portModuleLosesValid | brownOutChange | brownFallHeld | auxiliarySupplyLoss =>
    exact .next h.congr
  | modidWrite => exact .next (h.written h.writeModid)
  | fabportWrite | invalidate | invalidateAll | invalidateFlush | cfgselWrite => exact .next (h.written h.congr)
  | poolqWriteBack | poolqDiscard => exact .next (h.written h.writePoolq)
  | pfdoneRetry | pfdoneTrap => exact .next (h.written h.pfdone)
  | schedkill => exact .next (h.written h.kill)
  | evqbaseWrite => exact .next (h.written h.writeEvqbase)
  | grovepwrWrite => exact .next (h.written h.writeGrovepwr)
  | migrationGo => exact .next (h.written h.writeMigctl)
  | partctlWrite | partitionTeardown => exact .next (h.written h.writePartctl)
  | cfgdataWrite => exact .next (h.written h.writeCfgdata)
  | ownerChange => exact .next (h.written h.writeMemown)
  | elideSet | elideClear => exact .next (h.written h.writeElidemap)
  | dormctlTest | dormctlDiscard => exact .next (h.written h.writeDormctl)
  | cutTake | cutRestore | cutAbort => exact .next (h.written h.writeCutctl)
  | fullStart => exact .next (h.written h.writeStartctl)
  | registerWrite => exact .next (h.written h.configWrite)

end State.Formed
end Sys2Proof.Machine
end

section
/-!
PROOF. The canonical form, concluded: what the module's own agents owe keeps it, so the passing of a turn does, and slots, turns and
steps do (R66); the statement about it (O57).
-/

set_option Elab.async false

namespace Sys2Proof.Machine

/-! ## What the module's own agents owe -/

/-- Every step of a list of due steps keeps the form. -/
def DuesFormed (l : List Due) : Prop := ∀ d ∈ l, ∀ s : State, s.Formed → (d s).Formed

namespace DuesFormed

theorem nil : DuesFormed [] := fun _ hd => absurd hd List.not_mem_nil

theorem cons {d : Due} {l : List Due} (hd : ∀ s : State, s.Formed → (d s).Formed) (hl : DuesFormed l) : DuesFormed (d :: l) :=
  List.forall_mem_cons.2 ⟨hd, hl⟩

theorem append {l k : List Due} (hl : DuesFormed l) (hk : DuesFormed k) : DuesFormed (l ++ k) := fun d hd =>
  (List.mem_append.1 hd).elim (hl d) (hk d)

theorem flatMap {α : Type} {l : List α} {f : α → List Due} (hf : ∀ a, DuesFormed (f a)) : DuesFormed (l.flatMap f) :=
  fun d hd => by
    obtain ⟨a, -, ha⟩ := List.mem_flatMap.1 hd
    exact hf a d ha

theorem map {α : Type} {l : List α} {f : α → Due} (hf : ∀ a (s : State), s.Formed → (f a s).Formed) : DuesFormed (l.map f) :=
  fun d hd => by
    obtain ⟨a, -, rfl⟩ := List.mem_map.1 hd
    exact hf a

theorem either {c : Prop} [Decidable c] {l k : List Due} (hl : DuesFormed l) (hk : DuesFormed k) :
    DuesFormed (if c then l else k) := by
  split
  · exact hl
  · exact hk

theorem one {d : Due} (hd : ∀ s : State, s.Formed → (d s).Formed) : DuesFormed [d] := cons hd nil

theorem dueIf {c : Bool} {d : Due} (hd : ∀ s : State, s.Formed → (d s).Formed) : DuesFormed (dueIf c d) := either (one hd) nil

/-- What a context owes. -/
theorem context {k : Core} {c : CoreNum} {n : Nat} : DuesFormed (k.due c n) := by
  unfold Core.due
  refine append (append (append (append (append (append (append ?requests ?acks) ?windows) ?queues) ?lease) ?expiry) ?waits)
    (dueIf fun _ h => h.quantumExpiry)
  case requests =>
    refine map fun _ _ h => ?_
    split
    · exact h.nackResend
    · exact h.loadComplete
  case acks =>
    refine map fun _ _ h => ?_
    split
    · exact h.nackResend
    · exact h.writeAcknowledged
  case windows =>
    refine flatMap fun _ => ?_
    split
    · exact append (dueIf fun _ h => h.afterExec (.windowRowArrival ..)) (dueIf fun _ h => h.pageWaitRetry)
    · exact nil
  case queues =>
    exact flatMap fun _ => either nil (append
      (either (one fun _ h => h.nackResend) (either (one fun _ h => h.pageWaitRetry)
        (one fun _ h => h.afterExec (.queueUnitDone ..))))
      (one fun _ h => h.afterExec (.queueEntryComplete ..)))
  case lease => exact dueIf fun _ h => h.leaseDecision
  case expiry => exact dueIf fun _ h => h.afterExec (.leaseExpiry _)
  case waits =>
    split
    · exact cons (fun _ h => h.acqPoll) (one fun _ h => h.longWaitSwap)
    · exact one fun _ h => h.longWaitSwap
    · exact one fun _ h => h.longWaitSwap
    · exact nil

theorem cores {s : State} : DuesFormed s.coresDue :=
  flatMap fun _ => append (either context nil) (dueIf fun _ h => h.mmaDeliveryEnd)

theorem groves {s : State} : DuesFormed s.grovesDue :=
  flatMap fun _ => cons (fun _ h => h.slewStep) (dueIf fun _ h => h.afterExec (.droopWindowEnd _))

theorem partition {q : Part} {p : PartNum} : DuesFormed (q.due p) := by
  unfold Part.due
  refine append (append (append (append (dueIf fun _ h => h.admission) (dueIf fun _ h => h.invalidationComplete)) ?_)
    (dueIf fun _ h => h.groveChangeDone)) (dueIf fun _ h => h.checkpointBoundary)
  split
  · refine one fun _ h => ?_
    split
    · exact h.migrationDone
    · exact h.migrationSwitch
  · exact nil

theorem parts {s : State} : DuesFormed s.partsDue := by
  unfold State.partsDue
  refine append (append (append (flatMap fun _ => partition) (flatMap fun _ =>
    append (map fun _ _ h => h.hotnessWindow) (dueIf fun _ h => h.agingStep))) (flatMap fun _ => ?tasks))
    (either nil (flatMap fun _ => ?idle))
  case tasks =>
    split
    · exact one fun _ h => h.agingStep
    · exact one fun _ h => h.rollback
    · exact nil
  case idle =>
    extract_lets
    split
    · exact dueIf fun _ h => h.dispatch
    · exact nil

theorem phasers {s : State} : DuesFormed s.phasersDue := map fun _ _ h => h.afterExec (.phaseComplete ..)

theorem dormancy {n : BitVec 4} : DuesFormed (dormancyDue n) := by
  unfold dormancyDue
  split
  · exact one fun _ h => h.stopPhaseEnd
  · exact one fun _ h => h.writeBackDone
  · exact one fun _ h => h.afterExec .drainDone
  · exact one fun _ h => h.afterExec .sealWritten
  · exact nil

theorem trunk {s : State} : DuesFormed s.trunkDue :=
  append (append (append (append (append (append (append
    (dueIf fun _ h => h.ownerChangeDone) (dueIf fun _ h => h.poolqDone)) (dueIf fun _ h => h.cutDone)) (either dormancy nil))
    (dueIf fun _ h => h.afterExec .reserveCharged))
    (flatMap fun _ => append (dueIf fun _ h => h.dieShed) (dueIf fun _ h => h.dieRestore)))
    (dueIf fun _ h => h.afterExec .powerOn)) (dueIf fun _ h => h.startStep)

theorem all {s : State} : DuesFormed s.due := append (append (append (append cores groves) parts) phasers) trunk

end DuesFormed

/-! ## Slots, turns and steps -/

/-- A word in a slot that is SWPT's keeps the form as SWPT does; any other is an instruction or NOP (R29, R66). -/
theorem State.Formed.runSlot {s : State} (h : s.Formed) : s.runSlot.Formed := by
  unfold State.runSlot
  extract_lets
  split
  · exact h.afterExec .nop
  · split
    · exact h.afterExec _
    · exact h.swpt
    · exact h.afterExec .nop

theorem State.Formed.runSlots {s : State} (n : Nat) (h : s.Formed) : (runSlots n s).Formed := by
  induction n generalizing s with
  | zero => exact .next h
  | succ n ih =>
    unfold Machine.runSlots
    split
    · exact .next h
    · split
      next e =>
        have ht := h.runSlot _ e
        split
        · split
          · exact .next ht
          · exact ih ht
        · exact .next ht
      · exact h.runSlot

namespace State.Formed

variable {s : State} (h : s.Formed)
include h

theorem after {d : Due} (hd : (d s).Formed) : (s.after d).Formed := by
  unfold State.after
  split
  next e => exact hd _ e
  next => exact h

theorem pass : s.pass.Formed := by
  unfold State.pass
  split
  next e =>
    have hf := h.wake.fresh.of_eq e
    extract_lets l t
    have ht : t.Formed := by
      simp only [t]
      split
      next e => exact (hf.after (DuesFormed.all _ (List.mem_of_getElem? e) _ hf)).wake
      next => exact hf
    exact ht.congr

theorem turn : s.turn.Formed := by
  unfold State.turn
  split
  · exact .next h.pass
  · split
    · exact .next h.stop.pass
    · have hr := (either (c := s.thr.issue.isSome) h h.issueNext).runSlots 4
      split
      next e => exact .next (hr _ e).pass
      next => exact hr

theorem step : Out.Formed (step s) := by
  unfold Machine.step
  split
  next i l e =>
    have hx := State.Formed.afterExec (s := { s with agenda := l }) h.congr i
    unfold woken
    split
    next e => exact .next (hx _ e).wake
    next => exact hx
  next => exact h.turn

end State.Formed
end Sys2Proof.Machine

namespace Sys2Proof.Claims
open Sys2Proof.Machine

/-- Settles O57, from the forms of every instruction, of every step that an agent owes, and of the turns between them. -/
theorem memoryKeepsItsForm : Obligations.MemoryKeepsItsForm := fun _ t h e => State.Formed.step h t e

end Sys2Proof.Claims
end

section
/-!
PROOF. Bytes of memory (R191, R218, R224): in memory without errors and elided units a read is a run of `byteAt`; a write within one
block ends in the dirty line, in both, or at the device, and each of the three puts its bytes and no other; runs of bytes and translated
pieces follow by appending such writes; the statement about memory's bytes (O16).
-/

namespace Sys2Proof.Machine

/-! ## The entry of a table at a key -/

section Entries
variable {α : Type} {k j : Nat} {v : α} {m : SMap α}

theorem smFind_smPut_same : (smPut k v m).find? (fun e => e.1 == k) = some (k, v) := by
  induction m with
  | nil => simp [smPut]
  | cons e t ih =>
    simp only [smPut]
    split
    next h => rw [List.find?_cons_of_neg (by simpa using Nat.ne_of_lt h), ih]
    next => split <;> simp

theorem smFind_smPut_other (h : j ≠ k) : (smPut k v m).find? (fun e => e.1 == j) = m.find? fun e => e.1 == j := by
  induction m with
  | nil => simp [smPut, h.symm]
  | cons e t ih =>
    simp only [smPut]
    split
    · simp only [List.find?_cons, ih]
    · split
      next hk => simp [hk, h.symm]
      next => rw [List.find?_cons_of_neg (by simpa using h.symm)]

theorem smFind_below {lo : Nat} (h : smSorted (some lo) m = true) (hk : k ≤ lo) : m.find? (fun e => e.1 == k) = none := by
  induction m generalizing lo with
  | nil => rfl
  | cons e t ih =>
    obtain ⟨he, ht⟩ := smSorted_cons.1 h
    have hlt := he lo rfl
    rw [List.find?_cons_of_neg (by rw [beq_iff_eq]; omega)]
    exact ih ht (by omega)

theorem smFind_smDel_same {lo : Option Nat} (h : smSorted lo m = true) : (smDel k m).find? (fun e => e.1 == k) = none := by
  induction m generalizing lo with
  | nil => rfl
  | cons e t ih =>
    have ht := smSorted_tail h
    simp only [smDel]
    split
    next hlt => rw [List.find?_cons_of_neg (by simpa using Nat.ne_of_lt hlt), ih ht]
    next hle =>
      split
      next hk => exact smFind_below ht (Nat.le_of_eq hk.symm)
      next hk =>
        rw [List.find?_cons_of_neg (by simpa using hk)]
        exact smFind_below ht (by omega)

theorem smFind_smDel_other (h : j ≠ k) : (smDel k m).find? (fun e => e.1 == j) = m.find? fun e => e.1 == j := by
  induction m with
  | nil => rfl
  | cons e t ih =>
    simp only [smDel]
    split
    · simp only [List.find?_cons, ih]
    · split
      next hk => simp [hk, h.symm]
      next => rfl

theorem smMem_smSet [DecidableEq α] {d : α} {e : Nat × α} (h : e ∈ smSet d k v m) : (e = (k, v) ∧ v ≠ d) ∨ e ∈ m := by
  unfold smSet at h
  split at h
  next => exact .inr (smMem_smDel h)
  next hv => exact (smMem_smPut h).imp (⟨·, hv⟩) id

end Entries

/-! ## Memory without errors -/

/-- No block differs from the right check bytes but by the mark of poison, at the device and in the dirty lines. -/
structure Mem.NoErrors (m : Mem) : Prop where
  check : ∀ e ∈ m.check, e.2 = markPattern
  lines : ∀ e ∈ m.dirty, e.2.check = 0 ∨ e.2.check = markPattern

/-- Memory in its canonical form, without errors, that holds dirty lines of the pool alone. -/
structure Mem.Sound (m : Mem) : Prop where
  wf : Memory.wf m = true
  pool : ∀ e ∈ m.dirty, target (e.1 * 64) = .pool
  noErrors : m.NoErrors

theorem finding_zero : finding 0 = .clean := if_pos rfl
theorem finding_markPattern : finding markPattern = .marked := (if_neg (by decide)).trans (if_pos rfl)

/-- The bounds of the address map (R214) are multiples of 64, so that a block lies in one part of it. -/
theorem target_blockOf (a : Nat) : target (blockOf a * 64) = target a := by
  have hle (n : Nat) : decide (n * 64 ≤ a / 64 * 64) = decide (n * 64 ≤ a) := decide_eq_decide.2 (by omega)
  have hlt (n : Nat) : decide (a / 64 * 64 < n * 64) = decide (a < n * 64) := decide_eq_decide.2 (by omega)
  have hhbm : a / 64 * 64 < 0x8000000000 ↔ a < 0x8000000000 := by omega
  simp only [target, blockOf, hhbm, show (0x4000000000000 : Nat) = 0x100000000000 * 64 from rfl,
    show (0x4030000000000 : Nat) = 0x100C00000000 * 64 from rfl, show configBase = 0x1C0000000000 * 64 from rfl,
    show poolBase = 0x200000000000 * 64 from rfl, show 0x1C0000000000 * 64 + (0x10000 : Nat) = 0x1C0000000400 * 64 from rfl,
    show (0x10000000000000 : Nat) = 0x400000000000 * 64 from rfl, hle, hlt]

/-- A listed line stands in the list. -/
theorem Mem.mem_dirty_of_line? {m : Mem} {b : Nat} {l : Line} (h : m.line? b = some l) : (b, l) ∈ m.dirty := by
  obtain ⟨e, he, rfl⟩ := Option.map_eq_some_iff.1 h
  have hb : e.1 = b := by simpa using List.find?_some he
  exact hb ▸ List.mem_of_find?_eq_some he

theorem Mem.NoErrors.checkOf {m : Mem} (h : m.NoErrors) (b : Nat) (c : Bool) : m.checkOf b c = 0 ∨ m.checkOf b c = markPattern := by
  unfold Mem.checkOf
  split
  next l e =>
    split at e
    · exact h.lines _ (Mem.mem_dirty_of_line? e)
    · cases e
  next => exact Claims.smGet_forall (P := fun x => x = 0 ∨ x = markPattern) (.inl rfl) (fun e he => .inr (h.check e he)) b

/-- What a reader finds in any block: right check bytes, or the mark. -/
theorem Mem.NoErrors.finding {m : Mem} (h : m.NoErrors) (b : Nat) (c : Bool) :
    finding (m.checkOf b c) = .clean ∨ finding (m.checkOf b c) = .marked := by
  rcases h.checkOf b c with e | e <;> rw [e]
  · exact .inl finding_zero
  · exact .inr finding_markPattern

/-- Nothing is corrected before a partial write. -/
theorem Mem.NoErrors.mergeInto {m : Mem} (h : m.NoErrors) (c : Bool) (pa n : Nat) (p : Bool) : m.mergeInto c pa n p = m := by
  rcases h.finding (blockOf pa) c with e | e <;> simp only [Mem.mergeInto, e]

theorem newCheck_zero_or_mark {x : BitVec 64} (h : x = 0 ∨ x = markPattern) (n : Nat) (p : Bool) :
    newCheck x n p = 0 ∨ newCheck x n p = markPattern := by
  unfold newCheck
  split
  · exact .inr rfl
  · split
    · exact .inl rfl
    · exact h

/-! ## Reads -/

theorem State.elided_of_nil {s : State} (h : s.trunk.elide = []) (pa : Nat) : s.trunk.elided pa = false := by
  simp [Trunk.elided, h, smGet]

theorem State.byteAt_of_nil {s : State} (h : s.trunk.elide = []) (pa : Nat) (c : Bool) : s.byteAt pa c = s.mem.byte pa c := by
  rw [State.byteAt, State.elided_of_nil h, if_neg Bool.false_ne_true]

/-- A block without an error is read without a report. -/
theorem State.checkBlock_state {s : State} (hm : s.mem.NoErrors) (h : s.trunk.elide = []) (part : Option PartNum) (c : Bool) (pa : Nat) :
    (s.checkBlock part c pa).2 = s := by
  rw [State.checkBlock, State.elided_of_nil h, if_neg Bool.false_ne_true]
  rcases hm.finding (blockOf pa) c with e | e <;> simp only [e]

theorem State.readPhys_state {s : State} (hm : s.mem.NoErrors) (h : s.trunk.elide = []) (part : Option PartNum) (pa n : Nat) (c : Bool) :
    (s.readPhys part pa n c).2.2 = s :=
  foldl_keeps (P := fun x : Bool × State => x.2 = s) (blocksOf pa n) (a := (false, s)) rfl
    fun x _ hx => by
      rw [← hx] at hm h
      exact (State.checkBlock_state hm h part c _).trans hx

theorem State.readPhys_bytes {s : State} (hm : s.mem.NoErrors) (h : s.trunk.elide = []) (part : Option PartNum) (pa n : Nat) (c : Bool) :
    (s.readPhys part pa n c).1 = s.peek pa n c := congrArg (State.peek · pa n c) (State.readPhys_state hm h part pa n c)

/-! ## One block of memory -/

section Block
variable {m : Mem} {who : Option TaskId} {pa a b : Nat} {l : List Byte} {p c : Bool}

/-- The cached view and the device's have the same byte. -/
def Mem.Agrees (m : Mem) (a : Nat) : Prop := m.byte a false = m.byte a true

theorem Mem.byte_of_line? {x : Line} (h : m.line? (blockOf a) = some x) : m.byte a true = (x.data[a % 64]?).getD 0 := by
  simp only [Mem.byte, if_true, h]

theorem Mem.byte_of_no_line (h : m.line? (blockOf a) = none) (c : Bool) : m.byte a c = smGet 0 a m.bytes := by
  cases c <;> simp [Mem.byte, h]

theorem Mem.agrees_of_no_line (h : m.line? (blockOf a) = none) : m.Agrees a := by
  rw [Mem.Agrees, Mem.byte_of_no_line h, Mem.byte_of_no_line h]

/-- Memories with the same lines at a byte's block and the same device byte show the same. -/
theorem Mem.byte_congr {n : Mem} (hline : n.line? (blockOf a) = m.line? (blockOf a)) (hbyte : smGet 0 a n.bytes = smGet 0 a m.bytes)
    (c : Bool) : n.byte a c = m.byte a c := by
  simp only [Mem.byte, hline, hbyte]

/-! ### A write into the dirty line -/

theorem Mem.line?_putLine_other (h : b ≠ blockOf pa) : (m.putLine who pa l p).line? b = m.line? b := by
  simp only [Mem.line?, Mem.putLine, smFind_smPut_other h]

/-- The line after a write: its bytes over those that the cache showed. -/
theorem Mem.line?_putLine_same : ∃ w, (m.putLine who pa l p).line? (blockOf pa) =
    some ⟨(List.range 64).map fun i =>
      if pa % 64 ≤ i && i < pa % 64 + l.length then (l[i - pa % 64]?).getD 0 else m.byte (blockOf pa * 64 + i) true,
      newCheck (m.checkOf (blockOf pa) true) l.length p, w⟩ := by
  have hblk (i : Nat) (hi : i < 64) : blockOf (blockOf pa * 64 + i) = blockOf pa := by simp only [blockOf]; omega
  have hmod (i : Nat) (hi : i < 64) : (blockOf pa * 64 + i) % 64 = i := by omega
  refine ⟨_, (congrArg (Option.map Prod.snd) (smFind_smPut_same (α := Line))).trans
    (congrArg some (congrArg₂ (Line.mk · · _) ?_ ?_))⟩
  · refine List.map_congr_left fun i hi => ?_
    replace hi := List.mem_range.1 hi
    cases e : m.line? (blockOf pa) with
    | none => simp [Mem.byte_of_no_line ((congrArg m.line? (hblk i hi)).trans e), hi]
    | some x => simp only [Mem.byte_of_line? ((congrArg m.line? (hblk i hi)).trans e), hmod i hi, Option.getD_some]
  · cases e : m.line? (blockOf pa) <;> simp [Mem.checkOf, e]

theorem Mem.line?_putLine_length {x : Line} (h : (m.putLine who pa l p).line? (blockOf pa) = some x) : x.data.length = 64 := by
  obtain ⟨w, e⟩ := Mem.line?_putLine_same (m := m) (who := who) (pa := pa) (l := l) (p := p)
  cases h.symm.trans e
  simp

theorem Mem.byte_putLine_device : (m.putLine who pa l p).byte a false = m.byte a false := rfl

/-- The cached view after a write into the line. -/
theorem Mem.byte_putLine (h : pa % 64 + l.length ≤ 64) : (m.putLine who pa l p).byte a true =
    if pa ≤ a ∧ a < pa + l.length then l.getD (a - pa) 0 else m.byte a true := by
  by_cases hb : blockOf a = blockOf pa
  · obtain ⟨w, e⟩ := Mem.line?_putLine_same (m := m) (who := who) (pa := pa) (l := l) (p := p)
    have ha : blockOf pa * 64 + a % 64 = a := by rw [← hb, blockOf]; omega
    have hin : (pa % 64 ≤ a % 64 ∧ a % 64 < pa % 64 + l.length) ↔ (pa ≤ a ∧ a < pa + l.length) := by unfold blockOf at hb; omega
    have hsub : a % 64 - pa % 64 = a - pa := by unfold blockOf at hb; omega
    rw [Mem.byte_of_line? ((congrArg (Mem.line? _) hb).trans e), List.getElem?_map, List.getElem?_range (Nat.mod_lt _ (by decide)),
      Option.map_some, ha, hsub]
    simp [hin, List.getD_eq_getElem?_getD]
  · have hout : ¬(pa ≤ a ∧ a < pa + l.length) := by unfold blockOf at hb; omega
    rw [if_neg hout]
    exact Mem.byte_congr (Mem.line?_putLine_other hb) rfl true

/-- The lines after a write: its own and earlier ones. -/
theorem Mem.mem_dirty_putLine {e : Nat × Line} (h : e ∈ (m.putLine who pa l p).dirty) :
    (e.1 = blockOf pa ∧ (m.putLine who pa l p).line? (blockOf pa) = some e.2) ∨ e ∈ m.dirty := by
  rcases smMem_smPut h with rfl | h
  · exact .inl ⟨rfl, congrArg (Option.map Prod.snd) (smFind_smPut_same (α := Line))⟩
  · exact .inr h

theorem Mem.Sound.putLine (h : m.Sound) (hp : target pa = .pool) : (m.putLine who pa l p).Sound where
  wf := Memory.wf_putLine h.wf
  pool e he := by
    rcases Mem.mem_dirty_putLine he with ⟨hb, -⟩ | he
    · rw [hb, target_blockOf, hp]
    · exact h.pool e he
  noErrors :=
    { check := h.noErrors.check
      lines := fun e he => by
        rcases Mem.mem_dirty_putLine he with ⟨-, hline⟩ | he
        · obtain ⟨w, hsame⟩ := Mem.line?_putLine_same (m := m) (who := who) (pa := pa) (l := l) (p := p)
          rw [Option.some.inj (hline.symm.trans hsame)]
          exact newCheck_zero_or_mark (h.noErrors.checkOf _ true) _ _
        · exact h.noErrors.lines e he }

/-! ### The write-back of a line -/

theorem Mem.line?_writeBack_same (h : m.Sound) : (m.writeBack b).line? b = none := by
  obtain ⟨-, -, hd, -⟩ := Memory.wf_iff.1 h.wf
  unfold Mem.writeBack
  split
  next e => exact e
  next => exact congrArg (Option.map Prod.snd) (smFind_smDel_same hd)

/-- A write-back of a whole line leaves the cached view. -/
theorem Mem.byte_writeBack (h : m.Sound) (hl : ∀ x, m.line? b = some x → x.data.length = 64) :
    (m.writeBack b).byte a true = m.byte a true := by
  cases e : m.line? b with
  | none => rw [Mem.writeBack, e]
  | some x =>
    have hlen := hl x e
    obtain ⟨hbytes, -, -, -⟩ := Memory.wf_iff.1 h.wf
    have hwb : m.writeBack b = { m.storeLine b x with dirty := smDel b m.dirty } := by rw [Mem.writeBack, e]
    by_cases hb : blockOf a = b
    · have hi : a % 64 < x.data.length := by omega
      have ha : b * 64 + a % 64 = a := by rw [← hb, blockOf]; omega
      have hget := smGet_writeBytes_in (a := b * 64) hbytes hi
      rw [ha] at hget
      rw [Mem.byte_of_no_line (hb ▸ Mem.line?_writeBack_same h), Mem.byte_of_line? (hb ▸ e), hwb, List.getElem?_eq_getElem hi]
      exact hget
    · rw [hwb]
      refine Mem.byte_congr (congrArg (Option.map Prod.snd) (smFind_smDel_other hb)) (smGet_writeBytes_out ?_) true
      unfold blockOf at hb
      omega

/-- Outside the block the device keeps its bytes. -/
theorem Mem.byte_writeBack_device (hl : ∀ x, m.line? b = some x → x.data.length = 64) (hb : blockOf a ≠ b) :
    (m.writeBack b).byte a false = m.byte a false := by
  unfold Mem.writeBack
  split
  next => rfl
  next x e =>
    have hlen := hl x e
    refine smGet_writeBytes_out ?_
    unfold blockOf at hb
    omega

theorem Mem.agrees_writeBack (h : m.Sound) (hl : ∀ x, m.line? b = some x → x.data.length = 64) (ha : blockOf a = b ∨ m.Agrees a) :
    (m.writeBack b).Agrees a := by
  by_cases hb : blockOf a = b
  · exact Mem.agrees_of_no_line (hb ▸ Mem.line?_writeBack_same h)
  · rw [Mem.Agrees, Mem.byte_writeBack h hl, Mem.byte_writeBack_device hl hb]
    exact ha.resolve_left hb

theorem Mem.Sound.writeBack (h : m.Sound) : (m.writeBack b).Sound := by
  unfold Mem.writeBack
  split
  next => exact h
  next x e =>
    have hwf := Memory.wf_writeBack (b := b) h.wf
    rw [Mem.writeBack, e] at hwf
    refine ⟨hwf, fun d hd => h.pool d (smMem_smDel hd), ⟨fun d hd => ?_, fun d hd => h.noErrors.lines d (smMem_smDel hd)⟩⟩
    rcases smMem_smSet hd with ⟨rfl, hne⟩ | hd
    · exact (h.noErrors.lines _ (Mem.mem_dirty_of_line? e)).resolve_left hne
    · exact h.noErrors.check d hd

/-! ### A write at the device -/

theorem Mem.byte_putBlock_outside (h : ¬(pa ≤ a ∧ a < pa + l.length)) (c : Bool) : (m.putBlock pa l p).byte a c = m.byte a c :=
  Mem.byte_congr (m := m) (a := a) (n := m.putBlock pa l p) rfl (smGet_writeBytes_out (by omega)) c

/-- The cached view after a write at the device, where the cache holds no line of the block. -/
theorem Mem.byte_putBlock (hm : m.Sound) (hnone : m.line? (blockOf pa) = none) (h : pa % 64 + l.length ≤ 64) :
    (m.putBlock pa l p).byte a true = if pa ≤ a ∧ a < pa + l.length then l.getD (a - pa) 0 else m.byte a true := by
  split
  next hin =>
    have hb : blockOf a = blockOf pa := by simp only [blockOf]; omega
    have hi : a - pa < l.length := by omega
    obtain ⟨hbytes, -, -, -⟩ := Memory.wf_iff.1 hm.wf
    have hget := smGet_writeBytes_in (a := pa) hbytes hi
    rw [show pa + (a - pa) = a by omega] at hget
    rw [Mem.byte_of_no_line (hb ▸ hnone), List.getD_eq_getElem _ _ hi]
    exact hget
  next hout => exact Mem.byte_putBlock_outside hout true

theorem Mem.agrees_putBlock (hnone : m.line? (blockOf pa) = none) (h : pa % 64 + l.length ≤ 64)
    (ha : (pa ≤ a ∧ a < pa + l.length) ∨ m.Agrees a) : (m.putBlock pa l p).Agrees a := by
  by_cases hin : pa ≤ a ∧ a < pa + l.length
  · have hb : blockOf a = blockOf pa := by simp only [blockOf]; omega
    exact Mem.agrees_of_no_line (hb ▸ hnone)
  · rw [Mem.Agrees, Mem.byte_putBlock_outside hin, Mem.byte_putBlock_outside hin]
    exact ha.resolve_left hin

theorem Mem.Sound.putBlock (h : m.Sound) : (m.putBlock pa l p).Sound where
  wf := Memory.wf_putBlock h.wf
  pool := h.pool
  noErrors :=
    { check := fun e he => by
        rcases smMem_smSet he with ⟨rfl, hne⟩ | he
        · exact (newCheck_zero_or_mark (h.noErrors.checkOf (blockOf pa) false) _ _).resolve_left hne
        · exact h.noErrors.check e he
      lines := h.noErrors.lines }

end Block

/-! ## What a write leaves -/

/-- The `n` bytes from `pa` on, as seen through the cache or past it. -/
def byteRun (pa n : Nat) (c : Bool) : List (Nat × Bool) := (List.range n).map fun j => (pa + j, c)

theorem mem_byteRun {pa n a : Nat} {c : Bool} : a ∈ (byteRun pa n c).map (·.1) ↔ pa ≤ a ∧ a < pa + n := by
  simp only [byteRun, List.mem_map, List.mem_range, exists_exists_and_eq_and]
  constructor
  · rintro ⟨i, hi, rfl⟩
    omega
  · exact fun h => ⟨a - pa, by omega, by omega⟩

theorem byteRun_length {pa n : Nat} {c : Bool} : (byteRun pa n c).length = n := by simp [byteRun]

theorem byteRun_add (pa k n : Nat) (c : Bool) : byteRun pa (k + n) c = byteRun pa k c ++ byteRun (pa + k) n c := by
  simp [byteRun, List.range_add, Nat.add_assoc]

theorem mem_zip_byteRun {pa : Nat} {c : Bool} {l : List Byte} {x : (Nat × Bool) × Byte} (h : x ∈ (byteRun pa l.length c).zip l) :
    ∃ i < l.length, x = ((pa + i, c), l.getD i 0) := by
  obtain ⟨i, hi, rfl⟩ := List.getElem_of_mem h
  have hl : i < l.length := by simp at hi; omega
  exact ⟨i, hl, by simp [byteRun, hl]⟩

/-- `n` is `m` after bytes were written where `l` names them: the cached view of every other byte stands, and where it agreed with the
device's it still does; bytes of addresses that are named once are there, and one written past the cache is at the device too. -/
structure Mem.Placed (m n : Mem) (l : List (Nat × Bool)) (data : List Byte) : Prop where
  out : ∀ a, a ∉ l.map (·.1) → n.byte a true = m.byte a true ∧ (m.Agrees a → n.Agrees a)
  into : (l.map (·.1)).Nodup → ∀ x ∈ l.zip data, n.byte x.1.1 true = x.2 ∧ (x.1.2 = false → n.Agrees x.1.1)

namespace Mem.Placed

theorem nil (m : Mem) : Mem.Placed m m [] [] := ⟨fun _ _ => ⟨rfl, id⟩, fun _ _ hx => nomatch hx⟩

theorem append {m n o : Mem} {l r : List (Nat × Bool)} {d e : List Byte} (h : Mem.Placed m n l d) (k : Mem.Placed n o r e)
    (hlen : l.length = d.length) : Mem.Placed m o (l ++ r) (d ++ e) where
  out a ha := by
    rw [List.map_append, List.mem_append, not_or] at ha
    obtain ⟨hb, hg⟩ := h.out a ha.1
    obtain ⟨kb, kg⟩ := k.out a ha.2
    exact ⟨kb.trans hb, kg ∘ hg⟩
  into hnd x hx := by
    rw [List.map_append, List.nodup_append] at hnd
    obtain ⟨hl, hr, hdisj⟩ := hnd
    rw [List.zip_append hlen, List.mem_append] at hx
    rcases hx with hx | hx
    · have hmem : x.1.1 ∈ l.map (·.1) := List.mem_map_of_mem (List.of_mem_zip hx).1
      obtain ⟨hb, hg⟩ := h.into hl x hx
      obtain ⟨kb, kg⟩ := k.out x.1.1 fun hin => hdisj _ hmem _ hin rfl
      exact ⟨kb.trans hb, kg ∘ hg⟩
    · exact k.into hr x hx

/-- A run of bytes, by the cached view of every byte. -/
theorem of_run {m n : Mem} {pa : Nat} {c : Bool} {l : List Byte}
    (hbyte : ∀ a, n.byte a true = if pa ≤ a ∧ a < pa + l.length then l.getD (a - pa) 0 else m.byte a true)
    (hagrees : ∀ a, (c = false ∧ pa ≤ a ∧ a < pa + l.length) ∨ m.Agrees a ∧ ¬(pa ≤ a ∧ a < pa + l.length) → n.Agrees a) :
    Mem.Placed m n (byteRun pa l.length c) l where
  out a ha := by
    rw [mem_byteRun] at ha
    exact ⟨(hbyte a).trans (if_neg ha), fun h => hagrees a (.inr ⟨h, ha⟩)⟩
  into _ x hx := by
    obtain ⟨i, hi, rfl⟩ := mem_zip_byteRun hx
    have hin : pa ≤ pa + i ∧ pa + i < pa + l.length := by omega
    refine ⟨(hbyte _).trans ?_, fun hc => hagrees _ (.inl ⟨hc, hin⟩)⟩
    rw [if_pos hin, Nat.add_sub_cancel_left]

end Mem.Placed

/-! ## Writes -/

/-- Memory is sound, no unit is elided and no migration runs. -/
structure State.Calm (s : State) : Prop where
  sound : s.mem.Sound
  elide : s.trunk.elide = []
  migbusy : ∀ q : PartNum, (s.part q).migbusy = none

theorem State.logWrite_keeps (s : State) (who : Option TaskId) (pa n : Nat) :
    (s.logWrite who pa n).trunk = s.trunk ∧ (s.logWrite who pa n).parts = s.parts := by
  unfold State.logWrite
  cases who with
  | none => exact ⟨rfl, rfl⟩
  | some w =>
    dsimp only
    split <;> exact ⟨rfl, rfl⟩

/-- Without migrations no write is duplicated. -/
theorem State.duplicates_eq_nil {s : State} (h : ∀ q : PartNum, (s.part q).migbusy = none) (pa : Nat) : s.duplicates pa = [] := by
  refine List.filterMap_eq_nil_iff.2 fun q hq => ?_
  obtain ⟨i, hi, rfl⟩ := Vector.getElem_of_mem (Vector.mem_toList_iff.1 hq)
  have hnone : (s.parts[i]).migbusy = none := by simpa [State.part, fin3, Nat.mod_eq_of_lt hi] using h (BitVec.ofNat 3 i)
  simp [Part.duplicate, hnone]

/-- Where a write within one block ends: in the dirty line, in the line and then at the device, or at the device. -/
theorem State.Calm.putPiece_eq {s : State} (h : s.Calm) (who : Option TaskId) (c p : Bool) (pa : Nat) (l : List Byte) :
    s.putPiece who c p pa l = { s.logWrite who pa l.length with
      mem := if target pa = .pool && (c || (s.mem.line? (blockOf pa)).isSome) then
        if c then s.mem.putLine who pa l p else (s.mem.putLine who pa l p).writeBack (blockOf pa)
      else s.mem.putBlock pa l p } := by
  obtain ⟨-, hparts⟩ := s.logWrite_keeps who pa l.length
  have hunelide : s.unelide pa = s := by rw [State.unelide, State.elided_of_nil h.elide, if_neg Bool.false_ne_true]
  have hdup : (s.logWrite who pa l.length).duplicates pa = [] := by
    rw [State.duplicates, hparts]
    exact State.duplicates_eq_nil h.migbusy pa
  have hlose : (s.logWrite who pa l.length).loseDuplicates pa = s.logWrite who pa l.length := by
    rw [State.loseDuplicates, hdup]
    rfl
  simp only [State.putPiece, hunelide, hlose, hdup, State.mem_logWrite, List.filter_nil, List.foldl_nil, h.sound.noErrors.mergeInto]

theorem State.Calm.afterLog {s : State} (h : s.Calm) (who : Option TaskId) (pa n : Nat) {m : Mem} (hm : m.Sound) :
    State.Calm { s.logWrite who pa n with mem := m } := by
  obtain ⟨htrunk, hparts⟩ := s.logWrite_keeps who pa n
  refine ⟨hm, ?_, fun q => ?_⟩
  · show (s.logWrite who pa n).trunk.elide = []
    rw [htrunk, h.elide]
  · show ((s.logWrite who pa n).parts[fin3 q]).migbusy = none
    rw [hparts]
    exact h.migbusy q

/-- A write within one block puts its bytes, and leaves a calm state. -/
theorem State.Calm.putPiece {s : State} (h : s.Calm) (who : Option TaskId) (c p : Bool) {pa : Nat} {l : List Byte}
    (hfit : pa % 64 + l.length ≤ 64) :
    (s.putPiece who c p pa l).Calm ∧ Mem.Placed s.mem (s.putPiece who c p pa l).mem (byteRun pa l.length c) l := by
  rw [h.putPiece_eq]
  split
  next hline =>
    obtain ⟨hpool, -⟩ := Bool.and_eq_true_iff.1 hline
    have hput : (s.mem.putLine who pa l p).Sound := h.sound.putLine (of_decide_eq_true hpool)
    cases c with
    | true =>
      refine ⟨h.afterLog _ _ _ hput, .of_run (fun a => Mem.byte_putLine hfit) ?_⟩
      rintro a (⟨hc, -⟩ | ⟨ha, hout⟩)
      · cases hc
      · show (s.mem.putLine who pa l p).byte a false = (s.mem.putLine who pa l p).byte a true
        rw [Mem.byte_putLine_device, Mem.byte_putLine hfit, if_neg hout]
        exact ha
    | false =>
      have hlen (x : Line) (e : (s.mem.putLine who pa l p).line? (blockOf pa) = some x) := Mem.line?_putLine_length e
      refine ⟨h.afterLog _ _ _ hput.writeBack, .of_run (fun a => (Mem.byte_writeBack hput hlen).trans (Mem.byte_putLine hfit)) ?_⟩
      rintro a (⟨-, hin⟩ | ⟨ha, hout⟩)
      · refine Mem.agrees_writeBack hput hlen (.inl ?_)
        simp only [blockOf]
        omega
      · refine Mem.agrees_writeBack hput hlen (.inr ?_)
        rw [Mem.Agrees, Mem.byte_putLine_device, Mem.byte_putLine hfit, if_neg hout]
        exact ha
  next hline =>
    have hnone : s.mem.line? (blockOf pa) = none := by
      by_contra hne
      obtain ⟨x, e⟩ := Option.ne_none_iff_exists'.1 hne
      have hpool : target (blockOf pa * 64) = .pool := h.sound.pool (blockOf pa, x) (Mem.mem_dirty_of_line? e)
      rw [target_blockOf] at hpool
      exact hline (by simp [hpool, e])
    refine ⟨h.afterLog _ _ _ h.sound.putBlock, .of_run (fun a => Mem.byte_putBlock h.sound hnone hfit) fun a ha => ?_⟩
    exact Mem.agrees_putBlock hnone hfit (ha.imp (·.2) (·.1))

/-- So does a write that is cut at the ends of blocks. -/
theorem State.Calm.splitBlocks {s : State} (h : s.Calm) (who : Option TaskId) (c p : Bool) {n pa : Nat} {l : List Byte}
    (hn : l.length ≤ n) :
    let t := (splitBlocks n pa l).foldl (fun s x => s.putPiece who c p x.1 x.2) s
    t.Calm ∧ Mem.Placed s.mem t.mem (byteRun pa l.length c) l := by
  induction n generalizing s pa l with
  | zero =>
    obtain rfl := List.length_eq_zero_iff.1 (Nat.le_zero.1 hn)
    exact ⟨h, .nil _⟩
  | succ n ih =>
    rw [Machine.splitBlocks]
    split
    next he =>
      obtain rfl := List.isEmpty_iff.1 he
      exact ⟨h, .nil _⟩
    next he =>
      have hpos : 0 < l.length := List.length_pos_iff.2 (by simpa using he)
      have hmod := Nat.mod_lt pa (show 0 < 64 by decide)
      obtain ⟨hcalm, hfirst⟩ := h.putPiece who c p (pa := pa) (l := l.take (64 - pa % 64)) (by rw [List.length_take]; omega)
      obtain ⟨hend, hrest⟩ := ih hcalm (pa := pa + (64 - pa % 64)) (l := l.drop (64 - pa % 64)) (by rw [List.length_drop]; omega)
      refine ⟨hend, ?_⟩
      have hruns : byteRun pa (l.take (64 - pa % 64)).length c ++ byteRun (pa + (64 - pa % 64)) (l.drop (64 - pa % 64)).length c =
          byteRun pa l.length c := ?_
      · have hboth := hfirst.append hrest byteRun_length
        rwa [List.take_append_drop, hruns] at hboth
      obtain hle | hle := Nat.le_total (64 - pa % 64) l.length
      · rw [List.length_take_of_le hle, ← byteRun_add, List.length_drop, Nat.add_sub_cancel' hle]
      · simp [List.take_of_length_le hle, List.drop_eq_nil_of_le hle, byteRun]

theorem State.Calm.writePhys {s : State} (h : s.Calm) (who : Option TaskId) (pa : Nat) (l : List Byte) (p c : Bool) :
    (s.writePhys who pa l p c).Calm ∧ Mem.Placed s.mem (s.writePhys who pa l p c).mem (byteRun pa l.length c) l :=
  h.splitBlocks who c p le_rfl

end Sys2Proof.Machine

namespace Sys2Proof.Claims

open Sys2Proof.Machine

/-! ## Translated pieces -/

theorem pieceBytes_cons (x : Xlat) (n : Nat) (t : List (Xlat × Nat)) :
    pieceBytes ((x, n) :: t) = byteRun x.pa n x.cached ++ pieceBytes t := List.flatMap_cons

theorem Quiet.noErrors {s : State} : Quiet s → s.mem.NoErrors := fun ⟨hcheck, hlines, _⟩ => ⟨hcheck, hlines⟩
theorem Quiet.elide {s : State} : Quiet s → s.trunk.elide = [] := fun ⟨_, _, helide⟩ => helide

theorem Quiet.calm {s : State} (h : Quiet s) (hc : Canonical s) (hm : ∀ q : PartNum, (s.part q).migbusy = none) : s.Calm := by
  obtain ⟨hwf, hpool, -⟩ := hc
  exact ⟨⟨hwf, hpool, h.noErrors⟩, h.elide, hm⟩

/-- Pieces of this module are read byte by byte, without a trace. -/
theorem readPieces_of_quiet {s : State} (h : Quiet s) (part : PartNum) {xs : List (Xlat × Nat)} (hx : ∀ p ∈ xs, p.1.remote = none) :
    (s.readPieces part xs).1 = (pieceBytes xs).map (fun a => s.byteAt a.1 a.2) ∧ (s.readPieces part xs).2.2 = s := by
  induction xs with
  | nil => exact ⟨rfl, rfl⟩
  | cons x t ih =>
    obtain ⟨hbytes, hstate⟩ := ih fun p hp => hx p (List.mem_cons_of_mem _ hp)
    have hlocal : x.1.remote.isSome = false := by rw [hx x List.mem_cons_self]; rfl
    have hread := State.readPhys_state h.noErrors h.elide (some part) x.1.pa x.2 x.1.cached
    have hpeek := State.readPhys_bytes h.noErrors h.elide (some part) x.1.pa x.2 x.1.cached
    simp only [State.readPieces, hlocal, if_neg Bool.false_ne_true, hread, hpeek, hstate, hbytes, and_true]
    rw [pieceBytes_cons, List.map_append, byteRun, List.map_map]
    rfl

/-- A write of pieces of this module puts its bytes piece by piece. -/
theorem placed_writePieces {s : State} (h : s.Calm) (who : Option TaskId) (poison g : Bool) {xs : List (Xlat × Nat)}
    (hx : ∀ p ∈ xs, p.1.remote = none) {data : List Byte} (hlen : data.length = (pieceBytes xs).length) :
    (s.writePieces who poison g xs data).Calm ∧
      Mem.Placed s.mem (s.writePieces who poison g xs data).mem (pieceBytes xs) data := by
  induction xs generalizing s data with
  | nil =>
    obtain rfl := List.length_eq_zero_iff.1 hlen
    exact ⟨h, .nil _⟩
  | cons x t ih =>
    have hlocal : x.1.remote.isSome = false := by rw [hx x List.mem_cons_self]; rfl
    rw [pieceBytes_cons, List.length_append, byteRun_length] at hlen
    have htake : (data.take x.2).length = x.2 := List.length_take_of_le (by omega)
    obtain ⟨hcalm, hfirst⟩ := h.writePhys who x.1.pa (data.take x.2) poison x.1.cached
    obtain ⟨hend, hrest⟩ := ih hcalm (fun p hp => hx p (List.mem_cons_of_mem _ hp)) (data := data.drop x.2)
      (by rw [List.length_drop]; omega)
    simp only [State.writePieces, hlocal, if_neg Bool.false_ne_true]
    refine ⟨hend, ?_⟩
    have hboth := hfirst.append hrest byteRun_length
    rwa [List.take_append_drop, htake, ← pieceBytes_cons] at hboth

/-- Settles O16: a read is `readPieces_of_quiet`; after a write the bytes stand as `Mem.Placed` tells, and a byte seen past the cache is
the cached one where the two views agree. -/
theorem memoryBytes : Obligations.MemoryBytes := by
  intro s xs hq hx
  refine ⟨fun part => readPieces_of_quiet hq part hx, fun hc hm hnd who poison g data hlen => ?_⟩
  obtain ⟨hcalm, hout, hinto⟩ := placed_writePieces (hq.calm hc hm) who poison g hx hlen
  refine ⟨fun i hi a ha => ?_, fun a cached ha hview => ?_⟩
  · have hmem : (a, data.getD i 0) ∈ (pieceBytes xs).zip data :=
      List.mem_iff_getElem?.2 ⟨i, List.getElem?_zip_eq_some.2 ⟨ha, by simp [hi]⟩⟩
    obtain ⟨hbyte, hagrees⟩ := hinto hnd _ hmem
    rw [State.byteAt_of_nil hcalm.elide]
    cases e : a.2 with
    | true => exact hbyte
    | false => exact (hagrees e).trans hbyte
  · obtain ⟨hbyte, hagrees⟩ := hout a ha
    rw [State.byteAt_of_nil hcalm.elide, State.byteAt_of_nil hq.elide]
    cases cached with
    | true => exact hbyte
    | false =>
      have hsame := Mem.agrees_of_no_line (hview.resolve_left Bool.false_ne_true)
      exact (hagrees hsame).trans (hbyte.trans hsame.symm)

end Sys2Proof.Claims
end

section
/-!
PROOF. What slot B's forms share: destinations, the checks of sources and of local addresses, the addresses that base and offset form, and
the values of loads (R61, R258, R260, R262).
-/

namespace Sys2Proof.Claims
open Sys2Proof.Machine

/-! ## Destinations -/

theorem destB_eq (d : Reg) : destB d = destinationB d := by
  unfold destB destinationB
  split
  next h => rw [regIx_eq h]
  next => rfl

theorem pdestB_eq (d : Reg) : pdestB d = boardB d := by
  unfold pdestB boardB
  split
  next h => rw [regIx_eq h]
  next => rfl

theorem putB_commits (s : State) (lat : Nat) (d : Reg) (v : TVal) : (s.putB lat d v).out = .next (commitsB s lat d v) := by
  rw [State.putB_out, destB_eq]; rfl

/-! ## Sources (R49, R122) -/

theorem poison_of_clean {v : TVal} (h : v.tag = 0) : v.poison = false := by simp [TVal.poison, h]

theorem poison_of_bad {v : TVal} (h : bad v = true) : v.poison = true := h

theorem deferred_of_deferred {v : TVal} (h : v.tag = 1) : v.deferred = true := decide_eq_true h

theorem deferred_of_clean {v : TVal} (h : v.tag = 0) : v.deferred = false := by simp [TVal.deferred, h]

theorem clean_ne_deferred {v : TVal} (h : v.tag = 0) : v.tag ≠ 1 := by rw [h]; decide

theorem bad_ne_deferred {v : TVal} (h : bad v = true) : v.tag ≠ 1 := by
  intro htag
  simp [bad, htag] at h

section
variable {s : State} {b d : Reg} {v w : TVal} {k : SlotOut}

theorem needs_one (h : v.tag ≠ 1) : s.needs [(b, v)] k = k := State.needs_go (by simpa using h)

theorem needs_two (h : v.tag ≠ 1) (h' : w.tag ≠ 1) : s.needs [(b, v), (d, w)] k = k :=
  State.needs_go (by simpa using ⟨h, h'⟩)

/-- A deferred source that comes first is the one that the trap names (log 43). -/
theorem needs_first {l : List (Reg × TVal)} (h : v.tag = 1) : (s.needs ((b, v) :: l) k).out = .next (traps s 0x03 (b.setWidth 64)) := by
  rw [State.needs_stop (r := b) (by simp [firstTag, TVal.deferred, h])]
  rfl

theorem needs_second {l : List (Reg × TVal)} (h : v.tag ≠ 1) (h' : w.tag = 1) :
    (s.needs ((b, v) :: (d, w) :: l) k).out = .next (traps s 0x03 (d.setWidth 64)) := by
  rw [State.needs_stop (r := d) (by simp [firstTag, TVal.deferred, show ¬v.tag = 1#2 from h, h'])]
  rfl

end

/-! ## Addresses (R61) -/

theorem offB_eq (s : State) (z : BitVec 2) (o : BitVec 10) : s.thr.offB o z = BitVec.ofInt 64 (offset s z o) := by
  have hshift (x : BitVec 64) (i : Int) (h : x.toInt = i) : x <<< z.toNat = BitVec.ofInt 64 (i * 2 ^ z.toNat) := by
    rw [BitVec.shiftLeft_eq_mul_twoPow, BitVec.ofInt_mul, ← h, BitVec.ofInt_toInt]
    congr 1
    refine BitVec.eq_of_toNat_eq ?_
    rw [BitVec.toNat_twoPow, show (2 : Int) ^ z.toNat = ((2 ^ z.toNat : Nat) : Int) by push_cast; rfl, BitVec.ofInt_natCast,
      BitVec.toNat_ofNat]
  have hwide (x : BitVec 8) : ((x ++ o).signExtend 64).toInt = (x ++ o).toInt := BitVec.toInt_signExtend_of_le (by decide)
  have hplain : (o.signExtend 64).toInt = o.toInt := BitVec.toInt_signExtend_of_le (by decide)
  unfold Thread.offB Thread.lent offset
  cases s.thr.issue with
  | none => exact hshift _ _ hplain
  | some j =>
    dsimp only
    cases isHdrX j.wa
    · exact hshift _ _ hplain
    · exact hshift _ _ (hwide _)

theorem address_eq (s : State) (b : Reg) (z : BitVec 2) (o : BitVec 10) :
    (s.thr.readB b).val + s.thr.offB o z = address s b z o := by
  rw [address, BitVec.ofInt_add, BitVec.ofInt_natCast, BitVec.ofNat_toNat, BitVec.setWidth_eq, offB_eq]

theorem low32_toNat (v : BitVec 64) : (v.extractLsb' 0 32).toNat = v.toNat % 2 ^ 32 := by simp

theorem localAddress_eq (s : State) (b : Reg) (z : BitVec 2) (o : BitVec 10) :
    (((s.thr.readB b).val + s.thr.offB o z).extractLsb' 0 32).toNat = localAddress s b z o := by
  rw [low32_toNat, address_eq]; rfl

/-! ## Checks (R220, R260) -/

section
variable {s : State} {k : SlotOut}

theorem inOrder_free {cls : BitVec 3} {home : Option (BitVec 18)} (h : Free s cls home) : s.inOrder cls home k = k := by
  rw [State.inOrder, show s.ctx.kept cls home = false from h, if_neg Bool.false_ne_true]

theorem inOrder_kept {cls : BitVec 3} {home : Option (BitVec 18)} (h : ¬Free s cls home) :
    s.inOrder cls home k = .stall s .order := by
  rw [State.inOrder, if_pos (by simpa [Free] using h)]

variable {a n align : Nat}

theorem checkLocal_go (halign : a % align = 0) (hrange : a + n ≤ s.ctx.kern.spad) : s.checkLocal a n align k = k := by
  rw [State.checkLocal, if_neg (not_not.2 halign), if_neg (by omega)]

theorem checkLocal_misaligned (h : a % align ≠ 0) : (s.checkLocal a n align k).out = .next (traps s 0x07 (BitVec.ofNat 64 a)) := by
  rw [State.checkLocal, if_pos h]; rfl

theorem checkLocal_beyond (halign : a % align = 0) (hrange : s.ctx.kern.spad < a + n) :
    (s.checkLocal a n align k).out = .next (traps s 0x08 (BitVec.ofNat 64 a)) := by
  rw [State.checkLocal, if_neg (not_not.2 halign), if_pos hrange]; rfl

end

/-! ## Loaded values (R262) -/

theorem size_mem (z : BitVec 2) : 2 ^ z.toNat = 1 ∨ 2 ^ z.toNat = 2 ∨ 2 ^ z.toNat = 4 ∨ 2 ^ z.toNat = 8 := by revert z; decide

/-- Sign extension of a number of `n` bytes. -/
theorem toInt_signExtend_ofNat {n x : Nat} (hn : n = 1 ∨ n = 2 ∨ n = 4 ∨ n = 8) (hx : x < 256 ^ n) :
    ((BitVec.ofNat (8 * n) x).signExtend 64).toInt = if 2 * x < 256 ^ n then (x : Int) else x - 256 ^ n := by
  have hpow : 256 ^ n = 2 ^ (8 * n) := by rw [Nat.pow_mul]
  rw [BitVec.toInt_signExtend_of_le (by omega), BitVec.toInt_eq_toNat_cond, BitVec.toNat_ofNat, ← hpow, Nat.mod_eq_of_lt hx]
  push_cast
  rfl

/-- Bytes without poison are what a load gives, zero- or sign-extended (R262). -/
theorem loaded_loadVal {signed poison : Bool} {n : Nat} {f : Nat → Byte} {l : List Byte} (hn : n = 1 ∨ n = 2 ∨ n = 4 ∨ n = 8)
    (hl : l.length = n) (hspell : leNat l = spelled n f) : Loaded signed poison n f (loadVal signed poison l) := by
  have hlt := spelled_lt n f
  refine ⟨fun h => by rw [h]; rfl, fun h => ?_⟩
  rw [h, loadVal, if_neg Bool.false_ne_true, hl, hspell]
  refine ⟨rfl, ?_⟩
  cases signed with
  | true => exact toInt_signExtend_ofNat hn hlt
  | false =>
    have h64 : 256 ^ n ≤ 2 ^ 64 := by
      rw [show (2 : Nat) ^ 64 = 256 ^ 8 by norm_num]
      exact Nat.pow_le_pow_right (by decide) (by omega)
    exact (BitVec.toNat_ofNat ..).trans (Nat.mod_eq_of_lt (by omega))

theorem loaded_readBytes (signed poison : Bool) (m : SMap Byte) (a : Nat) {n : Nat} (hn : n = 1 ∨ n = 2 ∨ n = 4 ∨ n = 8) :
    Loaded signed poison n (fun i => smGet 0 (a + i) m) (loadVal signed poison (readBytes m a n)) :=
  loaded_loadVal hn (by simp [readBytes]) (leNat_map_range n _)

theorem loaded_list (signed poison : Bool) {l : List Byte} {n : Nat} (hn : n = 1 ∨ n = 2 ∨ n = 4 ∨ n = 8) (hl : l.length = n) :
    Loaded signed poison n (fun i => l.getD i 0) (loadVal signed poison l) := by
  refine loaded_loadVal hn hl ?_
  rw [spelled_getD, ← hl, Nat.mod_eq_of_lt leNat_lt]

end Sys2Proof.Claims
end

section
/-!
PROOF. The checks of slot B's accesses in their order: a deferred source, a poison address, a misaligned address, a local address beyond the
declared scratchpad, a remote address that R204 refuses (R190, R192, R204, R260, R426).
-/

namespace Sys2Proof.Claims
open Sys2Proof.Machine

section
variable {s : State} {d b : Reg} {cls : BitVec 3} {z : BitVec 2} {o : BitVec 10} {signed : Bool}

/-! ## Loads from scratchpads -/

theorem loadLocal_deferred (h : (s.thr.readB b).tag = 1) :
    (s.loadLocal d b cls z o signed).out = .next (traps s 0x03 (b.setWidth 64)) := by
  rw [State.loadLocal, needs_first h]

theorem loadLocal_bad (h : bad (s.thr.readB b) = true) :
    (s.loadLocal d b cls z o signed).out = .next (commitsB s 4 d ⟨0, 2⟩) := by
  rw [State.loadLocal, needs_one (bad_ne_deferred h), if_pos (poison_of_bad h), putB_commits]
  rfl

theorem loadLocal_misaligned (h : (s.thr.readB b).tag = 0) (halign : localAddress s b z o % 2 ^ z.toNat ≠ 0) :
    (s.loadLocal d b cls z o signed).out = .next (traps s 0x07 (BitVec.ofNat 64 (localAddress s b z o))) := by
  rw [State.loadLocal, needs_one (clean_ne_deferred h), poison_of_clean h, if_neg Bool.false_ne_true, localAddress_eq,
    checkLocal_misaligned halign]

theorem loadLocal_beyond (h : (s.thr.readB b).tag = 0) (halign : localAddress s b z o % 2 ^ z.toNat = 0)
    (hrange : s.ctx.kern.spad < localAddress s b z o + 2 ^ z.toNat) :
    (s.loadLocal d b cls z o signed).out = .next (traps s 0x08 (BitVec.ofNat 64 (localAddress s b z o))) := by
  rw [State.loadLocal, needs_one (clean_ne_deferred h), poison_of_clean h, if_neg Bool.false_ne_true, localAddress_eq,
    checkLocal_beyond halign hrange]

theorem loadRemote_bad (h : bad (s.thr.readB b) = true) :
    (s.loadRemote d b cls z o signed).out = .next (s.await (boardB d) (.scalar ⟨0, 2⟩) 0).slotDone := by
  rw [State.loadRemote, needs_one (bad_ne_deferred h), if_pos (poison_of_bad h), pdestB_eq]
  rfl

theorem loadRemote_misaligned (h : (s.thr.readB b).tag = 0) (halign : (address s b z o).toNat % 2 ^ z.toNat ≠ 0) :
    (s.loadRemote d b cls z o signed).out = .next (traps s 0x07 (addrDetail (address s b z o))) := by
  rw [State.loadRemote, needs_one (clean_ne_deferred h), poison_of_clean h, if_neg Bool.false_ne_true, address_eq, if_pos halign]
  rfl

theorem loadRemote_refused (h : (s.thr.readB b).tag = 0) (halign : (address s b z o).toNat % 2 ^ z.toNat = 0)
    (hnone : s.remoteOf (address s b z o) = none) :
    (s.loadRemote d b cls z o signed).out = .next (traps s 0x09 (addrDetail (address s b z o))) := by
  rw [State.loadRemote, needs_one (clean_ne_deferred h), poison_of_clean h, if_neg Bool.false_ne_true, address_eq,
    if_neg (not_not.2 halign), hnone]
  rfl

/-! ## Global and constant loads -/

theorem loadGlobal_deferred (h : (s.thr.readB b).tag = 1) :
    (s.loadGlobal d b cls z o signed).out = .next (traps s 0x03 (b.setWidth 64)) := by
  rw [State.loadGlobal, needs_first h]

theorem loadGlobal_bad (h : bad (s.thr.readB b) = true) :
    (s.loadGlobal d b cls z o signed).out = .next (s.await (boardB d) (.scalar ⟨0, 2⟩) 0).slotDone := by
  rw [State.loadGlobal, needs_one (bad_ne_deferred h), if_pos (poison_of_bad h), pdestB_eq]
  rfl

theorem loadSpec_deferred (h : (s.thr.readB b).tag = 1) :
    (s.loadSpec d b cls z o signed).out = .next (s.await (boardB d) (.scalar ⟨0, 1⟩) 0).slotDone := by
  rw [State.loadSpec, if_pos (deferred_of_deferred h), pdestB_eq]
  rfl

theorem loadConst_bad (h : bad (s.thr.readB b) = true) :
    (s.loadConst d b z o).out = .next (commitsB s 3 d ⟨0, 2⟩) := by
  rw [State.loadConst, needs_one (bad_ne_deferred h), if_pos (poison_of_bad h), putB_commits]
  rfl

theorem loadConst_misaligned (h : (s.thr.readB b).tag = 0) (halign : (address s b z o).toNat % 2 ^ z.toNat ≠ 0) :
    (s.loadConst d b z o).out = .next (traps s 0x07 (addrDetail (address s b z o))) := by
  rw [State.loadConst, needs_one (clean_ne_deferred h), poison_of_clean h, if_neg Bool.false_ne_true, address_eq, if_pos halign]
  rfl

theorem loadConst_beyond (h : (s.thr.readB b).tag = 0) (halign : (address s b z o).toNat % 2 ^ z.toNat = 0)
    (hrange : 0x10000 ≤ (address s b z o).toNat) :
    (s.loadConst d b z o).out = .next (traps s 0x09 (addrDetail (address s b z o))) := by
  rw [State.loadConst, needs_one (clean_ne_deferred h), poison_of_clean h, if_neg Bool.false_ne_true, address_eq,
    if_neg (not_not.2 halign), if_pos hrange]
  rfl

/-! ## Stores -/

theorem storeLocal_deferred (h : (s.thr.readB b).tag = 1) :
    (s.storeLocal d b cls z o).out = .next (traps s 0x03 (b.setWidth 64)) := by
  rw [State.storeLocal, needs_first h]

theorem storeLocal_deferredData (h : (s.thr.readB b).tag = 0) (hd : (s.thr.readB d).tag = 1) :
    (s.storeLocal d b cls z o).out = .next (traps s 0x03 (d.setWidth 64)) := by
  rw [State.storeLocal, needs_second (clean_ne_deferred h) hd]

theorem storeLocal_bad (h : bad (s.thr.readB b) = true) (hd : (s.thr.readB d).tag ≠ 1) :
    (s.storeLocal d b cls z o).out = .next (traps s 0x05 (b.setWidth 64)) := by
  rw [State.storeLocal, needs_two (bad_ne_deferred h) hd, if_pos (poison_of_bad h)]
  rfl

theorem storeLocal_misaligned (h : (s.thr.readB b).tag = 0) (hd : (s.thr.readB d).tag ≠ 1)
    (halign : localAddress s b z o % 2 ^ z.toNat ≠ 0) :
    (s.storeLocal d b cls z o).out = .next (traps s 0x07 (BitVec.ofNat 64 (localAddress s b z o))) := by
  rw [State.storeLocal, needs_two (clean_ne_deferred h) hd, poison_of_clean h, if_neg Bool.false_ne_true, localAddress_eq,
    checkLocal_misaligned halign]

theorem storeLocal_beyond (h : (s.thr.readB b).tag = 0) (hd : (s.thr.readB d).tag ≠ 1)
    (halign : localAddress s b z o % 2 ^ z.toNat = 0) (hrange : s.ctx.kern.spad < localAddress s b z o + 2 ^ z.toNat) :
    (s.storeLocal d b cls z o).out = .next (traps s 0x08 (BitVec.ofNat 64 (localAddress s b z o))) := by
  rw [State.storeLocal, needs_two (clean_ne_deferred h) hd, poison_of_clean h, if_neg Bool.false_ne_true, localAddress_eq,
    checkLocal_beyond halign hrange]

variable {g : BitVec 1}

theorem storeRemote_bad (h : bad (s.thr.readB b) = true) (hd : (s.thr.readB d).tag ≠ 1) :
    (s.storeRemote d b g cls z o).out = .next (traps s 0x05 (b.setWidth 64)) := by
  rw [State.storeRemote, needs_two (bad_ne_deferred h) hd, if_pos (poison_of_bad h)]
  rfl

theorem storeRemote_misaligned (h : (s.thr.readB b).tag = 0) (hd : (s.thr.readB d).tag ≠ 1)
    (halign : (address s b z o).toNat % 2 ^ z.toNat ≠ 0) :
    (s.storeRemote d b g cls z o).out = .next (traps s 0x07 (addrDetail (address s b z o))) := by
  rw [State.storeRemote, needs_two (clean_ne_deferred h) hd, poison_of_clean h, if_neg Bool.false_ne_true, address_eq,
    if_pos halign]
  rfl

theorem storeRemote_refused (h : (s.thr.readB b).tag = 0) (hd : (s.thr.readB d).tag ≠ 1)
    (halign : (address s b z o).toNat % 2 ^ z.toNat = 0) (hnone : s.remoteOf (address s b z o) = none) :
    (s.storeRemote d b g cls z o).out = .next (traps s 0x09 (addrDetail (address s b z o))) := by
  rw [State.storeRemote, needs_two (clean_ne_deferred h) hd, poison_of_clean h, if_neg Bool.false_ne_true, address_eq,
    if_neg (not_not.2 halign), hnone]
  rfl

theorem storeGlobal_deferred (h : (s.thr.readB b).tag = 1) :
    (s.storeGlobal d b g cls z o).out = .next (traps s 0x03 (b.setWidth 64)) := by
  rw [State.storeGlobal, needs_first h]

theorem storeGlobal_deferredData (h : (s.thr.readB b).tag = 0) (hd : (s.thr.readB d).tag = 1) :
    (s.storeGlobal d b g cls z o).out = .next (traps s 0x03 (d.setWidth 64)) := by
  rw [State.storeGlobal, needs_second (clean_ne_deferred h) hd]

theorem storeGlobal_bad (h : bad (s.thr.readB b) = true) (hd : (s.thr.readB d).tag ≠ 1) :
    (s.storeGlobal d b g cls z o).out = .next (traps s 0x05 (b.setWidth 64)) := by
  rw [State.storeGlobal, needs_two (bad_ne_deferred h) hd, if_pos (poison_of_bad h)]
  rfl

/-! ## Atomics without an index -/

variable {r : AtomArgs}

theorem atomSources_pair (hi : r.i = none) : s.atomSources r = [s.srcB r.b, s.srcB r.d] := by rw [State.atomSources, hi]; rfl

theorem atomGlobal_deferred (hi : r.i = none) (h : (s.thr.readB r.b).tag = 1) :
    (s.atomGlobal r).out = .next (traps s 0x03 (r.b.setWidth 64)) := by
  rw [State.atomGlobal, atomSources_pair hi, State.srcB, needs_first h]

theorem atomLocal_deferredData (hi : r.i = none) (h : (s.thr.readB r.b).tag = 0) (hd : (s.thr.readB r.d).tag = 1) :
    (s.atomLocal r).out = .next (traps s 0x03 (r.d.setWidth 64)) := by
  rw [State.atomLocal, atomSources_pair hi, State.srcB, State.srcB, needs_second (clean_ne_deferred h) hd]

theorem atomLocal_bad (hi : r.i = none) (h : bad (s.thr.readB r.b) = true) (hd : (s.thr.readB r.d).tag ≠ 1) :
    (s.atomLocal r).out = .next (traps s 0x05 (r.b.setWidth 64)) := by
  rw [State.atomLocal, atomSources_pair hi, State.srcB, State.srcB, needs_two (bad_ne_deferred h) hd, if_pos (poison_of_bad h)]
  rfl

end

theorem accessChecks : AccessChecks := by
  intro s d b g ac z w o
  refine ⟨fun hb => ?_, fun hd hb => ?_, fun hb hd => ?_, fun hb hd => ⟨fun ha => ?_, fun ha hr => ?_, fun ha => ?_, fun ha hn => ?_,
    fun ha hr => loadConst_beyond hb ha hr⟩⟩
  · exact ⟨loadLocal_deferred hb, storeLocal_deferred hb, loadGlobal_deferred hb, storeGlobal_deferred hb, atomGlobal_deferred rfl hb,
      loadSpec_deferred hb⟩
  · exact ⟨storeLocal_deferredData hb hd, storeGlobal_deferredData hb hd, atomLocal_deferredData rfl hb hd⟩
  · have hd1 := clean_ne_deferred hd
    exact ⟨loadLocal_bad hb, loadRemote_bad hb, loadGlobal_bad hb, loadConst_bad hb, storeLocal_bad hb hd1, storeRemote_bad hb hd1,
      storeGlobal_bad hb hd1, atomLocal_bad rfl hb hd1⟩
  · exact ⟨loadLocal_misaligned hb ha, storeLocal_misaligned hb (clean_ne_deferred hd) ha⟩
  · exact ⟨loadLocal_beyond hb ha hr, storeLocal_beyond hb (clean_ne_deferred hd) ha hr⟩
  · exact ⟨loadRemote_misaligned hb ha, storeRemote_misaligned hb (clean_ne_deferred hd) ha, loadConst_misaligned hb ha⟩
  · exact ⟨loadRemote_refused hb ha hn, storeRemote_refused hb (clean_ne_deferred hd) ha hn⟩

end Sys2Proof.Claims
end

section
/-!
PROOF. Deferred sources of slot A (R49, R122, R426): every form that reads a register checks the registers that it reads first.
-/

namespace Sys2Proof.Claims
open Sys2Proof.Machine

/-- The registers that an instruction reads, in the order of its fields. -/
def readRegs (i : Instr) : List Reg := (i.operands.filter fun p => p.1.reads).map (·.2)

theorem mem_readRegs {i : Instr} {r : Reg} : r ∈ readRegs i ↔ ∃ p ∈ i.operands, p.1.reads = true ∧ p.2 = r := by
  simp [readRegs, and_assoc]

/-- The form checks these slot A sources for deferred ones before it does anything else (R49). -/
def ChecksFirst (s : State) (i : Instr) (l : List Reg) : Prop := ∃ k, exec i s = (s.needs (l.map s.srcA) k).out

/-- The one deferred source of such a form is what its trap names (R426). -/
theorem ChecksFirst.deferred {s : State} {i : Instr} {l : List Reg} {r : Reg} (h : ChecksFirst s i l) (hr : r ∈ l)
    (htag : (s.thr.readA r).tag = 1) (honly : ∀ q ∈ l, (s.thr.readA q).tag = 1 → q = r) :
    exec i s = .next (traps s 0x03 (r.setWidth 64)) := by
  obtain ⟨k, hk⟩ := h
  cases hfirst : firstTag TVal.deferred (l.map s.srcA) with
  | none =>
    have hclean := firstTag_none.1 hfirst (s.srcA r) (List.mem_map_of_mem hr)
    exact absurd (deferred_of_deferred htag) (by rw [show (s.thr.readA r).deferred = false from hclean]; decide)
  | some q =>
    obtain ⟨v, hmem, hv⟩ := firstTag_some hfirst
    obtain ⟨q', hq', heq⟩ := List.mem_map.1 hmem
    obtain ⟨rfl, rfl⟩ := Prod.mk.inj heq
    rw [hk, State.needs_stop hfirst, honly q' hq' (of_decide_eq_true hv)]
    rfl

/-- The forms of slot A that read a register check what they read, CHK, MOVM and the CSR forms apart. -/
theorem checksFirst_readRegs {s : State} {i : Instr} {w : Word32} (he : encode i = some (.a, w)) (hapart : sourcesApart i = false)
    (hin : s.ctx.inHandler = false) (hreads : readRegs i ≠ []) : ∃ l, l.Perm (readRegs i) ∧ ChecksFirst s i l := by
  cases i with
  | add d a b | sub d a b | and d a b | or d a b | xor d a b | andn d a b | shl d a b | shr d a b | sra d a b | rotr d a b | min d a b
  | max d a b | minu d a b | maxu d a b | mul d a b | mulh d a b | mulhu d a b | ext d a b | extu d a b | cmpeq d a b | cmpne d a b
  | cmplt d a b | cmple d a b | cmpltu d a b | cmpleu d a b | faddS d a b r | fsubS d a b r | fmulS d a b r | fminS d a b | fmaxS d a b
  | fcmpeqS d a b | fcmpltS d a b | fcmpleS d a b | fcmpunS d a b | faddD d a b r | fsubD d a b r | fmulD d a b r | fminD d a b
  | fmaxD d a b | fcmpeqD d a b | fcmpltD d a b | fcmpleD d a b | fcmpunD d a b => exact ⟨[a, b], .refl _, _, rfl⟩
  | ins d a b | sel d a b | fmaS d a b r | fmaD d a b r => exact ⟨[a, b, d], List.perm_append_comm (l₁ := [a, b]) (l₂ := [d]), _, rfl⟩
  | insi d a w p => exact ⟨[a, d], .swap d a [], _, rfl⟩
  | clz d a | ctz d a | popc d a | brev d a | exti d a w p | extui d a w p | addi d a i | andi d a i | ori d a i | xori d a i
  | shli d a n | shri d a n | srai d a n | rotri d a n | liu d a i | tagp d a | tagc d a | fabsS d a | fnegS d a | fabsD d a | fnegD d a
  | fcvt d a r t c | brz a o | brnz a o | jr a | ret a | callr d a => exact ⟨[a], .refl _, _, rfl⟩
  | segend a b => exact ⟨[a, b], .refl _, _, State.taskOnly_task hin⟩
  | nop | li d i | br o | call d o | movmRead d n | trap i | svc i | rft | halt | segbeg i => exact absurd rfl hreads
  | chk r o | movmWriteA r n | csrrd d n | csrwr d r n | csrset d r n | csrclr d r n => cases hapart
  | _ => cases he

theorem deferredSources : DeferredSources := by
  intro s i w o he hapart hin ho hreads htag honly
  have hmem : o.2 ∈ readRegs i := mem_readRegs.2 ⟨o, ho, hreads, rfl⟩
  obtain ⟨l, hperm, hchecks⟩ := checksFirst_readRegs he hapart hin (List.ne_nil_of_mem hmem)
  refine hchecks.deferred (hperm.mem_iff.2 hmem) htag fun q hq hq1 => ?_
  obtain ⟨p, hp, hpr, rfl⟩ := mem_readRegs.1 (hperm.mem_iff.1 hq)
  exact honly p hp hpr hq1

/-- Settles O60: each check of slot B stands before the later ones in its form, and every form of slot A that reads a register checks
first what it reads. -/
theorem sourceAndAccessChecks : Obligations.SourceAndAccessChecks := ⟨accessChecks, deferredSources⟩

end Sys2Proof.Claims
end

section
/-!
PROOF. Scratchpad accesses (R61, R191, R220, R229, R262, R486): reads of bytes without a report, and what a write of a few bytes leaves,
in the core's own scratchpad and in another's.
-/

namespace Sys2Proof.Claims
open Sys2Proof.Machine

/-! ## A write of a few bytes to a scratchpad (R191) -/

/-- `u` is `s` but for the bytes `l`, which stand at `a` in core `c`'s scratchpad, and for the running context. -/
structure SpadWritten (s u : State) (c : CoreNum) (a : Nat) (l : List Byte) (poison : Bool) : Prop where
  spad : (u.core c).spad = writeBytes (s.core c).spad a l
  mark : ∀ b, b ∈ (u.core c).spadMark ↔ b ∈ (s.core c).spadMark ∨ (poison = true ∧ b = a / 64)
  other : ∀ e, e ≠ c → (u.core e).spad = (s.core e).spad
  mem : u.mem = s.mem
  parts : u.parts = s.parts
  rest : SameRest s u

theorem SameRest.refl (s : State) : SameRest s s := ⟨rfl, rfl, rfl, rfl, rfl, rfl, rfl, rfl, rfl⟩

theorem SameRest.trans {s t u : State} (h : SameRest s t) (k : SameRest t u) : SameRest s u := by
  obtain ⟨a1, a2, a3, a4, a5, a6, a7, a8, a9⟩ := h
  obtain ⟨b1, b2, b3, b4, b5, b6, b7, b8, b9⟩ := k
  exact ⟨b1.trans a1, b2.trans a2, b3.trans a3, b4.trans a4, b5.trans a5, b6.trans a6, b7.trans a7, b8.trans a8, b9.trans a9⟩

theorem SameRest.onCtx (s : State) (f : Ctx → Ctx) : SameRest s (s.onCtx f) := ⟨rfl, rfl, rfl, rfl, rfl, rfl, rfl, rfl, rfl⟩

namespace SpadWritten
variable {s t u : State} {c : CoreNum} {a : Nat} {l : List Byte} {p : Bool}

/-- The running context may change after the write. -/
theorem onCtx (h : SpadWritten s u c a l p) (f : Ctx → Ctx) : SpadWritten s (u.onCtx f) c a l p where
  spad := (spad_onCtx u f c).1.trans h.spad
  mark b := by rw [(spad_onCtx u f c).2]; exact h.mark b
  other e he := (spad_onCtx u f e).1.trans (h.other e he)
  mem := h.mem
  parts := h.parts
  rest := h.rest.trans (.onCtx u f)

/-- It may change before the write. -/
theorem of_onCtx {f : Ctx → Ctx} (h : SpadWritten (s.onCtx f) u c a l p) : SpadWritten s u c a l p where
  spad := by rw [h.spad, (spad_onCtx s f c).1]
  mark b := by rw [h.mark, (spad_onCtx s f c).2]
  other e he := (h.other e he).trans (spad_onCtx s f e).1
  mem := h.mem
  parts := h.parts
  rest := (SameRest.onCtx s f).trans h.rest

/-- The bytes that then stand are those of the number that was written. -/
theorem byte {n x : Nat} (h : SpadWritten s u c a (leBytes n x) p) (hwf : smWf 0 (s.core c).spad = true) (k : Nat) :
    spadByte u c k = if a ≤ k ∧ k < a + n then BitVec.ofNat 8 (x / 256 ^ (k - a)) else spadByte s c k := by
  rw [spadByte, h.spad]
  split
  next hin =>
    obtain ⟨i, rfl⟩ : ∃ i, k = a + i := ⟨k - a, by omega⟩
    rw [smGet_writeBytes_in hwf (by rw [leBytes_length]; omega), Nat.add_sub_cancel_left]
    simp only [leBytes_eq, List.getElem_map, List.getElem_range]
  next hout => exact smGet_writeBytes_out (by rw [leBytes_length]; omega)

end SpadWritten

/-- A write that stays within a block and does not fill it (R191). -/
theorem spadWritten_writeSpad (s : State) (c : CoreNum) {a : Nat} {l : List Byte} (p : Bool) (hl : l ≠ []) (hin : a % 64 + l.length ≤ 64)
    (hpart : l.length ≠ 64) : SpadWritten s (s.writeSpad c a l p) c a l p where
  spad := by rw [State.writeSpad, State.core_onCore_same, spad_foldl_putSpad p le_rfl]
  mark b := by
    rw [State.writeSpad, State.core_onCore_same, splitBlocks_within (List.length_pos_iff.2 hl) hl hin, List.foldl_cons, List.foldl_nil,
      Core.putSpad]
    cases p with
    | true => simp [mem_setIns, blockOf, or_comm]
    | false => simp [hpart]
  other e he := by rw [State.writeSpad, State.core_onCore_other _ _ he]
  mem := rfl
  parts := rfl
  rest := ⟨rfl, rfl, rfl, rfl, rfl, rfl, rfl, rfl, rfl⟩

theorem spadWritten_ownWrite (s : State) {a : Nat} {l : List Byte} (p : Bool) (hl : l ≠ []) (hin : a % 64 + l.length ≤ 64)
    (hpart : l.length ≠ 64) : SpadWritten s (s.ownWrite a l p) s.cur a l p :=
  .of_onCtx (spadWritten_writeSpad _ s.cur p hl hin hpart)

theorem ctx_irrevocable (s : State) : s.irrevocable.ctx = { s.ctx with irrevocable := true } := by rw [State.irrevocable, State.ctx_onCtx]

theorem thr_irrevocable (s : State) : s.irrevocable.thr = s.thr := thr_onCtx (f := fun c => { c with irrevocable := true }) s fun _ => rfl

theorem SpadWritten.ackSpad {s u : State} {c : CoreNum} {a : Nat} {l : List Byte} {p : Bool} (h : SpadWritten s u c a l p) (g : Bool)
    (v : BitVec 56) (e : CoreNum) (cls : BitVec 3) : SpadWritten s (u.ackSpad g v e cls) c a l p := by
  cases g with
  | false => exact h
  | true => exact h.onCtx fun x => x.addAcks [⟨x.nextId, v, coreWay e cls⟩]

/-- A .g write of one piece awaits one acknowledgement (R229). -/
theorem awaits_ackSpad (t : State) (g : BitVec 1) (v : BitVec 56) (c : CoreNum) (cls : BitVec 3) :
    Awaits t.ctx (t.ackSpad (g = 1) v c cls).ctx (if g = 1 then [v] else []) := by
  unfold State.ackSpad
  by_cases hg : g = 1
  · rw [if_pos (decide_eq_true hg), if_pos hg, State.ctx_onCtx]
    simp [Awaits, Ctx.addAcks]
  · rw [if_neg (by simpa using hg), if_neg hg]
    simp [Awaits]

theorem thr_ackSpad (t : State) (g : Bool) (v : BitVec 56) (c : CoreNum) (cls : BitVec 3) : (t.ackSpad g v c cls).thr = t.thr := by
  cases g with
  | false => rfl
  | true => exact thr_onCtx (f := fun x => x.addAcks [⟨x.nextId, v, coreWay c cls⟩]) t fun _ => rfl

/-- The write of STR with its acknowledgement (R229), and what stands in the running context after it. -/
theorem storeRemote_write (s : State) (g : BitVec 1) (v : BitVec 56) (c : CoreNum) (cls : BitVec 3) {a : Nat} {l : List Byte} (p : Bool)
    (hl : l ≠ []) (hin : a % 64 + l.length ≤ 64) (hpart : l.length ≠ 64) :
    let t := s.writeSpad c a l p
    let u := (if c = s.cur then t else t.irrevocable).ackSpad (g = 1) v c cls
    SpadWritten s u c a l p ∧ Awaits s.ctx u.ctx (if g = 1 then [v] else []) ∧ u.thr = s.thr := by
  intro t u
  have ht : SpadWritten s t c a l p := spadWritten_writeSpad s c p hl hin hpart
  have htctx : t.ctx = s.ctx := s.ctx_writeSpad c a l p
  have hacks := awaits_ackSpad (if c = s.cur then t else t.irrevocable) g v c cls
  refine ⟨.ackSpad ?_ .., ?_, (thr_ackSpad ..).trans ?_⟩
  · split
    · exact ht
    · exact ht.onCtx _
  · rw [Awaits] at hacks ⊢
    rw [hacks]
    split
    · rw [htctx]
    · rw [ctx_irrevocable, htctx]
  · split
    · exact congrArg Ctx.thr htctx
    · exact (thr_irrevocable t).trans (congrArg Ctx.thr htctx)

/-! ## Remote addresses (R204) -/

/-- The offset that a remote address names is its low bits, so it is aligned as the address is. -/
theorem remoteOf_offset {s : State} {v : BitVec 64} {c : CoreNum} {a : Nat} (h : s.remoteOf v = some (c, a)) : a = v.toNat % 2 ^ 21 := by
  unfold State.remoteOf at h
  dsimp only at h
  split at h
  · simp only [Option.some.injEq, Prod.mk.injEq] at h
    rw [← h.2]
    simp
  · cases h

theorem within_block {z : BitVec 2} {a : Nat} (h : a % 2 ^ z.toNat = 0) : a % 64 + 2 ^ z.toNat ≤ 64 := by
  obtain hz | hz | hz | hz := size_mem z <;> rw [hz] at h ⊢ <;> omega

theorem remote_aligned {s : State} {v : BitVec 64} {c : CoreNum} {a : Nat} {z : BitVec 2} (h : s.remoteOf v = some (c, a))
    (halign : v.toNat % 2 ^ z.toNat = 0) : a % 2 ^ z.toNat = 0 := by
  rw [remoteOf_offset h]
  obtain hz | hz | hz | hz := size_mem z <;> rw [hz] at halign ⊢ <;> omega

/-! ## Loads -/

/-- A read of the core's own scratchpad whose granules are filled and which no error makes a report. -/
theorem localRead_quiet {s s1 : State} {a n : Nat} (htouch : s.touch a n = (.ok (), s1)) (herr : (s1.core s1.cur).spadErr = []) :
    s.localRead a n = (.ok (readBytes (s1.core s1.cur).spad a n, (s1.core s1.cur).spadBad a n), s1) := by
  rw [State.localRead, htouch]
  dsimp only
  rw [readSpad_quiet herr]

section
variable {s : State} {d b : Reg} {cls : BitVec 3} {z : BitVec 2} {o : BitVec 10} {signed : Bool} (htag : (s.thr.readB b).tag = 0)
include htag

section
variable (halign : localAddress s b z o % 2 ^ z.toNat = 0) (hrange : localAddress s b z o + 2 ^ z.toNat ≤ s.ctx.kern.spad)
include halign hrange

theorem loadLocal_kept (hfree : ¬Free s cls) : (s.loadLocal d b cls z o signed).out = .next (waits s .order) := by
  rw [State.loadLocal, needs_one (clean_ne_deferred htag), poison_of_clean htag, if_neg Bool.false_ne_true, localAddress_eq,
    checkLocal_go halign hrange, inOrder_kept hfree]
  rfl

theorem loadLocal_loads (hfree : Free s cls) {s1 : State} (htouch : s.touch (localAddress s b z o) (2 ^ z.toNat) = (.ok (), s1))
    (herr : (s1.core s1.cur).spadErr = []) : ∃ v, Loaded signed ((s1.core s1.cur).spadBad (localAddress s b z o) (2 ^ z.toNat)) (2 ^ z.toNat)
      (fun i => spadByte s1 s1.cur (localAddress s b z o + i)) v ∧
      (s.loadLocal d b cls z o signed).out = .next (commitsB s1 4 d v) := by
  refine ⟨_, loaded_readBytes signed _ (s1.core s1.cur).spad _ (size_mem z), ?_⟩
  rw [State.loadLocal, needs_one (clean_ne_deferred htag), poison_of_clean htag, if_neg Bool.false_ne_true, localAddress_eq,
    checkLocal_go halign hrange, inOrder_free hfree, localRead_quiet htouch herr]
  exact putB_commits ..

end

section
variable {c : CoreNum} {a : Nat} (halign : (address s b z o).toNat % 2 ^ z.toNat = 0) (hremote : s.remoteOf (address s b z o) = some (c, a))
  (hfree : Free s cls)
include halign hremote hfree

theorem loadRemote_shed (hshed : s.shedCore c = true) : (s.loadRemote d b cls z o signed).out =
    .next (s.await (boardB d) (.later (.spad c a (2 ^ z.toNat)) (.load signed)) ((address s b z o).setWidth 56) false false
      (coreWay c cls)).slotDone := by
  rw [State.loadRemote, needs_one (clean_ne_deferred htag), poison_of_clean htag, if_neg Bool.false_ne_true, address_eq,
    if_neg (not_not.2 halign), hremote]
  dsimp only
  rw [inOrder_free hfree, if_pos hshed, pdestB_eq]
  rfl

theorem loadRemote_loads (hshed : s.shedCore c = false) (herr : (s.core c).spadErr = []) :
    ∃ v, Loaded signed ((s.core c).spadBad a (2 ^ z.toNat)) (2 ^ z.toNat) (fun i => spadByte s c (a + i)) v ∧
      (s.loadRemote d b cls z o signed).out =
        .next (s.await (boardB d) (.scalar v) ((address s b z o).setWidth 56) false false (coreWay c cls)).slotDone := by
  refine ⟨_, loaded_readBytes signed _ (s.core c).spad _ (size_mem z), ?_⟩
  rw [State.loadRemote, needs_one (clean_ne_deferred htag), poison_of_clean htag, if_neg Bool.false_ne_true, address_eq,
    if_neg (not_not.2 halign), hremote]
  dsimp only
  rw [inOrder_free hfree, hshed, if_neg Bool.false_ne_true, readSpad_quiet herr, pdestB_eq]
  rfl

end

/-! ## Stores -/

variable (hdata : (s.thr.readB d).tag ≠ 1)
include hdata

theorem storeLocal_stores (halign : localAddress s b z o % 2 ^ z.toNat = 0)
    (hrange : localAddress s b z o + 2 ^ z.toNat ≤ s.ctx.kern.spad) (hfree : Free s cls) {s1 : State}
    (hready : s.readyWrite (localAddress s b z o) (2 ^ z.toNat) = (.ok (), s1)) : (s.storeLocal d b cls z o).out =
      .next (s1.ownWrite (localAddress s b z o) (leBytes (2 ^ z.toNat) (s.thr.readB d).val.toNat) (bad (s.thr.readB d))).slotDone := by
  rw [State.storeLocal, needs_two (clean_ne_deferred htag) hdata, poison_of_clean htag, if_neg Bool.false_ne_true, localAddress_eq,
    checkLocal_go halign hrange, inOrder_free hfree, State.localWrite, leBytes_length, hready]
  rfl

theorem storeRemote_stores {c : CoreNum} {a : Nat} {g : BitVec 1} (halign : (address s b z o).toNat % 2 ^ z.toNat = 0)
    (hremote : s.remoteOf (address s b z o) = some (c, a)) (hfree : Free s cls) : (s.storeRemote d b g cls z o).out =
      (let t := s.writeSpad c a (leBytes (2 ^ z.toNat) (s.thr.readB d).val.toNat) (bad (s.thr.readB d))
      .next ((if c = s.cur then t else t.irrevocable).ackSpad (g = 1) ((address s b z o).setWidth 56) c cls).slotDone) := by
  rw [State.storeRemote, needs_two (clean_ne_deferred htag) hdata, poison_of_clean htag, if_neg Bool.false_ne_true, address_eq,
    if_neg (not_not.2 halign), hremote]
  dsimp only
  rw [inOrder_free hfree]
  rfl

end

theorem scratchpadLoads : ScratchpadLoads := by
  intro s d b ac z o hb
  refine ⟨fun ha hr hf => ⟨loadLocal_kept hb ha hr hf, loadLocal_kept hb ha hr hf⟩,
    fun s1 ha hr hf ht he => ⟨loadLocal_loads hb ha hr hf ht he, loadLocal_loads hb ha hr hf ht he⟩,
    fun c a ha hrem hf => ⟨fun hs => ⟨_, _, loadRemote_shed hb ha hrem hf hs, loadRemote_shed hb ha hrem hf hs⟩, fun hs he => ⟨?_, ?_⟩⟩⟩
  · obtain ⟨v, hv, hexec⟩ := loadRemote_loads (d := d) (signed := false) hb ha hrem hf hs he
    exact ⟨v, _, _, hv, hexec⟩
  · obtain ⟨v, hv, hexec⟩ := loadRemote_loads (d := d) (signed := true) hb ha hrem hf hs he
    exact ⟨v, _, _, hv, hexec⟩

theorem leBytes_size_ne_nil (z : BitVec 2) (x : Nat) : leBytes (2 ^ z.toNat) x ≠ [] :=
  List.ne_nil_of_length_pos (by rw [leBytes_length]; positivity)

theorem leBytes_size_ne_block (z : BitVec 2) (x : Nat) : (leBytes (2 ^ z.toNat) x).length ≠ 64 := by
  rw [leBytes_length]
  have hz := size_mem z
  omega

theorem scratchpadStores : ScratchpadStores := by
  intro s d b g ac z o hb hd
  dsimp only
  refine ⟨fun s1 ha hr hf hready hcanon => ?_, fun c a ha hrem hf hcanon => ?_⟩
  · have hin : localAddress s b z o % 64 + (leBytes (2 ^ z.toNat) (s.thr.readB d).val.toNat).length ≤ 64 := by
      rw [leBytes_length]; exact within_block ha
    have hw := spadWritten_ownWrite s1 (bad (s.thr.readB d)) (leBytes_size_ne_nil _ _) hin (leBytes_size_ne_block _ _)
    refine ⟨_, storeLocal_stores hb hd ha hr hf hready, ⟨hw.byte (hcanon.spad _), hw.mark, hw.other, hw.mem, hw.parts, hw.rest⟩, ?_⟩
    rw [ctx_ownWrite, leBytes_length]
  · have hin : a % 64 + (leBytes (2 ^ z.toNat) (s.thr.readB d).val.toNat).length ≤ 64 := by
      rw [leBytes_length]; exact within_block (remote_aligned hrem ha)
    obtain ⟨hw, hacks, hthr⟩ := storeRemote_write s g ((address s b z o).setWidth 56) c ac (bad (s.thr.readB d)) (leBytes_size_ne_nil _ _)
      hin (leBytes_size_ne_block _ _)
    exact ⟨_, storeRemote_stores hb hd ha hrem hf, ⟨hw.byte (hcanon.spad _), hw.mark, hw.other, hw.mem, hw.parts, hw.rest⟩, hacks, hthr⟩

/-- Settles O14: a load gives the bytes that stand in the scratchpad, and a store, which stays within its block, puts the bytes of its
data there and nothing else. -/
theorem scratchpadAccess : Obligations.ScratchpadAccess := ⟨scratchpadLoads, scratchpadStores⟩

end Sys2Proof.Claims
end

section
/-!
PROOF. RNEED, RFREE, RADV and RPUB (R273 to R277): what a ring form does with a clean count, and how rows are retired and published.
-/

namespace Sys2Proof.Claims
open Sys2Proof.Machine

theorem thr_task {s : State} (hin : s.ctx.inHandler = false) : s.thr = s.ctx.task := by simp [State.thr, Ctx.thr, hin]

/-! ## Handles -/

section
variable {s : State} {h : BitVec 4} {r : Handle}

/-- A change of a handle is its new contents. -/
theorem onHandle_eq (hh : s.ctx.h[h.toNat]? = some r) (f : Handle → Handle) : s.onHandle h f = s.onHandle h fun _ => f r := by
  rw [State.onHandle, State.onHandle, State.onCtx, State.onCtx, handle_eq hh]

theorem task_onHandle (s : State) (h : BitVec 4) (f : Handle → Handle) : (s.onHandle h f).ctx.task = s.ctx.task := by
  rw [State.onHandle, State.ctx_onCtx]

theorem ringReads_empty {t : Thread} (hboard : t.board = []) : t.ringReads h = false := by simp [Thread.ringReads, hboard]

theorem resolveRings_empty (hboard : s.ctx.task.board = []) : s.resolveRings h = s := by rw [State.resolveRings, hboard]; rfl

theorem retire_spec (r : Handle) {n : Nat} (hn : n ≤ r.fill.toNat) :
    (r.retire n).head.toNat = (r.head.toNat + n) % (r.rowsM1.toNat + 1) ∧ (r.retire n).fill.toNat = r.fill.toNat - n ∧
    (r.retire n).cursor.toNat = r.cursor.toNat - n * (r.rowb.toNat * 16) := by
  have hrows := r.rowsM1.isLt
  have hfill := r.fill.isLt
  have hcursor := r.cursor.isLt
  have hmod := Nat.mod_lt (r.head.toNat + n) (show 0 < r.rowsM1.toNat + 1 by omega)
  unfold Handle.retire Handle.rows Handle.rb
  dsimp only
  refine ⟨?_, ?_, ?_⟩
  · rw [BitVec.toNat_ofNat, Nat.mod_eq_of_lt (by omega)]
  · rw [BitVec.toNat_sub_of_le (by rw [BitVec.le_def, BitVec.toNat_ofNat, Nat.mod_eq_of_lt (by omega)]; exact hn), BitVec.toNat_ofNat,
      Nat.mod_eq_of_lt (by omega)]
  · rw [BitVec.toNat_ofNat, Nat.mod_eq_of_lt (by omega)]

theorem publish_spec (r : Handle) {n : Nat} (hn : n + r.fill.toNat ≤ r.rowsM1.toNat + 1) :
    (r.publish n).tail.toNat = (r.tail.toNat + n) % (r.rowsM1.toNat + 1) ∧ (r.publish n).fill.toNat = r.fill.toNat + n := by
  have hrows := r.rowsM1.isLt
  have hmod := Nat.mod_lt (r.tail.toNat + n) (show 0 < r.rowsM1.toNat + 1 by omega)
  unfold Handle.publish Handle.rows
  dsimp only
  refine ⟨?_, ?_⟩
  · rw [BitVec.toNat_ofNat, Nat.mod_eq_of_lt (by omega)]
  · rw [BitVec.toNat_add, BitVec.toNat_ofNat, Nat.mod_eq_of_lt (b := 2 ^ 13) (a := n) (by omega), Nat.mod_eq_of_lt (by omega)]

end

/-! ## The forms -/

section
variable {s : State} {a : Reg} {h : BitVec 4} {r : Handle} (hin : s.ctx.inHandler = false) (hh : s.ctx.h[h.toNat]? = some r)

/-- A ring form whose count is clean goes on where its handle has a ring (R273). -/
theorem ringForm_go (hh : s.ctx.h[h.toNat]? = some r) (htag : (s.thr.readB a).tag = 0) (hrow : r.rowb ≠ 0)
    (k : Handle → Nat → SlotOut) : s.ringForm h a k = k r (s.thr.readB a).val.toNat := by
  rw [State.ringForm, State.needsClean_go (by simpa using htag), handle_eq hh, if_neg hrow]

/-- It traps where the handle has none. -/
theorem ringForm_none (hh : s.ctx.h[h.toNat]? = some r) (htag : (s.thr.readB a).tag = 0) (hrow : r.rowb = 0)
    (k : Handle → Nat → SlotOut) : s.ringForm h a k = s.ringFormat h := by
  rw [State.ringForm, State.needsClean_go (by simpa using htag), handle_eq hh, if_pos hrow]

theorem ringFormat_out (s : State) (h : BitVec 4) : (s.ringFormat h).out = .next (traps s 0x0C (h.setWidth 64)) := rfl
theorem ringCount_out (s : State) (h : BitVec 4) : (s.ringCount h).out = .next (traps s 0x0D (h.setWidth 64)) := rfl
theorem stall_ring_out (s : State) (h : BitVec 4) : (SlotOut.stall s (.ring (fin4 h))).out =
    .next (s.onCtx fun c => { c with wait := .ring ⟨h.toNat, h.isLt⟩ }) := by rw [fin4_eq]; rfl

/-- A count of rows is there, or the form waits for it. -/
theorem done_or_stall_ring (s : State) (h : BitVec 4) (p : Prop) [Decidable p] :
    (if p then SlotOut.done s else .stall s (.ring (fin4 h))).out =
      .next (if p then s.slotDone else s.onCtx fun c => { c with wait := .ring ⟨h.toNat, h.isLt⟩ }) := by
  split
  · rfl
  · exact stall_ring_out s h

include hin hh

/-- No ring form takes a handle without a ring (R273). -/
theorem ringForms_without_ring (htag : (s.thr.readB a).tag = 0) (hrow : r.rowb = 0) :
    exec (.rneed a h) s = .next (traps s 0x0C (h.setWidth 64)) ∧ exec (.rfree a h) s = .next (traps s 0x0C (h.setWidth 64)) ∧
    exec (.radv a h) s = .next (traps s 0x0C (h.setWidth 64)) ∧ exec (.rpub a h) s = .next (traps s 0x0C (h.setWidth 64)) ∧
    exec (.winadv a h) s = .next (traps s 0x0C (h.setWidth 64)) ∧ exec (.rrd a h) s = .next (traps s 0x0C (h.setWidth 64)) := by
  have hform (k : Handle → Nat → SlotOut) : s.taskOnly (s.ringForm h a k) = .next (traps s 0x0C (h.setWidth 64)) := by
    rw [State.taskOnly_task hin, ringForm_none hh htag hrow, ringFormat_out]
  refine ⟨hform _, hform _, hform _, hform _, hform _, ?_⟩
  show execRrd a h s = _
  rw [execRrd, handle_eq hh, if_pos hrow, State.taskOnly_task hin, ringFormat_out]

variable (htag : (s.thr.readB a).tag = 0) (hrow : r.rowb ≠ 0)
include htag hrow

theorem exec_rneed : exec (.rneed a h) s = (if r.rows < (s.thr.readB a).val.toNat then s.ringCount h
    else if (s.thr.readB a).val.toNat ≤ r.fill.toNat then .done s else .stall s (.ring (fin4 h))).out := by
  show execRneed a h s = _
  rw [execRneed, State.taskOnly_task hin, ringForm_go hh htag hrow]

theorem exec_rfree : exec (.rfree a h) s = (if r.win.isSome then s.ringFormat h
    else if r.rows < (s.thr.readB a).val.toNat then s.ringCount h
    else if (s.thr.readB a).val.toNat ≤ r.rows - r.fill.toNat then .done s else .stall s (.ring (fin4 h))).out := by
  show execRfree a h s = _
  rw [execRfree, State.taskOnly_task hin, ringForm_go hh htag hrow]

theorem exec_radv : exec (.radv a h) s =
    (if r.win.isSome then s.ringFormat h else s.retireRows h r (s.thr.readB a).val.toNat id).out := by
  show execRadv a h s = _
  rw [execRadv, State.taskOnly_task hin, ringForm_go hh htag hrow]

theorem exec_rpub : exec (.rpub a h) s = (if r.win.isSome then s.ringFormat h
    else if r.rows - r.fill.toNat < (s.thr.readB a).val.toNat then s.ringCount h
    else .done ((s.onHandle h fun r => r.publish (s.thr.readB a).val.toNat).resolveRings h)).out := by
  show execRpub a h s = _
  rw [execRpub, State.taskOnly_task hin, ringForm_go hh htag hrow]

omit hin htag hrow in
/-- Rows that are there are retired once no read of them is open (R276). -/
theorem retireRows_retires {n : Nat} (hn : n ≤ r.fill.toNat) (hboard : s.thr.board = []) (k : State → State) :
    s.retireRows h r n k = .done (k (s.onHandle h fun _ => r.retire n)) := by
  rw [State.retireRows, if_neg (not_lt.2 hn), ringReads_empty hboard, if_neg Bool.false_ne_true, onHandle_eq hh]

theorem radv_retires (hwin : r.win = none) (hn : (s.thr.readB a).val.toNat ≤ r.fill.toNat) (hboard : s.thr.board = []) :
    exec (.radv a h) s = .next (setsHandle s h (r.retire (s.thr.readB a).val.toNat)) := by
  rw [exec_radv hin hh htag hrow, hwin, if_neg (by simp), retireRows_retires hh hn hboard]
  rfl

theorem rpub_publishes (hwin : r.win = none) (hn : (s.thr.readB a).val.toNat + r.fill.toNat ≤ r.rowsM1.toNat + 1)
    (hboard : s.thr.board = []) : exec (.rpub a h) s = .next (setsHandle s h (r.publish (s.thr.readB a).val.toNat)) := by
  have hfit : ¬r.rows - r.fill.toNat < (s.thr.readB a).val.toNat := by unfold Handle.rows; omega
  rw [exec_rpub hin hh htag hrow, hwin, if_neg (by simp), if_neg hfit,
    resolveRings_empty (by rw [task_onHandle, ← thr_task hin]; exact hboard), onHandle_eq hh]
  rfl

end

/-- Settles O21: each form passes its checks one after another, and the handle changes by what it retires or publishes alone. -/
theorem ringForms : Obligations.RingForms := by
  intro s a h r hin hh htag n rows
  refine ⟨fun hrow => ringForms_without_ring hin hh htag hrow, fun hrow => ?_⟩
  have hneed := exec_rneed hin hh htag hrow
  have hfree := exec_rfree hin hh htag hrow
  have hadv := exec_radv hin hh htag hrow
  have hpub := exec_rpub hin hh htag hrow
  refine ⟨fun hn => ?_, fun hn => ?_, fun hwin => ⟨?_, ?_, ?_⟩, fun hwin => ⟨fun hn => ?_, fun hn => ?_, fun hn => ?_, fun hn hboard => ?_,
    fun hn => ?_, fun hn hboard => ?_⟩⟩
  · rw [hneed, if_pos (show r.rows < n from hn), ringCount_out]
  · rw [hneed, if_neg (show ¬r.rows < n from not_lt.2 hn), done_or_stall_ring]
  · rw [hfree, if_pos hwin, ringFormat_out]
  · rw [hadv, if_pos hwin, ringFormat_out]
  · rw [hpub, if_pos hwin, ringFormat_out]
  · rw [hfree, hwin, if_neg (by simp), if_pos (show r.rows < n from hn), ringCount_out]
  · have hiff : n ≤ r.rows - r.fill.toNat ↔ n + r.fill.toNat ≤ rows ∨ n = 0 := by
      show n ≤ rows - r.fill.toNat ↔ _
      omega
    rw [hfree, hwin, if_neg (by simp), if_neg (show ¬r.rows < n from not_lt.2 hn), done_or_stall_ring]
    simp only [← hiff]
    rfl
  · rw [hadv, hwin, if_neg (by simp), State.retireRows, if_pos hn, ringCount_out]
  · obtain ⟨hhead, hfill, hcursor⟩ := retire_spec r hn
    exact ⟨_, radv_retires hin hh htag hrow hwin hn hboard, hhead, hfill, hcursor, rfl, rfl, rfl, rfl, hwin⟩
  · rw [hpub, hwin, if_neg (by simp), if_pos (show r.rows - r.fill.toNat < n from hn), ringCount_out]
  · obtain ⟨htail, hfill⟩ := publish_spec r hn
    exact ⟨_, rpub_publishes hin hh htag hrow hwin hn hboard, htail, hfill, rfl, rfl, rfl, rfl, rfl, hwin⟩

end Sys2Proof.Claims
end

section
/-!
PROOF. RINGSET, RRD and the arrival of rows (R205, R206, R274, R277).
-/

namespace Sys2Proof.Claims
open Sys2Proof.Machine

/-! ## Descriptors (R259) -/

section
variable {s s1 : State} {a : Reg} {n : Nat} {l : List Byte} {b : Bool}

/-- A descriptor that is aligned and within the declared scratchpad is used as it is stored (log 19). -/
theorem descriptor_go (htag : (s.thr.readB a).tag = 0) (halign : (s.thr.readB a).val.toNat % 2 ^ 32 % 16 = 0)
    (hrange : (s.thr.readB a).val.toNat % 2 ^ 32 + n ≤ s.ctx.kern.spad)
    (hread : s.localRead ((s.thr.readB a).val.toNat % 2 ^ 32) n = (.ok (l, b), s1)) (k : State → List Byte → SlotOut) :
    s.descriptor a n k = k s1 l := by
  rw [State.descriptor, State.needsClean_go (by simpa using htag), low32_toNat, checkLocal_go halign hrange, hread]

end

/-! ## Records (R205) -/

theorem toNat_extract (x : BitVec 64) (lo len : Nat) : (x.extractLsb' lo len).toNat = x.toNat / 2 ^ lo % 2 ^ len := by
  rw [BitVec.extractLsb'_toNat, Nat.shiftRight_eq_div_pow]

theorem extract_eq_zero {x : BitVec 64} {lo len : Nat} : x.extractLsb' lo len = 0 ↔ x.toNat / 2 ^ lo % 2 ^ len = 0 := by
  rw [← BitVec.toNat_inj, toNat_extract]
  simp

theorem word64At_toNat (l : List Byte) (i : Nat) : (word64At l i).toNat = leNat ((l.drop i).take 8) := by
  have hlt : leNat ((l.drop i).take 8) < 256 ^ 8 :=
    lt_of_lt_of_le leNat_lt (Nat.pow_le_pow_right (by decide) (List.length_take_le ..))
  rw [word64At, BitVec.toNat_ofNat, Nat.mod_eq_of_lt (by simpa using hlt)]

section
variable (w0 w1 : BitVec 64)

theorem ofWords_rows : (Handle.ofWords w0 w1).rows = w0.toNat / 2 ^ 44 % 2 ^ 12 + 1 := congrArg (· + 1) (toNat_extract ..)
theorem ofWords_rb : (Handle.ofWords w0 w1).rb = w0.toNat / 2 ^ 32 % 2 ^ 12 * 16 := congrArg (· * 16) (toNat_extract ..)
theorem ofWords_base : (Handle.ofWords w0 w1).base.toNat = w0.toNat / 2 ^ 6 % 2 ^ 15 := toNat_extract ..
theorem ofWords_fill : (Handle.ofWords w0 w1).fill.toNat = w1.toNat / 2 ^ 45 % 2 ^ 13 := toNat_extract ..
theorem ofWords_head : (Handle.ofWords w0 w1).head.toNat = w1.toNat / 2 ^ 33 % 2 ^ 12 := toNat_extract ..
theorem ofWords_tail : (Handle.ofWords w0 w1).tail.toNat = w1.toNat / 2 ^ 21 % 2 ^ 12 := toNat_extract ..
theorem ofWords_cursor : (Handle.ofWords w0 w1).cursor.toNat = w1.toNat % 2 ^ 21 := by
  rw [show (Handle.ofWords w0 w1).cursor.toNat = _ from toNat_extract .., Nat.pow_zero, Nat.div_one]

theorem rowb_eq_zero (r : Handle) : r.rowb = 0 ↔ r.rb = 0 := by
  rw [← BitVec.toNat_inj, Handle.rb]
  simp

/-- What RINGSET accepts (R205): reserved bits of 0, and no ring or one whose fields fit. -/
theorem ringRecordOk_iff (spad : Nat) : ringRecordOk w0 w1 spad = true ↔
    (w0.toNat / 2 ^ 56 % 2 ^ 7 = 0 ∧ w0.toNat / 2 ^ 21 % 2 ^ 11 = 0 ∧ w0.toNat % 2 ^ 6 = 0 ∧ w1.toNat / 2 ^ 58 = 0) ∧
    ((Handle.ofWords w0 w1).rb = 0 ∨
      ((Handle.ofWords w0 w1).head.toNat < (Handle.ofWords w0 w1).rows ∧ (Handle.ofWords w0 w1).tail.toNat < (Handle.ofWords w0 w1).rows ∧
      (Handle.ofWords w0 w1).fill.toNat ≤ (Handle.ofWords w0 w1).rows ∧
      (Handle.ofWords w0 w1).cursor.toNat < (Handle.ofWords w0 w1).rb * (Handle.ofWords w0 w1).rows ∧
      (Handle.ofWords w0 w1).tail.toNat =
        ((Handle.ofWords w0 w1).head.toNat + (Handle.ofWords w0 w1).fill.toNat) % (Handle.ofWords w0 w1).rows ∧
      (Handle.ofWords w0 w1).rowAddr (Handle.ofWords w0 w1).rows ≤ spad)) := by
  have hlow : w0.toNat / 2 ^ 0 % 2 ^ 6 = w0.toNat % 2 ^ 6 := by rw [Nat.pow_zero, Nat.div_one]
  have hhigh : w1.toNat / 2 ^ 58 % 2 ^ 6 = w1.toNat / 2 ^ 58 := Nat.mod_eq_of_lt (by have := w1.isLt; omega)
  simp only [ringRecordOk, Bool.and_eq_true, Bool.or_eq_true, decide_eq_true_eq, extract_eq_zero, hlow, hhigh, rowb_eq_zero, and_assoc]

end

theorem ringSet : RingSet := by
  intro s a h s1 l hin htag p halign hrange hread hlen hboard w0 w1 rows rb base fill head tail cursor reserved fits
  have hw0 : (word64At l 0).toNat = w0 := word64At_toNat l 0
  have hw1 : (word64At l 8).toNat = w1 := by
    rw [word64At_toNat, List.take_of_length_le (by rw [List.length_drop]; omega)]
  have hexec : exec (.ringset a h) s = (if !ringRecordOk (word64At l 0) (word64At l 8) s1.ctx.kern.spad then s1.ringFormat h
      else if s1.thr.ringReads h then .stall s1 (.ring (fin4 h))
      else .done (s1.onHandle h fun _ => Handle.ofWords (word64At l 0) (word64At l 8))).out := by
    show execRingset a h s = _
    rw [execRingset, State.taskOnly_task hin, descriptor_go htag halign hrange hread]
  have hok : ringRecordOk (word64At l 0) (word64At l 8) s1.ctx.kern.spad = true ↔ reserved ∧ fits := by
    rw [ringRecordOk_iff, Handle.rowAddr, ofWords_rb, ofWords_rows, ofWords_head, ofWords_tail, ofWords_fill, ofWords_cursor, ofWords_base,
      hw0, hw1]
  refine ⟨fun hres hfit => ?_, fun hnot => ?_⟩
  · refine ⟨Handle.ofWords (word64At l 0) (word64At l 8), ?_, ?_, ?_, ?_, ?_, ?_, ?_, ?_, rfl⟩
    · rw [hexec, hok.2 ⟨hres, hfit⟩, if_neg (by decide), ringReads_empty hboard, if_neg (by decide)]
      rfl
    · exact (ofWords_rows ..).trans (by rw [hw0])
    · exact (ofWords_rb ..).trans (by rw [hw0])
    · rw [ofWords_base, hw0]
    · rw [ofWords_fill, hw1]
    · rw [ofWords_head, hw1]
    · rw [ofWords_tail, hw1]
    · rw [ofWords_cursor, hw1]
  · rw [hexec, Bool.eq_false_iff.2 (mt hok.1 hnot), if_pos (by decide), ringFormat_out]

/-! ## RRD (R277) -/

section
variable {s : State} (hin : s.ctx.inHandler = false) (hboard : s.ctx.task.board = []) {h : BitVec 4} {k a : Nat}
include hin hboard

/-- A scalar ring read whose row has not arrived waits. -/
theorem resolveRings_ring_waits (hfill : (s.ctx.h[fin4 h]).fill.toNat ≤ k) (dest : PDest) :
    (s.await dest (.ring (fin4 h) k a) 0).resolveRings h = s.await dest (.ring (fin4 h) k a) 0 := by
  have hnot : ((s.await dest (.ring (fin4 h) k a) 0).ctx.h[fin4 h]).fill.toNat ≤ k := by rwa [ctx_await hin]
  have hcond : (decide (fin4 h = fin4 h) && decide (k < ((s.await dest (.ring (fin4 h) k a) 0).ctx.h[fin4 h]).fill.toNat)) = false := by
    rw [decide_eq_false (not_lt.2 hnot), Bool.and_false]
  rw [resolveRings_await hin hboard, State.resolveRing]
  dsimp only
  rw [hcond, if_neg Bool.false_ne_true]

/-- One whose row has arrived has the ring's 8 bytes. -/
theorem resolveRings_ring_arrived (hfill : k < (s.ctx.h[fin4 h]).fill.toNat) (herr : (s.core s.cur).spadErr = []) (dest : PDest) :
    (s.await dest (.ring (fin4 h) k a) 0).resolveRings h =
      s.await dest (.scalar (loadVal false ((s.core s.cur).spadBad a 8) (readBytes (s.core s.cur).spad a 8))) 0 := by
  let t := s.await dest (.ring (fin4 h) k a) 0
  have hctx : t.ctx = { s.ctx with
      task := s.ctx.task.await ⟨s.ctx.nextId, dest, .ring (fin4 h) k a, 0, false, false, .none, false⟩, nextId := s.ctx.nextId + 1 } :=
    ctx_await hin ..
  have hcore : t.core t.cur = { s.core s.cur with ctx := t.ctx } := by
    rw [hctx]
    show (s.await _ _ 0).core s.cur = _
    rw [await_eq hin, State.core_setCtx_cur]
  have hread : t.readSpad t.cur a 8 = (readBytes (s.core s.cur).spad a 8, (s.core s.cur).spadBad a 8, t) := by
    rw [readSpad_quiet (by rw [hcore]; exact herr), hcore]
    rfl
  have hcond : (decide (fin4 h = fin4 h) && decide (k < (t.ctx.h[fin4 h]).fill.toNat)) = true := by
    rw [hctx, decide_eq_true rfl, decide_eq_true hfill, Bool.and_true]
  rw [resolveRings_await hin hboard, State.resolveRing]
  dsimp only
  rw [hcond, if_pos rfl, hread, ← await_put hin hboard dest (.ring (fin4 h) k a)]
  rfl

end

section
variable {s : State} {d : Reg} {h : BitVec 4} {r : Handle} (hin : s.ctx.inHandler = false) (hh : s.ctx.h[h.toNat]? = some r)
  (hrow : r.rowb ≠ 0)
include hin hh hrow

theorem exec_rrd : exec (.rrd d h) s = (s.ringRead h 8 (boardB d) fun k a => .ring (fin4 h) k a).out := by
  show execRrd d h s = _
  rw [execRrd, State.taskOnly_task hin, handle_eq hh, if_neg hrow, pdestB_eq]

theorem rrd_ends (hend : r.rows ≤ r.cursor.toNat / r.rb) : exec (.rrd d h) s = .next (traps s 0x0D (h.setWidth 64)) := by
  rw [exec_rrd hin hh hrow, State.ringRead, handle_eq hh, Handle.next]
  dsimp only
  rw [if_pos hend, ringCount_out]

theorem rrd_issues (hring : r.cursor.toNat / r.rb < r.rows) : let k := r.cursor.toNat / r.rb
    let a := r.rowAddr ((r.head.toNat + k) % r.rows) + r.cursor.toNat % r.rb
    s.touch a 8 = (.ok (), s) → exec (.rrd d h) s =
      .next (((s.onHandle h fun r => { r with cursor := r.cursor + 8 }).await (boardB d) (.ring (fin4 h) k a) 0).resolveRings h).slotDone := by
  intro k a htouch
  rw [exec_rrd hin hh hrow, State.ringRead, handle_eq hh, Handle.next]
  dsimp only
  rw [if_neg (not_le.2 hring), htouch]
  rfl

end

/-! ## Arrival of rows (R206) -/

theorem spad_writeSpad (s : State) (c : CoreNum) (a : Nat) (l : List Byte) (p : Bool) :
    ((s.writeSpad c a l p).core c).spad = writeBytes (s.core c).spad a l := by
  rw [State.writeSpad, State.core_onCore_same, spad_foldl_putSpad p le_rfl]

/-- The blocks of a row, written one after another, are its bytes. -/
theorem spad_writeRow {n a : Nat} {l : List Byte} (hn : l.length ≤ n) (s : State) (m : List Bool) :
    ((s.writeRow (splitBlocks n a l) m).core s.cur).spad = writeBytes (s.core s.cur).spad a l := by
  induction n generalizing a l s m with
  | zero =>
    obtain rfl := List.length_eq_zero_iff.1 (Nat.le_zero.1 hn)
    rfl
  | succ n ih =>
    rw [splitBlocks]
    split
    next h =>
      obtain rfl := List.isEmpty_iff.1 h
      rfl
    next h =>
      have hpos : 0 < l.length := List.length_pos_iff.2 (by simpa using h)
      have hmod := Nat.mod_lt a (show 0 < 64 by decide)
      have hrest := ih (a := a + (64 - a % 64)) (l := l.drop (64 - a % 64)) (by rw [List.length_drop]; omega)
        (s.writeSpad s.cur a (l.take (64 - a % 64)) ((m.head?).getD false)) m.tail
      refine hrest.trans ?_
      rw [show (s.writeSpad s.cur a (l.take (64 - a % 64)) ((m.head?).getD false)).cur = s.cur from rfl, spad_writeSpad]
      conv_rhs => rw [← List.take_append_drop (64 - a % 64) l, writeBytes_append]
      obtain hle | hlt := Nat.le_total (64 - a % 64) l.length
      · rw [List.length_take_of_le hle]
      · rw [List.drop_eq_nil_of_le hlt]
        rfl

/-- A row touches nothing but a scratchpad. -/
theorem writeRow_frame (xs : List (Nat × List Byte)) (s : State) (m : List Bool) : let u := s.writeRow xs m
    u.ctx = s.ctx ∧ u.mem = s.mem ∧ SameRest s u := by
  induction xs generalizing s m with
  | nil => exact ⟨rfl, rfl, .refl s⟩
  | cons x xs ih =>
    obtain ⟨hctx, hmem, hrest⟩ := ih (s.writeSpad s.cur x.1 x.2 ((m.head?).getD false)) m.tail
    refine ⟨hctx.trans (s.ctx_writeSpad ..), hmem, SameRest.trans ?_ hrest⟩
    exact ⟨rfl, rfl, rfl, rfl, rfl, rfl, rfl, rfl, rfl⟩

section
variable {s : State} {h : BitVec 4} {r : Handle} {w : Window} {row : Row} {t : List Row}

/-- The handle after a row has arrived at its TAIL. -/
def arrivedHandle (r : Handle) (w : Window) (t : List Row) : Handle :=
  { r with fill := r.fill + 1, tail := BitVec.ofNat 12 ((r.tail.toNat + 1) % r.rows), win := some { w with arriving := t } }

theorem tail_arrivedHandle (r : Handle) (w : Window) (t : List Row) :
    (arrivedHandle r w t).tail.toNat = (r.tail.toNat + 1) % (r.rowsM1.toNat + 1) := by
  have hrows := r.rowsM1.isLt
  have hmod := Nat.mod_lt (r.tail.toNat + 1) (show 0 < r.rowsM1.toNat + 1 by omega)
  unfold arrivedHandle Handle.rows
  dsimp only
  rw [BitVec.toNat_ofNat, Nat.mod_eq_of_lt (by omega)]

theorem rowArrives_eq (hh : s.ctx.h[h.toNat]? = some r) (hwin : r.win = some w) (harr : w.arriving = row :: t)
    (hboard : s.ctx.task.board = []) : s.rowArrives h =
      (s.writeRow (splitBlocks row.bytes.length (r.rowAddr r.tail.toNat) row.bytes) row.poison).onHandle h
        fun _ => arrivedHandle r w t := by
  obtain ⟨hctx, -⟩ := writeRow_frame (splitBlocks row.bytes.length (r.rowAddr r.tail.toNat) row.bytes) s row.poison
  have hkeep : (s.writeRow (splitBlocks row.bytes.length (r.rowAddr r.tail.toNat) row.bytes) row.poison).ctx.h[h.toNat]? = some r := by
    rw [hctx]; exact hh
  rw [State.rowArrives, handle_eq hh]
  dsimp only
  rw [hwin]
  dsimp only
  rw [harr]
  dsimp only
  rw [resolveRings_empty (by rw [task_onHandle, hctx]; exact hboard), onHandle_eq hkeep]
  rfl

theorem handle_onHandle (s : State) (h : BitVec 4) (f : Handle → Handle) :
    (s.onHandle h f).ctx.h[h.toNat]? = some (f s.ctx.h[fin4 h]) := by
  rw [State.onHandle, State.ctx_onCtx]
  simp [fin4]

end

/-- What moving CURSOR leaves: the ring's count, the context's mode and its scoreboard, and the core but for its context. -/
theorem moveCursor_frame {s : State} {h : BitVec 4} {r : Handle} (hin : s.ctx.inHandler = false) (hh : s.ctx.h[h.toNat]? = some r)
    (hboard : s.thr.board = []) : let u := s.onHandle h fun r => { r with cursor := r.cursor + 8 }
    u.ctx.inHandler = false ∧ u.ctx.task.board = [] ∧ (u.ctx.h[fin4 h]).fill = r.fill ∧
      u.core u.cur = { s.core s.cur with ctx := u.ctx } := by
  intro u
  have hctx : u.ctx = { s.ctx with h := s.ctx.h.set (fin4 h) { s.ctx.h[fin4 h] with cursor := (s.ctx.h[fin4 h]).cursor + 8 } } :=
    State.ctx_onCtx ..
  refine ⟨by rw [hctx]; exact hin, ?_, ?_, ?_⟩
  · rw [task_onHandle, ← thr_task hin]
    exact hboard
  · rw [hctx]
    simp [handle_eq hh]
  · rw [hctx]
    show (s.onCtx _).core s.cur = _
    rw [State.onCtx, State.core_setCtx_cur]

/-- What the arrival of a row leaves: the bytes at the handle's TAIL, the handle, and everything else as it was. -/
theorem rowArrives_facts {s : State} {h : BitVec 4} {r : Handle} {w : Window} {row : Row} {t : List Row}
    (hh : s.ctx.h[h.toNat]? = some r) (hwin : r.win = some w) (harr : w.arriving = row :: t) (hboard : s.ctx.task.board = []) :
    let u := s.rowArrives h
    (u.core s.cur).spad = writeBytes (s.core s.cur).spad (r.rowAddr r.tail.toNat) row.bytes ∧
      u.ctx.h[h.toNat]? = some (arrivedHandle r w t) ∧ u.mem = s.mem ∧ u.thr = s.thr ∧ SameRest s u := by
  intro u
  have hu : u = _ := rowArrives_eq hh hwin harr hboard
  obtain ⟨hctx, hmem, hrest⟩ := writeRow_frame (splitBlocks row.bytes.length (r.rowAddr r.tail.toNat) row.bytes) s row.poison
  rw [hu]
  refine ⟨?_, handle_onHandle .., hmem, ?_, hrest.trans (.onCtx _ _)⟩
  · exact (spad_onCtx ..).1.trans (spad_writeRow le_rfl s row.poison)
  · rw [State.onHandle, thr_onCtx _ (by intro c; rfl)]
    exact congrArg Ctx.thr hctx

theorem ringRowsAndReads : RingRowsAndReads := by
  intro s d h r hin hh hrow rows rb k a
  refine ⟨fun hend => rrd_ends hin hh hrow hend, fun hring hboard htouch herr _ => ?_, fun w row t hwin harr hboard hbusy hcanon => ?_⟩
  · intro u
    have hissue := rrd_issues (d := d) hin hh hrow hring htouch
    obtain ⟨hu, hub, hfill, hcore⟩ := moveCursor_frame hin hh hboard
    refine ⟨fun hle => ?_, fun hlt => ⟨_, loaded_readBytes false _ (s.core s.cur).spad a (by decide), ?_⟩⟩
    · rw [hissue, resolveRings_ring_waits hu hub (by rw [hfill]; exact hle), fin4_eq]
      rfl
    · rw [hissue, resolveRings_ring_arrived hu hub (by rw [hfill]; exact hlt) (by rw [hcore]; exact herr), hcore]
      rfl
  · have htask : s.ctx.task.board = [] := by rw [← thr_task hin]; exact hboard
    obtain ⟨hbytes, hhandle, hmem, hthr, hrest⟩ := rowArrives_facts hh hwin harr htask
    have ⟨(hcur : (s.rowArrives h).cur = s.cur), _⟩ := hrest
    refine ⟨s.rowArrives h, arrivedHandle r w t, ?_, hhandle, rfl, tail_arrivedHandle r w t, rfl, rfl, rfl, fun i hi => ?_,
      fun i hi => ?_, hmem, hthr, hrest⟩
    · show execWindowRowArrival s.cur h s = _
      rw [execWindowRowArrival, if_pos (show s.runsTask s.cur = true from hbusy), asCore_own rfl hcur]
    · rw [spadByte, hbytes]
      exact (smGet_writeBytes_in (hcanon.spad _) hi).trans (by simp [List.getD_eq_getElem?_getD, hi])
    · rw [spadByte, hbytes]
      exact smGet_writeBytes_out hi

/-- Settles O22: the record's fields are its words' bits, a ring read takes its bytes where its row stands, and an arriving row is written
block by block. -/
theorem rings : Obligations.Rings := ⟨ringSet, ringRowsAndReads⟩

end Sys2Proof.Claims
end

section
/-!
PROOF. Windows and maps (R207, R210, R279 to R284).
-/

namespace Sys2Proof.Claims
open Sys2Proof.Machine

/-! ## Windows (R207, R279, R280) -/

/-- The address of a row is formed modulo 2^64, so modulo 2^56 too. -/
theorem rowVa_eq (d : WinDesc) (t : Nat) : ((d.rowVa t).toNat : Int) = windowRow d t := by
  have hsum : d.tbase.setWidth 64 + BitVec.ofNat 64 (t % d.e0.toNat) * d.s0 + BitVec.ofNat 64 (t / d.e0.toNat % d.e1.toNat) * d.s1 +
      BitVec.ofNat 64 (t / (d.e0.toNat * d.e1.toNat)) * d.s2 =
      BitVec.ofInt 64 (d.tbase.toNat + (t % d.e0.toNat : Nat) * d.s0.toInt + (t / d.e0.toNat % d.e1.toNat : Nat) * d.s1.toInt +
        (t / (d.e0.toNat * d.e1.toNat) : Nat) * d.s2.toInt) := by
    simp only [BitVec.ofInt_add, BitVec.ofInt_mul, BitVec.ofInt_natCast, BitVec.ofInt_toInt, BitVec.ofNat_toNat]
  rw [WinDesc.rowVa]
  dsimp only
  rw [hsum, windowRow, BitVec.toNat_setWidth, BitVec.toNat_setWidth, BitVec.toNat_ofInt]
  omega

section
variable {s s1 : State} {a : Reg} {h : BitVec 4} {r : Handle} (hin : s.ctx.inHandler = false) (htag : (s.thr.readB a).tag = 0)
include hin htag

/-- WINSET of a legal descriptor empties the ring and binds the window at row 0 (R279). -/
theorem winset_binds {l : List Byte} (halign : (s.thr.readB a).val.toNat % 2 ^ 32 % 16 = 0)
    (hrange : (s.thr.readB a).val.toNat % 2 ^ 32 + 48 ≤ s.ctx.kern.spad)
    (hread : s.localRead ((s.thr.readB a).val.toNat % 2 ^ 32) 48 = (.ok (l, false), s1)) (hok : winBytesOk l = true)
    (hh : s1.ctx.h[h.toNat]? = some r) (hrow : r.rowb ≠ 0) (hboard : s1.thr.board = []) :
    exec (.winset a h) s = .next (s1.bindWindow h (WinDesc.ofBytes l)).slotDone := by
  show execWinset a h s = _
  rw [execWinset, State.taskOnly_task hin, descriptor_go htag halign hrange hread, handle_eq hh, hok, decide_eq_false hrow,
    ringReads_empty hboard]
  rfl

variable (hh : s.ctx.h[h.toNat]? = some r) (hrow : r.rowb ≠ 0)
include hh hrow

theorem exec_winadv : exec (.winadv a h) s = (if r.win.isNone then s.ringFormat h
    else s.retireRows h r (s.thr.readB a).val.toNat fun s => s.enableRows h).out := by
  show execWinadv a h s = _
  rw [execWinadv, State.taskOnly_task hin, ringForm_go hh htag hrow]

theorem winadv_retires (hwin : r.win.isSome = true) (hn : (s.thr.readB a).val.toNat ≤ r.fill.toNat) (hboard : s.thr.board = []) :
    exec (.winadv a h) s = .next ((s.onHandle h fun _ => r.retire (s.thr.readB a).val.toNat).enableRows h).slotDone := by
  rw [exec_winadv hin htag hh hrow, if_neg (by rw [Option.isNone_iff_eq_none]; rintro hnone; simp [hnone] at hwin),
    retireRows_retires hh hn hboard]
  rfl

end

theorem windows : Windows := by
  refine ⟨rowVa_eq, fun s a h r hin hh hrow htag hboard => ?_⟩
  intro p n
  refine ⟨fun ha hr l s1 hread hok hh1 hboard1 => winset_binds hin htag ha hr hread hok hh1 hrow hboard1, fun hwin hn => ?_, fun hwin => ?_⟩
  · obtain ⟨hhead, hfill, hcursor⟩ := retire_spec r hn
    exact ⟨_, winadv_retires hin htag hh hrow hwin hn hboard, hhead, hfill, hcursor, rfl, rfl⟩
  · rw [exec_winadv hin htag hh hrow, hwin, if_pos (by simp), ringFormat_out]

/-! ## Maps (R210, R281 to R284) -/

theorem writeBackMap_unbound {s : State} {i : Fin 16} (h : (s.ctx.maps[i]).desc = none) : s.writeBackMap i = (.ok (), s) := by
  rw [State.writeBackMap, h]

section
variable {s s1 s2 : State} {m : BitVec 4} (hin : s.ctx.inHandler = false)
include hin

theorem mapflush_done (h : s.writeBackMap (fin4 m) = (.ok (), s1)) : exec (.mapflush m) s = .next s1.slotDone := by
  show execMapflush m s = _
  rw [execMapflush, State.taskOnly_task hin, h]
  rfl

theorem mapset_binds {a : Reg} {l : List Byte} (htag : (s.thr.readB a).tag = 0) (halign : (s.thr.readB a).val.toNat % 2 ^ 32 % 16 = 0)
    (hrange : (s.thr.readB a).val.toNat % 2 ^ 32 + 48 ≤ s.ctx.kern.spad)
    (hread : s.localRead ((s.thr.readB a).val.toNat % 2 ^ 32) 48 = (.ok (l, false), s1)) (hok : mapBytesOk l = true)
    (hfits : s1.ctx.mapFits (fin4 m) (MapDesc.ofBytes l) = true) (hback : s1.writeBackMap (fin4 m) = (.ok (), s2)) :
    exec (.mapset a m) s = .next (s2.onMap (fin4 m) fun _ =>
      ⟨if (MapDesc.ofBytes l).len = 0 then none else some (MapDesc.ofBytes l), []⟩).slotDone := by
  have hlegal : (!mapBytesOk l || !s1.ctx.mapFits (fin4 m) (MapDesc.ofBytes l)) = false := by rw [hok, hfits]; rfl
  show execMapset a m s = _
  rw [execMapset, State.taskOnly_task hin, descriptor_go htag halign hrange hread]
  dsimp only
  rw [hlegal, if_neg Bool.false_ne_true, hback]
  rfl

end

/-- The blocks of a granule are read into the scratchpad, and the running context stands. -/
theorem ctx_fillBlocks (s : State) (p : PartNum) (base : Nat) (l : List (Nat × List (Xlat × Nat))) :
    (s.fillBlocks p base l).ctx = s.ctx := by
  induction l generalizing s with
  | nil => rfl
  | cons x t ih =>
    have hread := Untouched.readPieces s p x.2
    exact (ih _).trans ((State.ctx_writeSpad ..).trans hread.ctx)

theorem map_onMap (s : State) (i : Fin 16) (f : MapUnit → MapUnit) : (s.onMap i f).ctx.maps[i] = f s.ctx.maps[i] := by
  rw [State.onMap, State.ctx_onCtx]
  simp

/-- A fill leaves its granule filled, with no block dirty (R210). -/
theorem fillGranule_clean {s u : State} {i : Fin 16} {d : MapDesc} {g : Nat} (hempty : (s.ctx.maps[i]).gran? g = none)
    (h : s.fillGranule i d g = (.ok (), u)) : ∃ gr, (u.ctx.maps[i]).gran? g = some gr ∧ gr.dirty = 0 := by
  have hx := Untouched.xlateBlocks s s.ctx.agent .read (d.blocks g)
  unfold State.fillGranule at h
  split at h
  · cases h
  · split at h
    · cases h
    · next l t hxl =>
      split at h
      · cases h
      · obtain ⟨-, rfl⟩ := Prod.mk.inj h
        have hmaps : (t.fillBlocks s.ctx.part (d.spbase.toNat + g * 4096) l).ctx.maps = s.ctx.maps := by
          rw [ctx_fillBlocks, show t = (s.xlateBlocks s.ctx.agent .read (d.blocks g)).2 by rw [hxl], hx.ctx]
        have hfind : (s.ctx.maps[i]).grans.find? (fun e => e.1 == g) = none := by simpa [MapUnit.gran?] using hempty
        refine ⟨⟨0, writableMask l, l⟩, ?_, rfl⟩
        rw [map_onMap, hmaps, MapUnit.gran?, List.find?_append, hfind]
        simp

theorem mapFill_fills {s u : State} {m : BitVec 4} {i : Fin 16} {d : MapDesc} {g : BitVec 9} (hi : fin4 m = i)
    (hdesc : (s.ctx.maps[i]).desc = some d) (hlen : g.toNat * 4096 < d.len.toNat) (hempty : (s.ctx.maps[i]).gran? g.toNat = none)
    (h : s.fillGranule i d g.toNat = (.ok (), u)) : exec (.mapFill s.cur m g) s = .next { u with cur := s.cur } := by
  subst hi
  show execMapFill s.cur m g s = _
  rw [execMapFill, State.asCore, show ({ s with cur := s.cur } : State) = s from rfl]
  dsimp only
  rw [hdesc]
  dsimp only
  rw [hempty, decide_eq_true hlen, Option.isNone_none, Bool.and_self, if_pos rfl, h]

theorem mapForms : MapForms := by
  intro s a m hin i
  have hi : fin4 m = i := fin4_eq m
  refine ⟨?_, fun hdesc => ?_, fun u hback => ?_, fun htag ha hr l s1 s2 hread hok hfits hback => ?_, fun d g u hdesc hlen hempty hfill => ?_⟩
  · show execMapinv m s = _
    rw [execMapinv, State.taskOnly_task hin, hi]
    rfl
  · exact mapflush_done hin (writeBackMap_unbound (by rw [hi]; exact hdesc))
  · exact mapflush_done hin (by rw [hi]; exact hback)
  · rw [← hi] at hfits hback ⊢
    exact ⟨_, mapset_binds hin htag ha hr hread hok hfits hback, rfl, fun hlen => if_pos hlen, fun hlen => if_neg hlen⟩
  · exact ⟨mapFill_fills hi hdesc hlen hempty hfill, fillGranule_clean hempty hfill⟩

/-- Settles O23: each form passes its checks and does what the rule says to the ring or the map alone; a fill appends a clean granule. -/
theorem windowsAndMaps : Obligations.WindowsAndMaps := ⟨windows, mapForms⟩

end Sys2Proof.Claims
end

section
/-!
PROOF. Global loads and stores (R220, R224, R229, R262, R264, R265): pieces of this module are read and written where they lie, and the
launches stand through it.
-/

namespace Sys2Proof.Machine

/-! ## Launches stand through memory accesses -/

section
variable (s : State)

theorem State.launches_unelide (pa : Nat) : (s.unelide pa).launches = s.launches := by
  unfold State.unelide
  split <;> rfl

theorem State.launches_logWrite (who : Option TaskId) (pa n : Nat) : (s.logWrite who pa n).launches = s.launches := by
  unfold State.logWrite
  cases who with
  | none => rfl
  | some w =>
    dsimp only
    split <;> rfl

theorem State.launches_loseDuplicates (pa : Nat) : (s.loseDuplicates pa).launches = s.launches := by
  unfold State.loseDuplicates
  split <;> rfl

theorem State.launches_putPiece (who : Option TaskId) (c p : Bool) (pa : Nat) (l : List Byte) :
    (s.putPiece who c p pa l).launches = s.launches := by
  show (((s.unelide pa).logWrite who pa l.length).loseDuplicates pa).launches = _
  rw [State.launches_loseDuplicates, State.launches_logWrite, State.launches_unelide]

theorem State.launches_writePhys (who : Option TaskId) (pa : Nat) (l : List Byte) (p c : Bool) :
    (s.writePhys who pa l p c).launches = s.launches :=
  foldl_keeps (P := fun t : State => t.launches = s.launches) _ rfl fun _ _ h => (State.launches_putPiece ..).trans h

theorem State.launches_enqueue (p : PartNum) (r : List Byte) (t : BitVec 64) : (s.enqueue p r t).launches = s.launches := by
  have hover : (if (s.part p).evqdrops = 0 then s
      else s.putRecord p (s.part p).evqtail (overflowRecord p (s.part p).evqdrops t)).launches = s.launches := by
    split
    · rfl
    · exact State.launches_writePhys ..
  unfold State.enqueue
  extract_lets q size used need
  split
  · rfl
  · exact (State.launches_writePhys ..).trans hover

theorem State.launches_errRecord (p : Option PartNum) (r : ErrRec) : (s.errRecord p r).launches = s.launches :=
  foldl_keeps (P := fun t : State => t.launches = s.launches) _ rfl fun _ _ h => (State.launches_enqueue ..).trans h

theorem State.launches_fixRecord (p : Option PartNum) (r : ErrRec) : (s.fixRecord p r).launches = s.launches := by
  unfold State.fixRecord
  split
  · exact State.launches_errRecord ..
  · dsimp only
    split
    · exact State.launches_errRecord ..
    · rfl

theorem State.launches_checkBlock (p : Option PartNum) (c : Bool) (pa : Nat) : (s.checkBlock p c pa).2.launches = s.launches := by
  unfold State.checkBlock
  split
  · dsimp only [State.elidedRead]
    split
    · exact State.launches_errRecord ..
    · rfl
  · extract_lets blk found own rec_
    cases found with
    | clean => rfl
    | marked => rfl
    | corrected e => exact State.launches_fixRecord ..
    | misdirected => exact State.launches_errRecord ..
    | uncorrectable => exact State.launches_errRecord ..

theorem State.launches_readPhys (p : Option PartNum) (pa n : Nat) (c : Bool) : (s.readPhys p pa n c).2.2.launches = s.launches :=
  foldl_keeps (P := fun x : Bool × State => x.2.launches = s.launches) (blocksOf pa n) (a := (false, s)) rfl
    fun x _ h => (State.launches_checkBlock x.2 p c _).trans h

theorem State.launches_sendAll (l : List Sent) : (s.sendAll l).launches = s.launches :=
  foldl_keeps (P := fun t : State => t.launches = s.launches) _ rfl fun a b h => by
    split
    · exact h
    · exact h

theorem State.launches_writePieces (who : Option TaskId) (b g : Bool) (l : List (Xlat × Nat)) (d : List Byte) :
    (s.writePieces who b g l d).launches = s.launches := by
  induction l generalizing s d with
  | nil => rfl
  | cons x t ih =>
    rw [State.writePieces, ih]
    split
    · exact State.launches_sendAll ..
    · exact State.launches_writePhys ..

end

end Sys2Proof.Machine

namespace Sys2Proof.Claims
open Sys2Proof.Machine

/-- What an access of memory leaves alone, with the launches. -/
theorem sameRest_of_untouched {s t : State} (h : Untouched s t) (hl : t.launches = s.launches) : SameRest s t :=
  ⟨h.cur, h.agenda, h.groves, h.dies, hl, h.tasks, h.checkpoints, h.phasers, h.gens⟩

/-! ## Pieces -/

theorem inConfig_cons {x : Xlat × Nat} {xs : List (Xlat × Nat)} (h : inConfig (x :: xs) = false) :
    inConfig [x] = false ∧ inConfig xs = false := by
  simpa [inConfig] using h

theorem isRemote_cons {x : Xlat × Nat} {xs : List (Xlat × Nat)} (h : isRemote (x :: xs) = false) :
    x.1.remote.isSome = false ∧ isRemote xs = false := by
  simpa [isRemote] using h

/-- Rights over configuration space stop no access outside it (R409). -/
theorem cfgRefused_none {xs : List (Xlat × Nat)} (h : inConfig xs = false) (s : State) (write : Bool) (v : BitVec 64) :
    s.cfgRefused write v xs = none := by
  induction xs generalizing v with
  | nil => rfl
  | cons x xs ih =>
    obtain ⟨hx, hxs⟩ := inConfig_cons h
    rw [State.cfgRefused, pieceConfig, hx, Bool.false_and, if_neg Bool.false_ne_true, ih hxs]

theorem homeOf_local {xs : List (Xlat × Nat)} (h : isRemote xs = false) : homeOf xs = none := by
  cases xs with
  | nil => rfl
  | cons x xs =>
    have hx : x.1.remote = none := by simpa using (isRemote_cons h).1
    rw [homeOf, hx]
    split <;> rfl

/-- The pieces of a load that lie in this module, outside configuration space, are read from memory one after another. -/
theorem readHere_eq {xs : List (Xlat × Nat)} (hc : inConfig xs = false) (hr : isRemote xs = false) {s : State} {p : PartNum}
    (hp : s.ctx.part = p) : s.readHere xs =
      ((s.readPieces p xs).1.map some, (s.readPieces p xs).2.1, (s.readPieces p xs).2.2) := by
  induction xs generalizing s with
  | nil => rfl
  | cons x xs ih =>
    obtain ⟨hcx, hcxs⟩ := inConfig_cons hc
    obtain ⟨hrx, hrxs⟩ := isRemote_cons hr
    have hnext : (s.readPhys (some p) x.1.pa x.2 x.1.cached).2.2.ctx.part = p := by rw [(Untouched.readPhys ..).ctx]; exact hp
    simp only [State.readHere, State.readAccess, hcx, hrx, hp, State.readPieces, ih hcxs hrxs hnext, if_neg Bool.false_ne_true,
      List.append_nil, Bool.or_false, List.map_append]

/-! ## Loads (R262, R264) -/

section
variable {s s1 s2 : State} {d b : Reg} {cls : BitVec 3} {z : BitVec 2} {o : BitVec 10} {signed : Bool} {xs : List (Xlat × Nat)}

section
variable (hconf : inConfig xs = false) (hlocal : isRemote xs = false) (hshed : s1.shedPieces xs = false) {l : List Byte} {poison : Bool}
  (hread : s1.readPieces s1.ctx.part xs = (l, poison, s2))
include hconf hlocal hshed hread

/-- A load whose pieces lie in this module is performed at its request (log 9). -/
theorem requestLoad_local (v : BitVec 64) (n : Nat) : s1.requestLoad d v n signed cls xs =
    s2.await (boardB d) (.scalar (loadVal signed poison l)) (v.setWidth 56) false false (s1.wayOf xs (readsOf xs) cls) := by
  have hbytes : (l.map some).map (·.getD 0) = l := by simp [Function.comp_def]
  rw [State.requestLoad]
  dsimp only
  rw [hshed, if_neg Bool.false_ne_true, readHere_eq hconf hlocal rfl, hread]
  dsimp only
  rw [hlocal, if_neg Bool.false_ne_true, hbytes, pdestB_eq]

variable (htag : (s.thr.readB b).tag = 0) (hfree : Free s cls)
  (hx : s.xlateRange s.ctx.agent .read (address s b z o) (2 ^ z.toNat) = (.ok xs, s1))
include htag hfree hx

theorem loadGlobal_local : (s.loadGlobal d b cls z o signed).out = .next (s2.await (boardB d) (.scalar (loadVal signed poison l))
    ((address s b z o).setWidth 56) false false (s1.wayOf xs (readsOf xs) cls)).slotDone := by
  rw [State.loadGlobal, needs_one (clean_ne_deferred htag), poison_of_clean htag, if_neg Bool.false_ne_true, address_eq, hx]
  dsimp only
  rw [cfgRefused_none hconf, homeOf_local hlocal]
  dsimp only
  rw [inOrder_free hfree, requestLoad_local hconf hlocal hshed hread]
  rfl

theorem loadSpec_local (hall : xs.all (fun x => x.1.cached) = true) : (s.loadSpec d b cls z o signed).out =
    .next (s2.await (boardB d) (.scalar (loadVal signed poison l)) ((address s b z o).setWidth 56) false false
      (s1.wayOf xs (readsOf xs) cls)).slotDone := by
  have hany : (xs.any fun x => !x.1.cached) = false := by simpa using hall
  rw [State.loadSpec, deferred_of_clean htag, poison_of_clean htag, if_neg Bool.false_ne_true, if_neg Bool.false_ne_true, address_eq, hx]
  dsimp only
  rw [hany, if_neg Bool.false_ne_true, homeOf_local hlocal, inOrder_free hfree, requestLoad_local hconf hlocal hshed hread]
  rfl

end

section
variable (htag : (s.thr.readB b).tag = 0)
include htag

/-- A page that is not write-back gives a speculative load a deferred value (R264). -/
theorem loadSpec_uncached (hx : s.xlateRange s.ctx.agent .read (address s b z o) (2 ^ z.toNat) = (.ok xs, s1))
    (hany : (xs.any fun x => !x.1.cached) = true) :
    (s.loadSpec d b cls z o signed).out = .next (s1.await (boardB d) (.scalar ⟨0, 1⟩) 0).slotDone := by
  rw [State.loadSpec, deferred_of_clean htag, poison_of_clean htag, if_neg Bool.false_ne_true, if_neg Bool.false_ne_true, address_eq, hx]
  dsimp only
  rw [hany, if_pos rfl, pdestB_eq]
  rfl

/-- So does a translation that stops, but for a granule that is on its way (R264). -/
theorem loadSpec_stopped {e : Stop} (hx : s.xlateRange s.ctx.agent .read (address s b z o) (2 ^ z.toNat) = (.error e, s1))
    (he : e ≠ .granule) :
    (s.loadSpec d b cls z o signed).out = .next (s1.await (boardB d) (.scalar ⟨0, 1⟩) 0).slotDone := by
  rw [State.loadSpec, deferred_of_clean htag, poison_of_clean htag, if_neg Bool.false_ne_true, if_neg Bool.false_ne_true, address_eq, hx,
    ← pdestB_eq]
  cases e with
  | granule => exact absurd rfl he
  | trap c d => rfl
  | page va k l => rfl
  | order => rfl

/-- LDK reads the core's constant cache (R265). -/
theorem loadConst_reads (halign : (address s b z o).toNat % 2 ^ z.toNat = 0) (hrange : (address s b z o).toNat < 0x10000) :
    (s.loadConst d b z o).out = .next (commitsB s 3 d (loadVal false
      ((s.core s.cur).constMark.contains ((address s b z o).toNat / 64))
      (readBytes (s.core s.cur).const (address s b z o).toNat (2 ^ z.toNat)))) := by
  rw [State.loadConst, needs_one (clean_ne_deferred htag), poison_of_clean htag, if_neg Bool.false_ne_true, address_eq,
    if_neg (not_not.2 halign), if_neg (not_le.2 hrange)]
  exact putB_commits ..

end

end

theorem globalLoads : GlobalLoads := by
  intro s d b ac z o hb n va
  refine ⟨fun xs s1 hx hconf hlocal hfree hshed l poison s2 hread hlen => ⟨?_, ?_⟩, fun xs s1 hx hany => ?_, fun e s1 hx he => ?_,
    fun ha hr => ?_⟩
  · exact ⟨_, _, _, loaded_list false poison (size_mem z) hlen, loadGlobal_local hconf hlocal hshed hread hb hfree hx,
      loadSpec_local hconf hlocal hshed hread hb hfree hx⟩
  · exact ⟨_, _, _, loaded_list true poison (size_mem z) hlen, loadGlobal_local hconf hlocal hshed hread hb hfree hx,
      loadSpec_local hconf hlocal hshed hread hb hfree hx⟩
  · exact ⟨loadSpec_uncached hb hx hany, loadSpec_uncached hb hx hany⟩
  · exact ⟨loadSpec_stopped hb hx he, loadSpec_stopped hb hx he⟩
  · exact ⟨_, loaded_readBytes false _ (s.core s.cur).const va.toNat (size_mem z), loadConst_reads hb ha hr⟩

/-! ## Stores (R229, R262) -/

theorem pieceAcks_addr (s : State) (id : Nat) (cls : BitVec 3) (poison : Bool) (va : BitVec 64) (xs : List (Xlat × Nat)) (data : List Byte) :
    (s.pieceAcks id cls poison va xs data).map (·.addr) = pieceAddresses va xs := by
  induction xs generalizing va data with
  | nil => rfl
  | cons x xs ih => rw [State.pieceAcks, pieceAddresses, List.map_cons, ih]

/-- What a .g write of pieces leaves in the running context, and nothing else of the machine (R229). -/
theorem addAcks_facts (t : State) (g : BitVec 1) (cls : BitVec 3) (poison : Bool) (va : BitVec 64) (xs : List (Xlat × Nat)) (data : List Byte) :
    let u := t.addAcks (g = 1) cls poison va xs data
    u.mem = t.mem ∧ u.out = t.out ∧ Awaits t.ctx u.ctx (if g = 1 then pieceAddresses va xs else []) ∧ u.thr = t.thr ∧
      (∀ c, (u.core c).spad = (t.core c).spad) ∧ SameRest t u := by
  intro u
  by_cases hg : g = 1
  · have hu : u = t.onCtx fun c => c.addAcks (t.pieceAcks c.nextId cls poison va xs data) := by
      show t.addAcks _ _ _ _ _ _ = _
      rw [State.addAcks, if_pos (decide_eq_true hg)]
    rw [hu]
    refine ⟨rfl, rfl, ?_, thr_onCtx _ (by intro c; rfl), fun c => (spad_onCtx ..).1, .onCtx _ _⟩
    rw [State.ctx_onCtx, if_pos hg]
    simp [Awaits, Ctx.addAcks, pieceAcks_addr]
  · have hu : u = t := by
      show t.addAcks _ _ _ _ _ _ = _
      rw [State.addAcks, if_neg (by simpa using hg)]
    rw [hu]
    exact ⟨rfl, rfl, by rw [if_neg hg]; simp [Awaits], rfl, fun _ => rfl, .refl t⟩

/-- A write outside configuration space, which may mark its interval irrevocable (R460). -/
theorem writeAccess_facts {s : State} {xs : List (Xlat × Nat)} (hconf : inConfig xs = false) (data : List Byte) (poison g : Bool) :
    let w := s.writePieces (some s.ctx.id) poison g xs data
    let u := s.writeAccess xs data poison g
    u.mem = w.mem ∧ u.out = w.out ∧ u.ctx.acks = s.ctx.acks ∧ u.thr = s.thr ∧ (∀ c, (u.core c).spad = (s.core c).spad) ∧
      SameRest s u := by
  intro w u
  have hw : Untouched s w := Untouched.writePieces ..
  have hrest : SameRest s w := sameRest_of_untouched hw (s.launches_writePieces ..)
  have hu : u = if externalWrite xs then w.irrevocable else w := by
    show s.writeAccess _ _ _ _ = _
    rw [State.writeAccess, hconf, if_neg Bool.false_ne_true]
  obtain ⟨hacks, hthr, hmem, hspad⟩ := irrevocable_facts w (externalWrite xs)
  rw [hu]
  refine ⟨hmem, ?_, hacks.trans (by rw [hw.ctx]), hthr.trans hw.thr, fun c => (hspad c).trans (by rw [hw.core]), ?_⟩
  · split <;> rfl
  · split
    · exact hrest.trans (.onCtx _ _)
    · exact hrest

theorem storeGlobal_stores {s s1 : State} {d b : Reg} {g : BitVec 1} {cls : BitVec 3} {z : BitVec 2} {o : BitVec 10}
    {xs : List (Xlat × Nat)} (htag : (s.thr.readB b).tag = 0) (hdata : (s.thr.readB d).tag ≠ 1)
    (hx : s.xlateRange s.ctx.agent .write (address s b z o) (2 ^ z.toNat) = (.ok xs, s1)) (hconf : inConfig xs = false)
    (hfree : Free s cls (homeOf xs)) (hpath : g = 1 ∨
      s1.stuck (writesOf (bad (s.thr.readB d)) false xs (leBytes (2 ^ z.toNat) (s.thr.readB d).val.toNat)) = false) :
    (s.storeGlobal d b g cls z o).out =
      .next ((s1.writeAccess xs (leBytes (2 ^ z.toNat) (s.thr.readB d).val.toNat) (bad (s.thr.readB d)) (g = 1)).addAcks (g = 1) cls
        (bad (s.thr.readB d)) (address s b z o) xs (leBytes (2 ^ z.toNat) (s.thr.readB d).val.toNat)).slotDone := by
  have hgo : (decide (g = 0) && s1.stuck (writesOf (s.thr.readB d).poison false xs (leBytes (2 ^ z.toNat) (s.thr.readB d).val.toNat))) =
      false := by
    obtain rfl | hstuck := hpath
    · rfl
    · exact Bool.and_eq_false_imp.2 fun _ => hstuck
  rw [State.storeGlobal, needs_two (clean_ne_deferred htag) hdata, poison_of_clean htag, if_neg Bool.false_ne_true, address_eq, hx]
  dsimp only
  rw [cfgRefused_none hconf]
  dsimp only
  rw [inOrder_free hfree, hgo, if_neg Bool.false_ne_true]
  rfl

theorem globalStores : GlobalStores := by
  intro s d b g ac z o hb hd xs s1 hx hconf hfree data hpath
  obtain ⟨hmem, hout, hacks, hthr, hspad, hrest⟩ := writeAccess_facts (s := s1) hconf data (bad (s.thr.readB d)) (g = 1)
  obtain ⟨amem, aout, aacks, athr, aspad, arest⟩ := addAcks_facts (s1.writeAccess xs data (bad (s.thr.readB d)) (g = 1)) g ac
    (bad (s.thr.readB d)) (address s b z o) xs data
  refine ⟨_, storeGlobal_stores hb hd hx hconf hfree hpath, amem.trans hmem, aout.trans hout, ?_, athr.trans hthr,
    fun c => (aspad c).trans (hspad c), hrest.trans arest⟩
  rwa [Awaits, hacks] at aacks

/-- Settles O15: a load of this module's memory is its pieces' read, and a store its pieces' write, each with what the checks before it
leave. -/
theorem globalAccess : Obligations.GlobalAccess := ⟨globalLoads, globalStores⟩

end Sys2Proof.Claims
end

section
/-!
PROOF. FENCE, REL, ACQ and IFENCE (R229, R241, R263, R267 to R272): ordering points and lock words.
-/

namespace Sys2Proof.Claims
open Sys2Proof.Machine

/-! ## An atomic never reaches configuration space (R260, R267) -/

/-- A translation lies in another module or outside configuration space. -/
def OutsideConfig (x : Xlat) : Prop := x.remote = none → target x.pa ≠ .config

theorem leafCheck_outside {s : State} {a : Agent} {va level entry : Nat} {w0 w1 : BitVec 64} {x : Xlat}
    (h : s.leafCheck a .atomic va level entry w0 w1 = .ok x) : OutsideConfig x := by
  unfold State.leafCheck at h
  extract_lets log slab addr top o pa remote pol at h
  split at h
  · cases h
  split at h
  · cases h
  next hforbid =>
    split at h
    · cases h
    split at h
    · cases h
    split at h
    · cases h
    cases h
    intro hremote htarget
    exact hforbid (by simp [show remote = none from hremote, State.forbidden, show target pa = .config from htarget])

theorem walkFrom_outside {s s1 : State} {a : Agent} {va base : Nat} {l : List Nat} {x : Xlat}
    (h : s.walkFrom a .atomic va l base = (.ok x, s1)) : OutsideConfig x := by
  induction l generalizing s base with
  | nil => cases h
  | cons level more ih =>
    simp only [State.walkFrom] at h
    split at h
    · cases h
    split at h
    · cases h
    split at h
    · cases h
    split at h
    · exact ih h
    · exact leafCheck_outside (congrArg Prod.fst h)

theorem walkTables_outside {s s1 : State} {a : Agent} {va : BitVec 56} {x : Xlat} (h : s.walkTables a .atomic va = (.ok x, s1)) :
    OutsideConfig x := by
  unfold State.walkTables at h
  extract_lets root base at h
  split at h
  · cases h
  split at h
  · cases h
  · exact walkFrom_outside h

theorem ok_of_ite {c : Prop} [Decidable c] {r r' : Except WalkStop Xlat} {x : Xlat} {P : Prop} (h : (if c then r else r') = .ok x)
    (hr : r = .ok x → P) (hr' : r' = .ok x → P) : P := by
  split at h
  · exact hr h
  · exact hr' h

theorem walk_outside {s s1 : State} {a : Agent} {va : BitVec 56} {x : Xlat} (h : s.walk a .atomic va = (.ok x, s1)) : OutsideConfig x := by
  unfold State.walk at h
  cases hw : s.walkTables a .atomic va with
  | mk r t =>
    have hr (hx : r = .ok x) : OutsideConfig x := walkTables_outside (s1 := t) (by rw [hw, hx])
    rw [hw] at h
    dsimp only at h
    split at h
    · exact hr (congrArg Prod.fst h)
    · split at h
      · exact hr (congrArg Prod.fst h)
      · exact ok_of_ite (congrArg Prod.fst h) leafCheck_outside hr

theorem target_bootWindow {a : Nat} (h : a < bootWindow) : target a = .hbm := if_pos (lt_trans h (by decide))

theorem xlate_outside {s s1 : State} {a : Agent} {va : BitVec 64} {x : Xlat} (h : s.xlate a .atomic va = (.ok x, s1)) :
    OutsideConfig x := by
  unfold State.xlate at h
  split at h
  · cases h
  split at h
  · have hfst := congrArg Prod.fst h
    dsimp only at hfst
    split at hfst
    next hin =>
      cases hfst
      intro _
      rw [target_bootWindow hin]
      decide
    · cases hfst
  · cases hw : s.walk a .atomic (va.setWidth 56) with
    | mk r t =>
      rw [hw] at h
      cases r with
      | ok y =>
        cases h
        exact walk_outside hw
      | error e => cases h

theorem xlateAll_outside {s s1 : State} {a : Agent} {l : List (BitVec 64 × Nat)} {xs : List (Xlat × Nat)}
    (h : s.xlateAll a .atomic l = (.ok xs, s1)) : ∀ y ∈ xs, OutsideConfig y.1 := by
  induction l generalizing s xs with
  | nil =>
    cases h
    exact fun _ hy => absurd hy List.not_mem_nil
  | cons p t ih =>
    rw [State.xlateAll] at h
    split at h
    · cases h
    next x s' hx =>
      split at h
      · cases h
      next ys s'' hys =>
        cases h
        intro y hy
        obtain rfl | hy := List.mem_cons.1 hy
        · exact xlate_outside hx
        · exact ih hys y hy

theorem inConfig_of_atomic {s s1 : State} {a : Agent} {va : BitVec 64} {n : Nat} {xs : List (Xlat × Nat)}
    (h : s.xlateRange a .atomic va n = (.ok xs, s1)) : inConfig xs = false := by
  have hall : ∀ y ∈ xs, OutsideConfig y.1 := by
    rw [State.xlateRange] at h
    split at h
    next ys t hys =>
      cases h
      exact xlateAll_outside hys
    · exact xlateAll_outside h
  refine List.any_eq_false.2 fun y hy => ?_
  have hout := hall y hy
  simp only [Bool.and_eq_true, decide_eq_true_eq, Option.isNone_iff_eq_none, not_and]
  exact hout

/-! ## Ordering points (R229, R241) -/

section
variable {s u : State} {x : BitVec 3} {k : State → SlotOut}

theorem ordered_below (hx : x ≠ 5) : s.ordered x k = s.orderWait.getD (k s) := by rw [State.ordered, if_neg hx]

theorem ordered_pool (hflush : s.poolFlush = .ok u) : s.ordered 5 k = s.orderWait.getD (k u) := by
  rw [State.ordered, if_pos rfl, hflush]

theorem ordered_severed {r : Nat} (hflush : s.poolFlush = .error r) : s.ordered 5 k = .trap s 0x0B (BitVec.ofNat 64 r) := by
  rw [State.ordered, if_pos rfl, hflush]

/-- Unacknowledged .g writes hold an ordering point, where nothing is owed or lost (R229). -/
theorem orderWait_acks (howed : s.ctx.owedTrap = none) (hlost : s.ctx.lost = []) (hacks : s.ctx.acks ≠ []) :
    s.orderWait = some (.stall s .order) := by
  have hsome : (s.ctx.acks ≠ [] || s.ctx.winHeld || (s.ctx.task.board ++ s.ctx.hand.board).any fun p => !p.val.fixed) = true := by
    simp [hacks]
  rw [State.orderWait, howed]
  dsimp only
  rw [if_neg (not_not.2 hlost), if_pos hsome]

/-- Write-backs change memory alone. -/
theorem poolFlush_onMem (hflush : s.poolFlush = .ok u) : ∃ f, u = s.onMem f := by
  unfold State.poolFlush at hflush
  extract_lets t at hflush
  split at hflush
  · cases hflush
  · cases hflush
  · cases hflush
    exact ⟨_, rfl⟩

theorem noteRelease_eq (s : State) (x : BitVec 3) : s.noteRelease (decide (1 ≤ x.toNat)) =
    if x = 0 then s else s.onCtx fun c => { c with released := true } := by
  unfold State.noteRelease
  by_cases hx : x = 0
  · rw [if_pos hx, hx]
    rfl
  · have hpos : 1 ≤ x.toNat := Nat.one_le_iff_ne_zero.2 fun h => hx (BitVec.eq_of_toNat_eq h)
    rw [if_neg hx, if_pos (decide_eq_true hpos)]

end

/-! ## REL (R271) -/

theorem lockWord_go {s : State} {b : Reg} (htag : (s.thr.readB b).tag = 0) (halign : (s.thr.readB b).val.toNat % 8 = 0)
    (k : BitVec 64 → SlotOut) : s.lockWord b k = k (s.thr.readB b).val := by
  rw [State.lockWord, State.needsClean_go (by simpa using htag), if_neg (not_not.2 halign)]

/-- The state that REL leaves at its slot's end. -/
def releasedLock (u : State) (g : BitVec 1) (x : BitVec 3) (va : BitVec 64) (xs : List (Xlat × Nat)) : State :=
  ((u.writeAccess xs (leBytes 8 0) false (g = 1)).addAcks (g = 1) 0 false va xs (leBytes 8 0)).noteRelease (decide (1 ≤ x.toNat))

theorem releaseLock_done {u : State} {g : BitVec 1} {xs : List (Xlat × Nat)}
    (hpath : g = 1 ∨ u.stuck (writesOf false false xs (leBytes 8 0)) = false) (x : BitVec 3) (va : BitVec 64) :
    u.releaseLock g x va xs = .done (releasedLock u g x va xs) := by
  have hgo : (decide (g = 0) && u.stuck (writesOf false false xs (leBytes 8 0))) = false := by
    obtain rfl | hstuck := hpath
    · rfl
    · exact Bool.and_eq_false_imp.2 fun _ => hstuck
  rw [State.releaseLock, hgo, if_neg Bool.false_ne_true]
  rfl

/-- What REL writes and notes. -/
theorem releasedLock_facts {u : State} {xs : List (Xlat × Nat)} (hconf : inConfig xs = false) (g : BitVec 1) (x : BitVec 3) (va : BitVec 64) :
    (releasedLock u g x va xs).mem = (u.writeAccess xs (leBytes 8 0) false (g = 1)).mem ∧
    Awaits u.ctx (releasedLock u g x va xs).ctx (if g = 1 then pieceAddresses va xs else []) ∧
    (x ≠ 0 → (releasedLock u g x va xs).ctx.released = true) ∧ (releasedLock u g x va xs).thr = u.thr := by
  obtain ⟨-, -, hacks, hthr, -, -⟩ := writeAccess_facts (s := u) hconf (leBytes 8 0) false (g = 1)
  obtain ⟨amem, -, aacks, athr, -, -⟩ := addAcks_facts (u.writeAccess xs (leBytes 8 0) false (g = 1)) g 0 false va xs (leBytes 8 0)
  rw [Awaits, hacks] at aacks
  rw [releasedLock, noteRelease_eq]
  split
  next hx => exact ⟨amem, aacks, fun h => absurd hx h, athr.trans hthr⟩
  next hx =>
    refine ⟨amem, ?_, fun _ => by rw [State.ctx_onCtx], (thr_onCtx _ (by intro c; rfl)).trans (athr.trans hthr)⟩
    rw [State.ctx_onCtx]
    exact aacks

section
variable {s s1 : State} {b : Reg} {g : BitVec 1} {x : BitVec 3} {xs : List (Xlat × Nat)} (htag : (s.thr.readB b).tag = 0)
  (halign : (s.thr.readB b).val.toNat % 8 = 0) (hx : s.xlateRange s.ctx.agent .atomic (s.thr.readB b).val 8 = (.ok xs, s1))
include htag halign hx

theorem exec_rel : exec (.rel b g x) s = (s1.ordered x fun t => t.releaseLock g x (s.thr.readB b).val xs).out := by
  show execRel b g x s = _
  rw [execRel, lockWord_go htag halign, hx]

variable (hwait : s1.orderWait = none) (hpath : g = 1 ∨ s1.stuck (writesOf false false xs (leBytes 8 0)) = false)
include hwait hpath

theorem rel_below (h5 : x ≠ 5) : exec (.rel b g x) s = .next (releasedLock s1 g x (s.thr.readB b).val xs).slotDone := by
  rw [exec_rel htag halign hx, ordered_below h5, hwait, Option.getD_none, releaseLock_done hpath]
  rfl

theorem rel_pool {u : State} (hflush : s1.poolFlush = .ok u) :
    exec (.rel b g 5) s = .next (releasedLock u g 5 (s.thr.readB b).val xs).slotDone := by
  obtain ⟨f, rfl⟩ := poolFlush_onMem hflush
  rw [exec_rel htag halign hx, ordered_pool hflush, hwait, Option.getD_none, releaseLock_done (u := s1.onMem f) hpath]
  rfl

end

theorem exec_fence (x : BitVec 3) (s : State) :
    exec (.fence x) s = (s.ordered x fun s => .done (s.noteRelease (decide (1 ≤ x.toNat)))).out := rfl

theorem fenceAndRelease : FenceAndRelease := by
  intro s b g x released
  refine ⟨fun hwait h5 => ?_, fun u hflush hwait => ?_, fun r hflush => ?_, fun howed hlost hacks hpool => ?_,
    fun htag halign xs s1 hx => ?_⟩
  · rw [exec_fence, ordered_below h5, hwait, Option.getD_none, noteRelease_eq]
    rfl
  · rw [exec_fence, ordered_pool hflush, hwait]
    rfl
  · rw [exec_fence, ordered_severed hflush]
    rfl
  · have hwait := orderWait_acks howed hlost hacks
    rw [exec_fence]
    by_cases h5 : x = 5
    · subst h5
      obtain ⟨u, hflush⟩ := hpool rfl
      rw [ordered_pool hflush, hwait]
      rfl
    · rw [ordered_below h5, hwait]
      rfl
  · intro wrote hwait hpath
    refine ⟨fun h5 => ⟨_, rel_below htag halign hx hwait hpath h5, releasedLock_facts (inConfig_of_atomic hx) g x _⟩, fun h5 u hflush => ?_⟩
    subst h5
    obtain ⟨hmem, hacks, hrel, hthr⟩ := releasedLock_facts (u := u) (inConfig_of_atomic hx) g 5 (s.thr.readB b).val
    obtain ⟨f, rfl⟩ := poolFlush_onMem hflush
    exact ⟨_, rel_pool htag halign hx hwait hpath hflush, hmem, hacks, hrel, hthr⟩

/-! ## ACQ (R270) -/

section
variable {s s2 : State} {x : Xlat} {part : PartNum} {n : Nat} {l : List Byte} {poison : Bool}
  (h : (homeState s x).readPhys (some part) x.pa n (x.pol = 0) = (l, poison, s2)) {f : BitVec 64 → Option (BitVec 64)}
include h

theorem atomAt_result (who : Option TaskId) : ∃ t, s.atomAt who part x n f = (l, poison, t) ∧
    (∀ v, (if poison then none else f (BitVec.ofNat 64 (leNat l))) = some v →
      t = s2.writePhys who x.pa (leBytes n v.toNat) false (x.pol = 0)) ∧
    ((if poison then none else f (BitVec.ofNat 64 (leNat l))) = none → t = s2) := by
  have hhome : (if target x.pa = .pool && !x.cached then s.onMem fun m => m.writeBack (blockOf x.pa) else s) = homeState s x := by
    unfold homeState
    by_cases ht : target x.pa = .pool <;> by_cases hp : x.pol = 0 <;> simp [ht, hp, Xlat.cached, blockOf]
  rw [State.atomAt, hhome, show x.cached = decide (x.pol = 0) from rfl, h]
  dsimp only
  exact ⟨_, rfl, fun v hv => by rw [hv], fun hnone => by rw [hnone]⟩

/-- An atomic that writes, at its home (R225, R267, R268). -/
theorem atomAt_writes (who : Option TaskId) {v : BitVec 64} (hp : poison = false) (hf : f (BitVec.ofNat 64 (leNat l)) = some v) :
    s.atomAt who part x n f = (l, false, s2.writePhys who x.pa (leBytes n v.toNat) false (x.pol = 0)) := by
  obtain ⟨t, ht, hw, -⟩ := atomAt_result h (f := f) who
  subst hp
  rw [ht, hw v hf]

/-- One that writes nothing. -/
theorem atomAt_keeps (who : Option TaskId) (hf : poison = true ∨ f (BitVec.ofNat 64 (leNat l)) = none) :
    s.atomAt who part x n f = (l, poison, s2) := by
  obtain ⟨t, ht, -, hk⟩ := atomAt_result h (f := f) who
  rw [ht, hk]
  obtain rfl | hnone := hf
  · rfl
  · rw [hnone, ite_self]

end

section
variable {s s1 s2 : State} {b : Reg} {x : BitVec 3} {w : Xlat} {l : List Byte} {poison : Bool}

/-- The old word is taken as free where its bytes are 0. -/
theorem lockFree_iff (hlen : l.length = 8) : BitVec.ofNat 64 (leNat l) = 0 ↔ leNat l = 0 := by
  have hlt : leNat l < 2 ^ 64 := by
    have := leNat_lt (l := l)
    rw [hlen] at this
    exact this
  rw [← BitVec.toNat_inj, BitVec.toNat_ofNat, Nat.mod_eq_of_lt hlt]
  rfl

/-- The state that a successful ACQ leaves at its slot's end. -/
def lockedState (s1 s2 : State) (w : Xlat) (va : BitVec 64) : State :=
  let t := s2.writePhys (some s1.ctx.id) w.pa (leBytes 8 1) false (w.pol = 0)
  let t := if externalWrite [(w, 8)] then t.irrevocable else t
  t.onCtx fun c => c.addAcks [⟨c.nextId, va.setWidth 56, t.wayOf [(w, 8)] []⟩]

section
variable (hlocal : w.remote = none) (hshed : s1.shedPieces [(w, 8)] = false) (hlen : l.length = 8)
  (hread : (homeState s1 w).readPhys (some s1.ctx.part) w.pa 8 (w.pol = 0) = (l, poison, s2)) (va : BitVec 64)
include hlocal hshed hread

theorem lockTry_bad (hp : poison = true) : s1.lockTry va [(w, 8)] = s2.lockBad va := by
  subst hp
  rw [State.lockTry]
  dsimp only
  rw [hlocal]
  dsimp only
  rw [hshed, if_neg Bool.false_ne_true, atomAt_keeps hread (some s1.ctx.id) (.inl rfl)]
  rfl

include hlen

theorem lockTry_held (hp : poison = false) (hne : leNat l ≠ 0) : s1.lockTry va [(w, 8)] = .stall s2 (.lock (va.setWidth 56)) := by
  have hheld : ¬BitVec.ofNat 64 (leNat l) = 0 := mt (lockFree_iff hlen).1 hne
  subst hp
  rw [State.lockTry]
  dsimp only
  rw [hlocal]
  dsimp only
  rw [hshed, if_neg Bool.false_ne_true, atomAt_keeps hread (some s1.ctx.id) (.inr (if_neg hheld))]
  exact if_pos hne

theorem lockTry_free (hp : poison = false) (hzero : leNat l = 0) : s1.lockTry va [(w, 8)] = .done (lockedState s1 s2 w va) := by
  have hfree : BitVec.ofNat 64 (leNat l) = 0 := (lockFree_iff hlen).2 hzero
  subst hp
  rw [State.lockTry]
  dsimp only
  rw [hlocal]
  dsimp only
  rw [hshed, if_neg Bool.false_ne_true, atomAt_writes hread (some s1.ctx.id) rfl (if_pos hfree)]
  exact if_neg (not_not.2 hzero)

omit hlocal hshed hlen in
theorem lockedState_facts : (lockedState s1 s2 w va).mem = (s2.writePhys (some s1.ctx.id) w.pa (leBytes 8 1) false (w.pol = 0)).mem ∧
    Awaits s1.ctx (lockedState s1 s2 w va).ctx [va.setWidth 56] ∧ (lockedState s1 s2 w va).thr = s1.thr := by
  have hs2 : Untouched s1 s2 := by
    have hr := Untouched.readPhys (homeState s1 w) (some s1.ctx.part) w.pa 8 (w.pol = 0)
    rw [hread] at hr
    exact (untouched_homeState s1 w).trans hr
  have hw := hs2.trans (Untouched.writePhys s2 (some s1.ctx.id) w.pa (leBytes 8 1) false (w.pol = 0))
  obtain ⟨hacks, hthr, hmem, -⟩ := irrevocable_facts (s2.writePhys (some s1.ctx.id) w.pa (leBytes 8 1) false (w.pol = 0))
    (externalWrite [(w, 8)])
  refine ⟨hmem, ?_, (thr_onCtx _ (by intro c; rfl)).trans (hthr.trans hw.thr)⟩
  rw [lockedState, State.ctx_onCtx, Awaits, Ctx.addAcks, List.map_append, hacks, hw.ctx]
  rfl

end

theorem acquire_go (hlocal : w.remote = none) (hfree : Free s 0) {va : BitVec 64}
    (hx : s.xlateRange s.ctx.agent .atomic va 8 = (.ok [(w, 8)], s1)) : s.acquire va = s1.lockTry va [(w, 8)] := by
  have hhome : homeOf [(w, 8)] = none := by simpa [homeOf] using hlocal
  rw [State.acquire, hx]
  dsimp only
  rw [hhome, inOrder_free hfree]

theorem exec_acq (htag : (s.thr.readB b).tag = 0) (halign : (s.thr.readB b).val.toNat % 8 = 0) :
    exec (.acq b x) s = (s.acquire (s.thr.readB b).val).out := by
  show execAcq b x s = _
  rw [execAcq, lockWord_go htag halign]

/-- ACQ_POLL tries a waiting ACQ's word again (R270). -/
theorem exec_acqPoll {va : BitVec 56} (hwait : s.ctx.wait = .lock va) (hbusy : (s.core s.cur).busy = true)
    (hissue : s.thr.issue.isSome = true) :
    exec (.acqPoll s.cur) s = .next { (s.acquire (va.setWidth 64)).fin with cur := s.cur } := by
  show execAcqPoll s.cur s = _
  rw [execAcqPoll, State.asCore, show ({ s with cur := s.cur } : State) = s from rfl, State.onLock, hwait]
  dsimp only
  rw [hbusy, hissue, Bool.and_self, if_pos rfl]

end

theorem acquire : Acquire := by
  intro s b x htag halign w s1 hx hlocal hshed hfree l poison s2 hread hlen va
  have hexec : exec (.acq b x) s = (s1.lockTry (s.thr.readB b).val [(w, 8)]).out := by
    rw [exec_acq htag halign, acquire_go hlocal hfree hx]
  refine ⟨fun hp hzero => ?_, fun hp hne => ?_, fun hp => ?_⟩
  · have htry := lockTry_free hlocal hshed hlen hread (s.thr.readB b).val hp hzero
    obtain ⟨hmem, hacks, hthr⟩ := lockedState_facts hread (s.thr.readB b).val
    refine ⟨_, by rw [hexec, htry]; rfl, hmem, hacks, hthr, fun hwait hva hbusy hissue => ?_⟩
    rw [exec_acqPoll hwait hbusy hissue, hva, acquire_go hlocal hfree hx, htry]
    rfl
  · rw [hexec, lockTry_held hlocal hshed hlen hread _ hp hne]
    rfl
  · rw [hexec, lockTry_bad hlocal hshed hread _ hp]
    rfl

theorem instructionFence : InstructionFence := by
  intro s
  refine ⟨fun h => ?_, fun h => ?_⟩
  · show execIfence s = _
    rw [execIfence, h]
    rfl
  · show execIfence s = _
    rw [execIfence, h]
    rfl

/-- Settles O19: an ordering point either waits or goes on, and a lock word's bytes decide what its ACQ does. -/
theorem orderingForms : Obligations.OrderingForms := ⟨fenceAndRelease, acquire, instructionFence⟩

end Sys2Proof.Claims
end

section
/-!
PROOF. The line forms and MCFILL (R285 to R287).
-/

namespace Sys2Proof.Claims
open Sys2Proof.Machine

/-! ## Line forms (R287) -/

section
variable {s s1 : State} {b : Reg} {cls : BitVec 3} {xs : List (Xlat × Nat)} (htag : (s.thr.readB b).tag = 0)
  (hx : s.xlateRange s.ctx.agent .read (s.thr.readB b).val 1 = (.ok xs, s1))
include htag hx

/-- A line form that writes nothing back commits when its address translates. -/
theorem lineForm_none {writes : Bool} (h : writes = false ∨ s1.mem.dirty = []) : (s.lineForm b cls writes).out = .next s1.slotDone := by
  rw [State.lineForm, State.needsClean_go (by simpa using htag), hx]
  dsimp only
  split
  next y n t =>
    have hnot : (writes && y.remote.isNone && y.cached && decide (target y.pa = .pool) && (s1.mem.line? (blockOf y.pa)).isSome) = false := by
      obtain rfl | hdirty := h
      · simp
      · simp [Mem.line?, hdirty]
    rw [hnot, if_neg Bool.false_ne_true]
    rfl
  next => rfl

/-- A dirty line of the pool is written back as a .g write. -/
theorem lineForm_dirty {x : Xlat × Nat} (hxs : xs = [x]) (hlocal : x.1.remote = none) (hpol : x.1.pol = 0)
    (hpool : target x.1.pa = .pool) (hline : (s1.mem.line? (x.1.pa / 64)).isSome = true) (hfree : Free s cls) :
    (s.lineForm b cls true).out = .next ((s1.onMem fun m => m.writeBack (x.1.pa / 64)).onCtx fun c =>
      c.addAcks [⟨c.nextId, (s.thr.readB b).val.setWidth 56, s1.wayOf [x] [] cls⟩]).slotDone := by
  have hyes : (true && x.1.remote.isNone && x.1.cached && decide (target x.1.pa = .pool) && (s1.mem.line? (blockOf x.1.pa)).isSome) =
      true := by
    rw [show blockOf x.1.pa = x.1.pa / 64 from rfl, hline, hlocal, hpool, Xlat.cached, hpol]
    rfl
  subst hxs
  rw [State.lineForm, State.needsClean_go (by simpa using htag), hx]
  dsimp only
  rw [hyes, if_pos rfl, inOrder_free hfree]
  rfl

end

/-! ## The groves of a fill (R212, R286) -/

theorem mem_groveList {m : BitVec 16} {g : GroveNum} : g ∈ groveList m ↔ m.getLsbD g.toNat = true := by
  have hg : g.toNat < 16 := g.isLt
  simp only [groveList, List.mem_map, List.mem_filter, List.mem_range]
  constructor
  · rintro ⟨i, ⟨hi, hbit⟩, rfl⟩
    rwa [BitVec.toNat_ofNat, Nat.mod_eq_of_lt hi]
  · exact fun h => ⟨g.toNat, ⟨hg, h⟩, by simp⟩

/-- The groves of a list that receive come to the ones before. -/
theorem mcGroves_fold_get (f : GroveNum → Bool) (l : List GroveNum) (a : List GroveNum) (m : BitVec 16) :
    (l.foldl (fun (p : List GroveNum × BitVec 16) g => if f g then (p.1 ++ [g], p.2) else (p.1, p.2 ||| (1 <<< g.toNat))) (a, m)).1 =
      a ++ l.filter f := by
  induction l generalizing a m with
  | nil => simp
  | cons g l ih =>
    rw [List.foldl_cons, List.filter_cons]
    split
    · rw [ih, List.append_assoc, List.singleton_append]
    · exact ih ..

theorem getLsbD_one_shift (g h : GroveNum) : ((1 <<< g.toNat : Nat) : BitVec 16).getLsbD h.toNat = decide (g = h) := by
  revert g h; decide

/-- The bits of the groves that do not receive come to the ones before. -/
theorem mcGroves_fold_left (f : GroveNum → Bool) (l : List GroveNum) (a : List GroveNum) (m : BitVec 16) (h : GroveNum) :
    (l.foldl (fun (p : List GroveNum × BitVec 16) g => if f g then (p.1 ++ [g], p.2) else (p.1, p.2 ||| (1 <<< g.toNat))) (a, m)).2.getLsbD
      h.toNat = (m.getLsbD h.toNat || (decide (h ∈ l) && !f h)) := by
  induction l generalizing a m with
  | nil => simp
  | cons g l ih =>
    rw [List.foldl_cons]
    by_cases hgh : g = h
    · subst hgh
      split
      next hf => rw [ih]; simp [hf]
      next hf => rw [ih, BitVec.getLsbD_or, getLsbD_one_shift]; simp [hf]
    · have hmem : decide (h ∈ g :: l) = decide (h ∈ l) := by simp [Ne.symm hgh]
      rw [hmem]
      split
      · exact ih ..
      · rw [ih, BitVec.getLsbD_or, getLsbD_one_shift, decide_eq_false hgh, Bool.or_false]

section
variable (s : State) (m : BitVec 16) (g : GroveNum)

theorem mem_mcGroves : g ∈ (s.mcGroves m).1 ↔ m.getLsbD g.toNat = true ∧ s.multicastTo g = true := by
  rw [State.mcGroves, mcGroves_fold_get, List.nil_append, List.mem_filter, mem_groveList]

theorem mcGroves_left : (s.mcGroves m).2.getLsbD g.toNat = (m.getLsbD g.toNat && !s.multicastTo g) := by
  rw [State.mcGroves, mcGroves_fold_left]
  simp [mem_groveList]

end

theorem groveOf_append (g : GroveNum) (x : BitVec 4) : groveOf (g ++ x) = g := by
  unfold groveOf
  exact BitVec.extractLsb'_append_eq_left

theorem groveOf_append_low (c : CoreNum) : groveOf c ++ c.extractLsb' 0 4 = c := by
  refine BitVec.eq_of_getLsbD_eq fun i hi => ?_
  unfold groveOf
  rw [BitVec.getLsbD_append]
  by_cases h : i < 4
  · simp [h]
  · have hhigh : i - 4 < 4 := by omega
    simp [h, hhigh, Nat.add_sub_cancel' (Nat.le_of_not_lt h)]

/-- The cores of a grove are those whose number's high bits name it (R16). -/
theorem mem_coresOf {c : CoreNum} {g : GroveNum} : c ∈ coresOf g ↔ groveOf c = g := by
  simp only [coresOf, List.mem_map, List.mem_range]
  constructor
  · rintro ⟨i, -, rfl⟩
    exact groveOf_append ..
  · rintro rfl
    exact ⟨(c.extractLsb' 0 4).toNat, (c.extractLsb' 0 4).isLt, by rw [BitVec.ofNat_toNat, BitVec.setWidth_eq, groveOf_append_low]⟩

/-! ## The deliveries (R285) -/

/-- Two blocks to each core of a list, one core after another. -/
def deliverCores (s : State) (off : Nat) (b0 b1 : List Byte × Bool) (l : List CoreNum) : State :=
  l.foldl (fun s c => (s.writeSpad c off b0.1 b0.2).writeSpad c (off + 64) b1.1 b1.2) s

theorem deliver_groves (s : State) (off : Nat) (b0 b1 : List Byte × Bool) (get : List GroveNum) :
    get.foldl (fun s g => s.deliverTo g off b0 b1) s = deliverCores s off b0 b1 (get.flatMap coresOf) := by
  rw [deliverCores, List.foldl_flatMap]
  rfl

section
variable {off : Nat} {b0 b1 : List Byte × Bool}

theorem spad_writeSpad_other {s : State} {c e : CoreNum} (he : e ≠ c) (a : Nat) (l : List Byte) (p : Bool) :
    ((s.writeSpad c a l p).core e).spad = (s.core e).spad := by
  rw [State.writeSpad, State.core_onCore_other _ _ he]

/-- One delivery is 128 bytes from its offset on. -/
theorem spad_deliver_same (s : State) (c : CoreNum) (hlen : b0.1.length = 64) :
    (((s.writeSpad c off b0.1 b0.2).writeSpad c (off + 64) b1.1 b1.2).core c).spad =
      writeBytes (s.core c).spad off (b0.1 ++ b1.1) := by
  rw [spad_writeSpad, spad_writeSpad, writeBytes_append, hlen]

theorem spad_deliverCores_out {s : State} {l : List CoreNum} {c : CoreNum} (hc : c ∉ l) :
    ((deliverCores s off b0 b1 l).core c).spad = (s.core c).spad := by
  induction l generalizing s with
  | nil => rfl
  | cons x l ih =>
    obtain ⟨hx, hl⟩ := not_or.1 (mt List.mem_cons.2 hc)
    exact (ih hl).trans ((spad_writeSpad_other hx ..).trans (spad_writeSpad_other hx ..))

theorem spadByte_deliverCores_in {s : State} {l : List CoreNum} {c : CoreNum} (hc : c ∈ l) (hlen : b0.1.length = 64)
    (hwf : smWf 0 (s.core c).spad = true) {k : Nat} (hk : k < (b0.1 ++ b1.1).length) :
    spadByte (deliverCores s off b0 b1 l) c (off + k) = (b0.1 ++ b1.1)[k] := by
  induction l generalizing s with
  | nil => cases hc
  | cons x l ih =>
    by_cases hl : c ∈ l
    · refine ih hl ?_
      by_cases hx : c = x
      · subst hx
        rw [spad_deliver_same s c hlen]
        exact smWf_writeBytes hwf
      · rw [spad_writeSpad_other hx, spad_writeSpad_other hx]
        exact hwf
    · obtain rfl : c = x := (List.mem_cons.1 hc).resolve_right hl
      have hrest := spad_deliverCores_out (off := off) (b0 := b0) (b1 := b1)
        (s := (s.writeSpad c off b0.1 b0.2).writeSpad c (off + 64) b1.1 b1.2) hl
      rw [spadByte]
      refine (congrArg (smGet 0 (off + k)) (hrest.trans (spad_deliver_same s c hlen))).trans ?_
      exact smGet_writeBytes_in hwf hk

end

/-! ## MCFILL (R285, R286) -/

/-- The bytes of half a line, and whether one of them is poison. -/
def halfLine (l : List (Byte × Bool)) : List Byte × Bool := (l.map (·.1), l.any (·.2))

theorem halves_append (l : List (Byte × Bool)) : (halfLine (l.take 64)).1 ++ (halfLine (l.drop 64)).1 = l.map (·.1) := by
  rw [halfLine, halfLine, ← List.map_append, List.take_append_drop]

/-- What the fill leaves once its line is read. -/
theorem mcDeliver_local {s s2 : State} {xs : List (Xlat × Nat)} {l : List (Byte × Bool)} (hlocal : isRemote xs = false)
    (hread : s.readMarked s.ctx.part xs = (l, s2)) (va : BitVec 64) (off : Nat) (get : List GroveNum) :
    s.mcDeliver va off get xs =
      (let t := deliverCores s2 off (halfLine (l.take 64)) (halfLine (l.drop 64)) (get.flatMap coresOf)
      if get.isEmpty then t else t.irrevocable) := by
  rw [State.mcDeliver, refuses_local s hlocal]
  dsimp only
  rw [if_neg Bool.false_ne_true, if_neg Bool.false_ne_true, hread]
  dsimp only
  rw [← deliver_groves]
  rfl

theorem spad_mcDeliver {s s2 : State} {xs : List (Xlat × Nat)} {l : List (Byte × Bool)} (hlocal : isRemote xs = false)
    (hread : s.readMarked s.ctx.part xs = (l, s2)) (va : BitVec 64) (off : Nat) (get : List GroveNum) (c : CoreNum) :
    ((s.mcDeliver va off get xs).core c).spad =
      ((deliverCores s2 off (halfLine (l.take 64)) (halfLine (l.drop 64)) (get.flatMap coresOf)).core c).spad := by
  rw [mcDeliver_local hlocal hread]
  dsimp only
  split
  · rfl
  · exact (spad_onCtx ..).1

section
variable {s : State} {b d i : Reg} {ac : BitVec 3} (hin : s.ctx.inHandler = false) (hb : (s.thr.readB b).tag = 0)
  (hd : (s.thr.readB d).tag = 0) (hi : (s.thr.readB i).tag = 0) (hline : (s.thr.readB b).val.toNat % 128 = 0)
  (halign : (s.thr.readB d).val.toNat % 2 ^ 32 % 128 = 0) (hrange : (s.thr.readB d).val.toNat % 2 ^ 32 + 128 ≤ 0x180000)
include hin hb hd hi hline halign hrange

theorem exec_mcfill : exec (.mcfill d b i ac) s = (s.multicast (s.thr.readB b).val ((s.thr.readB d).val.toNat % 2 ^ 32)
    ((s.thr.readB i).val.setWidth 16) ac).out := by
  have hclean : ∀ x ∈ [(b, s.thr.readB b), (d, s.thr.readB d), (i, s.thr.readB i)], x.2.tag = 0 := by simp [hb, hd, hi]
  show execMcfill d b i ac s = _
  rw [execMcfill, State.taskOnly_task hin, State.needsClean_go hclean, low32_toNat, if_neg (not_not.2 hline), if_neg (not_not.2 halign),
    if_neg (not_lt.2 hrange)]

/-- An empty mask fills nothing (log 54). -/
theorem mcfill_empty (hmask : (s.thr.readB i).val.setWidth 16 = 0#16) : exec (.mcfill d b i ac) s =
    .next (s.onCtx fun c => { c with csr := { c.csr with mcLast := 0 } }).slotDone := by
  have hgroves : s.mcGroves 0#16 = ([], 0#16) := rfl
  have hnote (r : Csrs) : r.noteMc 0#16 = { r with mcLast := 0 } := by simp [Csrs.noteMc]
  rw [exec_mcfill hin hb hd hi hline halign hrange, State.multicast, hmask, hgroves]
  dsimp only
  rw [if_pos (show (0#16 : BitVec 16) = 0 from rfl)]
  simp only [hnote]
  rfl

theorem mcfill_fills {xs : List (Xlat × Nat)} {s1 : State} (hmask : (s.thr.readB i).val.setWidth 16 ≠ 0#16)
    (hx : s.xlateSpan s.ctx.agent .read (s.thr.readB b).val 128 = (.ok xs, s1)) (hlocal : isRemote xs = false)
    (hshed : s1.shedPieces xs = false) (hfree : Free s ac) : exec (.mcfill d b i ac) s =
      .next ((s1.mcDeliver (s.thr.readB b).val ((s.thr.readB d).val.toNat % 2 ^ 32) (s.mcGroves ((s.thr.readB i).val.setWidth 16)).1
        xs).onCtx fun c => { c with csr := c.csr.noteMc (s.mcGroves ((s.thr.readB i).val.setWidth 16)).2 }).slotDone := by
  have hgo : (s1.shedPieces xs || s1.stuck (readsOf xs)) = false := by rw [hshed, readsOf_local hlocal]; rfl
  rw [exec_mcfill hin hb hd hi hline halign hrange, State.multicast]
  dsimp only
  rw [if_neg (show ¬(s.thr.readB i).val.setWidth 16 = (0 : BitVec 16) from hmask), hx]
  dsimp only
  rw [hgo, if_neg Bool.false_ne_true, homeOf_local hlocal, inOrder_free hfree]
  rfl

end

theorem getLsbD_setWidth_grove (x : BitVec 64) (g : GroveNum) : (x.setWidth 16).getLsbD g.toNat = x.getLsbD g.toNat := by
  have hg : g.toNat < 16 := g.isLt
  simp [hg]

/-- Settles O20: a line form's one effect is the line's write-back, and MCFILL writes the line's bytes at each core of the groves that
receive. -/
theorem lineForms : Obligations.LineForms := by
  intro s b d i ac hb
  refine ⟨fun xs s1 hx => ⟨lineForm_none hb hx (.inl rfl), fun hdirty => ?_, fun x hxs hlocal hpol hpool hline hfree => ?_⟩,
    fun hin hd hi hline halign hrange => ⟨mcfill_empty hin hb hd hi hline halign hrange,
      fun xs s1 l s2 hmask hx hlocal hshed hfree hread hlen hcanon => ?_⟩⟩
  · exact ⟨lineForm_none hb hx (.inr hdirty), lineForm_none hb hx (.inr hdirty)⟩
  · have hform := lineForm_dirty hb hx hxs hlocal hpol hpool hline hfree
    refine ⟨_, hform, hform, rfl, ?_⟩
    rw [State.ctx_onCtx]
    exact List.map_append
  · have hspad := spad_mcDeliver hlocal hread (s.thr.readB b).val ((s.thr.readB d).val.toNat % 2 ^ 32)
      (s.mcGroves ((s.thr.readB i).val.setWidth 16)).1
    have hmem (c : CoreNum) : c ∈ (s.mcGroves ((s.thr.readB i).val.setWidth 16)).1.flatMap coresOf ↔
        (s.thr.readB i).val.getLsbD (groveOf c).toNat = true ∧ s.multicastTo (groveOf c) = true := by
      simp only [List.mem_flatMap, mem_coresOf, mem_mcGroves, getLsbD_setWidth_grove, exists_eq_right']
    refine ⟨_, mcfill_fills hin hb hd hi hline halign hrange hmask hx hlocal hshed hfree, fun c k hk hbit hto => ?_, fun c hnot => ?_,
      fun g => ?_⟩
    · have hlen0 : (halfLine (l.take 64)).1.length = 64 := by simp [halfLine, hlen]
      have hbytes := spadByte_deliverCores_in (off := (s.thr.readB d).val.toNat % 2 ^ 32) (b1 := halfLine (l.drop 64))
        ((hmem c).2 ⟨hbit, hto⟩) hlen0 (hcanon.spad c) (k := k) (by rw [halves_append]; simp [hlen, hk])
      rw [spadByte, (spad_onCtx ..).1, hspad]
      refine hbytes.trans ?_
      simp only [halves_append, List.getElem_map]
      simp [List.getD_eq_getElem?_getD, hlen, hk]
    · have hout : c ∉ (s.mcGroves ((s.thr.readB i).val.setWidth 16)).1.flatMap coresOf := by
        rw [hmem]
        rintro ⟨hbit, hto⟩
        simp [hbit, hto] at hnot
      rw [(spad_onCtx ..).1, hspad, spad_deliverCores_out hout]
    · rw [State.ctx_onCtx]
      exact (mcGroves_left ..).trans (by rw [getLsbD_setWidth_grove])

end Sys2Proof.Claims
end

section
/-!
PROOF. The atomics (R225, R229, R266 to R268): their arithmetic on 4 and 8 bytes, and what they leave in a scratchpad or in memory.
-/

namespace Sys2Proof.Claims
open Sys2Proof.Machine

/-! ## Arithmetic (R266) -/

theorem atomBytes_eq (z : BitVec 1) : atomBytes z = atomSize z := rfl

theorem atomSize_mem (z : BitVec 1) : atomSize z = 4 ∨ atomSize z = 8 := by unfold atomSize; split <;> simp

/-- The word of `n` bytes that a 64-bit register's low bits hold, as a signed number. -/
def lowInt (n : Nat) (v : BitVec 64) : Int := if n = 4 then (v.setWidth 32).toInt else v.toInt

theorem lowInt_eq {n : Nat} (hn : n = 4 ∨ n = 8) (v : BitVec 64) :
    lowInt n v = if 2 * (v.toNat % 256 ^ n) < 2 ^ (8 * n) then ((v.toNat % 256 ^ n : Nat) : Int) else (v.toNat % 256 ^ n : Nat) - 2 ^ (8 * n) := by
  obtain rfl | rfl := hn
  · rw [lowInt, if_pos rfl, BitVec.toInt_eq_toNat_cond, BitVec.toNat_setWidth]
    rfl
  · have hlt : v.toNat % 256 ^ 8 = v.toNat := Nat.mod_eq_of_lt v.isLt
    rw [lowInt, if_neg (by decide), BitVec.toInt_eq_toNat_cond, hlt]
    rfl

theorem lowWord_eq_iff {n : Nat} (hn : n = 4 ∨ n = 8) (x y : BitVec 64) :
    (if n = 4 then x.setWidth 32 = y.setWidth 32 else x = y) ↔ x.toNat % 256 ^ n = y.toNat % 256 ^ n := by
  obtain rfl | rfl := hn
  · rw [if_pos rfl, ← BitVec.toNat_inj, BitVec.toNat_setWidth, BitVec.toNat_setWidth]
    rfl
  · rw [if_neg (by decide), ← BitVec.toNat_inj, Nat.mod_eq_of_lt (show x.toNat < 256 ^ 8 from x.isLt),
      Nat.mod_eq_of_lt (show y.toNat < 256 ^ 8 from y.isLt)]

/-- An atomic on 64-bit numbers is the atomic on their `n` low bytes, as far as these go. -/
theorem atomApply_low (op : AtomOp) {n : Nat} (hn : n = 4 ∨ n = 8) (old x cmp : BitVec 64) :
    (atomApply op n old x cmp).map (·.toNat % 256 ^ n) =
      atomNew op (8 * n) (old.toNat % 256 ^ n) (x.toNat % 256 ^ n) (cmp.toNat % 256 ^ n) := by
  have hpow : 256 ^ n = 2 ^ (8 * n) := by rw [Nat.pow_mul]
  cases op with
  | add =>
    have hdvd : 2 ^ (8 * n) ∣ 2 ^ 64 := by obtain rfl | rfl := hn <;> decide
    simp only [atomApply, atomNew, Option.map_some, BitVec.toNat_add, hpow, Nat.mod_mod_of_dvd _ hdvd, ← Nat.add_mod]
  | swap => rfl
  | cas =>
    simp only [atomApply, atomNew, lowWord_eq_iff hn]
    split <;> rfl
  | and =>
    simp only [atomApply, atomNew, Option.map_some, BitVec.toNat_and, hpow]
    exact congrArg some (Nat.and_mod_two_pow ..)
  | or =>
    simp only [atomApply, atomNew, Option.map_some, BitVec.toNat_or, hpow]
    exact congrArg some (Nat.or_mod_two_pow ..)
  | xor =>
    simp only [atomApply, atomNew, Option.map_some, BitVec.toNat_xor, hpow]
    exact congrArg some (Nat.xor_mod_two_pow ..)
  | smin =>
    simp only [atomNew, ← lowInt_eq hn]
    exact congrArg some (apply_ite (fun v : BitVec 64 => v.toNat % 256 ^ n) (lowInt n x < lowInt n old) x old)
  | smax =>
    simp only [atomNew, ← lowInt_eq hn]
    exact congrArg some (apply_ite (fun v : BitVec 64 => v.toNat % 256 ^ n) (lowInt n old < lowInt n x) x old)

/-- Only CAS looks at a compare value. -/
theorem atomApply_cmp {op : AtomOp} (h : op ≠ .cas) (n : Nat) (old x c c' : BitVec 64) : atomApply op n old x c = atomApply op n old x c' := by
  cases op with
  | cas => exact absurd rfl h
  | _ => rfl

/-! ## What an atomic's request leaves (R229, R268) -/

/-- The state with the acknowledgement that a .g write of an atomic awaits. -/
def withAck (t : State) (ack : Bool) (addr : BitVec 56) (way : Way) : State :=
  if ack then t.onCtx fun c => { c with acks := c.acks ++ [⟨c.nextId, addr, way⟩] } else t

theorem atomAwait_out (t : State) (r : AtomArgs) (val : PVal) (addr : BitVec 56) (way : Way) (writes : Bool) :
    (t.atomAwait r val addr way writes).out =
      .next ((withAck t (writes && r.g) addr way).await (boardB r.d) val addr true false way).slotDone := by
  rw [State.atomAwait, pdestB_eq]
  rfl

section
variable (t : State) (ack : Bool) (addr : BitVec 56) (way : Way)

theorem awaits_withAck : Awaits t.ctx (withAck t ack addr way).ctx (if ack then [addr] else []) := by
  cases ack with
  | false => simp [withAck, Awaits]
  | true => rw [withAck, if_pos rfl, State.ctx_onCtx]; exact List.map_append

theorem thr_withAck : (withAck t ack addr way).thr = t.thr := by
  cases ack with
  | false => rfl
  | true => exact thr_onCtx (f := fun c => { c with acks := c.acks ++ [⟨c.nextId, addr, way⟩] }) t fun _ => rfl

theorem spad_withAck (e : CoreNum) : ((withAck t ack addr way).core e).spad = (t.core e).spad := by
  cases ack with
  | false => rfl
  | true => exact (spad_onCtx t (fun c => { c with acks := c.acks ++ [⟨c.nextId, addr, way⟩] }) e).1

theorem mem_withAck : (withAck t ack addr way).mem = t.mem := by cases ack <;> rfl

theorem parts_withAck : (withAck t ack addr way).parts = t.parts := by cases ack <;> rfl

theorem sameRest_withAck : SameRest t (withAck t ack addr way) := by
  cases ack with
  | false => exact .refl t
  | true => exact .onCtx t fun c => { c with acks := c.acks ++ [⟨c.nextId, addr, way⟩] }

end

/-! ## Operands (R268) -/

/-- The operands of an atomic whose registers hold clean values. -/
structure CleanArgs (s : State) (r : AtomArgs) : Prop where
  data : (s.thr.readB r.d).tag = 0
  base : (s.thr.readB r.b).tag = 0
  index : ∀ i, r.i = some i → (s.thr.readB i).tag = 0

section
variable {s : State} {r : AtomArgs} (h : CleanArgs s r)
include h

theorem atomSources_go (k : SlotOut) : s.needs (s.atomSources r) k = k := by
  refine State.needs_go fun x hx => clean_ne_deferred ?_
  cases hi : r.i with
  | none =>
    rw [atomSources_pair hi] at hx
    obtain rfl | hx := List.mem_cons.1 hx
    · exact h.base
    · rw [List.mem_singleton.1 hx]
      exact h.data
  | some i =>
    rw [State.atomSources, hi] at hx
    obtain rfl | hx := List.mem_cons.1 hx
    · exact h.base
    obtain rfl | hx := List.mem_cons.1 hx
    · exact h.data
    · rw [List.mem_singleton.1 hx]
      exact h.index i hi

theorem atomPoison_clean : s.atomPoison r = false := by
  rw [State.atomPoison, poison_of_clean h.data, Bool.false_or]
  cases hi : r.i with
  | none => rfl
  | some i => exact poison_of_clean (h.index i hi)

end

/-- The new word of an atomic on old bytes. -/
def newWord (s : State) (r : AtomArgs) (l : List Byte) : Option (BitVec 64) := s.atomNew r (BitVec.ofNat 64 (leNat l))

/-- What is written are the new contents that the statements name. -/
theorem newWord_eq {s : State} {r : AtomArgs} {i : Reg} {l : List Byte} (hn : r.n = 4 ∨ r.n = 8) (hl : l.length = r.n)
    (hi : r.i = some i ∨ r.op ≠ .cas) : (newWord s r l).map (·.toNat % 256 ^ r.n) =
      atomNew r.op (8 * r.n) (leNat l) ((s.thr.readB r.d).val.toNat % 256 ^ r.n) ((s.thr.readB i).val.toNat % 256 ^ r.n) := by
  have hlt : leNat l < 256 ^ r.n := hl ▸ leNat_lt
  have hlow : (BitVec.ofNat 64 (leNat l)).toNat % 256 ^ r.n = leNat l := by
    have h64 : 256 ^ r.n ≤ 2 ^ 64 := by obtain h | h := hn <;> rw [h] <;> decide
    rw [BitVec.toNat_ofNat, Nat.mod_eq_of_lt (a := leNat l) (b := 2 ^ 64) (by omega), Nat.mod_eq_of_lt hlt]
  have hcmp : newWord s r l = atomApply r.op r.n (BitVec.ofNat 64 (leNat l)) (s.thr.readB r.d).val (s.thr.readB i).val := by
    obtain hi | hop := hi
    · rw [newWord, State.atomNew, State.atomCmp, hi]
    · exact atomApply_cmp hop ..
  rw [hcmp, atomApply_low r.op hn, hlow]

/-! ## Atomics of the core's own scratchpad (R266, R267) -/

/-- A range that is ready for a write has its granules filled, and nothing else has happened. -/
theorem readyWrite_ok {s t : State} {a n : Nat} (h : s.readyWrite a n = (.ok (), t)) : s.touch a n = (.ok (), t) := by
  unfold State.readyWrite at h
  split at h
  · cases h
  next u hu =>
    split at h
    · cases h
    · cases h
      exact hu

theorem cur_of_touch {s t : State} {a n : Nat} (h : s.touch a n = (.ok (), t)) : t.cur = s.cur := by
  have hk := (KeepsButMaps.touch s a n).1
  rwa [h] at hk

theorem acks_markDirty (c : Ctx) (a n : Nat) : (c.markDirty a n).acks = c.acks :=
  foldl_keeps (P := fun d : Ctx => d.acks = c.acks) _ rfl fun d b h => by
    split
    · exact h
    · exact h

theorem thr_markDirty (c : Ctx) (a n : Nat) : (c.markDirty a n).thr = c.thr :=
  foldl_keeps (P := fun d : Ctx => d.thr = c.thr) _ rfl fun d b h => by
    split
    · exact h
    · exact h

section
variable {s s1 : State} {r : AtomArgs} (h : CleanArgs s r) (halign : (s.thr.readB r.b).val.toNat % 2 ^ 32 % r.n = 0)
  (hrange : (s.thr.readB r.b).val.toNat % 2 ^ 32 + r.n ≤ s.ctx.kern.spad) (hfree : Free s r.cls)
  (htouch : s.touch ((s.thr.readB r.b).val.toNat % 2 ^ 32) r.n = (.ok (), s1)) (herr : (s1.core s1.cur).spadErr = [])
  (hclean : (s1.core s1.cur).spadBad ((s.thr.readB r.b).val.toNat % 2 ^ 32) r.n = false)
include h halign hrange hfree htouch herr hclean

theorem atomLocal_keeps (hnew : newWord s r (readBytes (s1.core s1.cur).spad ((s.thr.readB r.b).val.toNat % 2 ^ 32) r.n) = none) :
    (s.atomLocal r).out = .next (s1.await (boardB r.d) (.scalar (loadVal true false
      (readBytes (s1.core s1.cur).spad ((s.thr.readB r.b).val.toNat % 2 ^ 32) r.n))) 0 true false .none).slotDone := by
  rw [newWord] at hnew
  rw [State.atomLocal, atomSources_go h, poison_of_clean h.base, if_neg Bool.false_ne_true, low32_toNat, checkLocal_go halign hrange,
    atomPoison_clean h, if_neg Bool.false_ne_true, inOrder_free hfree, localRead_quiet htouch herr, hclean]
  dsimp only
  rw [if_neg Bool.false_ne_true, hnew]
  exact atomAwait_out ..

theorem atomLocal_writes {s2 : State} {w : BitVec 64}
    (hready : s1.readyWrite ((s.thr.readB r.b).val.toNat % 2 ^ 32) r.n = (.ok (), s2))
    (hnew : newWord s r (readBytes (s1.core s1.cur).spad ((s.thr.readB r.b).val.toNat % 2 ^ 32) r.n) = some w) :
    (s.atomLocal r).out = .next ((s2.ownWrite ((s.thr.readB r.b).val.toNat % 2 ^ 32) (leBytes r.n w.toNat)).await (boardB r.d)
      (.scalar (loadVal true false (readBytes (s1.core s1.cur).spad ((s.thr.readB r.b).val.toNat % 2 ^ 32) r.n))) 0 true false
      .none).slotDone := by
  rw [newWord] at hnew
  rw [State.atomLocal, atomSources_go h, poison_of_clean h.base, if_neg Bool.false_ne_true, low32_toNat, checkLocal_go halign hrange,
    atomPoison_clean h, if_neg Bool.false_ne_true, inOrder_free hfree, localRead_quiet htouch herr, hclean]
  dsimp only
  rw [if_neg Bool.false_ne_true, hnew]
  dsimp only
  rw [hready]
  exact atomAwait_out ..

end

theorem within_block_word {n a : Nat} (hn : n = 4 ∨ n = 8) (h : a % n = 0) : a % 64 + n ≤ 64 := by
  obtain rfl | rfl := hn <;> omega

/-- A new word stands where its low bytes are written. -/
theorem spadWritten_word {s u : State} {c : CoreNum} {a n : Nat} {v : BitVec 64} {p : Bool}
    (h : SpadWritten s u c a (leBytes n v.toNat) p) : SpadWritten s u c a (leBytes n (v.toNat % 256 ^ n)) p := by
  rwa [leBytes_mod]

/-- A form is an atomic of a kind: its index register counts where it is CAS. -/
structure AtomForm (mk : Reg → Reg → Reg → BitVec 1 → BitVec 3 → BitVec 1 → Instr) (op : AtomOp) (run : State → AtomArgs → SlotOut)
    (ix : Reg → Option Reg) : Prop where
  exec : ∀ s d b i g ac z, exec (mk d b i g ac z) s = (run s ⟨op, d, b, ix i, g = 1, ac, atomSize z⟩).out
  index : ∀ i, ix i = some i ∨ ix i = none ∧ op ≠ .cas

namespace AtomForm
variable {mk : Reg → Reg → Reg → BitVec 1 → BitVec 3 → BitVec 1 → Instr} {op : AtomOp} {run : State → AtomArgs → SlotOut}
  {ix : Reg → Option Reg} (h : AtomForm mk op run ix)
include h

theorem clean {s : State} {d b i : Reg} {g : Bool} {ac : BitVec 3} {n : Nat} (hd : (s.thr.readB d).tag = 0)
    (hb : (s.thr.readB b).tag = 0) (hi : (s.thr.readB i).tag = 0) : CleanArgs s ⟨op, d, b, ix i, g, ac, n⟩ where
  data := hd
  base := hb
  index j hj := by
    obtain heq | ⟨hnone, -⟩ := h.index i
    · obtain rfl := Option.some.inj (heq.symm.trans hj)
      exact hi
    · cases hnone.symm.trans hj

theorem index_or (i : Reg) : ix i = some i ∨ op ≠ .cas := (h.index i).imp_right And.right

omit h in
/-- A form without an index register. -/
theorem plain (hexec : ∀ s d b i g ac z, Machine.exec (mk d b i g ac z) s = (run s ⟨op, d, b, none, g = 1, ac, atomSize z⟩).out)
    (hop : op ≠ .cas) : AtomForm mk op run fun _ => none where
  exec := hexec
  index _ := .inr ⟨rfl, hop⟩

omit h in
/-- CAS, whose index register holds the compare value. -/
theorem cas (hexec : ∀ s d b i g ac z, Machine.exec (mk d b i g ac z) s = (run s ⟨op, d, b, some i, g = 1, ac, atomSize z⟩).out) :
    AtomForm mk op run some where
  exec := hexec
  index _ := .inl rfl

end AtomForm

theorem scratchAtomic_local {mk : Reg → Reg → Reg → BitVec 1 → BitVec 3 → BitVec 1 → Instr} {op : AtomOp} {ix : Reg → Option Reg}
    (hform : AtomForm mk op State.atomLocal ix) : ScratchAtomic mk op false := by
  intro s d b i g ac z hd hb hi n c a s1 s2 hplace hfree hcanon1 hcanon2 herr hbad new t
  obtain ⟨rfl, rfl, halign, hrange, htouch, hready⟩ : c = s.cur ∧ a = (s.thr.readB b).val.toNat % 2 ^ 32 ∧ a % n = 0 ∧
      a + n ≤ s.ctx.kern.spad ∧ s.touch a n = (.ok (), s1) ∧ s1.readyWrite a n = (.ok (), s2) := by simpa using hplace
  have hcur1 : s1.cur = s.cur := cur_of_touch htouch
  have hcur2 : s2.cur = s.cur := (cur_of_touch (readyWrite_ok hready)).trans hcur1
  have hn : n = 4 ∨ n = 8 := atomSize_mem z
  have hclean : CleanArgs s ⟨op, d, b, ix i, g = 1, ac, n⟩ := hform.clean hd hb hi
  have hold : leNat (readBytes (s1.core s1.cur).spad ((s.thr.readB b).val.toNat % 2 ^ 32) n) =
      spelled n fun j => spadByte s1 s.cur ((s.thr.readB b).val.toNat % 2 ^ 32 + j) := by
    rw [readBytes, leNat_map_range, hcur1]
    rfl
  have hnew : (newWord s ⟨op, d, b, ix i, g = 1, ac, n⟩
      (readBytes (s1.core s1.cur).spad ((s.thr.readB b).val.toNat % 2 ^ 32) n)).map (·.toNat % 256 ^ n) = new :=
    (newWord_eq (i := i) hn (by rw [readBytes, List.length_map, List.length_range]) (hform.index_or i)).trans
      (congrArg (atomNew op (8 * n) · _ _) hold)
  have hloaded : Loaded true false n (fun j => spadByte s1 s.cur ((s.thr.readB b).val.toNat % 2 ^ 32 + j))
      (loadVal true false (readBytes (s1.core s1.cur).spad ((s.thr.readB b).val.toNat % 2 ^ 32) n)) := by
    rw [hcur1]
    exact loaded_readBytes true false (s1.core s.cur).spad _ (by omega)
  rw [← hcur1] at herr hbad
  cases hw : newWord s ⟨op, d, b, ix i, g = 1, ac, n⟩ (readBytes (s1.core s1.cur).spad ((s.thr.readB b).val.toNat % 2 ^ 32) n) with
  | none =>
    have hnone : new = none := by rw [← hnew, hw]; rfl
    have ht : t = s1 := by show (if new.isSome then s2 else s1) = _; rw [hnone]; rfl
    refine ⟨s1, _, _, _, (hform.exec ..).trans (atomLocal_keeps hclean halign hrange hfree htouch herr hbad hw), hloaded, ?_⟩
    rw [hnone, ht]
    exact ⟨fun _ => rfl, fun _ _ => rfl, rfl, rfl, by simp [Awaits], rfl, .refl s1⟩
  | some w =>
    have hsome : new = some (w.toNat % 256 ^ n) := by rw [← hnew, hw]; rfl
    have ht : t = s2 := by show (if new.isSome then s2 else s1) = _; rw [hsome]; rfl
    have hlen : (leBytes n w.toNat).length = n := leBytes_length
    have hput := spadWritten_ownWrite s2 (a := (s.thr.readB b).val.toNat % 2 ^ 32) (l := leBytes n w.toNat) false
      (List.ne_nil_of_length_pos (by omega)) (by rw [hlen]; exact within_block_word hn halign) (by omega)
    rw [hcur2] at hput
    refine ⟨_, _, _, _, (hform.exec ..).trans (atomLocal_writes hclean halign hrange hfree htouch herr hbad hready hw), hloaded, ?_⟩
    rw [hsome, ht]
    refine ⟨(spadWritten_word hput).byte (hcanon2.spad _), hput.other, hput.mem, hput.parts, ?_, ?_, hput.rest⟩
    · simp [Awaits, ctx_ownWrite, acks_markDirty]
    · rw [State.thr, ctx_ownWrite, thr_markDirty]
      rfl

/-! ## Atomics of another core's scratchpad (R204, R267) -/

/-- The state after an atomic has written its word to a core's scratchpad. -/
def remoteWord (s : State) (c : CoreNum) (a n : Nat) (w : BitVec 64) : State :=
  let t := s.writeSpad c a (leBytes n w.toNat)
  if c = s.cur then t else t.irrevocable

section
variable {s : State} {c : CoreNum} {a n : Nat} (herr : (s.core c).spadErr = []) (hclean : (s.core c).spadBad a n = false)
  {f : BitVec 64 → Option (BitVec 64)}
include herr hclean

theorem atomSpad_keeps (hf : f (BitVec.ofNat 64 (leNat (readBytes (s.core c).spad a n))) = none) :
    s.atomSpad c a n f = (readBytes (s.core c).spad a n, false, s) := by
  rw [State.atomSpad, readSpad_quiet herr, hclean]
  dsimp only
  rw [if_neg Bool.false_ne_true, hf]

theorem atomSpad_writes {w : BitVec 64} (hf : f (BitVec.ofNat 64 (leNat (readBytes (s.core c).spad a n))) = some w) :
    s.atomSpad c a n f = (readBytes (s.core c).spad a n, false, remoteWord s c a n w) := by
  rw [State.atomSpad, readSpad_quiet herr, hclean]
  dsimp only
  rw [if_neg Bool.false_ne_true, hf]
  rfl

end

section
variable (s : State) (c : CoreNum) {a n : Nat} (w : BitVec 64)

theorem spadWritten_remoteWord (hn : n = 4 ∨ n = 8) (halign : a % n = 0) :
    SpadWritten s (remoteWord s c a n w) c a (leBytes n w.toNat) false := by
  have hlen : (leBytes n w.toNat).length = n := leBytes_length
  have hput := spadWritten_writeSpad s c (a := a) (l := leBytes n w.toNat) false (List.ne_nil_of_length_pos (by omega))
    (by rw [hlen]; exact within_block_word hn halign) (by omega)
  unfold remoteWord
  dsimp only
  split
  · exact hput
  · exact hput.onCtx _

theorem acks_remoteWord : (remoteWord s c a n w).ctx.acks = s.ctx.acks := by
  unfold remoteWord
  dsimp only
  split
  · rw [State.ctx_writeSpad]
  · rw [ctx_irrevocable, State.ctx_writeSpad]

theorem thr_remoteWord : (remoteWord s c a n w).thr = s.thr := by
  have hput : (s.writeSpad c a (leBytes n w.toNat)).thr = s.thr := congrArg Ctx.thr (s.ctx_writeSpad ..)
  unfold remoteWord
  dsimp only
  split
  · exact hput
  · exact (thr_irrevocable _).trans hput

end

/-- An acknowledgement changes nothing of what a word's write leaves. -/
theorem SpadWritten.withAck {s u : State} {c : CoreNum} {a : Nat} {l : List Byte} {p : Bool} (h : SpadWritten s u c a l p) (ack : Bool)
    (addr : BitVec 56) (way : Way) : SpadWritten s (withAck u ack addr way) c a l p := by
  cases ack with
  | false => exact h
  | true => exact h.onCtx fun c => { c with acks := c.acks ++ [⟨c.nextId, addr, way⟩] }

section
variable {s : State} {r : AtomArgs} {c : CoreNum} {a : Nat} (h : CleanArgs s r) (halign : (s.thr.readB r.b).val.toNat % r.n = 0)
  (hremote : s.remoteOf (s.thr.readB r.b).val = some (c, a)) (hfree : Free s r.cls) (hshed : s.shedCore c = false)
include h halign hremote hfree hshed

/-- An atomic of a core that is there is performed at its issue (log 9). -/
theorem atomRemote_performs {l : List Byte} {t : State} (hatom : s.atomSpad c a r.n (s.atomNew r) = (l, false, t)) :
    (s.atomRemote r).out = .next ((withAck t ((newWord s r l).isSome && r.g) ((s.thr.readB r.b).val.setWidth 56) (coreWay c r.cls)).await
      (boardB r.d) (.scalar (loadVal true false l)) ((s.thr.readB r.b).val.setWidth 56) true false (coreWay c r.cls)).slotDone := by
  rw [State.atomRemote, atomSources_go h, poison_of_clean h.base, if_neg Bool.false_ne_true, if_neg (not_not.2 halign), hremote]
  dsimp only
  rw [atomPoison_clean h, if_neg Bool.false_ne_true, inOrder_free hfree, hshed, if_neg Bool.false_ne_true, hatom]
  exact atomAwait_out ..

end

theorem word_aligned {n v : Nat} (hn : n = 4 ∨ n = 8) (h : v % n = 0) : v % 2 ^ 21 % n = 0 := by
  obtain rfl | rfl := hn <;> omega

theorem scratchAtomic_remote {mk : Reg → Reg → Reg → BitVec 1 → BitVec 3 → BitVec 1 → Instr} {op : AtomOp} {ix : Reg → Option Reg}
    (hform : AtomForm mk op State.atomRemote ix) : ScratchAtomic mk op true := by
  intro s d b i g ac z hd hb hi n c a s1 s2 hplace hfree hcanon1 hcanon2 herr hbad new t
  obtain ⟨halign, hremote, hshed, rfl, rfl⟩ : (s.thr.readB b).val.toNat % n = 0 ∧ s.remoteOf (s.thr.readB b).val = some (c, a) ∧
      s.shedCore c = false ∧ s1 = s ∧ s2 = s := by simpa using hplace
  have hn : n = 4 ∨ n = 8 := atomSize_mem z
  have hclean : CleanArgs s2 ⟨op, d, b, ix i, g = 1, ac, n⟩ := hform.clean hd hb hi
  have hnew : (newWord s2 ⟨op, d, b, ix i, g = 1, ac, n⟩ (readBytes (s2.core c).spad a n)).map (·.toNat % 256 ^ n) = new :=
    (newWord_eq (i := i) hn (by rw [readBytes, List.length_map, List.length_range]) (hform.index_or i)).trans
      (congrArg (atomNew op (8 * n) · _ _) (leNat_map_range ..))
  have hloaded := loaded_readBytes true false (s2.core c).spad a (show n = 1 ∨ n = 2 ∨ n = 4 ∨ n = 8 by omega)
  have haligned : a % n = 0 := by rw [remoteOf_offset hremote]; exact word_aligned hn halign
  have ht : t = s2 := ite_self ..
  rw [ht]
  cases hw : newWord s2 ⟨op, d, b, ix i, g = 1, ac, n⟩ (readBytes (s2.core c).spad a n) with
  | none =>
    have hnone : new = none := by rw [← hnew, hw]; rfl
    have hexec := atomRemote_performs hclean halign hremote hfree hshed (atomSpad_keeps herr hbad hw)
    rw [hw] at hexec
    refine ⟨s2, _, _, _, (hform.exec ..).trans hexec, hloaded, ?_⟩
    rw [hnone]
    exact ⟨fun _ => rfl, fun _ _ => rfl, rfl, rfl, by simp [Awaits], rfl, .refl s2⟩
  | some w =>
    have hsome : new = some (w.toNat % 256 ^ n) := by rw [← hnew, hw]; rfl
    have hexec := atomRemote_performs hclean halign hremote hfree hshed (atomSpad_writes herr hbad hw)
    rw [hw] at hexec
    have hput := (spadWritten_remoteWord s2 c w hn haligned).withAck
      (true && decide (g = 1)) ((s2.thr.readB b).val.setWidth 56) (coreWay c ac)
    refine ⟨_, _, _, _, (hform.exec ..).trans hexec, hloaded, ?_⟩
    rw [hsome]
    refine ⟨(spadWritten_word hput).byte (hcanon2.spad _), hput.other, hput.mem, hput.parts, ?_, ?_, hput.rest⟩
    · have hacks := awaits_withAck (remoteWord s2 c a n w) (true && decide (g = 1)) ((s2.thr.readB b).val.setWidth 56) (coreWay c ac)
      rw [Awaits, acks_remoteWord] at hacks
      simpa [Awaits] using hacks
    · exact (thr_withAck ..).trans (thr_remoteWord ..)

theorem scratchpadAtomics : ScratchpadAtomics := by
  refine ⟨?_, ?_, ?_, ?_, ?_, ?_, ?_, ?_, ?_, ?_, ?_, ?_, ?_, ?_, ?_, ?_⟩
  · exact scratchAtomic_local (.plain (fun _ _ _ _ _ _ _ => rfl) (by decide))
  · exact scratchAtomic_local (.plain (fun _ _ _ _ _ _ _ => rfl) (by decide))
  · exact scratchAtomic_local (.cas fun _ _ _ _ _ _ _ => rfl)
  · exact scratchAtomic_local (.plain (fun _ _ _ _ _ _ _ => rfl) (by decide))
  · exact scratchAtomic_local (.plain (fun _ _ _ _ _ _ _ => rfl) (by decide))
  · exact scratchAtomic_local (.plain (fun _ _ _ _ _ _ _ => rfl) (by decide))
  · exact scratchAtomic_local (.plain (fun _ _ _ _ _ _ _ => rfl) (by decide))
  · exact scratchAtomic_local (.plain (fun _ _ _ _ _ _ _ => rfl) (by decide))
  · exact scratchAtomic_remote (.plain (fun _ _ _ _ _ _ _ => rfl) (by decide))
  · exact scratchAtomic_remote (.plain (fun _ _ _ _ _ _ _ => rfl) (by decide))
  · exact scratchAtomic_remote (.cas fun _ _ _ _ _ _ _ => rfl)
  · exact scratchAtomic_remote (.plain (fun _ _ _ _ _ _ _ => rfl) (by decide))
  · exact scratchAtomic_remote (.plain (fun _ _ _ _ _ _ _ => rfl) (by decide))
  · exact scratchAtomic_remote (.plain (fun _ _ _ _ _ _ _ => rfl) (by decide))
  · exact scratchAtomic_remote (.plain (fun _ _ _ _ _ _ _ => rfl) (by decide))
  · exact scratchAtomic_remote (.plain (fun _ _ _ _ _ _ _ => rfl) (by decide))

/-! ## Atomics of this module's memory (R225, R267) -/

theorem readPhys_length (s : State) (part : Option PartNum) (pa n : Nat) (cached : Bool) : (s.readPhys part pa n cached).1.length = n := by
  rw [State.readPhys]
  simp [State.peek]

/-- A read at its home changes nothing but memory and its reports. -/
theorem home_read_frame {s s2 : State} {x : Xlat} {part : PartNum} {n : Nat} {l : List Byte} {poison : Bool}
    (hread : (homeState s x).readPhys (some part) x.pa n (x.pol = 0) = (l, poison, s2)) : Untouched s s2 ∧ s2.launches = s.launches := by
  have hr := Untouched.readPhys (homeState s x) (some part) x.pa n (x.pol = 0)
  have hl := State.launches_readPhys (homeState s x) (some part) x.pa n (x.pol = 0)
  have hhome : (homeState s x).launches = s.launches := by unfold homeState; split <;> rfl
  rw [hread] at hr hl
  exact ⟨(untouched_homeState s x).trans hr, hl.trans hhome⟩

/-- The state after an atomic on memory, with its interval's mark and its acknowledgement (R229, R460). -/
def atomState (t : State) (writes g : Bool) (xs : List (Xlat × Nat)) (addr : BitVec 56) (way : Way) : State :=
  withAck (if writes && externalWrite xs then t.irrevocable else t) (writes && g) addr way

theorem atomState_facts {s t : State} (ht : Untouched s t) (hl : t.launches = s.launches) (writes g : Bool) (xs : List (Xlat × Nat))
    (addr : BitVec 56) (way : Way) : let u := atomState t writes g xs addr way
    u.mem = t.mem ∧ Awaits s.ctx u.ctx (if writes && g then [addr] else []) ∧ u.thr = s.thr ∧
      (∀ c, (u.core c).spad = (s.core c).spad) ∧ SameRest s u := by
  intro u
  obtain ⟨hacks, hthr, hmem, hspad⟩ := irrevocable_facts t (writes && externalWrite xs)
  have haw := awaits_withAck (if writes && externalWrite xs then t.irrevocable else t) (writes && g) addr way
  rw [Awaits, hacks, ht.ctx] at haw
  refine ⟨(mem_withAck ..).trans hmem, haw, (thr_withAck ..).trans (hthr.trans ht.thr),
    fun c => (spad_withAck ..).trans ((hspad c).trans (by rw [ht.core])), ?_⟩
  refine (sameRest_of_untouched ht hl).trans (SameRest.trans ?_ (sameRest_withAck ..))
  split
  · exact .onCtx t fun c => { c with irrevocable := true }
  · exact .refl t

section
variable {s s1 : State} {r : AtomArgs} {x : Xlat} {l : List Byte} {t : State} (h : CleanArgs s r)
  (halign : (s.thr.readB r.b).val.toNat % r.n = 0)
  (hx : s.xlateRange s.ctx.agent .atomic (s.thr.readB r.b).val r.n = (.ok [(x, r.n)], s1)) (hlocal : x.remote = none)
  (hshed : s1.shedPieces [(x, r.n)] = false) (hfree : Free s r.cls)
  (hatom : s1.atomAt (some s1.ctx.id) s1.ctx.part x r.n (s1.atomNew r) = (l, false, t))
include h halign hx hlocal hshed hfree hatom

/-- An atomic on a word of this module's memory is performed at its issue (log 9). -/
theorem atomGlobal_performs : (s.atomGlobal r).out =
    .next ((atomState t (newWord s1 r l).isSome r.g [(x, r.n)] ((s.thr.readB r.b).val.setWidth 56) (s1.wayOf [(x, r.n)] [] r.cls)).await
      (boardB r.d) (.scalar (loadVal true false l)) ((s.thr.readB r.b).val.setWidth 56) true false
      (s1.wayOf [(x, r.n)] [] r.cls)).slotDone := by
  have hhome : homeOf [(x, r.n)] = none := by simpa [homeOf] using hlocal
  rw [State.atomGlobal, atomSources_go h, poison_of_clean h.base, if_neg Bool.false_ne_true, if_neg (not_not.2 halign), hx]
  dsimp only
  rw [atomPoison_clean h, if_neg Bool.false_ne_true, hhome, inOrder_free hfree, State.atomPieces]
  dsimp only
  rw [hlocal]
  dsimp only
  rw [hshed, if_neg Bool.false_ne_true, hatom]
  exact atomAwait_out ..

end

theorem memoryAtomic_of {mk : Reg → Reg → Reg → BitVec 1 → BitVec 3 → BitVec 1 → Instr} {op : AtomOp} {ix : Reg → Option Reg}
    (hform : AtomForm mk op State.atomGlobal ix) : MemoryAtomic mk op := by
  intro s d b i g ac z hd hb hi n x s1 l s2 halign hx hlocal hshed hfree hread new
  have hn : n = 4 ∨ n = 8 := atomSize_mem z
  have hlen : l.length = n := by
    have hlen := readPhys_length (homeState s1 x) (some s1.ctx.part) x.pa n (x.pol = 0)
    rwa [hread] at hlen
  have hthr : s1.thr = s.thr := by
    have hu := (Untouched.xlateRange s s.ctx.agent .atomic (s.thr.readB b).val n).thr
    rwa [hx] at hu
  have hclean : CleanArgs s ⟨op, d, b, ix i, g = 1, ac, n⟩ := hform.clean hd hb hi
  have hspell : spelled n (fun j => l.getD j 0) = leNat l := by rw [spelled_getD, ← hlen, Nat.mod_eq_of_lt leNat_lt]
  have hnew : (newWord s1 ⟨op, d, b, ix i, g = 1, ac, n⟩ l).map (·.toNat % 256 ^ n) = new := by
    refine (newWord_eq (i := i) hn hlen (hform.index_or i)).trans ?_
    rw [hthr]
    exact congrArg (atomNew op (8 * n) · _ _) hspell.symm
  have hloaded : Loaded true false n (fun j => l.getD j 0) (loadVal true false l) := loaded_list true false (by omega) hlen
  obtain ⟨hs2, hl2⟩ := home_read_frame hread
  cases hw : newWord s1 ⟨op, d, b, ix i, g = 1, ac, n⟩ l with
  | none =>
    have hnone : new = none := by rw [← hnew, hw]; rfl
    have hexec := atomGlobal_performs hclean halign hx hlocal hshed hfree (atomAt_keeps hread (some s1.ctx.id) (.inr hw))
    rw [hw] at hexec
    obtain ⟨hmem, hacks, hthr', hspad, hrest⟩ := atomState_facts hs2 hl2 false (g = 1) [(x, n)] ((s.thr.readB b).val.setWidth 56)
      (s1.wayOf [(x, n)] [] ac)
    refine ⟨_, _, _, _, hloaded, (hform.exec ..).trans hexec, ?_⟩
    rw [hnone]
    exact ⟨hmem, by simpa using hacks, hthr', hspad, hrest⟩
  | some w =>
    have hsome : new = some (w.toNat % 256 ^ n) := by rw [← hnew, hw]; rfl
    have hexec := atomGlobal_performs hclean halign hx hlocal hshed hfree (atomAt_writes hread (some s1.ctx.id) rfl hw)
    rw [hw] at hexec
    obtain ⟨hmem, hacks, hthr', hspad, hrest⟩ := atomState_facts
      (hs2.trans (Untouched.writePhys s2 (some s1.ctx.id) x.pa (leBytes n w.toNat) false (x.pol = 0)))
      ((State.launches_writePhys ..).trans hl2) true (g = 1) [(x, n)] ((s.thr.readB b).val.setWidth 56) (s1.wayOf [(x, n)] [] ac)
    refine ⟨_, _, _, _, hloaded, (hform.exec ..).trans hexec, ?_⟩
    rw [hsome]
    refine ⟨?_, by simpa using hacks, hthr', hspad, hrest⟩
    dsimp only
    rw [leBytes_mod]
    exact hmem

theorem memoryAtomics : MemoryAtomics := by
  refine ⟨?_, ?_, ?_, ?_, ?_, ?_, ?_, ?_⟩
  · exact memoryAtomic_of (.plain (fun _ _ _ _ _ _ _ => rfl) (by decide))
  · exact memoryAtomic_of (.plain (fun _ _ _ _ _ _ _ => rfl) (by decide))
  · exact memoryAtomic_of (.cas fun _ _ _ _ _ _ _ => rfl)
  · exact memoryAtomic_of (.plain (fun _ _ _ _ _ _ _ => rfl) (by decide))
  · exact memoryAtomic_of (.plain (fun _ _ _ _ _ _ _ => rfl) (by decide))
  · exact memoryAtomic_of (.plain (fun _ _ _ _ _ _ _ => rfl) (by decide))
  · exact memoryAtomic_of (.plain (fun _ _ _ _ _ _ _ => rfl) (by decide))
  · exact memoryAtomic_of (.plain (fun _ _ _ _ _ _ _ => rfl) (by decide))

/-- Settles O17: the model's arithmetic on 64-bit numbers is the rule's on the low bytes, and the word is read and written where it
lies. -/
theorem atomics : Obligations.Atomics := ⟨scratchpadAtomics, memoryAtomics⟩

end Sys2Proof.Claims
end
